-- ==== Sys2Proof/Config.lean ====
section
/-! DEFINITION. What an implementation fixes and the spec leaves open: opaque constants that no proof can see, and the few numbers the model names. -/

namespace Sys2Proof.Config

/-- A byte of a store that lost its contents while unpowered (R402, R405): free for every epoch and address. Assumption log 4. -/
opaque freeByte : Nat → Nat → BitVec 8

/-- Whether a signature of the three LMS types of R434 verifies: RFC 8554 fixes the answer and the spec does not restate it.
Arguments: public key, message, signature. Assumption log 5. -/
opaque lmsVerify : List (BitVec 8) → List (BitVec 8) → List (BitVec 8) → Bool

/-- The 5,716 bytes of the device's HSS signature with a given index over a message (R443): they depend on a fused secret.
Assumption log 5. -/
opaque hssSign : Nat → List (BitVec 8) → List (BitVec 8)

/-- The device's 60-byte HSS public key (R443), fused at manufacture. Assumption log 5. -/
opaque hssPublicKey : List (BitVec 8)

/-- Whether the device's own HSS key verifies a signature over a message (R449). Assumption log 5. -/
opaque hssVerify : List (BitVec 8) → List (BitVec 8) → Bool

/-- Byte i of the header entry of a Cask's directory of a given GENERATION (R451): the spec gives neither its MAGIC nor its places. Assumption log 27. -/
opaque caskHeader : Nat → Nat → BitVec 8

/-- A number that a folio's strip table states (R123), read modulo what its rule allows: the spec gives the table no layout.
Arguments: strip table, strip section, which number, and its two indices. Assumption log 37. -/
opaque stripNumber : List (BitVec 8) → Nat → Nat → Nat → Nat → Nat

/-- DURATION of a pre-emption that ends without a transfer, whose command carries no time (R203), for a use count. Assumption log 38. -/
opaque duration : Nat → BitVec 22

/-- Byte i of a MERGE whose two runs are not each sorted (R80, R518), for the order and the bytes merged. Assumption log 41. -/
opaque mergeFree : Bool → List (BitVec 8) → Nat → BitVec 8

/-- A sample of a decoded plane beyond its edge, where a ROI reaches past the picture (R209, R223). Assumption log 42. -/
opaque roiFree : Nat → Nat → Nat

/-- A sample of a picture with concealed units after deblocking and offsets (R218), which the coding standards fix: for the codec, the filled samples and the sample's place.
Assumption log 6. -/
opaque inLoop : Nat → List Nat → Nat → Nat

/-- A number that a folio's network input asks of the regrouping (R118, R119, R223): the spec gives it no place in the folio.
Arguments: the image and which number. Assumption log 69. -/
opaque regroupNumber : List (BitVec 8) → Nat → Nat

/-- A TIFF grey sample of 8 bits whose PhotometricInterpretation is 0 (R256 states bilevel samples alone). Assumption log 71. -/
opaque greyInverse : Nat → Nat

/-- A word of a function's configuration header, and of the capabilities, that R384 and R427 do not give: PCI Express fixes them.
Arguments: 0 the header, 1 the SR-IOV capability, 2 the mailbox's; the function; the offset. Assumption log 74. -/
opaque configWord : Nat → Nat → Nat → BitVec 32

/-- Side of the coding tree units that a video encoder uses for a codec (R241). Assumption log 70. -/
opaque encoderUnit : Nat → Nat

/-- Cycles of a unit of work whose rule gives no cycle count (R198, R199): for the counter charged and what it held. Assumption log 43. -/
opaque workCycles : Nat → Nat → Nat

/-- Cycles an instruction of a core takes beyond what its rules count (R62, R63, R116, R156): for the core and its count of instructions. Assumption log 13. -/
opaque instrWaits : Nat → Nat → Nat

/-- Cycles a requester of a core store waited for its bank during an instruction (R73, R88): for the core and its count of instructions. Assumption log 13. -/
opaque bankWaits : Nat → Nat → Nat

end Sys2Proof.Config
end

