-- ==== Sys2Proof/Syntax.lean ====
section
/-! DEFINITION. The commands of the DX4: one constructor of `Instr` for each row of spec/opcode_table.json, with the operands its rule names.
The table gives the rows no bits and no fields (assumption log 2). -/

namespace Sys2Proof

/-- A packet as the CP reads it from a submission ring (R306): the function, the ring, and its bytes, 64 for each slot. -/
structure Packet where
  fn : Fin 9
  ring : Fin 64
  bytes : List Byte
  deriving DecidableEq, Repr

/-- The three request paths of the MP (R425). -/
inductive MgmtPath where
  | mailbox
  | sideband
  | packet (pk : Packet)
  deriving DecidableEq, Repr

/-- A management operation asked for: its path, and the bytes the MP reads from host memory at the body's ADDR when the operation reads there. -/
structure MgmtReq where
  path : MgmtPath
  data : List Byte
  deriving DecidableEq, Repr

/-- The levels of the straps and pins the MP samples when AON leaves reset (R507, R446). -/
structure Straps where
  sbMode : Bool
  sbAddr : Fin 4
  sysResetN : Bool
  perstN : Bool
  caskPresentN : Bool
  deriving DecidableEq, Repr

/-- What causes a link reset (R480). -/
inductive LinkResetCause where
  | perst | hotReset | dlDown
  deriving DecidableEq, Repr

/-- The one-time fuse word and identity of the die (R473, R496): they are not commanded, but a power-on reads them. -/
structure Fuses where
  devId : Nat
  revId : Nat
  serial : Nat
  arrayMask : Nat
  engineMask : Nat
  channelMask : Nat
  deriving DecidableEq, Repr

/-- A directory entry of the Cask with the bytes it stores (R451). -/
structure CaskEntry where
  kind : Nat
  sha : List Byte
  name : List Byte
  startSector : Nat
  bytes : List Byte
  deriving DecidableEq, Repr

/-- A write-cycle ledger entry of the Cask (R447). -/
structure LedgerEntry where
  seq : Nat
  serial : Nat
  sectors : Nat
  erases : Nat
  lifeA : Nat
  lifeB : Nat
  readOnly : Bool
  deriving DecidableEq, Repr

/-- A pairing entry of the Cask (R449). -/
structure PairEntry where
  keyHash : List Byte
  serial : Nat
  valid : Bool
  signature : List Byte
  deriving DecidableEq, Repr

/-- The medium of an inserted Cask (R446 to R451): identity memory parts, eMMC registers, directory. -/
structure CaskMedia where
  body : List Byte
  signerKey : List Byte
  signature : List Byte
  cid : List Byte
  capacityMiB : Nat
  lifeA : Nat
  lifeB : Nat
  preEol : Nat
  generation : Nat
  entries : List (Nat × CaskEntry)
  ledger : List LedgerEntry
  pairing : List PairEntry
  deriving DecidableEq, Repr

/-- One unit that failed a test of the tasting (R463, R464): whether it failed the first run and the repeat. -/
structure TestFailure where
  kind : Nat
  unit : Nat
  sub : Nat
  test : Nat
  detail : Nat
  failedAgain : Bool
  repaired : Bool
  deriving DecidableEq, Repr

/-- One sync signal that reaches the sync unit in a given arbitration cycle (R340). -/
structure Signal where
  fn : Fin 9
  obj : Nat
  isSet : Bool
  value : Nat
  deriving DecidableEq, Repr

/-- A reading of one temperature sensor (R410): its self-check and its value in 0.25 °C. -/
structure SensorReading where
  valid : Bool
  temp : Int
  deriving DecidableEq, Repr

/-- What the ECC of a DRAM line finds (R373). -/
inductive EccFind where
  | clean | single | uncorrectable
  deriving DecidableEq, Repr

/-- Who asks a memory controller for a write (R364). -/
inductive WriteClass where
  | ordinary | rackOut
  deriving DecidableEq, Repr

/-- Where a write of the host or of the MP goes when its register has no row of its own (R11, R302, R335, R388, R389, R427, R494). -/
inductive RegTarget where
  | bar4 (offset : Nat) (size : Nat)
  | spine (addr : Nat)
  | ringPage (fn : Fin 9) (offset : Nat)
  | resultPage (fn : Fin 9) (offset : Nat)
  | aperture
  | mailboxOp
  | mailboxData (index : Fin 16)
  | msixEntry (fn : Fin 9) (index : Fin 64) (high : Bool)
  | linkControl
  deriving DecidableEq, Repr

/-- The path of a register read (R81, R302, R335, R384, R387, R388, R427, R493): the spine, PF0's BAR4, BAR0 of a function,
a function's configuration header, the SR-IOV capability and the mailbox capability of PF0. -/
inductive ReadPath where
  | spine | bar4
  | functionPage (fn : Fin 9)
  | config (fn : Fin 9)
  | sriov | mailbox
  deriving DecidableEq, Repr

/-- The form of a write to a window entry (R392). -/
inductive WindowAccess where
  | whole (value : BitVec 64)
  | lowHalf (value : BitVec 32)
  | highHalf (value : BitVec 32)
  deriving DecidableEq, Repr

/-- The DMA of a packet, reply, record or fetch that a PCIe error ends (R305, R322, R338). -/
inductive DmaTarget where
  | fetch (fn : Fin 9) (ring : Fin 64)
  | reply (id : Nat)
  | record (fn : Fin 9)
  | data (id : Nat)
  deriving DecidableEq, Repr

/-- Who commits a record (R326, R329), in the order of R329. -/
inductive Producer where
  | mp | cellarer | hp (k : Fin 4) | tp (k : Fin 4) | binder | en (k : Fin 2) | snapshot
  deriving DecidableEq, Repr

/-- The pools of R183 and R401. -/
inductive Pool where
  | core (n : Fin 8) | poolCores | prep | decode (k : Fin 4) | encoders | pageLanes | trackers | binder | dma
  deriving DecidableEq, Repr

/-- The homes of a tensor (R174, R178, R187). -/
inductive HomeKind where
  | core (n : Fin 8) | cellar | dram | saveArea
  deriving DecidableEq, Repr

/-- An error that a read of a core store finds (R74): its line, and whether it is uncorrectable. -/
structure StoreError where
  line : Fin 524288
  ue : Bool
  deriving DecidableEq, Repr

/-- A fault of an array during a pass (R68 to R70): in slot `slot` and position `pos`, what it adds to the column sum of column `index`,
or with `operand` what it adds to the operand of row `index` as it leaves column 254. -/
structure CellFault where
  slot : Fin 4
  operand : Bool
  pos : Fin 64
  index : Fin 256
  error : Int
  deriving DecidableEq, Repr

/-- The fields of a LANE instruction (R149), with the core that runs it and the errors of the store lines it reads (R74). -/
structure LaneArgs where
  core : Fin 8
  vd : Fin 32
  va : Fin 32
  vb : Fin 32
  binding : Fin 256
  mod : Fin 32
  offset : Fin 16777216
  ecc : List StoreError := []
  deriving DecidableEq, Repr

/-- The starting points that a picture's type gives (R221). -/
inductive StartKind where
  | none | idr | cra | bla
  deriving DecidableEq, Repr

/-- The profiles that R206 names. -/
inductive Profile where
  | constrainedBaseline | main | high | hevcMain | hevcMain10 | other
  deriving DecidableEq, Repr

/-- A sequence parameter set: what of it R206, R207, R219 and R225 read.
`extended` says that it uses SVC, MVC or a range, screen-content, scalable or multiview extension; `chroma` is 0 for 4:0:0 and 1 for 4:2:0;
`unit` is the side of its coding units in luma samples, 16 in H.264 and the CTU's in H.265. -/
structure SeqSet where
  id : Nat
  profile : Profile
  extended : Bool
  frameOnly : Bool
  chroma : Nat
  depth : Nat
  width : Nat
  height : Nat
  numRefs : Nat
  unit : Nat
  matrix : Option Nat
  fullRange : Bool
  deriving DecidableEq, Repr

/-- A parameter set or SEI message of an access unit as the header processor parses it (R207, R215, R220): a set with an identifier that cannot be parsed is `badSeq` or `badPic`;
an SEI message has its length, whether it parses, and the picture order count of the recovery point that it names. -/
inductive HeaderUnit where
  | seqSet (x : SeqSet) | picSet (id seq : Nat) | badSeq (id : Nat) | badPic (id : Nat) | sei (bytes : Nat) (ok : Bool) (recovery : Option Int)
  deriving DecidableEq, Repr

/-- An access unit as the header processor parses it (R206, R215): the syntax elements are those the coding standards name and the spec does not restate (assumption log 6).
`layer` is nuh_layer_id; `set` is the picture parameter set its slices name; `laterFirst` is how many pictures that follow it are output before it;
`refs` are the DEC_SEQ numbers and picture order counts it predicts from, `keeps` the DEC_SEQ numbers its slice headers leave marked as references;
`segments` = 0 stands for an access unit that holds no picture. -/
structure ParsedPicture where
  layer : Nat
  headers : List HeaderUnit
  set : Nat
  start : StartKind
  rasl : Bool
  poc : Int
  laterFirst : Nat
  isRef : Bool
  refs : List (Nat × Int)
  keeps : List Nat
  segments : Nat
  auBytes : Nat
  feedIndex : Nat
  deriving DecidableEq, Repr

/-- Decoded sample planes, row-major (R216, R223): the coding standards fix them. -/
structure Planes where
  width : Nat
  height : Nat
  y : List Nat
  cb : List Nat
  cr : List Nat
  deriving DecidableEq, Repr

/-- What an engine reports of a picture (R216, R218): the stretches of coding units from the first in error to the end of its slice,
the units that no slice covers or that lie beyond the 600th segment, and the samples reconstructed, after the in-loop filters where no unit is concealed. -/
structure DecodeReport where
  syntaxErrors : List (Nat × Nat)
  missing : List Nat
  planes : Planes
  deriving DecidableEq, Repr

/-- An analysis picture that a prep unit makes (R223, R262): of a picture of a stream, or of a page. -/
inductive PrepJob where
  | picture (stream : Nat) (decSeq : Nat) | page (page : Nat)
  deriving DecidableEq, Repr

/-- The regrouping a network input asks for (R118, R119): padded channels, factor, expansion and origin. -/
structure Regroup where
  cp : Nat
  f : Nat
  e : Nat
  oy0 : Nat
  ox0 : Nat
  deriving DecidableEq, Repr

/-- The processes of ITU-T T.81 (R255). -/
inductive JpegProcess where
  | baseline | progressive | other
  deriving DecidableEq, Repr

/-- The fields of a page file's header that R255, R256 and R258 read: JPEG with its components' horizontal and vertical sampling factors;
PNG with its colour type, depth and interlace method; TIFF with the tags of the directory that IFD_INDEX names. -/
inductive PageFormat where
  | jpeg (process : JpegProcess) (huffman : Bool) (bits : Nat) (comps : List (Nat × Nat))
  | png (colour depth interlace : Nat)
  | tiff (big tiled : Bool) (planar fillOrder photometric compression bits samples predictor t6Options : Nat)
  deriving DecidableEq, Repr

/-- What the page decoder reads from a page file's header (R255): whether it can be parsed, its dimensions and its format's fields. -/
structure ParsedPage where
  parsed : Bool
  width : Nat
  height : Nat
  format : PageFormat
  deriving DecidableEq, Repr

/-- What a lane reports at the end of a band (R256, R257, R260): the rows decoded, by component of the file the lines of samples of those rows, and how decoding stands.
Samples of a palette are its entries' red, green and blue. -/
structure BandResult where
  lane : Fin 4
  rows : Nat
  comps : List (List (List Nat))
  cycles : Nat
  dataBytes : Nat
  endOfData : Bool
  dataError : Bool
  poisoned : Bool
  deriving DecidableEq, Repr

/-- The commands of the DX4, one for each row of spec/opcode_table.json, in the table's order. -/
inductive Instr where
  /-- PWRGD rises (R459). -/
  | powerOn (straps : Straps)
  /-- PWRGD falls (R506). -/
  | powerLoss
  /-- SYS_RESET_N (R458), with the straps sampled at its rise. -/
  | sysReset (straps : Straps)
  /-- PERST_N, hot reset or DL_Down (R480). -/
  | linkReset (cause : LinkResetCause)
  /-- FLR of PF0 (R397). -/
  | pf0Flr
  /-- FLR of VFp (R396); `vf` is p − 1. -/
  | flr (vf : Fin 8)
  /-- The reset of VFp finishes (R173). -/
  | vfResetDone (vf : Fin 8)
  /-- VF Enable and NumVFs are written (R386). -/
  | vfEnableChange (enable : Bool) (numVFs : Fin 9)
  /-- The link's width or speed changes (R400, R498): the codes of HI_LINK_STATUS. -/
  | linkChange (up : Bool) (width : Fin 6) (speed : Fin 6)
  /-- The transmitter has been idle for 1 µs (R398). -/
  | l0sEntry
  /-- The device has been idle for 64 µs (R398); CLKREQ# released by both ends, and the LTR_L1.2_THRESHOLD in ns. -/
  | l1Entry (clkreqReleased : Bool) (ltrThresholdNs : Nat)
  /-- A sensor reaches 115 °C at the analogue trip (R417). -/
  | thermtrip
  /-- The slow clock has not started within 500 ms (R508). -/
  | slowClockTimeout
  /-- CASK_PRESENT_N stays low through the debounce (R454). -/
  | caskInserted (media : CaskMedia)
  /-- Removal confirmed after debounce (R454). -/
  | caskRemoved
  /-- The trace port claims a resource through JTAG (R483). -/
  | traceClaim (resource : Fin 16)
  /-- The trace port releases a resource (R483). -/
  | traceRelease (resource : Fin 16)
  /-- Hardware training ends (R358): bit c of `trained` for a channel whose every step passed, bit c of `prbsOk` for a clean PRBS check. -/
  | hwTrainingDone (trained : BitVec 12) (prbsOk : BitVec 12) (readMargin : Fin 65) (writeMargin : Fin 65)
  /-- The fallback sweep of one channel ends (R359): widest runs in 1/64 UI, and the repeated PRBS check. -/
  | trainingFallbackDone (ch : Fin 12) (readRun : Nat) (writeRun : Nat) (prbsOk : Bool)
  /-- The tasting's tests end (R463). -/
  | tastingDone (failures : List TestFailure)
  /-- The background zeroing or scrub completes (R478). -/
  | dramScrubDone
  /-- A PENDING slot has not reached readiness within 30 s (R438). -/
  | slotTrialTimeout
  /-- The MP restarts (R439). -/
  | mpRestart
  /-- The MP begins delivery to the receivers of a mask (R441). -/
  | firmwareDelivery (receivers : BitVec 59)
  /-- A receiver takes a chunk frame (R441). -/
  | firmwareChunk (receiver : Fin 59) (component : Nat) (index : Nat) (data : List Byte) (crc : Nat)
  /-- The MP reads the bitmaps and resends (R441). -/
  | firmwareResendRound
  /-- A receiver hashes its image (R441). -/
  | receiverRelease (receiver : Fin 59)
  /-- MGT_COMPUTE_RESET (R475, R479). -/
  | computeReset (req : MgmtReq)
  /-- The CP has not answered within 5 ms (R475). -/
  | cpAbortReplyTimeout
  /-- Read completions still owed are dropped after 10 ms (R475). -/
  | readCompletionDrop
  /-- The device restarts after the stopping steps (R478). -/
  | computeResetRestart
  /-- The 1 ms sensor sample (R410). -/
  | sensorSample (readings : List SensorReading)
  /-- The 10 ms tick at or above T_RELEASE (R414). -/
  | thermalReleaseTick
  /-- The 100 ms tick after cooling (R414). -/
  | thermalReturnTick
  /-- The 31.25 ms interval closes (R200): energies in µJ of the 32 monitors of R411. -/
  | accountingInterval (energy : List Nat)
  /-- The 10 ms heartbeat (R486): whether the CP and the Cellarer answer. -/
  | heartbeat (cpAnswers : Bool) (celAnswers : Bool)
  /-- The log buffer is written to flash (R430). -/
  | logFlush
  /-- A domain's idle delay expires (R405). -/
  | domainIdleExpiry (domain : Fin 30)
  /-- A sleep entry completes (R405). -/
  | domainSleepDone (domain : Fin 30)
  /-- A domain finishes waking, or its wake fails (R405, R25). -/
  | domainWakeDone (domain : Fin 30) (ok : Bool)
  /-- A started PLL locks (R408). -/
  | pllLocked (pll : Fin 6)
  /-- A PLL stops (R408). -/
  | pllStop (pll : Fin 6)
  /-- A controller serves a 64-byte read (R373): the line's device address and what ECC finds. -/
  | dramRead (line : Nat) (ecc : EccFind)
  /-- A controller takes a write of a line (R364, R374). -/
  | dramWrite (line : Nat) (data : List Byte) (poison : Bool) (cls : WriteClass)
  /-- A rank's refresh interval elapses (R367 to R369): whether requests are queued, the measured margins of a retraining step in 1/64 UI, and whether the step moved a delay. -/
  | refresh (ch : Fin 12) (rank : Fin 2) (readMargin : Nat) (writeMargin : Nat) (moved : Bool)
  /-- The hold ends (R369). -/
  | retrainHoldDone (ch : Fin 12) (readMargin : Nat) (writeMargin : Nat)
  /-- The 16 ms temperature poll of a channel's ranks (R367): codes of TEMP_RANGE. -/
  | dramTempPoll (ch : Fin 12) (ranges : List (Fin 3))
  /-- A long ALERT_n pulse (R370). -/
  | caParityAlert (ch : Fin 12)
  /-- A short ALERT_n pulse (R371). -/
  | writeCrcAlert (ch : Fin 12)
  /-- A write-CRC interval starts (R371). -/
  | writeCrcIntervalStart (ch : Fin 12)
  /-- A write-CRC interval ends (R371). -/
  | writeCrcIntervalEnd (ch : Fin 12)
  /-- Patrol scrub reads one line (R376). -/
  | patrolScrubLine (ecc : EccFind)
  /-- A rank idle for 256 cycles enters power-down (R365). -/
  | prechargePowerDown (ch : Fin 12) (rank : Fin 2)
  /-- A write of GO to MEM_CH_PATGEN (R382). -/
  | patgenGo (ch : Fin 12) (value : BitVec 32)
  /-- The pattern run ends (R382): mismatched bits and the lowest mismatching lane. -/
  | patgenDone (ch : Fin 12) (errors : Nat) (firstLane : Fin 72)
  /-- A write to CP_SQ_TAIL (R304). -/
  | doorbell (fn : Fin 9) (ring : Fin 64) (tail : BitVec 32)
  /-- A write of CP_RING_CTRL with ENABLE = 1 (R305). -/
  | ringEnable (fn : Fin 9) (ring : Fin 64) (ctrl : BitVec 32)
  /-- A write of CP_RING_CTRL with ENABLE = 0 (R305). -/
  | ringDisable (fn : Fin 9) (ring : Fin 64) (ctrl : BitVec 32)
  /-- A write to CP_RQ_HEAD (R304). -/
  | replyHeadWrite (fn : Fin 9) (ring : Fin 64) (head : BitVec 32)
  /-- A write of CP_RES_CTRL with ENABLE = 1 (R338). -/
  | resultRingEnable (fn : Fin 9) (ctrl : BitVec 32)
  /-- A write of CP_RES_CTRL with ENABLE = 0 (R338). -/
  | resultRingDisable (fn : Fin 9) (ctrl : BitVec 32)
  /-- A write to CP_RES_HEAD (R338). -/
  | resultHeadWrite (fn : Fin 9) (head : BitVec 32)
  /-- A write to HI_WIN_i (R392). -/
  | windowEntryWrite (fn : Fin 9) (index : Fin 256) (access : WindowAccess)
  /-- A host read through a BAR2 window (R393, R394): BAR2 offset and length in bytes. -/
  | windowRead (fn : Fin 9) (offset : Nat) (len : Nat)
  /-- A host write through a BAR2 window (R393, R394). -/
  | windowWrite (fn : Fin 9) (offset : Nat) (data : List Byte)
  /-- The oldest held access reaches 10 ms (R394). -/
  | accessHoldTimeout
  /-- A write to a register that has no row of its own (R494). -/
  | registerWrite (target : RegTarget) (value : BitVec 64)
  /-- A read of an RC register (R11, R493). -/
  | rcRegisterRead (path : ReadPath) (addr : Nat)
  /-- A spine read of one half of a 64-bit counter (R81). -/
  | latchedCounterRead (addr : Nat) (high : Bool)
  /-- A DMA with host memory completes (R322): the in-flight packet's number, and the bytes read when it reads. -/
  | hostDmaDone (id : Nat) (data : List Byte)
  /-- A DMA ends with a PCIe error (R305, R322, R338). -/
  | hostDmaError (target : DmaTarget)
  /-- A fetched packet whose opcode is undefined, or that its function may not send (R310). -/
  | undefinedOpcode (pk : Packet)
  /-- A header wait reaches CP_RING_TIMEOUT (R308), with the signals applied in that cycle (R343). -/
  | headerWaitTimeout (fn : Fin 9) (ring : Fin 64) (signals : List Signal)
  /-- A SYNC_WAIT reaches its expiry cycle (R342), with the signals applied in that cycle (R343). -/
  | syncWaitTimeout (id : Nat) (signals : List Signal)
  | nop (pk : Packet)
  | functionInfo (pk : Packet)
  | partitionCreate (pk : Packet)
  | partitionResize (pk : Packet)
  | partitionDestroy (pk : Packet)
  | folioLoad (pk : Packet)
  | folioUnload (pk : Packet)
  | pipelineCreate (pk : Packet)
  | pipelineDestroy (pk : Packet)
  | accountRead (pk : Packet)
  | streamOpen (pk : Packet)
  | feed (pk : Packet)
  | streamFlush (pk : Packet)
  | streamReset (pk : Packet)
  | streamClose (pk : Packet)
  | snapshot (pk : Packet)
  | clipStart (pk : Packet)
  | clipStop (pk : Packet)
  | encodeKey (pk : Packet)
  | pageSourceOpen (pk : Packet)
  | submitPage (pk : Packet)
  | pageSourceClose (pk : Packet)
  | textTableLoad (pk : Packet)
  | textTableUnload (pk : Packet)
  | tokenizeOpen (pk : Packet)
  | tokenizeFeed (pk : Packet)
  | tokenizeClose (pk : Packet)
  | syncSignal (pk : Packet)
  | syncWait (pk : Packet)
  | syncRead (pk : Packet)
  | binFree (pk : Packet)
  | binShare (pk : Packet)
  | binCount (pk : Packet)
  | binTake (pk : Packet)
  | dmaIn (pk : Packet)
  | dmaOut (pk : Packet)
  | identityStatus (req : MgmtReq)
  | logRead (req : MgmtReq)
  | sensorRead (req : MgmtReq)
  | functionReset (req : MgmtReq)
  | domainPowerOff (req : MgmtReq)
  | domainPowerOn (req : MgmtReq)
  | forcedShutdown (req : MgmtReq)
  | resetPolicy (req : MgmtReq)
  | defectRead (req : MgmtReq)
  | stage (req : MgmtReq)
  | activate (req : MgmtReq)
  | commitSvn (req : MgmtReq)
  | boardRecord (req : MgmtReq)
  | keyEnroll (req : MgmtReq)
  | keyRemove (req : MgmtReq)
  | attest (req : MgmtReq)
  | caskStatus (req : MgmtReq)
  | caskList (req : MgmtReq)
  | caskWrite (req : MgmtReq)
  | caskDelete (req : MgmtReq)
  | pair (req : MgmtReq)
  | unpair (req : MgmtReq)
  /-- Sideband PARAM_LO (R428); `pecOk` says whether the PEC passed. -/
  | paramLo (pecOk : Bool) (data : List Byte)
  | paramHi (pecOk : Bool) (data : List Byte)
  | status (pecOk : Bool)
  | respLo (pecOk : Bool)
  | respHi (pecOk : Bool)
  | alertAck (pecOk : Bool) (value : Byte)
  /-- An I3C target reset pattern (R514). -/
  | sidebandReset
  /-- A producer commits a record (R329): TYPE, priority and the bytes from byte 8 on. -/
  | recordCommit (fn : Fin 9) (producer : Producer) (type : Byte) (prio : Fin 4) (body : List Byte)
  /-- The CP drains a record (R330), with the first word that fails parity, or a failed descriptor (R333). -/
  | recordDrain (fn : Fin 9) (badWord : Option (Fin 136)) (descriptorBad : Bool)
  /-- DELAY_US elapses (R337). -/
  | resultIrqDelay (fn : Fin 9)
  /-- A ready quire is placed (R179 to R181). -/
  | placementDecision (run : Nat) (quire : Nat)
  /-- A free unit of a pool is granted to the next class whose work waits for it (R183). -/
  | drrGrant (pool : Pool)
  /-- The head of a core's placement queue is issued (R182). -/
  | quireIssue (core : Fin 8)
  /-- A quire's writes are all in the store after END (R155). -/
  | quireComplete (core : Fin 8)
  /-- The Cellarer acts on a completion record (R158). -/
  | quireOutcome (core : Fin 8)
  /-- A quire reaches 44,800 cycles (R162). -/
  | quireLong (core : Fin 8)
  /-- A quire reaches 1,048,576 cycles (R162). -/
  | quireWatchdog (core : Fin 8)
  /-- A ready quire requests pre-emption (R185). -/
  | preemptionRequest (run : Nat) (quire : Nat)
  /-- The victim's tensors are racked out (R187). -/
  | preemptionRackOutDone (core : Fin 8)
  /-- The core's sleep-and-wake clear ends (R187), with the time since the request in 0.1 µs. -/
  | preemptionTransferDone (core : Fin 8) (duration : Nat)
  /-- The Cellarer starts moving a tensor (R177): the tensor instance's number and its destination. -/
  | rackMove (tensor : Nat) (dest : HomeKind) (destAddr : Nat)
  /-- The last byte of a move lands (R177), with the errors of the core-store lines it was read from (R74). -/
  | rackMoveDone (tensor : Nat) (ecc : List StoreError)
  /-- A token bucket refills (R196): DRAM group 0 to 2, or fabric stop 3 to 26. -/
  | regulatorRefill (part : Fin 8) (bucket : Fin 27)
  | ctrlNop (core : Fin 8)
  | endQuire (core : Fin 8)
  | fence (core : Fin 8)
  | mark (core : Fin 8) (value : BitVec 32)
  | geom (core : Fin 8) (slotMask : BitVec 4) (index : Fin 4096) (window : Bool)
  /-- WLOAD (R149), with the errors of the store lines of its tile (R74). -/
  | wload (core : Fin 8) (binding : Fin 256) (plane : Fin 4) (diag : Fin 8) (s2 : Bool) (offset : Fin 16777216) (ecc : List StoreError)
  | weightShadowLoaded (core : Fin 8)
  | slot (core : Fin 8) (slot : Fin 4) (binding : Fin 256) (plane : Fin 4) (p : Fin 64) (chain : Fin 256) (p0 : BitVec 32)
  /-- PASS (R149), with the faults of the arrays' cells and the errors of the store lines it meets (R69, R74). -/
  | pass (core : Fin 8) (slotMask : BitVec 4) (neww : Bool) (bank : Bool) (opening : Bool) (block : Fin 512)
      (faults : List CellFault) (ecc : List StoreError)
  /-- FLUSH (R149), with the errors of the store lines it reads (R74). -/
  | flush (core : Fin 8) (slotMask : BitVec 4) (bank : Bool) (shift : Fin 8) (convert : Bool) (chain : Fin 256)
      (outBinding : Fin 256) (colTile : Fin 256) (accSet : Bool) (ecc : List StoreError)
  | epilogueWriteDone (core : Fin 8)
  | laneAdd (a : LaneArgs)
  | laneSub (a : LaneArgs)
  | laneAdds (a : LaneArgs)
  | laneSubs (a : LaneArgs)
  | laneMin (a : LaneArgs)
  | laneMax (a : LaneArgs)
  | laneCmpeq (a : LaneArgs)
  | laneCmplt (a : LaneArgs)
  | laneSel (a : LaneArgs)
  | laneAnd (a : LaneArgs)
  | laneOr (a : LaneArgs)
  | laneXor (a : LaneArgs)
  | laneShl (a : LaneArgs)
  | laneShr (a : LaneArgs)
  | laneShrt (a : LaneArgs)
  | laneAdd32 (a : LaneArgs)
  | laneSub32 (a : LaneArgs)
  | laneMul (a : LaneArgs)
  | laneMac32 (a : LaneArgs)
  | laneExp2n (a : LaneArgs)
  | laneRecip (a : LaneArgs)
  | laneSum32 (a : LaneArgs)
  | laneMaxReduction (a : LaneArgs)
  | laneMinReduction (a : LaneArgs)
  | laneSort32 (a : LaneArgs)
  | laneMerge (a : LaneArgs)
  | laneLoad (a : LaneArgs)
  | laneStore (a : LaneArgs)
  | laneGather (a : LaneArgs)
  | laneScatter (a : LaneArgs)
  | lanePerm (a : LaneArgs)
  | laneStats (a : LaneArgs)
  | laneConvert (a : LaneArgs)
  | laneSplit (a : LaneArgs)
  | laneRecompose (a : LaneArgs)
  | laneSetcnt (a : LaneArgs)
  | laneSetmask (a : LaneArgs)
  /-- The header processor parses the next picture of a stream (R215). -/
  | pictureParse (stream : Nat) (pic : ParsedPicture)
  /-- A picture is dispatched to an engine of its cluster (R215). -/
  | pictureDispatch (stream : Nat) (decSeq : Nat) (engine : Fin 10)
  /-- An engine finishes a picture (R216) after a number of engine cycles. -/
  | pictureDecoded (stream : Nat) (decSeq : Nat) (cycles : Nat) (report : DecodeReport)
  /-- The budget runs out (R217) with a coding unit in progress. -/
  | decodeBudgetExpiry (stream : Nat) (decSeq : Nat) (inUnit : Nat) (report : DecodeReport)
  /-- A prep unit quantises a held picture (R53). -/
  | prepQuantise (stream : Nat) (decSeq : Nat) (unit : Fin 8)
  /-- A prep unit finishes an analysis picture (R223, R228, R262, R263). -/
  | prepPictureDone (job : PrepJob) (unit : Fin 8)
  /-- A batch's oldest picture has waited BATCH_WAIT (R228). -/
  | batchWaitExpiry (batch : Nat)
  /-- A track processor finishes the detections of a picture (R232), from its batch's candidate list. -/
  | detectionFinish (stream : Nat) (decSeq : Nat)
  /-- A prep unit starts a crop job (R130) of a picture's boxes or a page's lines. -/
  | cropJob (job : Nat) (unit : Fin 8)
  /-- A crop job completes (R130). -/
  | cropJobDone (job : Nat)
  /-- A track processor takes the next output picture of a stream (R236). -/
  | trackUpdate (stream : Nat)
  /-- An encoder finishes a picture of a session (R242): the bits it wrote, and whether the chunk ends here. -/
  | encodePictureDone (encoder : Fin 2) (session : Fin 16) (decSeq : Nat) (bytes : List Byte) (cycles : Nat) (endChunk : Bool)
  /-- The snapshot encoder finishes a JPEG (R238, R242): its entropy-coded data. -/
  | snapshotDone (scan : List Byte) (cycles : Nat)
  /-- The page decoder parses a page's header (R255, R258). -/
  | pageHeaderParsed (page : Nat) (hdr : ParsedPage)
  /-- A lane finishes a row band (R257, R260). -/
  | bandDone (page : Nat) (result : BandResult)
  /-- A page's budget runs out (R259). -/
  | pageBudgetExpiry (page : Nat) (rows : Nat) (dataBytes : Nat)
  /-- A track processor finishes a page's lines (R266, R267). -/
  | lineFinish (page : Nat)
  /-- The minimum decode step elapses (R288). -/
  | stepRelease (read : Nat)
  /-- The step quires are issued for a batch of reads (R285). -/
  | decodeStep (batch : Nat)
  /-- The mask unit takes a state update (R287). -/
  | maskUpdate (read : Nat)
  /-- A mask fetch completes (R287). -/
  | maskReady (read : Nat)
  /-- The select unit picks a token for a read (R285). -/
  | tokenSelect (read : Nat)
  /-- PERST_N is released (R459). -/
  | perstNRising
  /-- The MP serves the next step of an operation (R425). -/
  | mpOperationStep
  /-- The I3C controller assigns a dynamic address (R428). -/
  | entdaa (address : Fin 128)
  deriving DecidableEq, Repr

end Sys2Proof
end

