-- ==== Sys2Proof/WellFormed.lean ====
section
/-! DEFINITION. Well-formed commands: the checks an operand must pass that its type does not state. -/

namespace Sys2Proof

/-- The packet a command carries, with the opcode its row names (R316); UNDEFINED_OPCODE carries any opcode. -/
def Instr.packet? : Instr → Option (Option Nat × Packet)
  | .undefinedOpcode pk => some (none, pk)
  | .nop pk => some (some 0x0101, pk)
  | .functionInfo pk => some (some 0x0102, pk)
  | .partitionCreate pk => some (some 0x0201, pk)
  | .partitionResize pk => some (some 0x0202, pk)
  | .partitionDestroy pk => some (some 0x0203, pk)
  | .folioLoad pk => some (some 0x0204, pk)
  | .folioUnload pk => some (some 0x0205, pk)
  | .pipelineCreate pk => some (some 0x0206, pk)
  | .pipelineDestroy pk => some (some 0x0207, pk)
  | .accountRead pk => some (some 0x0208, pk)
  | .streamOpen pk => some (some 0x0301, pk)
  | .feed pk => some (some 0x0302, pk)
  | .streamFlush pk => some (some 0x0303, pk)
  | .streamReset pk => some (some 0x0304, pk)
  | .streamClose pk => some (some 0x0305, pk)
  | .snapshot pk => some (some 0x0306, pk)
  | .clipStart pk => some (some 0x0307, pk)
  | .clipStop pk => some (some 0x0308, pk)
  | .encodeKey pk => some (some 0x0309, pk)
  | .pageSourceOpen pk => some (some 0x0401, pk)
  | .submitPage pk => some (some 0x0402, pk)
  | .pageSourceClose pk => some (some 0x0403, pk)
  | .textTableLoad pk => some (some 0x0501, pk)
  | .textTableUnload pk => some (some 0x0502, pk)
  | .tokenizeOpen pk => some (some 0x0503, pk)
  | .tokenizeFeed pk => some (some 0x0504, pk)
  | .tokenizeClose pk => some (some 0x0505, pk)
  | .syncSignal pk => some (some 0x0601, pk)
  | .syncWait pk => some (some 0x0602, pk)
  | .syncRead pk => some (some 0x0603, pk)
  | .binFree pk => some (some 0x0701, pk)
  | .binShare pk => some (some 0x0702, pk)
  | .binCount pk => some (some 0x0703, pk)
  | .binTake pk => some (some 0x0704, pk)
  | .dmaIn pk => some (some 0x0801, pk)
  | .dmaOut pk => some (some 0x0802, pk)
  | _ => none

/-- The OPCODE of a packet, bytes 0 and 1 (R306). -/
def Packet.opcode (pk : Packet) : Nat := leNat (pk.bytes.take 2)

/-- The slots a packet says it occupies: SLOTS + 1 (R306). -/
def Packet.slots (pk : Packet) : Nat := (leNat ((pk.bytes.drop 2).take 1)) % 8 + 1

/-- A packet has 64 bytes for each slot its header counts (R301, R306). -/
def Packet.wf (pk : Packet) : Bool := pk.bytes.length == 64 * pk.slots

/-- A host access through a window stays within a 4 KiB page (R393). -/
def windowAccessOk (offset len : Nat) : Bool := decide (1 ≤ len) && decide (offset % 4096 + len ≤ 4096)

/-- The checks of a command's operands. -/
def Instr.wf (i : Instr) : Bool :=
  match i.packet? with
  | some (some op, pk) => pk.wf && pk.opcode == op
  | some (none, pk) => pk.wf
  | none =>
    match i with
    | .windowRead _ offset len => windowAccessOk offset len
    | .windowWrite _ offset data => windowAccessOk offset data.length
    | .paramLo _ data => data.length == 32
    | .paramHi _ data => data.length == 32
    | .dramWrite _ data _ _ => data.length == 64
    | .firmwareChunk _ _ _ data _ => data.length == 4096
    | .sensorSample readings => readings.length == 20
    | .accountingInterval energy => energy.length == 32
    | _ => true

end Sys2Proof
end

