-- ==== Sys2Proof/Machine/State.lean ====
section
/-! DEFINITION. The state of the DX4: every piece of state the spec gives the block, as plain data, and the state at the power-on reset.
A field's docstring gives its width, the rule that names it with the number of the spec's file, its reset value and its meaning. -/

namespace Sys2Proof.Machine

/-- Why a step stops with a fault: no command of this block raises one, since R485 reports every error in the state. -/
inductive Fault where
  /-- Never raised: the table's commands report errors in the state (R485). Safe. -/
  | unreachable
  deriving DecidableEq, Repr

/-- Why a step is refused. -/
inductive Refusal where
  /-- A command that has no meaning in this model yet, by its mnemonic; raised by an arm of `exec` only. Safe. -/
  | notModelled (mnemonic : String)
  deriving DecidableEq, Repr

/-- An indexed store in canonical form: keys strictly rising, no entry equal to what an unlisted key reads as. -/
abbrev Tbl (α : Type) := List (Nat × α)

/-! ### Device, host interface, power -/

/-- The stage that HI_DEVICE_STATUS.STAGE reports (R497). -/
inductive Stage where
  | boot | training | tasting | ready | resetting | fault | recovery | shutdown
  deriving DecidableEq, Repr

/-- The causes of a compute reset, in the order of their ARG codes 1 to 7 (R474). -/
inductive ResetCause where
  | mailbox | sideband | packet | pf0Flr | linkReset | mpRestart | shutdownExit
  deriving DecidableEq, Repr

/-- A compute reset in progress (R475 to R479). -/
structure ResetRun where
  /-- R474: the cause logged. -/
  cause : ResetCause
  /-- R479: FULL of any request that joined. -/
  full : Bool
  /-- R479: a link reset has been added. -/
  link : Bool
  /-- R475 step 3: the CP has not answered yet. -/
  awaitCp : Bool
  /-- R475 step 2: in-flight packets whose host reads are still owed. -/
  owedReads : List Nat
  /-- R437, R439: the MP restarts within this reset. -/
  mp : Bool
  /-- R478: the restart has run and the tasting has begun. -/
  restarted : Bool
  deriving DecidableEq, Repr

/-- Outcome of a host read (R394, R491). -/
inductive Completion where
  | data (bytes : List Byte)
  | poisoned (bytes : List Byte)
  | unsupportedRequest
  | completerAbort
  deriving DecidableEq, Repr

/-- A window or BAR4 access held for a sleeping domain (R394, R491), as its window entry stood at arrival (R395). -/
structure Held where
  /-- R25: the domain waited for. -/
  dom : Nat
  /-- R385: the function. -/
  fn : Nat
  /-- R393: the device address. -/
  addr : Nat
  /-- R393: read length; 0 for a write. -/
  len : Nat
  /-- R393: bytes of a write. -/
  data : List Byte
  /-- R491: a BAR4 access. -/
  isReg : Bool
  deriving DecidableEq, Repr

/-- What leaves the device: the model's own list of outputs (assumption log 7). -/
inductive Out where
  /-- A reply entry written to the reply ring (R314): function, host address, 32 bytes. -/
  | reply (fn : Nat) (addr : Nat) (bytes : List Byte)
  /-- A record entry group written to the host result ring (R336). -/
  | record (fn : Nat) (addr : Nat) (bytes : List Byte)
  /-- A write to host memory named by a packet or the mailbox (R385). -/
  | hostWrite (fn : Nat) (addr : Nat) (bytes : List Byte)
  /-- A bulk read of host memory asked for (R322, R401): function, address, length, Relaxed Ordering (R385). -/
  | hostRead (fn : Nat) (addr : Nat) (len : Nat) (relaxed : Bool)
  /-- An MSI-X message (R313, R337). -/
  | msix (fn : Nat) (vector : Nat)
  /-- A completion of a host read (R394, R491). -/
  | completion (fn : Nat) (c : Completion)
  /-- An error logged through AER of a function (R394, R485). -/
  | aer (fn : Nat) (code : Nat)
  /-- A spine read's data (R81, R493). -/
  | spineData (value : Nat)
  /-- A sideband answer (R428): bytes of a block read, or a NACK. -/
  | sideband (bytes : List Byte)
  | sidebandNack
  /-- A fabric access that completes with an address error (R18, R363): its address. -/
  | addressError (addr : Nat)
  /-- THERMTRIP_N asserted (R417). -/
  | thermtrip
  /-- JTAG status of a claim: granted or the code RESOURCE_HELD (R483). -/
  | jtag (granted : Bool)
  /-- A firmware header or chunk frame sent over the spine (R441): component and chunk, 2^32 for the header frame. -/
  | frame (receivers : List Nat) (component : Nat) (chunk : Nat)
  deriving DecidableEq, Repr

/-- The device as a whole. -/
structure Dev where
  /-- 1 bit; R458 (17); reset 0 DESIGN CHOICE 0 (log 3); PWRGD has risen and the power-on sequence has begun. -/
  pwrgd : Bool := false
  /-- word; R473, R496 (17, 18); reset DESIGN CHOICE a full DX4-32 of stepping A0 (log 8); the one-time fuse word and the identity. -/
  fuses : Fuses := { devId := 0x4D20, revId := 0x10, serial := 0, arrayMask := 0, engineMask := 0, channelMask := 0 }
  /-- 3 bits; R497 (18); reset 0b000 BOOT; HI_DEVICE_STATUS.STAGE. -/
  stage : Stage := .boot
  /-- 1 bit; R497 (18); reset 0; HI_DEVICE_STATUS.DEGRADED. -/
  degraded : Bool := false
  /-- 1 bit; R497 (18); reset 0; HI_DEVICE_STATUS.DEVICE_FAULT. -/
  deviceFault : Bool := false
  /-- 6 bits; R497 (18); reset 0; HI_DEVICE_STATUS.ARRAYS. -/
  arrays : Nat := 0
  /-- 6 bits; R497 (18); reset 0; HI_DEVICE_STATUS.ENGINES. -/
  engines : Nat := 0
  /-- 4 bits; R497 (18); reset 0; HI_DEVICE_STATUS.CHANNELS. -/
  channels : Nat := 0
  /-- 4 bits; R497 (18); reset 0; HI_DEVICE_STATUS.CORES. -/
  cores : Nat := 0
  /-- record; R507, R446 (19, 16); reset DESIGN CHOICE SMBus, address 0x4C, PERST_N and SYS_RESET_N high, no Cask (log 3); straps and pins as last sampled. -/
  straps : Straps := { sbMode := false, sbAddr := 0, sysResetN := true, perstN := true, caskPresentN := true }
  /-- 1 bit; R417 (15); reset 0; THERMTRIP_N has been asserted. -/
  thermtrip : Bool := false
  /-- 1 bit; R459 (17); reset 0; HI is ready. -/
  hiReady : Bool := false
  /-- 1 bit; R463 (17); reset 0; the tasting of this start has ended. -/
  tasted : Bool := false
  /-- 1 bit; R459, R478 (17); reset 0; the background DRAM write of this start has ended. -/
  scrubbed : Bool := false
  /-- record or none; R475 (17); reset none; the compute reset in progress. -/
  reset : Option ResetRun := none
  /-- list of 16-byte entries; R468, R469 (17); reset empty, DESIGN CHOICE (log 8); the defect list, sorted by KIND, UNIT, SUB: KIND, UNIT, SUB, TEST, BOOT, DETAIL. -/
  defects : List (Nat × Nat × Nat × Nat × Nat × Nat) := []
  /-- list; R463 (17); reset empty; arrays logged ARRAY_OUT since the last tasting, as 4·core + array. -/
  arrayOut : List Nat := []
  /-- 1 bit; R486 (17); reset 0; the CP has missed 10 heartbeats. -/
  cpStalled : Bool := false
  /-- 1 bit; R486 (17); reset 0; the Cellarer has missed 10 heartbeats. -/
  celStalled : Bool := false
  /-- count; R486 (17); reset 0; heartbeats the CP has missed in succession. -/
  cpMisses : Nat := 0
  /-- count; R486 (17); reset 0; heartbeats the Cellarer has missed in succession. -/
  celMisses : Nat := 0
  /-- 1 bit; R508 (19); reset 0; the slow clock has failed to start and the MP stays in recovery. -/
  slowClockDead : Bool := false
  deriving DecidableEq, Repr

/-- One MSI-X vector (R383, R489): message address, data and mask, as the PCIe Base Specification lays the table out. -/
structure Msix where
  addr : BitVec 64 := 0
  data : BitVec 32 := 0
  masked : Bool := true
  pending : Bool := false
  deriving DecidableEq, Repr

/-- The PCIe endpoint (R383 to R401, R495 to R498). -/
structure Hi where
  /-- 1 bit; R498 (18); reset 0; HI_LINK_STATUS.LINK_UP. -/
  linkUp : Bool := false
  /-- 3 bits; R498 (18); reset 0b000; HI_LINK_STATUS.PM_STATE. -/
  pmState : Nat := 0
  /-- 4 bits; R498 (18); reset 0; HI_LINK_STATUS.WIDTH. -/
  width : Nat := 0
  /-- 3 bits; R498 (18); reset 0; HI_LINK_STATUS.SPEED. -/
  speed : Nat := 0
  /-- 32 bits; R498 (18); reset 0; HI_LINK_CHANGES. -/
  linkChanges : Nat := 0
  /-- 4 bits; R389 (14); reset 0; HI_REG_APERTURE.SLICE. -/
  slice : Nat := 0
  /-- 9 × 256 × 64 bits; R392 (14); reset 0; HI_WIN_i of function f at 256·f + i. -/
  win : Tbl (BitVec 64) := []
  /-- 9 × 256 × 33 bits; R392 (14); reset none; low halves written and held for their high half. -/
  winLow : Tbl (Option (BitVec 32)) := []
  /-- 1 bit; R386, R397 (14); reset 0 PRESUMED 0 (PCI Express, log 9); VF Enable of the SR-IOV capability. -/
  vfEnable : Bool := false
  /-- 4 bits; R386 (14); reset 0 PRESUMED 0 (PCI Express, log 9); NumVFs. -/
  numVFs : Nat := 0
  /-- 4 bits; R398 (14); reset 0 PRESUMED 0 (PCI Express, log 9); L0s, L1, L1.1 and L1.2 enables, bits 0 to 3. -/
  aspm : BitVec 4 := 0
  /-- 32 bits; R384, R422 (14, 16); reset DESIGN CHOICE 0 (log 8); Subsystem Vendor ID and Subsystem ID, taken from the board record at power-on. -/
  subsystem : BitVec 32 := 0
  /-- 9 × 64 entries; R383, R489 (14, 18); reset masked PRESUMED (PCI Express, log 9); the MSI-X table and pending bits, vector v of function f at 64·f + v. -/
  msix : Tbl Msix := []
  /-- list; R25, R394, R491 (01, 14, 18); reset empty; accesses held for a sleeping domain, oldest first. -/
  held : List Held := []
  deriving DecidableEq, Repr

/-- The states of a switched domain (R402). -/
inductive DomState where
  | on | sleep | ret | off
  deriving DecidableEq, Repr

/-- What a domain is doing (R405, R407). -/
inductive DomMove where
  | none | entering | waking
  deriving DecidableEq, Repr

/-- One switched domain. -/
structure Dom where
  /-- R402: SLEEP until first woken (log 10). -/
  st : DomState := .sleep
  /-- R405: a sleep entry or wake under way. -/
  move : DomMove := .none
  /-- R407: in OFF by a management switch-off or thermal shutdown. -/
  switchedOff : Bool := false
  /-- R25, R407: a wake is asked for. -/
  wakeReq : Bool := false
  deriving DecidableEq, Repr

/-- Power, clocks and thermal control (R402 to R419). -/
structure Pwr where
  /-- 30 entries; R402, R419 (15); reset SLEEP DEDUCED (log 10); the domains by the index of R405. -/
  dom : Tbl Dom := []
  /-- 6 bits; R419 (15); reset 0; PWR_PLL_STATUS.LOCKED: PLL_F, PLL_A, PLL_C, PLL_M0 to PLL_M2. -/
  pllLocked : BitVec 6 := 0
  /-- 6 bits; R408 (15); reset 0; PLLs started and not locked. -/
  pllStarting : BitVec 6 := 0
  /-- 1 bit; R415, R419 (15); reset 0; PWR_PLL_STATUS.A_HALVED. -/
  halved : Bool := false
  /-- 32 bits; R419 (15); reset 0x050A0A0A; PWR_IDLE_CTRL. -/
  idleCtrl : BitVec 32 := 0x050A0A0A
  /-- 32 bits; R413, R419 (15); reset 0x6C645F5A; PWR_THERM_CTRL: T_SHUTDOWN 108, T_HALVE 100, T_RELEASE 95, T_WARN 90. -/
  thermCtrl : BitVec 32 := 0x6C645F5A
  /-- 2 bits; R419 (15); reset 0; thermal shutdown holds (STAGE 0b11). -/
  shutdown : Bool := false
  /-- 12 bits signed; R410, R419 (15); reset DESIGN CHOICE 0 (log 8); PWR_THERM_STATUS.TJ in 0.25 °C. -/
  tj : Int := 0
  /-- 20 readings; R410 (15); reset not valid, DESIGN CHOICE (log 8); the latest sample of each sensor. -/
  sensors : List SensorReading := []
  /-- list; R414, R419 (15); reset empty; released cores, latest release first. -/
  released : List Nat := []
  /-- 1 bit; R413 (15); reset 0; THERMAL_WARN has been reported and not cleared. -/
  warned : Bool := false
  /-- count; R416 (15); reset 0; successive samples at or above T_SHUTDOWN. -/
  hotSamples : Nat := 0
  /-- count; R414 (15); reset 0; successive samples below T_RELEASE − 10 °C, in ms. -/
  coolSamples : Nat := 0
  /-- 10 bits; R412, R419 (15); reset 300; PWR_POWER_LIMIT.LIMIT_W. -/
  limitW : Nat := 300
  /-- 16 bits; R412, R419 (15); reset 0; PWR_POWER_LIMIT.AVG. -/
  avg : Nat := 0
  /-- 1 bit; R412 (15); reset 0; the interval acts as one with Tj at T_RELEASE. -/
  powerHot : Bool := false
  /-- 1 bit; R412 (15); reset 1 DESIGN CHOICE 1 (log 8); the interval acts as one below the restore threshold. -/
  powerCool : Bool := true
  /-- 5 bits; R419, R493 (15, 18); reset 0; PWR_SENSOR_SEL of BAR4. -/
  sensorSel : BitVec 5 := 0
  /-- 5 bits; R419, R493 (15, 18); reset 0; PWR_SENSOR_SEL of the spine. -/
  sensorSelSpine : BitVec 5 := 0
  /-- 5 bits; R419, R493 (15, 18); reset 0; PWR_ENERGY_SEL of BAR4. -/
  energySel : BitVec 5 := 0
  /-- 5 bits; R419, R493 (15, 18); reset 0; PWR_ENERGY_SEL of the spine. -/
  energySelSpine : BitVec 5 := 0
  /-- 32 × 64 bits; R411, R419 (15); reset 0; energy since power-on of each monitor in µJ. -/
  energy : Tbl Nat := []
  /-- 16 bits; R419 (15); reset 0; PWR_THROTTLE_COUNT.RELEASES. -/
  releases : Nat := 0
  /-- 16 bits; R419 (15); reset 0; PWR_THROTTLE_COUNT.HALVINGS. -/
  halvings : Nat := 0
  deriving DecidableEq, Repr

/-! ### Management, boot flash and the Cask -/

/-- The states of a firmware slot (R438). -/
inductive SlotState where
  | empty | staged | pending | active | bad
  deriving DecidableEq, Repr

/-- A firmware slot of the boot flash (R421, R438). -/
structure FwSlot where
  /-- R456: STATE. -/
  st : SlotState := .empty
  /-- R456: SVN. -/
  svn : Nat := 0
  /-- R456: TRIES. -/
  tries : Nat := 0
  /-- R436: the package as stored. -/
  image : List Byte := []
  deriving DecidableEq, Repr

/-- An event-log entry (R429), its CRC computed when read. -/
structure LogEntry where
  seq : Nat
  boot : Nat
  stamp : Nat
  code : Nat
  severity : Nat
  source : Nat
  unit : Nat
  arg : Nat
  deriving DecidableEq, Repr

/-- A management operation a path has handed to the MP (R423 to R426). -/
structure MgmtOp where
  /-- R423: the low byte of its packet opcode. -/
  op : Nat
  /-- R423: body bytes from packet byte 16, 64 of them. -/
  body : List Byte
  /-- R427: bytes the MP read from host memory at ADDR. -/
  data : List Byte
  /-- R425: 0 mailbox, 1 sideband, 2 packet. -/
  path : Nat
  /-- R315: the in-flight packet of path 2. -/
  id : Nat
  /-- R425: steps of at most 15 ms still to run. -/
  steps : Nat
  deriving DecidableEq, Repr

/-- The registers of one operation path: the mailbox (R427) or the sideband (R428). -/
structure OpRegs where
  /-- 8 bits: OP of MBX_CTRL, or the last sideband GO. -/
  op : Nat := 0
  busy : Bool := false
  done : Bool := false
  overlap : Bool := false
  /-- 16 bits. -/
  status : Nat := 0
  /-- 16 bits. -/
  detail : Nat := 0
  /-- 64 bits. -/
  counter0 : Nat := 0
  /-- 64 bits. -/
  counter1 : Nat := 0
  /-- 64 bytes: MBX_DATA, or the sideband's parameter bytes. -/
  data : List Byte := List.replicate 64 0
  /-- 64 bytes: the sideband's response bytes; the mailbox answers in MBX_DATA. -/
  resp : List Byte := List.replicate 64 0
  deriving DecidableEq, Repr

/-- Firmware delivery to one receiver (R441). -/
structure Receiver where
  /-- R441 step 1: held in reset. -/
  inReset : Bool := true
  /-- R441 step 2: the component. -/
  comp : Nat := 0
  /-- R441 step 2: the header's LENGTH. -/
  length : Nat := 0
  /-- R441 step 2: the header's SHA-256. -/
  sha : List Byte := []
  /-- R441 step 3: chunks stored, the set bits of the bitmap. -/
  chunks : Tbl (List Byte) := []
  deriving DecidableEq, Repr

/-- The management processor, the boot flash and the AON tables (R420 to R457, R476, R482). -/
structure Mgt where
  /-- 2 bits; R456 (16); reset DESIGN CHOICE 0 (log 8); MGT_STATUS.MP_STATE: 0 booting, 1 running, 2 recovery, 3 restarting. -/
  mpState : Nat := 0
  /-- 32 bits; R456 (16); reset DESIGN CHOICE 0 (log 8); MGT_BOOT_COUNT. -/
  bootCount : Nat := 0
  /-- slot record; R438, R456 (16); reset DESIGN CHOICE EMPTY (log 8); firmware slot A and MGT_SLOT_A. -/
  slotA : FwSlot := {}
  /-- slot record; R438, R456 (16); reset DESIGN CHOICE EMPTY (log 8); firmware slot B and MGT_SLOT_B. -/
  slotB : FwSlot := {}
  /-- 1 bit or none; R456 (16); reset DESIGN CHOICE none (log 8); the slot booted: 0 A, 1 B. -/
  booted : Option Nat := none
  /-- 7 bits; R440 (16); reset DESIGN CHOICE 0 (log 8); the fuse SVN. -/
  fuseSvn : Nat := 0
  /-- 1 bit; R435, R456 (16); reset DESIGN CHOICE 0 (log 8); root 0 revoked. -/
  root0Revoked : Bool := false
  /-- 32 bytes; R435 (16); reset DESIGN CHOICE zeros (log 8); ROOT_HASH0. -/
  rootHash0 : List Byte := List.replicate 32 0
  /-- 32 bytes; R435 (16); reset DESIGN CHOICE zeros (log 8); ROOT_HASH1. -/
  rootHash1 : List Byte := List.replicate 32 0
  /-- 8 × 56 bytes; R435 (16); reset DESIGN CHOICE empty (log 8); the enrolled pack keys. -/
  keys : Tbl (List Byte) := []
  /-- up to 4 KiB; R422 (16); reset DESIGN CHOICE empty (log 8); the board record as stored. -/
  board : List Byte := []
  /-- ring of 393,216 entries; R421, R430 (16); reset DESIGN CHOICE empty (log 8); the flash log, oldest first. -/
  flashLog : List LogEntry := []
  /-- 1,024 entries; R430 (16); reset empty; the AON log buffer, oldest first. -/
  logBuf : List LogEntry := []
  /-- 32 bits; R429, R456 (16); reset DESIGN CHOICE 0 (log 8); entries ever made, so SEQ of the next. -/
  logSeq : Nat := 0
  /-- count; R430 (16); reset 0; unwritten entries overwritten since the last entry written. -/
  logLost : Nat := 0
  /-- 40 bits; R444, R456 (16); reset DESIGN CHOICE 0 (log 8); MGT_LEAF_NEXT. -/
  leafNext : Nat := 0
  /-- 40 bits; R444, R456 (16); reset DESIGN CHOICE 0 (log 8); MGT_LEAF_RESERVED, the largest NEXT of the journal. -/
  leafReserved : Nat := 0
  /-- 59 bits; R442, R456 (16); reset 0; MGT_FW_UNAVAIL, as the list of its set bits, rising. -/
  unavail : List Nat := []
  /-- 59 entries; R441 (16); reset empty; delivery state of the receivers being served. -/
  receivers : Tbl Receiver := []
  /-- count; R441 (16); reset 0; resend rounds run since the broadcast. -/
  rounds : Nat := 0
  /-- 48 bits; R456 (16); reset 0; MGT_AON_COUNT, advanced by 1,024 at each accounting interval (log 11). -/
  aonCount : Nat := 0
  /-- 16 × 8 bits; R482 to R484 (17); reset DESIGN CHOICE R483's owners after power-on, resource 0 held by the MP (log 8); MGT_CLAIM_n holders, 0 free. -/
  claims : Tbl Nat := [(0, 1)]
  /-- 8 bits; R476, R499 (17, 18); reset 0x00; RESET_POLICY.KEEP. -/
  keep : BitVec 8 := 0
  /-- 1 bit; R476, R499 (17, 18); reset 1; RESET_POLICY.SCRUB. -/
  scrub : Bool := true
  /-- policy or none; R476, R499 (17, 18); reset none; a policy accepted during a compute reset. -/
  nextPolicy : Option (BitVec 8 × Bool) := none
  /-- registers; R427 (16); reset 0; MBX_CTRL to MBX_DATA. -/
  mbx : OpRegs := {}
  /-- op and bytes or none; R439 (16); reset none; a mailbox GO held while the MP restarts. -/
  heldGo : Option MgmtOp := none
  /-- registers; R428 (16); reset 0 DESIGN CHOICE 0 (log 8); the sideband's operation state. -/
  sb : OpRegs := {}
  /-- 1 bit; R428 (16); reset 0; SMBALERT# or the in-band interrupt is asserted. -/
  alert : Bool := false
  /-- 7 bits or none; R428, R514 (16, 19); reset none; the dynamic I3C address. -/
  dynAddr : Option Nat := none
  /-- list; R425 (16); reset empty; operations the MP has accepted, one for each path, in the order it will serve them. -/
  ops : List MgmtOp := []
  /-- 1 bit; R437, R456 (16); reset 0; MGT_STATUS.UPDATE_BUSY. -/
  updateBusy : Bool := false
  /-- up to 5,972 bytes; R445 (16); reset empty; the last attestation report. -/
  report : List Byte := []
  /-- count; R445 (16); reset 0; reports signed in the present second (log 11). -/
  signedThisSecond : Nat := 0
  /-- count; R200, R445 (07, 16); reset 0; accounting intervals of the present second (log 11). -/
  intervals : Nat := 0
  deriving DecidableEq, Repr

/-- The Cask (R446 to R457). -/
structure Cask where
  /-- 1 bit; R457 (16); reset 0; CASK_STATUS.PRESENT. -/
  present : Bool := false
  /-- medium; R447, R451 (16); reset empty; what the inserted Cask holds. -/
  media : Option CaskMedia := none
  /-- 1 bit; R448, R457 (16); reset 0; CASK_STATUS.IDENTITY_VALID. -/
  identityValid : Bool := false
  /-- 2 bits; R450, R457 (16); reset 0; CASK_STATUS.LIFE_STATE: 0 normal, 1 WORN, 2 READ_ONLY. -/
  lifeState : Nat := 0
  /-- 1 bit; R450 (16); reset 0; CASK_LIFE has been sent for the present state. -/
  lifeSent : Bool := false
  /-- 32 bits; R457 (16); reset 0; CASK_ERROR_COUNT. -/
  errorCount : Nat := 0
  deriving DecidableEq, Repr

/-! ### DRAM channels and the device's memories -/

/-- The states of a channel (R382). -/
inductive ChState where
  | absent | training | ready | hold | failed | fenced
  deriving DecidableEq, Repr

/-- A request waiting at a channel in RETRAIN_HOLD (R369). -/
structure MemReq where
  line : Nat
  /-- none for a read. -/
  write : Option (List Byte × Bool)
  ecc : EccFind
  deriving DecidableEq, Repr

/-- One DDR4 channel (R355 to R382). -/
structure Chan where
  /-- 3 bits; R382; MEM_CH_STATUS.STATE. -/
  st : ChState := .absent
  /-- 2 bits; R382; FENCE_CAUSE. -/
  fence : Nat := 0
  /-- 2 bits; R382; TEMP_RANGE. -/
  temp : Nat := 0
  /-- 2 bits; R367, R382; FGR. -/
  fgr : Nat := 0
  /-- 1 bit; R382; HOT. -/
  hot : Bool := false
  /-- 1 bit; R382; SELF_REFRESH. -/
  selfRefresh : Bool := false
  /-- R356, R362: x16 devices. -/
  x16 : Bool := false
  /-- R356: ranks fitted. -/
  ranks : Nat := 0
  /-- R356: capacity in GiB. -/
  gib : Nat := 0
  /-- 32 bits; R382; MEM_CH_ECC_CE_COUNT. -/
  ce : Nat := 0
  /-- 32 bits; R382; MEM_CH_ECC_UE_COUNT. -/
  ue : Nat := 0
  /-- R382: MEM_CH_ECC_UE_ADDR, VALID with the line's device address. -/
  ueAddr : Option Nat := none
  /-- 16 bits; R382; MEM_CH_RETRY_COUNT.CRC. -/
  crc : Nat := 0
  /-- 16 bits; R382; MEM_CH_RETRY_COUNT.PARITY. -/
  parity : Nat := 0
  /-- 16 bits; R382; MEM_CH_RETRAIN_COUNT.HOLDS. -/
  holds : Nat := 0
  /-- 16 bits; R382; MEM_CH_RETRAIN_COUNT.MOVES. -/
  moves : Nat := 0
  /-- 8 bits; R382; MEM_CH_MARGIN.WRITE. -/
  marginW : Nat := 0
  /-- 8 bits; R382; MEM_CH_MARGIN.READ. -/
  marginR : Nat := 0
  /-- 32 bits; R382; MEM_CH_PATGEN less GO. -/
  patgen : BitVec 32 := 0
  /-- 32 bits; R382; MEM_CH_PATBASE. -/
  patbase : BitVec 32 := 0
  /-- R382: a pattern run is under way. -/
  patRun : Bool := false
  /-- 1 bit; R382; MEM_CH_COMPARE.DONE. -/
  cmpDone : Bool := false
  /-- 23 bits; R382; MEM_CH_COMPARE.ERRORS. -/
  cmpErrors : Nat := 0
  /-- 7 bits; R382; MEM_CH_COMPARE.FIRST_LANE. -/
  cmpLane : Nat := 0
  /-- R368: refreshes issued to ranks 0 and 1. -/
  refreshed : Nat × Nat := (0, 0)
  /-- R368: the next retraining step is a write centring. -/
  writeStep : Bool := false
  /-- R365: ranks 0 and 1 in precharge power-down. -/
  powerDown : Bool × Bool := (false, false)
  /-- R371: a write-CRC interval runs. -/
  writeCrc : Bool := false
  /-- R371: pre-emption rack-out writes queued. -/
  rackOut : Nat := 0
  /-- R372: successive replays of the oldest command in the retry buffer. -/
  replays : Nat := 0
  /-- R364, R369: requests waiting for the end of a hold, oldest first. -/
  queue : List MemReq := []
  /-- R359: the channel still needs the firmware fallback. -/
  needsFallback : Bool := false
  /-- R358 step 4: the PRBS check has failed once. -/
  retried : Bool := false
  deriving DecidableEq, Repr

/-- The DRAM system and its global registers (R360, R361, R376, R381). -/
structure Ddr where
  /-- 12 channels; R355, R382 (13); reset ABSENT DESIGN CHOICE (log 8); the channels with their registers. -/
  ch : Tbl Chan := []
  /-- list; R361, R381 (13); reset DESIGN CHOICE empty (log 8); T, the channels in the interleave, MEM_STATUS.IN_SERVICE and COUNT. -/
  inService : List Nat := []
  /-- 6 bits; R361, R381 (13); reset DESIGN CHOICE 0 (log 8); C_min in GiB, MEM_CAPACITY.C_MIN_GIB. -/
  cMin : Nat := 0
  /-- 1 bit; R360, R381 (13); reset DESIGN CHOICE 0 (log 8); MEM_STATUS.INSUFFICIENT. -/
  insufficient : Bool := false
  /-- 8 bits; R381 (13); reset 24; MEM_SCRUB_CTRL.PERIOD_H. -/
  periodH : BitVec 8 := 24
  /-- 1 bit; R381 (13); reset 1; MEM_SCRUB_CTRL.ENABLE. -/
  scrubEnable : Bool := true
  /-- line address; R376 (13); reset 0; the next line the patrol scrub reads. -/
  patrol : Nat := 0
  deriving DecidableEq, Repr

/-- The contents of DRAM, the cellar store and the core stores, by device address (R18). -/
structure Mem where
  /-- bytes by address; R18 (01); reset 0 DESIGN CHOICE (log 12); canonical: rising addresses, no zero byte listed. -/
  cells : Tbl Byte := []
  /-- set of 64-byte lines; R74, R374 (03, 13); reset empty; lines that carry the poison tag. -/
  poison : Tbl Bool := []
  /-- set of tiles; R44, R45, R75 (02, 03); reset empty; zero-map bits that are set: tensor, plane, block of 256 channels, tile of 64 positions. -/
  zero : List (Nat × Nat × Nat × Nat) := []
  /-- ranges; R402, R405, R458 (15, 17); reset empty; address ranges whose contents were lost, with the epoch of the loss: reads are free values (log 4). -/
  undef : List (Nat × Nat × Nat) := []
  /-- count; R405 (15); reset 0 DESIGN CHOICE 0 (log 4); the model's own: losses so far, the epoch of the next free contents. -/
  epoch : Nat := 0
  deriving DecidableEq, Repr

/-! ### The command processor: rings, in-flight packets, result queues, sync objects, bins -/

/-- One packet ring (R301 to R305), its registers and the packet that holds it in a header wait (R311). -/
structure Ring where
  /-- 58 bits; R303; CP_SQ_BASE.ADDR, as the address. -/
  sqBase : BitVec 64 := 0
  /-- 58 bits; R303; CP_RQ_BASE.ADDR, as the address. -/
  rqBase : BitVec 64 := 0
  /-- 1 bit; R303; CP_RING_CTRL.ENABLE. -/
  enable : Bool := false
  /-- 5 bits; R303; CP_RING_CTRL.LOG2_SLOTS. -/
  log2 : Nat := 0
  /-- 6 bits; R303; CP_RING_CTRL.VECTOR. -/
  vector : Nat := 0
  /-- 32 bits; R303; CP_RING_TIMEOUT.NS. -/
  timeout : BitVec 32 := 0
  /-- 32 bits; R303; CP_SQ_TAIL. -/
  tail : BitVec 32 := 0
  /-- 32 bits; R303; CP_SQ_HEAD. -/
  head : BitVec 32 := 0
  /-- 32 bits; R303; CP_RQ_HEAD. -/
  rqHead : BitVec 32 := 0
  /-- 32 bits; R303; CP_RQ_TAIL. -/
  rqTail : BitVec 32 := 0
  /-- 16 bits; R303; CP_RING_STATUS.INFLIGHT. -/
  inflight : Nat := 0
  configFault : Bool := false
  tailFault : Bool := false
  fetchFault : Bool := false
  stopped : Bool := false
  /-- R305: a reply write has failed, and no further reply of the ring is written. -/
  replyFault : Bool := false
  deriving DecidableEq, Repr

/-- What a packet in flight waits for. -/
inductive Wait where
  /-- R308: its header wait. -/
  | header
  /-- R341: a SYNC_WAIT on an object for a value. -/
  | sync (obj : Nat) (value : Nat)
  /-- R322, R254: a DMA of its data. -/
  | dma
  /-- R313: records of its stream or page source; the reply's counter. -/
  | records (counter : Nat)
  /-- R319: the cores that leave a partition. -/
  | cores (part : Nat)
  /-- R172: the partition becomes FREE. -/
  | partFree (part : Nat)
  /-- R425: the management processor. -/
  | mp
  /-- R210, R251: work of an object (a stream or page source) still to be finished. -/
  | drain (obj : Nat)
  deriving DecidableEq, Repr

/-- A packet in flight (R315). -/
structure Flight where
  /-- R315: its number in fetch order. -/
  id : Nat
  /-- R306: as fetched. -/
  pk : Packet
  /-- R314: CP_SQ_HEAD at its first slot. -/
  slot : BitVec 32
  wait : Wait
  /-- R323: a status decided before the wait ends. -/
  status : Nat := 0
  /-- handles and buffers it has taken, as its opcode uses them. -/
  aux : List Nat := []
  deriving DecidableEq, Repr

/-- A record in a result queue or on its way to one (R325). -/
structure Rec where
  /-- R326. -/
  type : Byte
  /-- R329: priority. -/
  prio : Nat
  /-- R325: bytes 8 onward; the record's length is that of its type. -/
  body : List Byte
  /-- R329: who commits it. -/
  prod : Producer
  /-- R313: what a closing packet that may wait for it names: stream 64 + 4·STREAM_ID, page source one more, encode session two more than 64 + 4·CLIP_ID; 0 none. -/
  obj : Nat
  deriving DecidableEq, Repr

/-- A function's result queue and host result ring (R329 to R338). -/
structure Res where
  /-- R329: records in arrival order, at most 1,024 entries. -/
  q : List Rec := []
  /-- 58 bits; R335; CP_RES_BASE.ADDR, as the address. -/
  base : BitVec 64 := 0
  enable : Bool := false
  /-- 5 bits; R335; CP_RES_CTRL.LOG2_ENTRIES. -/
  log2 : Nat := 0
  /-- 6 bits; R335; CP_RES_CTRL.VECTOR. -/
  vector : Nat := 0
  /-- 16 bits; R335; CP_RES_IRQ.DELAY_US. -/
  delay : Nat := 0
  /-- 16 bits; R335; CP_RES_IRQ.COUNT. -/
  count : Nat := 1
  /-- 32 bits; R335; CP_RES_TAIL. -/
  tail : BitVec 32 := 0
  /-- 32 bits; R335; CP_RES_HEAD. -/
  head : BitVec 32 := 0
  configFault : Bool := false
  headFault : Bool := false
  writeFault : Bool := false
  overrun : Bool := false
  /-- R338: the drain has stopped on a fault. -/
  halted : Bool := false
  /-- 32 bits; R335; CP_RES_LOST. -/
  lost : Nat := 0
  /-- R328: records lost since the previous RECORDS_LOST. -/
  lostSince : Nat := 0
  /-- R328: records lost since the ring was enabled. -/
  lostTotal : Nat := 0
  /-- 32 bits; R325; SEQ of the next record. -/
  seq : BitVec 32 := 0
  /-- R337: records written since the last message. -/
  sinceMsg : Nat := 0
  /-- R331: producers that wait for FULL to clear, with their records, in arrival order. -/
  stalled : List Rec := []
  deriving DecidableEq, Repr

/-- Who holds a buffer of a bin (R349). -/
inductive Holding where
  | free
  | device
  | host (owners : List Nat) (final : Nat)
  deriving DecidableEq, Repr

/-- A buffer of a bin (R347, R349). -/
structure Buf where
  gen : BitVec 32 := 0
  hold : Holding := .free
  deriving DecidableEq, Repr

/-- The command processor (R301 to R354). -/
structure Cp where
  /-- 9 × 64 rings; R303 (11); reset 0; ring r of function f at 64·f + r. -/
  ring : Tbl Ring := []
  /-- up to 4,096; R315 (11); reset empty; packets in flight, in fetch order. -/
  flight : List Flight := []
  /-- count; R315 (11); reset 0; packets fetched so far: the model's number of the next. -/
  nextId : Nat := 0
  /-- 9 queues; R329, R335 (12); reset 0, COUNT 1; result queues and result rings. -/
  res : Tbl Res := []
  /-- 8,192 × 64 bits; R339 (12); reset 0; sync counters, object o of function f at 8,192·f + o. -/
  sync : Tbl Nat := []
  /-- 8 × 8 × up to 65,536; R346 to R349 (12); reset free, generation 0 DESIGN CHOICE (log 8); buffer n of size i of partition p at (8·p + i)·65,536 + n. -/
  buf : Tbl Buf := []
  /-- list; the model's own (log 29); reset empty; numbers of packets whose reply write ends with a PCIe error (R305). -/
  badReplies : List Nat := []
  /-- 32 bits; R354 (12); reset 0; CP_BIN_EMPTY_COUNT. -/
  binEmpty : Nat := 0
  /-- 32 bits; R354, R493 (12, 18); reset 0; CP_SYNC_SEL of BAR4. -/
  syncSel : BitVec 32 := 0
  /-- 32 bits; R354, R493 (12, 18); reset 0; CP_SYNC_SEL of the spine. -/
  syncSelSpine : BitVec 32 := 0
  /-- 32 bits; R354, R493 (12, 18); reset 0; CP_BIN_SEL of BAR4. -/
  binSel : BitVec 32 := 0
  /-- 32 bits; R354, R493 (12, 18); reset 0; CP_BIN_SEL of the spine. -/
  binSelSpine : BitVec 32 := 0
  deriving DecidableEq, Repr

/-! ### Partitions, folios and the Cellarer -/

/-- The states of a partition, in the order of their codes (R172). -/
inductive PartState where
  | free | opened | running | draining | resetting
  deriving DecidableEq, Repr

/-- A partition with the parameters of R169 and R319. -/
structure Part where
  /-- 3 bits; R172, R204: STATE. -/
  st : PartState := .free
  coresMin : Nat := 0
  coresMax : Nat := 0
  fourArray : Bool := false
  share : Nat := 0
  preemptLevel : Nat := 0
  policy : Nat := 0
  subclients : Nat := 0
  /-- MiB. -/
  cellar : Nat := 0
  /-- 256 MiB. -/
  dram : Nat := 0
  /-- GB/s. -/
  dramRate : Nat := 0
  /-- GB/s. -/
  fabricRate : Nat := 0
  /-- KiB. -/
  burst : Nat := 0
  syncCount : Nat := 0
  /-- BIN_COUNT0 to BIN_COUNT7. -/
  bins : List Nat := []
  /-- 1 bit; R195, R204: BELOW_MIN. -/
  belowMin : Bool := false
  /-- R393: the DRAM given to DRAM_BUDGET, as 32 MiB granules by number, 8 for each 256 MiB. -/
  chunks : List Nat := []
  /-- R170: the 32 MiB pieces of DRAM of the save area, by number. -/
  save : List Nat := []
  /-- R172, R173: a reset that ends FREE and not OPEN. -/
  thenFree : Bool := false
  /-- R386: the VF has disappeared. -/
  gone : Bool := false
  /-- R172: number of the first packet fetched after DRAINING began. -/
  drainFrom : Nat := 0
  /-- 32 bits; R204: CEL_PART_THROTTLE.HELD. -/
  throttle : Nat := 0
  deriving DecidableEq, Repr

/-- A loaded folio (R140, R317): its image is the master copy of its constants (R175). -/
structure Folio where
  part : Nat
  handle : Nat
  image : List Byte
  /-- R175: the DRAM address its image lies at. -/
  addr : Nat := 0
  deriving DecidableEq, Repr

/-- A quire's progress within a run (R148, R158). -/
inductive QStat where
  | waiting
  | placed (core : Nat)
  | issued (core : Nat)
  | completed
  | ended (status : Nat)
  deriving DecidableEq, Repr

/-- One input or output instance of a run (R143, R199). -/
structure Instance where
  /-- what it is: 0 analysis picture, 1 detection crop, 2 page picture, 3 line crop, 4 decode step of a read. -/
  kind : Nat
  /-- stream or page. -/
  obj : Nat
  /-- DEC_SEQ, or line. -/
  seq : Nat
  /-- detection index, or position. -/
  idx : Nat
  /-- R198: sub-client record, 0 none. -/
  client : Nat
  /-- R56, R157: clamp count. -/
  clamps : Nat
  deriving DecidableEq, Repr

/-- A run of a folio on its instances: every quire of the folio once (R148). -/
structure Run where
  part : Nat
  folio : Nat
  prio : Nat
  /-- 0 detector, 1 re-identification, 2 page detector, 3 recogniser encoder, 4 recogniser step. -/
  purpose : Nat
  instances : List Instance
  /-- by QUIRE_ID; default waiting. -/
  quires : Tbl QStat
  /-- R163: abandonments of a quire. -/
  abandons : Tbl Nat
  /-- R70: the core a quire must not re-run on, plus 1. -/
  avoid : Tbl Nat
  /-- R182: quires returned to the head of their class. -/
  returned : List Nat
  /-- R158: the status its results end with, 0 OK. -/
  status : Nat
  /-- R158: the status of each quire that failed or depends on one that failed, 0 none. -/
  failed : Tbl Nat := []
  deriving DecidableEq, Repr

/-- A tensor of a run, or a constant of a folio, with its home (R174 to R177). -/
structure Tensor where
  part : Nat
  folio : Nat
  /-- 0 for a constant shared by runs, else the run plus 1. -/
  run : Nat
  /-- TENSOR_ID. -/
  tid : Nat
  /-- R143: instance bound, for a network input. -/
  inst : Nat
  bytes : Nat
  /-- R142: position stride and bytes of one plane. -/
  ps : Nat
  planeBytes : Nat
  home : HomeKind
  addr : Nat
  /-- R177: the destination of a move under way. -/
  move : Option (HomeKind × Nat)
  /-- R187: racked out by a pre-emption of this partition, plus 1; 0 none (R190). -/
  charge : Nat
  /-- R47: exponent. -/
  e : Nat
  /-- R192: lost with a switched-off store. -/
  lost : Bool
  /-- R175: sequence of the last use. -/
  used : Nat
  /-- R48: hi and lo of the values written so far, at a dynamic-scale point inside a network. -/
  stat : Option (Int × Int) := none
  /-- R196: bytes of the move under way that still wait for tokens, by bucket. -/
  owed : Tbl Nat := []
  deriving DecidableEq, Repr

/-- A pool of R183. -/
structure PoolState where
  pos : Nat := 0
  fresh : Bool := true
  /-- deficits by class, 4·(p − 1) + (3 − k). -/
  deficit : Tbl Nat := []
  /-- units granted and not yet taken up. -/
  granted : List (Nat × Nat) := []
  deriving DecidableEq, Repr

/-- A pre-emption or removal pending on a core (R187, R192). -/
structure Preempt where
  /-- partition that pre-empts; 0 for a removal. -/
  part : Nat
  run : Nat
  quire : Nat
  /-- R187: 2 running quire, 3 rack-out, 4 transfer. -/
  phase : Nat
  /-- the core changes partition. -/
  transfer : Bool
  abandoned : Bool
  victim : Nat
  deriving DecidableEq, Repr

/-- The Cellarer (R168 to R205). -/
structure Cel where
  /-- 8 records; R169, R172 (07, 11); reset FREE; partitions 1 to 8. -/
  part : Tbl Part := []
  /-- list; R140, R317 (06, 11); reset empty; loaded folios. -/
  folios : List Folio := []
  /-- list by number; R148, R182 (06, 07); reset empty; runs of folios. -/
  runs : List (Nat × Run) := []
  /-- count; R148 (06); reset 0; runs started: the model's number of the next. -/
  nextRun : Nat := 0
  /-- list by number; R174, R177 (07); reset empty; tensors with their homes. -/
  tensors : List (Nat × Tensor) := []
  /-- count; R174 (07); reset 0; tensors homed: the model's number of the next. -/
  nextTensor : Nat := 0
  /-- count; R175 (07); reset 0; uses of tensors so far: the clock of least recent use. -/
  uses : Nat := 0
  /-- by pool; R183 (07); reset position 0, fresh; the pools' rotation and deficits. -/
  pools : Tbl PoolState := []
  /-- 4,105 × 16 × 64 bits; R198 (07); reset 0; accounting counters, counter c of record r at 16·r + c. -/
  acct : Tbl Nat := []
  /-- 30 × 4,105 counts; R200 (07); reset 0; busy cycles that the present accounting interval has charged, domain d and record r at 4,105·d + r. -/
  busy : Tbl Nat := []
  /-- 4,096 entries; R198 (07); reset none; the object a sub-client record belongs to, plus 1. -/
  clients : Tbl Nat := []
  /-- 8 × 27 buckets; R196 (07); reset 0 DESIGN CHOICE 0 (log 8); regulator tokens of partition p and bucket b at 32·p + b. -/
  tokens : Tbl Nat := []
  /-- 16 bits; R203 (07); reset 0; CEL_PREEMPT_COUNT.TRANSFERS. -/
  transfers : Nat := 0
  /-- 16 bits; R203 (07); reset 0; CEL_PREEMPT_COUNT.TOTAL. -/
  preempts : Nat := 0
  /-- record or none; R203 (07); reset none; CEL_PREEMPT_LAST: core, partition, transfer, abandoned, duration. -/
  last : Option (Nat × Nat × Bool × Bool × Nat) := none
  /-- 16 bits; R203 (07); reset 0; CEL_RERUN_COUNT.CHECK. -/
  rerunCheck : Nat := 0
  /-- 16 bits; R203 (07); reset 0; CEL_RERUN_COUNT.ABANDON. -/
  rerunAbandon : Nat := 0
  /-- 64 bits; R203 (07); reset 0; CEL_RACK_BYTES. -/
  rackBytes : Nat := 0
  /-- 32 bits; R205, R493 (07, 18); reset 0; CEL_ACCT_SEL of BAR4. -/
  acctSel : BitVec 32 := 0
  /-- 32 bits; R205, R493 (07, 18); reset 0; CEL_ACCT_SEL of the spine. -/
  acctSelSpine : BitVec 32 := 0
  deriving DecidableEq, Repr

/-! ### Matrix cores, their sequencers and lane units -/

/-- A binding-table entry (R153). -/
structure Binding where
  valid : Bool
  decoded : Bool
  tensor : Nat
  extent : Nat
  stride : Nat
  base : Nat
  dst : Nat
  e : Nat
  /-- the tensor's number in the Cellarer's tables. -/
  num : Nat
  /-- ZMAP_BASE: first bit index in the zero-map RAM. -/
  zmap : Nat
  deriving DecidableEq, Repr

/-- The source of a slot (R150). -/
structure SlotSrc where
  binding : Nat
  plane : Nat
  p : Nat
  chain : Nat
  p0 : Nat
  deriving DecidableEq, Repr

/-- A tile in a prologue's staging buffer (R97): its slot's source with the plane left out, the slot's GEOM, and the block. -/
structure Staged where
  slot : Nat
  src : SlotSrc
  geom : Option (Nat × Bool)
  block : Nat
  deriving DecidableEq, Repr

/-- A weight tile named by a WLOAD (R149), with the digits of the cells' weight registers (R58, R62). -/
structure WTile where
  binding : Nat
  plane : Nat
  diag : Nat
  s2 : Bool
  offset : Nat
  loaded : Bool
  /-- R58, R62: the tile's bytes, as the weight loader read them (log 54). -/
  digits : List Byte := []
  /-- R74: a line of them was poisoned. -/
  poisoned : Bool := false
  deriving DecidableEq, Repr

/-- A write of an epilogue or the lane unit not yet in the store (R63, R155), with the zero-map bits it decides. -/
structure StoreWrite where
  /-- addresses and bytes, in the order they are written. -/
  segs : List (Nat × List Byte)
  /-- R44, R45: tiles whose zero-map bit is decided when the bytes land: tensor, plane, block, tile. -/
  zero : List (Nat × Nat × Nat × Nat)
  /-- R84: a lane unit's write. -/
  lane : Bool := false
  deriving DecidableEq, Repr

/-- A gutter deposit (R124, R126): its place in the slot, its bytes, and where the strip's own tensor holds them. -/
structure Deposit where
  addr : Nat
  bytes : List Byte
  own : Option Nat
  deriving DecidableEq, Repr

/-- A completion record (R156). -/
structure Completed where
  run : Nat
  quire : Nat
  outcome : Nat
  long : Bool
  cycles : Nat
  slotPasses : Nat
  skipped : Nat
  satPro : Nat
  satEpi : Nat
  mark : Nat
  /-- R157: clamp counts by binding index. -/
  clamps : Tbl Nat
  /-- R88: array cycles of its slot-passes. -/
  arrayCycles : Nat
  deriving DecidableEq, Repr

/-- The quire a sequencer runs (R150, R155, R162). -/
structure Active where
  run : Nat
  quire : Nat
  pc : Nat := 0
  ended : Bool := false
  long : Bool := false
  cycles : Nat := 0
  arrayCycles : Nat := 0
  mark : Nat := 0
  satEpi : Nat := 0
  satPro : Nat := 0
  slotPasses : Nat := 0
  skipped : Nat := 0
  bindings : List Binding := []
  /-- R150: GEOM of slot i: entry and WINDOW. -/
  geom : Tbl (Option (Nat × Bool)) := []
  src : Tbl (Option SlotSrc) := []
  weight : Option WTile := none
  /-- R62: tiles the weight loader still has to deliver or has in the shadow registers, oldest first. -/
  shadow : List WTile := []
  /-- R64: open banks, 2·slot + bank. -/
  opened : List Nat := []
  /-- R157: clamp counts by binding index. -/
  clamps : Tbl Nat := []
  /-- R155: bytes of the store before the quire's first write to them, latest first. -/
  undo : List (Nat × List Byte) := []
  /-- R45, R155: zero-map bits as they were before the quire decided them, latest first. -/
  undoZero : List ((Nat × Nat × Nat × Nat) × Bool) := []
  /-- R96, R97: tiles in the prologues' staging buffers, oldest first. -/
  staged : List Staged := []
  /-- R120: tiles of depth-to-space outputs whose zero bits are decided when the chain ends. -/
  fine : List (Nat × Nat × Nat × Nat) := []
  /-- R70, R74: poisoned lines that a write of the quire cleared. -/
  undoPoison : List Nat := []
  /-- R126: gutter deposits, not visible before completion. -/
  deposits : List Deposit := []
  /-- R48: hi and lo written at dynamic-scale points, by tensor number. -/
  stats : List (Nat × Int × Int) := []
  /-- R76: SETCNT. -/
  cnt : Nat := 0
  deriving DecidableEq, Repr

/-- A matrix core with its sequencer, lane unit and registers (R58 to R88, R167). -/
structure Core where
  /-- 4 bits; R83; DEFECT_MASK. -/
  defect : Nat := 0
  /-- 4 bits; R83; FUSE_MASK. -/
  fuse : Nat := 0
  /-- 4 bits; R83; ENABLED; COUNT is its number of bits. -/
  enabled : Nat := 0
  /-- R202, R414, R442: out of service: removed, released for heat, or without sequencer firmware. -/
  out : Bool := true
  /-- R83, R84: the tasting has written MC_ARRAY_MAP since the last reset. -/
  tasted : Bool := false
  /-- 4 bits; R202: OWNER, 0 pool. -/
  owner : Nat := 0
  /-- 4 bits; R202: USER, 0 idle. -/
  user : Nat := 0
  /-- R182: the placement queue: run and quire, at most 4. -/
  queue : List (Nat × Nat) := []
  /-- R182: a quire loaded into the second code buffer. -/
  second : Option (Nat × Nat) := none
  /-- R155, R167: the running quire. -/
  active : Option Active := none
  /-- R167: SEQ_STATUS.QUIRE_ID. -/
  lastQuire : Nat := 0
  /-- R156: a completion record the Cellarer has not acted on. -/
  done : Option Completed := none
  /-- R187, R192. -/
  preempt : Option Preempt := none
  /-- 32 bits; R167. -/
  longCount : Nat := 0
  /-- 32 bits; R167. -/
  abandonCount : Nat := 0
  /-- 1 bit; R84; CHECKSUM. -/
  checksum : Bool := false
  /-- 1 bit; R75, R84; MAP_FULL. -/
  mapFull : Bool := false
  /-- 4 bits; R85. -/
  rowFail : BitVec 4 := 0
  /-- 4 bits; R85. -/
  colFail : BitVec 4 := 0
  /-- 16 bits; R86. -/
  checkCount : Nat := 0
  /-- R86: array, row check, position. -/
  checkLast : Option (Nat × Bool × Nat) := none
  /-- R71: mismatches of each array within this boot. -/
  mismatches : Tbl Nat := []
  /-- 2 bits; R87; UE and CE. -/
  eccStatus : BitVec 2 := 0
  /-- 32 bits; R87. -/
  ce : Nat := 0
  /-- 25 bits; R87; line of the latest uncorrectable error. -/
  ueAddr : Nat := 0
  /-- 64 bits; R88. -/
  passes : Nat := 0
  /-- 64 bits; R88. -/
  skips : Nat := 0
  /-- 32 bits; R88; MC_BANK_STALL_COUNT, raised by free values (log 13). -/
  stalls : Nat := 0
  /-- the model's own (log 13): instructions taken, the argument of the free waits. -/
  instrs : Nat := 0
  /-- R64: bank sums, ((2·slot + bank)·64 + position)·256 + column. -/
  banks : Tbl Int := []
  /-- R36: long accumulators, ((2·slot + set)·64 + position)·256 + column. -/
  acc : Tbl Int := []
  /-- R76: lane i of Vr at 64·r + i. -/
  v : Tbl (BitVec 16) := []
  /-- R76: the mask register. -/
  mask : BitVec 64 := BitVec.allOnes 64
  /-- R63: writes not yet in the store, oldest first. -/
  writes : List StoreWrite := []
  deriving DecidableEq, Repr

/-! ### Video streams -/

/-- A pipeline (R228, R261, R283, R321). -/
structure Pipeline where
  part : Nat
  handle : Nat
  page : Bool
  detFolio : Nat
  /-- video: 0xFF none; page: REC_FOLIO. -/
  secFolio : Nat
  channels : Nat
  wa : Nat
  ha : Nat
  b : Nat
  bMin : Nat
  depth : Nat
  lowWater : Nat
  batchWait : Nat
  fit : Bool
  agnostic : Bool
  pad : Int
  off : List Nat
  gain : List Nat
  scoreMin : Int
  nmsIou : Nat
  maxDet : Nat
  vocab : Nat
  grammar : Nat
  stops : List (List Byte)
  reject : Bool
  maxTokens : Nat
  chunkBytes : Nat
  lineH : Nat
  lineMaxW : Nat
  lineB : Nat
  /-- R230: the low-water alarm is raised. -/
  alarm : Bool
  /-- R230: batches issued since the alarm. -/
  issuedSince : Nat
  deriving DecidableEq, Repr

/-- The states of a stream (R210). -/
inductive StreamState where
  | seeking | decoding | flushing | closed
  deriving DecidableEq, Repr

/-- A FEED's input buffer (R213). -/
structure Feed where
  /-- number of the FEED in fetch order. -/
  id : Nat
  /-- key of the buffer. -/
  buf : Nat
  len : Nat
  pts : Nat
  /-- the bytes are in the bin. -/
  here : Bool
  /-- R213: a picture has taken the PTS. -/
  taken : Bool
  deriving DecidableEq, Repr

/-- A kept box (R232), in 1/16 analysis pixel, with its tracking result (R236). -/
structure Det where
  score : Int
  cls : Nat
  x0 : Int
  y0 : Int
  x1 : Int
  y1 : Int
  /-- R232: DET_INDEX. -/
  idx : Nat
  emb : List Int
  reid : Bool
  deriving DecidableEq, Repr

/-- How far a picture has come (R215, R216, R223, R232). -/
inductive PicStage where
  | parsed | dispatched (engine : Nat) | decoded | skipped | dropped
  deriving DecidableEq, Repr

/-- A picture of a stream (R215 to R237). -/
structure Pic where
  /-- R243. -/
  decSeq : Nat
  /-- R243: PIC_SEQ it takes when output. -/
  order : Nat
  w : Nat
  h : Nat
  depth : Nat
  chroma420 : Bool
  pts : Nat
  poc : Int
  isRef : Bool
  isKey : Bool
  /-- R215: the pictures it predicts from: DEC_SEQ and picture order count. -/
  refs : List (Nat × Int)
  /-- R215: references that its slice headers leave marked. -/
  keeps : List Nat
  /-- R215, R218: it is still marked as a reference. -/
  marked : Bool
  totalUnits : Nat
  /-- R218, R219: side of its coding units. -/
  unit : Nat
  /-- R218: the access unit is above 32 MiB: every unit is concealed. -/
  oversized : Bool
  /-- R218: the concealment source when it was dispatched, none where the buffer held no reference. -/
  source : Option Planes
  bt601 : Bool
  fullRange : Bool
  stage : PicStage
  /-- R213: the FEED its first byte lies in. -/
  feed : Nat
  /-- R218. -/
  causes : Nat
  units : Nat
  refConcealed : Bool
  /-- R218: DEC_SEQ of the starting point it follows. -/
  since : Nat
  /-- R215: DEC_SEQ of the picture from which picture order counts run on to it. -/
  cvs : Nat
  recovering : Bool
  analysed : Bool
  cycles : Nat
  planes : Option Planes
  /-- R226: internal samples of the analysis picture by channel, none outside the content. -/
  samples : List (List (Option Int))
  /-- R48: lo and hi of the content. -/
  stat : Int × Int
  /-- R118, R119: the regrouping its network input asks for. -/
  regroup : Option Regroup
  /-- R53: prepared with its statistic recorded; quantised. -/
  prepared : Bool
  quantised : Bool
  e : Nat
  clamps : Nat
  /-- R228: its batch, plus 1. -/
  batch : Nat
  /-- R232: the detections are finished. -/
  detDone : Bool
  dets : List Det
  /-- R234: re-identification still owed. -/
  reidLeft : Nat
  /-- R226: the crop source: its width, its height, and its samples of 8 bits, interleaved. -/
  crop : Option (Nat × Nat × List Byte)
  /-- R236, R243: output and its records written. -/
  output : Bool
  status : Nat
  deriving DecidableEq, Repr

/-- A picture in the decoded picture buffer (R215, R216, R218): its DEC_SEQ, its picture order count, whether it is concealed or predicts from one that is, and its samples. -/
structure RefPic where
  decSeq : Nat
  poc : Int
  bad : Bool
  planes : Planes
  deriving DecidableEq, Repr

/-- A track (R235 to R237). -/
structure Track where
  confirmed : Bool
  /-- TRACK_ID, or the tentative number. -/
  id : Nat
  cls : Nat
  u : List Int
  v : List Int
  emb : List Int
  hits : Nat
  /-- pictures untaken in succession. -/
  missed : Nat
  /-- analysed pictures since it was made. -/
  seen : Nat
  /-- analysed pictures since START. -/
  age : Nat
  /-- analysed pictures since the last update. -/
  delta : Nat
  lost : Bool
  /-- last box, 1/4 source pixel. -/
  box : List Nat
  deriving DecidableEq, Repr

/-- A snapshot request (R239, R241). -/
structure Snap where
  tag : Nat
  /-- target DEC_SEQ, or none for the next picture dispatched. -/
  target : Option Nat
  quality : Nat
  whole : Bool
  box : List Nat
  /-- R247: KIND. -/
  kind : Nat
  track : Nat
  prio : Nat
  /-- R239: its picture has been dispatched. -/
  taken : Bool
  /-- R247: PIC_SEQ of its picture, 2^32 − 1 when that is never output. -/
  order : Nat
  /-- R243: the JPEG waits for its picture's FRAME record: status, buffer handle and bytes. -/
  ready : Option (Nat × Nat × Nat)
  /-- R238, R241: width and height of its JPEG. -/
  size : Nat × Nat := (0, 0)
  deriving DecidableEq, Repr

/-- A stream with the parameters of R209 and R322. -/
structure Stream where
  part : Nat
  prio : Nat
  pipeline : Nat
  codec : Nat
  maxW : Nat
  maxH : Nat
  maxRefs : Nat
  maxDepth : Nat
  rate : Nat
  every : Nat
  skipNonref : Bool
  outputRecovering : Bool
  budgetMult : Nat
  window : Nat
  cx : Nat
  cy : Nat
  cw : Nat
  chh : Nat
  fit : Bool
  colour : Nat
  cropSource : Nat
  exportEmbed : Bool
  snapAuto : Bool
  client : Nat
  reidMax : Nat
  reidClasses : Nat
  reidGate : Nat
  nConfirm : Nat
  iouGate : Nat
  wIou : Nat
  wReid : Nat
  alpha : Nat
  beta : Nat
  newScore : Int
  trackMax : Nat
  lostAfter : Nat
  maxAge : Nat
  /-- R214. -/
  cluster : Nat
  tp : Nat
  st : StreamState
  /-- R212: bytes reserved, and the DRAM address of the first reference buffer. -/
  refBytes : Nat
  refAddr : Nat
  feeds : List Feed
  /-- R243: DEC_SEQ of the next picture parsed. -/
  nextDec : Nat
  /-- R243: PIC_SEQ of the next picture output. -/
  nextPic : Nat
  pics : List Pic
  /-- R215, R216: the decoded picture buffer. -/
  dpb : List RefPic
  /-- R207: sequence parameter sets received, by identifier. -/
  seqSets : Tbl (Option SeqSet)
  /-- R207: picture parameter sets received, by identifier: the sequence parameter set each names. -/
  picSets : Tbl (Option Nat)
  /-- R207: the sequence parameter set last activated. -/
  active : Option SeqSet
  /-- R221: RASL pictures are discarded. -/
  raslOut : Bool
  /-- R221: picture order count of the recovery point decoding began for, none after the next IRAP picture. -/
  recovery : Option Int
  tracks : List Track
  nextTrack : Nat
  nextTent : Nat
  snaps : List Snap
  /-- R237, R246: PIC_SEQ of the last FRAME record. -/
  lastPic : Nat
  /-- R218, R221: DEC_SEQ of the latest starting point. -/
  startDec : Nat
  /-- R215: DEC_SEQ of the picture from which picture order counts run on. -/
  cvs : Nat
  /-- R210: pictures output since the flush or close that waits. -/
  flushed : Nat
  /-- R213, R215: bytes of the listed FEEDs that the header processor has parsed. -/
  parsed : Nat
  /-- R207: parameter sets refused. -/
  refused : Nat
  /-- R210: the state a flush returns to, which says whether pictures decode meanwhile. -/
  back : StreamState
  deriving DecidableEq, Repr

/-- How an encoder codes a picture (R241): as an IDR; the CTU columns it intra-codes, first and count; the columns that vectors stay inside; recovery_poc_cnt of its SEI. -/
structure EncPlan where
  idr : Bool
  intra : Nat × Nat
  vectors : Nat
  recovery : Option Nat
  deriving DecidableEq, Repr

/-- An encode session (R240 to R242). -/
structure Clip where
  stream : Nat
  tag : Nat
  codec : Nat
  scale : Nat
  mode : Nat
  bits : Nat
  gop : Nat
  /-- pictures left, 0 until CLIP_STOP. -/
  left : Nat
  until_ : Bool
  /-- R241: the next picture is a key picture, or starts a sweep. -/
  key : Bool
  /-- R241, R242: the next picture is an IDR: the session begins, or its last chunk was dropped. -/
  fresh : Bool
  /-- pictures since the last IDR, it included. -/
  count : Nat
  /-- R241: pictures of the present refresh sweep. -/
  sweep : Nat
  /-- R240: pictures of the present 32, and their bits. -/
  group : Nat
  groupBits : Nat
  /-- R241: how the picture in progress is encoded. -/
  plan : EncPlan
  /-- R240: the samples of the picture in progress at the session's scale, 8 bits. -/
  input : Option Planes
  chunk : Nat
  bytes : List Byte
  firstPic : Nat
  firstDec : Nat
  idr : Bool
  stopping : Bool
  chunks : Nat
  /-- R240: the dispatched picture it still has to encode, with its PIC_SEQ. -/
  todo : Option (Nat × Nat)
  prio : Nat
  deriving DecidableEq, Repr

/-- A ready batch, a recogniser batch or a page-detector batch (R228, R263). -/
structure Batch where
  part : Nat
  pipeline : Nat
  /-- 0 pictures, 1 pages, 2 lines. -/
  kind : Nat
  /-- stream and DEC_SEQ, page and 0, or page and LINE_INDEX. -/
  entries : List (Nat × Nat)
  full : Bool
  /-- R228: BATCH_WAIT has passed. -/
  waited : Bool
  /-- the run it was issued as, plus 1. -/
  run : Nat
  prio : Nat
  deriving DecidableEq, Repr

/-- The statistics of a source at a running-mode point (R50 to R53), latest first: the order key of the instance, its hi and its lo. -/
structure Window where
  page : Bool
  obj : Nat
  folio : Nat
  tid : Nat
  stats : List (Nat × Int × Int)
  deriving DecidableEq, Repr

/-- A crop job (R127 to R131, R234, R268). -/
structure CropJob where
  part : Nat
  prio : Nat
  /-- stream and DEC_SEQ, or page and LINE count. -/
  obj : Nat
  seq : Nat
  lines : Bool
  /-- R127: SRC_W, SRC_H and channels of the source. -/
  srcW : Nat
  srcH : Nat
  chans : Nat
  /-- R127: samples of 16 bits. -/
  wide : Bool
  /-- R127: bytes from a source row to the next. -/
  stride : Nat
  outH : Nat
  maxW : Nat
  defaultW : Nat
  /-- R128: the box list. -/
  entries : List (BitVec 128)
  /-- R234: DET_INDEX or LINE_INDEX of each entry. -/
  ids : List Nat
  /-- R131: the prep units that share it. -/
  units : List Nat
  /-- R127: the slots by channel, samples row-major. -/
  out : List (List (List Int))
  /-- R130: the status array. -/
  status : List Nat
  deriving DecidableEq, Repr

/-! ### Pages and the text engine -/

/-- A page source (R251). -/
structure Source where
  part : Nat
  pipeline : Nat
  window : Nat
  budgetMult : Nat
  client : Nat
  closing : Bool
  completed : Nat
  deriving DecidableEq, Repr

/-- A line of a page (R266 to R272), in 1/4 page pixel. -/
structure Line where
  det : Nat
  cls : Nat
  score : Int
  x0 : Nat
  y0 : Nat
  x1 : Nat
  y1 : Nat
  outW : Nat
  clipped : Bool
  squeezed : Bool
  e : Nat
  clamps : Nat
  deriving DecidableEq, Repr

/-- Where a page stands. -/
inductive PageStage where
  | copying | accepted | decoding | decoded | detecting | lines | reading | done
  deriving DecidableEq, Repr

/-- A page in flight (R252 to R271). -/
structure Page where
  part : Nat
  source : Nat
  tag : Nat
  prio : Nat
  client : Nat
  bytes : Nat
  format : Nat
  ifd : Nat
  augMask : Nat
  augSeed : Nat
  w : Nat
  h : Nat
  /-- keys of the buffers it still holds. -/
  inBuf : Option Nat
  pageBuf : Option Nat
  workBuf : Option Nat
  stage : PageStage
  multipass : Bool
  rows : Nat
  lane : Option Nat
  status : Nat
  endOfData : Bool
  dataError : Bool
  capped : Bool
  e : Nat
  clamps : Nat
  cycles : Nat
  dataBytes : Nat
  nFields : Nat
  nChunks : Nat
  lines : List Line
  stat : Int × Int
  /-- R262: internal samples of the detector picture by channel, none outside the content. -/
  samples : List (List (Option Int))
  regroup : Option Regroup
  /-- R53: prepared with its statistic recorded; quantised. -/
  prepared : Bool
  quantised : Bool
  /-- R263: its detection batch, plus 1. -/
  batch : Nat
  /-- R268: crops of its lines by line and channel, samples row-major. -/
  crops : List (List (List Int))
  /-- R259: lane cycles of its budget used. -/
  used : Nat
  /-- R255: its file's header as parsed. -/
  file : Option PageFormat
  deriving DecidableEq, Repr

/-- A character in a read's stop window (R291): its bytes, its field, the token that completed it with that token's margin, and whether it stands for an invalid sequence. -/
structure RChar where
  bytes : List Byte
  field : Nat
  token : Nat
  margin : Nat
  repl : Bool
  deriving DecidableEq, Repr

/-- A field instance of a read (R292). -/
structure FieldRun where
  field : Nat
  offset : Nat
  bytes : List Byte
  /-- tokens that completed a character of it, and the last of them. -/
  tokens : Nat
  lastToken : Nat
  margin : Nat
  open_ : Bool
  deriving DecidableEq, Repr

/-- A read (R282 to R294). -/
structure Read where
  part : Nat
  page : Nat
  line : Nat
  /-- R285: batch number. -/
  batch : Nat
  /-- R280: grammar state. -/
  state : Nat
  tokens : List Nat
  /-- R289: bytes in the pending buffer, and how many came before them. -/
  pend : List Byte
  pendAt : Nat
  /-- R291: the stop window. -/
  win : List RChar
  /-- output bytes written so far. -/
  outLen : Nat
  /-- R293: the chunk being filled. -/
  chunk : List Byte
  chunkIdx : Nat
  chunkAt : Nat
  chunkTokens : Nat
  chunkMargin : Nat
  replaced : Bool
  fields : List FieldRun
  /-- R287: mask asked for, mask ready. -/
  maskAsked : Bool
  maskReady : Bool
  /-- R288: the next step may be released. -/
  released : Bool
  /-- R285: a step has been issued and its token is not yet selected. -/
  stepped : Bool
  late : Bool
  ended : Bool
  status : Nat
  final : Nat
  deriving DecidableEq, Repr

/-- A tokenize session (R295 to R299). -/
structure Session where
  part : Nat
  vocab : Nat
  reject : Bool
  client : Nat
  failed : Bool
  /-- the held pre-token and the held bytes of a partial character. -/
  held : List Byte
  partialChar : List Byte
  consumed : Nat
  deriving DecidableEq, Repr

/-- A resident text table (R274). -/
structure TextTable where
  part : Nat
  image : List Byte
  /-- charges to DRAM_BUDGET and CELLAR_BUDGET in bytes. -/
  dram : Nat
  cellar : Nat
  /-- R274: cellar-store address of the working copy. -/
  addr : Nat
  deriving DecidableEq, Repr

/-- The registers of one decode cluster (R249, R250). -/
structure Cluster where
  /-- 1 bit; R250; HP_UP. -/
  up : Bool := false
  /-- 10 bits; R250; DC_ENGINE_MAP.ENABLED. -/
  engines : BitVec 10 := 0
  /-- 10 bits; R250; engines decoding. -/
  busy : BitVec 10 := 0
  conceal : Nat := 0
  budget : Nat := 0
  pictures : Nat := 0
  deriving DecidableEq, Repr

/-- Streams, pages, text and the units that serve them (R206 to R300, R500, R501). -/
structure Media where
  /-- 4 clusters; R250 (08); reset 0, maps DESIGN CHOICE 0 (log 8); the decode clusters. -/
  dc : Tbl Cluster := []
  /-- 8 × 16; R321 (11); reset empty; pipelines. -/
  pipelines : List Pipeline := []
  /-- up to 1,024; R209 to R211 (08); reset empty; streams by STREAM_ID. -/
  streams : List (Nat × Stream) := []
  /-- 32 bits; R209 (08); reset 0 DESIGN CHOICE 0 (log 8); the next STREAM_ID. -/
  nextStream : Nat := 0
  /-- by number; R228, R263 (08, 09); reset empty; ready, page and line batches. -/
  batches : List (Nat × Batch) := []
  /-- count; R228 (08); reset 0; batches made: the model's number of the next. -/
  nextBatch : Nat := 0
  /-- by source and point; R50 to R53 (02); reset empty; running-scale windows. -/
  windows : List Window := []
  /-- by number; R130 (05); reset empty; crop jobs. -/
  crops : List (Nat × CropJob) := []
  /-- count; R130 (05); reset 0; crop jobs made: the model's number of the next. -/
  nextCrop : Nat := 0
  /-- 2 × 16; R240 (08); reset none; encode sessions, session i of EN e at 16·e + i. -/
  clips : Tbl (Option Clip) := []
  /-- 3 bits; R501 (18); reset DESIGN CHOICE 0 (log 8); EN_STATUS.IN_SERVICE. -/
  enService : BitVec 3 := 0
  /-- 3 entries; R501 (18); reset none; EN_STATUS.BUSY: the stream and DEC_SEQ each encoder holds. -/
  enBusy : Tbl (Option (Nat × Nat)) := []
  /-- planes; R19, R238 (01, 08); reset none; the picture the snapshot encoder holds, 8 bits. -/
  snapInput : Option Planes := none
  /-- 64 bits; R501 (18); reset 0; EN_PICTURE_COUNT. -/
  enPictures : Nat := 0
  /-- 32 bits; R501 (18); reset 0; EN_DROP_COUNT. -/
  enDrops : Nat := 0
  /-- 8 bits; R501 (18); reset DESIGN CHOICE 0 (log 8); PP_STATUS.IN_SERVICE of each unit. -/
  ppService : BitVec 8 := 0
  /-- 8 bits; R501 (18); reset 0; PP_STATUS.BUSY of each unit. -/
  ppBusy : BitVec 8 := 0
  /-- 8 × 64 bits; R501 (18); reset 0; PP_PIXEL_COUNT. -/
  ppPixels : Tbl Nat := []
  /-- 8 × 32 bits; R501 (18); reset 0; PP_HOLD_COUNT. -/
  ppHolds : Tbl Nat := []
  /-- 4 bits; R501 (18); reset 0; TK_STATUS.UP of each processor. -/
  tkUp : BitVec 4 := 0
  /-- 4 bits; R470, R501 (17, 18); reset DESIGN CHOICE 0 (log 8); track processors in service. -/
  tkService : BitVec 4 := 0
  /-- 4 × 64 bits; R501 (18); reset 0; TK_RECORD_COUNT. -/
  tkRecords : Tbl Nat := []
  /-- 4 × 32 bits; R501 (18); reset 0; TK_FULL_COUNT. -/
  tkFull : Tbl Nat := []
  /-- up to 256; R251 (09); reset empty; page sources by SOURCE_ID. -/
  sources : List (Nat × Source) := []
  /-- 32 bits; R251 (09); reset 0 DESIGN CHOICE 0 (log 8); the next SOURCE_ID. -/
  nextSource : Nat := 0
  /-- up to 1,024; R254 (09); reset empty; pages in flight by number. -/
  pages : List (Nat × Page) := []
  /-- count; R254 (09); reset 0; pages accepted: the model's number of the next. -/
  nextPage : Nat := 0
  /-- 4 bits; R273 (09); reset DESIGN CHOICE 0 (log 8); PG_STATUS.LANES_IN_SERVICE. -/
  pgService : BitVec 4 := 0
  /-- 4 bits; R273 (09); reset 0; PG_STATUS.LANES_BUSY. -/
  pgBusy : BitVec 4 := 0
  /-- 32 bits; R273 (09); reset 0; PG_BUDGET_COUNT. -/
  pgBudget : Nat := 0
  /-- 32 bits; R273 (09); reset 0; PG_TRUNC_COUNT. -/
  pgTrunc : Nat := 0
  /-- 32 bits; R273 (09); reset 0; PG_REFUSED_COUNT. -/
  pgRefused : Nat := 0
  /-- 64 bits; R273 (09); reset 0; PG_PAGE_COUNT. -/
  pgPages : Nat := 0
  deriving DecidableEq, Repr

/-- The text engine (R274 to R300). -/
structure Text where
  /-- 8 slots; R274, R300 (10); reset none; resident vocabularies. -/
  vocab : Tbl (Option TextTable) := []
  /-- 32 slots; R274, R300 (10); reset none; resident grammars. -/
  grammar : Tbl (Option TextTable) := []
  /-- by number; R282 (10); reset empty; reads. -/
  reads : List (Nat × Read) := []
  /-- count; R282 (10); reset 0; reads begun: the model's number of the next. -/
  nextRead : Nat := 0
  /-- up to 64; R295 (10); reset empty; tokenize sessions by SESSION_ID. -/
  sessions : List (Nat × Session) := []
  /-- 32 bits; R275 (10); reset 0 DESIGN CHOICE 0 (log 8); the next SESSION_ID. -/
  nextSession : Nat := 0
  /-- 1 bit; R300 (10); reset 0; TX_STATUS.BINDER_UP. -/
  binderUp : Bool := false
  /-- 1 bit; R470 (17); reset DESIGN CHOICE 0 (log 8); the text engine is in service. -/
  service : Bool := false
  /-- 32 bits; R300 (10); reset 0; TX_MASK_LATE_COUNT. -/
  maskLate : Nat := 0
  /-- 32 bits; R300 (10); reset 0; TX_REPLACE_COUNT. -/
  replaces : Nat := 0
  /-- 32 bits; R300 (10); reset 0; TX_REJECT_COUNT. -/
  rejects : Nat := 0
  /-- 32 bits; R300 (10); reset 0; TX_STOP_COUNT. -/
  stops : Nat := 0
  /-- 64 bits; R300 (10); reset 0; TX_STEP_COUNT. -/
  steps : Nat := 0
  deriving DecidableEq, Repr

/-! ### The whole state -/

/-- The state of the DX4. -/
structure State where
  /-- group; R458 to R497 (17, 18); the device, its stage and its defects. -/
  dev : Dev := {}
  /-- group; R383 to R401 (14); the PCIe endpoint. -/
  hi : Hi := {}
  /-- group; R402 to R419 (15); domains, clocks, thermal control. -/
  pwr : Pwr := {}
  /-- group; R420 to R456 (16); the management processor. -/
  mgt : Mgt := {}
  /-- group; R446 to R457 (16); the Cask. -/
  cask : Cask := {}
  /-- group; R355 to R382 (13); the DRAM channels. -/
  ddr : Ddr := {}
  /-- group; R18 (01); the memories. -/
  mem : Mem := {}
  /-- group; R301 to R354 (11, 12); the command processor. -/
  cp : Cp := {}
  /-- group; R168 to R205 (07); the Cellarer. -/
  cel : Cel := {}
  /-- 8 cores; R58 to R88, R167 (03, 06); reset out of service DESIGN CHOICE (log 8), registers 0, mask ones; the matrix cores. -/
  core : Tbl Core := []
  /-- group; R206 to R273, R500 (08, 09, 18); streams, pages and their units. -/
  media : Media := {}
  /-- group; R274 to R300 (10); the text engine. -/
  text : Text := {}
  /-- 2 × 16 × 32 bits; R81 (03); reset 0 DESIGN CHOICE 0 (log 8); high halves latched by spine reads, by register address. -/
  latch : Tbl Nat := []
  /-- list; the model's own (log 7); reset empty; everything sent out of the device, latest last. -/
  outbox : List Out := []
  /-- list; the model's own; reset empty; commands that wait, first in, first out. -/
  pending : List Instr := []
  deriving DecidableEq, Repr

/-- The power-on reset (R458, R459): every register at its Reset value, nothing in memory, no command waiting, PWRGD about to rise.
Where the spec gives no value the field's docstring names a log entry. -/
def State.reset : State := {}

end Sys2Proof.Machine
end

