-- ==== Sys2Proof/Machine/Ops.lean ====
section
/-! DEFINITION. The named operations over the state that the commands share: indexed stores, counters, memory, outputs, the event log, MSI-X, records and wakes. -/

namespace Sys2Proof.Machine

/-! ### Indexed stores -/

/-- What a key of a store reads as; `d` is what an unlisted key reads as. -/
def tget {α : Type} (d : α) : Tbl α → Nat → α
  | [], _ => d
  | (k, v) :: t, i => if k = i then v else tget d t i

/-- The store with one key written, in canonical form again. -/
def tput {α : Type} [DecidableEq α] (d : α) : Tbl α → Nat → α → Tbl α
  | [], i, v => if v = d then [] else [(i, v)]
  | (k, w) :: t, i, v =>
    if i < k then (if v = d then (k, w) :: t else (i, v) :: (k, w) :: t)
    else if i = k then (if v = d then t else (i, v) :: t)
    else (k, w) :: tput d t i v

/-- The store with one key changed by a function. -/
def tmod {α : Type} [DecidableEq α] (d : α) (t : Tbl α) (i : Nat) (f : α → α) : Tbl α :=
  tput d t i (f (tget d t i))

/-- The canonical form: keys strictly rising and no entry equal to what an unlisted key reads as. -/
def twf {α : Type} [DecidableEq α] (d : α) : Tbl α → Bool
  | [] => true
  | (k, v) :: t => decide (v ≠ d) && t.all (fun e => decide (k < e.1)) && twf d t

/-- What a numbered list holds at a number. -/
def nget {α : Type} (l : List (Nat × α)) (i : Nat) : Option α := (l.find? (fun e => e.1 == i)).map (·.2)

/-- A numbered list with one entry changed by a function. -/
def nmod {α : Type} (l : List (Nat × α)) (i : Nat) (f : α → α) : List (Nat × α) :=
  l.map (fun e => if e.1 == i then (e.1, f e.2) else e)

/-- A numbered list without one number. -/
def ndel {α : Type} (l : List (Nat × α)) (i : Nat) : List (Nat × α) := l.filter (fun e => e.1 != i)

/-- A sorted list of numbers with one more, no repeats. -/
def setAdd : List Nat → Nat → List Nat
  | [], x => [x]
  | y :: t, x => if x < y then x :: y :: t else if x = y then y :: t else y :: setAdd t x

/-- A counter of `w` bits that saturates, one up (R11). -/
def satAdd (w n k : Nat) : Nat := min (2 ^ w - 1) (n + k)

/-- A counter of 64 bits that wraps (R88). -/
def wrapAdd (n k : Nat) : Nat := (n + k) % 2 ^ 64

/-- The bits of a list of Bools, the first the lowest. -/
def packBits : List Bool → Nat
  | [] => 0
  | b :: t => b2n b + 2 * packBits t

/-- The set bits of a number among the first `w`, rising. -/
def bitList (w n : Nat) : List Nat := (List.range w).filter (fun i => bitOf n i)

/-- `n` bytes of a list from an offset, zeros beyond its end. -/
def sliceB (l : List Byte) (ofs n : Nat) : List Byte :=
  let t := (l.drop ofs).take n
  t ++ List.replicate (n - t.length) 0

/-- The little-endian number of `n` bytes at an offset (R10). -/
def leAt (l : List Byte) (ofs n : Nat) : Nat := leNat (sliceB l ofs n)

/-- A byte list cut or padded with zeros to `n` bytes. -/
def padTo (n : Nat) (l : List Byte) : List Byte := sliceB l 0 n

/-- Division that truncates toward zero (R233). -/
def tdiv (a b : Int) : Int := Int.tdiv a b

/-- trunc_shift of R39: a shift right that truncates toward zero. -/
def truncShift (y : Int) (s : Nat) : Int := Int.tdiv y (2 ^ s)

/-- A value held between two bounds, the lower one first, as the comparisons of R40 run: `hi` where the bounds cross. -/
def clampI (lo hi v : Int) : Int := min hi (max lo v)

/-! ### Accessors of the groups -/

/-- Domain d of R405. -/
def State.domAt (s : State) (d : Nat) : Dom := tget {} s.pwr.dom d
/-- Domain d changed. -/
def State.setDom (s : State) (d : Nat) (f : Dom → Dom) : State :=
  { s with pwr := { s.pwr with dom := tmod {} s.pwr.dom d f } }
/-- Channel c (R355). -/
def State.chan (s : State) (c : Nat) : Chan := tget {} s.ddr.ch c
/-- Channel c changed. -/
def State.setChan (s : State) (c : Nat) (f : Chan → Chan) : State :=
  { s with ddr := { s.ddr with ch := tmod {} s.ddr.ch c f } }
/-- Ring r of function f (R302). -/
def State.ringAt (s : State) (f r : Nat) : Ring := tget {} s.cp.ring (64 * f + r)
/-- Ring r of function f changed. -/
def State.setRing (s : State) (f r : Nat) (g : Ring → Ring) : State :=
  { s with cp := { s.cp with ring := tmod {} s.cp.ring (64 * f + r) g } }
/-- Function f's result queue and ring (R329). -/
def State.resAt (s : State) (f : Nat) : Res := tget {} s.cp.res f
/-- Function f's result queue and ring changed. -/
def State.setRes (s : State) (f : Nat) (g : Res → Res) : State :=
  { s with cp := { s.cp with res := tmod {} s.cp.res f g } }
/-- Partition p (R168). -/
def State.partAt (s : State) (p : Nat) : Part := tget {} s.cel.part p
/-- Partition p changed. -/
def State.setPart (s : State) (p : Nat) (g : Part → Part) : State :=
  { s with cel := { s.cel with part := tmod {} s.cel.part p g } }
/-- Matrix core n (R58). -/
def State.coreAt (s : State) (n : Nat) : Core := tget {} s.core n
/-- Matrix core n changed. -/
def State.setCore (s : State) (n : Nat) (g : Core → Core) : State :=
  { s with core := tmod {} s.core n g }
/-- Decode cluster k (R249). -/
def State.clusterAt (s : State) (k : Nat) : Cluster := tget {} s.media.dc k
/-- Decode cluster k changed. -/
def State.setCluster (s : State) (k : Nat) (g : Cluster → Cluster) : State :=
  { s with media := { s.media with dc := tmod {} s.media.dc k g } }
/-- Busy cycles of a domain's units charged to record r in the present accounting interval (R200). -/
def State.busyAt (s : State) (d r k : Nat) : State :=
  { s with cel := { s.cel with busy := tmod 0 s.cel.busy (4105 * d + r) (· + k) } }
/-- The domain whose units a counter of cycles counts; the cores' and the decode clusters' are charged one by one (R198, R200). -/
def unitDomain (c : Nat) : Option Nat := [none, none, none, some 25, some 27, some 26, some 28, some 29].getD c none
/-- Counter c of accounting record r raised (R198). -/
def State.charge (s : State) (r c k : Nat) : State :=
  let s := { s with cel := { s.cel with acct := tmod 0 s.cel.acct (16 * r + c) (fun n => wrapAdd n k) } }
  match unitDomain c with
  | some d => s.busyAt d r k
  | none => s
/-- A charge to a partition's record and to its sub-client record when the work carries one (R199). -/
def State.chargeWork (s : State) (p client c k : Nat) : State :=
  let s := s.charge p c k
  if client = 0 then s else s.charge client c k
/-- Whether an output travels over the link, which it brings back to L0 (R399). -/
def Out.onLink : Out → Bool
  | .reply .. => true
  | .record .. => true
  | .hostWrite .. => true
  | .hostRead .. => true
  | .msix .. => true
  | .completion .. => true
  | _ => false
/-- The link in L0 (R398, R399). -/
def State.toL0 (s : State) : State := { s with hi := { s.hi with pmState := 0 } }
/-- An output sent (log 7): over the link in L0 (R399). -/
def State.emit (s : State) (o : Out) : State :=
  { s with outbox := s.outbox ++ [o], hi := { s.hi with pmState := if o.onLink then 0 else s.hi.pmState } }
/-- A request of the host reaches the device: the link is in L0 (R399). -/
def State.tlp (s : State) : State := if s.dev.hiReady then s.toL0 else s

/-- AON out of reset: PWRGD and SYS_RESET_N high (R507). -/
def State.aonUp (s : State) : Bool := s.dev.pwrgd && s.dev.straps.sysResetN

/-- The functions enabled: PF0, and the VFs that exist (R386). -/
def State.fnExists (s : State) (f : Nat) : Bool := f == 0 || (s.hi.vfEnable && decide (f ≤ s.hi.numVFs))

/-! ### Memory (R18, R74, R361 to R374) -/

/-- The stores of bytes and poison tags are in canonical form. -/
def Mem.wf (m : Mem) : Bool := twf 0 m.cells && twf false m.poison

/-- The regions of the address space (R18). -/
inductive Region where
  | dram | cellar | coreStore (n : Nat) | regs | unmapped
  deriving DecidableEq, Repr

/-- DRAM bytes in service: N × C_min (R361). -/
def State.dramBytes (s : State) : Nat := 2 ^ 30 * (s.ddr.inService.length * s.ddr.cMin)

/-- First address of the cellar store (R18). -/
def cellarBase : Nat := 0xE000000000
/-- First address of core store n (R18). -/
def coreBase (n : Nat) : Nat := 0xE100000000 + 0x02000000 * n
/-- First address of the register space (R18). -/
def regBase : Nat := 0xFF00000000

/-- The region an address lies in (R18). -/
def State.regionOf (s : State) (a : Nat) : Region :=
  if a < s.dramBytes then .dram
  else if cellarBase ≤ a ∧ a < cellarBase + 0x04000000 then .cellar
  else if coreBase 0 ≤ a ∧ a < coreBase 8 then .coreStore ((a - coreBase 0) / 0x02000000)
  else if regBase ≤ a ∧ a < regBase + 0x10000000 then .regs
  else .unmapped

/-- Where a DRAM address lies: channel and offset within it (R361). -/
def interleave (t : List Nat) (a : Nat) : Nat × Nat :=
  let n := t.length
  let k := a / 256
  let q := k / n
  let r := k % n
  (t.getD ((r + q) % n) 0, 256 * q + a % 256)

/-- The channel of a DRAM address (R361). -/
def State.channelOf (s : State) (a : Nat) : Nat := (interleave s.ddr.inService a).1

/-- Whether an address lies in a channel that is FAILED (R372). -/
def State.failedAt (s : State) (a : Nat) : Bool :=
  decide (s.regionOf a = .dram) && decide ((s.chan (s.channelOf a)).st = .failed)

/-- Whether a 64-byte line carries the poison tag (R74, R374) or lies in a FAILED channel (R372). -/
def State.poisoned (s : State) (line : Nat) : Bool :=
  tget false s.mem.poison line || s.failedAt (line * 64)

/-- One byte as a reader sees it: zero in a FAILED channel, free where contents were lost, else the stored byte. -/
def State.byteAt (s : State) (a : Nat) : Byte :=
  if s.failedAt a then 0
  else match s.mem.undef.find? (fun r => decide (r.1 ≤ a) && decide (a < r.2.1)) with
    | some r => Config.freeByte r.2.2 a
    | none => tget 0 s.mem.cells a

/-- Bytes from an address on. -/
def State.bytesAt (s : State) (a n : Nat) : List Byte := (List.range n).map (fun i => s.byteAt (a + i))

/-- The first poisoned address of a range of bytes, when there is one (R322). -/
def State.firstPoison (s : State) (a n : Nat) : Option Nat :=
  ((List.range ((a + n + 63) / 64 - a / 64)).find? (fun i => s.poisoned (a / 64 + i))).map
    (fun i => max a ((a / 64 + i) * 64))

/-- Lost ranges without [lo, hi). -/
def carve (lo hi : Nat) (l : List (Nat × Nat × Nat)) : List (Nat × Nat × Nat) :=
  l.flatMap (fun r =>
    (if r.1 < min r.2.1 lo then [(r.1, min r.2.1 lo, r.2.2)] else []) ++
    (if max r.1 hi < r.2.1 then [(max r.1 hi, r.2.1, r.2.2)] else []))

/-- Bytes written one after another into the store. -/
def putBytes : Tbl Byte → Nat → List Byte → Tbl Byte
  | t, _, [] => t
  | t, a, b :: bs => putBytes (tput 0 t a b) (a + 1) bs

/-- Whether a zero-map tile of a tensor meets the bytes [a, a + n) (R45). -/
def tileTouches (t : Tensor) (plane block tile a n : Nat) : Bool :=
  (List.range 64).any (fun i =>
    let lo := t.addr + plane * t.planeBytes + (64 * tile + i) * t.ps + 128 * block
    decide (lo < a + n) && decide (a < lo + 128))

/-- The zero-map bits left after a write by other means than a conversion (R45). -/
def State.zeroAfter (s : State) (a n : Nat) : List (Nat × Nat × Nat × Nat) :=
  s.mem.zero.filter (fun z =>
    match nget s.cel.tensors z.1 with
    | some t => !tileTouches t z.2.1 z.2.2.1 z.2.2.2 a n
    | none => true)

/-- A write of bytes: discarded in a FAILED channel, poison cleared on lines written whole (R74, R372, R374). -/
def State.writeRaw (s : State) (a : Nat) (bs : List Byte) : State :=
  if bs.isEmpty || s.failedAt a then s
  else { s with mem := { s.mem with
    cells := putBytes s.mem.cells a bs,
    undef := carve a (a + bs.length) s.mem.undef,
    poison := s.mem.poison.filter (fun e => !(decide (a ≤ e.1 * 64) && decide (e.1 * 64 + 64 ≤ a + bs.length))) } }

/-- A byte list cut where the 256-byte granules of the interleave end, so that each piece lies in one channel (R361). -/
def granules : Nat → Nat → List Byte → List (Nat × List Byte)
  | 0, _, _ => []
  | _ + 1, _, [] => []
  | k + 1, a, b :: bs =>
    let n := 256 - a % 256
    (a, (b :: bs).take n) :: granules k (a + n) ((b :: bs).drop n)

/-- A write of bytes anywhere, granule by granule. -/
def State.writeMem (s : State) (a : Nat) (bs : List Byte) : State :=
  (granules (bs.length / 256 + 2) a bs).foldl (fun s g => s.writeRaw g.1 g.2) s

/-- Whether a range is covered by ranges. -/
def covered : Nat → Nat → Nat → List (Nat × Nat) → Bool
  | 0, _, _, _ => false
  | k + 1, lo, hi, rs =>
    if hi ≤ lo then true
    else match rs.find? (fun r => decide (r.1 ≤ lo) && decide (lo < r.1 + r.2)) with
      | some r => covered k (r.1 + r.2) hi rs
      | none => false

/-- The poisoned lines that segments of one write cover whole between them (R74). -/
def State.wholeLines (s : State) (segs : List (Nat × List Byte)) : List Nat :=
  let rs := segs.map (fun g => (g.1, g.2.length))
  (s.mem.poison.filter (fun e => covered (rs.length + 1) (e.1 * 64) (e.1 * 64 + 64) rs)).map (·.1)

/-- A write by a window, a DMA or another unit: it also clears the zero-map bits of the tiles it touches (R45). -/
def State.writeOutside (s : State) (a : Nat) (bs : List Byte) : State :=
  let z := s.zeroAfter a bs.length
  let s := s.writeMem a bs
  { s with mem := { s.mem with zero := z } }

/-- A range zeroed, clean of poison: a scrub (R172, R177, R187, R478). -/
def State.scrub (s : State) (lo hi : Nat) : State :=
  { s with mem := { s.mem with
    cells := s.mem.cells.filter (fun e => !(decide (lo ≤ e.1) && decide (e.1 < hi))),
    undef := carve lo hi s.mem.undef,
    poison := s.mem.poison.filter (fun e => !(decide (lo ≤ e.1 * 64) && decide (e.1 * 64 < hi))) } }

/-- A range whose contents are lost: its bytes become free values (R402, R405, log 4). -/
def State.lose (s : State) (lo hi : Nat) : State :=
  let s := s.scrub lo hi
  { s with mem := { s.mem with undef := (lo, hi, s.mem.epoch) :: s.mem.undef, epoch := s.mem.epoch + 1 } }

/-- A line marked poisoned (R74, R374). -/
def State.setPoison (s : State) (line : Nat) (p : Bool) : State :=
  { s with mem := { s.mem with poison := tput false s.mem.poison line p } }

/-! ### Regulators (R196, R197) -/

/-- The fabric stop that injects the data at an address of a home, counted along the rows of the mesh (R22; assumption log 40): cores, cellar slices by bit 12 (R18), memory groups. -/
def State.stopAt (s : State) (h : HomeKind) (a : Nat) : Nat :=
  match h with
  | .core n => [6, 7, 10, 11, 12, 13, 16, 17].getD n.val 6
  | .cellar => 8 + a / 4096 % 2
  | _ => [0, 18, 23].getD (s.channelOf a / 4) 0

/-- Bytes of a range by what a test says of each 256-byte granule of it. -/
def bytesWhere (a n : Nat) (pick : Nat → Bool) : Nat :=
  ((List.range ((a + n + 255) / 256 - a / 256)).map (fun i =>
    let g := 256 * (a / 256 + i)
    if pick g then min (a + n) (g + 256) - max a g else 0)).sum

/-- What a request of n bytes takes from the DRAM bucket of each memory group (R196, R361). -/
def State.dramBuckets (s : State) (a n : Nat) : List (Nat × Nat) :=
  (List.range 3).map (fun g => (g, bytesWhere a n (fun x => s.channelOf x / 4 == g)))

/-- What n bytes read from an address of a home take from the bucket of each fabric stop that injects them (R22, R196). -/
def State.injected (s : State) (h : HomeKind) (a n : Nat) : List (Nat × Nat) :=
  (List.range 24).map (fun i => (3 + i, bytesWhere a n (fun g => s.stopAt h g == i)))

/-- Tokens of a bucket taken by a request of n bytes, at least 64; what is missing waits, and the wait is counted (R196; assumption log 40). -/
def State.spend (s : State) (p b n : Nat) : State × Nat :=
  let q := s.partAt p
  let rate := if b < 3 then q.dramRate else q.fabricRate
  if rate = 0 ∨ n = 0 then (s, 0)
  else
    let have_ := tget 0 s.cel.tokens (32 * p + b)
    let want := max 64 n
    let s := { s with cel := { s.cel with tokens := tput 0 s.cel.tokens (32 * p + b) (have_ - want) } }
    if have_ < want then (s.setPart p (fun q => { q with throttle := satAdd 32 q.throttle 1 }), want - have_) else (s, 0)

/-- Requests drawn on a partition's buckets: what still waits, by bucket. -/
def State.spendAll (s : State) (p : Nat) (l : List (Nat × Nat)) : State × Tbl Nat :=
  l.foldl (fun x e =>
    let y := x.1.spend p e.1 e.2
    (y.1, tmod 0 x.2 e.1 (· + y.2))) (s, [])

/-- Bytes of DRAM that a partition's work at a fabric stop reads or writes: charged to it and its sub-client, and drawn on its regulators (R196, R198, R199; assumption log 40). -/
def State.dramTraffic (s : State) (p client stop : Nat) (write : Bool) (a n : Nat) : State :=
  let s := s.chargeWork p client (if write then 12 else 11) n
  (s.spendAll p ((if write then [(3 + stop, n)] else s.injected .dram a n) ++ s.dramBuckets a n)).1

/-! ### The event log (R429, R430) -/

/-- Log codes of R431 and severities of R429. -/
def logPowerOn : Nat := 0x0F01
def logComputeReset : Nat := 0x0F02
def logFlr : Nat := 0x0F03
def logSlotBoot : Nat := 0x0F04
def logSlotFallback : Nat := 0x0F05
def logReceiverFailed : Nat := 0x0F06
def logLinkChange : Nat := 0x0F07
def logRingFault : Nat := 0x0F08
def logThermtrip : Nat := 0x0F09
def logLeafBlock : Nat := 0x0F0A
def logDeviceFault : Nat := 0x0F0B
def logSensorInvalid : Nat := 0x0F0C
def logArrayOut : Nat := 0x0F0D
def logChannelFenced : Nat := 0x0F0E

/-- The flash log ring's capacity: 192 sectors of 2,048 entries, the oldest sector erased when full (R421, R430). -/
def flashAppend (flash new : List LogEntry) : List LogEntry :=
  let all := flash ++ new
  if all.length ≤ 393216 then all
  else all.drop (2048 * ((all.length - 393216 + 2047) / 2048))

/-- The AON buffer written to the flash log; the first entry written records in its ARG a count of entries lost (R430). -/
def State.flushLog (s : State) : State :=
  let new := match s.mgt.logBuf with
    | [] => []
    | e :: t => (if s.mgt.logLost = 0 then e else { e with arg := s.mgt.logLost }) :: t
  { s with mgt := { s.mgt with flashLog := flashAppend s.mgt.flashLog new, logBuf := [],
                               logLost := if new.isEmpty then s.mgt.logLost else 0 } }

/-- An entry added to the AON buffer: 64 waiting entries go to flash at once, and a full buffer overwrites its oldest (R429, R430). -/
def State.log (s : State) (code severity source unit arg : Nat) : State :=
  let e : LogEntry := { seq := s.mgt.logSeq, boot := s.mgt.bootCount, stamp := s.mgt.aonCount % 2 ^ 48,
                        code, severity, source, unit, arg }
  let full := decide (1024 ≤ s.mgt.logBuf.length)
  let buf := (if full then s.mgt.logBuf.drop 1 else s.mgt.logBuf) ++ [e]
  let s := { s with mgt := { s.mgt with logSeq := (s.mgt.logSeq + 1) % 2 ^ 32, logBuf := buf,
                                        logLost := s.mgt.logLost + b2n full } }
  if 64 ≤ buf.length then s.flushLog else s

/-! ### MSI-X and AER -/

/-- An MSI-X message sent, or left pending while its vector is masked (R313, R383; log 9). -/
def State.msix (s : State) (f v : Nat) : State :=
  if (tget {} s.hi.msix (64 * f + v)).masked then
    { s with hi := { s.hi with msix := tmod {} s.hi.msix (64 * f + v) (fun m => { m with pending := true }) } }
  else s.emit (.msix f v)

/-- AER codes: the status a read would have received (R394), and Uncorrectable Internal Error (R485). -/
def aerUR : Nat := 1
def aerCA : Nat := 2
def aerInternal : Nat := 3
def aerPoison : Nat := 4

/-- A device fault: logged, the sideband alert raised, AER on PF0, DEVICE_FAULT set (R485, R497). -/
def State.deviceFault (s : State) (source unit arg : Nat) : State :=
  let s := s.log logDeviceFault 3 source unit arg
  let s := s.emit (.aer 0 aerInternal)
  { s with dev := { s.dev with deviceFault := true }, mgt := { s.mgt with alert := true } }

/-! ### Records into result queues (R326 to R331) -/

/-- Entries of 64 bytes a record takes (R325). -/
def Rec.len (r : Rec) : Nat := (r.body.length + 8 + 63) / 64

/-- Entries a queue holds (R335: QUEUE_USED). -/
def Res.used (q : Res) : Nat := (q.q.map Rec.len).sum

/-- F, the free entries of a queue (R331). -/
def Res.freeEntries (q : Res) : Nat := 1024 - q.used

/-- FULL: fewer than 49 free entries (R331). -/
def Res.full (q : Res) : Bool := decide (q.freeEntries < 49)

/-- Whether a producer cannot stall (R328): the MP, the Cellarer, and the queue's own RECORDS_LOST. -/
def prodUnstallable : Producer → Bool
  | .mp => true
  | .cellarer => true
  | _ => false

/-- A record lost to a full queue (R331, R333). -/
def Res.lose (q : Res) (n : Nat) : Res :=
  { q with overrun := true, lost := satAdd 32 q.lost n, lostSince := satAdd 32 q.lostSince n,
           lostTotal := satAdd 32 q.lostTotal n }

/-- A producer commits a record (R329, R331): one that can stall waits while FULL, another is lost when it does not fit. -/
def State.commit (s : State) (f : Nat) (r : Rec) : State :=
  s.setRes f (fun q =>
    if prodUnstallable r.prod then
      if r.len ≤ q.freeEntries then { q with q := q.q ++ [r] } else q.lose 1
    else if q.full || !q.stalled.isEmpty then { q with stalled := q.stalled ++ [r] }
    else { q with q := q.q ++ [r] })

/-- An EVENT record's bytes 8 to 63 (R327). -/
def eventBody (code source object arg0 arg1 stamp : Nat) : List Byte :=
  natLE 2 code ++ [BitVec.ofNat 8 source, 0] ++ natLE 4 object ++ natLE 8 arg0 ++ natLE 8 arg1 ++
    natLE 4 stamp ++ List.replicate 28 0

/-- An EVENT record of the MP to one function, priority 3, stamped with the AON counter (R327, R328). -/
def State.mpEventTo (s : State) (f code object arg0 arg1 : Nat) : State :=
  s.commit f { type := 9, prio := 3, body := eventBody code 0 object arg0 arg1 (s.mgt.aonCount % 2 ^ 32),
               prod := .mp, obj := 0 }

/-- A management EVENT (R433): to PF0's queue, to every enabled VF when it concerns partitions, and the sideband alert. -/
def State.mgtEvent (s : State) (code object arg0 arg1 : Nat) (toVFs : Bool) : State :=
  let fs := if toVFs then (List.range 9).filter s.fnExists else [0]
  let s := fs.foldl (fun s f => s.mpEventTo f code object arg0 arg1) s
  { s with mgt := { s.mgt with alert := true } }

/-- An EVENT record of the Cellarer to a partition's queue, priority 3 (R195, R328). -/
def State.celEvent (s : State) (p code object arg0 arg1 : Nat) : State :=
  s.commit p { type := 9, prio := 3, body := eventBody code 1 object arg0 arg1 0, prod := .cellarer, obj := 0 }

/-! ### Wakes (R25, R405, R408) -/

/-- The domains a domain needs awake, besides the PLLs (R24): DC, EN and PG need at least one MEMG, which wake together (R406). -/
def domNeeds (d : Nat) : List Nat :=
  if d = 0 then []
  else if d ≤ 4 then [0]
  else if d ≤ 12 then [0, d + 8]
  else if d ≤ 20 then [0]
  else if d ≤ 26 then [0, 1, 2, 3]
  else if d = 27 then [0, 4]
  else if d = 28 then [0]
  else [0, 4]

/-- The PLLs that feed a domain, as bits of PWR_PLL_STATUS.LOCKED (R405, R408). -/
def domPlls (d : Nat) : List Nat :=
  if d = 0 then [0]
  else if d ≤ 3 then [d + 2]
  else if d = 4 then [0]
  else if d ≤ 20 then [1]
  else if d ≤ 24 then [0, 2]
  else if d ≤ 27 then [2]
  else [0]

/-- A PLL that is not locked starts (R408). -/
def State.startPll (s : State) (p : Nat) : State :=
  if s.pwr.pllLocked.getLsbD p then s
  else { s with pwr := { s.pwr with pllStarting := s.pwr.pllStarting ||| BitVec.ofNat 6 (2 ^ p) } }

/-- Whether a MEMG domain is ON: of MEMG0 to MEMG2 one is enough for what needs them (R24). -/
def State.memgOn (s : State) : Bool := [1, 2, 3].any (fun n => decide ((s.domAt n).st = .on))

/-- Whether the MP may begin a domain's wake: every domain it needs is ON, of the MEMGs one, and its PLLs are locked (R24, R25, R405). -/
def State.canWake (s : State) (d : Nat) : Bool :=
  (domNeeds d).all (fun n => decide (1 ≤ n ∧ n ≤ 3) || decide ((s.domAt n).st = .on)) &&
  (!(domNeeds d).contains 1 || s.memgOn) && (domPlls d).all (fun p => s.pwr.pllLocked.getLsbD p)

/-- A domain's pending wake begun when it can be: a sleep entry under way is stopped, since a wake wins (R25, R407). -/
def State.beginWake (s : State) (d : Nat) : State :=
  let m := s.domAt d
  if !m.wakeReq || m.switchedOff then s
  else if m.st = .on then s.setDom d (fun m => { m with move := .none, wakeReq := false })
  else if s.canWake d then s.setDom d (fun m => { m with move := .waking })
  else s

/-- Wakes begun for every domain that waits for one, needs first (R25). -/
def State.beginWakes (s : State) : State := (List.range 30).foldl State.beginWake s

/-- A block asks for a domain (R25): the domain, and every domain it needs, are asked for, and their PLLs start. -/
def State.wakeOne (s : State) (d : Nat) : State :=
  let m := s.domAt d
  if m.switchedOff then s
  else if m.st = .on ∧ m.move = .none then s
  else (domPlls d).foldl State.startPll (s.setDom d (fun m => { m with wakeReq := true }))

/-- A wake request with its dependencies (R25, R407). MEMG0 to MEMG2 wake together (R406). -/
def State.wake (s : State) (d : Nat) : State :=
  let ds := domNeeds d ++ (if 1 ≤ d ∧ d ≤ 3 then [1, 2, 3] else [d])
  (ds.foldl State.wakeOne s).beginWakes

/-- The domains that serve an address (R394): core stores lie in MS, the cellar store in CS, DRAM in the MEMGs. -/
def State.domOf (s : State) (a : Nat) : Option Nat :=
  match s.regionOf a with
  | .dram => some (1 + s.channelOf a / 4)
  | .cellar => some 4
  | .coreStore n => some (13 + n)
  | _ => none

end Sys2Proof.Machine
end

