-- ==== Sys2Proof/Machine/Folio.lean ====
section
/-! DEFINITION. The folio image and what it declares (R140 to R151): header, tensors, quires, bindings, instructions, chains and geometries. -/

namespace Sys2Proof.Machine

/-- A section's offset: 0 tensor table, 1 quire table, 2 code, 3 chain table, 4 geometry table, 5 lists, 6 constant data, 7 strip table (R140). -/
def fSection (img : List Byte) (k : Nat) : Nat := leAt img (0x20 + 4 * k) 4
def fTensors (img : List Byte) : Nat := leAt img 0x14 2
def fQuires (img : List Byte) : Nat := leAt img 0x16 2
def fChains (img : List Byte) : Nat := leAt img 0x18 2
def fGeoms (img : List Byte) : Nat := leAt img 0x1A 2
def fLuts (img : List Byte) : Nat := leAt img 0x1C 2
def fStrips (img : List Byte) : Nat := leAt img 0x1E 2

/-- A tensor declaration (R142). -/
structure TDecl where
  kind : Nat
  /-- 0 signed, 1 unsigned, 2 S2. -/
  form : Nat
  planes : Nat
  /-- 0 planes, 1 C3, 2 C2. -/
  comp : Nat
  home : Nat
  hints : Nat
  positions : Nat
  channels : Nat
  ps : Nat
  planeBytes : Nat
  first : Nat
  last : Nat
  affinity : Nat
  scaleMode : Nat
  eMin : Nat
  eMax : Nat
  eSeed : Nat
  depthOfs : Nat
  zeroOfs : Nat
  dataOfs : Nat
  deriving DecidableEq, Repr

/-- Declaration t of an image (R142). -/
def tdecl (img : List Byte) (t : Nat) : TDecl :=
  let r := sliceB img (fSection img 0 + 64 * t) 64
  let f := leAt r 1 1
  { kind := leAt r 0 1, form := bitsOf f 0 2, planes := bitsOf f 2 2 + 1, comp := bitsOf f 4 2,
    home := leAt r 2 1, hints := leAt r 3 1, positions := leAt r 4 4, channels := leAt r 8 4,
    ps := leAt r 0x0C 4, planeBytes := leAt r 0x10 4, first := leAt r 0x14 2, last := leAt r 0x16 2,
    affinity := leAt r 0x18 2, scaleMode := leAt r 0x1A 1, eMin := leAt r 0x1B 1, eMax := leAt r 0x1C 1,
    eSeed := leAt r 0x1D 1, depthOfs := leAt r 0x20 4, zeroOfs := leAt r 0x24 4, dataOfs := leAt r 0x28 4 }

/-- Whether a tensor is constant: it has contents in the image (R142). -/
def TDecl.isConst (d : TDecl) : Bool := decide (d.dataOfs ≠ 0)

/-- Whether a tensor is held in planes (R142). -/
def TDecl.inPlanes (d : TDecl) : Bool := decide (d.comp = 0) && decide (d.kind ≠ 2) && decide (d.kind ≠ 5)

/-- Whether a tensor's exponent is measured: its producer writes an intermediate that STATS and CONVERT read (R54, R142). -/
def TDecl.measured (d : TDecl) : Bool := decide (d.scaleMode = 2) && decide (d.kind ≠ 3)

/-- Planes a tensor takes in its home: an intermediate has four whatever is declared (R54; assumption log 14). -/
def TDecl.storedPlanes (d : TDecl) : Nat := if d.measured then 4 else d.planes

/-- The measured-mode intermediate of a tensor: four signed planes of every channel, with no zero point (R54). -/
def TDecl.mid (d : TDecl) : TDecl := { d with form := 0, planes := 4, depthOfs := 0, zeroOfs := 0 }

/-- The planes a FLUSH writes of a tensor: its own, or its intermediate's (R54). -/
def TDecl.written (d : TDecl) : TDecl := if d.measured then d.mid else d

/-- Bytes of a tensor in its home (R54, R142). -/
def TDecl.homeBytes (d : TDecl) : Nat := if d.inPlanes then d.storedPlanes * d.planeBytes else d.planeBytes

/-- Bytes of one plane in a core store: a compressed tensor is held there decoded (R138). -/
def TDecl.storePlane (d : TDecl) : Nat := if d.comp = 0 then d.planeBytes else d.positions * d.ps

/-- Bytes of a tensor in a core store (R138, R142). -/
def TDecl.storeBytes (d : TDecl) : Nat := if d.comp = 0 then d.homeBytes else d.storedPlanes * d.storePlane

/-- Whether a core store holds only working copies of a tensor: it is compressed, or HOME_ALLOWED leaves the core store out (R60, R138, R142; assumption log 46). -/
def TDecl.viaCopy (d : TDecl) : Bool := decide (d.comp ≠ 0) || !bitOf d.home 0

/-- Whether a tensor is a dynamic-scale point: a network input, or a point with a running or measured exponent (R47, R142). -/
def TDecl.dynamic (d : TDecl) : Bool := decide (d.kind = 3) || decide (d.scaleMode ≠ 0)

/-- Bits of one element of a plane: 2 for S2, 4 otherwise (R28). -/
def TDecl.digitBits (d : TDecl) : Nat := if d.form = 2 then 2 else 4

/-- Depth of the group of channel c (R42). -/
def chanDepth (img : List Byte) (d : TDecl) (c : Nat) : Nat :=
  if d.depthOfs = 0 then d.planes else leAt img (d.depthOfs + c / 16) 1

/-- Zero point of channel c, 4n bits (R31). -/
def chanZero (img : List Byte) (d : TDecl) (c : Nat) : Nat :=
  if d.form ≠ 1 ∨ d.zeroOfs = 0 then 0 else leAt img (d.zeroOfs + 2 * c) 2

/-- A quire header (R146). -/
structure QHdr where
  flags : Nat
  codeLen : Nat
  codeOfs : Nat
  nBind : Nat
  strip : Nat
  nPred : Nat
  bindOfs : Nat
  footprint : Nat
  predOfs : Nat
  liveOfs : Nat
  nLive : Nat
  liveBytes : Nat
  est : Nat
  chainBase : Nat
  deriving DecidableEq, Repr

/-- Header of quire q of an image (R146). -/
def qhdr (img : List Byte) (q : Nat) : QHdr :=
  let r := sliceB img (fSection img 1 + 64 * q) 64
  { flags := leAt r 0 2, codeLen := leAt r 2 2, codeOfs := leAt r 4 4, nBind := leAt r 8 1, strip := leAt r 9 1,
    nPred := leAt r 0x0A 2, bindOfs := leAt r 0x0C 4, footprint := leAt r 0x10 4, predOfs := leAt r 0x14 4,
    liveOfs := leAt r 0x18 4, nLive := leAt r 0x1C 2, liveBytes := leAt r 0x20 4, est := leAt r 0x24 4,
    chainBase := leAt r 0x28 2 }

/-- CHECKSUM, S2 and SWEEP of a quire (R146). -/
def QHdr.checksum (h : QHdr) : Bool := bitOf h.flags 0
def QHdr.s2 (h : QHdr) : Bool := bitOf h.flags 1
def QHdr.sweep (h : QHdr) : Bool := bitOf h.flags 2

/-- Roles of a binding (R147), coded in the order of the rule's list (assumption log 15). -/
def roleRead : Nat := 0
def roleWrite : Nat := 1
def roleUpdate : Nat := 2

/-- Binding i of a quire: TENSOR_ID and ROLE (R147). -/
def qbind (img : List Byte) (h : QHdr) (i : Nat) : Nat × Nat :=
  (leAt img (h.bindOfs + 4 * i) 2, leAt img (h.bindOfs + 4 * i + 2) 1)

/-- Every binding of a quire. -/
def qbinds (img : List Byte) (h : QHdr) : List (Nat × Nat) := (List.range h.nBind).map (qbind img h)

/-- Predecessors of a quire (R146). -/
def qpreds (img : List Byte) (h : QHdr) : List Nat := (List.range h.nPred).map (fun i => leAt img (h.predOfs + 2 * i) 2)

/-- Live set of a quire (R164). -/
def qlive (img : List Byte) (h : QHdr) : List Nat := (List.range h.nLive).map (fun i => leAt img (h.liveOfs + 2 * i) 2)

/-- Instruction k of a quire, 64 bits (R149). -/
def qinst (img : List Byte) (h : QHdr) (k : Nat) : Nat := leAt img (h.codeOfs + 8 * k) 8

/-- The instance that binding i binds (R143): of a network input or dynamic-scale point, its place among the bindings of that tensor in the same role; of any other tensor the one there is (log 15). -/
def bindInstance (img : List Byte) (bs : List (Nat × Nat)) (i : Nat) : Nat :=
  let b := bs.getD i (0, 0)
  let d := tdecl img b.1
  if d.dynamic || decide (d.kind = 4) then ((bs.take i).filter (· == b)).length else 0

/-! ### Instruction words (R149) -/

def iClass (w : Nat) : Nat := bitsOf w 60 4
def iOp (w : Nat) : Nat := bitsOf w 56 4
def iLop (w : Nat) : Nat := bitsOf w 52 8

/-- The words of the instructions (R149). -/
def wNop : Nat := 0
def wEnd : Nat := 1 * 2 ^ 56
def wFence : Nat := 2 * 2 ^ 56
def wMark (v : Nat) : Nat := 3 * 2 ^ 56 + v
def wGeom (mask idx : Nat) (window : Bool) : Nat := 1 * 2 ^ 60 + mask * 2 ^ 56 + idx * 2 ^ 44 + b2n window * 2 ^ 43
def wWload (binding plane diag : Nat) (s2 : Bool) (offset : Nat) : Nat :=
  2 * 2 ^ 60 + binding * 2 ^ 52 + plane * 2 ^ 50 + diag * 2 ^ 47 + b2n s2 * 2 ^ 46 + offset
def wSlot (slot binding plane p chain p0 : Nat) : Nat :=
  3 * 2 ^ 60 + slot * 2 ^ 58 + binding * 2 ^ 50 + plane * 2 ^ 48 + p * 2 ^ 42 + chain * 2 ^ 34 + p0
def wPass (mask : Nat) (neww bank opening : Bool) (block : Nat) : Nat :=
  4 * 2 ^ 60 + mask * 2 ^ 56 + b2n neww * 2 ^ 55 + b2n bank * 2 ^ 54 + b2n opening * 2 ^ 53 + block * 2 ^ 44
def wFlush (mask : Nat) (bank : Bool) (shift : Nat) (convert : Bool) (chain out col : Nat) (acc : Bool) : Nat :=
  5 * 2 ^ 60 + mask * 2 ^ 56 + b2n bank * 2 ^ 55 + shift * 2 ^ 52 + b2n convert * 2 ^ 51 + chain * 2 ^ 43 +
    out * 2 ^ 35 + col * 2 ^ 27 + b2n acc * 2 ^ 26
def wLane (lop vd va vb binding mod offset : Nat) : Nat :=
  6 * 2 ^ 60 + lop * 2 ^ 52 + vd * 2 ^ 47 + va * 2 ^ 42 + vb * 2 ^ 37 + binding * 2 ^ 29 + mod * 2 ^ 24 + offset

/-! ### Chains and geometries (R144, R145) -/

/-- A chain descriptor (R145). -/
structure ChainD where
  select : Nat
  softmaxK : Nat
  proLeaky : Nat
  epiLeaky : Nat
  normA : Nat
  proLut : Nat
  epiLut : Nat
  bGather : Nat
  bProSide : Nat
  bEpiSide : Nat
  bGutter : Nat
  proLo : Int
  proHi : Int
  normE : Nat
  chanOfs : Nat
  groupOfs : Nat
  proZeroOfs : Nat
  splitOfs : Nat
  deriving DecidableEq, Repr

/-- Chain c of an image (R145). -/
def chainD (img : List Byte) (c : Nat) : ChainD :=
  let r := sliceB img (fSection img 3 + 64 * c) 64
  { select := leAt r 0 4, softmaxK := leAt r 4 1, proLeaky := leAt r 5 1, epiLeaky := leAt r 6 1, normA := leAt r 7 1,
    proLut := leAt r 8 1, epiLut := leAt r 9 1, bGather := leAt r 0x0A 1, bProSide := leAt r 0x0B 1,
    bEpiSide := leAt r 0x0C 1, bGutter := leAt r 0x0D 1, proLo := toSigned 32 (leAt r 0x10 4),
    proHi := toSigned 32 (leAt r 0x14 4), normE := leAt r 0x18 4, chanOfs := leAt r 0x1C 4,
    groupOfs := leAt r 0x20 4, proZeroOfs := leAt r 0x24 4, splitOfs := leAt r 0x28 4 }

def ChainD.gather (c : ChainD) : Bool := bitOf c.select 0
def ChainD.transpose (c : ChainD) : Bool := bitOf c.select 1
def ChainD.norm (c : ChainD) : Nat := bitsOf c.select 2 2
def ChainD.proAct (c : ChainD) : Nat := bitsOf c.select 4 3
def ChainD.proPlanes (c : ChainD) : Nat := bitsOf c.select 7 2 + 1
def ChainD.proUnsigned (c : ChainD) : Bool := bitOf c.select 9
def ChainD.epiAct (c : ChainD) : Nat := bitsOf c.select 10 3
def ChainD.epiWrite (c : ChainD) : Bool := bitOf c.select 13
def ChainD.epiRow (c : ChainD) : Nat := bitsOf c.select 14 2
def ChainD.rowFirst (c : ChainD) : Bool := bitOf c.select 16
def ChainD.epiCol (c : ChainD) : Nat := bitsOf c.select 17 2
def ChainD.colFirst (c : ChainD) : Bool := bitOf c.select 19
def ChainD.splitEq (c : ChainD) : Bool := bitOf c.select 20
/-- Depth-to-space factor, 1 where there is none (R120). -/
def ChainD.d2s (c : ChainD) : Nat := 2 ^ bitsOf c.select 21 2
def ChainD.gutter (c : ChainD) : Bool := bitOf c.select 23

/-- Whether a chain bypasses the prologue (R90). -/
def ChainD.bypass (c : ChainD) : Bool := !c.gather && !c.transpose && c.norm == 0 && c.proAct == 0

/-- A per-channel record (R145). -/
structure ChanRec where
  s : Nat
  g : Int
  b : Int
  z : Int
  w : Int
  deriving DecidableEq, Repr

/-- The record of output channel c; all zero where CHAN_OFS is 0 (R145). -/
def chanRec (img : List Byte) (c : ChainD) (ch : Nat) : ChanRec :=
  if c.chanOfs = 0 then { s := 0, g := 0, b := 0, z := 0, w := 0 }
  else
    let r := sliceB img (c.chanOfs + 24 * ch) 24
    { s := leAt r 0 1, g := toSigned 16 (leAt r 2 2), b := toSigned 32 (leAt r 4 4), z := (leAt r 8 2 : Int),
      w := toSigned 64 (leAt r 16 8) }

/-- The code range of a depth (R30). -/
def codeRange (unsigned : Bool) (d : Nat) : Int × Int :=
  if unsigned then (0, 16 ^ d - 1) else (-(8 * 16 ^ (d - 1)), 8 * 16 ^ (d - 1) - 1)

/-- lo_g and hi_g of group k (R40, R145). -/
def groupBounds (img : List Byte) (c : ChainD) (unsigned : Bool) (d k : Nat) : Int × Int :=
  if c.groupOfs = 0 then codeRange unsigned d
  else (toSigned 32 (leAt img (c.groupOfs + 8 * k) 4), toSigned 32 (leAt img (c.groupOfs + 8 * k + 4) 4))

/-- Entry j of LUT8 table i, signed (R141). -/
def lutEntry (img : List Byte) (i j : Nat) : Int := toSigned 16 (leAt img (fSection img 6 + 512 * i + 2 * j) 2)

/-- A geometry entry (R144). -/
structure GeomD where
  kh : Nat
  kw : Nat
  sy : Nat
  sx : Nat
  dy : Nat
  dx : Nat
  py : Nat
  px : Nat
  h : Nat
  w : Nat
  ho : Nat
  wo : Nat
  nb : Nat
  deriving DecidableEq, Repr

/-- Geometry entry g of an image (R144). -/
def geomD (img : List Byte) (g : Nat) : GeomD :=
  let r := sliceB img (fSection img 4 + 32 * g) 32
  { kh := leAt r 0 1, kw := leAt r 1 1, sy := leAt r 2 1, sx := leAt r 3 1, dy := leAt r 4 1, dx := leAt r 5 1,
    py := leAt r 6 1, px := leAt r 7 1, h := leAt r 8 2, w := leAt r 10 2, ho := leAt r 12 2, wo := leAt r 14 2,
    nb := leAt r 16 1 + 1 }

/-- The input position a window read takes for block b and output position p; none for padding (R114, R115). -/
def GeomD.position (g : GeomD) (b p : Nat) : Option Nat :=
  let t := b / g.nb
  let ky := t / g.kw
  let kx := t % g.kw
  let iy : Int := ((p / g.wo * g.sy + ky * g.dy : Nat) : Int) - g.py
  let ix : Int := ((p % g.wo * g.sx + kx * g.dx : Nat) : Int) - g.px
  if ky < g.kh ∧ 0 ≤ iy ∧ iy < g.h ∧ 0 ≤ ix ∧ ix < g.w then some (iy.toNat * g.w + ix.toNat) else none

/-- Where columns base to base + n − 1 of an output position go, straight or depth-to-space: position, first channel, first of those columns, and their number (R120, R150). -/
def outRuns (img : List Byte) (g : Option (Nat × Bool)) (c : ChainD) (d : TDecl) (pos base n : Nat) : List (Nat × Nat × Nat × Nat) :=
  let f := c.d2s
  if f = 1 then [(pos, base, 0, n)]
  else
    let wo := match g with
      | some (g, _) => max 1 (geomD img g).wo
      | none => max 1 (d.positions / (f * f))
    (List.range (f * f)).filterMap (fun ab =>
      let lo := ab * d.channels
      let from_ := max lo base
      let to_ := min (lo + d.channels) (base + n)
      if from_ < to_ then
        some ((pos / wo * f + ab / f) * (wo * f) + (pos % wo * f + ab % f), from_ - lo, from_ - base, to_ - from_)
      else none)

/-- The columns of a tile that a chain's output has: CHANNELS of them in all, f² times as many in depth-to-space layout (R120, R150). -/
def tileCols (c : ChainD) (d : TDecl) (base width : Nat) : Nat := min width (d.channels * c.d2s * c.d2s - base)

/-- The handle's folio of a partition (R317). -/
def State.folioAt (s : State) (p h : Nat) : Option Folio :=
  s.cel.folios.find? (fun f => f.part == p && f.handle == h)

/-- The image of a partition's folio; empty where there is none. -/
def State.imageOf (s : State) (p h : Nat) : List Byte := ((s.folioAt p h).map (·.image)).getD []

/-- Instances of a tensor that a folio binds (R143; log 15). -/
def instCount (img : List Byte) (t : Nat) : Nat :=
  ((List.range (fQuires img)).flatMap (fun q => [roleRead, roleWrite, roleUpdate].map (fun r =>
    ((qbinds img (qhdr img q)).filter (· == (t, r))).length))).foldl max 0

end Sys2Proof.Machine
end

