-- ==== Sys2Proof/Machine/Operands.lean ====
section
/-! DEFINITION. Operand forms: digits and planes (R27 to R34, R42), the output conversion (R39, R40), exponents (R49), side-vector entries (R100), the exact functions of chains and lanes (R78, R79, R95, R103 to R106) and the feature-map codec (R133 to R139). -/

namespace Sys2Proof.Machine

/-! ### Digits (R27 to R32) -/

/-- The signed value of a 4-bit digit (R27: S4). -/
def s4 (d : Nat) : Int := if d % 16 < 8 then ((d % 16 : Nat) : Int) else ((d % 16 : Nat) : Int) - 16
/-- The signed value of a 2-bit digit (R27: S2). -/
def s2d (d : Nat) : Int := if d % 4 < 2 then ((d % 4 : Nat) : Int) else ((d % 4 : Nat) : Int) - 4

/-- Digit p of n of a code, as its 4-bit pattern (R32). -/
def digitOf (v : Int) (n p : Nat) : Nat := ((v / 16 ^ (n - 1 - p)) % 16).toNat

/-- The digits of a code, D0 first (R32: split). -/
def splitDigits (v : Int) (n : Nat) : List Nat := (List.range n).map (digitOf v n)

/-- The code of a list of digits, D0 first (R32: recompose); `unsigned` says how D0 is read (R30). -/
def recompose (unsigned : Bool) : List Nat → Int
  | [] => 0
  | d :: ds => ds.foldl (fun (v : Int) (x : Nat) => v * 16 + (x : Int)) (if unsigned then ((d % 16 : Nat) : Int) else s4 d)

/-- The digit of element e of a byte list: two digits in each byte, four for S2 (R28). -/
def elemDigit (bits : Nat) (bs : List Byte) (e : Nat) : Nat :=
  let per := 8 / bits
  bitsOf (bs.getD (e / per) 0).toNat (bits * (e % per)) bits

/-- The bytes of a list of digits, packed as R28 says, unused bits 0. -/
def packDigits (bits : Nat) (ds : List Nat) : List Byte :=
  let per := 8 / bits
  (List.range (ceilDiv ds.length per)).map (fun i =>
    BitVec.ofNat 8 (((List.range per).map (fun k => (ds.getD (per * i + k) 0 % 2 ^ bits) * 2 ^ (bits * k))).sum))

/-- The operand a digit becomes at the multiplier (R34): plane p of a signed or unsigned activation with zero digit z. -/
def digitOperand (form p d z : Nat) : Int :=
  if form = 2 then s2d d
  else if form = 1 then ((d : Nat) : Int) - (z : Nat)
  else if p = 0 then s4 d else ((d % 16 : Nat) : Int)

/-! ### Conversion and exponents (R36, R39, R40, R49) -/

/-- The long accumulator's sum modulo 2^48 (R36). -/
def wrap48 (x : Int) : Int := toSigned 48 (ofSigned 48 x)

/-- The shift of R40: s_c + e_shift + 4 (n − d), held between 0 and 47. -/
def convShift (sc : Nat) (e : Int) (n d : Nat) : Nat := (clampI 0 47 ((sc : Int) + e + 4 * ((n : Int) - d))).toNat

/-- The zero point of a group of depth d in units of its last plane (R40, R94). -/
def zeroAt (z : Int) (n d : Nat) : Int := z / 16 ^ (n - d)

/-- The code before the clamp: t + zq (R40). -/
def convertRaw (y : Int) (sc : Nat) (e : Int) (n d : Nat) (z : Int) : Int :=
  truncShift y (convShift sc e n d) + zeroAt z n d

/-- The output conversion (R40). -/
def convertCode (y : Int) (sc : Nat) (e : Int) (n d : Nat) (z lo hi : Int) : Int :=
  clampI lo hi (convertRaw y sc e n d z)

/-- Whether a window statistic fits the code range at exponent e (R49). -/
def expFits (aHi aLo z qlo qhi : Int) (e : Nat) : Bool :=
  decide (truncShift aHi e + z ≤ qhi) && decide (qlo ≤ truncShift aLo e + z)

/-- choose_exp of R49. -/
def chooseExp (aHi aLo z qlo qhi : Int) (eMin eMax : Nat) : Nat :=
  ((List.range (eMax + 1 - eMin)).find? (fun i => expFits aHi aLo z qlo qhi (eMin + i))).elim eMax (eMin + ·)

/-! ### Table functions (R78, R79) and roots -/

/-- The largest integer whose k-th power does not exceed v, searched among `bits` bits. -/
def rootFloor (k v : Nat) : Nat → Nat → Nat
  | 0, acc => acc
  | b + 1, acc => if (acc + 2 ^ b) ^ k ≤ v then rootFloor k v b (acc + 2 ^ b) else rootFloor k v b acc

/-- Integer square root (R105). -/
def isqrt (v : Nat) : Nat := rootFloor 2 v (Nat.log2 v / 2 + 1) 0

/-- T[f] of R78: floor(2^(16 − f/256)), the 256-th root of 2^(4096 − f); T[0] is 65,535. -/
def expTable (f : Nat) : Nat := if f = 0 then 65535 else rootFloor 256 (2 ^ (4096 - f)) 16 0

/-- EXP2N (R78). -/
def exp2n (x : Nat) : Nat := if 16 ≤ x / 256 then 0 else expTable (x % 256) / 2 ^ (x / 256)

/-- exp2n_arg of R104: a non-negative distance cut at 65,535. -/
def exp2nArg (d : Int) : Nat := if 65535 < d then 65535 else d.toNat

/-- RECIP (R79). -/
def recip (x : Nat) : Nat := if x = 0 then 0xFFFFFFFF else 2 ^ 31 / x

/-! ### Chain steps (R95, R98, R99, R103 to R106) -/

/-- Step 4 of the prologue on operand value r of stored code c (R95). -/
def proAct (img : List Byte) (c : ChainD) (r code : Int) : Int :=
  match c.proAct with
  | 1 => max r 0
  | 2 => min (max r c.proLo) c.proHi
  | 3 => if 0 ≤ r then r * 2 ^ c.proLeaky else r
  | 4 => lutEntry img c.proLut (code % 256).toNat
  | _ => r

/-- Planes of the codes a prologue delivers: PRO_PLANES, or the sweep's output planes at F3 and F4 (R96, R109). -/
def chainPlanes (img : List Byte) (c : ChainD) : Nat := if c.splitEq ∧ c.norm ≠ 0 then leAt img c.splitOfs 1 else c.proPlanes

/-- Whether those codes are in the unsigned form (R96, R109). -/
def chainUnsigned (img : List Byte) (c : ChainD) : Bool :=
  if c.splitEq ∧ c.norm ≠ 0 then decide (leAt img (c.splitOfs + 1) 1 = 1) else c.proUnsigned

/-- The zero point of step 5 for contraction index ch (R96, R145). -/
def proZero (img : List Byte) (c : ChainD) (ch : Nat) : Nat :=
  if chainUnsigned img c ∧ c.proZeroOfs ≠ 0 then leAt img (c.proZeroOfs + 2 * ch) 2 else 0

/-- Step 7 of the epilogue on converted code q, before the saturation of R98. -/
def epiAct (img : List Byte) (c : ChainD) (q zq : Int) : Int :=
  match c.epiAct with
  | 3 => if zq ≤ q then zq + (q - zq) * 2 ^ c.epiLeaky else q
  | 4 => lutEntry img c.epiLut (q % 256).toNat
  | _ => q

/-- The entry of a side vector as its 16 bytes: signed 64-bit and unsigned 64-bit halves (R100). -/
def sideEntry (a b : Int) : List Byte := natLE 8 (ofSigned 64 a) ++ natLE 8 (ofSigned 64 b)

/-- ROWSTAT's m and l in one 8-byte half (R100). -/
def packRowstat (m l : Int) : Int := ofSigned 32 m + (ofSigned 32 l : Int) * 2 ^ 32

/-- The initial entry of a row reduction: 1 ROWSTAT, 2 ROWMOM, 3 ARGMAX (R100). -/
def rowInit : Nat → List Byte
  | 1 => sideEntry (packRowstat (-65536) 0) 0
  | 3 => sideEntry (packRowstat (-(2 ^ 31)) 0xFFFFFFFF) 0
  | _ => sideEntry 0 0

/-- The initial entry of a column reduction: 1 COLSUM, 2 COLMAX (R100). -/
def colInit : Nat → List Byte
  | 2 => sideEntry (ofSigned 32 (-(2 ^ 31))) 0
  | _ => sideEntry 0 0

/-- One column tile's ROWSTAT update of (m, l) (R104); `keepM` keeps m only, the split-equivalent form of R109. -/
def rowstat (m l : Int) (r : List Int) (k : Nat) (keepM : Bool) : Int × Int :=
  match r with
  | [] => (m, l)
  | r0 :: rs =>
    let mt := rs.foldl max r0
    let mn := max mt m
    if keepM then (mn, l)
    else
      let l := if m < mn ∧ l ≠ 0 then l * (exp2n (exp2nArg (mn - m)) : Nat) / 2 ^ 16 else l
      (mn, l + ((r.map (fun x => exp2n (exp2nArg (mn - x)) / 2 ^ k)).sum : Nat))

/-- A row reduction's new entry from the reduced values of one tile, the first at column `col` (R100, R101, R104). -/
def rowReduce (kind k : Nat) (keepM : Bool) (old : List Byte) (col : Nat) (r : List Int) : List Byte :=
  match kind with
  | 1 =>
    let e := rowstat (toSigned 32 (leAt old 0 4)) (leAt old 4 4 : Nat) r k keepM
    sideEntry (packRowstat e.1 e.2) 0
  | 2 => sideEntry (toSigned 64 (leAt old 0 8) + r.sum) ((leAt old 8 8 : Nat) + (r.map (fun x => x * x)).sum)
  | 3 =>
    let e := (r.zipIdx).foldl (fun (acc : Int × Nat) x =>
      if acc.1 < x.1 then (x.1, col + x.2) else if acc.1 = x.1 then (acc.1, min acc.2 (col + x.2)) else acc)
      (toSigned 32 (leAt old 0 4), leAt old 4 4)
    sideEntry (packRowstat e.1 (e.2 : Nat)) 0
  | _ => old

/-- A column reduction's new entry from one reduced value (R100, R101). -/
def colReduce (kind : Nat) (old : List Byte) (r : Int) : List Byte :=
  match kind with
  | 1 => sideEntry (toSigned 64 (leAt old 0 8) + r) 0
  | 2 => sideEntry (ofSigned 32 (max (toSigned 32 (leAt old 0 4)) r)) 0
  | _ => old

/-- The row factors P_j, S_j and D_j (R105): N is the row's valid column count, E the descriptor's constant. -/
def rowFactors (norm n e : Nat) (entry : List Byte) : Int × Int × Int :=
  match norm with
  | 1 => (1, 0, max 1 (leAt entry 4 4 : Nat))
  | 2 =>
    let s := toSigned 64 (leAt entry 0 8)
    let q : Int := (leAt entry 8 8 : Nat)
    ((n : Int), s, max 1 (isqrt ((n : Int) * q - s * s + e).toNat : Nat))
  | _ => (1, 0, max 1 (isqrt (leAt entry 8 8 + e) : Nat))

/-- The quotient of the normalised conversion (R106). -/
def normQuotient (y p s w g b d : Int) (a sh : Nat) : Int :=
  tdiv ((y * p - s * w) * g * 2 ^ a + b * d * 2 ^ sh) (d * 2 ^ sh)

/-! ### Planes of a tensor -/

/-- The codes of one position of a planes tensor: each channel's digits from the bytes of the planes' position segments (R28, R30). -/
def positionCodes (img : List Byte) (d : TDecl) (segs : List (List Byte)) (ch : Nat) : Int :=
  let dep := chanDepth img d ch
  recompose (decide (d.form = 1)) ((List.range dep).map (fun p => elemDigit d.digitBits (segs.getD p []) ch))

/-- The full-depth code of a channel for the codec: zero digits where planes are absent, offset to be non-negative (R133). -/
def fullCode (img : List Byte) (d : TDecl) (segs : List (List Byte)) (ch : Nat) : Nat :=
  let dep := chanDepth img d ch
  let q := positionCodes img d segs ch * 16 ^ (d.planes - dep)
  (if d.form = 1 then q else q + 8 * 16 ^ (d.planes - 1)).toNat

/-! ### The compressed feature-map format (R133 to R136) -/

/-- Bytes of a block: 24 for C3, 16 for C2 (R133). -/
def blockBytes (comp : Nat) : Nat := if comp = 1 then 24 else 16

/-- Whether step exponent k passes for every sub-block (R136). -/
def stepPasses (subs : List (List Nat)) (base b k : Nat) : Bool :=
  subs.all (fun v =>
    match v with
    | [] => true
    | x :: xs =>
      let lo := (xs.foldl min x - base) / 2 ^ k
      let hi := (xs.foldl max x - base) / 2 ^ k
      decide (lo ≤ 255) && decide (hi - lo ≤ 2 ^ b - 1))

/-- One block from the codes of its valid channels, 64 at most (R134, R136). -/
def encodeBlock (comp : Nat) (codes : List Nat) : List Byte :=
  let b := if comp = 1 then 2 else 1
  let subs := (List.range 4).map (fun s => (codes.drop (16 * s)).take 16)
  let base := match codes with
    | [] => 0
    | x :: xs => xs.foldl min x
  let k := ((List.range 17).find? (stepPasses subs base b)).getD 16
  let ofs := subs.map (fun v => match v with
    | [] => 0
    | x :: xs => (xs.foldl min x - base) / 2 ^ k)
  let res := codes.zipIdx.map (fun e => ((e.1 - base) / 2 ^ k - ofs.getD (e.2 / 16) 0) * 2 ^ (b * e.2))
  natLE (blockBytes comp)
    (base + k * 2 ^ 16 + (if comp = 1 then 2 else 1) * 2 ^ 21 +
     ((ofs.zipIdx.map (fun e => e.1 * 2 ^ (32 + 8 * e.2))).sum) + res.sum * 2 ^ 64)

/-- Whether a block is malformed (R139). -/
def blockMalformed (comp n : Nat) (blk : List Byte) : Bool :=
  let v := leNat blk
  decide (16 < bitsOf v 16 5) || decide (bitsOf v 21 2 ≠ (if comp = 1 then 2 else 1)) ||
  decide (bitsOf v 23 9 ≠ 0) || decide (16 ^ n ≤ bitsOf v 0 16)

/-- The decoded full-depth code of channel i of a block (R135). -/
def decodeOne (comp n : Nat) (blk : List Byte) (i : Nat) : Nat :=
  let b := if comp = 1 then 2 else 1
  let v := leNat blk
  let k := bitsOf v 16 5
  min (16 ^ n - 1)
    (bitsOf v 0 16 + (bitsOf v (32 + 8 * (i / 16)) 8 + bitsOf v (64 + b * i) b) * 2 ^ k + (if k = 0 then 0 else 2 ^ (k - 1)))

/-- The group's code of a decoded full-depth code (R135). -/
def groupCode (d : TDecl) (dep c : Nat) : Int :=
  let q : Int := (c / 16 ^ (d.planes - dep) : Nat)
  if d.form = 1 then q else q - 8 * 16 ^ (dep - 1)

/-- One position of plane p from the codes of its channels: PS bytes (R28, R42). -/
def planeSegment (img : List Byte) (d : TDecl) (p : Nat) (codes : List Int) : List Byte :=
  padTo d.ps (packDigits d.digitBits (codes.zipIdx.map (fun e =>
    let dep := chanDepth img d e.2
    if p < dep then (if d.form = 2 then (e.1 % 4).toNat else digitOf e.1 dep p) else 0)))

/-- The planes of a compressed tensor, one after another, from its blocks (R135, R138). -/
def decodeTensor (img : List Byte) (d : TDecl) (blocks : List Byte) : List Byte :=
  let nb := ceilDiv d.channels 64
  let bb := blockBytes d.comp
  let codes := (List.range d.positions).map (fun p => (List.range d.channels).map (fun c =>
    groupCode d (chanDepth img d c) (decodeOne d.comp d.planes (sliceB blocks ((p * nb + c / 64) * bb) bb) (c % 64))))
  (List.range d.planes).flatMap (fun p => codes.flatMap (planeSegment img d p))

/-- The blocks of a tensor from its planes, each of `positions × PS` bytes (R133, R136). -/
def encodeTensor (img : List Byte) (d : TDecl) (planes : List Byte) : List Byte :=
  let nb := ceilDiv d.channels 64
  let pl := d.positions * d.ps
  (List.range d.positions).flatMap (fun p =>
    let segs := (List.range d.planes).map (fun k => sliceB planes (k * pl + p * d.ps) d.ps)
    (List.range nb).flatMap (fun j =>
      encodeBlock d.comp ((List.range (min 64 (d.channels - 64 * j))).map (fun i => fullCode img d segs (64 * j + i)))))

/-- The malformed blocks of a compressed tensor, by number (R139). -/
def malformedBlocks (d : TDecl) (blocks : List Byte) : List Nat :=
  let bb := blockBytes d.comp
  (List.range (d.positions * ceilDiv d.channels 64)).filter (fun i => blockMalformed d.comp d.planes (sliceB blocks (i * bb) bb))

end Sys2Proof.Machine
end

