-- ==== Sys2Proof/Machine/Strips.lean ====
section
/-! DEFINITION. Strips and gutters (R123 to R126): what a strip section declares, the gutter slots a quire's chains name, the rows that go to them and come from them, and the turns of the slots. -/

namespace Sys2Proof.Machine

/-- The strip table of an image. -/
def stripTable (img : List Byte) : List Byte := img.drop (fSection img 7)

/-- The words of a quire's code. -/
def codeWords (img : List Byte) (h : QHdr) : List Nat := (List.range h.codeLen).map (qinst img h)

/-- The chains the FLUSH instructions of a quire name (R149). -/
def flushChains (img : List Byte) (h : QHdr) : List ChainD :=
  ((codeWords img h).filter (fun w => iClass w == 5)).map (fun w => chainD img (h.chainBase + bitsOf w 43 8))

/-- Bindings that are gutter slots (R124). -/
def gutterBinds (img : List Byte) (h : QHdr) : List Nat := ((flushChains img h).filter (·.gutter)).map (·.bGutter)

/-- The gutter slots a quire deposits into (R124). -/
def gutterSlots (img : List Byte) (q : Nat) : List Nat := (gutterBinds img (qhdr img q)).map (fun i => (qbind img (qhdr img q) i).1)

/-- Whether a tensor is one of a folio's gutter slots, which stay in the cellar store (R124, R154, R174). -/
def isGutterSlot (img : List Byte) (tid : Nat) : Bool := (List.range (fQuires img)).any (fun q => (gutterSlots img q).contains tid)

/-! ### What a strip section declares (R123; assumption log 37) -/

/-- A number of strip section k of an image. -/
def stripNumber (img : List Byte) (k what i j : Nat) : Nat := Config.stripNumber (stripTable img) k what i j

/-- S, the strips of section k: 2 to 8. -/
def stripCount (img : List Byte) (k : Nat) : Nat := 2 + stripNumber img k 0 0 0 % 7

/-- The strip that a quire works on. -/
def stripOf (img : List Byte) (k q : Nat) : Nat := stripNumber img k 1 q 0 % stripCount img k

/-- The layer that a quire computes, of the run of layers of section k. -/
def stripLayer (img : List Byte) (k q : Nat) : Nat := stripNumber img k 2 q 0

/-- Positions of one row of the inputs of layer l. -/
def stripRow (img : List Byte) (k l : Nat) : Nat := max 1 (stripNumber img k 3 l 0)

/-- Rows of the input of layer l that strip x owns. -/
def stripOwn (img : List Byte) (k l x : Nat) : Nat := stripNumber img k 4 l x

/-- Gutter rows above strip x in the input of layer l: 0 to 15, none at the image edge (R123, R124). -/
def gutterAbove (img : List Byte) (k l x : Nat) : Nat := if x = 0 then 0 else stripNumber img k 5 l x % 16

/-- Gutter rows below strip x in the input of layer l: 0 to 15, none at the image edge (R123, R124). -/
def gutterBelow (img : List Byte) (k l x : Nat) : Nat := if x + 1 = stripCount img k then 0 else stripNumber img k 6 l x % 16

/-- The tensor that is strip x's input of layer l: its gutter rows above, its own rows, its gutter rows below (R124). -/
def stripTensor (img : List Byte) (k l x : Nat) : Nat := stripNumber img k 7 l x

/-- Whether a gutter slot holds rows for the strip below the one that deposits, and not for the one above (R125). -/
def slotDown (img : List Byte) (k tid : Nat) : Bool := stripNumber img k 8 tid 0 % 2 == 1

/-! ### Deposits and copies (R124) -/

/-- The position of a gutter slot that an output position of a quire also goes to: the last rows that the strip owns of the next layer's input go down, the first ones up, as many as the neighbour reads (R124). -/
def gutterRow (img : List Byte) (k q slot pos : Nat) : Option Nat :=
  let x := stripOf img k q
  let l := stripLayer img k q + 1
  let w := stripRow img k l
  let first := gutterAbove img k l x
  let stop := first + stripOwn img k l x
  if slotDown img k slot then
    let g := if x + 1 < stripCount img k then gutterAbove img k l (x + 1) else 0
    if stop - g ≤ pos / w ∧ pos / w < stop then some ((pos / w - (stop - g)) * w + pos % w) else none
  else
    let g := if 0 < x then gutterBelow img k l (x - 1) else 0
    if first ≤ pos / w ∧ pos / w < min stop (first + g) then some ((pos / w - first) * w + pos % w) else none

/-- Rows racked into a strip's tensor before a quire of its layer is issued (R124). -/
structure GutterCopy where
  /-- the slot, its rows from position 0 on. -/
  slot : Nat
  /-- the neighbour's tensor, whose own rows they are, and their first position there. -/
  near : Nat
  nearPos : Nat
  /-- the strip's tensor and the first position of its gutter. -/
  into : Nat
  intoPos : Nat
  /-- positions. -/
  count : Nat
  deriving DecidableEq, Repr

/-- The slot that the quires of a layer and strip deposit into, in one direction (R125). -/
def slotFrom (img : List Byte) (k l x : Nat) (down : Bool) : Option Nat :=
  ((List.range (fQuires img)).filter (fun p =>
    (qhdr img p).strip == k && stripLayer img k p == l && stripOf img k p == x)).findSome? (fun p =>
      (gutterSlots img p).find? (fun t => slotDown img k t == down))

/-- The gutter rows that a quire's strip needs of its neighbours, above and then below (R124). -/
def gutterCopies (img : List Byte) (q : Nat) : List GutterCopy :=
  let k := (qhdr img q).strip
  if k = 0xFF then []
  else
    let x := stripOf img k q
    let l := stripLayer img k q
    let w := stripRow img k l
    let a := gutterAbove img k l x
    let b := gutterBelow img k l x
    if l = 0 then []
    else
      (if a = 0 then [] else
        match slotFrom img k (l - 1) (x - 1) true with
        | some t => [{ slot := t, near := stripTensor img k l (x - 1),
                       nearPos := (gutterAbove img k l (x - 1) + stripOwn img k l (x - 1) - a) * w,
                       into := stripTensor img k l x, intoPos := 0, count := a * w }]
        | none => []) ++
      (if b = 0 then [] else
        match slotFrom img k (l - 1) (x + 1) false with
        | some t => [{ slot := t, near := stripTensor img k l (x + 1), nearPos := gutterAbove img k l (x + 1) * w,
                       into := stripTensor img k l x, intoPos := (a + stripOwn img k l x) * w, count := b * w }]
        | none => [])

/-! ### The turns of the slots (R125) -/

/-- Whether quire p computes the layer before quire q's, of a strip beside q's, in one section. -/
def beforeBeside (img : List Byte) (q p : Nat) : Bool :=
  let k := (qhdr img q).strip
  (qhdr img p).strip == k && stripLayer img k p + 1 == stripLayer img k q &&
    (stripOf img k p + 1 == stripOf img k q || stripOf img k q + 1 == stripOf img k p)

/-- Whether a quire reads a gutter slot's deposit. -/
def readsSlot (img : List Byte) (q slot : Nat) : Bool := (gutterCopies img q).any (fun c => c.slot == slot)

/-- Whether quire q waits for quire p to complete (R125): p makes a deposit that q reads, or p reads the deposit of two layers before from a slot into which q deposits. -/
def waitsForSlot (img : List Byte) (q p : Nat) : Bool :=
  decide ((qhdr img q).strip ≠ 0xFF) && beforeBeside img q p &&
    ((gutterSlots img p).any (readsSlot img q) || (gutterSlots img q).any (readsSlot img p))

end Sys2Proof.Machine
end

