-- ==== Sys2Proof/Machine/Packet.lean ====
section
/-! DEFINITION. Packets, replies, in-flight entries and the sync unit: what the CP does to every packet (R301 to R324, R339 to R345). -/

namespace Sys2Proof.Machine

/-! ### Status codes (R323, R276, R432) -/

def stOk : Nat := 0x0000
def stResourceHeld : Nat := 0x0031
def stInflightLimit : Nat := 0x0032
def stHostFault : Nat := 0x0033
def stUnavailable : Nat := 0x0034
def stBadOpcode : Nat := 0x0101
def stBadLength : Nat := 0x0102
def stFolioRefused : Nat := 0x0103
def stFolioFamily : Nat := 0x0104
def stBadField : Nat := 0x0105
def stBadSync : Nat := 0x0106
def stBadHandle : Nat := 0x0107
def stBinEmpty : Nat := 0x0201
def stCoresUnavailable : Nat := 0x0202
def stBudgetExceeded : Nat := 0x0203
def stPartitionState : Nat := 0x0204
def stObjectInUse : Nat := 0x0205
def stHandleLimit : Nat := 0x0206
def stDataPoisoned : Nat := 0x0301
def stTimeout : Nat := 0x0302
def stAborted : Nat := 0x0303
def stArrayCheck : Nat := 0x0304
def stBadBinding : Nat := 0x0305
def stPictureConcealed : Nat := 0x0401
def stDecodeBudget : Nat := 0x0402
def stStreamUnsupported : Nat := 0x0403
def stStreamState : Nat := 0x0404
def stEncoderBusy : Nat := 0x0405
def stSnapshotMissed : Nat := 0x0406
def stStreamLimit : Nat := 0x0407
def stDimensionsExceed : Nat := 0x0501
def stImageTruncated : Nat := 0x0502
def stPageUnsupported : Nat := 0x0503
def stPageHeader : Nat := 0x0504
def stPageTagBusy : Nat := 0x0505
def stPageState : Nat := 0x0506
def stSourceLimit : Nat := 0x0507
def stInvalidUtf8 : Nat := 0x0601
def stStopMatched : Nat := 0x0602
def stTokenLimit : Nat := 0x0603
def stTableRefused : Nat := 0x0604
def stTableInUse : Nat := 0x0605
def stTableMismatch : Nat := 0x0606
def stTableLimit : Nat := 0x0607
def stSessionState : Nat := 0x0608
def stMemoryInsufficient : Nat := 0x0701
def stCaskWorn : Nat := 0x0801
def stDegraded : Nat := 0x0802
def stSignatureBad : Nat := 0x0803
def stRollback : Nat := 0x0804
def stUpdateBusy : Nat := 0x0805
def stSlotState : Nat := 0x0806
def stCaskAbsent : Nat := 0x0807
def stCaskIdentity : Nat := 0x0808
def stCaskReadOnly : Nat := 0x0809
def stCaskUnpaired : Nat := 0x080A
def stCaskFull : Nat := 0x080B
def stPackFormat : Nat := 0x080C
def stKeySlot : Nat := 0x080D
def stAttestRate : Nat := 0x080E
def stLeafExhausted : Nat := 0x080F

/-! ### The packet header (R306) -/

/-- `n` bytes of a packet at an offset, little-endian (R10). -/
def pkF (pk : Packet) (ofs n : Nat) : Nat := leAt pk.bytes ofs n
def pkPriority (pk : Packet) : Nat := bitsOf (pkF pk 2 1) 3 2
def pkWait (pk : Packet) : Bool := bitOf (pkF pk 3 1) 0
def pkSignal (pk : Packet) : Bool := bitOf (pkF pk 3 1) 1
def pkSerial (pk : Packet) : Bool := bitOf (pkF pk 3 1) 2
def pkIrq (pk : Packet) : Bool := bitOf (pkF pk 3 1) 3
def pkTag (pk : Packet) : Nat := pkF pk 4 4
def pkWaitSync (pk : Packet) : Nat := bitsOf (pkF pk 8 8) 0 13
def pkSignalSync (pk : Packet) : Nat := bitsOf (pkF pk 8 8) 13 13
def pkWaitValue (pk : Packet) : Nat := bitsOf (pkF pk 8 8) 26 38

/-- Sync objects a function has (R307, R339). -/
def State.syncObjects (s : State) (f : Nat) : Nat :=
  if f = 0 then 256 else if (s.partAt f).st = .free then 0 else (s.partAt f).syncCount

/-- A sync counter (R339). -/
def State.counter (s : State) (f o : Nat) : Nat := tget 0 s.cp.sync (8192 * f + o)

/-- A sync counter set (R340). -/
def State.setCounter (s : State) (f o v : Nat) : State :=
  { s with cp := { s.cp with sync := tput 0 s.cp.sync (8192 * f + o) v } }

/-- An add that saturates at 2^64 − 1, with whether it saturated (R340). -/
def syncSum (c v : Nat) : Nat × Bool := (min (c + v) (2 ^ 64 - 1), decide (2 ^ 64 ≤ c + v))

/-- The signal of a header SIGNAL flag that R310 does not suppress (R309). -/
def State.signals (s : State) (pk : Packet) : Bool :=
  pkSignal pk && decide (pkSignalSync pk < s.syncObjects pk.fn)

/-! ### Replies (R304, R313, R314) -/

/-- What a packet's reply says (R314). -/
structure Ans where
  status : Nat
  detail : Nat := 0
  c0 : Nat := 0
  c1 : Nat := 0
  deriving DecidableEq, Repr

/-- The 32 bytes of a reply entry (R314). -/
def replyBytes (pk : Packet) (a : Ans) (phase signalled : Bool) (slot : BitVec 32) : List Byte :=
  natLE 4 (pkTag pk) ++ natLE 2 a.status ++ natLE 2 a.detail ++ natLE 8 a.c0 ++ natLE 8 a.c1 ++
  natLE 2 pk.opcode ++ [BitVec.ofNat 8 pk.ring, BitVec.ofNat 8 (b2n phase + 2 * b2n signalled)] ++ natLE 4 slot.toNat

/-- RUNNING of CP_RING_STATUS (R303): enabled, or replies still owed. -/
def Ring.running (r : Ring) : Bool := r.enable || decide (0 < r.inflight)

/-- STOPPED clears with RUNNING after a disable (R305). -/
def Ring.settleStop (r : Ring) : Ring := if r.running then r else { r with stopped := false, replyFault := false }

/-- PHASE of entry y in a ring of 2^L (R304, R336). -/
def phaseOf (y : BitVec 32) (l : Nat) : Bool := (y.toNat / 2 ^ l) % 2 == 0

/-- A ring fault: logged by the MP, VECTOR raised (R305, R338). -/
def State.ringFault (s : State) (f v arg : Nat) : State := (s.log logRingFault 1 0 f arg).msix f v

/-- A packet leaves the in-flight table without a reply (R305). -/
def State.dropFlight (s : State) (fl : Flight) : State :=
  let s := { s with cp := { s.cp with flight := s.cp.flight.filter (fun x => x.id != fl.id) } }
  s.setRing fl.pk.fn fl.pk.ring (fun r => ({ r with inflight := r.inflight - 1 }).settleStop)

/-- A failed reply write (R305): FETCH_FAULT and STOPPED, and no further reply of the ring is written. -/
def State.replyFails (s : State) (fl : Flight) : State :=
  let s := s.dropFlight fl
  let s := { s with cp := { s.cp with badReplies := s.cp.badReplies.filter (· != fl.id) } }
  let v := (s.ringAt fl.pk.fn fl.pk.ring).vector
  let s := s.setRing fl.pk.fn fl.pk.ring (fun r => ({ r with fetchFault := true, stopped := true, replyFault := true }).settleStop)
  s.ringFault fl.pk.fn v fl.pk.ring

/-- A packet's end (R313): reply written, header signal applied, MSI-X sent when asked or on error.
Where this reply's write fails, or one of the ring has failed, none of the three happens (R305). -/
def State.endPacket (s : State) (fl : Flight) (a : Ans) : State :=
  let pk := fl.pk
  let r := s.ringAt pk.fn pk.ring
  if r.replyFault then s.dropFlight fl
  else if s.cp.badReplies.contains fl.id then s.replyFails fl
  else
    let sig := s.signals pk
    let y := r.rqTail
    let s := s.emit (.reply pk.fn (r.rqBase.toNat + 32 * (y.toNat % 2 ^ r.log2))
      (replyBytes pk a (phaseOf y r.log2) sig fl.slot))
    let s := s.dropFlight fl
    let s := s.setRing pk.fn pk.ring (fun r => { r with rqTail := r.rqTail + 1 })
    let s := if sig then s.setCounter pk.fn (pkSignalSync pk)
        (syncSum (s.counter pk.fn (pkSignalSync pk)) 1).1 else s
    if pkIrq pk || decide (a.status ≠ stOk) then s.msix pk.fn r.vector else s

/-- A packet's end with a status and nothing else. -/
def State.endWith (s : State) (fl : Flight) (status : Nat) (detail : Nat := 0) : State :=
  s.endPacket fl { status, detail }

/-- A packet's wait changed. -/
def State.setWait (s : State) (fl : Flight) (f : Flight → Flight) : State :=
  { s with cp := { s.cp with flight := s.cp.flight.map (fun x => if x.id = fl.id then f x else x) } }

/-! ### Opcodes: senders, slots, reserved bytes (R316, R319 to R322) -/

/-- Who may send an opcode: 0 PF0, 1 a VF, 2 any; none for an undefined opcode (R316). -/
def opSender (op : Nat) : Option Nat :=
  if op = 0x0101 ∨ op = 0x0102 then some 2
  else if 0x0201 ≤ op ∧ op ≤ 0x0203 then some 0
  else if 0x0204 ≤ op ∧ op ≤ 0x0208 then some 1
  else if 0x0301 ≤ op ∧ op ≤ 0x0309 then some 1
  else if 0x0401 ≤ op ∧ op ≤ 0x0403 then some 1
  else if 0x0501 ≤ op ∧ op ≤ 0x0505 then some 1
  else if 0x0601 ≤ op ∧ op ≤ 0x0603 then some 2
  else if 0x0701 ≤ op ∧ op ≤ 0x0704 then some 1
  else if op = 0x0801 ∨ op = 0x0802 then some 1
  else if 0x0901 ≤ op ∧ op ≤ 0x090A then some 0
  else none

/-- Whether a function may send an opcode (R310 step 1). -/
def maySend (op f : Nat) : Bool :=
  match opSender op with
  | some 0 => f == 0
  | some 1 => f != 0
  | some _ => true
  | none => false

/-- Slots a packet of an opcode must have (R316, R321); 9 where no packet can. -/
def opSlots (pk : Packet) : Nat :=
  let op := pk.opcode
  if op = 0x0206 then
    if pkF pk 16 1 = 1 then
      if pk.slots = 1 then 9 else min 9 (2 + (pkF pk 66 1 + 1) / 2)
    else 1
  else if op = 0x0301 then 2
  else 1

/-- Body bytes an opcode's layout lists, as ranges [lo, hi] (R318 to R322, R437, R445, R453, R472, R476, R479, R481). -/
def opFields (pk : Packet) : List (Nat × Nat) :=
  match pk.opcode with
  | 0x0102 => [(16, 23)]
  | 0x0201 => [(16, 51)]
  | 0x0202 => [(16, 51)]
  | 0x0203 => [(16, 16)]
  | 0x0204 => [(16, 16), (18, 31)]
  | 0x0205 => [(16, 16)]
  | 0x0206 => if pkF pk 16 1 = 1 then [(16, 51), (64, 511)] else [(16, 51)]
  | 0x0207 => [(16, 16)]
  | 0x0208 => [(16, 16), (20, 31)]
  | 0x0301 => [(16, 33), (36, 79)]
  | 0x0302 => [(16, 39)]
  | 0x0303 => [(16, 19)]
  | 0x0304 => [(16, 19)]
  | 0x0305 => [(16, 20)]
  | 0x0306 => [(16, 25), (28, 35)]
  | 0x0307 => [(16, 22), (24, 31)]
  | 0x0308 => [(16, 20)]
  | 0x0309 => [(16, 20)]
  | 0x0401 => [(16, 19)]
  | 0x0402 => [(16, 34), (36, 47)]
  | 0x0403 => [(16, 19)]
  | 0x0501 => [(16, 31)]
  | 0x0502 => [(16, 17)]
  | 0x0503 => [(16, 18)]
  | 0x0504 => [(16, 44)]
  | 0x0505 => [(16, 19)]
  | 0x0601 => [(16, 18), (24, 31)]
  | 0x0602 => [(16, 17), (20, 31)]
  | 0x0603 => [(16, 17)]
  | 0x0701 => [(16, 23)]
  | 0x0702 => [(16, 28)]
  | 0x0704 => [(16, 19)]
  | 0x0801 => [(16, 39)]
  | 0x0802 => [(16, 39)]
  | 0x0901 => [(16, 31)]
  | 0x0902 => [(24, 31)]
  | 0x0903 => [(16, 16)]
  | 0x0904 => [(16, 16)]
  | 0x0905 => [(16, 17)]
  | 0x0906 => [(16, 18)]
  | 0x0907 => [(16, 17), (24, 31)]
  | 0x0908 => [(16, 33)]
  | 0x0909 => [(20, 63)]
  | 0x090A => [(16, 16), (18, 63)]
  | _ => []

/-- Bytes of a page PIPELINE_CREATE that its layout reserves within slots 2 and on (R321): 78, 79, 88 to 127, and the rest of each stop-string cell. -/
def stopReserved (pk : Packet) (i : Nat) : Bool :=
  pk.opcode == 0x0206 && decide (64 ≤ i) &&
    (if i < 88 then decide (i = 78 ∨ i = 79)
     else if i < 128 then true
     else decide (pkF pk (80 + (i - 128) / 32) 1 ≤ (i - 128) % 32) || decide (pkF pk 66 1 ≤ (i - 128) / 32))

/-- Offset of the first non-zero reserved byte of a packet, when there is one (R310 step 3). -/
def firstReserved (pk : Packet) : Option Nat :=
  (List.range pk.bytes.length).find? (fun i =>
    let b := (pk.bytes.getD i 0).toNat
    if i = 2 then decide (b / 32 ≠ 0)
    else if i = 3 then decide (b / 16 ≠ 0)
    else if i < 16 then false
    else decide (b ≠ 0) &&
      (!(opFields pk).any (fun r => decide (r.1 ≤ i) && decide (i ≤ r.2)) || stopReserved pk i))

/-- The checks of R310, in order: none when the packet passes. -/
def State.fetchChecks (s : State) (pk : Packet) : Option Ans :=
  if !maySend pk.opcode pk.fn then some { status := stBadOpcode }
  else if pk.slots ≠ opSlots pk then some { status := stBadLength }
  else match firstReserved pk with
    | some i => some { status := stBadField, detail := i }
    | none =>
      if pkWait pk ∧ s.syncObjects pk.fn ≤ pkWaitSync pk then some { status := stBadSync, detail := 0 }
      else if pkSignal pk ∧ s.syncObjects pk.fn ≤ pkSignalSync pk then some { status := stBadSync, detail := 1 }
      else none

/-! ### Fetch (R304, R311, R315) -/

/-- Packets a function has in flight (R315). -/
def State.held (s : State) (f : Nat) : Nat := (s.cp.flight.filter (fun x => x.pk.fn.val == f)).length

/-- In-flight entries guaranteed to a function (R315). -/
def State.guaranteed (s : State) (f : Nat) : Nat :=
  if f = 0 then 64 else if (s.partAt f).st = .free then 0 else 256

/-- Shared entries in use, and all shared entries (R315). -/
def State.sharedUse (s : State) : Nat × Nat :=
  (((List.range 9).map (fun f => s.held f - s.guaranteed f)).sum,
   4096 - ((List.range 9).map s.guaranteed).sum)

/-- Whether an in-flight entry is free for a function (R315). -/
def State.entryFree (s : State) (f : Nat) : Bool :=
  decide (s.held f < 2048) && (decide (s.held f < s.guaranteed f) || decide (s.sharedUse.1 < s.sharedUse.2))

/-- Whether a firmware receiver runs verified firmware (R441, R442). -/
def State.fwUp (s : State) (r : Nat) : Bool := !(tget {} s.mgt.receivers r).inReset

/-- Whether the CP fetches at all: stage READY, FB awake, CP and Cellarer running (R442, R461, R475). -/
def State.cpFetching (s : State) : Bool :=
  decide (s.dev.stage = .ready) && decide ((s.domAt 0).st = .on) && s.fwUp 0 && s.fwUp 1 && !s.dev.cpStalled

/-- Whether the CP fetches this packet from its ring now (R304, R311, R315, R386, R396). -/
def State.fetchable (s : State) (pk : Packet) : Bool :=
  let r := s.ringAt pk.fn pk.ring
  s.cpFetching && pk.wf && s.fnExists pk.fn &&
  (pk.fn.val == 0 || !decide ((s.partAt pk.fn).st = .resetting)) &&
  r.enable && !r.stopped && decide (pk.slots ≤ (r.tail - r.head).toNat) && s.entryFree pk.fn &&
  decide ((r.rqTail + BitVec.ofNat 32 r.inflight - r.rqHead).toNat < 2 ^ r.log2) &&
  !(s.cp.flight.any (fun x => decide (x.pk.fn = pk.fn) && decide (x.pk.ring = pk.ring) && decide (x.wait = .header))) &&
  (!pkSerial pk || decide (r.inflight = 0))

/-- The in-flight entry of a packet being fetched; `aux` keeps what the model hands along with it. -/
def State.newFlight (s : State) (pk : Packet) (data : List Byte) : Flight :=
  { id := s.cp.nextId, pk, slot := (s.ringAt pk.fn pk.ring).head, wait := .header, aux := data.map (·.toNat) }

/-- A packet fetched: HEAD past it, an in-flight entry taken (R304, R315). -/
def State.fetched (s : State) (pk : Packet) (data : List Byte) : State :=
  let fl := s.newFlight pk data
  let s := s.setRing pk.fn pk.ring (fun r =>
    { r with head := r.head + BitVec.ofNat 32 pk.slots, inflight := r.inflight + 1 })
  { s with cp := { s.cp with flight := s.cp.flight ++ [fl], nextId := s.cp.nextId + 1 } }

/-- Whether a header wait is satisfied (R308, R341). -/
def State.headerReady (s : State) (pk : Packet) : Bool :=
  !pkWait pk || decide (pkWaitValue pk ≤ s.counter pk.fn (pkWaitSync pk))

/-- The two checks between the header wait and the opcode's own (R310): MEMORY_INSUFFICIENT (R323), partition state (R519); a packet fetched before DRAINING began completes normally (R172). -/
def State.startChecks (s : State) (fl : Flight) : Option Ans :=
  let pk := fl.pk
  let op := pk.opcode
  if s.ddr.insufficient ∧ ¬(0x0900 ≤ op ∧ op ≤ 0x09FF) ∧ op ≠ 0x0101 ∧ op ≠ 0x0102 then
    some { status := stMemoryInsufficient }
  else if pk.fn.val ≠ 0 ∧ ((s.partAt pk.fn).st = .free ∨ ((s.partAt pk.fn).st = .draining ∧ (s.partAt pk.fn).drainFrom ≤ fl.id)) ∧
      op ≠ 0x0101 ∧ op ≠ 0x0102 then some { status := stPartitionState }
  else none

/-- The first of a list of field checks that fails: BAD_FIELD with the field's byte offset (R310). -/
def fieldCheck (l : List (Nat × Bool)) : Option Ans :=
  (l.find? (fun e => !e.2)).map (fun e => { status := stBadField, detail := e.1 })

/-- A field written as 0 takes its default (R517). -/
def dflt (v d : Nat) : Nat := if v = 0 then d else v

/-- A signed 16-bit field. -/
def pkS16 (pk : Packet) (ofs : Nat) : Int := toSigned 16 (pkF pk ofs 2)

end Sys2Proof.Machine
end

