-- ==== Sys2Proof/Machine/SyncBin.lean ====
section
/-! DEFINITION. Sync objects (R339 to R345), bins (R346 to R353) and the bodies of the NOP, FUNCTION_INFO, sync, bin and DMA packets. -/

namespace Sys2Proof.Machine

/-! ### Registers that replies copy (R318, R424) -/

/-- The code of a stage (R497). -/
def stageCode : Stage → Nat
  | .boot => 0
  | .training => 1
  | .tasting => 2
  | .ready => 3
  | .resetting => 4
  | .fault => 5
  | .recovery => 6
  | .shutdown => 7

/-- PWR_THERM_STATUS.STAGE (R419). -/
def State.thermStage (s : State) : Nat :=
  if s.pwr.shutdown then 3 else if s.pwr.halved then 2 else if s.pwr.released.isEmpty then 0 else 1

/-- HI_DEVICE_STATUS (R497). -/
def State.deviceStatus (s : State) : Nat :=
  b2n s.dev.degraded * 2 ^ 31 + b2n s.ddr.insufficient * 2 ^ 30 + b2n (!s.mgt.unavail.isEmpty) * 2 ^ 27 +
  b2n s.dev.deviceFault * 2 ^ 26 + stageCode s.dev.stage * 2 ^ 23 + (s.dev.arrays % 64) * 2 ^ 17 +
  (s.dev.engines % 64) * 2 ^ 11 + (s.dev.channels % 16) * 2 ^ 7 + (s.dev.cores % 16) * 8 +
  b2n (decide (s.thermStage = 1) || decide (s.thermStage = 2)) * 4

/-- Lanes of a WIDTH code (R498). -/
def lanesOf (w : Nat) : Nat := if w = 0 then 0 else 2 ^ (w - 1)

/-- Per-lane rate of a SPEED code in 0.0001 GB/s (R400). -/
def laneRate (sp : Nat) : Nat :=
  match sp with
  | 1 => 2500
  | 2 => 5000
  | 3 => 9846
  | 4 => 19690
  | 5 => 39380
  | _ => 0

/-- The DMA budget in 0.1 GB/s: floor(8 × lanes × r) of R400, 0 with the link down. -/
def State.linkBudget (s : State) : Nat :=
  if s.hi.linkUp then 8 * lanesOf s.hi.width * laneRate s.hi.speed / 10000 else 0

/-- HI_LINK_STATUS (R498). -/
def State.linkStatus (s : State) : Nat :=
  b2n s.hi.linkUp * 2 ^ 31 + (s.hi.pmState % 8) * 2 ^ 28 +
  b2n (decide (0 < s.hi.width ∧ s.hi.width < 5)) * 2 ^ 25 + b2n (decide (0 < s.hi.speed ∧ s.hi.speed < 5)) * 2 ^ 24 +
  (s.hi.width % 16) * 2 ^ 20 + (s.hi.speed % 8) * 2 ^ 17 + s.linkBudget % 1024

/-- Code of a partition state (R172). -/
def partCode : PartState → Nat
  | .free => 0
  | .opened => 1
  | .running => 2
  | .draining => 3
  | .resetting => 4

/-- Cores a partition holds (R204: CORES_HELD). -/
def State.coresHeld (s : State) (p : Nat) : List Nat := (List.range 8).filter (fun n => (s.coreAt n).user == p && p != 0)

/-- The 64-byte block of FUNCTION_INFO (R318). -/
def State.functionBlock (s : State) (f : Nat) : List Byte :=
  padTo 64 (natLE 2 s.dev.fuses.devId ++ natLE 1 s.dev.fuses.revId ++ natLE 1 f ++ natLE 4 s.deviceStatus ++
    natLE 4 s.linkStatus ++ natLE 1 (if f = 0 then 0 else partCode (s.partAt f).st) ++
    natLE 1 (if f = 0 then 0 else (s.coresHeld f).length) ++ natLE 2 (s.syncObjects f) ++
    natLE 2 (s.guaranteed f) ++ natLE 2 (s.held f))

/-! ### Host DMA of a packet (R322, R385, R401) -/

/-- A packet writes host memory and waits for the DMA's end. -/
def State.dmaWrite (s : State) (fl : Flight) (addr : Nat) (bs : List Byte) : State :=
  (s.emit (.hostWrite fl.pk.fn addr bs)).setWait fl (fun x => { x with wait := .dma })

/-- A packet reads host memory and waits for the DMA's end; bulk reads set Relaxed Ordering (R385). -/
def State.dmaRead (s : State) (fl : Flight) (addr len : Nat) (relaxed : Bool) (aux : List Nat) : State :=
  (s.emit (.hostRead fl.pk.fn addr len relaxed)).setWait fl (fun x => { x with wait := .dma, aux })

/-- NOP (R316): the reply and nothing else. -/
def bodyNop (s : State) (fl : Flight) : State := s.endWith fl stOk

/-- FUNCTION_INFO (R318): the 64-byte block written at ADDR. -/
def bodyFunctionInfo (s : State) (fl : Flight) : State :=
  s.dmaWrite fl (pkF fl.pk 16 8) (s.functionBlock fl.pk.fn)

/-! ### Sync packets (R339 to R342) -/

/-- SYNC_SIGNAL (R340): add with saturation, or set; the reply holds the value produced. -/
def bodySyncSignal (s : State) (fl : Flight) : State :=
  let pk := fl.pk
  let o := pkF pk 16 2
  let v := pkF pk 24 8
  if s.syncObjects pk.fn ≤ o then s.endWith fl stBadSync 2
  else if 1 < pkF pk 18 1 then s.endWith fl stBadField 18
  else if pkF pk 18 1 = 1 then
    (s.setCounter pk.fn o v).endPacket fl { status := stOk, c0 := v }
  else
    let r := syncSum (s.counter pk.fn o) v
    (s.setCounter pk.fn o r.1).endPacket fl { status := stOk, detail := b2n r.2, c0 := r.1 }

/-- SYNC_WAIT (R341, R342): satisfied at once when the counter already stands at VALUE, else it waits. -/
def bodySyncWait (s : State) (fl : Flight) : State :=
  let pk := fl.pk
  let o := pkF pk 16 2
  let v := pkF pk 24 8
  if s.syncObjects pk.fn ≤ o then s.endWith fl stBadSync 2
  else if v ≤ s.counter pk.fn o then s.endPacket fl { status := stOk, c0 := s.counter pk.fn o }
  else s.setWait fl (fun x => { x with wait := .sync o v })

/-- SYNC_READ (R340). -/
def bodySyncRead (s : State) (fl : Flight) : State :=
  let o := pkF fl.pk 16 2
  if s.syncObjects fl.pk.fn ≤ o then s.endWith fl stBadSync 2
  else s.endPacket fl { status := stOk, c0 := s.counter fl.pk.fn o }

/-- SYNC_WAITs that the counters satisfy, in ascending VALUE and fetch order, each with its counter (R341, R344). -/
def State.satisfiedWaits (s : State) : List (Flight × Nat) :=
  let l := s.cp.flight.filterMap (fun fl =>
    match fl.wait with
    | .sync o v => if v ≤ s.counter fl.pk.fn o then some (v, fl, s.counter fl.pk.fn o) else none
    | _ => none)
  (l.foldl (fun acc e => acc.takeWhile (fun x => decide (x.1 ≤ e.1)) ++ e :: acc.dropWhile (fun x => decide (x.1 ≤ e.1))) []).map (·.2)

/-- Every satisfied SYNC_WAIT replies OK (R342, R344). -/
def State.replySatisfied (s : State) : State :=
  s.satisfiedWaits.foldl (fun s e => s.endPacket e.1 { status := stOk, c0 := e.2 }) s

/-- One signal applied to its counter (R340); a signal for an object its function does not have is discarded. -/
def State.applySignal (s : State) (g : Signal) : State :=
  if g.obj < s.syncObjects g.fn then
    s.setCounter g.fn g.obj (if g.isSet then g.value % 2 ^ 64 else (syncSum (s.counter g.fn g.obj) g.value).1)
  else s

/-- The signals one arbitration cycle applies: the first for each object, at most 8; and those left for later cycles (R340). -/
def cycleSignals (l : List Signal) : List Signal × List Signal :=
  l.foldl (fun acc g =>
    if acc.1.length < 8 ∧ !(acc.1.any (fun x => x.fn == g.fn && x.obj == g.obj)) then (acc.1 ++ [g], acc.2)
    else (acc.1, acc.2 ++ [g])) ([], [])

/-! ### Bins (R346 to R352) -/

/-- Bytes of a buffer of size index i (R346). -/
def binSize (i : Nat) : Nat := 4096 * 4 ^ i

/-- Key of buffer n of size i of partition p. -/
def bufKey (p i n : Nat) : Nat := 65536 * (8 * p + i) + n
def keyPart (k : Nat) : Nat := k / 65536 / 8
def keySize (k : Nat) : Nat := k / 65536 % 8
def keyIndex (k : Nat) : Nat := k % 65536

/-- Buffer count of a bin (R346). -/
def State.binCount (s : State) (p i : Nat) : Nat := (s.partAt p).bins.getD i 0

/-- A buffer (R347). -/
def State.bufAt (s : State) (k : Nat) : Buf := tget {} s.cp.buf k

/-- A buffer changed. -/
def State.setBuf (s : State) (k : Nat) (f : Buf → Buf) : State :=
  { s with cp := { s.cp with buf := tmod {} s.cp.buf k f } }

/-- Offset of a buffer in its partition's bin region (R393). -/
def State.binOffset (s : State) (p i n : Nat) : Nat :=
  ((List.range 8).map (fun j => if i < j then s.binCount p j * binSize j else 0)).sum + n * binSize i

/-- Bytes of a partition's bin region (R393). -/
def State.binBytes (s : State) (p : Nat) : Nat := ((List.range 8).map (fun j => s.binCount p j * binSize j)).sum

/-- Device address of a bin-region offset: the region lies in the partition's chunks, held as 32 MiB granules (R393). -/
def State.binAddr (s : State) (p off : Nat) : Nat :=
  2 ^ 25 * (s.partAt p).chunks.getD (off / 2 ^ 25) 0 + off % 2 ^ 25

/-- Device address of a buffer. -/
def State.bufAddr (s : State) (k : Nat) : Nat :=
  s.binAddr (keyPart k) (s.binOffset (keyPart k) (keySize k) (keyIndex k))

/-- The 64-bit handle of a buffer (R347). -/
def State.bufHandle (s : State) (k : Nat) : Nat :=
  (s.bufAt k).gen.toNat * 2 ^ 24 + keyIndex k * 2 ^ 8 + keySize k * 16 + keyPart k

/-- The smallest size index that holds b bytes; 8 above 64 MiB (R348). -/
def binFor (b : Nat) : Nat := ((List.range 8).find? (fun i => decide (b ≤ binSize i))).getD 8

/-- The free buffer with the lowest INDEX of a bin (R349), searched among at most `count`. -/
def State.freeBuf (s : State) (p i : Nat) : Option Nat :=
  ((List.range (s.binCount p i)).find? (fun n => decide ((s.bufAt (bufKey p i n)).hold = .free))).map (bufKey p i)

/-- A request for b bytes from a partition's bins: the buffer's key, or the size index that failed (R348). -/
def State.binPick (s : State) (p b : Nat) : Except Nat Nat :=
  let i := binFor b
  if 8 ≤ i then .error 8
  else match s.freeBuf p i with
    | some k => .ok k
    | none => .error i

/-- A request that failed with BIN_EMPTY counted (R354). -/
def State.countEmpty (s : State) : State := { s with cp := { s.cp with binEmpty := satAdd 32 s.cp.binEmpty 1 } }

/-- A buffer taken by the device (R349). -/
def State.takeDevice (s : State) (k : Nat) : State := s.setBuf k (fun b => { b with hold := .device })

/-- A buffer returns to its bin, its generation advanced (R347). -/
def State.returnBuf (s : State) (k : Nat) : State :=
  s.setBuf k (fun b => if b.hold = .free then b else { gen := b.gen + 1, hold := .free })

/-- A buffer handed to its partition's VF (R349). -/
def State.handBuf (s : State) (k : Nat) : State :=
  s.setBuf k (fun b => { b with hold := .host [keyPart k] (keyPart k) })

/-- The buffer a packet's handle names, or the answer that ends the packet (R347, R349). -/
def State.namedBuf (s : State) (f h : Nat) : Except Ans Nat :=
  let p := bitsOf h 0 4
  let i := bitsOf h 4 3
  let n := bitsOf h 8 16
  let k := bufKey p i n
  if 2 ^ 56 ≤ h ∨ bitOf h 7 ∨ p = 0 ∨ 8 < p ∨ s.binCount p i ≤ n ∨ (s.partAt p).st = .free then
    .error { status := stBadHandle }
  else if (s.bufAt k).gen.toNat ≠ bitsOf h 24 32 then .error { status := stBadHandle }
  else match (s.bufAt k).hold with
    | .free => .error { status := stBadHandle }
    | .device => if p = f then .error { status := stObjectInUse, detail := 0xFFFF } else .error { status := stBadHandle }
    | .host owners _ => if owners.contains f then .ok k else .error { status := stBadHandle }

/-- The final owner of a host-owned buffer (R351). -/
def State.finalOwner (s : State) (k : Nat) : Nat :=
  match (s.bufAt k).hold with
  | .host _ f => f
  | _ => 0

/-- BIN_FREE (R351). -/
def bodyBinFree (s : State) (fl : Flight) : State :=
  match s.namedBuf fl.pk.fn (pkF fl.pk 16 8) with
  | .error a => s.endPacket fl a
  | .ok k =>
    if s.finalOwner k = fl.pk.fn then (s.returnBuf k).endWith fl stOk
    else s.endWith fl stObjectInUse (s.finalOwner k)

/-- The OWNER bytes of a BIN_SHARE (R352). -/
def pkOwners (pk : Packet) : List Nat := (List.range 4).map (fun i => pkF pk (24 + i) 1)

/-- The field ranges of BIN_SHARE: owners 0 to 8 with no repeats, and FINAL names a used one (R352). -/
def shareChecks (pk : Packet) : Option Ans :=
  let ow := pkOwners pk
  let fin := pkF pk 28 1
  fieldCheck ((List.range 4).map (fun i =>
      (24 + i, decide (ow.getD i 0 ≤ 8) &&
        (ow.getD i 0 == 0 || !((ow.take i).contains (ow.getD i 0))))) ++
      [(28, decide (fin ≤ 3) && decide (ow.getD fin 0 ≠ 0))])

/-- The first owner of a BIN_SHARE that has no partition (R352). -/
def State.shareFree (s : State) (pk : Packet) : Option Nat :=
  (List.range 4).find? (fun i => decide ((pkOwners pk).getD i 0 ≠ 0) && decide ((s.partAt ((pkOwners pk).getD i 0)).st = .free))

/-- BIN_SHARE (R352). -/
def bodyBinShare (s : State) (fl : Flight) : State :=
  let pk := fl.pk
  match shareChecks pk with
  | some a => s.endPacket fl a
  | none =>
    match s.namedBuf pk.fn (pkF pk 16 8) with
    | .error a => s.endPacket fl a
    | .ok k =>
      if s.finalOwner k ≠ pk.fn then s.endWith fl stObjectInUse (s.finalOwner k)
      else match s.shareFree pk with
        | some i => s.endWith fl stBadField (24 + i)
        | none => (s.setBuf k (fun b => { b with
            hold := .host ((pkOwners pk).filter (fun o => decide (o ≠ 0))) ((pkOwners pk).getD (pkF pk 28 1) 0) })).endWith fl stOk

/-- Free buffers of a bin (R354: CP_BIN_STATUS.FREE). -/
def State.freeCount (s : State) (p i : Nat) : Nat :=
  ((List.range (s.binCount p i)).filter (fun n => decide ((s.bufAt (bufKey p i n)).hold = .free))).length

/-- BIN_COUNT (R316): free buffers of sizes 0 to 3 and 4 to 7, 16 bits each. -/
def bodyBinCount (s : State) (fl : Flight) : State :=
  let c := fun i => s.freeCount fl.pk.fn i % 65536
  s.endPacket fl { status := stOk, c0 := c 0 + c 1 * 2 ^ 16 + c 2 * 2 ^ 32 + c 3 * 2 ^ 48,
                   c1 := c 4 + c 5 * 2 ^ 16 + c 6 * 2 ^ 32 + c 7 * 2 ^ 48 }

/-- BIN_TAKE (R350). -/
def bodyBinTake (s : State) (fl : Flight) : State :=
  let b := pkF fl.pk 16 4
  if b = 0 ∨ 67108864 < b then s.endWith fl stBadField 16
  else match s.binPick fl.pk.fn b with
    | .error i => s.countEmpty.endWith fl stBinEmpty i
    | .ok k => (s.handBuf k).endPacket fl { status := stOk, c0 := s.bufHandle k }

/-! ### DMA_IN and DMA_OUT (R322) -/

/-- The checks of DMA_IN and DMA_OUT: the buffer's key, or the answer that ends the packet. -/
def State.dmaChecks (s : State) (pk : Packet) : Except Ans Nat :=
  let n := pkF pk 36 4
  if n = 0 ∨ 67108864 < n then .error { status := stBadField, detail := 36 }
  else match s.namedBuf pk.fn (pkF pk 24 8) with
    | .error a => .error a
    | .ok k => if binSize (keySize k) < pkF pk 32 4 + n then .error { status := stBadLength } else .ok k

/-- DMA_IN: the bytes are read from host memory. -/
def bodyDmaIn (s : State) (fl : Flight) : State :=
  match s.dmaChecks fl.pk with
  | .error a => s.endPacket fl a
  | .ok k => s.dmaRead fl (pkF fl.pk 16 8) (pkF fl.pk 36 4) true [k]

/-- DMA_IN's bytes have arrived: copied into the buffer, which clears the zero-map bits they touch (R45). -/
def doneDmaIn (s : State) (fl : Flight) (data : List Byte) : State :=
  let n := pkF fl.pk 36 4
  let k := fl.aux.headD 0
  let s := s.writeOutside (s.bufAddr k + pkF fl.pk 32 4) (padTo n data)
  let s := (s.charge fl.pk.fn 13 n).dramTraffic fl.pk.fn 0 3 true (s.bufAddr k + pkF fl.pk 32 4) n
  s.endPacket fl { status := stOk, c0 := n }

/-- Bytes of a buffer written to host memory: all of them, or those before the first poisoned line (R322, R375). -/
def State.dmaOutFrom (s : State) (fl : Flight) (base a n : Nat) : State :=
  match s.firstPoison a n with
  | none => (s.dmaWrite fl (pkF fl.pk 16 8) (s.bytesAt a n)).setWait fl (fun x => { x with aux := [n] })
  | some b =>
    (s.emit (.hostWrite fl.pk.fn (pkF fl.pk 16 8) (s.bytesAt a (b - a)))).endPacket fl
      { status := stDataPoisoned, c0 := b - a, c1 := b / 64 * 64 - base }

/-- DMA_OUT: the bytes before the first poisoned line are written to host memory (R322, R375). -/
def bodyDmaOut (s : State) (fl : Flight) : State :=
  match s.dmaChecks fl.pk with
  | .error a => s.endPacket fl a
  | .ok k => s.dmaOutFrom fl (s.bufAddr k) (s.bufAddr k + pkF fl.pk 32 4) (pkF fl.pk 36 4)

/-- DMA_OUT's write has ended. -/
def doneDmaOut (s : State) (fl : Flight) : State :=
  let n := pkF fl.pk 36 4
  ((s.charge fl.pk.fn 13 n).dramTraffic fl.pk.fn 0 3 false (match s.namedBuf fl.pk.fn (pkF fl.pk 24 8) with
    | .ok k => s.bufAddr k + pkF fl.pk 32 4
    | .error _ => 0) n).endPacket fl { status := stOk, c0 := n }

end Sys2Proof.Machine
end

