-- ==== Sys2Proof/Machine/Cellar.lean ====
section
/-! DEFINITION. What the Cellarer keeps: cores and their owners (R171, R195), budgets and address space (R169, R170, R393), tensors with their homes (R174 to R178), and the bindings of a quire (R143, R153). -/

namespace Sys2Proof.Machine

/-! ### Cores (R171, R195, R202) -/

/-- Arrays enabled on a core (R83). -/
def Core.arrays (c : Core) : Nat := (bitList 4 c.enabled).length

/-- Cores in service (R202). -/
def State.coresIn (s : State) : List Nat := (List.range 8).filter (fun n => !(s.coreAt n).out)

/-- Cores a partition owns (R202). -/
def State.coresOwned (s : State) (p : Nat) : List Nat := s.coresIn.filter (fun n => (s.coreAt n).owner == p)

/-- Cores ordered for ownership: 4-array cores first, then the lower number (R171, R195). -/
def State.ownOrder (s : State) (l : List Nat) : List Nat :=
  l.filter (fun n => (s.coreAt n).arrays == 4) ++ l.filter (fun n => (s.coreAt n).arrays != 4)

/-- Cores no partition owns that a partition may own: 4-array cores only under FOUR_ARRAY (R169). -/
def State.ownable (s : State) (p : Nat) : List Nat :=
  (s.ownOrder (s.coresOwned 0)).filter (fun n => !(s.partAt p).fourArray || (s.coreAt n).arrays == 4)

/-- A core given to a partition to own; it holds the core unless another partition still does, or it holds CORES_MAX already (R171). -/
def State.ownCore (s : State) (p n : Nat) : State :=
  let full := decide ((s.partAt p).coresMax ≤ (s.coresHeld p).length)
  s.setCore n (fun c => { c with owner := p, user := if c.user = 0 ∧ !full then p else c.user })

/-- BELOW_MIN and its two events brought up to date (R195). -/
def State.belowMinUpdate (s : State) (p : Nat) : State :=
  let q := s.partAt p
  let n := (s.coresOwned p).length
  if q.st = .free then s
  else if n < q.coresMin then
    if q.belowMin then s else (s.setPart p (fun q => { q with belowMin := true })).celEvent p 0x0281 p n q.coresMin
  else if q.belowMin then (s.setPart p (fun q => { q with belowMin := false })).celEvent p 0x0282 p n q.coresMin
  else s

/-- What a core keeps after its MC domain is cleared: no accumulator, staging buffer or lane register (R187, R173). -/
def Core.clear (c : Core) : Core :=
  { c with banks := [], acc := [], v := [], mask := BitVec.allOnes 64, writes := [] }

/-! ### Runs (R148) -/

/-- A run. -/
def State.runAt (s : State) (r : Nat) : Option Run := nget s.cel.runs r

/-- A run changed. -/
def State.setRun (s : State) (r : Nat) (f : Run → Run) : State :=
  { s with cel := { s.cel with runs := nmod s.cel.runs r f } }

/-- A quire's progress changed. -/
def State.setQuire (s : State) (r q : Nat) (st : QStat) : State :=
  s.setRun r (fun x => { x with quires := tput .waiting x.quires q st })

/-- The image of a run's folio. -/
def State.runImage (s : State) (r : Nat) : List Byte :=
  ((s.runAt r).map (fun x => s.imageOf x.part x.folio)).getD []

/-- A quire returned to the head of its class (R182). -/
def State.returnQuire (s : State) (r q : Nat) : State :=
  s.setRun r (fun x => { x with quires := tput .waiting x.quires q .waiting, returned := setAdd x.returned q })

/-- The quires placed on a core return to their classes (R182, R192). -/
def State.returnQueue (s : State) (n : Nat) : State :=
  let c := s.coreAt n
  let s := (c.queue ++ c.second.toList).foldl (fun s e => s.returnQuire e.1 e.2) s
  s.setCore n (fun c => { c with queue := [], second := none })

/-! ### Budgets and address space (R169, R170, R393) -/

/-- The 32 MiB granules of DRAM that partitions may have: all but the 512 MiB reserve at the top (R363). -/
def State.granuleCount (s : State) : Nat := s.dramBytes / 2 ^ 25 - 16

/-- Granules given to partitions. -/
def State.granulesUsed (s : State) : List Nat :=
  (List.range 8).flatMap (fun i => (s.partAt (i + 1)).chunks ++ (s.partAt (i + 1)).save)

/-- `n` chunks of 256 MiB as granules: whole free chunks first, lowest first, then loose granules (R393; assumption log 16). -/
def State.pickChunks (s : State) (n : Nat) : List Nat :=
  let free := (List.range s.granuleCount).filter (fun g => !s.granulesUsed.contains g)
  let whole := ((List.range (s.granuleCount / 8)).filter (fun c =>
    (List.range 8).all (fun i => free.contains (8 * c + i)))).take n
  let a := whole.flatMap (fun c => (List.range 8).map (8 * c + ·))
  a ++ ((free.filter (fun g => !a.contains g)).take (8 * (n - whole.length)))

/-- `n` granules of save area, highest first (R170; assumption log 16). -/
def State.pickSave (s : State) (n : Nat) (taken : List Nat) : List Nat :=
  (((List.range s.granuleCount).filter (fun g => !s.granulesUsed.contains g && !taken.contains g)).reverse).take n

/-- Whether a home is core store n. -/
def atCore (n : Nat) : HomeKind → Bool
  | .core m => m.val == n
  | _ => false

/-- Whether a home is a core store. -/
def inCore : HomeKind → Bool
  | .core _ => true
  | _ => false

/-- Whether a home lies in DRAM. -/
def inDram : HomeKind → Bool
  | .dram => true
  | .saveArea => true
  | _ => false

/-- Core store n as a home. -/
def coreHome (n : Nat) : HomeKind := .core (Fin.ofNat 8 n)

/-- A 64-byte boundary at or above an address. -/
def align64 (a : Nat) : Nat := (a + 63) / 64 * 64

/-- Whether two ranges of addresses meet. -/
def meets (a n b m : Nat) : Bool := decide (a < b + m) && decide (b < a + n)

/-- The lowest 64-byte-aligned address of a region where `n` bytes are free of the used ranges (assumption log 16). -/
def lowestFree (base size n : Nat) (used : List (Nat × Nat)) : Option Nat :=
  ((base :: used.map (fun u => align64 (u.1 + u.2))).filter (fun (a : Nat) =>
    decide (base ≤ a) && decide (a + n ≤ base + size) && used.all (fun (u : Nat × Nat) => !meets a n u.1 u.2))).min?

/-- The declaration of a tensor. -/
def State.declOf (s : State) (t : Tensor) : TDecl := tdecl (s.imageOf t.part t.folio) t.tid

/-- Bytes a tensor takes in a home (R138, R142). -/
def State.bytesIn (s : State) (t : Tensor) (h : HomeKind) : Nat :=
  match h with
  | .core _ => (s.declOf t).storeBytes
  | _ => (s.declOf t).homeBytes

/-- Whether a tensor is racked in by making a copy, its present home staying: constants, compressed tensors, and those that may not be homed in a core store (R60, R138, R175; assumption log 46). -/
def State.copies (s : State) (t : Tensor) : Bool := (s.declOf t).isConst || (s.declOf t).viaCopy

/-- Whether two entries are homes or copies of one tensor instance. -/
def Tensor.same (t o : Tensor) : Bool := o.part == t.part && o.folio == t.folio && o.run == t.run && o.tid == t.tid && o.inst == t.inst

/-- Whether an entry is a copy being made: its bytes still lie in the home it is copied from. -/
def State.copying (s : State) (t : Tensor) : Bool := t.move.isSome && s.copies t

/-- The ranges that tensors and moves under way take in the homes a test picks. -/
def State.tensorRanges (s : State) (pick : HomeKind → Bool) : List (Nat × Nat) :=
  s.cel.tensors.flatMap (fun e =>
    (if pick e.2.home && !(decide (e.2.home = .dram) && e.2.run == 0) && !s.copying e.2 then [(e.2.addr, s.bytesIn e.2 e.2.home)] else []) ++
    (match e.2.move with
     | some (h, a) => if pick h then [(a, s.bytesIn e.2 h)] else []
     | none => []))

/-- Bytes of a bound tensor in the core store (R153): every plane's stride. -/
def State.boundBytes (s : State) (b : Binding) : Nat :=
  match nget s.cel.tensors b.num with
  | some t => (s.declOf t).storeBytes
  | none => b.extent

/-- The ranges of the UPDATE destinations of a core's running quire (R153). -/
def State.dstRanges (s : State) (c : Nat) : List (Nat × Nat) :=
  match (s.coreAt c).active with
  | none => []
  | some a => (a.bindings.filter (fun b => b.dst != 0)).map (fun b => (b.dst, s.boundBytes b))

/-- A free place of `n` bytes in core store c (R174). -/
def State.coreRoom (s : State) (c n : Nat) : Option Nat :=
  lowestFree (coreBase c) 0x02000000 n (s.tensorRanges (atCore c) ++ s.dstRanges c)

/-- A quire's writes undone: its ranges, their poison tags and their zero-map bits are as at its entry, and the UPDATE destinations are discarded (R70, R155). -/
def State.undoQuire (s : State) (n : Nat) : State :=
  match (s.coreAt n).active with
  | none => s
  | some a =>
    let s := a.undo.foldl (fun s e => s.writeMem e.1 e.2) s
    let s := a.undoPoison.foldl (fun s k => s.setPoison k true) s
    let z := a.undoZero.foldl (fun (z : List (Nat × Nat × Nat × Nat)) e =>
      let r := z.filter (fun x => x != e.1)
      if e.2 then r ++ [e.1] else r) s.mem.zero
    let s := { s with mem := { s.mem with zero := z } }
    let s := (s.dstRanges n).foldl (fun s r => s.scrub r.1 (r.1 + r.2)) s
    s.setCore n (fun c => { c with writes := [], banks := [], acc := [] })

/-- A running quire ends with an outcome other than 0: its writes are undone and the completion record is made (R155, R156). -/
def State.stopQuire (s : State) (n outcome : Nat) : State :=
  match (s.coreAt n).active with
  | none => s
  | some a =>
    (s.undoQuire n).setCore n (fun c => { c with
      active := none, lastQuire := a.quire,
      done := some { run := a.run, quire := a.quire, outcome, long := a.long, cycles := a.cycles, slotPasses := a.slotPasses,
                     skipped := a.skipped, satPro := a.satPro, satEpi := a.satEpi, mark := a.mark, clamps := a.clamps,
                     arrayCycles := a.arrayCycles } })

/-- A running quire abandoned under R163: it stops with OUTCOME 4, and SEQ_ABANDON_COUNT counts it (R167). -/
def State.abandonQuire (s : State) (n : Nat) : State :=
  (s.stopQuire n 4).setCore n (fun c => { c with abandonCount := satAdd 32 c.abandonCount 1 })

/-- Whether a pending pre-emption or removal abandons the quire that a core runs (R163, R165): it is LONG, has not been abandoned twice, and its completion has not come first. -/
def State.mayAbandon (s : State) (n : Nat) : Bool :=
  let c := s.coreAt n
  c.done.isNone && c.active.any (fun a => a.long && !(a.ended && c.writes.isEmpty) &&
    decide (((s.runAt a.run).map (fun x => tget 0 x.abandons a.quire)).getD 0 < 2))

/-- Cellar-store bytes of a partition's preparation: pictures staged for quantisation, crop sources, unissued ready batches, and contexts of pages between bands (R53, R169, R226, R227, R257). -/
def State.mediaCellar (s : State) (p : Nat) : Nat :=
  let pipe := fun (h : Nat) => s.media.pipelines.find? (fun x => x.part == p && x.handle == h)
  ((s.media.streams.filter (fun e => e.2.part == p)).map (fun e =>
    let px := ((pipe e.2.pipeline).map (fun x => x.wa * x.ha * (if x.channels = 0 then 1 else 3))).getD 0
    (e.2.pics.map (fun i =>
      (if i.prepared && !i.quantised then 2 * px else 0) +
      (match i.crop with
       | some c => c.2.2.length
       | none => 0))).sum)).sum +
  ((s.media.batches.filter (fun e => e.2.part == p && e.2.run == 0)).map (fun e =>
    e.2.entries.length * ((pipe e.2.pipeline).map (fun x =>
      let img := s.imageOf p (if e.2.kind = 2 then x.secFolio else x.detFolio)
      (((List.range (fTensors img)).find? (fun t => (tdecl img t).kind == 3)).map (fun t => (tdecl img t).homeBytes)).getD 0)).getD 0)).sum +
  65536 * (s.media.pages.filter (fun e => e.2.part == p && decide (e.2.stage = .decoding ∧ e.2.used ≠ 0) && e.2.lane.isNone)).length

/-- Bytes of cellar store a partition uses: tensors homed there, preparation and text tables (R169). -/
def State.cellarUse (s : State) (p : Nat) : Nat :=
  ((s.cel.tensors.filter (fun e => e.2.part == p)).map (fun e =>
    (if e.2.home = .cellar ∧ s.copying e.2 = false then s.bytesIn e.2 .cellar else 0) +
    (match e.2.move with
     | some (.cellar, _) => s.bytesIn e.2 .cellar
     | _ => 0))).sum + s.mediaCellar p +
  ((s.text.vocab ++ s.text.grammar).map (fun e => match e.2 with
    | some t => if t.part = p then t.cellar else 0
    | none => 0)).sum

/-- The ranges of the cellar store that working copies of text tables take (R274). -/
def State.tableRanges (s : State) : List (Nat × Nat) :=
  (s.text.vocab ++ s.text.grammar).filterMap (fun e => e.2.map (fun t => (t.addr, t.cellar)))

/-- Bytes of the cellar store open to tensors: the trace port's buffer lies at its top (R483; assumption log 16). -/
def State.cellarSize (s : State) : Nat := if tget 0 s.mgt.claims 3 = 4 then 0x03C00000 else 0x04000000

/-- Bytes of a folio's tensors that one home alone may hold (R170). -/
def onlyBytes (img : List Byte) (home : Nat) : Nat :=
  ((List.range (fTensors img)).map (fun t => if (tdecl img t).home = home then (tdecl img t).homeBytes else 0)).sum

/-- Bytes of a folio's tensors that one home alone may hold, and that are homed there. -/
def State.onlyHomed (s : State) (p h home : Nat) : Nat :=
  ((s.cel.tensors.filter (fun e => e.2.part == p && e.2.folio == h && (s.declOf e.2).home == home && !e.2.lost)).map
    (fun e => (s.declOf e.2).homeBytes)).sum

/-- Bytes kept free in a partition's budget for tensors of its loaded folios that one home alone may hold and that have none yet (R170). -/
def State.reserved (s : State) (p home : Nat) : Nat :=
  ((s.cel.folios.filter (fun f => f.part == p)).map (fun f => onlyBytes f.image home - s.onlyHomed p f.handle home)).sum

/-- Bytes a home of `n` bytes asks of a budget: beside what is kept free, or out of it for a tensor that only this home may hold. -/
def State.asks (s : State) (p home n : Nat) (only : Bool) : Nat := if only then max n (s.reserved p home) else n + s.reserved p home

/-- A free place of `n` bytes in the cellar store within the partition's CELLAR_BUDGET (R170, R174). -/
def State.cellarRoom (s : State) (p n : Nat) (only : Bool) : Option Nat :=
  if 2 ^ 20 * (s.partAt p).cellar < s.cellarUse p + s.asks p 2 n only then none
  else lowestFree cellarBase s.cellarSize n (s.tensorRanges (fun h => h = .cellar) ++ s.tableRanges)

/-- Bytes of DRAM_BUDGET a partition uses: bins, folio images, text tables, references, tensors homed in DRAM (R169). -/
def State.dramUse (s : State) (p : Nat) : Nat :=
  s.binBytes p +
  ((s.cel.folios.filter (fun f => f.part == p)).map (fun f => f.image.length)).sum +
  ((s.text.vocab ++ s.text.grammar).map (fun e => match e.2 with
    | some t => if t.part = p then t.dram else 0
    | none => 0)).sum +
  ((s.media.streams.filter (fun e => e.2.part == p)).map (fun e => e.2.refBytes)).sum +
  ((s.cel.tensors.filter (fun e => e.2.part == p && decide (e.2.home = .dram) && e.2.run != 0 && !s.copying e.2)).map
    (fun e => s.bytesIn e.2 .dram)).sum +
  ((s.cel.tensors.filter (fun e => e.2.part == p && e.2.move.any (fun m => decide (m.1 = .dram)))).map (fun e => s.bytesIn e.2 .dram)).sum

/-- Whether a range lies in a list of granules, above an offset of the list. -/
def inGranules (gs : List Nat) (above a n : Nat) : Bool :=
  (List.range ((a + n + 2 ^ 25 - 1) / 2 ^ 25 - a / 2 ^ 25)).all (fun i =>
    let g := a / 2 ^ 25 + i
    match gs.findIdx? (· == g) with
    | none => false
    | some k => decide (above ≤ 2 ^ 25 * k + (max a (2 ^ 25 * g) - 2 ^ 25 * g)))

/-- A free place of `n` bytes in granules of DRAM, above the first `above` bytes of them. -/
def granuleRoom (gs : List Nat) (above n : Nat) (used : List (Nat × Nat)) : Option Nat :=
  (((gs.map (2 ^ 25 * ·)) ++ used.map (fun (u : Nat × Nat) => align64 (u.1 + u.2)) ++
      [align64 (2 ^ 25 * gs.getD (above / 2 ^ 25) 0 + above % 2 ^ 25)]).filter (fun (a : Nat) =>
    inGranules gs above a n && used.all (fun (u : Nat × Nat) => !meets a n u.1 u.2))).min?

/-- The ranges of DRAM that folio images take (R175). -/
def State.imageRanges (s : State) : List (Nat × Nat) := s.cel.folios.map (fun f => (f.addr, f.image.length))

/-- The ranges of DRAM that the reference buffers of streams take (R212). -/
def State.refRanges (s : State) : List (Nat × Nat) := s.media.streams.map (fun e => (e.2.refAddr, e.2.refBytes))

/-- A free place of `n` bytes in a partition's DRAM, outside its bin region, whatever its budget still holds (R174, R393). -/
def State.dramPlace (s : State) (p n : Nat) : Option Nat :=
  granuleRoom (s.partAt p).chunks (s.binBytes p) n (s.tensorRanges (fun h => h = .dram) ++ s.imageRanges ++ s.refRanges)

/-- A free place of `n` bytes for a tensor in a partition's DRAM, within its DRAM_BUDGET (R170, R174). -/
def State.dramRoom (s : State) (p n : Nat) (only : Bool) : Option Nat :=
  if 2 ^ 28 * (s.partAt p).dram < s.dramUse p + s.asks p 4 n only then none else s.dramPlace p n

/-- A free place of `n` bytes in a partition's save area (R170). -/
def State.saveRoom (s : State) (p n : Nat) : Option Nat :=
  granuleRoom (s.partAt p).save 0 n (s.tensorRanges (fun h => h = .saveArea))

/-! ### Tensors and their homes (R174 to R177) -/

/-- A tensor entry. -/
def State.tensorAt (s : State) (k : Nat) : Option Tensor := nget s.cel.tensors k

/-- A tensor entry changed. -/
def State.setTensor (s : State) (k : Nat) (f : Tensor → Tensor) : State :=
  { s with cel := { s.cel with tensors := nmod s.cel.tensors k f } }

/-- A tensor entry made. -/
def State.newTensor (s : State) (t : Tensor) : State :=
  { s with cel := { s.cel with tensors := s.cel.tensors ++ [(s.cel.nextTensor, t)], nextTensor := s.cel.nextTensor + 1, uses := s.cel.uses + 1 } }

/-- Whether an entry is the master copy of a constant: the folio image in DRAM (R175). -/
def Tensor.isMaster (t : Tensor) : Bool := decide (t.home = .dram) && t.run == 0

/-- A tensor's home released: its entry and zero bits go, and lines it leaves in a core store are zeroed (R75, R177). -/
def State.freeTensor (s : State) (k : Nat) : State :=
  match s.tensorAt k with
  | none => s
  | some t =>
    let s := { s with cel := { s.cel with tensors := ndel s.cel.tensors k },
                      mem := { s.mem with zero := s.mem.zero.filter (fun z => z.1 != k) } }
    match t.home with
    | .core n =>
      if t.addr < coreBase n ∨ s.copying t = true then s
      else (s.scrub t.addr (t.addr + t.bytes)).setCore n (fun c => { c with mapFull := false })
    | _ => s

/-- The entries a test picks, freed. -/
def State.freeTensors (s : State) (pick : Tensor → Bool) : State :=
  (s.cel.tensors.filter (fun e => pick e.2)).foldl (fun s e => s.freeTensor e.1) s

/-- The entry binding i of a quire names, for a core: a constant or a compressed tensor's copy in that core's store where there is one (R143, R175). -/
def State.bindEntry (s : State) (r q i n : Nat) : Option (Nat × Tensor) :=
  match s.runAt r with
  | none => none
  | some x =>
    let img := s.imageOf x.part x.folio
    let bs := qbinds img (qhdr img q)
    let tid := (bs.getD i (0, 0)).1
    let d := tdecl img tid
    let mine := fun (e : Nat × Tensor) => e.2.part == x.part && e.2.folio == x.folio && e.2.tid == tid &&
      (if d.isConst then e.2.run == 0 else e.2.run == r + 1 && e.2.inst == bindInstance img bs i)
    match s.cel.tensors.find? (fun e => mine e && atCore n e.2.home) with
    | some e => some e
    | none => s.cel.tensors.find? mine

/-- The entries a quire binds, one for each binding. -/
def State.quireEntries (s : State) (r q n : Nat) : List (Option (Nat × Tensor)) :=
  (List.range (qhdr (s.runImage r) q).nBind).map (fun i => s.bindEntry r q i n)

/-- Numbers of the entries that the running quire and the queued quires of a core bind (R175, R176). -/
def State.boundOn (s : State) (n : Nat) : List Nat :=
  let c := s.coreAt n
  let qs := c.queue ++ c.second.toList ++ (c.active.toList.map (fun a => (a.run, a.quire)))
  qs.flatMap (fun e => (s.quireEntries e.1 e.2 n).filterMap (fun o => o.map (·.1)))

/-- Numbers of the entries bound by issued quires, which no move may take (R177). -/
def State.boundIssued (s : State) : List Nat :=
  (List.range 8).flatMap (fun n =>
    let c := s.coreAt n
    (c.second.toList ++ (c.active.toList.map (fun a => (a.run, a.quire)))).flatMap (fun e =>
      (s.quireEntries e.1 e.2 n).filterMap (fun o => o.map (·.1))))

/-- Numbers of the entries that running, issued or queued quires of any core bind. -/
def State.boundAny (s : State) : List Nat := (List.range 8).flatMap s.boundOn

/-- Entries in the order of their last use, the least recent first (R175). -/
def byUse (l : List (Nat × Tensor)) : List (Nat × Tensor) :=
  l.foldl (fun acc e => acc.takeWhile (fun x => decide (x.2.used ≤ e.2.used)) ++
    e :: acc.dropWhile (fun x => decide (x.2.used ≤ e.2.used))) []

/-- Constants and copies of a core store that no running or queued quire binds, in the order they are dropped: not HOT before HOT, least recently used first (R175 items 2 and 3). -/
def State.droppable (s : State) (n : Nat) : List Nat :=
  let bound := s.boundOn n
  let lru := byUse (s.cel.tensors.filter (fun e => atCore n e.2.home && s.copies e.2 && !bound.contains e.1 && e.2.move.isNone))
  ((lru.filter (fun e => !bitOf (s.declOf e.2).hints 0)) ++ (lru.filter (fun e => bitOf (s.declOf e.2).hints 0))).map (·.1)

/-- Non-constant tensors of a core store's holder that no queued quire binds, least recently used first (R175 item 4). -/
def State.evictable (s : State) (n : Nat) : List Nat :=
  let bound := s.boundAny
  (byUse (s.cel.tensors.filter (fun e => atCore n e.2.home && e.2.part == (s.coreAt n).user && !s.copies e.2 && !e.2.lost &&
    !bound.contains e.1 && e.2.move.isNone))).map (·.1)

/-- What a core store may free for a quire, in the order of R175; tensors whose lifetime has ended are gone already (item 1). -/
def State.freeable (s : State) (n : Nat) : List Nat := s.droppable n ++ s.evictable n

/-- The sub-client records that a run's instances name, for a tensor: those of its own instance, where each instance has one (R198, R199). -/
def State.clientsOf (s : State) (t : Tensor) : List Nat :=
  match nget s.cel.runs (t.run - 1) with
  | some x =>
    if t.run = 0 then []
    else if 1 < instCount (s.imageOf t.part t.folio) t.tid then ((x.instances[t.inst]?).map (·.client)).toList
    else x.instances.map (·.client)
  | none => []

/-- A cost split among the instances of a batch in batch order (R199). -/
def splitCost (c m : Nat) : List Nat := (List.range m).map (fun i => c / m + (if i < c % m then 1 else 0))

/-- A charge to a partition for a batch, split among its sub-clients (R199). -/
def State.chargeBatch (s : State) (p counter k : Nat) (clients : List Nat) : State :=
  let s := s.charge p counter k
  (clients.zip (splitCost k clients.length)).foldl (fun s e => if e.1 = 0 then s else s.charge e.1 counter e.2) s

/-- Busy cycles of some domains charged to a partition for a batch, split among its sub-clients (R199, R200). -/
def State.busyBatch (s : State) (doms : List Nat) (p k : Nat) (clients : List Nat) : State :=
  doms.foldl (fun s d =>
    (clients.zip (splitCost k clients.length)).foldl (fun s e => if e.1 = 0 then s else s.busyAt d e.1 e.2) (s.busyAt d p k)) s

/-- Accounting of a move of n bytes between homes, to a record and the sub-client records of the work that asked for it (R198, R199, R203). -/
def State.chargeMove (s : State) (who : Nat) (clients : List Nat) (src dst : HomeKind) (n : Nat) : State :=
  let s := if inCore dst then s.chargeBatch who 8 n clients else s
  let s := if inCore src then s.chargeBatch who 9 n clients else s
  let s := if src = .cellar ∨ dst = .cellar then s.chargeBatch who 10 n clients else s
  let s := if inDram src then s.chargeBatch who 11 n clients else s
  let s := if inDram dst then s.chargeBatch who 12 n clients else s
  { s with cel := { s.cel with rackBytes := wrapAdd s.cel.rackBytes n } }

/-- A scrub of n bytes of a core store, at 4 KiB an array cycle, charged as core cycles (R187, R190, R197; assumption log 66). -/
def State.chargeScrub (s : State) (who n : Nat) : State := if n = 0 then s else s.charge who 1 (ceilDiv n 4096)

/-- The lines of a destination that hold bytes copied from a poisoned line (R74, R126, R177). -/
def State.poisonMap (s : State) (src n dst : Nat) : List Nat :=
  (List.range ((src + n + 63) / 64 - src / 64)).flatMap (fun i =>
    if s.poisoned (src / 64 + i) then
      let lo := max src (64 * (src / 64 + i)) - src
      let hi := min (src + n) (64 * (src / 64 + i) + 64) - src
      (List.range ((dst + hi + 63) / 64 - (dst + lo) / 64)).map ((dst + lo) / 64 + ·)
    else [])

/-- Bytes copied with their poison tags (R74, R126, R177). -/
def State.copyData (s : State) (src n dst : Nat) : State :=
  let bad := s.poisonMap src n dst
  let s := s.writeMem dst (s.bytesAt src n)
  bad.foldl (fun s i => s.setPoison i true) s

/-- Lines of a core store that a decoded block of a compressed tensor expands into, marked poisoned (R139). -/
def State.poisonDecoded (s : State) (d : TDecl) (dst : Nat) (bad : List Nat) : State :=
  let nb := ceilDiv d.channels 64
  bad.foldl (fun s b =>
    (List.range d.planes).foldl (fun s k =>
      let a := dst + k * d.storePlane + (b / nb) * d.ps + (b % nb) * (8 * d.digitBits)
      (List.range ((a + 8 * d.digitBits + 63) / 64 - a / 64)).foldl (fun s i => s.setPoison (a / 64 + i) true) s) s) s

/-- The blocks of a compressed home that are malformed or poisoned (R139). -/
def State.badBlocks (s : State) (d : TDecl) (src : Nat) (blocks : List Byte) : List Nat :=
  let bb := blockBytes d.comp
  (List.range (d.positions * ceilDiv d.channels 64)).filter (fun i =>
    (malformedBlocks d blocks).contains i || (s.firstPoison (src + i * bb) bb).isSome)

/-- The contents of a tensor put at a destination home: a compressed tensor decoded into a core store, others byte for byte; a constant's master is its folio's image in DRAM (R138, R175, R177). -/
def State.putTensor (s : State) (t : Tensor) (dst : HomeKind) (addr : Nat) : State :=
  let d := s.declOf t
  let img := s.imageOf t.part t.folio
  if d.comp ≠ 0 ∧ inCore dst = true ∧ inCore t.home = false then
    let blocks := s.bytesAt t.addr d.homeBytes
    let bad := s.badBlocks d t.addr blocks
    (s.writeMem addr (decodeTensor img d blocks)).poisonDecoded d addr bad
  else s.copyData t.addr (s.bytesIn t t.home) addr

/-- The zero-map bits of a copy in planes: those of the home it is made from (R45). -/
def State.copyBits (s : State) (k : Nat) (t : Tensor) : State :=
  match s.cel.tensors.find? (fun e => e.1 != k && t.same e.2 && decide (e.2.home = t.home) && e.2.move.isNone) with
  | none => s
  | some e => { s with mem := { s.mem with zero := s.mem.zero ++ (s.mem.zero.filter (fun z => z.1 == e.1)).map (fun z => (k, z.2)) } }

/-- Zero-map bits a tensor needs: residual planes × blocks × tiles, of an activation only (R44, R75). -/
def mapBits (d : TDecl) : Nat :=
  if d.inPlanes && !d.isConst then (d.planes - 1) * ceilDiv d.channels 256 * ceilDiv d.positions 64 else 0

/-- ZMAP_BASE: the tensors of a core store have their bits one after another (R75, R153; assumption log 16). -/
def State.zmapBase (s : State) (n k : Nat) : Nat :=
  ((s.cel.tensors.filter (fun e => atCore n e.2.home && decide (e.1 < k))).map (fun e => mapBits (s.declOf e.2))).sum

/-- The place of a tile's bit in a tensor's part of the map (R44, R75). -/
def bitPlace (d : TDecl) (plane block tile : Nat) : Nat := ((plane - 1) * ceilDiv d.channels 256 + block) * ceilDiv d.positions 64 + tile

/-- Bits of a tensor that has come into core store n for which its map RAM has no room: they are clear there, and MAP_FULL is set where one was (R75). -/
def State.fitBits (s : State) (n k : Nat) : State :=
  match s.tensorAt k with
  | none => s
  | some t =>
    let d := s.declOf t
    let out := s.mem.zero.filter (fun z => z.1 == k && decide (16384 ≤ s.zmapBase n k + bitPlace d z.2.1 z.2.2.1 z.2.2.2))
    if out.isEmpty then s
    else ({ s with mem := { s.mem with zero := s.mem.zero.filter (fun z => !out.contains z) } }).setCore n (fun c => { c with mapFull := true })

/-- The last byte of a move has landed: the home switches to the destination and the old lines are freed (R177). -/
def State.landMove (s : State) (k : Nat) : State :=
  match s.tensorAt k with
  | none => s
  | some t =>
    match t.move with
    | none => s
    | some (h, a) =>
      let n := s.bytesIn t t.home
      let s := (s.putTensor t h a).chargeMove (if t.charge ≠ 0 then t.charge - 1 else t.part) (if t.charge ≠ 0 then [] else s.clientsOf t) t.home h n
      let s := if s.copies t && !(s.declOf t).isConst && decide ((s.declOf t).comp = 0) then s.copyBits k t else s
      let s := s.setTensor k (fun t => { t with home := h, addr := a, move := none, charge := 0, owed := [], bytes := s.bytesIn t h })
      let s := match h with
        | .core n => s.fitBits n k
        | _ => s
      match t.home with
      | .core n => if s.copies t then s else (s.scrub t.addr (t.addr + t.bytes)).setCore n (fun c => { c with mapFull := false })
      | _ => s

/-- A move under way stopped: the destination is discarded, and a copy being made goes (R173, R177). -/
def State.stopMove (s : State) (k : Nat) : State :=
  match s.tensorAt k with
  | none => s
  | some t =>
    match t.move with
    | none => s
    | some _ =>
      if s.copies t then { s with cel := { s.cel with tensors := ndel s.cel.tensors k } }
      else s.setTensor k (fun t => { t with move := none, owed := [] })

/-- The moves under way into homes that a test picks, stopped. -/
def State.stopMoves (s : State) (pick : Tensor → HomeKind → Bool) : State :=
  ((s.cel.tensors.filter (fun e => e.2.move.any (fun m => pick e.2 m.1))).map (·.1)).foldl (fun s k => s.stopMove k) s

/-! ### Regulators (R196, R197) -/

/-- What a move of n bytes takes from the regulators of its tensor's partition, and what of it waits (R196, R197). -/
def State.regulate (s : State) (t : Tensor) (dst : HomeKind) (addr n : Nat) : State × Tbl Nat :=
  s.spendAll t.part (s.injected t.home t.addr n ++ (if inDram t.home then s.dramBuckets t.addr n else []) ++ (if inDram dst then s.dramBuckets addr n else []))

/-! ### Making room (R174 to R176) -/

/-- A cellar copy of a constant: it goes when its room is needed (R175). -/
def State.cellarCopy (s : State) (p : Nat) (t : Tensor) : Bool := t.part == p && t.run == 0 && decide (t.home = .cellar) && t.move.isNone

/-- Cellar-store bytes freed for `n` by dropping the partition's cellar copies of constants (R175). -/
def State.clearCellar (s : State) (p n : Nat) (only : Bool) : State :=
  ((s.cel.tensors.filter (fun e => s.cellarCopy p e.2)).map (·.1)).foldl (fun s k =>
    if (s.cellarRoom p n only).isSome then s else s.freeTensor k) s

/-- A place in the cellar store, with the copies of constants dropped that stand in its way. -/
def State.takeCellar (s : State) (p n : Nat) (only : Bool) : State × Option Nat :=
  match s.cellarRoom p n only with
  | some a => (s, some a)
  | none =>
    let t := s.clearCellar p n only
    match t.cellarRoom p n only with
    | some a => (t, some a)
    | none => (s, none)

/-- A tensor racked out of a core store to make room: to the cellar store where its HOME_ALLOWED and the budget permit, else to DRAM (R175 item 4; assumption log 67). -/
def State.rackAway (s : State) (k : Nat) : State :=
  match s.tensorAt k with
  | none => s
  | some t =>
    let d := s.declOf t
    let o := if bitOf d.home 1 then s.takeCellar t.part d.homeBytes (decide (d.home = 2)) else (s, none)
    let dst := match o.2 with
      | some a => some (HomeKind.cellar, a)
      | none => (s.dramRoom t.part d.homeBytes (decide (d.home = 4))).map (fun a => (HomeKind.dram, a))
    match dst with
    | none => s
    | some (h, a) => (((o.1.regulate t h a (s.bytesIn t t.home)).1).setTensor k (fun t => { t with move := some (h, a) })).landMove k

/-- Lines freed in a core store until `n` bytes fit, by dropping or racking away what R175 lets go, in its order. -/
def State.makeRoom (s : State) (c n : Nat) : List Nat → State
  | [] => s
  | k :: ks =>
    if (s.coreRoom c n).isSome then s
    else (match s.tensorAt k with
      | some t => if s.copies t then s.freeTensor k else s.rackAway k
      | none => s).makeRoom c n ks

/-- Lines freed in core store c until n bytes fit, in the order of R175. -/
def State.clearRoom (s : State) (c n : Nat) : State := s.makeRoom c n (s.freeable c)

/-- The core store an affinity group prefers: that of its most recently homed tensor, when the partition holds the core (R174). -/
def State.groupCore (s : State) (p r folio g : Nat) : Option Nat :=
  if g = 0 then none
  else (s.cel.tensors.reverse.findSome? (fun e =>
    match e.2.home with
    | .core n => if e.2.part = p ∧ (e.2.run = r + 1 ∨ e.2.run = 0) ∧ e.2.folio = folio ∧ (s.declOf e.2).affinity = g ∧ (s.coreAt n).user = p
        then some n else none
    | _ => none))

/-- The first home of a tensor that has none, for a quire placed on core n: the core store, the cellar store, DRAM, as HOME_ALLOWED permits and room exists; a gutter slot goes to the cellar store (R174). -/
def State.firstHome (s : State) (p r folio tid : Nat) (d : TDecl) (n : Nat) : State × Option (HomeKind × Nat) :=
  let slot := isGutterSlot (s.imageOf p folio) tid
  let c := (s.groupCore p r folio d.affinity).getD n
  let core := bitOf d.home 0 && decide (d.comp = 0) && !slot
  let s' := if core then s.clearRoom c d.storeBytes else s
  match (if core then s'.coreRoom c d.storeBytes else none) with
  | some a => (s', some (coreHome c, a))
  | none =>
    match (if bitOf d.home 1 || slot then s.takeCellar p d.homeBytes (decide (d.home = 2)) else (s, none)) with
    | (s, some a) => (s, some (.cellar, a))
    | (_, none) =>
      match (if bitOf d.home 2 && !slot then s.dramRoom p d.homeBytes (decide (d.home = 4)) else none) with
      | some a => (s, some (.dram, a))
      | none => (s, none)

/-- The tensors a quire binds that have no home yet get one, with the exponent of their point (R47, R174). -/
def State.homeBindings (s : State) (r q n : Nat) (ex : TDecl → Nat → Nat → Nat) : State :=
  match s.runAt r with
  | none => s
  | some x =>
    let img := s.imageOf x.part x.folio
    let bs := qbinds img (qhdr img q)
    (List.range bs.length).foldl (fun s i =>
      let tid := (bs.getD i (0, 0)).1
      let d := tdecl img tid
      if (s.bindEntry r q i n).isSome ∨ d.isConst then s
      else
        match s.firstHome x.part r x.folio tid d n with
        | (s, some (h, a)) =>
          s.newTensor { part := x.part, folio := x.folio, run := r + 1, tid, inst := bindInstance img bs i,
                        bytes := (match h with
                          | .core _ => d.storeBytes
                          | _ => d.homeBytes),
                        ps := d.ps, planeBytes := d.storePlane, home := h, addr := a, move := none, charge := 0,
                        e := ex d tid (bindInstance img bs i),
                        lost := false, used := s.cel.uses }
        | (s, none) => s) s

/-! ### Sub-client records (R198) -/

/-- What a sub-client record belongs to: partition, kind (1 stream, 2 page source, 3 session) and number, plus 1 (R198). -/
def clientKey (p kind id : Nat) : Nat := 1 + p + 16 * kind + 64 * id

/-- The record of an object, when it has one (R198, R320). -/
def State.clientOf (s : State) (p kind id : Nat) : Option Nat :=
  (s.cel.clients.find? (fun e => e.2 == clientKey p kind id)).map (·.1)

/-- Records a partition uses (R169: SUBCLIENTS). -/
def State.clientsUsed (s : State) (p : Nat) : Nat := (s.cel.clients.filter (fun e => (e.2 - 1) % 16 == p)).length

/-- A record allocated and cleared for an object, within SUBCLIENTS; the record's number, 0 where none is left (R198). -/
def State.takeClient (s : State) (p kind id : Nat) : State × Nat :=
  if (s.partAt p).subclients ≤ s.clientsUsed p then (s, 0)
  else match (List.range 4096).find? (fun i => tget 0 s.cel.clients (9 + i) == 0) with
    | none => (s, 0)
    | some i =>
      let r := 9 + i
      ({ s with cel := { s.cel with
          clients := tput 0 s.cel.clients r (clientKey p kind id),
          acct := s.cel.acct.filter (fun e => e.1 / 16 != r) } }, r)

/-- An object's record released (R198). -/
def State.dropClient (s : State) (r : Nat) : State :=
  if r = 0 then s else { s with cel := { s.cel with clients := tput 0 s.cel.clients r 0 } }

/-- The 128 bytes of a record's counters (R198, R320). -/
def State.acctBytes (s : State) (r : Nat) : List Byte :=
  (List.range 16).flatMap (fun c => natLE 8 (tget 0 s.cel.acct (16 * r + c)))

end Sys2Proof.Machine
end

