-- ==== Sys2Proof/Machine/Crypto.lean ====
section
/-! DEFINITION. SHA-256 (FIPS 180-4), CRC-32C, the LMS framing of R434 and the checks of a Virla pack (R452). -/

namespace Sys2Proof.Machine

/-! ### SHA-256 (FIPS 180-4, named by R434) -/

/-- The first 64 primes. -/
def primes64 : List Nat := ((List.range 312).filter (fun n => decide (2 ≤ n) &&
  (List.range n).all (fun d => decide (d < 2) || decide (n % d ≠ 0)))).take 64

/-- The round constants: fractional bits of the cube roots of the primes. -/
def shaK : List (BitVec 32) := primes64.map (fun p => BitVec.ofNat 32 (rootFloor 3 (p * 2 ^ 96) 36 0))

/-- The initial hash: fractional bits of the square roots of the first 8 primes. -/
def shaH0 : List (BitVec 32) := (primes64.take 8).map (fun p => BitVec.ofNat 32 (rootFloor 2 (p * 2 ^ 64) 36 0))

/-- The big-endian value of a byte list. -/
def beNat (l : List Byte) : Nat := leNat l.reverse

/-- The `n` big-endian bytes of a number. -/
def natBE (n v : Nat) : List Byte := (natLE n v).reverse

/-- The message schedule of one block, latest word first. -/
def shaSchedule (blk : List Byte) : List (BitVec 32) :=
  let w0 := ((List.range 16).map (fun i => BitVec.ofNat 32 (beNat (sliceB blk (4 * i) 4)))).reverse
  ((List.range 48).foldl (fun (w : List (BitVec 32)) _ =>
    let x := w.getD 14 0
    let y := w.getD 1 0
    let a := x.rotateRight 7 ^^^ x.rotateRight 18 ^^^ (x >>> 3)
    let b := y.rotateRight 17 ^^^ y.rotateRight 19 ^^^ (y >>> 10)
    (w.getD 15 0 + a + w.getD 6 0 + b) :: w) w0).reverse

/-- One round on the eight working words. -/
def shaRound (h : List (BitVec 32)) (kw : BitVec 32 × BitVec 32) : List (BitVec 32) :=
  match h with
  | [a, b, c, d, e, f, g, z] =>
    let s1 := e.rotateRight 6 ^^^ e.rotateRight 11 ^^^ e.rotateRight 25
    let t1 := z + s1 + ((e &&& f) ^^^ (~~~e &&& g)) + kw.1 + kw.2
    let s0 := a.rotateRight 2 ^^^ a.rotateRight 13 ^^^ a.rotateRight 22
    let t2 := s0 + ((a &&& b) ^^^ (a &&& c) ^^^ (b &&& c))
    [t1 + t2, a, b, c, d + t1, e, f, g]
  | l => l

/-- The compression of one 64-byte block. -/
def shaBlock (h : List (BitVec 32)) (blk : List Byte) : List (BitVec 32) :=
  (h.zip ((shaK.zip (shaSchedule blk)).foldl shaRound h)).map (fun e => e.1 + e.2)

/-- The padded message. -/
def shaPad (m : List Byte) : List Byte :=
  m ++ [0x80] ++ List.replicate ((119 - m.length % 64) % 64) 0 ++ natBE 8 (8 * m.length)

/-- SHA-256. -/
def sha256 (m : List Byte) : List Byte :=
  let p := shaPad m
  ((List.range (p.length / 64)).foldl (fun h i => shaBlock h (sliceB p (64 * i) 64)) shaH0).flatMap (fun w => natBE 4 w.toNat)

/-! ### CRC-32C (R429, R441, R447, R451) -/

/-- One bit of CRC-32C, reflected polynomial 0x82F63B78. -/
def crcBit (c : BitVec 32) : BitVec 32 := if c.getLsbD 0 then (c >>> 1) ^^^ 0x82F63B78#32 else c >>> 1

/-- CRC-32C of a byte list. -/
def crc32c (m : List Byte) : Nat :=
  (~~~(m.foldl (fun c b =>
    let c := c ^^^ b.setWidth 32
    (List.range 8).foldl (fun c _ => crcBit c) c) (BitVec.allOnes 32))).toNat

/-! ### LMS framing (R434; RFC 8554's layout, assumption log 5) -/

/-- Signature length of an LMS type code; none for a type R434 does not accept. -/
def lmsSigLen : Nat → Option Nat
  | 6 => some 2508
  | 7 => some 2668
  | 8 => some 2828
  | _ => none

/-- LMS type code of a signature: after q and the 2,180-byte LM-OTS part. -/
def sigType (sig : List Byte) : Nat := beNat (sliceB sig 2184 4)

/-- Whether a key and a signature have types R434 accepts, agree, and have their lengths. -/
def lmsTypesOk (key sig : List Byte) : Bool :=
  decide (key.length = 56) && decide (beNat (sliceB key 0 4) = sigType sig) && decide (beNat (sliceB key 4 4) = 3) &&
  decide (beNat (sliceB sig 4 4) = 3) && decide (lmsSigLen (sigType sig) = some sig.length)

/-- Whether a signature verifies (R434). -/
def lmsOk (key msg sig : List Byte) : Bool := lmsTypesOk key sig && Config.lmsVerify key msg sig

/-! ### Virla packs (R452) -/

/-- Where a pack's signature starts: the next 64-byte boundary after the payload. -/
def packSigOfs (b : List Byte) : Nat := (64 + leAt b 8 4 + 63) / 64 * 64

/-- The length of a pack's signature: fixed by its LMS type, 0 for a type R434 does not accept. -/
def packSigLen (b : List Byte) : Nat := (lmsSigLen (beNat (sliceB b (packSigOfs b + 2184) 4))).getD 0

/-- The header check of a pack of the kinds expected (R452 step 1). -/
def packHeaderOk (kinds : List Nat) (b : List Byte) : Bool :=
  decide (64 ≤ b.length) && decide (leAt b 0 4 = 0x41524956) && decide (leAt b 4 2 = 1) && kinds.contains (leAt b 6 1) &&
  decide (leAt b 7 1 ≤ 7) && decide (leAt b 12 4 = 0) && decide (leAt b 48 16 = 0) &&
  decide (64 + leAt b 8 4 ≤ b.length) && decide (packSigOfs b + 2188 ≤ b.length) &&
  decide (packSigOfs b + packSigLen b ≤ b.length)

/-- The payload of a pack. -/
def packPayload (b : List Byte) : List Byte := (b.drop 64).take (leAt b 8 4)

end Sys2Proof.Machine
end

