-- ==== Sys2Proof/Machine/FolioCheck.lean ====
section
/-! DEFINITION. The checks of a folio at load (R29, R38, R92, R106, R109, R113, R122, R140 to R152, R161, R164, R166). -/

namespace Sys2Proof.Machine

/-! ### DETAIL 0x01: sections and ranges (R140, R146) -/

/-- End of the section that starts at an offset: the next section's start, or the image's end. -/
def fSectionEnd (img : List Byte) (k : Nat) : Nat :=
  let o := fSection img k
  (((List.range 8).map (fSection img)).filter (fun x => decide (o < x))).foldl min img.length

/-- Whether a range lies in a section. -/
def inSection (img : List Byte) (k lo n : Nat) : Bool := decide (fSection img k ≤ lo) && decide (lo + n ≤ fSectionEnd img k)

/-- Whether a range lies in the image. -/
def inImage (img : List Byte) (lo n : Nat) : Bool := decide (lo + n ≤ img.length)

/-- The chains a quire's FLUSH instructions name with the channels of what each writes (R145). -/
def flushChannels (img : List Byte) : List (Nat × Nat) :=
  (List.range (fQuires img)).flatMap (fun q =>
    let h := qhdr img q
    (List.range h.codeLen).filterMap (fun k =>
      let w := qinst img h k
      if iClass w = 5 ∧ bitOf w 51 then
        some (h.chainBase + bitsOf w 43 8, (tdecl img (qbind img h (bitsOf w 35 8)).1).channels)
      else none))

/-- The chains that SLOT instructions name with the contraction indices of each source: its channels, or its positions under a transposition (R93, R145). -/
def slotChannels (img : List Byte) : List (Nat × Nat) :=
  (List.range (fQuires img)).flatMap (fun q =>
    let h := qhdr img q
    (List.range h.codeLen).filterMap (fun k =>
      let w := qinst img h k
      if iClass w = 3 ∧ bitsOf w 34 8 ≠ 0xFF then
        let c := h.chainBase + bitsOf w 34 8
        let d := tdecl img (qbind img h (bitsOf w 50 8)).1
        some (c, if (chainD img c).transpose then d.positions else d.channels)
      else none))

/-- C of R145: the largest CHANNELS among what FLUSHes naming a chain write. -/
def chainChannels (fc : List (Nat × Nat)) (c : Nat) : Nat := ((fc.filter (fun e => e.1 == c)).map (·.2)).foldl max 0

/-- The checks of DETAIL 0x01; the index of the first offending object, none when they pass. -/
def check01 (img : List Byte) : Option Nat :=
  if img.length < 64 ∨ leAt img 0 4 ≠ 0x4C4F464B ∨ leAt img 4 2 ≠ 1 ∨ leAt img 0x10 4 ≠ img.length then some 0
  else if fTensors img = 0 ∨ 16384 < fTensors img ∨ fQuires img = 0 ∨ 4096 < fChains img ∨ 4096 < fGeoms img ∨
      256 < fLuts img ∨ 64 < fStrips img then some 0
  else if (List.range 8).any (fun k => fSection img k % 64 != 0 || !inImage img (fSection img k) 0) then some 0
  else if !(inImage img (fSection img 0) (64 * fTensors img)) || !(inImage img (fSection img 1) (64 * fQuires img)) ||
      !(inImage img (fSection img 3) (64 * fChains img)) || !(inImage img (fSection img 4) (32 * fGeoms img)) ||
      !(inImage img (fSection img 6) (512 * fLuts img)) then some 0
  else
    match (List.range (fTensors img)).find? (fun t =>
      let d := tdecl img t
      !((d.dataOfs == 0 || inImage img d.dataOfs d.homeBytes) &&
        (d.depthOfs == 0 || inImage img d.depthOfs (ceilDiv d.channels 16)) &&
        (d.form != 1 || d.zeroOfs == 0 || inImage img d.zeroOfs (2 * d.channels)))) with
    | some t => some t
    | none =>
      match (List.range (fQuires img)).find? (fun q =>
        let h := qhdr img q
        !(inSection img 2 h.codeOfs (8 * h.codeLen) && h.codeOfs % 8 == 0 && inSection img 5 h.bindOfs (4 * h.nBind) &&
          (h.nPred == 0 || inSection img 5 h.predOfs (2 * h.nPred)) &&
          (h.nLive == 0 || inSection img 5 h.liveOfs (2 * h.nLive)))) with
      | some q => some q
      | none =>
        let fc := flushChannels img
        (List.range (fChains img)).find? (fun c =>
          let d := chainD img c
          let n := chainChannels fc c
          !((d.chanOfs == 0 || inImage img d.chanOfs (24 * n)) && (d.groupOfs == 0 || inImage img d.groupOfs (8 * ceilDiv n 16)) &&
            (!d.splitEq || inImage img d.splitOfs 32) &&
            (d.proZeroOfs == 0 || !chainUnsigned img d || inImage img d.proZeroOfs (2 * chainChannels (slotChannels img) c))))

/-! ### DETAIL 0x02: reserved fields (R141, R145) -/

/-- The reserved fields of the image; the index of the first tensor, quire or chain with a non-zero one, 0 for a geometry's (R166). -/
def check02 (img : List Byte) : Option Nat :=
  if leAt img 6 2 / 8 ≠ 0 ∨ leAt img 0x0A 2 ≠ 0 then some 0
  else
    match (List.range (fTensors img)).find? (fun t =>
      let o := fSection img 0 + 64 * t
      decide (leAt img (o + 1) 1 / 64 ≠ 0) || decide (leAt img (o + 2) 1 / 8 ≠ 0) || decide (leAt img (o + 3) 1 / 8 ≠ 0) ||
      decide (leAt img (o + 0x1E) 2 ≠ 0) || decide (leAt img (o + 0x2C) 20 ≠ 0)) with
    | some t => some t
    | none =>
      match (List.range (fQuires img)).find? (fun q =>
        let o := fSection img 1 + 64 * q
        let h := qhdr img q
        decide (h.flags / 8 ≠ 0) || decide (leAt img (o + 0x1E) 2 ≠ 0) || decide (leAt img (o + 0x2A) 22 ≠ 0) ||
        (List.range h.nBind).any (fun i => decide (leAt img (h.bindOfs + 4 * i + 3) 1 ≠ 0))) with
      | some q => some q
      | none =>
        let fc := flushChannels img
        match (List.range (fChains img)).find? (fun c =>
          let o := fSection img 3 + 64 * c
          let d := chainD img c
          decide (d.select / 2 ^ 24 ≠ 0) || decide (leAt img (o + 0x0E) 2 ≠ 0) || decide (leAt img (o + 0x2C) 20 ≠ 0) ||
          (d.chanOfs != 0 && (List.range (chainChannels fc c)).any (fun k =>
            decide (leAt img (d.chanOfs + 24 * k + 1) 1 ≠ 0) || decide (leAt img (d.chanOfs + 24 * k + 10) 6 ≠ 0))) ||
          (d.splitEq && (decide (leAt img (d.splitOfs + 3) 1 ≠ 0) || decide (leAt img (d.splitOfs + 12) 20 ≠ 0)))) with
        | some c => some c
        | none => if (List.range (fGeoms img)).any (fun g => decide (leAt img (fSection img 4 + 32 * g + 17) 15 ≠ 0)) then some 0 else none

/-! ### The walk through a quire's straight-line code (R152) -/

/-- One access of an instruction: binding, byte range of the tensor from the base of plane D0, and whether it writes. -/
structure Access where
  bind : Nat
  lo : Nat
  len : Nat
  write : Bool
  deriving DecidableEq, Repr

/-- An update of side-vector entries: tensor, first entry, count, whether the chain sets ROW_FIRST or COL_FIRST, and the chain (R92). -/
structure SideUse where
  tid : Nat
  lo : Nat
  len : Nat
  first : Bool
  chain : Nat
  update : Bool
  deriving DecidableEq, Repr

/-- An open bank: slot, bank, planes p and q of its pair, the level they stand at and the passes added (R36, R38, R64). -/
structure OpenBank where
  slot : Nat
  bank : Nat
  p : Nat
  q : Nat
  lev : Nat
  count : Nat
  deriving DecidableEq, Repr

/-- What the loader follows through a quire's code (R152). -/
structure Walk where
  bad : Bool := false
  s2bad : Bool := false
  long : Bool := false
  diagCheck : Bool := false
  ended : Bool := false
  slots : Tbl (Option SlotSrc) := []
  geoms : Tbl (Option (Nat × Bool)) := []
  loads : List WTile := []
  weight : Option WTile := none
  banks : List OpenBank := []
  cnt : Nat := 0
  acc : List Access := []
  sides : List SideUse := []
  /-- R38: passes that long-accumulator sets hold of each plane pair: slot, set, planes p and q, and the passes. -/
  groups : List (Nat × Nat × Nat × Nat × Nat) := []
  /-- R106: normalised conversions: chain of the FLUSH, PRO_NORM, whether a sweep, and CHANNELS. -/
  norms : List (Nat × Nat × Bool × Nat) := []
  deriving DecidableEq, Repr

/-- A fault of the walk noted. -/
def Walk.fail (w : Walk) (b : Bool) : Walk := if b then { w with bad := true } else w

/-- The prologue chain of a slot, when it has one that is not a bypass (R149, R90). -/
def slotChain (img : List Byte) (h : QHdr) (s : SlotSrc) : Option ChainD :=
  if s.chain = 0xFF then none
  else
    let c := chainD img (h.chainBase + s.chain)
    if c.bypass then none else some c

/-- The operand planes a slot's passes read: the prologue's output planes, else the source's (R90, R96, R109). -/
def slotPlanes (img : List Byte) (h : QHdr) (s : SlotSrc) : Nat :=
  match slotChain img h s with
  | some c => chainPlanes img c
  | none => (tdecl img (qbind img h s.binding).1).planes

/-- Contraction indices of a block: 512 in S2, else 256 (R65, R114). -/
def blockWidth (s2 : Bool) : Nat := if s2 then 512 else 256

/-- The source positions a slot reads for a block, padding left out (R114, R115, R150). -/
def slotPositions (img : List Byte) (s : SlotSrc) (g : Option (Nat × Bool)) (b : Nat) : List Nat :=
  match g with
  | some (gi, true) => (List.range (s.p + 1)).filterMap (fun j => (geomD img gi).position b (s.p0 + j))
  | _ => (List.range (s.p + 1)).map (s.p0 + ·)

/-- Channel block of a block: under WINDOW block mod NB, else the block itself (R114, R150). -/
def slotChanBlock (img : List Byte) (g : Option (Nat × Bool)) (b : Nat) : Nat :=
  match g with
  | some (gi, true) => b % (geomD img gi).nb
  | _ => b

/-- Bytes of a weight tile (R59, R121). -/
def tileBytes (diag : Nat) : Nat := if diag = 0 then 32768 else 128 * 2 ^ (diag - 1)

/-- Whether a role lets an instruction read, or write (R147, R152). -/
def roleReads (r : Nat) : Bool := r != roleWrite
def roleWrites (r : Nat) : Bool := r == roleWrite || r == roleUpdate

/-- The accesses of one slot's tile for a pass: its plane's segments; through a prologue every plane's, position by position, transposed tiles by their stored positions,
whole planes under a gather, whose list is data, and whole rows for split-equivalent SOFTMAX (R93, R109, R147, R150). -/
def passAccess (img : List Byte) (h : QHdr) (s : SlotSrc) (g : Option (Nat × Bool)) (b : Nat) : List Access :=
  let d := tdecl img (qbind img h s.binding).1
  let cb := slotChanBlock img g b
  let at_ := fun (p pos lo hi : Nat) => ({ bind := s.binding, lo := p * d.storePlane + pos * d.ps + lo, len := hi - lo, write := false } : Access)
  let lo := min (ceilDiv (d.channels * d.digitBits) 8) (cb * 128)
  let hi := min (ceilDiv (d.channels * d.digitBits) 8) (cb * 128 + 128)
  match slotChain img h s with
  | none => if hi ≤ lo then [] else (slotPositions img s g b).map (fun j => at_ s.plane j lo hi)
  | some c =>
    if c.gather then (List.range d.planes).map (fun p => { bind := s.binding, lo := p * d.storePlane, len := d.storePlane, write := false })
    else if c.transpose then
      let runs := match g with
        | some (_, true) => (slotPositions img s g b).map (fun j => (j, 1))
        | _ => [(s.p0, s.p + 1)]
      (List.range d.planes).flatMap (fun p => (List.range (min 256 (d.positions - 256 * cb))).flatMap (fun k =>
        runs.map (fun r => at_ p (256 * cb + k) (r.1 * d.digitBits / 8) (ceilDiv ((r.1 + r.2) * d.digitBits) 8))))
    else
      let whole := c.splitEq && c.norm == 1
      if hi ≤ lo ∧ whole = false then []
      else (List.range d.planes).flatMap (fun p => (slotPositions img s g b).map (fun j =>
        if whole then at_ p j 0 (ceilDiv (d.channels * d.digitBits) 8) else at_ p j lo hi))

/-- The column base and width of a FLUSH (R114, R150). -/
def colTile (checksum : Bool) (t : Nat) : Nat × Nat := if checksum then (255 * t, 255) else (256 * t, 256)

/-- The bytes a FLUSH writes into its output: each position's columns in each plane it writes, straight or depth-to-space (R54, R120, R150). -/
def flushAccess (img : List Byte) (c : ChainD) (g : Option (Nat × Bool)) (d : TDecl) (out : Nat) (s : SlotSrc) (base width : Nat) : List Access :=
  let n := tileCols c d base width
  let w := d.written
  (List.range (s.p + 1)).flatMap (fun j => (outRuns img g c d (s.p0 + j) base n).flatMap (fun r =>
    (List.range w.planes).map (fun p =>
      let lo := r.2.1 * w.digitBits / 8
      { bind := out, lo := p * d.storePlane + r.1 * d.ps + lo, len := ceilDiv ((r.2.1 + r.2.2.2) * w.digitBits) 8 - lo, write := true })))

/-- Allowed MOD bits of a LOP; none for a reserved LOP (R151). -/
def lopMod (lop : Nat) : Option Nat :=
  if lop ≤ 0x03 then some 1
  else if 0x08 ≤ lop ∧ lop ≤ 0x0C then some 1
  else if 0x10 ≤ lop ∧ lop ≤ 0x12 then some 0
  else if 0x13 ≤ lop ∧ lop ≤ 0x15 then some 2
  else if lop = 0x18 ∨ lop = 0x19 then some 0
  else if lop = 0x1A ∨ lop = 0x1B then some 1
  else if lop = 0x20 ∨ lop = 0x21 ∨ (0x28 ≤ lop ∧ lop ≤ 0x2A) then some 0
  else if lop = 0x30 ∨ lop = 0x31 then some 1
  else if 0x38 ≤ lop ∧ lop ≤ 0x3C then some 0
  else if 0x40 ≤ lop ∧ lop ≤ 0x43 then some 0
  else if lop = 0x48 ∨ lop = 0x49 then some 0
  else none

/-- Whether a LOP reaches the core store (R152). -/
def lopMem (lop : Nat) : Bool := lop == 0x31 || (decide (0x38 ≤ lop) && decide (lop ≤ 0x3B)) || (decide (0x40 ≤ lop) && decide (lop ≤ 0x43))
/-- Whether it reads the store, and whether it writes it. -/
def lopReads (lop : Nat) : Bool := lop == 0x31 || lop == 0x38 || lop == 0x3A || lop == 0x40 || lop == 0x41 || lop == 0x43
def lopWrites (lop : Nat) : Bool := lop == 0x31 || lop == 0x39 || lop == 0x3B || lop == 0x41 || lop == 0x42

/-- Bytes of a lane access from OFFSET (R518). -/
def laneExtent (d : TDecl) (lop cnt : Nat) : Nat :=
  if lop = 0x38 ∨ lop = 0x39 then 128
  else if lop = 0x31 then 4 * cnt
  else if lop = 0x3A ∨ lop = 0x3B then 1
  else ceilDiv (cnt * d.digitBits) 8

/-- A use of entries of a side vector noted (R92, R100): `len` of them belong to the update, `n` are read and, in an update, written. -/
def Walk.sideUse (w : Walk) (img : List Byte) (h : QHdr) (cn b lo len n : Nat) (first update : Bool) : Walk :=
  let tr := qbind img h b
  let bad := decide (h.nBind ≤ b) || (update && !(tr.2 == roleUpdate)) || !roleReads tr.2 || decide ((tdecl img tr.1).planeBytes < 16 * (lo + n))
  { (w.fail bad) with
    sides := w.sides ++ [{ tid := tr.1, lo, len, first, chain := cn, update }],
    acc := w.acc ++ [{ bind := b, lo := 16 * lo, len := 16 * n, write := false }] ++
      (if update then [{ bind := b, lo := 16 * lo, len := 16 * n, write := true }] else []) }

/-- The entries a FLUSH's chain updates for one slot: of the slot's positions, and of the tile's columns (R92, R100, R105). -/
def Walk.flushSides (w : Walk) (img : List Byte) (h : QHdr) (cn : Nat) (s : SlotSrc) (d : TDecl) (base width : Nat) : Walk :=
  let c := chainD img cn
  let w := if c.epiRow ≠ 0 then w.sideUse img h cn c.bEpiSide s.p0 (s.p + 1) (s.p + 1) c.rowFirst true else w
  if c.epiCol ≠ 0 then w.sideUse img h cn c.bEpiSide base width (tileCols c d base width) c.colFirst true else w

/-- The entries a slot's prologue reads with the positions of its tile for a block; under a gather they are the list's, known at run time (R105, R152). -/
def Walk.proSides (w : Walk) (img : List Byte) (h : QHdr) (s : SlotSrc) (g : Option (Nat × Bool)) (b : Nat) : Walk :=
  match slotChain img h s with
  | none => w
  | some c =>
    if c.norm = 0 ∨ c.gather then w
    else
      let l := slotPositions img s g b
      let size := (tdecl img (qbind img h c.bProSide).1).planeBytes
      { (w.fail (l.any (fun j => decide (size < 16 * (j + 1))))) with
        acc := w.acc ++ (l.map (fun j => ({ bind := c.bProSide, lo := 16 * j, len := 16, write := false } : Access))).filter (fun a => !w.acc.contains a) }

/-- The checks of a lane instruction (R151, R152). -/
def Walk.lane (w : Walk) (img : List Byte) (h : QHdr) (i : Nat) : Walk :=
  let lop := iLop i
  let b := bitsOf i 29 8
  let md := bitsOf i 24 5
  let ofs := 8 * bitsOf i 0 24
  let w := match lopMod lop with
    | none => w.fail true
    | some m => w.fail (decide ((md ||| m) ≠ m))
  if lopMem lop then
    let tr := qbind img h b
    let d := tdecl img tr.1
    let mid := lop == 0x40 || lop == 0x41
    let n := laneExtent (if mid then d.written else d) lop w.cnt
    let whole := lop == 0x3A || lop == 0x3B
    let w := w.fail (b == 0xFF || decide (h.nBind ≤ b) || (lopReads lop && !roleReads tr.2) || (lopWrites lop && !roleWrites tr.2) ||
      decide (d.storePlane < ofs + n))
    let lo := if whole then 0 else ofs
    let n := if whole then d.storePlane else n
    let planes := fun (write : Bool) => if lop < 0x40 then 1 else if mid && !write then d.written.planes else d.planes
    let accs := fun (write : Bool) => (List.range (planes write)).map (fun p => ({ bind := b, lo := p * d.storePlane + lo, len := n, write } : Access))
    { w with acc := w.acc ++ (if lopReads lop then accs false else []) ++ (if lopWrites lop then accs true else []) }
  else
    let w := w.fail (b != 0xFF)
    if lop = 0x48 then { w with cnt := bitsOf i 0 24 } else w

/-- Whether a slot's tile reaches positions beyond its source's declaration, or beyond its geometry's output (R93, R115, R152). -/
def slotBeyond (img : List Byte) (h : QHdr) (s : SlotSrc) (g : Option (Nat × Bool)) : Bool :=
  let d := tdecl img (qbind img h s.binding).1
  let gath := match slotChain img h s with
    | some c => c.gather
    | none => false
  let ext := match slotChain img h s with
    | some c => if c.transpose then d.channels else d.positions
    | none => d.positions
  !gath && (match g with
    | some (gi, true) => decide ((geomD img gi).ho * (geomD img gi).wo < s.p0 + s.p + 1) || decide (ext < (geomD img gi).h * (geomD img gi).w)
    | _ => decide (ext < s.p0 + s.p + 1))

/-- Passes of one plane pair that an accumulation group admits (R38, R68). -/
def groupLimit (h : QHdr) : Nat := if h.checksum then 258 else if h.s2 then 128 else 256

/-- The pass of one slot in the walk: banks, plane pair, length of the group, position ranges (R38, R93, R114, R152); indices beyond the channels read as 0 and pass (assumption log 45).
DESIGN CHOICE (log 45): a PASS on a slot that no SLOT has set is refused. -/
def Walk.passSlot (w : Walk) (img : List Byte) (h : QHdr) (bank : Nat) (opening : Bool) (b sl : Nat) : Walk :=
  match tget none w.slots sl, w.weight with
  | some s, some t =>
    let d := tdecl img (qbind img h s.binding).1
    let g := tget none w.geoms sl
    let lev := (slotPlanes img h s - 1 - s.plane) + ((tdecl img (qbind img h t.binding).1).planes - 1 - t.plane)
    let mine := fun (o : OpenBank) => o.slot == sl && o.bank == bank
    let isOpen := w.banks.any mine
    let other := w.banks.any (fun o => mine o && !(o.p == s.plane && o.q == t.plane && o.lev == lev))
    let w := w.fail ((opening && isOpen) || (!opening && !isOpen) || (!opening && other) || slotBeyond img h s g)
    let w := if (d.form = 2) ≠ (h.s2 = true) ∨ h.s2 = true ∧ (slotChain img h s).isSome then { w with s2bad := true } else w
    let banks := if isOpen then w.banks.map (fun o => if mine o then { o with count := o.count + 1 } else o)
      else w.banks ++ [{ slot := sl, bank, p := s.plane, q := t.plane, lev, count := 1 }]
    let w := if banks.any (fun o => decide (groupLimit h < o.count)) || decide (groupLimit h ≤ b) then { w with long := true } else w
    ({ w with banks, acc := w.acc ++ passAccess img h s g b }).proSides img h s g b
  | _, _ => w.fail true

/-- The flush of one slot in the walk (R36, R38, R150, R152).
DESIGN CHOICE (log 45): a FLUSH with CONVERT on a slot that no SLOT has set, which gives it no positions, is refused. -/
def Walk.flushSlot (w : Walk) (img : List Byte) (h : QHdr) (i sl : Nat) : Walk :=
  let bank := bitsOf i 55 1
  let set := bitsOf i 26 1
  let mine := w.banks.filter (fun o => o.slot == sl && o.bank == bank)
  let w := w.fail (mine.any (fun o => o.lev != bitsOf i 52 3))
  let w := mine.foldl (fun w o =>
    let key := fun (e : Nat × Nat × Nat × Nat × Nat) => e.1 == sl && e.2.1 == set && e.2.2.1 == o.p && e.2.2.2.1 == o.q
    let k := o.count + ((w.groups.filter key).map (fun e => e.2.2.2.2)).sum
    { w with groups := w.groups.filter (fun e => !key e) ++ [(sl, set, o.p, o.q, k)], long := w.long || decide (groupLimit h < k) }) w
  let w := { w with banks := w.banks.filter (fun o => !(o.slot == sl && o.bank == bank)) }
  if !bitOf i 51 then w
  else
    let w := { w with groups := w.groups.filter (fun e => !(e.1 == sl && e.2.1 == set)) }
    match tget none w.slots sl with
    | none => w.fail true
    | some s =>
      let cn := h.chainBase + bitsOf i 43 8
      let c := chainD img cn
      let out := bitsOf i 35 8
      let tr := qbind img h out
      let d := tdecl img tr.1
      let ct := colTile h.checksum (bitsOf i 27 8)
      let g := tget none w.geoms sl
      let w := w.flushSides img h cn s d ct.1 ct.2
      let w := match slotChain img h s with
        | some p => if p.norm ≠ 0 ∧ p.splitEq = false then { w with norms := w.norms ++ [(cn, p.norm, h.sweep, d.channels)] } else w
        | none => w
      let w := if h.sweep then
          ({ w.fail (slotBeyond img h s g) with acc := w.acc ++ passAccess img h s g (bitsOf i 27 8) }).proSides img h s g (bitsOf i 27 8)
        else w
      let w := if c.gutter then w.fail (decide (h.nBind ≤ c.bGutter) || !roleWrites (qbind img h c.bGutter).2) else w
      if c.epiWrite then
        let f := c.d2s
        { (w.fail (!roleWrites tr.2 || decide (d.channels * f * f ≤ ct.1) || decide (d.positions < (s.p0 + s.p + 1) * f * f))) with
          acc := w.acc ++ flushAccess img c g d out s ct.1 ct.2 }
      else w

/-- One instruction of the walk (R149, R152). -/
def walkStep (img : List Byte) (h : QHdr) (w : Walk) (i : Nat) : Walk :=
  let w := w.fail w.ended
  match iClass i with
  | 0 =>
    let w := w.fail (decide (3 < iOp i) || decide (bitsOf i 32 24 ≠ 0) || (decide (iOp i ≠ 3) && decide (bitsOf i 0 32 ≠ 0)))
    if iOp i = 1 then { (w.fail (!w.banks.isEmpty)) with ended := true } else w
  | 1 =>
    let gi := bitsOf i 44 12
    let w := w.fail (decide (bitsOf i 0 43 ≠ 0) || decide (fGeoms img ≤ gi))
    { w with
      geoms := ((List.range 4).filter (fun k => bitOf i (56 + k))).foldl
        (fun t k => tput none t k (some (gi, bitOf i 43))) w.geoms }
  | 2 =>
    let b := bitsOf i 52 8
    let tr := qbind img h b
    let d := tdecl img tr.1
    let diag := bitsOf i 47 3
    let s2 := bitOf i 46
    let lo := 64 * bitsOf i 0 24
    let w := w.fail (decide (bitsOf i 24 22 ≠ 0) || decide (5 < diag) || decide (h.nBind ≤ b) || !roleReads tr.2 ||
      decide (d.planes ≤ bitsOf i 50 2) || decide (d.storePlane < lo + tileBytes diag))
    let w := if s2 ≠ h.s2 ∨ (d.form = 2) ≠ (h.s2 = true) ∨ s2 = true ∧ diag ≠ 0 then { w with s2bad := true } else w
    { w with
             diagCheck := w.diagCheck || (h.checksum && diag != 0),
             loads := w.loads ++ [{ binding := b, plane := bitsOf i 50 2, diag, s2, offset := bitsOf i 0 24, loaded := true }],
             acc := w.acc ++ [{ bind := b, lo := bitsOf i 50 2 * d.storePlane + lo, len := tileBytes diag, write := false }] }
  | 3 =>
    let s : SlotSrc := { binding := bitsOf i 50 8, plane := bitsOf i 48 2, p := bitsOf i 42 6, chain := bitsOf i 34 8, p0 := bitsOf i 0 32 }
    let tr := qbind img h s.binding
    let w := w.fail (decide (bitsOf i 32 2 ≠ 0) || decide (h.nBind ≤ s.binding) || !roleReads tr.2 ||
      (decide (s.chain ≠ 0xFF) && decide (fChains img ≤ h.chainBase + s.chain)) || decide (slotPlanes img h s ≤ s.plane))
    let w := match slotChain img h s with
      | some c =>
        let g := qbind img h c.bGather
        let w := w.fail (c.gather && (decide (h.nBind ≤ c.bGather) || !roleReads g.2 || decide ((tdecl img g.1).planeBytes < 4 * (s.p0 + s.p + 1))))
        let w := if c.gather then { w with acc := w.acc ++ [({ bind := c.bGather, lo := 4 * s.p0, len := 4 * (s.p + 1), write := false } : Access)] } else w
        if c.norm = 0 then w else w.sideUse img h (h.chainBase + s.chain) c.bProSide 0 0 0 false false
      | none => w
    { w with slots := tput none w.slots (bitsOf i 58 2) (some s) }
  | 4 =>
    let w := w.fail (decide (bitsOf i 0 44 ≠ 0) || h.sweep)
    let w := if bitOf i 55 then
        match w.loads with
        | t :: ts => { w with weight := some t, loads := ts }
        | [] => w.fail true
      else w
    ((List.range 4).filter (fun k => bitOf i (56 + k))).foldl
      (fun w k => w.passSlot img h (bitsOf i 54 1) (bitOf i 53) (bitsOf i 44 9) k) w
  | 5 =>
    let w := w.fail (decide (bitsOf i 0 26 ≠ 0) || decide (6 < bitsOf i 52 3) || decide (fChains img ≤ h.chainBase + bitsOf i 43 8) ||
      decide (h.nBind ≤ bitsOf i 35 8))
    ((List.range 4).filter (fun k => bitOf i (56 + k))).foldl (fun w k => w.flushSlot img h i k) w
  | 6 => w.lane img h i
  | _ => w.fail true

/-- The walk of a whole quire. -/
def walkQuire (img : List Byte) (q : Nat) : Walk :=
  let h := qhdr img q
  let w := (List.range h.codeLen).foldl (fun w k => walkStep img h w (qinst img h k)) ({} : Walk)
  w.fail (!w.ended)

/-! ### DETAIL 0x04 to 0x0C -/

/-- A tensor declaration inside its ranges (R142). -/
def tensorOk (img : List Byte) (t : Nat) : Bool :=
  let d := tdecl img t
  decide (d.kind ≤ 6) && decide (d.form ≤ 2) && decide (d.comp ≤ 2) && decide (1 ≤ d.home) && decide (1 ≤ d.positions) &&
  decide (1 ≤ d.channels) && decide (d.channels ≤ 65536) && decide (d.ps % 8 = 0) &&
  (d.kind == 2 || d.kind == 5 || decide (ceilDiv (d.channels * d.digitBits) 8 ≤ d.ps)) &&
  decide (d.first ≤ d.last) && decide (d.last < fQuires img) && decide (d.scaleMode ≤ 2) && decide (d.eMin ≤ d.eMax) &&
  decide (d.eMax ≤ 31) && decide (d.eSeed ≤ 31) && (d.form == 1 || d.zeroOfs == 0) && (d.kind != 0 || d.dataOfs != 0) &&
  (d.depthOfs == 0 || (List.range (ceilDiv d.channels 16)).all (fun g =>
    decide (1 ≤ leAt img (d.depthOfs + g) 1) && decide (leAt img (d.depthOfs + g) 1 ≤ d.planes)))

/-- A quire header inside its ranges (R146, R147). -/
def quireOk (img : List Byte) (q : Nat) : Bool :=
  let h := qhdr img q
  decide (1 ≤ h.codeLen) && decide (h.codeLen ≤ 16384) && decide (1 ≤ h.nBind) && decide (h.nBind ≤ 64) &&
  (h.strip == 0xFF || decide (h.strip < fStrips img)) && decide (h.nPred ≤ 255) && decide (1 ≤ h.footprint) &&
  decide (h.footprint ≤ 33554432) && decide (h.nLive ≤ 1024) && decide (1 ≤ h.est) &&
  (h.chainBase == 0 || decide (h.chainBase < fChains img)) &&
  (qbinds img h).all (fun b => decide (b.1 < fTensors img) && decide (b.2 ≤ 2)) &&
  (qlive img h).all (fun t => decide (t < fTensors img))

/-- A bound on |num| of R106: y in the range of the long accumulator (R37) or of a sweep's elements, P and S those of PRO_NORM (R105), W_c a channel's constant, 1 in a sweep (R107). -/
def numBound (c : ChainD) (norm : Nat) (sweep : Bool) (r : ChanRec) : Nat :=
  let y := if sweep then 65535 else 2 ^ 47
  let p := if norm = 2 then 65536 else 1
  let s := if norm = 2 then 2 ^ 32 else 0
  let w := if sweep then 1 else r.w.natAbs
  (y * p + s * w) * r.g.natAbs * 2 ^ c.normA + r.b.natAbs * 2 ^ 32 * 2 ^ 47

/-- A chain's own rules (R92, R95, R98, R103, R106, R109, R141, R145). -/
def chainOk (img : List Byte) (norms : List (Nat × Nat × Bool × Nat)) (channels c : Nat) : Bool :=
  let d := chainD img c
  !(d.norm != 0 && (d.proAct != 0 || d.transpose)) && decide (d.proAct ≤ 4) &&
  (d.epiAct == 0 || d.epiAct == 3 || d.epiAct == 4) && decide (d.epiCol ≠ 3) &&
  (d.softmaxK == 0 || d.softmaxK == 4 || d.softmaxK == 8 || d.softmaxK == 12) &&
  (d.proAct != 3 || (decide (1 ≤ d.proLeaky) && decide (d.proLeaky ≤ 8))) &&
  (d.epiAct != 3 || (decide (1 ≤ d.epiLeaky) && decide (d.epiLeaky ≤ 8))) && decide (d.normA ≤ 31) &&
  (d.proAct != 4 || decide (d.proLut < fLuts img)) && (d.epiAct != 4 || decide (d.epiLut < fLuts img)) &&
  (d.norm != 1 || (d.proUnsigned && d.proPlanes == 4 - d.softmaxK / 4)) &&
  (List.range channels).all (fun k => decide ((chanRec img d k).s ≤ 47)) &&
  (norms.filter (fun e => e.1 == c)).all (fun e => (List.range e.2.2.2).all (fun k => decide (numBound d e.2.1 e.2.2.1 (chanRec img d k) < 2 ^ 127)))

/-- Whether a quire's slots apply LUT8 to more than 2 planes, or its flushes to groups deeper than 2, to a split-equivalent intermediate of more than 2 planes or to a measured-mode one (R92, R98, R109). -/
def lutDeep (img : List Byte) (q : Nat) : Bool :=
  let h := qhdr img q
  (List.range h.codeLen).any (fun k =>
    let i := qinst img h k
    if iClass i = 3 then
      decide (bitsOf i 34 8 ≠ 0xFF) && decide ((chainD img (h.chainBase + bitsOf i 34 8)).proAct = 4) &&
      decide (2 < (tdecl img (qbind img h (bitsOf i 50 8)).1).planes)
    else if iClass i = 5 ∧ bitOf i 51 then
      let d := tdecl img (qbind img h (bitsOf i 35 8)).1
      let c := chainD img (h.chainBase + bitsOf i 43 8)
      decide (c.epiAct = 4) &&
      (if d.measured then true else if c.splitEq then decide (2 < leAt img c.splitOfs 1)
       else (List.range (ceilDiv d.channels 16)).any (fun g => decide (2 < chanDepth img d (16 * g))))
    else false)

/-- Whether quire a comes before quire b in the dependency graph (R148), searched through at most `n` predecessors. -/
def ordered (img : List Byte) : Nat → Nat → Nat → Bool
  | 0, _, _ => false
  | n + 1, a, b => (qpreds img (qhdr img b)).any (fun p => p == a || (decide (a < p) && ordered img n a p))

/-- Whether a side vector has an entry open across the boundary after quire q (R92, R164). -/
def openAcross (sides : List (Nat × SideUse)) (t q : Nat) : Bool :=
  sides.any (fun u => u.2.tid == t && u.2.update && u.2.first && decide (u.1 ≤ q) &&
    sides.any (fun v => v.2.tid == t && v.2.update && decide (q < v.1) && meets u.2.lo u.2.len v.2.lo v.2.len))

/-- The rules of R92 and R109 over side vectors; the first chain that breaks one. -/
def sideRules (img : List Byte) (sides : List (Nat × SideUse)) : Option Nat :=
  (sides.find? (fun u =>
    let c := chainD img u.2.chain
    (sides.any (fun v => v.2.tid == u.2.tid && (chainD img v.2.chain).splitEq != c.splitEq)) ||
    (c.norm == 1 && !u.2.update && sides.any (fun v => v.2.tid == u.2.tid && v.2.update &&
      (chainD img v.2.chain).epiRow == 1 && (chainD img v.2.chain).softmaxK != c.softmaxK)) ||
    (u.2.update && sides.any (fun v => v.2.update && v.2.tid == u.2.tid && decide (u.1 < v.1) &&
      meets u.2.lo u.2.len v.2.lo v.2.len && !ordered img v.1 u.1 v.1)) ||
    (openAcross sides u.2.tid u.1 && (qbinds img (qhdr img u.1)).any (fun b => b.1 == u.2.tid) &&
      !(qlive img (qhdr img u.1)).contains u.2.tid))).map (fun u => u.2.chain)

/-- A geometry inside the limits of R113. -/
def geomOk (g : GeomD) : Bool :=
  let r := fun lo hi x => decide (lo ≤ x) && decide (x ≤ hi)
  r 1 15 g.kh && r 1 15 g.kw && r 1 8 g.sy && r 1 8 g.sx && r 1 8 g.dy && r 1 8 g.dx && r 0 15 g.py && r 0 15 g.px &&
  r 1 65535 g.h && r 1 65535 g.w && r 1 65535 g.ho && r 1 65535 g.wo && decide (g.kh * g.kw * g.nb ≤ 256)

/-- The live set R164 asks for after a quire. -/
def liveWanted (img : List Byte) (sides : List (Nat × SideUse)) (q t : Nat) : Bool :=
  let d := tdecl img t
  (qbinds img (qhdr img q)).any (fun b => b.1 == t) && !d.isConst && d.comp == 0 && d.kind != 5 && bitOf d.home 0 &&
  (decide (q < d.last) || (d.kind == 2 && openAcross sides t q))

/-- A role conflict of a quire (R147). -/
def roleConflict (img : List Byte) (q : Nat) (w : Walk) : Bool :=
  let bs := qbinds img (qhdr img q)
  let tid := fun (a : Access) => (bs.getD a.bind (0, 0)).1
  let role := fun (a : Access) => (bs.getD a.bind (0, 0)).2
  let reads := w.acc.filter (fun a => !a.write)
  let writes := w.acc.filter (fun a => a.write)
  writes.any (fun a =>
    if role a = roleWrite then reads.any (fun r => tid r == tid a && meets r.lo r.len a.lo a.len)
    else
      let rs := (reads.filter (fun r => r.bind == a.bind)).map (fun r => (r.lo, r.len))
      !covered (rs.length + 1) a.lo (a.lo + a.len) rs)

/-- Every check of R166 in its order: status, DETAIL and the offending index; none when the folio passes. -/
def folioCheck (img : List Byte) (devBit revId : Nat) : Option Ans :=
  let refuse := fun (det idx : Nat) => some ({ status := stFolioRefused, detail := det, c0 := idx } : Ans)
  match check01 img with
  | some i => refuse 1 i
  | none =>
    if !bitOf (leAt img 6 2) devBit || decide (leAt img 8 1 ≠ revId / 16) || decide (revId % 16 < leAt img 9 1) then
      some { status := stFolioFamily }
    else
      match check02 img with
      | some i => refuse 2 i
      | none =>
        let qs := List.range (fQuires img)
        let ws := qs.map (fun q => (q, walkQuire img q))
        let sides := ws.flatMap (fun e => e.2.sides.map (fun u => (e.1, u)))
        let fc := flushChannels img
        let norms := (ws.flatMap (fun e => e.2.norms)).eraseDups
        let chains := List.range (fChains img)
        match ws.find? (fun e => e.2.bad) with
        | some e => refuse 3 e.1
        | none =>
        match (List.range (fTensors img)).find? (fun t => !tensorOk img t) with
        | some t => refuse 4 t
        | none =>
        match qs.find? (fun q => !quireOk img q) with
        | some q => refuse 4 q
        | none =>
        match qs.find? (fun q => decide (11200 < (qhdr img q).est)) with
        | some q => refuse 5 q
        | none =>
        match qs.find? (fun q => (qpreds img (qhdr img q)).any (fun p => decide (q ≤ p))) with
        | some q => refuse 6 q
        | none =>
        match (List.range (fTensors img)).find? (fun t => (tdecl img t).form == 2 && (tdecl img t).planes != 1) with
        | some t => refuse 7 t
        | none =>
        match ws.find? (fun e => e.2.s2bad || ((qhdr img e.1).s2 && (qhdr img e.1).checksum)) with
        | some e => refuse 7 e.1
        | none =>
        match ws.find? (fun e => e.2.long) with
        | some e => refuse 8 e.1
        | none =>
        match chains.find? (fun c => !chainOk img norms (chainChannels fc c) c) with
        | some c => refuse 9 c
        | none =>
        match qs.find? (lutDeep img) with
        | some q => refuse 9 q
        | none =>
        match sideRules img sides with
        | some c => refuse 9 c
        | none =>
        if (List.range (fGeoms img)).any (fun g => !geomOk (geomD img g)) then refuse 0x0A 0
        else
        match ws.find? (fun e => e.2.diagCheck) with
        | some e => refuse 0x0A e.1
        | none =>
        match qs.find? (fun q => (List.range (fTensors img)).any (fun t =>
            liveWanted img sides q t != (qlive img (qhdr img q)).contains t)) with
        | some q => refuse 0x0B q
        | none =>
        match ws.find? (fun e => roleConflict img e.1 e.2) with
        | some e => refuse 0x0C e.1
        | none => none

end Sys2Proof.Machine
end

