-- ==== Sys2Proof/Machine/PartitionBody.lean ====
section
/-! DEFINITION. Partitions: creating, resizing, ending and freeing them (R169 to R173, R319, R353), capacity leaving them (R192), and ACCOUNT_READ, FOLIO_UNLOAD and PIPELINE_DESTROY (R320). -/

namespace Sys2Proof.Machine

/-! ### The fields of PARTITION_CREATE and PARTITION_RESIZE (R169, R319, R517) -/

/-- The parameters a packet asks for, put over a partition record. -/
def partFields (pk : Packet) (q : Part) : Part :=
  { q with coresMin := pkF pk 17 1, coresMax := pkF pk 18 1, fourArray := bitOf (pkF pk 19 1) 0,
           policy := bitsOf (pkF pk 19 1) 1 2, share := pkF pk 20 1, preemptLevel := dflt (pkF pk 21 1) 3,
           subclients := pkF pk 22 2, cellar := pkF pk 24 2, dram := pkF pk 26 2, dramRate := pkF pk 28 2,
           fabricRate := pkF pk 30 2, burst := dflt (pkF pk 32 2) 64, syncCount := pkF pk 34 2,
           bins := (List.range 8).map (fun i => pkF pk (36 + 2 * i) 2) }

/-- The ranges of R169 and R319, in byte order. -/
def partChecks (pk : Packet) : Option Ans :=
  let q := partFields pk {}
  fieldCheck [
    (16, decide (1 ≤ pkF pk 16 1 ∧ pkF pk 16 1 ≤ 8)),
    (17, decide (q.coresMin ≤ 8)),
    (18, decide (max 1 q.coresMin ≤ q.coresMax ∧ q.coresMax ≤ 8)),
    (19, decide (pkF pk 19 1 < 8 ∧ q.policy ≤ 2)),
    (20, decide (1 ≤ q.share ∧ q.share ≤ 15)),
    (21, decide (2 ≤ q.preemptLevel ∧ q.preemptLevel ≤ 4)),
    (22, decide (q.subclients ≤ 4096)),
    (24, decide (q.cellar ≤ 64)),
    (26, decide (q.dram ≤ 1536)),
    (28, decide (q.dramRate ≤ 307)),
    (30, decide (q.fabricRate ≤ 1023)),
    (32, decide (4 ≤ q.burst ∧ q.burst ≤ 1024)),
    (34, decide (q.syncCount ≤ 7936))]

/-- A sum over the other partitions that exist, plus one for this one. -/
def State.sumWith (s : State) (p mine : Nat) (f : Part → Nat) : Nat :=
  mine + (((List.range 8).filter (fun i => i + 1 != p && decide ((s.partAt (i + 1)).st ≠ .free))).map
    (fun i => f (s.partAt (i + 1)))).sum

/-- Bytes of DRAM a partition takes with its save area (R170). -/
def partDram (q : Part) : Nat := 2 ^ 28 * q.dram + 2 ^ 25 * q.coresMax

/-- Bytes of a partition's bins (R319). -/
def partBins (q : Part) : Nat := ((List.range 8).map (fun i => q.bins.getD i 0 * binSize i)).sum

/-- The cases of R170 and R319 that refuse a create or a resize after its state has passed, in their order. -/
def State.partRefused (s : State) (p : Nat) (q : Part) (resize : Bool) : Option Ans :=
  let four := (s.coresIn.filter (fun n => (s.coreAt n).arrays == 4 && ((s.coreAt n).owner == 0 || (s.coreAt n).owner == p))).length
  let cellar := s.sumWith p q.cellar (·.cellar)
  if s.coresIn.length < s.sumWith p q.coresMin (·.coresMin) ∨ (q.fourArray ∧ four < q.coresMin) then
    some { status := stCoresUnavailable }
  else if tget 0 s.mgt.claims 3 = 4 ∧ 60 < cellar then some { status := stResourceHeld, detail := 0x0304 }
  else if 64 < cellar then some { status := stBudgetExceeded }
  else if s.dramBytes - 2 ^ 29 < s.sumWith p (partDram q) partDram then some { status := stBudgetExceeded }
  else if 4096 < s.sumWith p q.subclients (·.subclients) then some { status := stBudgetExceeded }
  else if 7936 < s.sumWith p q.syncCount (·.syncCount) then some { status := stBudgetExceeded }
  else if 2 ^ 28 * q.dram < partBins q then some { status := stBudgetExceeded }
  else if resize ∧ (2 ^ 20 * q.cellar < s.cellarUse p ∨ 2 ^ 28 * q.dram < s.dramUse p ∨ q.subclients < s.clientsUsed p) then
    some { status := stBudgetExceeded }
  else none

/-- The claim on the trace buffer follows the sum of CELLAR_BUDGET (R483). -/
def State.claimCellar (s : State) (p : Nat) : State :=
  let sum := s.sumWith 0 0 (·.cellar)
  let h := tget 0 s.mgt.claims 3
  let h' := if 60 < sum then (if h = 0 then 0x10 + p else h) else if 0x10 < h then 0 else h
  { s with mgt := { s.mgt with claims := tput 0 s.mgt.claims 3 h' } }

/-- The sync counters of a function set to 0 (R339, R345). -/
def State.clearSync (s : State) (f : Nat) : State :=
  { s with cp := { s.cp with sync := s.cp.sync.filter (fun e => e.1 / 8192 != f) } }

/-- PARTITION_CREATE (R169 to R171, R319). -/
def bodyPartitionCreate (s : State) (fl : Flight) : State :=
  let pk := fl.pk
  let p := pkF pk 16 1
  match partChecks pk with
  | some a => s.endPacket fl a
  | none =>
    if (s.partAt p).st ≠ .free then s.endWith fl stPartitionState
    else
      let q := { partFields pk {} with st := PartState.opened }
      match s.partRefused p q false with
      | some a => s.endPacket fl a
      | none =>
        let chunks := s.pickChunks q.dram
        let save := s.pickSave q.coresMax chunks
        let s := s.setPart p (fun _ => { q with chunks, save })
        let s := (s.clearSync p).claimCellar p
        let s := { s with cel := { s.cel with acct := s.cel.acct.filter (fun e => e.1 / 16 != p) } }
        let s := ((s.ownable p).take q.coresMin).foldl (fun s n => s.ownCore p n) s
        s.endWith fl stOk

/-! ### Cores that leave a partition (R191, R192) -/

/-- Tensors of a partition homed in a core store that must be racked before the core leaves: non-constant ones (R187, R192). -/
def State.toRack (s : State) (p n : Nat) : List Nat :=
  (s.cel.tensors.filter (fun e => e.2.part == p && atCore n e.2.home && !s.copies e.2 && !e.2.lost)).map (·.1)

/-- A core that a partition owns and nobody uses, held by it again while it holds fewer than CORES_MAX (R171). -/
def State.holdOwned (s : State) (p : Nat) : State :=
  ((s.coresOwned p).filter (fun n => (s.coreAt n).user == 0)).foldl (fun s n =>
    if (s.coresHeld p).length < (s.partAt p).coresMax then s.setCore n (fun c => { c with user := p }) else s) s

/-- A core has left its partition: its clear state and its holder, the owner or none (R171, R192). -/
def State.coreLeft (s : State) (n : Nat) : State :=
  let u := (s.coreAt n).user
  (s.setCore n (fun c => { c.clear with preempt := none, user := if c.out then 0 else c.owner })).holdOwned u

/-- A core starts to leave partition p: queued quires return, moves into it stop, a LONG quire is abandoned, and it leaves at once when no quire runs and nothing is to be racked (R163, R177, R192). -/
def State.startLeave (s : State) (p n : Nat) : State :=
  let s := (s.returnQueue n).stopMoves (fun t h => t.part == p && atCore n h)
  let s := s.freeTensors (fun t => t.part == p && atCore n t.home && s.copies t)
  let s := if s.mayAbandon n then s.abandonQuire n else s
  let c := s.coreAt n
  if c.active.isNone ∧ c.done.isNone ∧ s.toRack p n = [] then s.coreLeft n
  else s.setCore n (fun c => { c with preempt := some {
    part := 0, run := 0, quire := 0,
    phase := match c.preempt with
      | some x => x.phase
      | none => if c.active.isNone ∧ c.done.isNone then 3 else 2,
    transfer := true, abandoned := false, victim := p } })

/-- A partition that owns fewer than CORES_MIN cores makes pool cores its own; borrowed cores leave while it holds CORES_MAX without them (R171, R195). -/
def State.refillCores (s : State) (p : Nat) : State :=
  let q := s.partAt p
  if q.st = .free then s
  else
    let need := q.coresMin - (s.coresOwned p).length
    let s := ((s.ownable p).take need).foldl (fun s n => s.ownCore p n) s
    let unheld := ((s.coresOwned p).filter (fun n => (s.coreAt n).user == 0)).length
    let extra := (((s.coresHeld p).filter (fun n => (s.coreAt n).owner != p && (s.coreAt n).preempt.isNone)).reverse).take unheld
    (extra.foldl (fun s n => s.startLeave p n) s).belowMinUpdate p

/-- Every partition refilled in increasing number (R195). -/
def State.refillAll (s : State) : State := (List.range 8).foldl (fun s i => s.refillCores (i + 1)) s

/-- Cores a partition holds beyond what a resize leaves it: first those it may no longer own, then borrowed ones (R191). -/
def State.resizeCores (s : State) (p : Nat) : State :=
  let q := s.partAt p
  let own := s.coresOwned p
  let bad := own.filter (fun n => q.fourArray && (s.coreAt n).arrays != 4)
  let keep := (s.ownOrder (own.filter (fun n => !bad.contains n))).take q.coresMin
  let drop := own.filter (fun n => !keep.contains n)
  let s := drop.foldl (fun s n => s.setCore n (fun c => { c with owner := 0 })) s
  let s := s.refillCores p
  let held := s.coresHeld p
  let lose := held.filter (fun n => drop.contains n && (s.coreAt n).owner != p)
  let rest := held.filter (fun n => !lose.contains n)
  let extra := ((rest.filter (fun n => (s.coreAt n).owner != p)).reverse).take (rest.length - q.coresMax)
  ((lose ++ extra).foldl (fun s n => s.startLeave p n) s).refillAll

/-- The fields a resize may not change (R319). -/
def resizeChecks (pk : Packet) (o : Part) : Option Ans :=
  let q := partFields pk o
  fieldCheck ([(22, decide (q.subclients = o.subclients)), (34, decide (q.syncCount = o.syncCount))] ++
    (List.range 8).map (fun i => (36 + 2 * i, decide (q.bins.getD i 0 = o.bins.getD i 0))))

/-- PARTITION_RESIZE (R169, R170, R192, R319): the reply waits for the cores that leave. -/
def bodyPartitionResize (s : State) (fl : Flight) : State :=
  let pk := fl.pk
  let p := pkF pk 16 1
  match partChecks pk with
  | some a => s.endPacket fl a
  | none =>
    let o := s.partAt p
    if o.st = .free ∨ o.st = .draining ∨ o.st = .resetting then s.endWith fl stPartitionState
    else
      let q := partFields pk o
      match resizeChecks pk o with
      | some a => s.endPacket fl a
      | none =>
        match s.partRefused p q true with
        | some a => s.endPacket fl a
        | none =>
          let used := fun (g : Nat) => (s.tensorRanges inDram).any (fun u => meets u.1 u.2 (2 ^ 25 * g) (2 ^ 25))
          let binG := (s.binBytes p + 2 ^ 25 - 1) / 2 ^ 25
          let spare := (((o.chunks.drop binG).filter (fun g => !used g)).reverse).take (o.chunks.length - 8 * q.dram)
          let chunks := (o.chunks.filter (fun g => !spare.contains g)) ++
            s.pickChunks (q.dram - (o.chunks.length + 7) / 8)
          let spareS := ((o.save.filter (fun g => !used g)).reverse).take (o.save.length - q.coresMax)
          let save := (o.save.filter (fun g => !spareS.contains g)) ++ s.pickSave (q.coresMax - o.save.length) chunks
          let s := (s.setPart p (fun _ => { q with chunks, save })).claimCellar p
          let s := (s.resizeCores p).belowMinUpdate p
          s.setWait fl (fun x => { x with wait := .cores p })

/-! ### Ending a partition's work (R172, R173, R353) -/

/-- A partition's streams, pages, reads, sessions, batches, crops and clips ended, and the units that served them released (R173). -/
def State.dropMedia (s : State) (p : Nat) : State :=
  let mine := (s.media.streams.filter (fun e => e.2.part == p))
  let ids := mine.map (·.1)
  let pages := (s.media.pages.filter (fun e => e.2.part == p)).map (·.1)
  let engines := mine.flatMap (fun e => e.2.pics.filterMap (fun x => match x.stage with
    | .dispatched n => some (e.2.cluster, n)
    | _ => none))
  let s := engines.foldl (fun s e => s.setCluster e.1 (fun c => { c with busy := c.busy &&& ~~~(BitVec.ofNat 10 (2 ^ e.2)) })) s
  let lanes := (s.media.pages.filter (fun e => e.2.part == p)).filterMap (fun e => e.2.lane)
  let units := (s.media.crops.filter (fun e => e.2.part == p)).flatMap (fun e => e.2.units)
  { s with
    media := { s.media with
      streams := s.media.streams.filter (fun e => e.2.part != p),
      batches := s.media.batches.filter (fun e => e.2.part != p),
      windows := s.media.windows.filter (fun w =>
        !(if w.page then s.media.sources.any (fun e => e.1 == w.obj && e.2.part == p) else ids.contains w.obj)),
      crops := s.media.crops.filter (fun e => e.2.part != p),
      clips := s.media.clips.filter (fun e => match e.2 with
        | some c => !ids.contains c.stream
        | none => true),
      enBusy := s.media.enBusy.filter (fun e => match e.2 with
        | some b => !ids.contains b.1
        | none => true),
      snapInput := if (tget none s.media.enBusy 2).any (fun b => ids.contains b.1) then none else s.media.snapInput,
      ppBusy := units.foldl (fun b u => b &&& ~~~(BitVec.ofNat 8 (2 ^ u))) s.media.ppBusy,
      sources := s.media.sources.filter (fun e => e.2.part != p),
      pages := s.media.pages.filter (fun e => e.2.part != p),
      pgBusy := lanes.foldl (fun b l => b &&& ~~~(BitVec.ofNat 4 (2 ^ l))) s.media.pgBusy },
    text := { s.text with
      reads := s.text.reads.filter (fun e => e.2.part != p && !pages.contains e.2.page),
      sessions := s.text.sessions.filter (fun e => e.2.part != p) } }

/-- Bytes of core stores that hold a partition's data (R173, R190). -/
def State.storeHeld (s : State) (p : Nat) : Nat :=
  ((s.cel.tensors.filter (fun e => e.2.part == p && inCore e.2.home)).map (fun e => e.2.bytes)).sum

/-- A partition's quires leave its cores with their effects undone, its moves stop, its runs end, and its tensors' homes are released, their core-store lines zeroed (R173 steps 2 to 4). -/
def State.dropRuns (s : State) (p : Nat) : State :=
  let s := (s.coresHeld p).foldl (fun s n =>
    (s.undoQuire n).setCore n (fun c => { c.clear with queue := [], second := none, active := none, done := none })) s
  let s := (s.chargeScrub p (s.storeHeld p)).freeTensors (fun t => t.part == p)
  let pools := s.cel.pools.foldl (fun t e => tput {} t e.1 { e.2 with granted := e.2.granted.filter (fun g => g.1 != p) }) s.cel.pools
  { s with cel := { s.cel with
      runs := s.cel.runs.filter (fun e => e.2.part != p),
      clients := s.cel.clients.filter (fun e => (e.2 - 1) % 16 != p),
      pools } }

/-- Every buffer a partition has or is the final owner of returns, and its VF leaves every owner list (R353). -/
def State.releaseBins (s : State) (p : Nat) : State :=
  let s := (s.cp.buf.filter (fun e => keyPart e.1 == p)).foldl (fun s e => s.returnBuf e.1) s
  s.cp.buf.foldl (fun s e =>
    match (s.bufAt e.1).hold with
    | .host owners final =>
      if final = p then s.returnBuf e.1
      else if owners.contains p then s.setBuf e.1 (fun b => { b with hold := .host (owners.filter (· != p)) final })
      else s
    | _ => s) s

/-- Folios and pipelines of a partition go (R173: OPEN with no folio loaded). -/
def State.dropFolios (s : State) (p : Nat) : State :=
  { s with cel := { s.cel with folios := s.cel.folios.filter (fun f => f.part != p) },
           media := { s.media with pipelines := s.media.pipelines.filter (fun x => x.part != p) } }

/-- Resident text tables of a partition go (R274). -/
def State.dropTables (s : State) (p : Nat) : State :=
  let keep := fun (e : Nat × Option TextTable) => match e.2 with
    | some t => t.part != p
    | none => true
  { s with text := { s.text with vocab := s.text.vocab.filter keep, grammar := s.text.grammar.filter keep } }

/-- Borrowed cores of a partition return to their owners or to the pool; lent ones that are idle come back (R173 step 6, R171). -/
def State.returnCores (s : State) (p : Nat) : State :=
  (List.range 8).foldl (fun s n =>
    let c := s.coreAt n
    if c.user = p then
      s.setCore n (fun c => { c with
        user := if c.out then 0 else c.owner,
        preempt := if c.preempt.any (fun x => x.part = 0) ∨ c.preempt.any (fun x => x.part = p) then none
          else c.preempt.map (fun x => { x with phase := 4 }) })
    else if c.preempt.any (fun x => x.part = p) then
      s.setCore n (fun c => { c with preempt := c.preempt.map (fun x => { x with part := 0 }) })
    else if c.owner = p ∧ c.active = none ∧ c.queue = [] ∧ c.done = none ∧ c.second = none then
      s.setCore n (fun c => { c with user := if c.out then 0 else p })
    else s) s

/-- The partition's bin region zeroed before its memory is given again (R353). -/
def State.scrubBins (s : State) (p : Nat) : State :=
  let n := s.binBytes p
  ((s.partAt p).chunks.zipIdx).foldl (fun s e =>
    let lo := 2 ^ 25 * e.2
    if lo < n then s.scrub (2 ^ 25 * e.1) (2 ^ 25 * e.1 + min (2 ^ 25) (n - lo)) else s) s

/-- A partition becomes FREE (R172): its work ends, its bins return, its region is scrubbed, and cores, budgets, save area and records go. -/
def State.freePart (s : State) (p : Nat) : State :=
  let s := ((s.dropMedia p).dropRuns p).releaseBins p
  let s := ((s.clearSync p).scrubBins p).returnCores p
  let s := (s.dropFolios p).dropTables p
  let s := (List.range 8).foldl (fun s n => s.setCore n (fun c =>
    if c.owner = p then { c with owner := 0, user := if c.user = p then 0 else c.user } else c)) s
  let s := s.setRes p (fun q => if q.enable then { q with stalled := [] } else { q with q := [], stalled := [] })
  let s := { s with cel := { s.cel with acct := s.cel.acct.filter (fun e => e.1 / 16 != p),
                                        tokens := s.cel.tokens.filter (fun e => e.1 / 32 != p) } }
  (s.setPart p (fun _ => {})).claimCellar p

/-- VALID cleared in every window of VFp and in every window of PF0 with OWNER p (R395). -/
def State.dropWins (s : State) (p : Nat) : State :=
  let pick := fun (e : Nat × BitVec 64) => e.1 / 256 == p || (e.1 / 256 == 0 && bitsOf e.2.toNat 57 4 == p)
  { s with hi := { s.hi with win := (s.hi.win.filter pick).foldl (fun t e => tput 0 t e.1 (e.2 &&& ~~~(BitVec.ofNat 64 (2 ^ 63)))) s.hi.win } }

/-- PARTITION_DESTROY (R172): the partition drains; a second destroy joins the first. -/
def bodyPartitionDestroy (s : State) (fl : Flight) : State :=
  let p := pkF fl.pk 16 1
  if ¬(1 ≤ p ∧ p ≤ 8) then s.endWith fl stBadField 16
  else
    let st := (s.partAt p).st
    if st = .free ∨ st = .resetting then s.endWith fl stPartitionState
    else ((s.dropWins p).setPart p (fun q => { q with st := .draining, drainFrom := s.cp.nextId })).setWait fl (fun x => { x with wait := .partFree p })

/-! ### FOLIO_UNLOAD, PIPELINE_DESTROY, ACCOUNT_READ (R320) -/

/-- A pipeline of a partition (R317). -/
def State.pipeAt (s : State) (p h : Nat) : Option Pipeline :=
  s.media.pipelines.find? (fun x => x.part == p && x.handle == h)

/-- Folios a pipeline names: its detector, and its re-identification folio or recogniser unless it has none (R321). -/
def Pipeline.folios (x : Pipeline) : List Nat :=
  x.detFolio :: (if !x.page ∧ x.secFolio = 0xFF then [] else [x.secFolio])

/-- FOLIO_UNLOAD. -/
def bodyFolioUnload (s : State) (fl : Flight) : State :=
  let p := fl.pk.fn.val
  let h := pkF fl.pk 16 1
  match s.folioAt p h with
  | none => s.endWith fl stBadHandle
  | some _ =>
    match s.media.pipelines.find? (fun x => x.part == p && x.folios.contains h) with
    | some x => s.endWith fl stObjectInUse x.handle
    | none =>
      let s := s.freeTensors (fun t => t.part == p && t.folio == h)
      let s := { s with cel := { s.cel with folios := s.cel.folios.filter (fun f => !(f.part == p && f.handle == h)) } }
      s.endWith fl stOk

/-- PIPELINE_DESTROY. -/
def bodyPipelineDestroy (s : State) (fl : Flight) : State :=
  let p := fl.pk.fn.val
  let h := pkF fl.pk 16 1
  match s.pipeAt p h with
  | none => s.endWith fl stBadHandle
  | some _ =>
    if s.media.streams.any (fun e => e.2.part == p && e.2.pipeline == h && decide (e.2.st ≠ .closed)) ||
       s.media.sources.any (fun e => e.2.part == p && e.2.pipeline == h) then s.endWith fl stObjectInUse 0xFFFF
    else
      let s := { s with media := { s.media with
        pipelines := s.media.pipelines.filter (fun x => !(x.part == p && x.handle == h)),
        batches := s.media.batches.filter (fun e => !(e.2.part == p && e.2.pipeline == h && e.2.run == 0)) } }
      s.endWith fl stOk

/-- ACCOUNT_READ: the 16 counters of the partition or of an object with a record, written as 128 bytes. -/
def bodyAccountRead (s : State) (fl : Flight) : State :=
  let pk := fl.pk
  let p := pk.fn.val
  let kind := pkF pk 16 1
  if 3 < kind then s.endWith fl stBadField 16
  else
    match (if kind = 0 then some p else s.clientOf p kind (pkF pk 20 4)) with
    | none => s.endWith fl stBadHandle
    | some r => s.dmaWrite fl (pkF pk 24 8) (s.acctBytes r)

end Sys2Proof.Machine
end

