-- ==== Sys2Proof/Machine/FolioLoad.lean ====
section
/-! DEFINITION. Loading from packs: the source and the pack's checks (R320, R446, R452), and FOLIO_LOAD (R166, R170, R317). -/

namespace Sys2Proof.Machine

/-- A pack key, 56 bytes; empty where none is enrolled (R435). -/
def State.packKey (s : State) (slot : Nat) : List Byte := tget [] s.mgt.keys slot

/-- A pack's checks up to its payload's own: the payload, or the status that ends the load (R452). -/
def State.packOpen (s : State) (kinds : List Nat) (b : List Byte) : Except Nat (List Byte) :=
  if !packHeaderOk kinds b then .error stPackFormat
  else
    let key := s.packKey (leAt b 7 1)
    if key.isEmpty then .error stKeySlot
    else
      let pl := packPayload b
      if lmsOk key (b.take 64) (sliceB b (packSigOfs b) (packSigLen b)) ∧ sha256 pl = sliceB b 16 32 then .ok pl
      else .error stSignatureBad

/-- Whether the trace port holds the Cask's pins (R446): the answer that names it. -/
def State.caskHeld (s : State) : Option Ans :=
  if tget 0 s.mgt.claims 1 = 4 then some { status := stResourceHeld, detail := 0x0104 } else none

/-- An entry of the Cask's directory (R451). -/
def State.caskEntry (s : State) (e : Nat) : Option CaskEntry := s.cask.media.bind (fun m => nget m.entries e)

/-- The bytes of a Cask entry of a kind, or the answer that ends the load (R446, R452). -/
def State.caskBytes (s : State) (kind e : Nat) : Except Ans (List Byte) :=
  if !s.cask.present then .error { status := stCaskAbsent }
  else match s.caskHeld with
    | some a => .error a
    | none =>
      match s.caskEntry e with
      | some x => if x.kind = kind then .ok x.bytes else .error { status := stPackFormat }
      | none => .error { status := stPackFormat }

/-- Bit of DEV_ID_MASK that stands for the device (R140). -/
def State.devBit (s : State) : Nat :=
  if s.dev.fuses.devId = 0x4D20 then 0 else if s.dev.fuses.devId = 0x4D1C then 1 else if s.dev.fuses.devId = 0x4D18 then 2 else 15

/-- The lowest handle below a limit that a test finds free (R317). -/
def lowestHandle (n : Nat) (used : Nat → Bool) : Option Nat := (List.range n).find? (fun i => !used i)

/-- Whether a folio exceeds what remains of its partition's budgets (R170). -/
def State.folioOver (s : State) (p : Nat) (img : List Byte) : Bool :=
  decide (2 ^ 28 * (s.partAt p).dram < s.dramUse p + s.reserved p 4 + img.length + onlyBytes img 4) ||
  decide (2 ^ 20 * (s.partAt p).cellar < s.cellarUse p + s.reserved p 2 + onlyBytes img 2)

/-- The masters of a folio's constants: their places in its image, which lies in DRAM from an address on (R175). -/
def masterTensors (p h addr : Nat) (img : List Byte) : List Tensor :=
  (List.range (fTensors img)).filterMap (fun t =>
    let d := tdecl img t
    if d.isConst then some {
      part := p, folio := h, run := 0, tid := t, inst := 0, bytes := d.homeBytes, ps := d.ps,
      planeBytes := d.storePlane, home := .dram, addr := addr + d.dataOfs, move := none, charge := 0, e := 0, lost := false, used := 0 }
    else none)

/-- A cellar copy of a SHARED constant, made from its master while the budget allows (R175; assumption log 67). -/
def State.shareCopy (s : State) (t : Tensor) : State :=
  let d := s.declOf t
  if bitOf d.hints 1 && bitOf d.home 1 then
    match s.cellarRoom t.part d.homeBytes false with
    | none => s
    | some b =>
      let k := s.cel.nextTensor
      (((s.regulate t .cellar b d.homeBytes).1).newTensor { t with move := some (.cellar, b) }).landMove k
  else s

/-- A folio that has passed its checks is loaded under the lowest free handle, if its partition's budgets hold it: its image is written to DRAM, where its constants have their masters (R170, R175, R317; assumption log 16). -/
def State.placeFolio (s : State) (fl : Flight) (img : List Byte) : State :=
  let p := fl.pk.fn.val
  if s.folioOver p img then s.endWith fl stBudgetExceeded
  else match lowestHandle 16 (fun h => (s.folioAt p h).isSome), s.dramPlace p img.length with
    | none, _ => s.endWith fl stHandleLimit
    | _, none => s.endWith fl stBudgetExceeded
    | some h, some a =>
      let s := { s with cel := { s.cel with folios := s.cel.folios ++ [({ part := p, handle := h, image := img, addr := a } : Folio)] } }
      let s := (masterTensors p h a img).foldl State.newTensor (s.writeOutside a img)
      let s := (masterTensors p h a img).foldl State.shareCopy s
      let s := s.setPart p (fun q => if q.st = .opened then { q with st := .running } else q)
      s.endPacket fl { status := stOk, c0 := h }

/-- A pack read for FOLIO_LOAD: opened, checked, and loaded (R166, R317). -/
def finishFolio (s : State) (fl : Flight) (data : List Byte) : State :=
  match s.packOpen [1] data with
  | .error st => s.endWith fl st
  | .ok img =>
    match folioCheck img s.devBit s.dev.fuses.revId with
    | some a => s.endPacket fl a
    | none => s.placeFolio fl img

/-- A pack fetched from its source: host memory, or a Cask entry (R320). -/
def State.packSource (s : State) (fl : Flight) (kind : Nat) (finish : State → Flight → List Byte → State) : State :=
  let pk := fl.pk
  if pkF pk 16 1 = 0 then
    if pkF pk 20 4 = 0 then finish s fl [] else s.dmaRead fl (pkF pk 24 8) (pkF pk 20 4) true []
  else match s.caskBytes kind (pkF pk 18 2) with
    | .error a => s.endPacket fl a
    | .ok b => finish s fl b

/-- FOLIO_LOAD (R320). -/
def bodyFolioLoad (s : State) (fl : Flight) : State :=
  let p := fl.pk.fn.val
  if 1 < pkF fl.pk 16 1 then s.endWith fl stBadField 16
  else if (lowestHandle 16 (fun h => (s.folioAt p h).isSome)).isNone then s.endWith fl stHandleLimit
  else s.packSource fl 1 finishFolio

end Sys2Proof.Machine
end

