-- ==== Sys2Proof/Machine/Firmware.lean ====
section
/-! DEFINITION. Firmware packages and slots (R434 to R440), the board record (R357, R422), and the defect list as it is stored (R468, R469). -/

namespace Sys2Proof.Machine

/-! ### Firmware packages (R436) -/

/-- Component entry i of a package: ID, OFFSET, LENGTH, SHA-256 (R436). -/
def pkgComp (b : List Byte) (i : Nat) : Nat × Nat × Nat × List Byte :=
  (leAt b (128 + 48 * i) 2, leAt b (132 + 48 * i) 4, leAt b (136 + 48 * i) 4, sliceB b (144 + 48 * i) 32)

/-- N_COMP of a package. -/
def pkgN (b : List Byte) : Nat := leAt b 0x0B 1

/-- The header and component table of a package: what its signature covers. -/
def pkgSigned (b : List Byte) : List Byte := sliceB b 0 (128 + 48 * pkgN b)

/-- The SVN of a package. -/
def pkgSvn (b : List Byte) : Nat := leAt b 7 1

/-- Whether a package's header and component table keep the format of R436, within the bytes it has. -/
def pkgFormatOk (b : List Byte) : Bool :=
  decide (128 ≤ b.length) && decide (leAt b 0 4 = 0x4B505746) && decide (leAt b 4 2 = 1) && decide (leAt b 6 1 ≤ 1) &&
  decide (pkgSvn b ≤ 64) && decide (1 ≤ pkgN b ∧ pkgN b ≤ 16) && decide (leAt b 0x0C 4 ≤ 24 * 2 ^ 20) &&
  decide (leAt b 0x0C 4 ≤ b.length) && decide (leAt b 0x1C 4 = 0) && decide (leAt b 0x58 40 = 0) &&
  decide (128 + 48 * pkgN b ≤ b.length) && decide (leAt b 0x14 4 + leAt b 0x18 4 ≤ b.length) &&
  (List.range (pkgN b)).all (fun i =>
    let c := pkgComp b i
    decide (1 ≤ c.1 ∧ c.1 ≤ 9) && decide (c.2.1 % 4096 = 0) && decide (c.2.1 + c.2.2.1 ≤ b.length) &&
    decide (leAt b (130 + 48 * i) 2 = 0) && decide (leAt b (140 + 48 * i) 4 = 0))

/-- Whether a public key is the root key it claims to be (R435). -/
def State.rootOk (s : State) (root : Nat) (key : List Byte) : Bool :=
  if root = 0 then !s.mgt.root0Revoked && decide (sha256 key = s.mgt.rootHash0)
  else decide (root = 1) && decide (sha256 key = s.mgt.rootHash1)

/-- Whether a package's signature verifies under its root (R434, R435). -/
def State.pkgSigOk (s : State) (b : List Byte) : Bool :=
  s.rootOk (leAt b 6 1) (sliceB b 0x20 56) && lmsOk (sliceB b 0x20 56) (pkgSigned b) (sliceB b (leAt b 0x14 4) (leAt b 0x18 4))

/-- Whether a component's bytes match its hash. -/
def pkgCompOk (b : List Byte) (i : Nat) : Bool :=
  let c := pkgComp b i
  decide (sha256 (sliceB b c.2.1 c.2.2.1) = c.2.2.2)

/-- The checks of STAGE, in R437's order: header, DEV_ID_MASK and REV_MAJOR, SVN, signature, component hashes. -/
def State.pkgCheck (s : State) (b : List Byte) : Nat :=
  if !pkgFormatOk b then stPackFormat
  else if !bitOf (leAt b 8 2) s.devBit ∨ leAt b 0x0A 1 ≠ s.dev.fuses.revId / 16 then stFolioFamily
  else if pkgSvn b < s.mgt.fuseSvn then stRollback
  else if !s.pkgSigOk b ∨ !(List.range (pkgN b)).all (pkgCompOk b) then stSignatureBad
  else stOk

/-- The bytes of a component of a package by its ID; empty where it has none. -/
def pkgBytes (b : List Byte) (id : Nat) : List Byte :=
  match (List.range (pkgN b)).find? (fun i => (pkgComp b i).1 == id) with
  | some i => sliceB b (pkgComp b i).2.1 (pkgComp b i).2.2.1
  | none => []

/-- Whether a slot's MP component verifies and its SVN is allowed (R438). -/
def State.mpVerifies (s : State) (w : FwSlot) : Bool :=
  pkgFormatOk w.image && s.pkgSigOk w.image && decide (s.mgt.fuseSvn ≤ w.svn) &&
  (match (List.range (pkgN w.image)).find? (fun i => (pkgComp w.image i).1 == 1) with
   | some i => pkgCompOk w.image i
   | none => false)

/-! ### Slots (R438) -/

/-- Slot k: 0 A, 1 B. -/
def State.slotAt (s : State) (k : Nat) : FwSlot := if k = 0 then s.mgt.slotA else s.mgt.slotB
/-- Slot k changed. -/
def State.setSlot (s : State) (k : Nat) (f : FwSlot → FwSlot) : State :=
  if k = 0 then { s with mgt := { s.mgt with slotA := f s.mgt.slotA } } else { s with mgt := { s.mgt with slotB := f s.mgt.slotB } }

/-- The slot in a state, A before B. -/
def State.slotIn (s : State) (st : SlotState) : Option Nat := [0, 1].find? (fun k => decide ((s.slotAt k).st = st))

/-- The slot the boot ROM chooses now, its TRIES incremented when it is PENDING (R438). -/
def State.chooseSlot (s : State) : State × Option Nat :=
  match [0, 1].find? (fun k => decide ((s.slotAt k).st = .pending) && decide ((s.slotAt k).tries < 2)) with
  | some k => (s.setSlot k (fun w => { w with tries := w.tries + 1 }), some k)
  | none =>
    match s.slotIn .active with
    | some k => (s, some k)
    | none => (s, s.slotIn .staged)

/-- Slots tried in R438's order: one that does not verify is BAD, and the next is tried. -/
def State.bootSlots : Nat → State → State × Option Nat
  | 0, s => (s, none)
  | n + 1, s =>
    match s.chooseSlot with
    | (s, none) => (s, none)
    | (s, some k) =>
      if s.mpVerifies (s.slotAt k) then (s, some k)
      else bootSlots n ((s.setSlot k (fun w => { w with st := .bad })).log logSlotFallback 1 0 k (s.slotAt k).svn)

/-- The boot ROM runs: a slot booted and the MP running, or recovery (R438). -/
def State.bootMp (s : State) : State :=
  let r := s.bootSlots 2
  { r.1 with mgt := { r.1.mgt with booted := r.2, mpState := if r.2.isSome then 1 else 2 } }

/-- The image of the booted slot. -/
def State.bootImage (s : State) : List Byte := ((s.mgt.booted).map (fun k => (s.slotAt k).image)).getD []

/-! ### The board record (R357, R422; its layout is the model's, assumption log 19) -/

/-- The record in force: empty where its CRC fails. -/
def State.boardRecord (s : State) : List Byte :=
  let b := s.mgt.board
  if 4 ≤ b.length ∧ crc32c (b.take (b.length - 4)) = leNat (b.drop (b.length - 4)) then b.take (b.length - 4) else []

/-- Fan control enabled by the board record (R483). -/
def State.fanControl (s : State) : Bool := bitOf (leAt s.boardRecord 4 1) 0

/-- A channel's entry: device width, density in Gb, ranks, refresh mode. -/
def State.boardEntry (s : State) (c : Nat) : Nat × Nat × Nat × Nat :=
  let r := sliceB s.boardRecord (8 + 8 * c) 8
  (leAt r 0 1, leAt r 1 1, leAt r 2 1, leAt r 3 1)

/-- Whether a channel's entry is empty (R357). -/
def State.entryEmpty (s : State) (c : Nat) : Bool := decide (leAt s.boardRecord (8 + 8 * c) 8 = 0)

/-- Whether an entry is a configuration of R356. -/
def memConfigOk (e : Nat × Nat × Nat × Nat) : Bool :=
  (e.1 == 16 || e.1 == 8 || e.1 == 4) && (e.2.1 == 8 || e.2.1 == 16) && (e.2.2.1 == 1 || e.2.2.1 == 2) &&
  !(e.1 == 4 && e.2.1 == 16 && e.2.2.1 == 2) && decide (e.2.2.2 ≤ 2)

/-- Capacity of a configuration in GiB (R356). -/
def memGib (e : Nat × Nat × Nat × Nat) : Nat := e.2.1 * (64 / e.1) * e.2.2.1 / 8

/-! ### The defect list (R468 to R471) -/

/-- A defect-list entry's bytes (R469). -/
def defectBytes (d : Nat × Nat × Nat × Nat × Nat × Nat) : List Byte :=
  let b := natLE 1 d.1 ++ natLE 1 d.2.1 ++ natLE 1 d.2.2.1 ++ natLE 1 d.2.2.2.1 ++ natLE 4 d.2.2.2.2.1 ++ natLE 4 d.2.2.2.2.2
  b ++ natLE 4 (crc32c b)

/-- The sort key of an entry: KIND, UNIT, SUB (R468). -/
def defectKey (d : Nat × Nat × Nat × Nat × Nat × Nat) : Nat := (d.1 * 256 + d.2.1) * 256 + d.2.2.1

/-- The list with an entry more, sorted, the earlier of two with one key kept (R468). -/
def defectAdd (l : List (Nat × Nat × Nat × Nat × Nat × Nat)) (d : Nat × Nat × Nat × Nat × Nat × Nat) :
    List (Nat × Nat × Nat × Nat × Nat × Nat) :=
  if l.any (fun x => defectKey x == defectKey d) then l
  else l.takeWhile (fun x => decide (defectKey x < defectKey d)) ++ d :: l.dropWhile (fun x => decide (defectKey x < defectKey d))

/-- Whether the list names a unit. -/
def State.defectUnit (s : State) (kind unit : Nat) : Bool := s.dev.defects.any (fun d => d.1 == kind && d.2.1 == unit)
/-- Whether the list names a part of a unit. -/
def State.defectSub (s : State) (kind unit sub : Nat) : Bool :=
  s.dev.defects.any (fun d => d.1 == kind && d.2.1 == unit && d.2.2.1 == sub)

/-- Whether an entry exceeds the grade's allowance: it takes out of service a unit that R2 names or counts; track processors and prep units are neither, and the page decoder goes with its last lane (R2, R471; assumption log 23). -/
def State.degradedNow (s : State) : Bool :=
  s.dev.defects.any (fun d => [1, 2, 3, 4, 8, 9, 10, 11].contains d.1) || (List.range 4).all (s.defectUnit 7)

end Sys2Proof.Machine
end

