-- ==== Sys2Proof/Machine/TextTables.lean ====
section
/-! DEFINITION. Text tables (R277 to R281, R284): UTF-8 characters, vocabulary and grammar images with their load checks, and the tokenizer (R289, R297, R298). -/

namespace Sys2Proof.Machine

/-! ### UTF-8 (RFC 3629, named by R289) -/

/-- Continuation bytes a lead byte asks for, with the range of the first of them; none for a byte that leads no character. -/
def utf8Lead (b : Nat) : Option (Nat × Nat × Nat) :=
  if b < 0x80 then some (0, 0, 0)
  else if b < 0xC2 then none
  else if b < 0xE0 then some (1, 0x80, 0xBF)
  else if b = 0xE0 then some (2, 0xA0, 0xBF)
  else if b = 0xED then some (2, 0x80, 0x9F)
  else if b < 0xF0 then some (2, 0x80, 0xBF)
  else if b = 0xF0 then some (3, 0x90, 0xBF)
  else if b < 0xF4 then some (3, 0x80, 0xBF)
  else if b = 0xF4 then some (3, 0x80, 0x8F)
  else none

/-- What stands at the front of a byte list (R289). -/
inductive Front where
  | none
  /-- a complete character of so many bytes. -/
  | whole (n : Nat)
  /-- a proper prefix of a character, the whole list. -/
  | part
  /-- an invalid sequence of so many bytes. -/
  | bad (n : Nat)
  deriving DecidableEq, Repr

/-- Leading bytes of a list that continue a character, the first within its own range. -/
def utf8Run (lo hi : Nat) : Nat → List Byte → Nat
  | 0, _ => 0
  | _ + 1, [] => 0
  | k + 1, b :: bs => if lo ≤ b.toNat ∧ b.toNat ≤ hi then 1 + utf8Run 0x80 0xBF k bs else 0

/-- The front of a byte list (R289). -/
def utf8Front : List Byte → Front
  | [] => .none
  | b :: bs =>
    match utf8Lead b.toNat with
    | .none => .bad 1
    | some (k, lo, hi) =>
      let m := utf8Run lo hi k bs
      if m = k then .whole (k + 1) else if bs.length = m then .part else .bad (m + 1)

/-- The code point of a complete character. -/
def codePoint : List Byte → Nat
  | [] => 0
  | b :: bs =>
    let n := bs.length
    bs.foldl (fun a c => a * 64 + c.toNat % 64) (if n = 0 then b.toNat else b.toNat % 2 ^ (6 - n))

/-- U+FFFD (R289). -/
def replacement : List Byte := [0xEF, 0xBF, 0xBD]

/-- Characters of a byte list: bytes and whether each is a replacement; what is left as a partial character; and the offset of
the invalid sequence that stopped the scan under REJECT (R289, R299). -/
def utf8Scan (reject : Bool) : Nat → Nat → List Byte → List (List Byte × Bool) × List Byte × Option Nat
  | 0, _, l => ([], l, none)
  | k + 1, pos, l =>
    match utf8Front l with
    | .none => ([], [], none)
    | .part => ([], l, none)
    | .whole n =>
      let r := utf8Scan reject k (pos + n) (l.drop n)
      ((l.take n, false) :: r.1, r.2)
    | .bad n =>
      if reject then ([], [], some pos)
      else
        let r := utf8Scan reject k (pos + n) (l.drop n)
        ((replacement, true) :: r.1, r.2)

/-- The offset of the first invalid or cut sequence of a byte list, when it is not valid UTF-8 (R284). -/
def utf8Invalid (l : List Byte) : Option Nat :=
  let r := utf8Scan true (l.length + 1) 0 l
  match r.2.2 with
  | some o => some o
  | none => if r.2.1.isEmpty then none else some (l.length - r.2.1.length)

/-! ### The vocabulary image (R277, R278) -/

def vTokens (v : List Byte) : Nat := leAt v 8 4
def vClasses (v : List Byte) : Nat := leAt v 0x0C 2
def vEos (v : List Byte) : Nat := leAt v 0x0E 2
def vMerges (v : List Byte) : Nat := leAt v 0x10 4
def vDigitGroup (v : List Byte) : Nat := leAt v 0x14 1
def vHash (v : List Byte) : Nat := leAt v 0x18 4
def vStrOfs (v : List Byte) : Nat := leAt v 0x1C 4
def vStrData (v : List Byte) : Nat := leAt v 0x20 4
def vClassOfs (v : List Byte) : Nat := leAt v 0x24 4
def vMergeOfs (v : List Byte) : Nat := leAt v 0x28 4
def vCpOfs (v : List Byte) : Nat := leAt v 0x2C 4
def vNcp (v : List Byte) : Nat := leAt v 0x30 4

/-- The string entry of token i: offset and length. -/
def vStrEntry (v : List Byte) (i : Nat) : Nat × Nat :=
  let e := leAt v (vStrOfs v + 4 * i) 4
  (bitsOf e 0 24, bitsOf e 24 8)

/-- The bytes of token i. -/
def vString (v : List Byte) (i : Nat) : List Byte :=
  let e := vStrEntry v i
  sliceB v (vStrData v + e.1) e.2

/-- The class of token i. -/
def vClass (v : List Byte) (i : Nat) : Nat := bitsOf (leAt v (vClassOfs v + 2 * i) 2) 0 12

/-- Merge i: left, right, result. -/
def vMerge (v : List Byte) (i : Nat) : Nat × Nat × Nat :=
  let o := vMergeOfs v + 8 * i
  (leAt v o 2, leAt v (o + 2) 2, leAt v (o + 4) 2)

/-- Range i: first code point and class 0 L, 1 N, 2 S, 3 P. -/
def vRange (v : List Byte) (i : Nat) : Nat × Nat :=
  let e := leAt v (vCpOfs v + 4 * i) 4
  (bitsOf e 0 21, bitsOf e 21 2)

/-- The class of a code point: that of the last range that starts at or below it (R278). -/
def vCpClass (v : List Byte) (cp : Nat) : Nat :=
  ((List.range (vNcp v)).foldl (fun c i => if (vRange v i).1 ≤ cp then (vRange v i).2 else c) 0)

/-- Whether a section lies inside an image on a 64-byte boundary (R277, R279). -/
def sectionOk (img : List Byte) (ofs n : Nat) : Bool :=
  decide (ofs % 64 = 0) && decide (64 ≤ ofs) && decide (ofs + n ≤ img.length)

/-- Whether bytes [lo, hi) of an image are 0. -/
def zeroBytes (img : List Byte) (lo hi : Nat) : Bool := (sliceB img lo (hi - lo)).all (fun b => b == 0)

/-- The checks of R281 for a vocabulary: DETAIL of the first that fails. -/
def vocabCheck (v : List Byte) : Option Nat :=
  let nt := vTokens v
  let ts := List.range nt
  let ms := List.range (vMerges v)
  let cs := List.range (vNcp v)
  ([(0x01, decide (64 ≤ v.length) && decide (leAt v 0 4 = 0x42434F56) && decide (leAt v 4 2 = 1) &&
      sectionOk v (vStrOfs v) (4 * nt) && sectionOk v (vStrData v) 0 && sectionOk v (vClassOfs v) (2 * nt) &&
      sectionOk v (vMergeOfs v) (8 * vMerges v) && sectionOk v (vCpOfs v) (4 * vNcp v)),
    (0x02, zeroBytes v 6 8 && zeroBytes v 0x15 0x18 && zeroBytes v 0x34 0x40 &&
      ts.all (fun i => decide (leAt v (vClassOfs v + 2 * i) 2 < 4096)) &&
      ms.all (fun i => decide (leAt v (vMergeOfs v + 8 * i + 6) 2 = 0)) &&
      cs.all (fun i => decide (leAt v (vCpOfs v + 4 * i) 4 < 2 ^ 23))),
    (0x03, decide (257 ≤ nt ∧ nt ≤ 65536) && decide (1 ≤ vClasses v ∧ vClasses v ≤ 4096) &&
      decide (256 ≤ vEos v ∧ vEos v < nt) && decide (vMerges v ≤ nt - 256) && decide (vDigitGroup v ≤ 8) &&
      decide (1 ≤ vNcp v ∧ vNcp v ≤ 4096) &&
      ts.all (fun i => decide ((vStrEntry v i).2 ≤ 64 ∧ vStrData v + (vStrEntry v i).1 + (vStrEntry v i).2 ≤ v.length)) &&
      ts.all (fun i => decide (vClass v i < vClasses v)) &&
      ms.all (fun i => decide ((vMerge v i).1 < nt ∧ (vMerge v i).2.1 < nt ∧ (vMerge v i).2.2 < nt))),
    (0x04, (List.range 256).all (fun i => decide (vString v i = [BitVec.ofNat 8 i])) &&
      decide ((vStrEntry v (vEos v)).2 = 0) && ts.all (fun i => i == vEos v || decide (vClass v i ≠ vClass v (vEos v))) &&
      ms.all (fun i => decide (vString v (vMerge v i).2.2 = vString v (vMerge v i).1 ++ vString v (vMerge v i).2.1)) &&
      ms.all (fun i => (List.range i).all (fun j => decide ((vMerge v j).2.2 ≠ (vMerge v i).2.2))) &&
      decide ((vRange v 0).1 = 0) && cs.all (fun i => i == 0 || decide ((vRange v (i - 1)).1 < (vRange v i).1))),
    (0x06, decide (leNat ((sha256 (sliceB v (vClassOfs v) (2 * nt))).take 4) = vHash v))].find? (fun e => !e.2)).map (·.1)

/-! ### The grammar image (R279, R280) -/

def gClasses (g : List Byte) : Nat := leAt g 6 2
def gStates (g : List Byte) : Nat := leAt g 8 4
def gMasks (g : List Byte) : Nat := leAt g 0x0C 4
def gHash (g : List Byte) : Nat := leAt g 0x10 4
def gStart (g : List Byte) : Nat := leAt g 0x14 2
def gStateOfs (g : List Byte) : Nat := leAt g 0x18 4
def gMaskOfs (g : List Byte) : Nat := leAt g 0x1C 4
def gTransOfs (g : List Byte) : Nat := leAt g 0x20 4
def gTrans (g : List Byte) : Nat := leAt g 0x24 4

/-- MB, the bytes of a mask (R279). -/
def gMaskBytes (g : List Byte) : Nat := 64 * ceilDiv (gClasses g) 512

/-- State entry i: MASK_INDEX, FIELD_ID, FIRST_TRANS, N_TRANS (R280). -/
structure GState where
  mask : Nat
  field : Nat
  first : Nat
  n : Nat
  deriving DecidableEq, Repr

/-- State i of a grammar (R280). -/
def gState (g : List Byte) (i : Nat) : GState :=
  let e := leAt g (gStateOfs g + 8 * i) 8
  { mask := bitsOf e 0 16, field := bitsOf e 16 8, first := bitsOf e 32 20, n := bitsOf e 52 12 + 1 }

/-- Transition i: class and next state. -/
def gTransAt (g : List Byte) (i : Nat) : Nat × Nat :=
  let e := leAt g (gTransOfs g + 4 * i) 4
  (bitsOf e 0 12, bitsOf e 12 16)

/-- Bit c of mask m (R280). -/
def gMaskBit (g : List Byte) (m c : Nat) : Bool := bitOf (leAt g (gMaskOfs g + m * gMaskBytes g + c / 8) 1) (c % 8)

/-- Classes of a state's transitions, in order. -/
def gStateClasses (g : List Byte) (i : Nat) : List Nat :=
  (List.range (gState g i).n).map (fun k => (gTransAt g ((gState g i).first + k)).1)

/-- The next state on a class, when there is a transition (R280). -/
def gNext (g : List Byte) (i c : Nat) : Option Nat :=
  ((List.range (gState g i).n).map (fun k => gTransAt g ((gState g i).first + k))).findSome? (fun (t : Nat × Nat) =>
    if t.1 = c then some t.2 else none)

/-- Whether a list of numbers is strictly increasing. -/
def strictInc : List Nat → Bool
  | a :: b :: t => decide (a < b) && strictInc (b :: t)
  | _ => true

/-- The checks of R281 for a grammar: DETAIL of the first that fails. -/
def grammarCheck (g : List Byte) : Option Nat :=
  let ss := List.range (gStates g)
  let ts := List.range (gTrans g)
  ([(0x01, decide (64 ≤ g.length) && decide (leAt g 0 4 = 0x524D5247) && decide (leAt g 4 2 = 1) &&
      sectionOk g (gStateOfs g) (8 * gStates g) && sectionOk g (gMaskOfs g) (gMaskBytes g * gMasks g) &&
      sectionOk g (gTransOfs g) (4 * gTrans g)),
    (0x02, zeroBytes g 0x16 0x18 && zeroBytes g 0x28 0x40 &&
      ss.all (fun i => decide (bitsOf (leAt g (gStateOfs g + 8 * i) 8) 24 8 = 0)) &&
      ts.all (fun i => decide (leAt g (gTransOfs g + 4 * i) 4 < 2 ^ 28))),
    (0x03, decide (1 ≤ gClasses g ∧ gClasses g ≤ 4096) && decide (1 ≤ gStates g ∧ gStates g ≤ 65536) &&
      decide (1 ≤ gMasks g ∧ gMasks g ≤ 16384) && decide (1 ≤ gTrans g ∧ gTrans g ≤ 1048576) && decide (gStart g < gStates g) &&
      ss.all (fun i => decide ((gState g i).mask < gMasks g ∧ (gState g i).first + (gState g i).n ≤ gTrans g)) &&
      ts.all (fun i => decide ((gTransAt g i).1 < gClasses g ∧ (gTransAt g i).2 < gStates g))),
    (0x05, ss.all (fun i => strictInc (gStateClasses g i) &&
      (List.range (8 * gMaskBytes g)).all (fun c => gMaskBit g (gState g i).mask c == (gStateClasses g i).contains c)))].find?
        (fun e => !e.2)).map (·.1)

/-- Whether a grammar does not fit a vocabulary (R284). -/
def tableMismatch (v g : List Byte) : Bool :=
  decide (gHash g ≠ vHash v) || decide (gClasses g ≠ vClasses v) ||
  (List.range (gStates g)).any (fun i =>
    !(gStateClasses g i).any (fun c => (List.range (vTokens v)).any (fun t => vClass v t == c)))

/-- Bytes of a table's working copy (R274). -/
def workingBytes (kind : Nat) (img : List Byte) : Nat :=
  if kind = 0 then img.length else 64 + 8 * gStates img + gMaskBytes img * gMasks img + 4 * gTrans img

/-- A size rounded up to a multiple of 4 KiB (R274). -/
def up4k (n : Nat) : Nat := 4096 * ((n + 4095) / 4096)

/-! ### Pre-tokens and byte-pair merges (R297, R298) -/

/-- The state of the split: pre-tokens ended, and the one in progress with its class (4 when none) and digits counted. -/
structure Split where
  done : List (List Byte)
  cur : List Byte
  cls : Nat
  digits : Nat
  deriving DecidableEq, Repr

/-- The pre-token in progress ended. -/
def Split.close (s : Split) : Split :=
  { done := if s.cur.isEmpty then s.done else s.done ++ [s.cur], cur := [], cls := 4, digits := 0 }

/-- The pre-token ended when it has reached 256 bytes, or a digit group is complete (R297). -/
def Split.cut (dg : Nat) (s : Split) : Split :=
  if 256 ≤ s.cur.length ∨ (s.cls = 1 ∧ dg ≠ 0 ∧ dg ≤ s.digits) then s.close else s

/-- One character of class c taken into the split (R297). -/
def Split.push (dg : Nat) (s : Split) (ch : List Byte) (c : Nat) : Split :=
  let isN := b2n (decide (c = 1))
  if s.cur ≠ [] ∧ s.cls = c then
    if 256 < s.cur.length + ch.length then Split.cut dg { s.close with cur := ch, cls := c, digits := isN }
    else Split.cut dg { s with cur := s.cur ++ ch, digits := s.digits + isN }
  else if s.cls = 2 ∧ s.cur.getLast? = some 0x20 then
    let t := { s with cur := s.cur.dropLast }.close
    Split.cut dg { t with cur := 0x20 :: ch, cls := c, digits := isN }
  else Split.cut dg { s.close with cur := ch, cls := c, digits := isN }

/-- The split of a list of characters, from a held pre-token (R297). -/
def splitText (v : List Byte) (chars : List (List Byte)) : Split :=
  chars.foldl (fun s ch => s.push (vDigitGroup v) ch (vCpClass v (codePoint ch))) { done := [], cur := [], cls := 4, digits := 0 }

/-- The rank and result of a merge of two tokens: the lowest rank that names the pair (R278). -/
def mergeOf (v : List Byte) (l r : Nat) : Option (Nat × Nat) :=
  (List.range (vMerges v)).findSome? (fun i =>
    if (vMerge v i).1 = l ∧ (vMerge v i).2.1 = r then some (i, (vMerge v i).2.2) else none)

/-- The best merge of a sequence: position, rank, result; the leftmost on equal ranks (R298). -/
def bestMerge (v : List Byte) (q : List Nat) : Option (Nat × Nat × Nat) :=
  (List.range (q.length - 1)).foldl (fun (b : Option (Nat × Nat × Nat)) i =>
    match mergeOf v (q.getD i 0) (q.getD (i + 1) 0) with
    | none => b
    | some (r, t) => match b with
      | none => some (i, r, t)
      | some (j, r', t') => if r < r' then some (i, r, t) else some (j, r', t')) none

/-- The merges of a sequence run to their end (R298). -/
def mergeAll (v : List Byte) : Nat → List Nat → List Nat
  | 0, q => q
  | k + 1, q =>
    match bestMerge v q with
    | none => q
    | some (i, _, t) => mergeAll v k (q.take i ++ t :: q.drop (i + 2))

/-- The tokens of a pre-token (R298). -/
def encodePre (v : List Byte) (b : List Byte) : List Nat := mergeAll v b.length (b.map (·.toNat))

end Sys2Proof.Machine
end

