-- ==== Sys2Proof/Machine/TextBody.lean ====
section
/-! DEFINITION. The text packets (R274 to R276, R295 to R299): TEXT_TABLE_LOAD and UNLOAD, TOKENIZE_OPEN, FEED and CLOSE. -/

namespace Sys2Proof.Machine

/-- Whether the Binder or its domain is out of service, so that text packets end UNAVAILABLE (R407, R442, R470). -/
def State.textDown (s : State) : Bool := !s.text.binderUp || !s.text.service || (s.domAt 29).switchedOff

/-- The tables of a kind: 0 vocabularies, 1 grammars. -/
def Text.tables (t : Text) (kind : Nat) : Tbl (Option TextTable) := if kind = 0 then t.vocab else t.grammar

/-- A table of a kind that a partition may name (R274). -/
def State.tableAt (s : State) (kind p h : Nat) : Option TextTable :=
  match tget none (s.text.tables kind) h with
  | some t => if t.part = p then some t else none
  | none => none

/-- A table slot of a kind written. -/
def State.putTable (s : State) (kind h : Nat) (t : Option TextTable) : State :=
  if kind = 0 then { s with text := { s.text with vocab := tput none s.text.vocab h t } }
  else { s with text := { s.text with grammar := tput none s.text.grammar h t } }

/-- The lowest free slot of a kind (R317). -/
def State.tableSlot (s : State) (kind : Nat) : Option Nat :=
  lowestHandle (if kind = 0 then 8 else 32) (fun h => (tget none (s.text.tables kind) h).isSome)

/-- The bytes a table's master copy is charged at (R274). -/
def State.masterBytes (s : State) (pk : Packet) : Nat :=
  if pkF pk 16 1 = 0 then up4k (pkF pk 20 4) else up4k (((s.caskEntry (pkF pk 18 2)).map (fun e => e.bytes.length)).getD 0)

/-- The bytes of a table's working copy: a vocabulary's image, or a grammar's header, states, masks and transitions one after another (R274; assumption log 16). -/
def workingCopy (kind : Nat) (img : List Byte) : List Byte :=
  if kind = 0 then img
  else sliceB img 0 64 ++ sliceB img (gStateOfs img) (8 * gStates img) ++ sliceB img (gMaskOfs img) (gMaskBytes img * gMasks img) ++
    sliceB img (gTransOfs img) (4 * gTrans img)

/-- A table that has passed its checks takes the lowest free slot, its working copy written to w bytes of the cellar store (R274, R276). -/
def State.placeTable (s : State) (fl : Flight) (kind : Nat) (img : List Byte) (w : Nat) : State :=
  match s.takeCellar fl.pk.fn.val w false with
  | (_, none) => s.endWith fl stBudgetExceeded
  | (s, some a) =>
    match s.tableSlot kind with
    | none => s.endWith fl stTableLimit
    | some h =>
      ((s.putTable kind h (some { part := fl.pk.fn.val, image := img, dram := s.masterBytes fl.pk, cellar := w, addr := a })).writeMem a
        (padTo w (workingCopy kind img))).endPacket fl { status := stOk, c0 := h }

/-- A table's own check, the DETAIL of the first failure (R276). -/
def tableCheck (kind : Nat) (img : List Byte) : Option Nat := if kind = 0 then vocabCheck img else grammarCheck img

/-- A table opened and checked (R276, R320). -/
def State.finishTableOf (s : State) (fl : Flight) (kind : Nat) (data : List Byte) : State :=
  match s.packOpen [2 + kind] data with
  | .error st => s.endWith fl st
  | .ok img =>
    match tableCheck kind img with
    | some d => s.endWith fl stTableRefused d
    | none => s.placeTable fl kind img (up4k (workingBytes kind img))

/-- A pack read for TEXT_TABLE_LOAD: steps 3 to 5 of R276, and the table resident. -/
def finishTable (s : State) (fl : Flight) (data : List Byte) : State := s.finishTableOf fl (pkF fl.pk 17 1) data

/-- TEXT_TABLE_LOAD (R275, R276, R320). -/
def bodyTextTableLoad (s : State) (fl : Flight) : State :=
  let pk := fl.pk
  let p := pk.fn.val
  if s.textDown then s.endWith fl stUnavailable
  else match fieldCheck [(16, decide (pkF pk 16 1 ≤ 1)), (17, decide (pkF pk 17 1 ≤ 1))] with
  | some a => s.endPacket fl a
  | none =>
    if (s.tableSlot (pkF pk 17 1)).isNone then s.endWith fl stTableLimit
    else if 2 ^ 28 * (s.partAt p).dram < s.dramUse p + s.reserved p 4 + s.masterBytes pk then s.endWith fl stBudgetExceeded
    else s.packSource fl (2 + pkF pk 17 1) finishTable

/-- Whether a pipeline or a session of a partition names a table (R276). -/
def State.tableUsed (s : State) (kind p h : Nat) : Bool :=
  s.media.pipelines.any (fun x => x.part == p && x.page && (if kind = 0 then x.vocab == h else x.grammar == h)) ||
  (kind == 0 && s.text.sessions.any (fun e => e.2.part == p && e.2.vocab == h))

/-- TEXT_TABLE_UNLOAD (R275, R276). -/
def bodyTextTableUnload (s : State) (fl : Flight) : State :=
  let p := fl.pk.fn.val
  let kind := pkF fl.pk 16 1
  let h := pkF fl.pk 17 1
  if s.textDown then s.endWith fl stUnavailable
  else if 1 < kind then s.endWith fl stBadField 16
  else if (s.tableAt kind p h).isNone then s.endWith fl stBadHandle
  else if s.tableUsed kind p h then s.endWith fl stTableInUse
  else (s.putTable kind h none).endWith fl stOk

/-! ### Tokenize sessions (R295 to R299) -/

/-- The session a TOKENIZE_OPEN describes, with its accounting record where it asks for one (R198, R295). -/
def State.addSession (s : State) (pk : Packet) : State :=
  let id := s.text.nextSession
  let r := if pkF pk 18 1 = 1 then s.takeClient pk.fn 3 id else (s, 0)
  { r.1 with text := { s.text with
    sessions := s.text.sessions ++ [(id, ({
      part := pk.fn, vocab := pkF pk 16 1, reject := decide (pkF pk 17 1 = 1),
      client := r.2, failed := false, held := [], partialChar := [], consumed := 0 } : Session))],
    nextSession := (id + 1) % 2 ^ 32 } }

/-- TOKENIZE_OPEN. Where no sub-client record is left the session opens without one (assumption log 17). -/
def bodyTokenizeOpen (s : State) (fl : Flight) : State :=
  let pk := fl.pk
  let p := pk.fn.val
  if s.textDown then s.endWith fl stUnavailable
  else match fieldCheck [(17, decide (pkF pk 17 1 ≤ 1)), (18, decide (pkF pk 18 1 ≤ 1))] with
  | some a => s.endPacket fl a
  | none =>
    if (s.tableAt 0 p (pkF pk 16 1)).isNone then s.endWith fl stBadHandle
    else if 64 ≤ s.text.sessions.length ∨ 16 ≤ (s.text.sessions.filter (fun e => e.2.part == p)).length then
      s.endWith fl stInflightLimit
    else
      (s.addSession pk).endPacket fl { status := stOk, c0 := s.text.nextSession }

/-- A session of a partition. -/
def State.sessionAt (s : State) (p id : Nat) : Option Session :=
  match nget s.text.sessions id with
  | some x => if x.part = p then some x else none
  | none => none

/-- What a closing packet waits on: a tokenize session. -/
def sessionKey (id : Nat) : Nat := 64 + 4 * id + 3

/-- Whether an earlier packet of the same session is in progress (R295, R312). -/
def State.sessionBusy (s : State) (fl : Flight) : Bool :=
  s.cp.flight.any (fun x => decide (x.id < fl.id) && decide (x.pk.fn = fl.pk.fn) &&
    (x.pk.opcode == 0x0504 || x.pk.opcode == 0x0505) &&
    pkF x.pk 16 4 == pkF fl.pk 16 4 && (match x.wait with
      | .dma => true
      | .drain _ => true
      | _ => false))

/-- What a FEED's bytes come to: the session after it, the tokens, the reply, and the replacements counted (R296 to R299). -/
def tokenizeFeed (v : List Byte) (x : Session) (data : List Byte) (fin : Bool) : Session × List Nat × Ans × Nat :=
  let head := x.held ++ x.partialChar
  let all := head ++ data
  let r := utf8Scan x.reject (all.length + 1) 0 all
  let bad := match r.2.2 with
    | some o => some o
    | none => if fin ∧ x.reject ∧ r.2.1 ≠ [] then some (all.length - r.2.1.length) else none
  let tail := fin && !r.2.1.isEmpty && !x.reject
  let chars := r.1 ++ (if tail then [(replacement, true)] else [])
  let sp := splitText v (chars.map (·.1))
  let repl := (chars.filter (·.2)).length
  let x' := { x with consumed := x.consumed + data.length }
  match bad with
  | some o =>
    let toks := sp.done.flatMap (encodePre v)
    ({ x' with failed := true, held := [], partialChar := [] }, toks,
      { status := stInvalidUtf8, c0 := toks.length, c1 := x.consumed + o - head.length }, repl)
  | none =>
    let held := if fin then [] else if sp.cur.isEmpty then sp.done.getLast?.getD [] else sp.cur
    let out := if fin then sp.close.done else if sp.cur.isEmpty then sp.done.dropLast else sp.done
    let part := if fin then [] else r.2.1
    let toks := out.flatMap (encodePre v)
    ({ x' with held, partialChar := part }, toks, { status := stOk, detail := held.length + part.length, c0 := toks.length }, repl)

/-- A FEED's bytes have arrived: the tokens are written at OUT_ADDR, or the reply at once where there are none. -/
def finishTokenize (s : State) (fl : Flight) (data : List Byte) : State :=
  let p := fl.pk.fn.val
  let id := pkF fl.pk 16 4
  match s.sessionAt p id with
  | none => s.endWith fl stSessionState
  | some x =>
    let v := ((s.tableAt 0 p x.vocab).map (·.image)).getD []
    let r := tokenizeFeed v x data (decide (pkF fl.pk 44 1 = 1))
    let s := { s with text := { s.text with
      sessions := nmod s.text.sessions id (fun _ => r.1),
      replaces := satAdd 32 s.text.replaces r.2.2.2,
      rejects := satAdd 32 s.text.rejects (b2n (r.2.2.1.status == stInvalidUtf8)) } }
    if r.2.1.isEmpty then s.endPacket fl r.2.2.1
    else (s.dmaWrite fl (pkF fl.pk 32 8) (r.2.1.flatMap (natLE 2))).setWait fl (fun f =>
      { f with aux := [1, r.2.2.1.status, r.2.2.1.detail, r.2.2.1.c0, r.2.2.1.c1] })

/-- A FEED whose turn has come (R295). -/
def startTokenize (s : State) (fl : Flight) : State :=
  let n := pkF fl.pk 20 4
  match s.sessionAt fl.pk.fn.val (pkF fl.pk 16 4) with
  | none => s.endWith fl stSessionState
  | some x =>
    if x.failed then s.endWith fl stSessionState
    else if 4294967295 < x.consumed + n then s.endWith fl stBadLength
    else if n = 0 then finishTokenize s fl []
    else s.dmaRead fl (pkF fl.pk 24 8) n true [0]

/-- TOKENIZE_FEED: it waits for earlier packets of its session (R295, R296). -/
def bodyTokenizeFeed (s : State) (fl : Flight) : State :=
  let pk := fl.pk
  if s.textDown then s.endWith fl stUnavailable
  else if 1 < pkF pk 44 1 then s.endWith fl stBadField 44
  else if 1048576 < pkF pk 20 4 ∨ pkF pk 40 4 < pkF pk 20 4 + 259 then s.endWith fl stBadLength
  else if s.sessionBusy fl then s.setWait fl (fun x => { x with wait := .drain (sessionKey (pkF pk 16 4)) })
  else startTokenize s fl

/-- The DMA of a TOKENIZE_FEED has ended: its read, or its write of tokens. -/
def doneTokenize (s : State) (fl : Flight) (data : List Byte) : State :=
  if fl.aux.headD 0 = 0 then finishTokenize s fl data
  else s.endPacket fl { status := fl.aux.getD 1 0, detail := fl.aux.getD 2 0, c0 := fl.aux.getD 3 0, c1 := fl.aux.getD 4 0 }

/-- A TOKENIZE_CLOSE whose turn has come: the held bytes are discarded and counted (R295). -/
def startTokenizeClose (s : State) (fl : Flight) : State :=
  let id := pkF fl.pk 16 4
  match s.sessionAt fl.pk.fn.val id with
  | none => s.endWith fl stSessionState
  | some x =>
    let s := { s with text := { s.text with sessions := ndel s.text.sessions id } }
    (s.dropClient x.client).endPacket fl { status := stOk, c0 := x.held.length + x.partialChar.length }

/-- TOKENIZE_CLOSE (R295). -/
def bodyTokenizeClose (s : State) (fl : Flight) : State :=
  if s.textDown then s.endWith fl stUnavailable
  else if s.sessionBusy fl then s.setWait fl (fun x => { x with wait := .drain (sessionKey (pkF fl.pk 16 4)) })
  else startTokenizeClose s fl

end Sys2Proof.Machine
end

