-- ==== Sys2Proof/Machine/PipelineBody.lean ====
section
/-! DEFINITION. PIPELINE_CREATE (R228, R261, R283, R284, R321, R517). -/

namespace Sys2Proof.Machine

/-- Track processors that serve: firmware running and in service (R442, R470). -/
def State.trackers (s : State) : List Nat :=
  (List.range 4).filter (fun k => s.media.tkUp.getLsbD k && s.media.tkService.getLsbD k && !(s.domAt 28).switchedOff)

/-- Channels that a CHANNELS code uses (R321). -/
def chanCount (c : Nat) : Nat := if c = 0 then 1 else 3

/-- Stop strings of a packet (R321). -/
def pkStops (pk : Packet) : List (List Byte) :=
  (List.range (min 8 (pkF pk 66 1))).map (fun i => sliceB pk.bytes (128 + 32 * i) (pkF pk (80 + i) 1))

/-- The pipeline a packet describes, its defaults taken (R321, R517). -/
def pkPipeline (pk : Packet) (h : Nat) : Pipeline :=
  let page := decide (pkF pk 16 1 = 1)
  let b := pkF pk 24 1
  let qd := dflt (pkF pk 26 1) 8
  { part := pk.fn, handle := h, page, detFolio := pkF pk 17 1, secFolio := pkF pk 18 1, channels := pkF pk 19 1,
    wa := pkF pk 20 2, ha := pkF pk 22 2, b, bMin := dflt (pkF pk 25 1) b, depth := qd,
    lowWater := dflt (pkF pk 27 1) (min 2 (qd - 1)), batchWait := dflt (pkF pk 28 2) 50, fit := bitOf (pkF pk 30 1) 0,
    agnostic := page || bitOf (pkF pk 31 1) 0, pad := pkS16 pk 32,
    off := (List.range 3).map (fun i => pkF pk (34 + 2 * i) 2), gain := (List.range 3).map (fun i => pkF pk (40 + 2 * i) 2),
    scoreMin := pkS16 pk 46, nmsIou := pkF pk 48 2, maxDet := dflt (pkF pk 50 2) (if page then 256 else 64),
    vocab := if page then pkF pk 64 1 else 0, grammar := if page then pkF pk 65 1 else 0xFF,
    stops := if page then pkStops pk else [], reject := page && decide (pkF pk 67 1 = 1),
    maxTokens := dflt (pkF pk 68 2) 256, chunkBytes := dflt (pkF pk 70 2) 256, lineH := dflt (pkF pk 72 2) 32,
    lineMaxW := dflt (pkF pk 74 2) 1024, lineB := dflt (pkF pk 76 2) 64, alarm := false, issuedSince := 0 }

/-- The field ranges of PIPELINE_CREATE, in byte order (R228, R261, R283, R310, R321). -/
def pipelineFields (pk : Packet) : Option Ans :=
  let x := pkPipeline pk 0
  let nc := chanCount x.channels
  if 1 < pkF pk 16 1 then some { status := stBadField, detail := 16 }
  else fieldCheck ([
    (19, decide (x.channels ≤ 2)),
    (20, decide (64 ≤ x.wa ∧ x.wa ≤ 4096)), (22, decide (64 ≤ x.ha ∧ x.ha ≤ 4096)),
    (24, decide (1 ≤ x.b ∧ x.b ≤ 64)), (25, decide (1 ≤ x.bMin ∧ x.bMin ≤ x.b)),
    (26, decide (2 ≤ x.depth ∧ x.depth ≤ 16)), (27, decide (1 ≤ x.lowWater ∧ x.lowWater ≤ x.depth - 1)),
    (28, decide (1 ≤ x.batchWait ∧ x.batchWait ≤ 1000)),
    (30, decide (pkF pk 30 1 ≤ 1)), (31, decide (pkF pk 31 1 ≤ 1))] ++
    (List.range 3).map (fun i => (34 + 2 * i, decide (x.off.getD i 0 ≤ 4095) && (decide (i < nc) || x.off.getD i 0 == 0))) ++
    (List.range 3).map (fun i => (40 + 2 * i, decide (i < nc) || x.gain.getD i 0 == 0)) ++
    [(48, decide (x.nmsIou ≤ 1024)), (50, decide (x.maxDet ≤ if x.page then 1024 else 256))] ++
    (if x.page then
      [(66, decide (pkF pk 66 1 ≤ 8)), (67, decide (pkF pk 67 1 ≤ 1)), (68, decide (x.maxTokens ≤ 1024)),
       (70, decide (64 ≤ x.chunkBytes ∧ x.chunkBytes ≤ 960 ∧ x.chunkBytes % 64 = 0)),
       (72, decide (8 ≤ x.lineH ∧ x.lineH ≤ 256)), (74, decide (x.lineMaxW ≤ 4095)), (76, decide (x.lineB ≤ 256))] ++
      (List.range 8).map (fun i => (80 + i,
        if i < pkF pk 66 1 then decide (1 ≤ pkF pk (80 + i) 1 ∧ pkF pk (80 + i) 1 ≤ 32) else decide (pkF pk (80 + i) 1 = 0)))
    else []))

/-- The first stop string that is not valid UTF-8, with the offset in it (R284). -/
def badStop (l : List (List Byte)) : Option (Nat × Nat) :=
  l.zipIdx.findSome? (fun (e : List Byte × Nat) => (utf8Invalid e.1).map (fun o => (e.2, o)))

/-- Whether every folio and table that a PIPELINE_CREATE names exists in its partition (R321). -/
def State.pipelineHandles (s : State) (pk : Packet) : Bool :=
  let x := pkPipeline pk 0
  (s.folioAt pk.fn x.detFolio).isSome && ((!x.page && x.secFolio == 0xFF) || (s.folioAt pk.fn x.secFolio).isSome) &&
  (!x.page || ((s.tableAt 0 pk.fn x.vocab).isSome && (x.grammar == 0xFF || (s.tableAt 1 pk.fn x.grammar).isSome)))

/-- Whether the vocabulary and the grammar a page pipeline names do not match (R283). -/
def State.pipelineMismatch (s : State) (pk : Packet) : Bool :=
  let x := pkPipeline pk 0
  match s.tableAt 0 pk.fn x.vocab, s.tableAt 1 pk.fn x.grammar with
  | some a, some b => x.page && x.grammar != 0xFF && tableMismatch a.image b.image
  | _, _ => false

/-- PIPELINE_CREATE: field ranges, then folio and table handles, the handle limit, the tables' match and the stop strings. -/
def bodyPipelineCreate (s : State) (fl : Flight) : State :=
  let pk := fl.pk
  if s.trackers = [] ∨ (pkF pk 16 1 = 1 ∧ s.textDown) then s.endWith fl stUnavailable
  else match pipelineFields pk with
  | some a => s.endPacket fl a
  | none =>
    if s.pipelineHandles pk = false then s.endWith fl stBadHandle
    else match lowestHandle 16 (fun h => (s.pipeAt pk.fn h).isSome) with
    | none => s.endWith fl stHandleLimit
    | some h =>
      if s.pipelineMismatch pk then s.endWith fl stTableMismatch
      else match badStop (pkPipeline pk 0).stops with
      | some (i, o) => s.endPacket fl { status := stInvalidUtf8, c0 := i, c1 := o }
      | none =>
        ({ s with media := { s.media with pipelines := s.media.pipelines ++ [pkPipeline pk h] } }).endPacket fl
          { status := stOk, c0 := h }

end Sys2Proof.Machine
end

