-- ==== Sys2Proof/Machine/Prep.lean ====
section
/-! DEFINITION. The arithmetic of the prep units: fit and scaling (R224, R129), colour (R225), the internal sample (R226), crops (R127 to R130, R268 to R270), and the quantisation of a network input (R44, R47 to R57, R118, R119). -/

namespace Sys2Proof.Machine

/-- A plane of samples, row-major. -/
structure Grid where
  w : Nat
  h : Nat
  a : Array Nat

/-- The sample at (x, y): the nearest edge sample outside, or 0 with EDGE = 1 (R129: src). -/
def Grid.src (g : Grid) (edge : Bool) (x y : Int) : Nat :=
  if edge ∧ (x < 0 ∨ (g.w : Int) ≤ x ∨ y < 0 ∨ (g.h : Int) ≤ y) then 0
  else g.a.getD ((clampI 0 ((g.h : Int) - 1) y).toNat * g.w + (clampI 0 ((g.w : Int) - 1) x).toNat) 0

/-- sx or sy of R129: output place i of n between two edges, in 1/256 pixel. -/
def cropCoord (lo hi : Int) (i n : Nat) : Int := lo + ((2 * (i : Int) + 1) * (hi - lo)) / (2 * (n : Int)) - 128

/-- The bilinear sample at (sx, sy) in 1/256 pixel (R129). -/
def Grid.bilinear (g : Grid) (edge : Bool) (sx sy : Int) : Nat :=
  let ix := sx / 256
  let iy := sy / 256
  let fx := (sx % 256).toNat
  let fy := (sy % 256).toNat
  ((256 - fx) * (256 - fy) * g.src edge ix iy + fx * (256 - fy) * g.src edge (ix + 1) iy +
   (256 - fx) * fy * g.src edge ix (iy + 1) + fx * fy * g.src edge (ix + 1) (iy + 1)) / 65536

/-! ### Fit and scaling (R224) -/

/-- Content size and place: Ws, Hs, ox, oy (R224). -/
def contentBox (fit : Bool) (wa ha cw ch : Nat) : Nat × Nat × Nat × Nat :=
  let ws := if !fit then wa else if ch * wa ≤ cw * ha then wa else cw * ha / ch / 2 * 2
  let hs := if !fit then ha else if ch * wa ≤ cw * ha then ch * wa / cw / 2 * 2 else ha
  (ws, hs, (wa - ws) / 2, (ha - hs) / 2)

/-- Factors of the box reduction (R224). -/
def boxFactor (c s : Nat) : Nat := min 8 (max 1 (c / s))

/-- The box-reduced plane (R224). -/
def Grid.reduce (g : Grid) (bx bY : Nat) : Grid :=
  let w := g.w / bx
  let h := g.h / bY
  { w, h, a := ((List.range (w * h)).map (fun p =>
      (((List.range (bx * bY)).map (fun k => g.a.getD ((p / w * bY + k / bx) * g.w + p % w * bx + k % bx) 0)).sum) / (bx * bY))).toArray }

/-- A plane scaled to ws × hs (R224). -/
def Grid.scale (g : Grid) (ws hs : Nat) : Grid :=
  let r := g.reduce (boxFactor g.w ws) (boxFactor g.h hs)
  { w := ws, h := hs, a := ((List.range (ws * hs)).map (fun p =>
      r.bilinear false (cropCoord 0 (256 * r.w) (p % ws) ws) (cropCoord 0 (256 * r.h) (p / ws) hs))).toArray }

/-- A plane cut to a rectangle; beyond its edges the samples are free (assumption log 42). -/
def Grid.cut (g : Grid) (x y w h : Nat) : Grid :=
  { w, h, a := ((List.range (w * h)).map (fun p =>
      if x + p % w < g.w ∧ y + p / w < g.h then g.a.getD ((y + p / w) * g.w + (x + p % w)) 0
      else Config.roiFree (x + p % w) (y + p / w) % 4096)).toArray }

/-- Whether content row j of hs reads only source rows below `rows` of h (R262). -/
def rowWhole (h hs rows j : Nat) : Bool :=
  let f := boxFactor h hs
  let r := h / f
  let iy := cropCoord 0 (256 * r) j hs / 256
  let y0 := (clampI 0 ((r : Int) - 1) iy).toNat
  let y1 := (clampI 0 ((r : Int) - 1) (iy + 1)).toNat
  decide (y0 * f + f ≤ rows) && decide (y1 * f + f ≤ rows)

/-! ### Colour and the internal sample (R225, R226) -/

/-- yo, cy, rv, gu, gv, bu of a matrix and range (R225). -/
def colourRow (bt601 full : Bool) : Int × Int × Int × Int × Int × Int :=
  match bt601, full with
  | false, false => (256, 19077, 29372, 3493, 8731, 34610)
  | false, true => (0, 16384, 25802, 3069, 7669, 30402)
  | true, false => (256, 19077, 26149, 6419, 13320, 33050)
  | true, true => (0, 16384, 22970, 5638, 11700, 29032)

/-- The channels of a pixel in the pipeline's order: 0 Y, 1 RGB, 2 BGR (R225). -/
def colourPixel (bt601 full : Bool) (order : Nat) (y cb cr : Int) : List Int :=
  let (yo, cy, rv, gu, gv, bu) := colourRow bt601 full
  let y' := y - yo
  let u := cb - 2048
  let v := cr - 2048
  let c := fun (x : Int) => clampI 0 4095 (truncShift x 14)
  let r := c (cy * y' + rv * v)
  let g := c (cy * y' - gu * u - gv * v)
  let b := c (cy * y' + bu * u)
  match order with
  | 1 => [r, g, b]
  | 2 => [b, g, r]
  | _ => [c (cy * y')]

/-- The internal 16-bit sample (R226). -/
def internalSample (x off gain : Int) : Int := clampI (-32768) 32767 (truncShift ((x - off) * gain) 8)

/-- The converted 12-bit channels of a picture's content at ws × hs (R223 steps 1 to 3). -/
def videoContent (pl : Planes) (depth : Nat) (chroma420 bt601 full : Bool) (order : Nat) (cx cy cw ch ws hs : Nat) : List (List Int) :=
  let sh := if depth = 8 then 16 else 4
  let up := fun (l : List Nat) => (l.map (· * sh)).toArray
  let half := fun (l : List Nat) => if chroma420
    then ({ w := pl.width / 2, h := pl.height / 2, a := up l } : Grid).cut (cx / 2) (cy / 2) (cw / 2) (ch / 2)
    else ({ w := cw / 2, h := ch / 2, a := (List.replicate (cw / 2 * (ch / 2)) 2048).toArray } : Grid)
  let y := (({ w := pl.width, h := pl.height, a := up pl.y } : Grid).cut cx cy cw ch).scale ws hs
  let cb := (half pl.cb).scale ws hs
  let cr := (half pl.cr).scale ws hs
  let px := (List.range (ws * hs)).map (fun p =>
    colourPixel bt601 full order (y.a.getD p 0 : Nat) (cb.a.getD p 0 : Nat) (cr.a.getD p 0 : Nat))
  (List.range (if order = 0 then 1 else 3)).map (fun c => px.map (fun l => l.getD c 0))

/-- Content placed in the analysis picture: none outside it (R223 steps 4 and 5, R226). -/
def placeContent (wa ha ws hs ox oy : Nat) (off gain : List Nat) (content : List (List (Option Int))) : List (List (Option Int)) :=
  content.zipIdx.map (fun e =>
    let a := e.1.toArray
    (List.range (wa * ha)).map (fun p =>
      let x := p % wa
      let y := p / wa
      if ox ≤ x ∧ x < ox + ws ∧ oy ≤ y ∧ y < oy + hs then
        ((a.getD ((y - oy) * ws + (x - ox)) none).map (fun v => internalSample v (off.getD e.2 0) (gain.getD e.2 0)))
      else none))

/-- The content of a page's detector picture: rows that read a row at or beyond ROWS are none (R262). -/
def pageContent (w h rows chans ws hs : Nat) (px : Array Nat) : List (List (Option Int)) :=
  (List.range chans).map (fun c =>
    let g : Grid := { w, h, a := ((List.range (w * h)).map (fun p => px.getD (p * chans + c) 0 * 16)).toArray }
    let s := g.scale ws hs
    (List.range (ws * hs)).map (fun p => if rowWhole h hs rows (p / ws) then some ((s.a.getD p 0 : Nat) : Int) else none))

/-- The statistic (hi, lo) of the samples that are there; (0, 0) of none (R48). -/
def sampleStat (l : List (List (Option Int))) : Int × Int :=
  match (l.flatten).filterMap id with
  | [] => (0, 0)
  | x :: xs => (xs.foldl max x, xs.foldl min x)

/-! ### Crops (R127 to R130, R268 to R270) -/

/-- The channels of a crop job's source, from its bytes: interleaved samples of 8 or 16 bits, `stride` bytes from row to row (R127; assumption log 72). -/
def sourceGrids (bytes : List Byte) (w h chans stride : Nat) (wide : Bool) : List Grid :=
  let a := bytes.toArray
  let at_ := fun (i : Nat) => (a.getD i 0).toNat
  (List.range chans).map (fun c => { w, h, a := ((List.range (w * h)).map (fun p =>
    let i := p / w * stride + (p % w * chans + c) * (if wide then 2 else 1)
    if wide then at_ i + 256 * at_ (i + 1) else at_ i)).toArray })

/-- A box-list entry: coordinates in 1/256 pixel, output slot and width, FLAGS (R128). -/
def boxEntry (x0 y0 x1 y1 index width flags : Nat) : BitVec 128 :=
  BitVec.ofNat 128 (x0 % 2 ^ 24 + y0 % 2 ^ 24 * 2 ^ 24 + x1 % 2 ^ 24 * 2 ^ 48 + y1 % 2 ^ 24 * 2 ^ 72 + index % 2 ^ 12 * 2 ^ 96 +
    width % 2 ^ 12 * 2 ^ 108 + flags % 2 ^ 8 * 2 ^ 120)

/-- X0, Y0, X1 and Y1 of an entry (R128). -/
def entryBox (e : BitVec 128) : Int × Int × Int × Int :=
  let f := fun (i : Nat) => ((bitsOf e.toNat (24 * i) 24 : Nat) : Int)
  (f 0, f 1, f 2, f 3)

/-- OUT_INDEX of an entry (R128). -/
def entryIndex (e : BitVec 128) : Nat := bitsOf e.toNat 96 12
/-- The output width of an entry: DEFAULT_WIDTH for 0 (R128). -/
def entryWidth (e : BitVec 128) (default : Nat) : Nat := if bitsOf e.toNat 108 12 = 0 then default else bitsOf e.toNat 108 12
/-- FLAGS of an entry (R128). -/
def entryFlags (e : BitVec 128) : Nat := bitsOf e.toNat 120 8

/-- The case of R130 an entry falls under by itself: 0 applied, 1 skipped, 2 reversed, 3 too wide, 4 refused.
What gives no output is looked at first (assumption log 72). -/
def entryCase (e : BitVec 128) (count maxW default : Nat) : Nat :=
  let b := entryBox e
  if bitOf (entryFlags e) 0 then 1
  else if count ≤ entryIndex e ∨ 4 ≤ entryFlags e then 4
  else if b.2.2.1 < b.1 ∨ b.2.2.2 < b.2.1 then 2
  else if maxW < entryWidth e default then 3
  else 0

/-- The status array of a box list (R130): an applied entry that a later one with the same OUT_INDEX replaces has status 5. -/
def entryStatuses (l : List (BitVec 128)) (count maxW default : Nat) : List Nat :=
  let cs := l.map (fun e => (entryIndex e, entryCase e count maxW default))
  cs.zipIdx.map (fun c =>
    if c.1.2 = 0 ∧ ((cs.drop (c.2 + 1)).any (fun o => o.1 == c.1.1 && (o.2 == 0 || o.2 == 2 || o.2 == 3))) = true then 5 else c.1.2)

/-- The slots of a box list, its entries applied in list order: a slot that no entry writes holds 0 (R130). -/
def entrySlots (l : List (BitVec 128)) (count maxW default : Nat) (blank : List (List Int)) (slot : BitVec 128 → Nat → List (List Int)) :
    List (List (List Int)) :=
  l.zipIdx.foldl (fun (out : List (List (List Int))) (e : BitVec 128 × Nat) => match entryCase e.1 count maxW default with
    | 0 => out.set (entryIndex e.1) (slot e.1 e.2)
    | 2 => out.set (entryIndex e.1) blank
    | 3 => out.set (entryIndex e.1) blank
    | _ => out) (List.replicate count blank)

/-- One entry's slot: by channel, OUT_H rows of MAX_WIDTH samples, zero beyond its width (R129). -/
def cropSlot (src : List Grid) (edge : Bool) (outH maxW wo : Nat) (x0 y0 x1 y1 : Int) : List (List Int) :=
  src.map (fun g => (List.range (outH * maxW)).map (fun p =>
    let i := p % maxW
    let j := p / maxW
    if i < wo then ((g.bilinear edge (cropCoord x0 x1 i wo) (cropCoord y0 y1 j outH) : Nat) : Int) else 0))

/-- aug_draw of R269. -/
def augDraw (seed sample n : Nat) : Nat :=
  ((List.range 3).foldl (fun (x : BitVec 64) _ =>
    let x := x + 0x6A5D39EAE116586D
    let x := x ^^^ (x >>> 29)
    let x := x * 0xD6E8FEB86659FD93
    x ^^^ (x >>> 32)) (BitVec.ofNat 64 seed ^^^ BitVec.ofNat 64 (sample * 2 ^ 32 + n))).toNat

/-- uni of R269. -/
def augUni (x : Nat) (lo hi : Int) : Int := lo + ((x / 2 ^ 32 * (hi - lo + 1).toNat / 2 ^ 32 : Nat) : Int)

/-- The parameters of an augmented line (R270): dx, dy, h, k, g, b, a. -/
def augParams (mask seed line : Nat) (y0 y1 : Int) : Int × Int × Int × Int × Int × Int × Int :=
  let d := fun n lo hi => augUni (augDraw seed line n) lo hi
  let on := fun i (v : Int) => if bitOf mask i then v else 0
  (on 0 (d 0 (-256) 256), on 0 (d 1 (-128) 128), on 1 (tdiv ((y1 - y0) * d 2 (-24) 24) 256), on 2 (d 3 (-32) 32),
   (if bitOf mask 3 then d 4 192 320 else 256), on 4 (d 5 (-24) 24), on 5 (d 6 1 8))

/-- An augmented line's slot (R270). -/
def augSlot (src : List Grid) (outH maxW wo : Nat) (x0 y0 x1 y1 : Int) (mask seed line : Nat) : List (List Int) :=
  let (dx, dy, h, k, g, b, a) := augParams mask seed line y0 y1
  let X0 := max 0 (x0 + dx)
  let Y0 := max 0 (y0 + dy - h)
  let X1 := max 0 (x1 + dx)
  let Y1 := max 0 (y1 + dy + h)
  src.zipIdx.map (fun e => (List.range (outH * maxW)).map (fun p =>
    let i := p % maxW
    let j := p / maxW
    if i < wo then
      let sy := cropCoord Y0 Y1 j outH
      let sx := cropCoord X0 X1 i wo + tdiv (k * (sy - (Y0 + Y1) / 2)) 256
      let v : Int := (e.1.bilinear false sx sy : Nat)
      let n := if a = 0 then 0 else augUni (augDraw seed line (64 + ((j * 4096 + i) * 4 + e.2))) (-a) a
      clampI 0 255 (tdiv ((v - 128) * g) 256 + 128 + b + n)
    else 0))

/-- OUT_WIDTH of a line in 1/4 page pixels, and whether it was cut (R268). -/
def lineWidth (lineH maxW x0 x1 y0 y1 : Nat) : Nat × Bool :=
  if y1 ≤ y0 then (maxW, false)
  else
    let w := max 1 (ceilDiv ((x1 - x0) * lineH) (y1 - y0))
    (min maxW w, decide (maxW < w))

/-! ### Network inputs: regrouping, exponent, codes, zero map (R44, R45, R47 to R57, R118, R119) -/

/-- The first tensor of a kind that an image declares: 3 the network input, 4 the network output (log 15). -/
def firstKind (img : List Byte) (k : Nat) : Option Nat := (List.range (fTensors img)).find? (fun t => (tdecl img t).kind == k)

/-- The token list of a recogniser: its first gather list that is not constant (R285; log 15). -/
def tokenTensor (img : List Byte) : Option Nat :=
  (List.range (fTensors img)).find? (fun t => (tdecl img t).kind == 5 && !(tdecl img t).isConst)

/-- Whether a quire is a step quire: it binds the token list (R285; log 15). -/
def isStep (img : List Byte) (q : Nat) : Bool :=
  match tokenTensor img with
  | some t => (qbinds img (qhdr img q)).any (fun b => b.1 == t)
  | none => false

/-- The regroupings of a picture of c channels into a tensor of so many channels: Cp, f and E (R118, R119). -/
def regroupings (c channels : Nat) : List (Nat × Nat × Nat) :=
  [2, 4, 8].flatMap (fun f => [1, 2, 3].flatMap (fun e => (List.range 17).filterMap (fun cp =>
    if 1 ≤ cp ∧ c ≤ cp ∧ cp * f * f * e * e = channels then some (cp, f, e) else none)))

/-- The one of them, of those whose factor a test allows, that a folio asks for (assumption log 69). -/
def pickRegroup (img : List Byte) (c channels : Nat) (fits : Nat → Bool) : Option Regroup :=
  let l := (regroupings c channels).filter (fun k => fits k.2.1)
  (l[Config.regroupNumber img 0 % max 1 l.length]?).map (fun k =>
    { cp := k.1, f := k.2.1, e := k.2.2, oy0 := Config.regroupNumber img 1 % k.2.2, ox0 := Config.regroupNumber img 2 % k.2.2 })

/-- The regrouping a folio's network input asks of an H × W × C picture: none where it holds the picture as it is (R118, R119, R223; assumption log 69). -/
def regroupOf (img : List Byte) (d : TDecl) (h w c : Nat) : Option Regroup :=
  if d.channels = c ∧ d.positions = h * w then none
  else pickRegroup img c d.channels (fun f => decide (ceilDiv h f * ceilDiv w f = d.positions))

/-- The element a network input holds at a position and channel: space-to-depth and tap expansion of an H × W × C picture (R118, R119). -/
def regroupAt (r : Option Regroup) (h w c : Nat) (smp : Nat → Nat → Int) (pos chan : Nat) : Int :=
  let g := r.getD { cp := c, f := 1, e := 1, oy0 := 0, ox0 := 0 }
  let cc := g.cp * g.f * g.f
  let hh := ceilDiv h g.f
  let ww := ceilDiv w g.f
  let t := chan / cc
  let c' := chan % cc
  let y : Int := (pos / ww + t / g.e : Nat) - (g.oy0 : Int)
  let x : Int := (pos % ww + t % g.e : Nat) - (g.ox0 : Int)
  if t < g.e * g.e ∧ 0 ≤ y ∧ y < hh ∧ 0 ≤ x ∧ x < ww then
    let sy := y.toNat * g.f + c' / g.cp / g.f
    let sx := x.toNat * g.f + c' / g.cp % g.f
    if sy < h ∧ sx < w ∧ c' % g.cp < c then smp (sy * w + sx) (c' % g.cp) else 0
  else 0

/-- The exponent of an instance from a window (R49 to R51): the seed where the window is empty, 0 at a fixed scale.
DEDUCED (log 64): z is channel 0's zero point at full depth, where channels differ. -/
def windowExp (img : List Byte) (d : TDecl) (win : List (Int × Int)) : Nat :=
  let r := if d.form = 2 then (-2, 1) else codeRange (decide (d.form = 1)) d.planes
  if d.scaleMode = 0 then 0
  else match win with
  | [] => d.eSeed
  | x :: xs => chooseExp (xs.foldl (fun a y => max a y.1) x.1) (xs.foldl (fun a y => min a y.2) x.2) (chanZero img d 0 : Nat) r.1 r.2 d.eMin d.eMax

/-- The code of a network-input element at exponent e, and whether it was clamped (R40, R54, R56). -/
def inputCode (img : List Byte) (d : TDecl) (e ch : Nat) (v : Int) : Int × Bool :=
  let dep := if d.form = 2 then 1 else chanDepth img d ch
  let v' := if d.scaleMode = 2 then clampI (-32767) 32767 v else v
  let r := if d.form = 2 then (-2, 1) else codeRange (decide (d.form = 1)) dep
  let q := convertRaw v' 0 e d.planes dep (chanZero img d ch : Nat)
  (clampI r.1 r.2 q, decide (v' ≠ v) || decide (q < r.1 ∨ r.2 < q))

/-- The codes of a whole network input by position, with the count of clamped elements (R56, R157). -/
def inputCodes (img : List Byte) (d : TDecl) (e : Nat) (elem : Nat → Nat → Int) : List (List Int) × Nat :=
  let l := (List.range d.positions).map (fun p => (List.range d.channels).map (fun c => inputCode img d e c (elem p c)))
  (l.map (fun r => r.map (·.1)), (l.map (fun r => (r.filter (·.2)).length)).sum)

/-- The planes of a tensor from its codes by position, one plane after another. -/
def planesOf (img : List Byte) (d : TDecl) (codes : List (List Int)) : List Byte :=
  (List.range d.planes).flatMap (fun k => padTo (d.positions * d.ps) (codes.flatMap (planeSegment img d k)))

/-- Zero digit of channel ch at plane p (R31, R34). -/
def zeroDigit (img : List Byte) (d : TDecl) (ch p : Nat) : Nat := digitOf (chanZero img d ch : Nat) d.planes p

/-- Whether an element's operand is 0 in plane p: its digit is the zero digit, or the plane is absent (R44). -/
def operandZero (img : List Byte) (d : TDecl) (p ch : Nat) (code : Int) : Bool :=
  let dep := chanDepth img d ch
  decide (dep ≤ p) || decide (digitOf code dep p = (if d.form = 1 then zeroDigit img d ch p else 0))

/-- The zero-map bits set for a tensor written whole (R44, R45): plane, block and tile. -/
def zeroTiles (img : List Byte) (d : TDecl) (codes : List (List Int)) : List (Nat × Nat × Nat) :=
  if d.comp ≠ 0 then []
  else (List.range d.planes).flatMap (fun p => if p = 0 then [] else
    (List.range (ceilDiv d.channels 256)).flatMap (fun b =>
      (List.range (ceilDiv d.positions 64)).filterMap (fun t =>
        if (((codes.drop (64 * t)).take 64).all (fun row =>
          (((row.drop (256 * b)).take 256).zipIdx).all (fun e => operandZero img d p (256 * b + e.2) e.1))) then some (p, b, t) else none)))

/-- The operand value r of an element's stored code (R94). -/
def operandValue (img : List Byte) (d : TDecl) (ch : Nat) (code : Int) : Int :=
  let dep := chanDepth img d ch
  (code - (if d.form = 1 then zeroAt (chanZero img d ch : Nat) d.planes dep else 0)) * 16 ^ (d.planes - dep)

end Sys2Proof.Machine
end

