-- ==== Sys2Proof/Machine/Batches.lean ====
section
/-! DEFINITION. Streams, pages and batches: the scale windows (R50 to R53), network inputs and outputs of a run, ready batches and their issue (R228 to R230, R263 to R265), and what an object's records are known by. -/

namespace Sys2Proof.Machine

/-! ### Streams, pictures, pages, batches -/

/-- A stream that is open or closing. -/
def State.streamAt (s : State) (sid : Nat) : Option Stream := nget s.media.streams sid
/-- A stream changed. -/
def State.setStream (s : State) (sid : Nat) (f : Stream → Stream) : State :=
  { s with media := { s.media with streams := nmod s.media.streams sid f } }
/-- A picture of a stream by DEC_SEQ. -/
def Stream.picAt (x : Stream) (d : Nat) : Option Pic := x.pics.find? (fun p => p.decSeq == d)
/-- A stream's picture. -/
def State.picAt (s : State) (sid d : Nat) : Option Pic := (s.streamAt sid).bind (fun x => x.picAt d)
/-- A stream's picture changed. -/
def State.setPic (s : State) (sid d : Nat) (f : Pic → Pic) : State :=
  s.setStream sid (fun x => { x with pics := x.pics.map (fun p => if p.decSeq = d then f p else p) })
/-- A page in flight. -/
def State.pageAt (s : State) (n : Nat) : Option Page := nget s.media.pages n
/-- A page changed. -/
def State.setPage (s : State) (n : Nat) (f : Page → Page) : State :=
  { s with media := { s.media with pages := nmod s.media.pages n f } }
/-- PAGE records of a partition that are not yet in the host's ring: their pages are in flight still (R254, R271). -/
def State.pageRecords (s : State) (p : Nat) : List Rec := ((s.resAt p).q ++ (s.resAt p).stalled).filter (fun r => r.type == 5)
/-- Pages in flight device-wide (R253, R254, R273). -/
def State.pagesInFlight (s : State) : Nat := s.media.pages.length + ((List.range 8).map (fun i => (s.pageRecords (i + 1)).length)).sum
/-- A page source. -/
def State.sourceAt (s : State) (n : Nat) : Option Source := nget s.media.sources n
/-- The pipeline of a page. -/
def State.pagePipe (s : State) (g : Page) : Option Pipeline := (s.sourceAt g.source).bind (fun x => s.pipeAt g.part x.pipeline)
/-- A batch. -/
def State.batchAt (s : State) (n : Nat) : Option Batch := nget s.media.batches n
/-- A batch changed. -/
def State.setBatch (s : State) (n : Nat) (f : Batch → Batch) : State :=
  { s with media := { s.media with batches := nmod s.media.batches n f } }
/-- A pipeline changed. -/
def State.setPipe (s : State) (p h : Nat) (f : Pipeline → Pipeline) : State :=
  { s with media := { s.media with pipelines := s.media.pipelines.map (fun x => if x.part = p ∧ x.handle = h then f x else x) } }

/-- What records of a stream, a page source and an encode session are known by (R313). -/
def streamKey (sid : Nat) : Nat := 64 + 4 * sid
def sourceKey (id : Nat) : Nat := 64 + 4 * id + 1
def clipKey (c : Nat) : Nat := 64 + 4 * c + 2

/-- Whether a picture is never output: RECOVERING with OUTPUT_RECOVERING = 0 (R221). -/
def Pic.hidden (x : Stream) (p : Pic) : Bool := p.recovering && !x.outputRecovering

/-! ### Scale windows (R50 to R53) -/

/-- The statistics a source has recorded at a point, latest first. -/
def State.windowOf (s : State) (page : Bool) (obj folio tid : Nat) : List (Nat × Int × Int) :=
  ((s.media.windows.find? (fun w => w.page == page && w.obj == obj && w.folio == folio && w.tid == tid)).map (·.stats)).getD []

/-- An instance's statistic enters its source's window, in instance order (R50). -/
def State.pushWindow (s : State) (page : Bool) (obj folio tid key : Nat) (st : Int × Int) : State :=
  let old := s.windowOf page obj folio tid
  let new := old.takeWhile (fun e => decide (key < e.1)) ++ (key, st) :: old.dropWhile (fun e => decide (key < e.1))
  let rest := s.media.windows.filter (fun w => !(w.page == page && w.obj == obj && w.folio == folio && w.tid == tid))
  { s with media := { s.media with windows := rest ++ [{ page, obj, folio, tid, stats := new }] } }

/-- The window of an instance: the W most recent earlier instances that recorded a statistic (R50, R53). -/
def State.windowBefore (s : State) (page : Bool) (obj folio tid key w : Nat) : List (Int × Int) :=
  (((s.windowOf page obj folio tid).filter (fun e => decide (e.1 < key))).take w).map (·.2)

/-- The windows of a source emptied (R52). -/
def State.dropWindows (s : State) (page : Bool) (obj : Nat) : State :=
  { s with media := { s.media with windows := s.media.windows.filter (fun w => !(w.page == page && w.obj == obj)) } }

/-- The place of an instance among its source's instances: pictures and pages by number, their crops after them. -/
def instOrder (seq sub : Nat) : Nat := 2048 * seq + sub

/-- The source of a run's instance and its place: whether pages, the stream or source, the order key, W (R51). -/
def State.instSource (s : State) (i : Instance) : Option (Bool × Nat × Nat × Nat) :=
  match i.kind with
  | 0 => (s.streamAt i.obj).map (fun x => (false, i.obj, instOrder i.seq 0, x.window))
  | 1 => (s.streamAt i.obj).map (fun x => (false, i.obj, instOrder i.seq (1 + i.idx), x.window))
  | 2 => (s.pageAt i.obj).bind (fun g => (s.sourceAt g.source).map (fun x => (true, g.source, instOrder i.obj 0, x.window)))
  | _ => (s.pageAt i.obj).bind (fun g => (s.sourceAt g.source).map (fun x => (true, g.source, instOrder i.obj (1 + i.seq), x.window)))

/-- The exponent of a tensor instance of a run at a running-mode point: from the window of its source, or the seed (R50, R51). -/
def State.pointExp (s : State) (x : Run) (d : TDecl) (tid inst : Nat) : Nat :=
  let img := s.imageOf x.part x.folio
  if d.scaleMode = 1 then
    match (x.instances[inst]?).bind s.instSource with
    | some (page, obj, key, w) => windowExp img d (s.windowBefore page obj x.folio tid key w)
    | none => d.eSeed
  else 0

/-- Running-mode points inside a network (R53). -/
def runningPoints (img : List Byte) : List Nat :=
  (List.range (fTensors img)).filter (fun t => (tdecl img t).scaleMode == 1 && (tdecl img t).kind != 3)

/-! ### Runs: network inputs and outputs -/

/-- Whether every quire of a run has completed or ended (R148). -/
def State.runFinished (s : State) (r : Nat) : Bool :=
  match s.runAt r with
  | none => true
  | some x => (List.range (fQuires (s.imageOf x.part x.folio))).all (fun q =>
      match tget .waiting x.quires q with
      | .completed => true
      | .ended _ => true
      | _ => false)

/-- Whether a quire writes a network output of instance i, or one that all instances share (R143). -/
def writesResult (img : List Byte) (q i : Nat) : Bool :=
  let bs := qbinds img (qhdr img q)
  (List.range bs.length).any (fun j =>
    let b := bs.getD j (0, 0)
    (tdecl img b.1).kind == 4 && roleWrites b.2 && (decide (instCount img b.1 ≤ 1) || bindInstance img bs j == i))

/-- The status that instance i of a run ends with: that of a failed quire which its result depends on, 0 with none (R158). -/
def State.instStatus (s : State) (r i : Nat) : Nat :=
  match s.runAt r with
  | none => stAborted
  | some x =>
    if x.status ≠ 0 then x.status
    else
      let img := s.imageOf x.part x.folio
      (((List.range (fQuires img)).find? (fun q => tget 0 x.failed q != 0 && writesResult img q i)).map (fun q => tget 0 x.failed q)).getD 0

/-- Whether a run has passed every running-mode point inside its network (R53). -/
def State.runPassed (s : State) (r : Nat) : Bool :=
  match s.runAt r with
  | none => true
  | some x =>
    let img := s.imageOf x.part x.folio
    let pts := runningPoints img
    (List.range (fQuires img)).all (fun q =>
      match tget .waiting x.quires q with
      | .completed => true
      | .ended _ => true
      | _ => !(qbinds img (qhdr img q)).any (fun b => pts.contains b.1 && roleWrites b.2))

/-- A home for a network input: ready batches go to the cellar store, and elsewhere only where HOME_ALLOWED forbids it: to DRAM, then to a core the partition holds (R174, R228).
A compressed tensor has its home in blocks, never in a core store (R138). -/
def State.inputHome (s : State) (p : Nat) (d : TDecl) : State × Option (HomeKind × Nat) :=
  if bitOf d.home 1 then
    let o := s.takeCellar p d.homeBytes (decide (d.home = 2))
    (o.1, o.2.map (fun a => (HomeKind.cellar, a)))
  else
    (s, match (if bitOf d.home 2 then s.dramRoom p d.homeBytes (decide (d.home = 4)) else none) with
      | some a => some (.dram, a)
      | none =>
        if bitOf d.home 0 && decide (d.comp = 0) then
          (s.coresHeld p).findSome? (fun c => (s.coreRoom c d.storeBytes).map (fun a => (coreHome c, a)))
        else none)

/-- A tensor of a run put into a home with its codes, its exponent and its zero-map bits (R33, R45). -/
def State.placeInput (s : State) (p folio r tid inst e : Nat) (codes : List (List Int)) : Option State :=
  let img := s.imageOf p folio
  let d := tdecl img tid
  let o := s.inputHome p d
  let s := o.1
  o.2.map (fun ha =>
    let planes := planesOf img d codes
    let bytes := if d.comp ≠ 0 ∧ inCore ha.1 = false then encodeTensor img d planes else planes
    let k := s.cel.nextTensor
    let s := s.newTensor { part := p, folio, run := r + 1, tid, inst,
                           bytes := (match ha.1 with
                             | .core _ => d.storeBytes
                             | _ => d.homeBytes),
                           ps := d.ps, planeBytes := d.storePlane, home := ha.1, addr := ha.2, move := none, charge := 0, e,
                           lost := false, used := s.cel.uses }
    let s := s.writeMem ha.2 bytes
    { s with mem := { s.mem with zero := s.mem.zero ++ (zeroTiles img d codes).map (fun z => (k, z.1, z.2.1, z.2.2)) } })

/-- The token list of a run in the cellar store, every entry 0xFFFF_FFFF (R285). -/
def State.placeTokens (s : State) (p folio r : Nat) : Option State :=
  let img := s.imageOf p folio
  match tokenTensor img with
  | none => some s
  | some tid =>
    let d := tdecl img tid
    let o := s.inputHome p d
    let s := o.1
    o.2.map (fun ha =>
      (s.newTensor { part := p, folio, run := r + 1, tid, inst := 0, bytes := d.homeBytes, ps := d.ps, planeBytes := d.planeBytes,
                     home := ha.1, addr := ha.2, move := none, charge := 0, e := 0, lost := false, used := s.cel.uses }).writeMem
        ha.2 (List.replicate d.homeBytes 0xFF))

/-- A run started on its instances: their codes in the first binding instances of the network input, zero planes in the rest (R228).
None where an input finds no home. -/
def State.startRun (s : State) (p folio prio purpose : Nat) (ins : List (Instance × Nat × List (List Int))) : Option State :=
  let img := s.imageOf p folio
  let r := s.cel.nextRun
  let run : Run := { part := p, folio, prio, purpose, instances := ins.map (·.1),
                     quires := if purpose = 3 then ((List.range (fQuires img)).filter (isStep img)).map (fun q => (q, .completed)) else [],
                     abandons := [], avoid := [], returned := [], status := 0 }
  let s := { s with cel := { s.cel with runs := s.cel.runs ++ [(r, run)], nextRun := r + 1 } }
  match firstKind img 3 with
  | none => some s
  | some tid =>
    let zeros := fun (_ : Nat) => List.replicate (tdecl img tid).positions (List.replicate (tdecl img tid).channels (0 : Int))
    let s := (List.range (max 1 (instCount img tid))).foldl (fun (o : Option State) i => o.bind (fun s =>
      match ins[i]? with
      | some (_, e, codes) => s.placeInput p folio r tid i e codes
      | none => s.placeInput p folio r tid i 0 (zeros i))) (some s)
    if purpose = 3 then s.bind (fun s => s.placeTokens p folio r) else s

/-- A run ended: its tensors' homes are released and it leaves the table. -/
def State.endRun (s : State) (r : Nat) : State :=
  let s := s.freeTensors (fun t => t.run == r + 1)
  { s with cel := { s.cel with runs := ndel s.cel.runs r } }

/-- Where instance i of a tensor of a run stands: its entry, and its first position: a tensor bound once is shared, position by position (R143; log 15). -/
def State.outEntry (s : State) (r tid i : Nat) : Option (Nat × Tensor × Nat) :=
  let all := s.cel.tensors.filter (fun e => e.2.run == r + 1 && e.2.tid == tid)
  let l := all.filter (fun e => !(s.declOf e.2).viaCopy || !inCore e.2.home || !all.any (fun o => o.2.inst == e.2.inst && !inCore o.2.home))
  match l.find? (fun e => e.2.inst == i) with
  | some e => if l.length = 1 then some (e.1, e.2, i) else some (e.1, e.2, 0)
  | none => if l.length = 1 then l.head?.map (fun e => (e.1, e.2, i)) else none

/-- The planes of a tensor as a core store would hold them (R138). -/
def State.tensorPlanes (s : State) (t : Tensor) : List Byte :=
  let d := s.declOf t
  let bs := s.bytesAt t.addr (s.bytesIn t t.home)
  if d.comp ≠ 0 ∧ inCore t.home = false then decodeTensor (s.imageOf t.part t.folio) d bs else bs

/-- The operand values of the channels of one position of a tensor (R94). -/
def State.positionValues (s : State) (t : Tensor) (pos n : Nat) : List Int :=
  let d := s.declOf t
  let img := s.imageOf t.part t.folio
  let pl := s.tensorPlanes t
  let segs := (List.range d.planes).map (fun k => sliceB pl (k * d.storePlane + pos * d.ps) d.ps)
  (List.range (min n d.channels)).map (fun c => operandValue img d c (positionCodes img d segs c))

/-- Whether any line of a tensor is poisoned, or the tensor was lost (R74, R192). -/
def State.tensorBad (s : State) (t : Tensor) : Bool := t.lost || (s.firstPoison t.addr (s.bytesIn t t.home)).isSome

/-- The network input that a folio declares, its image and declaration. -/
def State.netInput (s : State) (p folio : Nat) : Option (Nat × List Byte × TDecl) :=
  let img := s.imageOf p folio
  (firstKind img 3).map (fun t => (t, img, tdecl img t))

/-- SCALE_MODE of a folio's network input, fixed where it has none. -/
def State.inputMode (s : State) (p folio : Nat) : Nat := ((s.netInput p folio).map (fun o => o.2.2.scaleMode)).getD 0

/-! ### Ready batches (R228 to R230, R263 to R265) -/

/-- Batches of a pipeline in its queue: issued, with their run not finished (R229). -/
def State.queued (s : State) (p h kind : Nat) : Nat :=
  (s.media.batches.filter (fun e => e.2.part == p && e.2.pipeline == h && e.2.kind == kind && e.2.run != 0 &&
    !s.runFinished (e.2.run - 1))).length

/-- Whether a pipeline's queue has no room (R229, R264). -/
def State.queueFull (s : State) (x : Pipeline) : Bool := decide (x.depth ≤ s.queued x.part x.handle (b2n x.page))

/-- Bytes of a stream's listed FEEDs that are in the bin and not parsed. -/
def Stream.unparsed (x : Stream) : Nat := ((x.feeds.takeWhile (·.here)).map (·.len)).sum - x.parsed

/-- Whether some input of a pipeline is fed and not yet decoded (R230, R265). -/
def State.inputWaits (s : State) (x : Pipeline) : Bool :=
  if x.page then
    s.media.pages.any (fun e => e.2.part == x.part && ((s.sourceAt e.2.source).map (·.pipeline)) == some x.handle &&
      (match e.2.stage with
       | .accepted => true
       | .decoding => true
       | _ => false))
  else
    s.media.streams.any (fun e => e.2.part == x.part && e.2.pipeline == x.handle &&
      (decide (0 < e.2.unparsed) || e.2.pics.any (fun p => match p.stage with
        | .parsed => true
        | .dispatched _ => true
        | _ => false)))

/-- The low-water alarm raised or undone, with its EVENT records (R230, R265). -/
def State.alarmUpdate (s : State) (p h : Nat) : State :=
  match s.pipeAt p h with
  | none => s
  | some x =>
    let n := s.queued p h (b2n x.page)
    let code := if x.page then 0x0581 else 0x0481
    if !x.alarm ∧ n < x.lowWater ∧ s.inputWaits x = true then
      (s.setPipe p h (fun x => { x with alarm := true, issuedSince := 0 })).celEvent p code h 0 0
    else if x.alarm ∧ min (2 * x.lowWater) x.depth ≤ n then
      (s.setPipe p h (fun x => { x with alarm := false, issuedSince := 0 })).celEvent p (code + 1) h 0 0
    else s

/-- The class priority of a pipeline's decode and preparation work (R230). -/
def Pipeline.workPrio (x : Pipeline) (k : Nat) : Nat := if x.alarm then min 3 (k + 1) else k

/-- What a batch's entry brings to its run: the instance, its exponent and its codes. -/
def State.entryInput (s : State) (x : Pipeline) (b : Batch) (e : Nat × Nat) : Option (Instance × Nat × List (List Int)) :=
  let folio := if b.kind = 2 then x.secFolio else x.detFolio
  let img := s.imageOf x.part folio
  let d := tdecl img ((firstKind img 3).getD 0)
  let smp := fun (l : List (List (Option Int))) =>
    let a := (l.map List.toArray).toArray
    fun (p c : Nat) => ((a.getD c #[]).getD p none).getD x.pad
  let n := chanCount x.channels
  if b.kind = 0 then
    (s.picAt e.1 e.2).map (fun p =>
      ({ kind := 0, obj := e.1, seq := e.2, idx := 0, client := ((s.streamAt e.1).map (·.client)).getD 0, clamps := 0 }, p.e,
        (inputCodes img d p.e (regroupAt p.regroup x.ha x.wa n (smp p.samples))).1))
  else
    (s.pageAt e.1).map (fun g =>
      if b.kind = 1 then
        ({ kind := 2, obj := e.1, seq := 0, idx := 0, client := g.client, clamps := 0 }, g.e,
          (inputCodes img d g.e (regroupAt g.regroup x.ha x.wa n (smp g.samples))).1)
      else
        let l := (g.lines[e.2]?).map (·.e)
        ({ kind := 3, obj := e.1, seq := e.2, idx := 0, client := g.client, clamps := 0 }, l.getD 0,
          (inputCodes img d (l.getD 0) (regroupAt (regroupOf img d x.lineH x.lineMaxW n) x.lineH x.lineMaxW n
            (smp (((g.crops[e.2]?).getD []).map (fun ch => ch.map some))))).1))

/-- Whether a batch, by its number plus 1, has not passed the running-mode points inside its network: 0 stands for no batch yet (R53). -/
def State.unpassed (s : State) (b : Nat) : Bool :=
  b == 0 || (s.batchAt (b - 1)).any (fun o => o.run == 0 || !s.runPassed (o.run - 1))

/-- Whether an earlier picture of a stream holds picture d: one to be analysed that is not yet decoded, or has not passed the running-mode points (R53). -/
def State.pictureHolds (s : State) (sid d : Nat) : Bool :=
  (s.streamAt sid).any (fun x => x.pics.any (fun p => decide (p.decSeq < d) && p.analysed && (match p.stage with
    | .parsed => true
    | .dispatched _ => true
    | .decoded => !p.detDone && s.unpassed p.batch
    | _ => false)))

/-- Whether an earlier page of its source holds page n: one not yet in a batch that has passed the running-mode points (R51, R53). -/
def State.pageHolds (s : State) (n : Nat) : Bool :=
  (s.pageAt n).any (fun g => s.media.pages.any (fun o => decide (o.1 < n) && o.2.source == g.source && (match o.2.stage with
    | .accepted => true
    | .decoding => true
    | .decoded => true
    | .detecting => s.unpassed o.2.batch
    | _ => false)))

/-- Whether a batch must hold: an earlier instance of one of its sources has not passed the running-mode points (R53). -/
def State.batchHeld (s : State) (n : Nat) (b : Batch) (img : List Byte) : Bool :=
  !(runningPoints img).isEmpty && b.entries.any (fun e =>
    if b.kind = 0 then s.pictureHolds e.1 e.2
    else if b.kind = 1 then s.pageHolds e.1
    else s.media.batches.any (fun o => o.1 != n && o.2.part == b.part && o.2.pipeline == b.pipeline && o.2.kind == b.kind &&
      o.2.entries.any (fun f => decide (f.1 < e.1) && ((s.pageAt f.1).map (·.source)) == ((s.pageAt e.1).map (·.source)) &&
        s.unpassed (o.1 + 1))))

/-- Whether a batch is due: full, waited out, or B_MIN strong under the low-water action (R228, R230). -/
def Batch.due (b : Batch) (x : Pipeline) : Bool :=
  b.full || b.waited || (b.kind != 2 && x.issuedSince == 5 && decide (x.bMin ≤ b.entries.length))

/-- Whether a STREAM_FLUSH or a draining close has a picture in a batch (R228). -/
def State.flushes (s : State) (b : Batch) : Bool :=
  b.kind == 0 && b.entries.any (fun e => (s.streamAt e.1).any (fun x => decide (x.st = .flushing)))

/-- A batch issued to its folio when it is due and nothing holds it (R53, R228). -/
def State.tryIssue (s : State) (n : Nat) : State :=
  match s.batchAt n with
  | none => s
  | some b =>
    match s.pipeAt b.part b.pipeline with
    | none => s
    | some x =>
      let folio := if b.kind = 2 then x.secFolio else x.detFolio
      let img := s.imageOf b.part folio
      if b.run ≠ 0 ∨ (b.due x || s.flushes b) = false ∨ s.batchHeld n b img = true then s
      else
        let r := s.cel.nextRun
        match s.startRun b.part folio b.prio (if b.kind = 0 then 0 else b.kind + 1) (b.entries.filterMap (s.entryInput x b)) with
        | none => s
        | some s =>
          let s := s.setBatch n (fun b => { b with run := r + 1 })
          if b.kind = 2 then s
          else
            let k := if x.alarm ∧ x.issuedSince < 4 then x.issuedSince + 1 else x.issuedSince
            let k := if k = 4 ∧ x.issuedSince = 3 ∧ s.queued b.part b.pipeline b.kind < x.lowWater then 5 else k
            (s.setPipe b.part b.pipeline (fun x => { x with issuedSince := k })).alarmUpdate b.part b.pipeline

/-- Every batch of a pipeline tried in order. -/
def State.issueReady (s : State) (p h : Nat) : State :=
  (s.media.batches.filter (fun e => e.2.part == p && e.2.pipeline == h)).foldl (fun s e => s.tryIssue e.1) s

/-- Entries a batch of a kind holds. -/
def Pipeline.batchSize (x : Pipeline) (kind : Nat) : Nat := if kind = 2 then x.lineB else x.b

/-- An entry joins the first batch of its kind with room, or a new one; where the folio has running-mode points inside, a batch takes one picture of a stream or page of a source (R53, R228, R263). -/
def State.joinBatch (s : State) (x : Pipeline) (kind prio : Nat) (e : Nat × Nat) : State × Nat :=
  let img := s.imageOf x.part (if kind = 2 then x.secFolio else x.detFolio)
  let one := kind != 2 && !(runningPoints img).isEmpty
  let src := fun (f : Nat × Nat) => if kind = 0 then some f.1 else (s.pageAt f.1).map (·.source)
  match s.media.batches.find? (fun b => b.2.part == x.part && b.2.pipeline == x.handle && b.2.kind == kind && b.2.run == 0 &&
      !b.2.full && !(one && b.2.entries.any (fun f => src f == src e))) with
  | some b =>
    (s.setBatch b.1 (fun b => { b with entries := b.entries ++ [e], full := decide (x.batchSize kind ≤ b.entries.length + 1),
                                       prio := max b.prio prio }), b.1)
  | none =>
    let n := s.media.nextBatch
    ({ s with media := { s.media with nextBatch := n + 1, batches := s.media.batches ++ [(n, ({
        part := x.part, pipeline := x.handle, kind, entries := [e], full := decide (x.batchSize kind ≤ 1), waited := false,
        run := 0, prio } : Batch))] } }, n)

/-- Unissued batches that hold a picture of a stream are issued at once (R228: STREAM_FLUSH, draining close). -/
def State.flushBatches (s : State) (p h sid : Nat) : State :=
  let s := { s with media := { s.media with batches := s.media.batches.map (fun (b : Nat × Batch) =>
    if b.2.part = p ∧ b.2.pipeline = h ∧ b.2.kind = 0 ∧ b.2.run = 0 ∧ (b.2.entries.any (fun e => e.1 == sid)) = true
    then (b.1, { b.2 with waited := true }) else b) } }
  s.issueReady p h

/-- Entries of unissued batches that a test picks are taken out; empty batches go. -/
def State.dropEntries (s : State) (pick : Batch → Nat × Nat → Bool) : State :=
  let cut := fun (b : Nat × Batch) =>
    if b.2.run = 0 then (b.1, { b.2 with
      entries := b.2.entries.filter (fun e => !pick b.2 e),
      full := b.2.full && !(b.2.entries.any (pick b.2)) })
    else b
  let l := (s.media.batches.map cut).filter (fun b => !(b.2.run == 0 && b.2.entries.isEmpty))
  { s with media := { s.media with batches := l } }

/-- A batch whose every result has been taken leaves with its run. -/
def State.retireBatch (s : State) (n : Nat) : State :=
  match s.batchAt n with
  | none => s
  | some b =>
    let s := if b.run = 0 then s else s.endRun (b.run - 1)
    { s with media := { s.media with batches := ndel s.media.batches n } }

/-- Whether every result of a batch has been taken: pictures finished or gone, pages finished or gone, reads ended (R232, R266, R286). -/
def State.batchTaken (s : State) (n : Nat) (b : Batch) : Bool :=
  b.entries.all (fun e =>
    if b.kind = 0 then (s.picAt e.1 e.2).all (fun p => p.detDone || decide (p.batch ≠ n + 1))
    else if b.kind = 1 then (s.pageAt e.1).all (fun g => decide (g.batch ≠ n + 1 ∨ g.stage ≠ .detecting))
    else (s.pageAt e.1).isNone || s.text.reads.any (fun r => r.2.page == e.1 && r.2.line == e.2 && r.2.batch == n && r.2.ended))

/-- Batches whose run has finished and whose results are taken leave. -/
def State.sweepBatches (s : State) : State :=
  ((s.media.batches.filter (fun e => e.2.run != 0 && s.runFinished (e.2.run - 1) && s.batchTaken e.1 e.2)).map (·.1)).foldl State.retireBatch s

/-- A charge of cycles that no rule counts: a free value (R199; assumption log 43). -/
def State.chargeFree (s : State) (p client c : Nat) : State := s.chargeWork p client c (Config.workCycles c (tget 0 s.cel.acct (16 * p + c)))

end Sys2Proof.Machine
end

