-- ==== Sys2Proof/Machine/StreamBody.lean ====
section
/-! DEFINITION. The stream packets (R209 to R214, R239 to R241): STREAM_OPEN, FEED, STREAM_FLUSH, STREAM_RESET, STREAM_CLOSE, SNAPSHOT, CLIP_START, CLIP_STOP, ENCODE_KEY. -/

namespace Sys2Proof.Machine

/-! ### Records of the encoders (R242, R247) -/

/-- "Never output" in a SNAPSHOT_REF's PIC_SEQ (R247). -/
def noPic : Nat := 0xFFFFFFFF

/-- A SNAPSHOT_REF record's bytes 8 to 63 (R247). -/
def snapBody (sid order tag kind flags status track chunk buffer bytes dec : Nat) : List Byte :=
  padTo 56 (natLE 4 sid ++ natLE 4 order ++ natLE 4 tag ++ natLE 1 kind ++ natLE 1 flags ++ natLE 2 status ++ natLE 4 track ++
    natLE 4 chunk ++ natLE 8 buffer ++ natLE 4 bytes ++ natLE 4 dec)

/-- A single picture's SNAPSHOT_REF committed (R247). -/
def State.commitSnap (s : State) (x : Stream) (sid : Nat) (q : Snap) (status buffer bytes : Nat) : State :=
  s.commit x.part { type := 4, prio := q.prio, body := snapBody sid q.order q.tag q.kind 0 status q.track 0 buffer bytes (q.target.getD noPic),
                    prod := .snapshot, obj := 0 }

/-- The chunk a session holds is returned in a bin buffer, or dropped with BIN_EMPTY (R242). -/
def State.endChunk (s : State) (c : Nat) (last : Bool) : State :=
  match tget none s.media.clips c with
  | none => s
  | some k =>
    match s.streamAt k.stream with
    | none => s
    | some x =>
      if k.bytes.isEmpty then s
      else
        let put := fun (status buffer bytes : Nat) (s : State) =>
          s.commit x.part {
            type := 4, prio := k.prio, prod := .en (Fin.ofNat 2 (c / 16)), obj := clipKey c,
            body := snapBody k.stream k.firstPic k.tag 3 (b2n last + 2 * b2n k.idr) status 0 k.chunk buffer bytes k.firstDec }
        let next : Clip := { k with bytes := [], chunk := k.chunk + 1, chunks := k.chunks + 1 }
        match s.binPick x.part k.bytes.length with
        | .ok b =>
          let s := (s.handBuf b).writeOutside (s.bufAddr b) k.bytes
          let s := put stOk (s.bufHandle b) k.bytes.length s
          { s with media := { s.media with clips := tput none s.media.clips c (some next) } }
        | .error _ =>
          let s := put stBinEmpty 0 0 s.countEmpty
          { s with media := { s.media with clips := tput none s.media.clips c (some { next with fresh := true }), enDrops := satAdd 32 s.media.enDrops 1 } }

/-- An encode session ends: its last chunk is returned, the session is free, and a CLIP_STOP that waits for it now waits for its records (R240, R313). -/
def State.endClip (s : State) (c : Nat) : State :=
  let s := s.endChunk c true
  let n := ((tget none s.media.clips c).map (·.chunks)).getD 0
  { s with media := { s.media with clips := tput none s.media.clips c none },
           cp := { s.cp with flight := s.cp.flight.map (fun x => if x.wait = .drain (clipKey c) then { x with wait := .records n } else x) } }

/-- Sessions open on a stream. -/
def State.clipsOf (s : State) (sid : Nat) : List Nat :=
  s.media.clips.filterMap (fun e => match e.2 with
    | some c => if c.stream = sid then some e.1 else none
    | none => none)

/-- An encoder is free when no session of it and no snapshot has a picture of its own still to encode (R240). -/
def State.freeEncoder (s : State) (e : Nat) : State :=
  { s with media := { s.media with enBusy := tput none s.media.enBusy e none,
                                   snapInput := if e = 2 then none else s.media.snapInput } }

/-! ### STREAM_OPEN (R209, R211, R212, R214) -/

/-- Whether decode cluster k serves: its header processor up, an engine in service, its domain not switched off (R214). -/
def State.clusterServes (s : State) (k : Nat) : Bool :=
  (s.clusterAt k).up && decide ((s.clusterAt k).engines ≠ 0) && !(s.domAt (21 + k)).switchedOff

/-- Streams bound to a cluster. -/
def State.clusterStreams (s : State) (k : Nat) : List (Nat × Stream) :=
  s.media.streams.filter (fun e => e.2.cluster == k && decide (e.2.st ≠ .closed))

/-- The element of a list with the smallest weight, the first on ties. -/
def leastBy (w : Nat → Nat) : List Nat → Option Nat
  | [] => none
  | k :: ks =>
    match leastBy w ks with
    | some j => if w j < w k then some j else some k
    | none => some k

/-- The cluster a stream is bound to: the smallest sum of PIXEL_RATE among those in service with fewer than 256 streams (R214). -/
def State.pickCluster (s : State) : Option Nat :=
  leastBy (fun k => ((s.clusterStreams k).map (fun e => e.2.rate)).sum)
    ((List.range 4).filter (fun k => s.clusterServes k && decide ((s.clusterStreams k).length < 256)))

/-- The track processor a stream is bound to: the fewest streams (R214). -/
def State.pickTracker (s : State) : Option Nat :=
  leastBy (fun k => (s.media.streams.filter (fun e => e.2.tp == k)).length) s.trackers

/-- Bytes of one reference buffer (R212). -/
def refBuffer (w h depth : Nat) : Nat :=
  up4k (ceilDiv ((w * h + 2 * (ceilDiv w 2 * ceilDiv h 2)) * (if depth = 8 then 1 else 2) * 65) 64)

/-- The stream a packet describes, its defaults taken (R209, R322, R517). -/
def pkStream (pk : Packet) : Stream :=
  let f := pkF pk 31 1
  let refs := dflt (pkF pk 17 1) 4
  let depth := dflt (pkF pk 18 1) 8
  let age := dflt (pkF pk 78 2) 30
  { part := pk.fn, prio := pkPriority pk, pipeline := pkF pk 19 1, codec := pkF pk 16 1, maxW := pkF pk 20 2, maxH := pkF pk 22 2,
    maxRefs := refs, maxDepth := depth, rate := pkF pk 24 4, every := dflt (pkF pk 28 1) 1, skipNonref := bitOf f 0,
    outputRecovering := bitOf f 1, budgetMult := dflt (pkF pk 29 1) 16, window := dflt (pkF pk 30 1) 8, cx := pkF pk 36 2, cy := pkF pk 38 2,
    cw := pkF pk 40 2, chh := pkF pk 42 2, fit := bitOf f 2, colour := pkF pk 32 1, cropSource := pkF pk 33 1, exportEmbed := bitOf f 3,
    snapAuto := bitOf f 4, client := 0, reidMax := pkF pk 44 1, reidClasses := pkF pk 48 8, reidGate := pkF pk 56 8,
    nConfirm := dflt (pkF pk 45 1) 3, iouGate := pkF pk 46 2, wIou := pkF pk 64 2, wReid := pkF pk 66 2, alpha := pkF pk 68 2,
    beta := pkF pk 70 2, newScore := pkS16 pk 72, trackMax := dflt (pkF pk 74 2) 128, lostAfter := dflt (pkF pk 76 2) (min 3 age),
    maxAge := age, cluster := 0, tp := 0, st := .seeking, refBytes := (refs + 1) * refBuffer (pkF pk 20 2) (pkF pk 22 2) depth,
    refAddr := 0, feeds := [], nextDec := 0, nextPic := 0, pics := [], dpb := [], seqSets := [], picSets := [], active := none, raslOut := false,
    recovery := none, tracks := [], nextTrack := 1, nextTent := 0, snaps := [],
    lastPic := 0, startDec := 0, cvs := 0, flushed := 0, parsed := 0, refused := 0, back := .seeking }

/-- The ranges of R209, R234 to R237 and R322. -/
def streamRanges (x : Stream) : Bool :=
  decide (x.codec ≤ 1) && decide (1 ≤ x.maxRefs ∧ x.maxRefs ≤ 16) && decide (x.maxDepth = 8 ∨ x.maxDepth = 10) &&
  decide (64 ≤ x.maxW ∧ x.maxW ≤ 4096) && decide (64 ≤ x.maxH ∧ x.maxH ≤ 2304) && decide (1 ≤ x.rate ∧ x.rate ≤ 48000) &&
  decide (1 ≤ x.every ∧ x.every ≤ 16) && decide (2 ≤ x.budgetMult ∧ x.budgetMult ≤ 64) && decide (1 ≤ x.window ∧ x.window ≤ 32) &&
  decide (x.colour ≤ 2) && decide (x.cropSource ≤ 2) &&
  decide (x.cx % 2 = 0 ∧ x.cy % 2 = 0 ∧ x.cw % 2 = 0 ∧ x.chh % 2 = 0) && decide (x.cw = 0 ↔ x.chh = 0) &&
  decide (x.reidMax ≤ 16) && decide (1 ≤ x.nConfirm ∧ x.nConfirm ≤ 8) && decide (x.iouGate ≤ 1024) &&
  decide (x.alpha ≤ 1024 ∧ x.beta ≤ 1024) && decide (1 ≤ x.trackMax ∧ x.trackMax ≤ 256) &&
  decide (1 ≤ x.maxAge ∧ x.maxAge ≤ 1024) && decide (1 ≤ x.lostAfter ∧ x.lostAfter ≤ x.maxAge)

/-- The stream of a STREAM_OPEN opened on a cluster and a track processor, its reference buffers at an address, with its accounting record where it asks for one (R198, R212, R214). -/
def State.addStream (s : State) (pk : Packet) (k t a : Nat) : State :=
  let id := s.media.nextStream
  let r := if bitOf (pkF pk 31 1) 5 then s.takeClient pk.fn 1 id else (s, 0)
  { r.1 with media := { s.media with
    streams := s.media.streams ++ [(id, { pkStream pk with client := r.2, cluster := k, tp := t, refAddr := a })],
    nextStream := (id + 1) % 2 ^ 32 } }

/-- STREAM_OPEN (R211, R212). Where no sub-client record is left the stream opens without one (assumption log 17); its reference buffers lie together in the partition's DRAM, and no such place ends BUDGET_EXCEEDED (assumption log 16). -/
def bodyStreamOpen (s : State) (fl : Flight) : State :=
  let pk := fl.pk
  let p := pk.fn.val
  let x := pkStream pk
  if !((List.range 4).any s.clusterServes) ∨ s.trackers = [] then s.endWith fl stUnavailable
  else if 64 ≤ pkF pk 31 1 then s.endWith fl stBadField 31
  else if streamRanges x = false then s.endWith fl stStreamUnsupported
  else
    match s.pipeAt p x.pipeline with
    | none => s.endWith fl stBadHandle
    | some pipe =>
      if pipe.page then s.endWith fl stBadHandle
      else
        match s.pickCluster, s.pickTracker with
        | some k, some t =>
          if 1024 ≤ (s.media.streams.filter (fun e => decide (e.2.st ≠ .closed))).length then s.endWith fl stStreamLimit
          else if 2 ^ 28 * (s.partAt p).dram < s.dramUse p + s.reserved p 4 + x.refBytes then s.endWith fl stBudgetExceeded
          else match s.dramPlace p x.refBytes with
            | none => s.endWith fl stBudgetExceeded
            | some a => (s.addStream pk k t a).endPacket fl { status := stOk, c0 := s.media.nextStream }
        | _, _ => s.endWith fl stStreamLimit

/-! ### The order of a stream's packets (R210, R312) -/

/-- Whether an earlier packet of the same stream, of opcodes a test picks, is in progress. -/
def State.streamBusy (s : State) (fl : Flight) (pick : Nat → Bool) : Bool :=
  s.cp.flight.any (fun y => decide (y.id < fl.id) && decide (y.pk.fn = fl.pk.fn) && pick y.pk.opcode &&
    pkF y.pk 16 4 == pkF fl.pk 16 4 && decide (y.wait ≠ .header))

/-- A stream of a partition that is not closed. -/
def State.openStream (s : State) (p sid : Nat) : Option Stream :=
  match s.streamAt sid with
  | some x => if x.part = p ∧ x.st ≠ .closed then some x else none
  | none => none

/-- Whether a draining or resetting close of the stream is in progress. -/
def isClose (op : Nat) : Bool := op == 0x0305
def isReset (op : Nat) : Bool := op == 0x0304
def isFlush (op : Nat) : Bool := op == 0x0303
def isFeed (op : Nat) : Bool := op == 0x0302

/-! ### FEED (R210, R213) -/

/-- A FEED that may start: a buffer is taken and its bytes are read (R213, R349). -/
def startFeed (s : State) (fl : Flight) : State :=
  let pk := fl.pk
  let p := pk.fn.val
  let sid := pkF pk 16 4
  let n := pkF pk 20 4
  match s.openStream p sid with
  | none => s.endWith fl stStreamState
  | some _ =>
    match s.binPick p n with
    | .error i => s.countEmpty.endWith fl stBinEmpty i
    | .ok k =>
      let s := (s.takeDevice k).setStream sid (fun x => { x with
        feeds := x.feeds ++ [{ id := fl.id, buf := k, len := n, pts := pkF pk 32 8, here := false, taken := false }] })
      s.dmaRead fl (pkF pk 24 8) n true [k]

/-- FEED: held while the stream flushes; after a reset or close in progress it is discarded with STREAM_STATE (R210). -/
def bodyFeed (s : State) (fl : Flight) : State :=
  let n := pkF fl.pk 20 4
  if n = 0 ∨ 67108864 < n then s.endWith fl stBadField 20
  else if (s.openStream fl.pk.fn (pkF fl.pk 16 4)).isNone ∨ s.streamBusy fl (fun o => isReset o || isClose o) = true then
    s.endWith fl stStreamState
  else if s.streamBusy fl isFlush then s.setWait fl (fun y => { y with wait := .drain (streamKey (pkF fl.pk 16 4)) })
  else startFeed s fl

/-- A FEED's bytes are in the bin: the reply, and the low-water alarm of its pipeline looked at (R213, R230). -/
def doneFeed (s : State) (fl : Flight) (data : List Byte) : State :=
  let n := pkF fl.pk 20 4
  let sid := pkF fl.pk 16 4
  let k := fl.aux.headD 0
  match s.streamAt sid with
  | none => (s.returnBuf k).endWith fl stStreamState
  | some x =>
    let s := s.writeOutside (s.bufAddr k) (padTo n data)
    let s := (s.chargeWork fl.pk.fn x.client 13 n).dramTraffic fl.pk.fn x.client 3 true (s.bufAddr k) n
    let s := s.setStream sid (fun x => { x with feeds := x.feeds.map (fun f => if f.id = fl.id then { f with here := true } else f) })
    (s.alarmUpdate x.part x.pipeline).endPacket fl { status := stOk, c0 := n }

/-- A FEED whose read failed: its buffer returns and nothing is delivered (R322). -/
def failFeed (s : State) (fl : Flight) : State :=
  let sid := pkF fl.pk 16 4
  let s := s.returnBuf (fl.aux.headD 0)
  (s.setStream sid (fun x => { x with feeds := x.feeds.filter (fun f => f.id != fl.id) })).endWith fl stHostFault

/-! ### Reset, flush and close (R210, R237, R239) -/

/-- A TRACK_EVENT record's bytes 8 to 63 (R246). -/
def trackBody (sid pic : Nat) (event reason : Nat) (t : Track) : List Byte :=
  padTo 56 (natLE 4 sid ++ natLE 4 pic ++ natLE 4 t.id ++ natLE 1 event ++ natLE 1 reason ++ natLE 2 t.cls ++ natLE 4 t.hits ++
    natLE 4 t.age ++ t.box.flatMap (natLE 2) ++ natLE 4 (ofSigned 32 (t.v.getD 0 0)) ++ natLE 4 (ofSigned 32 (t.v.getD 1 0)))

/-- A record of a stream's track processor. -/
def tpRec (x : Stream) (sid type : Nat) (body : List Byte) : Rec :=
  { type := BitVec.ofNat 8 type, prio := x.prio, body, prod := .tp (Fin.ofNat 4 x.tp), obj := streamKey sid }

/-- Every confirmed track of a stream ends with a reason, its END record carrying the last FRAME's PIC_SEQ; tentative ones go (R237, R246). -/
def State.endTracks (s : State) (sid reason : Nat) : State :=
  match s.streamAt sid with
  | none => s
  | some x =>
    let s := (x.tracks.filter (·.confirmed)).foldl (fun s t => s.commit x.part (tpRec x sid 3 (trackBody sid x.lastPic 4 reason t))) s
    s.setStream sid (fun x => { x with tracks := [] })

/-- Snapshot requests whose picture is gone are reported: MISSED where no JPEG was made, else the JPEG itself; a picture still waiting to be output never is (R239, R247). -/
def State.reportSnaps (s : State) (sid : Nat) (gone : Snap → Bool) : State :=
  match s.streamAt sid with
  | none => s
  | some x =>
    let s := (x.snaps.filter gone).foldl (fun s q =>
      let q := if x.pics.any (fun p => q.target == some p.decSeq && !p.output) then { q with order := noPic } else q
      match q.ready with
      | some (st, h, n) => s.commitSnap x sid q st h n
      | none => s.commitSnap x sid q stSnapshotMissed 0 0) s
    s.setStream sid (fun x => { x with snaps := x.snaps.filter (fun q => !gone q) })

/-- A stream's pending bytes and pictures are discarded, its units released, its tracks ended and its windows emptied; it is SEEKING again (R209, R210). -/
def State.resetStream (s : State) (sid reason : Nat) : State :=
  match s.streamAt sid with
  | none => s
  | some x =>
    let s := x.pics.foldl (fun s p => match p.stage with
      | .dispatched e => s.setCluster x.cluster (fun c => { c with busy := c.busy &&& ~~~(BitVec.ofNat 10 (2 ^ e)) })
      | _ => s) s
    let s := (x.feeds.filter (·.here)).foldl (fun s f => s.returnBuf f.buf) s
    let s := s.reportSnaps sid (fun q => q.taken || (match q.target with
      | some d => decide (d < x.nextDec)
      | none => false))
    let s := s.endTracks sid reason
    let mine := s.clipsOf sid
    let s := mine.foldl (fun s c => { s with media := { s.media with
      clips := tmod none s.media.clips c (fun o => o.map (fun k => { k with
        todo := none, input := none,
        firstPic := if x.pics.any (fun p => p.decSeq == k.firstDec && !p.output) then noPic else k.firstPic })) } }) s
    let s := (List.range 3).foldl (fun s e => if (tget none s.media.enBusy e).any (fun b => b.1 == sid) then s.freeEncoder e else s) s
    let units := (s.media.crops.filter (fun e => !e.2.lines && e.2.obj == sid)).flatMap (fun e => e.2.units)
    let s := { s with media := { s.media with
      crops := s.media.crops.filter (fun e => e.2.lines || e.2.obj != sid),
      ppBusy := units.foldl (fun b u => b &&& ~~~(BitVec.ofNat 8 (2 ^ u))) s.media.ppBusy } }
    let s := (s.dropEntries (fun b e => b.kind == 0 && e.1 == sid)).dropWindows false sid
    s.setStream sid (fun x => { x with
      st := .seeking, back := .seeking, pics := [], dpb := [], raslOut := false, recovery := none, parsed := 0, flushed := 0,
      feeds := x.feeds.filter (fun f => !f.here) })

/-- A stream is CLOSED: its sessions and requests end, its reference buffers and record go (R210, R214). -/
def State.closeStream (s : State) (sid : Nat) : State :=
  match s.streamAt sid with
  | none => s
  | some x =>
    let s := (s.clipsOf sid).foldl (fun s c => s.endClip c) s
    let s := s.reportSnaps sid (fun _ => true)
    let s := (s.dropWindows false sid).dropClient x.client
    { s with media := { s.media with streams := ndel s.media.streams sid } }

/-- Pictures a reset would discard: those not output (R209). -/
def Stream.toDiscard (x : Stream) : Nat := (x.pics.filter (fun p => !p.output)).length

/-- A STREAM_RESET, or a STREAM_CLOSE with DRAIN = 0, whose turn has come. -/
def startReset (s : State) (fl : Flight) : State :=
  let sid := pkF fl.pk 16 4
  match s.openStream fl.pk.fn sid with
  | none => s.endWith fl stStreamState
  | some x =>
    if isClose fl.pk.opcode then ((s.resetStream sid 2).closeStream sid).endWith fl stOk
    else (s.resetStream sid 1).endPacket fl { status := stOk, c0 := x.toDiscard }

/-- A STREAM_FLUSH, or a draining STREAM_CLOSE, whose turn has come: FLUSHING, its pictures' batches issued (R210, R228). -/
def startFlush (s : State) (fl : Flight) : State :=
  let sid := pkF fl.pk 16 4
  match s.openStream fl.pk.fn sid with
  | none => s.endWith fl stStreamState
  | some x =>
    let s := s.setStream sid (fun x => { x with st := .flushing, back := x.st, flushed := 0 })
    let s := s.setWait fl (fun y => { y with wait := .drain (streamKey sid), aux := [streamKey sid, 1] })
    s.flushBatches x.part x.pipeline sid

/-- STREAM_FLUSH, STREAM_RESET and STREAM_CLOSE: each waits for earlier packets of its stream (R210, R312). -/
def bodyStreamEnd (s : State) (fl : Flight) : State :=
  let op := fl.pk.opcode
  let sid := pkF fl.pk 16 4
  if isClose op ∧ 1 < pkF fl.pk 20 1 then s.endWith fl stBadField 20
  else if (s.openStream fl.pk.fn sid).isNone ∨ s.streamBusy fl isClose = true then s.endWith fl stStreamState
  else if s.streamBusy fl (fun o => isFeed o || isFlush o || isReset o) then
    s.setWait fl (fun y => { y with wait := .drain (streamKey sid), aux := [streamKey sid, 0] })
  else if isFlush op ∨ (isClose op ∧ pkF fl.pk 20 1 = 1) then startFlush s fl
  else startReset s fl

/-- STREAM_FLUSH (R210). -/
def bodyStreamFlush (s : State) (fl : Flight) : State := bodyStreamEnd s fl
/-- STREAM_RESET (R210). -/
def bodyStreamReset (s : State) (fl : Flight) : State := bodyStreamEnd s fl
/-- STREAM_CLOSE (R210). -/
def bodyStreamClose (s : State) (fl : Flight) : State := bodyStreamEnd s fl

/-- Whether a flushing stream has output everything it was fed (R210). -/
def Stream.drained (x : Stream) : Bool := x.feeds.all (·.here) && decide (x.unparsed = 0) && x.pics.all (·.output)

/-- A flush that has emptied the stream waits for its records; a draining close ends the tracks first (R237, R313). -/
def flushEmptied (s : State) (fl : Flight) (x : Stream) : State :=
  let sid := pkF fl.pk 16 4
  let s := if isClose fl.pk.opcode then s.endTracks sid 2 else s
  s.setWait fl (fun y => { y with wait := .records x.flushed })

/-- A flush or close whose records are in the host ring: its state ends and it replies (R210, R313). -/
def finishFlush (s : State) (fl : Flight) (n : Nat) : State :=
  let sid := pkF fl.pk 16 4
  let s := if isClose fl.pk.opcode then s.closeStream sid else s.setStream sid (fun x => { x with st := x.back })
  s.endPacket fl { status := stOk, c0 := n }

/-! ### SNAPSHOT, CLIP_START, CLIP_STOP, ENCODE_KEY (R239 to R241) -/

/-- Whether encoder e (0 EN0, 1 EN1, 2 snapshot) is in service. -/
def State.encoderServes (s : State) (e : Nat) : Bool := s.media.enService.getLsbD e && !(s.domAt 25).switchedOff

/-- Whether a picture has already been dispatched, or passed over, when a SNAPSHOT names it (R239). -/
def Stream.passed (x : Stream) (d : Nat) : Bool :=
  decide (d < x.nextDec) && (match x.picAt d with
    | some p => decide (p.stage ≠ .parsed)
    | none => true)

/-- SNAPSHOT (R239). -/
def bodySnapshot (s : State) (fl : Flight) : State :=
  let pk := fl.pk
  let sid := pkF pk 16 4
  let d := pkF pk 20 4
  if s.encoderServes 2 = false then s.endWith fl stUnavailable
  else match fieldCheck [(24, decide (1 ≤ pkF pk 24 1 ∧ pkF pk 24 1 ≤ 100)), (25, decide (pkF pk 25 1 ≤ 1))] with
  | some a => s.endPacket fl a
  | none =>
    match s.openStream pk.fn sid with
    | none => s.endWith fl stStreamState
    | some x =>
      if d ≠ noPic ∧ x.passed d = true then s.endWith fl stSnapshotMissed
      else if 16 ≤ (x.snaps.filter (fun q => q.kind != 4)).length then s.endWith fl stInflightLimit
      else
        (s.setStream sid (fun x => { x with snaps := x.snaps ++ [{
          tag := pkTag pk, target := if d = noPic then none else some d, quality := pkF pk 24 1, whole := decide (pkF pk 25 1 = 1),
          box := (List.range 4).map (fun i => pkF pk (28 + 2 * i) 2), kind := if pkF pk 25 1 = 1 then 1 else 2, track := 0,
          prio := pkPriority pk, taken := false, order := noPic, ready := none }] })).endWith fl stOk

/-- The field ranges of CLIP_START, in byte order (R240, R322). -/
def clipChecks (pk : Packet) : Option Ans :=
  let mode := pkF pk 22 1
  let gop := pkF pk 28 2
  fieldCheck [(20, decide (pkF pk 20 1 ≤ 1)), (21, decide (pkF pk 21 1 ≤ 2)), (22, decide (mode ≤ 1)),
    (24, decide (4096 ≤ pkF pk 24 4 ∧ pkF pk 24 4 ≤ 4194304)),
    (28, if mode = 0 then decide (1 ≤ gop ∧ gop ≤ 1024) else decide (2 ≤ gop ∧ gop ≤ 128)),
    (30, decide (pkF pk 30 2 ≤ 9000))]

/-- The session a CLIP_START describes (R240). -/
def pkClip (pk : Packet) : Clip :=
  { stream := pkF pk 16 4, tag := pkTag pk, codec := pkF pk 20 1, scale := pkF pk 21 1, mode := pkF pk 22 1, bits := pkF pk 24 4,
    gop := pkF pk 28 2, left := pkF pk 30 2, until_ := decide (pkF pk 30 2 = 0), key := false, fresh := true, count := 0, sweep := 0,
    group := 0, groupBits := 0, plan := { idr := true, intra := (0, 0), vectors := 0, recovery := none }, input := none, chunk := 0,
    bytes := [], firstPic := 0, firstDec := 0, idr := false, stopping := false, chunks := 0, todo := none, prio := pkPriority pk }

/-- The lowest free session of the encoders in service (R240; assumption log 16). -/
def State.lowestSession (s : State) : Option Nat :=
  (List.range 32).find? (fun c => s.encoderServes (c / 16) && (tget none s.media.clips c).isNone)

/-- CLIP_START: the lowest free session (R240; assumption log 16). -/
def bodyClipStart (s : State) (fl : Flight) : State :=
  let pk := fl.pk
  if (List.range 2).all (fun e => !s.encoderServes e) then s.endWith fl stUnavailable
  else match clipChecks pk with
  | some a => s.endPacket fl a
  | none =>
    match s.openStream pk.fn (pkF pk 16 4) with
    | none => s.endWith fl stStreamState
    | some _ =>
      match s.lowestSession with
      | none => s.endWith fl stEncoderBusy
      | some c => ({ s with media := { s.media with clips := tput none s.media.clips c (some (pkClip pk)) } }).endPacket fl { status := stOk, c0 := c }

/-- The session a packet names: open in the partition, on the stream it names (R317). -/
def State.namedClip (s : State) (pk : Packet) : Option Clip :=
  match tget none s.media.clips (pkF pk 20 1) with
  | some k => if k.stream = pkF pk 16 4 ∧ (s.openStream pk.fn k.stream).isSome = true then some k else none
  | none => none

/-- CLIP_STOP: the session ends after the picture in progress; the reply waits for its last chunk's record (R240, R313). -/
def bodyClipStop (s : State) (fl : Flight) : State :=
  let c := pkF fl.pk 20 1
  if (s.openStream fl.pk.fn (pkF fl.pk 16 4)).isNone then s.endWith fl stStreamState
  else match s.namedClip fl.pk with
  | none => s.endWith fl stBadHandle
  | some k =>
    if k.todo.isSome then
      ({ s with media := { s.media with clips := tput none s.media.clips c (some { k with stopping := true }) } }).setWait fl
        (fun y => { y with wait := .drain (clipKey c), aux := [clipKey c, 1] })
    else
      let n := k.chunks + b2n (!k.bytes.isEmpty)
      (s.endClip c).setWait fl (fun y => { y with wait := .records n, aux := [clipKey c, 1] })

/-- ENCODE_KEY: the next picture is a key picture, or starts a sweep (R241). -/
def bodyEncodeKey (s : State) (fl : Flight) : State :=
  let c := pkF fl.pk 20 1
  if (s.openStream fl.pk.fn (pkF fl.pk 16 4)).isNone then s.endWith fl stStreamState
  else match s.namedClip fl.pk with
  | none => s.endWith fl stBadHandle
  | some k => ({ s with media := { s.media with clips := tput none s.media.clips c (some { k with key := true }) } }).endWith fl stOk

end Sys2Proof.Machine
end

