-- ==== Sys2Proof/Machine/PageBody.lean ====
section
/-! DEFINITION. The page packets (R251 to R254) and the end of a page (R271, R294), with the quantising of a page's detector picture (R53, R262, R263). -/

namespace Sys2Proof.Machine

/-! ### The end of a page -/

/-- A PAGE record's bytes 8 to 63 (R271). -/
def pageRecBody (g : Page) (status : Nat) : List Byte :=
  let aug := decide (g.augMask ≠ 0)
  padTo 56 (natLE 4 g.tag ++ natLE 4 g.source ++ natLE 2 status ++ natLE 1 g.format ++
    natLE 1 (b2n g.endOfData + 2 * b2n g.dataError + 4 * b2n g.capped + 8 * b2n aug + 16 * b2n g.multipass) ++
    natLE 2 g.w ++ natLE 2 g.h ++ natLE 2 g.rows ++ natLE 2 g.lines.length ++ natLE 2 g.nFields ++ natLE 2 g.nChunks ++
    natLE 1 g.e ++ [0, 0, 0] ++ natLE 4 g.clamps ++ natLE 4 (min g.cycles (2 ^ 32 - 1)) ++ natLE 4 g.dataBytes ++
    natLE 8 (if aug then g.augSeed else 0))

/-- A lane busy with a band (R273). -/
def State.setLane (s : State) (l : Nat) : State := { s with media := { s.media with pgBusy := s.media.pgBusy ||| BitVec.ofNat 4 (2 ^ l) } }

/-- A page's lane released. -/
def State.freeLane (s : State) (g : Page) : State :=
  match g.lane with
  | some l => { s with media := { s.media with pgBusy := s.media.pgBusy &&& ~~~(BitVec.ofNat 4 (2 ^ l)) } }
  | none => s

/-- A buffer that may still be held returns to its bin. -/
def State.returnOpt (s : State) : Option Nat → State
  | some k => s.returnBuf k
  | none => s

/-- The page's buffers that a page still holds return to their bins. -/
def State.freePageInput (s : State) (g : Page) : State := (s.returnOpt g.inBuf).returnOpt g.workBuf

/-- A page ends: its buffers return, the Binder hands over its PAGE record, until whose writing the page stays in flight, and its source counts it (R254, R271, R294).
`whole` says it went through its complete pipeline and counts as a result (R6, R198). -/
def State.endPage (s : State) (n status : Nat) (whole : Bool) : State :=
  match s.pageAt n with
  | none => s
  | some g =>
    let s := ((s.freePageInput g).returnOpt g.pageBuf).freeLane g
    let units := (s.media.crops.filter (fun e => e.2.lines && e.2.obj == n)).flatMap (fun e => e.2.units)
    let s := { s with media := { s.media with
      crops := s.media.crops.filter (fun e => !e.2.lines || e.2.obj != n),
      ppBusy := units.foldl (fun b u => b &&& ~~~(BitVec.ofNat 8 (2 ^ u))) s.media.ppBusy,
      sources := nmod s.media.sources g.source (fun x => { x with completed := x.completed + 1 }),
      pages := ndel s.media.pages n } }
    let s := { s with text := { s.text with reads := s.text.reads.filter (fun e => e.2.page != n) } }
    let s := s.dropEntries (fun b e => b.kind != 0 && e.1 == n)
    let s := if whole then s.chargeWork g.part g.client 15 1 else s
    s.commit g.part { type := 5, prio := g.prio, body := pageRecBody g status, prod := .binder, obj := sourceKey g.source }

/-! ### The detector picture of a page quantised (R53, R54, R262, R263) -/

/-- Whether a page waits for an earlier page of its source to record its statistic (R53). -/
def State.pageHeld (s : State) (n : Nat) (g : Page) : Bool :=
  s.media.pages.any (fun e => decide (e.1 < n) && e.2.source == g.source && !e.2.prepared &&
    decide (e.2.stage = .copying ∨ e.2.stage = .accepted ∨ e.2.stage = .decoding ∨ e.2.stage = .decoded))

/-- The exponent of a page's network input (R49 to R51, R54). -/
def State.pageExp (s : State) (n : Nat) (g : Page) (folio w : Nat) : Nat :=
  match s.netInput g.part folio with
  | none => 0
  | some (t, img, d) =>
    if d.scaleMode = 2 then windowExp img d [g.stat]
    else windowExp img d (s.windowBefore true g.source folio t (instOrder n 0) w)

/-- A prepared page quantised: its exponent and clamps are known, and it joins a detection batch (R47, R157, R263). -/
def State.quantisePage (s : State) (n : Nat) (g : Page) (x : Pipeline) : State :=
  let e := s.pageExp n g x.detFolio (((s.sourceAt g.source).map (·.window)).getD 8)
  let k := match s.netInput g.part x.detFolio with
    | none => 0
    | some (_, img, d) =>
      let a := (g.samples.map List.toArray).toArray
      (inputCodes img d e (regroupAt g.regroup x.ha x.wa (chanCount x.channels) (fun i c => ((a.getD c #[]).getD i none).getD x.pad))).2
  let s := s.chargeWork g.part g.client 10 (((s.netInput g.part x.detFolio).map (fun o => o.2.2.homeBytes)).getD 0)
  let j := s.joinBatch x 1 g.prio (n, 0)
  let s := j.1.setPage n (fun g => { g with e, clamps := g.clamps + k, quantised := true, batch := j.2 + 1, stage := .detecting })
  ((s.issueReady g.part x.handle).alarmUpdate g.part x.handle).sweepBatches

/-- A page looked at: quantised when it is prepared and nothing holds it. -/
def State.tryQuantise (s : State) (n : Nat) : State :=
  match s.pageAt n with
  | none => s
  | some g =>
    match s.pagePipe g with
    | none => s
    | some x =>
      let mode := s.inputMode g.part x.detFolio
      if g.prepared = false ∨ g.quantised = true ∨ (mode = 1 ∧ s.pageHeld n g = true) then s else s.quantisePage n g x

/-- Every page that waits to be quantised looked at, in submission order (R53). -/
def State.quantisePages (s : State) : State :=
  ((s.media.pages.filter (fun e => e.2.prepared && !e.2.quantised)).map (·.1)).foldl State.tryQuantise s

/-! ### Reads and the end of a page's reading (R158, R282, R286, R294) -/

/-- A new read of a line at its grammar's start state (R282). -/
def newRead (part page line batch start : Nat) : Read :=
  { part, page, line, batch, state := start, tokens := [], pend := [], pendAt := 0, win := [], outLen := 0, chunk := [], chunkIdx := 0,
    chunkAt := 0, chunkTokens := 0, chunkMargin := 65535, replaced := false, fields := [], maskAsked := false, maskReady := false,
    released := true, stepped := false, late := false, ended := false, status := stOk, final := start }

/-- Reads of a batch. -/
def State.readsOf (s : State) (n : Nat) : List (Nat × Read) := s.text.reads.filter (fun e => e.2.batch == n)

/-- The start state of a pipeline's grammar, 0 without one (R279, R283). -/
def State.startState (s : State) (x : Pipeline) : Nat := ((s.tableAt 1 x.part x.grammar).map (fun t => gStart t.image)).getD 0

/-- The reads of a recogniser batch begun, one for each line whose page is still in flight (R282). -/
def State.beginReads (s : State) (n : Nat) : State :=
  match s.batchAt n with
  | none => s
  | some b =>
    if b.kind ≠ 2 ∨ (s.readsOf n).isEmpty = false then s
    else
      let start := ((s.pipeAt b.part b.pipeline).map s.startState).getD 0
      let l := b.entries.filter (fun e => (s.pageAt e.1).isSome)
      { s with text := { s.text with
        reads := s.text.reads ++ l.zipIdx.map (fun (e : (Nat × Nat) × Nat) => (s.text.nextRead + e.2, newRead b.part e.1.1 e.1.2 n start)),
        nextRead := s.text.nextRead + l.length } }

/-- A read changed. -/
def State.setRead (s : State) (k : Nat) (f : Read → Read) : State :=
  { s with text := { s.text with reads := nmod s.text.reads k f } }

/-- The status of a page all of whose reads have ended: a decode status stands, else that of the lowest line that ended badly (R294). -/
def pageStatus (g : Page) (reads : List Read) : Nat :=
  if g.status ≠ 0 then g.status
  else
    ((List.range g.lines.length).findSome? (fun i =>
      (reads.find? (fun r => r.line == i && r.status != stOk && r.status != stStopMatched)).map (·.status))).getD stOk

/-- Whether a line that ended with a status still counts its page as a result: it was read, if only to its limit or with bytes replaced (R6). -/
def wholeStatus (st : Nat) : Bool := st == stOk || st == stStopMatched || st == stTokenLimit || st == stInvalidUtf8

/-- A page whose every line has been read ends with its PAGE record (R294); it counts as a result where no line's read failed, whole or truncated (R6, R158). -/
def State.pageRead (s : State) (n : Nat) : State :=
  match s.pageAt n with
  | none => s
  | some g =>
    let reads := (s.text.reads.filter (fun e => e.2.page == n)).map (·.2)
    if g.stage ≠ .reading ∨ (List.range g.lines.length).all (fun i => reads.any (fun r => r.line == i && r.ended)) = false then s
    else s.endPage n (pageStatus g reads) ((g.status == stOk || g.status == stImageTruncated) && reads.all (fun r => wholeStatus r.status))

/-- A read's end taken over by its page: the clamps of its instance counted (R56, R157), and the page ended when it was the last. -/
def State.readOver (s : State) (r i : Nat) (x : Read) : State :=
  let k := ((s.runAt r).bind (fun y => y.instances[i]?)).map (·.clamps)
  (s.setPage x.page (fun g => { g with clamps := g.clamps + k.getD 0 })).pageRead x.page

/-- A recogniser run that has finished ends the reads whose results a failed quire takes, with its status and no further record (R158). -/
def State.failReads (s : State) (r : Nat) : State :=
  match s.runAt r, s.media.batches.find? (fun e => e.2.kind == 2 && e.2.run == r + 1) with
  | some y, some b =>
    if (y.status = 0 ∧ y.failed = []) ∨ s.runFinished r = false then s
    else
      let s := s.beginReads b.1
      let place := fun (x : Read) => (b.2.entries.zipIdx.find? (fun (z : (Nat × Nat) × Nat) => z.1 == (x.page, x.line))).map (·.2) |>.getD 0
      ((s.readsOf b.1).filter (fun e => !e.2.ended && decide (s.instStatus r (place e.2) ≠ 0))).foldl (fun s e =>
        (s.setRead e.1 (fun x => { x with ended := true, status := s.instStatus r (place e.2) })).readOver r (place e.2) e.2) s
  | _, _ => s

/-! ### PAGE_SOURCE_OPEN, SUBMIT_PAGE, PAGE_SOURCE_CLOSE -/

/-- Whether the page decoder is out of service, so that page packets end UNAVAILABLE (R407, R470). -/
def State.pageDown (s : State) : Bool := decide (s.media.pgService = 0) || (s.domAt 26).switchedOff || s.textDown || s.trackers.isEmpty

/-- The page source a PAGE_SOURCE_OPEN describes, with its accounting record where it asks for one (R198, R251). -/
def State.addSource (s : State) (pk : Packet) : State :=
  let id := s.media.nextSource
  let r := if pkF pk 19 1 = 1 then s.takeClient pk.fn 2 id else (s, 0)
  { r.1 with media := { s.media with
    sources := s.media.sources ++ [(id, ({
      part := pk.fn, pipeline := pkF pk 16 1, window := dflt (pkF pk 17 1) 8, budgetMult := dflt (pkF pk 18 1) 16, client := r.2,
      closing := false, completed := 0 } : Source))],
    nextSource := (id + 1) % 2 ^ 32 } }

/-- PAGE_SOURCE_OPEN. Where no sub-client record is left the source opens without one (assumption log 17). -/
def bodyPageSourceOpen (s : State) (fl : Flight) : State :=
  let pk := fl.pk
  let p := pk.fn.val
  let w := dflt (pkF pk 17 1) 8
  let m := dflt (pkF pk 18 1) 16
  if s.pageDown then s.endWith fl stUnavailable
  else match fieldCheck [(17, decide (1 ≤ w ∧ w ≤ 32)), (18, decide (2 ≤ m ∧ m ≤ 64)), (19, decide (pkF pk 19 1 ≤ 1))] with
  | some a => s.endPacket fl a
  | none =>
    match s.pipeAt p (pkF pk 16 1) with
    | none => s.endWith fl stBadHandle
    | some x =>
      if !x.page then s.endWith fl stBadHandle
      else if 256 ≤ s.media.sources.length ∨ 64 ≤ (s.media.sources.filter (fun e => e.2.part == p)).length then s.endWith fl stSourceLimit
      else
        (s.addSource pk).endPacket fl { status := stOk, c0 := s.media.nextSource }

/-- An open page source of a partition that is not closing. -/
def State.openSource (s : State) (p id : Nat) : Option Source :=
  match s.sourceAt id with
  | some x => if x.part = p ∧ x.closing = false then some x else none
  | none => none

/-- Whether a page with a TAG is in flight in a partition: accepted, and its PAGE record not yet written (R253, R254). -/
def State.tagInFlight (s : State) (p tag : Nat) : Bool :=
  s.media.pages.any (fun e => e.2.part == p && e.2.tag == tag) || (s.pageRecords p).any (fun r => leAt r.body 0 4 == tag)

/-- Densest coding of a format in pixels a byte (R253); a TIFF's compression is not known before its header is parsed, so T.6's applies until then (assumption log 53). -/
def pixelsPerByte (format : Nat) : Nat := if format = 0 then 512 else if format = 1 then 8256 else 65536

/-- The checks of R253 before its buffers, in their order. -/
def State.pageChecks (s : State) (pk : Packet) : Option Ans :=
  let p := pk.fn.val
  let n := pkF pk 20 4
  let w := pkF pk 36 2
  let h := pkF pk 38 2
  if (s.openSource p (pkF pk 16 4)).isNone then some { status := stPageState }
  else if n = 0 ∨ 67108864 < n then some { status := stBadLength }
  else if 2 < pkF pk 32 1 ∨ 63 < pkF pk 33 1 ∨ 63 < pkF pk 34 1 ∨ w = 0 ∨ h = 0 then some { status := stPageUnsupported }
  else if s.tagInFlight p (pkTag pk) then some { status := stPageTagBusy }
  else if 1024 ≤ s.pagesInFlight then some { status := stInflightLimit }
  else if 268435456 < w * h ∨ pixelsPerByte (pkF pk 32 1) * n + 65536 < w * h then some { status := stDimensionsExceed }
  else none

/-- The input and page buffers of a page, or the size index that is empty (R253 step 7). -/
def State.pageBuffers (s : State) (p n px : Nat) : Except Nat (Nat × Nat) :=
  match s.binPick p n with
  | .error i => .error i
  | .ok a =>
    match (s.takeDevice a).binPick p px with
    | .error i => .error i
    | .ok b => .ok (a, b)

/-- The page a SUBMIT_PAGE describes, with its input and page buffers (R252, R254). -/
def pkPage (pk : Packet) (client a b : Nat) : Page :=
  { part := pk.fn, source := pkF pk 16 4, tag := pkTag pk, prio := pkPriority pk, client,
    bytes := pkF pk 20 4, format := pkF pk 32 1, ifd := pkF pk 33 1, augMask := pkF pk 34 1, augSeed := pkF pk 40 8,
    w := pkF pk 36 2, h := pkF pk 38 2, inBuf := some a, pageBuf := some b, workBuf := none, stage := .copying,
    multipass := false, rows := 0, lane := none, status := stOk, endOfData := false, dataError := false,
    capped := false, e := 0, clamps := 0, cycles := 0, dataBytes := 0, nFields := 0, nChunks := 0, lines := [],
    stat := (0, 0), samples := [], regroup := none, prepared := false, quantised := false, batch := 0, crops := [], used := 0, file := none }

/-- SUBMIT_PAGE (R252 to R254): accepted, the file is copied into its input buffer. -/
def bodySubmitPage (s : State) (fl : Flight) : State :=
  let pk := fl.pk
  let p := pk.fn.val
  let n := pkF pk 20 4
  if s.pageDown then s.endWith fl stUnavailable
  else match s.pageChecks pk with
  | some a =>
    (if a.status = stDimensionsExceed then { s with media := { s.media with pgRefused := satAdd 32 s.media.pgRefused 1 } } else s).endPacket fl a
  | none =>
    let src : Option Source := s.openSource p (pkF pk 16 4)
    let client := ((src.map (fun x => x.client)).getD 0 : Nat)
    let pipe := src.bind (fun x => s.pipeAt p x.pipeline)
    let c := chanCount ((pipe.map (·.channels)).getD 0)
    match s.pageBuffers p n (pkF pk 36 2 * pkF pk 38 2 * c) with
    | .error i => s.countEmpty.endWith fl stBinEmpty i
    | .ok (a, b) =>
      let k := s.media.nextPage
      let s := (s.takeDevice a).takeDevice b
      let s := { s with media := { s.media with pages := s.media.pages ++ [(k, pkPage pk client a b)], nextPage := k + 1 } }
      s.dmaRead fl (pkF pk 24 8) n true [k]

/-- A page's file is in the bin: the page waits for the decoder, the low-water alarm is looked at, and the packet replies (R254, R265). -/
def donePage (s : State) (fl : Flight) (data : List Byte) : State :=
  let k := fl.aux.headD 0
  let n := pkF fl.pk 20 4
  match s.pageAt k with
  | none => s.endWith fl stAborted
  | some g =>
    let s := s.writeOutside (s.bufAddr (g.inBuf.getD 0)) (padTo n data)
    let s := (s.chargeWork g.part g.client 13 n).dramTraffic g.part g.client 3 true (s.bufAddr (g.inBuf.getD 0)) n
    let s := s.setPage k (fun g => { g with stage := .accepted })
    (match s.pagePipe g with
      | some x => s.alarmUpdate x.part x.handle
      | none => s).endPacket fl { status := stOk, c0 := n }

/-- A page whose copy failed is not accepted: its buffers return and it has no records (R254, R322). -/
def failPage (s : State) (fl : Flight) : State :=
  let k := fl.aux.headD 0
  match s.pageAt k with
  | none => s.endWith fl stHostFault
  | some g =>
    let s := (s.returnOpt g.inBuf).returnOpt g.pageBuf
    ({ s with media := { s.media with pages := ndel s.media.pages k } }).endWith fl stHostFault

/-- PAGE_SOURCE_CLOSE: no further page is accepted; the reply waits for the last accepted page's record (R251, R272). -/
def bodyPageSourceClose (s : State) (fl : Flight) : State :=
  let id := pkF fl.pk 16 4
  match s.openSource fl.pk.fn id with
  | none => s.endWith fl stPageState
  | some _ =>
    ({ s with media := { s.media with sources := nmod s.media.sources id (fun x => { x with closing := true }) } }).setWait fl
      (fun y => { y with wait := .drain (sourceKey id), aux := [sourceKey id, 1] })

/-- A closing source whose records are in the host ring is gone, and the close replies (R251, R313). -/
def finishSource (s : State) (fl : Flight) (n : Nat) : State :=
  let id := pkF fl.pk 16 4
  let client := ((s.sourceAt id).map (·.client)).getD 0
  let s := (s.dropWindows true id).dropClient client
  ({ s with media := { s.media with sources := ndel s.media.sources id } }).endPacket fl { status := stOk, c0 := n }

end Sys2Proof.Machine
end

