-- ==== Sys2Proof/Machine/Power.lean ====
section
/-! DEFINITION. Units in service and capacity that leaves it (R83, R192, R214, R372, R442, R470, R497), and what a domain loses when its power goes (R402 to R409). -/

namespace Sys2Proof.Machine

/-! ### Effective counts (R497) -/

/-- Engines in service in clusters in service. -/
def State.enginesServing (s : State) : Nat :=
  (((List.range 4).filter s.clusterServes).map (fun k => (bitList 10 (s.clusterAt k).engines.toNat).length)).sum

/-- CORES, ARRAYS and ENGINES brought up to date; they hold their values through a reset and a shutdown. -/
def State.recount (s : State) : State :=
  if !s.dev.tasted || decide (s.dev.stage = .shutdown) || decide (s.dev.stage = .recovery) then s
  else { s with dev := { s.dev with
    cores := s.coresIn.length, arrays := (s.coresIn.map (fun n => (s.coreAt n).arrays)).sum, engines := s.enginesServing } }

/-! ### Firmware receivers and the units they run (R441, R442, R460) -/

/-- The receivers of a domain. -/
def domReceivers (d : Nat) : List Nat :=
  if d = 0 then [0, 1]
  else if 5 ≤ d ∧ d ≤ 12 then [11 + (d - 5)]
  else if 21 ≤ d ∧ d ≤ 24 then (2 + (d - 21)) :: (List.range 10).map (fun i => 19 + 10 * (d - 21) + i)
  else if d = 28 then [6, 7, 8, 9]
  else if d = 29 then [10]
  else []

/-- Receivers put back into reset with nothing retained. -/
def State.dropImages (s : State) (rs : List Nat) : State :=
  { s with mgt := { s.mgt with receivers := s.mgt.receivers.filter (fun e => !rs.contains e.1) } }

/-- Whether the fuses leave engine i of cluster k (R473). -/
def State.engineFused (s : State) (k i : Nat) : Bool := bitOf s.dev.fuses.engineMask (10 * k + i)

/-- Engines a cluster may use: not fused, not listed, its own firmware running (R250, R442, R470). -/
def State.engineMap (s : State) (k : Nat) : Nat :=
  packBits ((List.range 10).map (fun i =>
    !s.engineFused k i && !s.defectSub 3 k i && !s.defectUnit 4 k && s.fwUp (19 + 10 * k + i)))

/-- The enabled arrays of a core: fuses and defects take an array with its pair partner (R3, R83, R465). -/
def State.arraysLeft (s : State) (n : Nat) : Nat :=
  let down := fun (i : Nat) => bitOf s.dev.fuses.arrayMask (4 * n + i) || s.defectSub 1 n i
  packBits ((List.range 4).map (fun i => !down i && !down (i / 2 * 2 + (1 - i % 2))))

/-- The arrays of a core that the defect list disables, each with its pair partner (R3, R83). -/
def State.defectMask (s : State) (n : Nat) : Nat :=
  packBits ((List.range 4).map (fun i => s.defectSub 1 n i || s.defectSub 1 n (i / 2 * 2 + (1 - i % 2))))

/-- Whether a core may serve: arrays left, its RAM good, its sequencer running, not released for heat, not removed under R71, its domains not switched off (R71, R202, R414, R442, R470). -/
def State.coreServes (s : State) (n : Nat) : Bool :=
  decide ((s.coreAt n).enabled ≠ 0) && !s.defectUnit 2 n && s.fwUp (11 + n) && !s.pwr.released.contains n &&
  !(s.domAt (5 + n)).switchedOff && !(s.domAt (13 + n)).switchedOff && !s.dev.arrayOut.any (fun a => a / 4 == n)

/-- The registers that show which processors run and which engines serve (R250, R300, R501). -/
def State.syncUp (s : State) : State :=
  let s := (List.range 4).foldl (fun s k => s.setCluster k (fun c => { c with
    up := s.fwUp (2 + k), engines := BitVec.ofNat 10 (s.engineMap k) })) s
  { s with media := { s.media with tkUp := BitVec.ofNat 4 (packBits ((List.range 4).map (fun k => s.fwUp (6 + k)))) },
           text := { s.text with binderUp := s.fwUp 10 } }

/-- The units the defect list leaves in service (R470), as the tasting finds them. -/
def State.unitsServing (s : State) : State :=
  let mask := fun (kind n : Nat) => packBits ((List.range n).map (fun i => !s.defectUnit kind i))
  let s := (List.range 8).foldl (fun s n => s.setCore n (fun c => { c with
    fuse := (s.dev.fuses.arrayMask / 16 ^ n) % 16, defect := s.defectMask n, enabled := s.arraysLeft n, tasted := true })) s
  { s with
    media := { s.media with
      enService := BitVec.ofNat 3 (mask 8 3), ppService := BitVec.ofNat 8 (mask 6 8), tkService := BitVec.ofNat 4 (mask 5 4),
      pgService := BitVec.ofNat 4 (mask 7 4) },
    text := { s.text with service := !s.dev.defects.any (fun d => d.1 == 9) } }

/-! ### Streams of a cluster that leaves service (R214, R248) -/

/-- A header processor's EVENT for a stream, at the priority of its class (R328). -/
def State.hpEvent (s : State) (k sid code arg0 arg1 : Nat) : State :=
  match s.streamAt sid with
  | none => s
  | some x => s.commit x.part { type := 9, prio := x.prio, body := eventBody code 2 sid arg0 arg1 0, prod := .hp (Fin.ofNat 4 k), obj := 0 }

/-- One stream rebound and reset, or dropped where no cluster remains. -/
def State.rebind (s : State) (k sid : Nat) : State :=
  match s.pickCluster with
  | some j =>
    let s := s.resetStream sid 1
    let s := s.setStream sid (fun x => { x with cluster := j })
    s.hpEvent j sid 0x0484 k j
  | none => ((s.resetStream sid 1).hpEvent k sid 0x0485 k 0).closeStream sid

/-- The streams of a cluster that no longer serves, in ascending STREAM_ID. -/
def State.leaveCluster (s : State) (k : Nat) : State :=
  if s.clusterServes k then s
  else ((s.clusterStreams k).map (·.1)).foldl (fun s sid => s.rebind k sid) s

/-! ### Cores that leave service (R192, R195, R414, R442) -/

/-- What a core store held is lost: moves from it and into it stop, copies go, other tensors are lost for good (R177, R192, R402). -/
def State.loseStore (s : State) (n : Nat) : State :=
  let s := s.stopMoves (fun t h => atCore n t.home || atCore n h)
  let s := s.freeTensors (fun t => atCore n t.home && s.copies t)
  let gone := (s.cel.tensors.filter (fun e => atCore n e.2.home)).map (·.1)
  let s := gone.foldl (fun s k => s.setTensor k (fun t => { t with lost := true })) s
  let s := s.lose (coreBase n) (coreBase n + 0x02000000)
  { s with mem := { s.mem with zero := s.mem.zero.filter (fun z => !gone.contains z.1) } }

/-- Zero-map bits of the tensors kept in a core store, cleared (R403). -/
def State.dropZero (s : State) (n : Nat) : State :=
  { s with mem := { s.mem with zero := s.mem.zero.filter (fun z => match s.tensorAt z.1 with
      | some t => !atCore n t.home
      | none => true) } }

/-- A core leaves service: `abandon` stops its quire first, `lose` takes its store with it; its partition refills (R192, R195). -/
def State.removeCore (s : State) (n : Nat) (abandon lose : Bool) : State :=
  let u := (s.coreAt n).user
  let s := s.setCore n (fun c => { c with out := true, owner := 0 })
  let s := if abandon then s.stopQuire n 4 else s
  let s := if lose then s.loseStore n else s
  let s := if u = 0 then (s.returnQueue n).setCore n (fun c => { c with preempt := none }) else s.startLeave u n
  s.refillAll.recount

/-- A core that serves again comes back to the pool, and partitions below CORES_MIN take it (R193, R195, R414). -/
def State.returnCore (s : State) (n : Nat) : State :=
  if (s.coreAt n).out ∧ s.coreServes n = true then
    (s.setCore n (fun c => { c with out := false, owner := 0 })).refillAll.recount
  else s

/-! ### Channels that fail (R372) -/

/-- A channel becomes FAILED: logged, and reported to every enabled result queue. -/
def State.failChannel (s : State) (c : Nat) : State :=
  let s := s.setChan c (fun x => { x with st := .failed, queue := [], replays := 0 })
  let s := s.log 0x0781 2 6 c c
  ((List.range 9).filter (fun f => (s.resAt f).enable)).foldl (fun s f => s.mpEventTo f 0x0781 0 c 0) s

/-! ### Thermal thresholds (R413) -/

/-- A threshold of PWR_THERM_CTRL in 0.25 °C: byte i, T_WARN lowest. -/
def State.threshold (s : State) (i : Nat) : Int := 4 * ((bitsOf s.pwr.thermCtrl.toNat (8 * i) 8 : Nat) : Int)

/-- Whether thresholds increase in their order and T_SHUTDOWN is at most 110 °C. -/
def thresholdsOk (v : BitVec 32) : Bool :=
  let b := fun (i : Nat) => bitsOf v.toNat (8 * i) 8
  decide (b 0 < b 1) && decide (b 1 < b 2) && decide (b 2 < b 3) && decide (b 3 ≤ 110)

/-- THERMAL_WARN logged and reported when Tj reaches T_WARN, THERMAL_CLEAR when it falls below T_WARN − 5 °C (R413, R433). -/
def State.thermWarn (s : State) : State :=
  let tw := s.threshold 0
  let arg := ofSigned 64 s.pwr.tj
  if tw ≤ s.pwr.tj ∧ !s.pwr.warned then
    let s := { s with pwr := { s.pwr with warned := true } }
    (s.log 0x0881 1 8 0xFFFF arg).mgtEvent 0x0881 0 arg (bitsOf s.pwr.thermCtrl.toNat 0 8) true
  else if s.pwr.tj < tw - 20 ∧ s.pwr.warned then
    ({ s with pwr := { s.pwr with warned := false } }).mgtEvent 0x0882 0 arg 0 true
  else s

/-! ### What power takes away (R402 to R409) -/

/-- A domain's contents outside its retained RAM are lost: sleep (R403). -/
def State.sleepLoss (s : State) (d : Nat) : State :=
  if d = 4 then
    (s.freeTensors (fun t => decide (t.home = .cellar) && s.copies t)).lose cellarBase (cellarBase + 0x04000000)
  else if 5 ≤ d ∧ d ≤ 12 then (s.setCore (d - 5) Core.clear).dropZero (d - 5)
  else if 1 ≤ d ∧ d ≤ 3 then
    (List.range 4).foldl (fun s i => s.setChan (4 * (d - 1) + i) (fun c =>
      if c.st = .ready ∨ c.st = .hold then { c with selfRefresh := true, powerDown := (false, false) } else c)) s
  else s

/-- A domain's contents are lost whole: OFF (R402). Its firmware is delivered again before it serves (R407). -/
def State.offLoss (s : State) (d : Nat) : State :=
  let s := s.sleepLoss d
  let s := if 13 ≤ d ∧ d ≤ 20 then s.loseStore (d - 13) else s
  let s := if d = 4 then
      ((s.cel.tensors.filter (fun e => decide (e.2.home = .cellar))).map (·.1)).foldl
        (fun s k => s.setTensor k (fun t => { t with lost := true })) s
    else s
  (s.dropImages (domReceivers d)).syncUp

/-- Domains that need a domain (R24); of MEMG0 to MEMG2 one is enough, so none of them is needed alone. -/
def domDependents (d : Nat) : List Nat :=
  if 1 ≤ d ∧ d ≤ 3 then [] else (List.range 30).filter (fun e => (domNeeds e).contains d)

/-- The domains that must sleep before a domain is put to sleep (R24, R25): those that need it; DC, EN and PG where it is the last MEMG that is ON. -/
def State.dependents (s : State) (d : Nat) : List Nat :=
  if 1 ≤ d ∧ d ≤ 3 ∧ [1, 2, 3].all (fun n => n == d || decide ((s.domAt n).st ≠ .on)) then [21, 22, 23, 24, 25, 26]
  else domDependents d

/-- A domain put to sleep at once: MS domains go to RET while FB sleeps after them (R402, R405). -/
def State.sleepNow (s : State) (d : Nat) : State :=
  if (s.domAt d).st ≠ .on then s.setDom d (fun m => { m with move := .none, wakeReq := false })
  else (s.setDom d (fun m => { m with st := if 13 ≤ d ∧ d ≤ 20 then .ret else .sleep, move := .none, wakeReq := false })).sleepLoss d

/-- A core released for heat that has left its partition rests: MC in SLEEP, MS in RET (R414). -/
def State.restReleased (s : State) (n : Nat) : State :=
  let c := s.coreAt n
  if s.pwr.released.contains n && c.out && c.active.isNone && c.done.isNone && c.preempt.isNone then (s.sleepNow (5 + n)).sleepNow (13 + n)
  else s

/-- A session whose encoder is switched off: its chunk is lost, and a last SNAPSHOT_REF reports it UNAVAILABLE (R13, R407; assumption log 70). -/
def State.loseClip (s : State) (c : Nat) : State :=
  match tget none s.media.clips c with
  | none => s
  | some k =>
    match s.streamAt k.stream with
    | none => s
    | some x =>
      let s := s.commit x.part {
        type := 4, prio := k.prio, prod := .en (Fin.ofNat 2 (c / 16)), obj := clipKey c,
        body := snapBody k.stream k.firstPic k.tag 3 1 stUnavailable 0 k.chunk 0 0 k.firstDec }
      ({ s with media := { s.media with clips := tput none s.media.clips c (some { k with bytes := [], chunks := k.chunks + 1 }) } }).endClip c

/-- The requests of a stream that have no JPEG yet, when the snapshot encoder is switched off (R13, R407; assumption log 70). -/
def State.loseSnaps (s : State) (sid : Nat) : State :=
  match s.streamAt sid with
  | none => s
  | some x =>
    let s := (x.snaps.filter (fun q => q.ready.isNone)).foldl (fun s q => s.commitSnap x sid q stUnavailable 0 0) s
    s.setStream sid (fun x => { x with snaps := x.snaps.filter (fun q => q.ready.isSome) })

/-- The encoders switched off: only their clips and snapshots end (R13, R407). -/
def State.loseEncoders (s : State) : State :=
  let s := (s.media.clips.map (·.1)).foldl State.loseClip s
  let s := (s.media.streams.map (·.1)).foldl State.loseSnaps s
  (List.range 3).foldl State.freeEncoder s

/-- A domain switched off by management: what needs it sleeps first, then it is OFF and what it served leaves service (R25, R192, R406, R407; assumption log 21). -/
def State.switchOff (s : State) (d : Nat) : State :=
  let s := if 13 ≤ d ∧ d ≤ 20 then s else (s.dependents d).reverse.foldl State.sleepNow s
  let s := if 5 ≤ d ∧ d ≤ 12 then s.removeCore (d - 5) true false
    else if 13 ≤ d ∧ d ≤ 20 then (s.removeCore (d - 13) true true).sleepNow (d - 8)
    else s
  let s := s.setDom d (fun _ => { st := .off, move := .none, switchedOff := true, wakeReq := false })
  let s := s.offLoss d
  let s := if 1 ≤ d ∧ d ≤ 3 then
      ((List.range 4).filter (fun i => decide ((s.chan (4 * (d - 1) + i)).st = .ready) || decide ((s.chan (4 * (d - 1) + i)).st = .hold))).foldl
        (fun s i => s.failChannel (4 * (d - 1) + i)) s
    else if 21 ≤ d ∧ d ≤ 24 then s.leaveCluster (d - 21)
    else if d = 25 then s.loseEncoders
    else if d = 26 then
      ((s.media.pages.filter (fun e => decide (e.2.stage = .accepted) || decide (e.2.stage = .decoding))).map (·.1)).foldl
        (fun s n => s.endPage n stUnavailable false) s
    else s
  s.recount

/-- A switched-off domain returns through the power-on operation: its wake is asked for (R407). -/
def State.switchOn (s : State) (d : Nat) : State :=
  (s.setDom d (fun m => { m with switchedOff := false })).wake d

end Sys2Proof.Machine
end

