-- ==== Sys2Proof/Machine/Reset.lean ====
section
/-! DEFINITION. Resets (R173, R324, R396, R474 to R481), thermal shutdown (R416), the interleave (R361) and the way to READY (R459, R478). -/

namespace Sys2Proof.Machine

/-! ### Packets that a reset ends (R324, R475) -/

/-- A packet ended with ABORTED_BY_RESET: a reply, no signal, the message of a status that is not OK (R313, R475). -/
def State.abortFlight (s : State) (fl : Flight) : State :=
  let pk := fl.pk
  let r := s.ringAt pk.fn pk.ring
  if r.replyFault then s.dropFlight fl
  else
    let y := r.rqTail
    let s := s.emit (.reply pk.fn (r.rqBase.toNat + 32 * (y.toNat % 2 ^ r.log2))
      (replyBytes pk { status := stAborted } (phaseOf y r.log2) false fl.slot))
    let s := s.dropFlight fl
    (s.setRing pk.fn pk.ring (fun r => { r with rqTail := r.rqTail + 1 })).msix pk.fn r.vector

/-- Every packet of the functions a test picks, ended: with replies, or dropped without one (R324). -/
def State.endFlights (s : State) (pick : Nat → Bool) (reply : Bool) : State :=
  (s.cp.flight.filter (fun x => pick x.pk.fn)).foldl (fun s fl => if reply then s.abortFlight fl else s.dropFlight fl) s

/-! ### What a function's reset does at the endpoint (R324, R334, R345, R396) -/

/-- Ring and result registers, result queue, sync counters, windows, MSI-X table and held accesses of a function at their Reset values. -/
def State.resetFunction (s : State) (f : Nat) : State :=
  let s := s.clearSync f
  { s with
    cp := { s.cp with ring := s.cp.ring.filter (fun e => e.1 / 64 != f), res := s.cp.res.filter (fun e => e.1 != f) },
    hi := { s.hi with
      win := s.hi.win.filter (fun e => e.1 / 256 != f), winLow := s.hi.winLow.filter (fun e => e.1 / 256 != f),
      msix := s.hi.msix.filter (fun e => e.1 / 64 != f), held := s.hi.held.filter (fun h => h.fn != f) } }

/-- An FLR of VFp, or MGT_FUNCTION_RESET of it when `reply` is set: steps 1 to 5 of R173; VF_RESET_DONE completes it. -/
def State.resetVf (s : State) (p : Nat) (reply : Bool) : State :=
  if s.dev.reset.isSome ∨ (s.partAt p).st = .resetting then s
  else
    let s := s.log logFlr 0 7 p 0
    let s := (s.endFlights (· == p) reply).resetFunction p
    if (s.partAt p).st = .free then s
    else
      let drain := decide ((s.partAt p).st = .draining)
      let s := ((s.dropMedia p).dropRuns p).releaseBins p
      let s := s.dropFolios p
      s.setPart p (fun q => { q with st := .resetting, thenFree := drain })

/-- VFs that a change of VF Enable or NumVFs takes away are reset (R386). -/
def State.setVfs (s : State) (enable : Bool) (n : Nat) : State :=
  let old := (List.range 8).filter (fun i => s.fnExists (i + 1))
  let s := { s with hi := { s.hi with vfEnable := enable, numVFs := n } }
  (old.filter (fun i => !s.fnExists (i + 1))).foldl (fun s i => s.resetVf (i + 1) false) s

/-! ### The interleave (R360, R361) -/

/-- Channels that have trained. -/
def State.trained (s : State) : List Nat :=
  (List.range 12).filter (fun c => decide ((s.chan c).st = .ready) || decide ((s.chan c).st = .hold))

/-- The interleave set over the trained channels (R361), with MEMORY_INSUFFICIENT below 4 of them (R360). -/
def State.setInterleave (s : State) : State :=
  let t := s.trained
  let cmin := ((t.map (fun c => (s.chan c).gib)).min?).getD 0
  { s with ddr := { s.ddr with inService := t, cMin := cmin, insufficient := decide (t.length < 4) },
           dev := { s.dev with channels := t.length } }

/-! ### Partitions across a compute reset (R476, R477) -/

/-- Whether RESET_POLICY keeps a partition's DRAM_BUDGET contents: KEEP, and SCRUB = 0. -/
def State.dramKept (s : State) : Bool := !s.mgt.scrub

/-- The folios, text tables and pipelines of every partition go, as when its DRAM contents were lost (R379, R477). -/
def State.loseTables (s : State) : State :=
  (List.range 8).foldl (fun s i => (s.dropFolios (i + 1)).dropTables (i + 1)) s

/-- A kept partition's chunks and save area placed anew, when the DRAM in service has changed (R379, R477; assumption log 16). -/
def State.rehouse (s : State) : State :=
  let ps := (List.range 8).filter (fun i => decide ((s.partAt (i + 1)).st ≠ .free))
  let s := ps.foldl (fun s i => s.setPart (i + 1) (fun q => { q with chunks := [], save := [] })) s
  ps.foldl (fun s i =>
    let q := s.partAt (i + 1)
    let used := ((List.range i).map (fun j => if (s.partAt (j + 1)).st = .free then 0 else partDram (s.partAt (j + 1)))).sum
    if s.dramBytes - 2 ^ 29 < used + partDram q then (s.freePart (i + 1)).log 0x0203 1 1 (i + 1) 0
    else
      let chunks := s.pickChunks q.dram
      let save := s.pickSave q.coresMax chunks
      s.setPart (i + 1) (fun q => { q with chunks, save })) s

/-- A kept partition's state: RUNNING when it holds a folio, OPEN otherwise; its masters are listed again (R477). -/
def State.keepPart (s : State) (p : Nat) : State :=
  let mine := s.cel.folios.filter (fun f => f.part == p)
  let s := mine.foldl (fun s f => (masterTensors p f.handle f.addr f.image).foldl State.newTensor s) s
  s.setPart p (fun q => { q with st := if mine.isEmpty then .opened else .running, belowMin := false, throttle := 0, thenFree := false })

/-- Partitions as RESET_POLICY leaves them (R476, R477). -/
def State.applyPolicy (s : State) : State :=
  let s := (List.range 8).foldl (fun s i =>
    let q := s.partAt (i + 1)
    if q.st = .free then s
    else if s.mgt.keep.getLsbD i = false ∨ q.st = .draining ∨ q.st = .resetting then s.freePart (i + 1)
    else s) s
  let s := if s.dramKept then s else s.loseTables
  (List.range 8).foldl (fun s i => if (s.partAt (i + 1)).st = .free then s else s.keepPart (i + 1)) s

/-! ### The stopping steps (R475) -/

/-- Everything a compute reset loses besides partitions, tables and memory (R474, R477): work, queues, rings, windows, counters of R81, and the bits that say a processor runs, until its firmware is rechecked (R250, R478).
DESIGN CHOICE (log 65): it begins a new boot for R71's count of an array's mismatches. -/
def State.dropWork (s : State) : State :=
  let s := (List.range 8).foldl (fun s i => (s.dropMedia (i + 1)).dropRuns (i + 1)) s
  let s := (List.range 8).foldl (fun s i => s.releaseBins (i + 1)) s
  let s := (List.range 8).foldl (fun s n => s.setCore n (fun c => {
    defect := c.defect, fuse := c.fuse, enabled := c.enabled, instrs := c.instrs, out := true })) s
  let s := (List.range 4).foldl (fun s k => s.setCluster k (fun c => { engines := c.engines })) s
  { s with
    mgt := { s.mgt with ops := s.mgt.ops.filter (fun o => o.path != 2),
                        updateBusy := s.mgt.ops.any (fun o => o.path != 2 && o.op == 8 && o.steps == 1) },
    cp := { s.cp with ring := [], res := [], sync := [], binEmpty := 0, syncSel := 0, syncSelSpine := 0, binSel := 0, binSelSpine := 0 },
    hi := { s.hi with win := [], winLow := [], held := [] },
    cel := { s.cel with
      runs := [], tensors := [], pools := [], acct := [], busy := [], clients := [], tokens := [], transfers := 0, preempts := 0, last := none,
      rerunCheck := 0, rerunAbandon := 0, rackBytes := 0, acctSel := 0, acctSelSpine := 0 },
    media := { s.media with
      streams := [], batches := [], windows := [], crops := [], clips := [], enBusy := [], snapInput := none, enPictures := 0, enDrops := 0,
      ppBusy := 0, ppPixels := [], ppHolds := [], tkUp := 0, tkRecords := [], tkFull := [], sources := [], pages := [], pgBusy := 0,
      pgBudget := 0, pgTrunc := 0, pgRefused := 0, pgPages := 0 },
    text := { s.text with reads := [], sessions := [], binderUp := false, maskLate := 0, replaces := 0, rejects := 0, stops := 0, steps := 0 },
    mem := { s.mem with zero := [] },
    latch := [] }

/-- Steps 4 and 5, once nothing is owed: write queues drain, every trained channel enters self-refresh, every switched domain sleeps; those in OFF stay there (R475). -/
def State.quiesce (s : State) : State :=
  let s := (List.range 12).foldl (fun s c =>
    let q := (s.chan c).queue
    let s := q.foldl (fun s r => match r.write with
      | some (bs, p) => (s.writeRaw (64 * r.line) bs).setPoison r.line p
      | none => s) s
    s.setChan c (fun x => { x with queue := [], selfRefresh := decide (x.st = .ready) || decide (x.st = .hold), powerDown := (false, false),
                                   st := if x.st = .hold then .ready else x.st })) s
  (List.range 30).foldl (fun s d =>
    if (s.domAt d).st = .off ∧ (s.domAt d).switchedOff then s
    else
      let s := s.setDom d (fun _ => { st := .sleep, move := .none, switchedOff := false, wakeReq := false })
      if 13 ≤ d ∧ d ≤ 20 then s.lose (coreBase (d - 13)) (coreBase (d - 13) + 0x02000000) else s.sleepLoss d) s

/-- Whether the CP answers the MP (R475 step 3). -/
def State.cpAnswers (s : State) : Bool := !s.dev.cpStalled && s.fwUp 0 && decide ((s.domAt 0).st = .on)

/-- The stopping steps up to the CP's answer: replies written when the cause asks for them and the CP answers at once (R475). -/
def State.stopNow (s : State) (reply : Bool) : State :=
  let s := (List.range 8).foldl (fun s n => s.stopQuire n 4) s
  let s := if s.cpAnswers then (s.endFlights (fun _ => true) reply) else if reply then s else s.endFlights (fun _ => true) false
  s.dropWork

/-- Steps 4 and 5 when steps 2 and 3 have ended. -/
def State.finishStop (s : State) : State :=
  match s.dev.reset with
  | some r => if !r.awaitCp ∧ r.owedReads = [] ∧ !r.restarted then s.quiesce else s
  | none => s

/-! ### Compute reset and link reset (R474 to R480) -/

/-- The ARG of a cause (R474). -/
def causeCode : ResetCause → Nat
  | .mailbox => 1
  | .sideband => 2
  | .packet => 3
  | .pf0Flr => 4
  | .linkReset => 5
  | .mpRestart => 6
  | .shutdownExit => 7

/-- HI and configuration space at their Reset values, the subsystem IDs as the board record has them (R384, R480, R498). -/
def State.resetHi (s : State) : State :=
  { s with hi := { subsystem := s.hi.subsystem }, dev := { s.dev with hiReady := false } }

/-- A reset joined: FULL and a link reset are added, and an MP restart with it (R426, R479). -/
def ResetRun.join (r : ResetRun) (full link mp : Bool) : ResetRun :=
  { r with full := r.full || full, link := r.link || link, mp := r.mp || mp }

/-- A compute reset begun, or joined while one runs or the device has not reached READY (R426, R474, R475, R479). -/
def State.beginReset (s : State) (cause : ResetCause) (full link mp : Bool) : State :=
  let s := if link then s.resetHi else s
  match s.dev.reset with
  | some r => { s with dev := { s.dev with reset := some (r.join full link mp) } }
  | none =>
    if (s.dev.stage = .boot ∨ s.dev.stage = .training ∨ s.dev.stage = .tasting ∨ s.dev.stage = .recovery) ∧ !mp then s
    else
      let s := s.log logComputeReset 1 0 0xFFFF (causeCode cause)
      let reply := decide (causeCode cause ≠ 4 ∧ causeCode cause ≠ 5)
      let owed := (s.cp.flight.filter (fun x => decide (x.wait = .dma))).map (·.id)
      let answers := s.cpAnswers
      let s := { s with dev := { s.dev with
        stage := .resetting, deviceFault := false,
        reset := some { cause, full, link, awaitCp := reply && !answers && !s.cp.flight.isEmpty, owedReads := owed, mp,
                        restarted := false } } }
      let s := if full then s.dropImages (List.range 59) else s
      (s.stopNow reply).finishStop

/-- Whether a mailbox or sideband request may start a compute reset: thermal shutdown refuses it until Tj is below 85 °C (R416, R479). -/
def State.resetRefused (s : State) : Bool := s.dev.thermtrip || (decide (s.dev.stage = .shutdown) && !decide (s.pwr.tj < 340))

/-! ### Thermal shutdown (R416) -/

/-- The stopping steps, DDR4 in self-refresh, every switched domain OFF; HI, AON and the link stay up. -/
def State.thermalShutdown (s : State) : State :=
  if s.dev.stage = .shutdown then s
  else
    let s := (s.stopNow true).endFlights (fun _ => true) false
    let s := { s with dev := { s.dev with stage := .shutdown, reset := none }, pwr := { s.pwr with shutdown := true } }
    let s := s.quiesce
    (List.range 30).foldl (fun s d =>
      let s := s.setDom d (fun _ => { st := .off, move := .none, switchedOff := true, wakeReq := false })
      s.dropImages (domReceivers d)) s |>.syncUp

/-! ### The restart and READY (R459, R478) -/

/-- Every switched domain is asked for again, those switched off too (R407, R478). -/
def State.restartDomains (s : State) : State :=
  (List.range 30).foldl State.wake ((List.range 30).foldl (fun s d => s.setDom d (fun m => { m with switchedOff := false })) s)

/-- FAILED channels train again (R379). -/
def State.retrainFailed (s : State) : State :=
  (List.range 12).foldl (fun s c => s.setChan c (fun x =>
    if x.st = .failed then { x with st := .training, retried := false, needsFallback := false } else x)) s

/-- The MP restarts: the boot is counted, the boot ROM runs, and every receiver is delivered again (R438, R439). -/
def State.rebootMp (s : State) : State :=
  (({ s with mgt := { s.mgt with bootCount := (s.mgt.bootCount + 1) % 2 ^ 32 } }).bootMp).dropImages (List.range 59)

/-- The device's fields when a restart begins. -/
def Dev.restarting (d : Dev) (r : ResetRun) : Dev :=
  { d with stage := .tasting, tasted := false, scrubbed := false, cpStalled := false, celStalled := false, cpMisses := 0, celMisses := 0,
           reset := some { r with restarted := true } }

/-- Restart steps 1 to 4: domains wake, FAILED channels train again, the scrub and the tasting begin, partitions stand as the policy leaves them (R476 to R478, R379). -/
def State.restart (s : State) : State :=
  match s.dev.reset with
  | none => s
  | some r =>
    let s := ((({ s with dev := s.dev.restarting r }).restartDomains).retrainFailed).applyPolicy
    if r.mp then s.rebootMp else s

/-- The device's DRAM scrubbed: all of it, or all but the DRAM_BUDGET of kept partitions (R459, R476). -/
def State.scrubDram (s : State) : State :=
  let kept := if s.dev.reset.isSome ∧ s.dramKept = true then
      (List.range 8).flatMap (fun i => (s.partAt (i + 1)).chunks) else []
  (List.range (s.dramBytes / 2 ^ 25)).foldl (fun s g => if kept.contains g then s else s.scrub (2 ^ 25 * g) (2 ^ 25 * g + 2 ^ 25)) s

/-- Receivers the device has: those of units neither fused off nor listed as defects (R460). -/
def State.wantedReceiver (s : State) (r : Nat) : Bool :=
  if r < 2 then true
  else if r < 6 then !s.defectUnit 4 (r - 2)
  else if r < 10 then !s.defectUnit 5 (r - 6)
  else if r = 10 then !s.dev.defects.any (fun d => d.1 == 9)
  else if r < 19 then !s.defectUnit 2 (r - 11) && decide (s.arraysLeft (r - 11) ≠ 0)
  else !s.engineFused ((r - 19) / 10) ((r - 19) % 10) && !s.defectSub 3 ((r - 19) / 10) ((r - 19) % 10) && !s.defectUnit 4 ((r - 19) / 10)

/-- The component of a receiver (R436, R460). -/
def receiverComp (r : Nat) : Nat :=
  if r = 0 then 2 else if r = 1 then 3 else if r < 6 then 4 else if r < 10 then 5 else if r = 10 then 6 else if r < 19 then 7 else 8

/-- A receiver that stays in reset: unavailable, logged, reported, its unit out of service (R442). -/
def State.receiverFailed (s : State) (r : Nat) : State :=
  if s.mgt.unavail.contains r ∨ !s.wantedReceiver r then s
  else
    let s := { s with mgt := { s.mgt with unavail := setAdd s.mgt.unavail r } }
    let s := s.log logReceiverFailed 2 0 r (receiverComp r)
    let s := (s.mgtEvent 0x0886 r (receiverComp r) 0 true).syncUp
    let s := if 2 ≤ r ∧ r ≤ 5 then s.leaveCluster (r - 2)
      else if 11 ≤ r ∧ r ≤ 18 then (if (s.coreAt (r - 11)).out then s else s.removeCore (r - 11) false false)
      else if 19 ≤ r then s.leaveCluster ((r - 19) / 10)
      else s
    s.recount

/-- READY: receivers still in reset are unavailable, cores in service return to partitions in increasing number, a trial slot is ACTIVE, a new policy is in force (R195, R438, R459, R476, R478). -/
def State.deviceReady (s : State) : State :=
  let s := ((List.range 59).filter (fun r => !s.fwUp r)).foldl State.receiverFailed s
  let s := s.syncUp
  let s := (List.range 8).foldl (fun s n => s.setCore n (fun c => { c with out := !s.coreServes n, owner := 0, user := 0 })) s
  let s := { s with dev := { s.dev with stage := .ready, reset := none } }
  let s := s.refillAll.recount
  let s := match s.mgt.booted with
    | some k =>
      if (s.slotAt k).st = SlotState.pending then
        (s.setSlot (1 - k) (fun w => if w.st = SlotState.active then { w with st := SlotState.staged } else w)).setSlot k
          (fun w => { w with st := SlotState.active })
      else s
    | none => s
  let s := s.log logSlotBoot 0 0 ((s.mgt.booted).getD 0xFFFF) 0
  match s.mgt.nextPolicy with
  | some (k, b) => { s with mgt := { s.mgt with keep := k, scrub := b, nextPolicy := none } }
  | none => s

/-- Whether firmware delivery has ended: every receiver the device has runs or is unavailable (R441, R442). -/
def State.delivered (s : State) : Bool :=
  (List.range 59).all (fun r => !s.wantedReceiver r || s.fwUp r || s.mgt.unavail.contains r)

/-- READY when the tasting has ended, the scrub is complete, firmware is delivered and no channel trains (R459, R478). -/
def State.tryReady (s : State) : State :=
  if s.dev.stage = .tasting ∧ s.dev.tasted ∧ s.dev.scrubbed ∧ s.delivered = true ∧
      ((List.range 12).all (fun c => decide ((s.chan c).st ≠ .training))) = true then s.deviceReady else s

end Sys2Proof.Machine
end

