-- ==== Sys2Proof/Machine/Mgmt.lean ====
section
/-! DEFINITION. The management operations (R423 to R427, R437, R440, R444, R445, R449 to R453, R472, R476, R479, R481) and the request paths of the MP. -/

namespace Sys2Proof.Machine

/-- What an operation answers: STATUS, DETAIL, the counters and its result bytes. -/
structure MAns where
  status : Nat := 0
  detail : Nat := 0
  c0 : Nat := 0
  c1 : Nat := 0
  bytes : List Byte := []
  deriving DecidableEq, Repr

/-- RESOURCE_HELD naming the MP (R482). -/
def heldByMp : MAns := { status := stResourceHeld, detail := 0x0001 }

/-- A field of an operation's body, by its packet offset. -/
def MgmtOp.f (o : MgmtOp) (ofs n : Nat) : Nat := leAt o.body (ofs - 16) n

/-- DEGRADED in place of OK (R471). -/
def State.okOrDegraded (s : State) : Nat := if s.dev.degraded then stDegraded else stOk

/-! ### Registers the operations report (R456, R457, R419) -/

/-- The code of a slot state (R456). -/
def slotCode : SlotState → Nat
  | .empty => 0
  | .staged => 1
  | .pending => 2
  | .active => 3
  | .bad => 4

/-- MGT_SLOT_A or MGT_SLOT_B. -/
def FwSlot.reg (w : FwSlot) : Nat := (w.svn % 256) * 256 + (w.tries % 16) * 16 + slotCode w.st

/-- MGT_STATUS. -/
def State.mgtStatus (s : State) : Nat :=
  (s.mgt.fuseSvn % 256) * 65536 + b2n s.mgt.updateBusy * 512 + b2n (s.mgt.booted == some 1) * 256 + s.mgt.mpState % 4

/-- The life estimate of the present Cask (R450). -/
def State.caskLife (s : State) : Nat := ((s.cask.media).map (fun m => max m.lifeA m.lifeB)).getD 0

/-- SERIAL and CID of a Cask's identity body (R447). -/
def mediaSerial (m : CaskMedia) : List Byte := sliceB m.body 8 16
def mediaCid (m : CaskMedia) : List Byte := sliceB m.body 32 16

/-- What a pairing entry's signature covers: SERIAL, CID and the key hash (R449). -/
def pairMessage (m : CaskMedia) (h : List Byte) : List Byte := mediaSerial m ++ mediaCid m ++ h

/-- Whether a pairing entry is this device's own and verifies (R449). -/
def ownPair (m : CaskMedia) (e : PairEntry) : Bool :=
  e.valid && decide (e.keyHash = sha256 Config.hssPublicKey) && Config.hssVerify (pairMessage m e.keyHash) e.signature

/-- PAIRED (R449, R457). -/
def State.paired (s : State) : Bool := (s.cask.media).any (fun m => m.pairing.any (ownPair m))

/-- CASK_STATUS. -/
def State.caskStatus (s : State) : Nat :=
  (((s.cask.media).map (fun m => (m.preEol % 4) * 2 ^ 24 + (m.lifeB % 256) * 65536 + (m.lifeA % 256) * 256)).getD 0) +
  s.cask.lifeState % 4 * 16 + b2n s.paired * 8 + b2n s.cask.identityValid * 4 + b2n (decide (tget 0 s.mgt.claims 1 = 2)) * 2 +
  b2n s.cask.present

/-- Sectors a pack takes, on 4 KiB boundaries (R451). -/
def packSectors (n : Nat) : Nat := ceilDiv n 4096 * 8

/-- Free sectors of the user area beyond the directory (R451, R453). -/
def mediaFree (m : CaskMedia) : Nat :=
  m.capacityMiB * 2048 - 4096 - (m.entries.map (fun e => packSectors e.2.bytes.length)).sum

/-- A temperature as the 16-bit field of SENSOR_READ. -/
def temp16 (r : SensorReading) : Nat := if r.valid then ofSigned 16 r.temp else 0x8000

/-! ### The event log as read (R429, R430) -/

/-- The 32 bytes of an entry. -/
def LogEntry.toBytes (e : LogEntry) : List Byte :=
  let b := natLE 4 e.seq ++ natLE 4 e.boot ++ natLE 6 e.stamp ++ natLE 2 e.code ++ natLE 1 e.severity ++ natLE 1 e.source ++
    natLE 2 e.unit ++ natLE 8 e.arg
  b ++ natLE 4 (crc32c b)

/-- An entry put before the entries of a list that follow it in SEQ order. -/
def seqInsert (e : LogEntry) : List LogEntry → List LogEntry
  | [] => [e]
  | x :: t => if x.seq < e.seq then x :: seqInsert e t else e :: x :: t

/-- The entries held, in SEQ order. -/
def State.logAll (s : State) : List LogEntry := (s.mgt.flashLog ++ s.mgt.logBuf).foldr seqInsert []

/-! ### Operations without a lasting effect -/

/-- IDENTITY_STATUS (R424). -/
def opIdentity (s : State) (_ : MgmtOp) : State × MAns :=
  let act := match s.mgt.booted with
    | some k => natLE 1 k ++ natLE 1 (s.slotAt k).svn
    | none => [0xFF, 0xFF]
  (s, { status := s.okOrDegraded, bytes := padTo 64 ((s.functionBlock 0).take 12 ++ natLE 4 s.mgtStatus ++
    natLE 8 s.dev.fuses.serial ++ natLE 4 s.mgt.bootCount ++ act ++ natLE 1 s.mgt.fuseSvn ++ [0] ++
    natLE 4 s.mgt.slotA.reg ++ natLE 4 s.mgt.slotB.reg) })

/-- LOG_READ (R423, R430). -/
def opLogRead (s : State) (o : MgmtOp) : State × MAns :=
  let n := o.f 20 4
  if n = 0 ∨ 4096 < n then (s, { status := stBadField, detail := 20 })
  else
    let all := s.logAll
    let first := o.f 16 4
    let sel := if first = 0xFFFFFFFF then all.drop (all.length - n) else (all.filter (fun e => decide (first ≤ e.seq))).take n
    let sel := if o.f 24 8 = 0 ∨ o.path = 1 then sel.take 2 else sel
    let oldest := ((all.head?).map (·.seq)).getD 0
    (s, { detail := b2n (decide (first ≠ 0xFFFFFFFF ∧ first < oldest)), c0 := sel.length, c1 := oldest,
          bytes := sel.flatMap LogEntry.toBytes })

/-- SENSOR_READ (R423). -/
def opSensorRead (s : State) (_ : MgmtOp) : State × MAns :=
  (s, { bytes := natLE 2 (ofSigned 16 s.pwr.tj) ++ natLE 1 s.thermStage ++ [0] ++ natLE 2 s.pwr.avg ++ [0, 0] ++
    (List.range 20).flatMap (fun i => natLE 2 (temp16 (s.pwr.sensors.getD i { valid := false, temp := 0 }))) })

/-- DEFECT_READ (R472). -/
def opDefectRead (s : State) (o : MgmtOp) : State × MAns :=
  let l := s.dev.defects.drop (o.f 16 2)
  let l := if o.f 24 8 = 0 ∨ o.path = 1 then l.take 4 else l
  (s, { status := s.okOrDegraded, c0 := l.length, c1 := s.dev.defects.length, bytes := l.flatMap defectBytes })

/-- RESET_POLICY (R476): a policy that arrives during a reset applies to the one after it. -/
def opResetPolicy (s : State) (o : MgmtOp) : State × MAns :=
  if 1 < o.f 17 1 then (s, { status := stBadField, detail := 17 })
  else if 1 < o.f 18 1 then (s, { status := stBadField, detail := 18 })
  else
    let k := BitVec.ofNat 8 (o.f 16 1)
    let b := bitOf (o.f 17 1) 0
    let s := if o.f 18 1 = 1 then s
      else if s.dev.reset.isSome then { s with mgt := { s.mgt with nextPolicy := some (k, b) } }
      else { s with mgt := { s.mgt with keep := k, scrub := b } }
    (s, { c0 := s.mgt.keep.toNat + 256 * b2n s.mgt.scrub })

/-! ### Resets and power -/

/-- The cause a path gives a compute reset (R474). -/
def pathCause (p : Nat) : ResetCause := if p = 0 then .mailbox else if p = 1 then .sideband else .packet

/-- A compute reset asked for by an operation: thermal shutdown holds it off until Tj is below 85 °C (R416, R426, R479). -/
def State.askReset (s : State) (p : Nat) (full : Bool) : State × MAns :=
  if s.resetRefused then (s, heldByMp)
  else if s.dev.stage = .shutdown then
    (({ s with pwr := { s.pwr with shutdown := false } }).beginReset .shutdownExit full false false, {})
  else (s.beginReset (pathCause p) full false false, {})

/-- COMPUTE_RESET (R479). -/
def opComputeReset (s : State) (o : MgmtOp) : State × MAns :=
  if 1 < o.f 16 1 then (s, { status := stBadField, detail := 16 }) else s.askReset o.path (decide (o.f 16 1 = 1))

/-- FUNCTION_RESET (R481): a function whose partition is FREE replies OK and nothing else happens. -/
def opFunctionReset (s : State) (o : MgmtOp) : State × MAns :=
  let p := o.f 16 1
  if 8 < p then (s, { status := stBadField, detail := 16 })
  else if p = 0 then s.askReset o.path false
  else if (s.partAt p).st = .free then (s, {})
  else (s.resetVf p true, {})

/-- DOMAIN_POWER (R407, R423, R426). -/
def opDomainPower (s : State) (o : MgmtOp) : State × MAns :=
  let d := o.f 16 1
  let a := o.f 17 1
  if 2 < a then (s, { status := stBadField, detail := 17 })
  else if a = 2 then (s.thermalShutdown, {})
  else if 29 < d then (s, { status := stBadField, detail := 16 })
  else if a = 0 then
    if s.dev.reset.isSome then (s, heldByMp)
    else if s.dev.stage = .shutdown then (s, {})
    else (s.switchOff d, {})
  else if s.dev.stage = .shutdown then (s, heldByMp)
  else (s.switchOn d, {})

/-! ### UPDATE (R437 to R440) -/

/-- The slot STAGE writes: the one that is not ACTIVE, A before B. -/
def State.stageSlot (s : State) : Nat := if s.mgt.slotA.st = .active then 1 else 0

/-- The package STAGE is given, or the answer that ends it. -/
def State.stageSource (s : State) (o : MgmtOp) : Except MAns (List Byte) :=
  if 1 < o.f 17 1 then .error { status := stBadField, detail := 17 }
  else if o.f 17 1 = 0 then
    if o.path = 1 then .error { status := stBadField, detail := 24 } else .ok (padTo (o.f 20 4) o.data)
  else match s.caskBytes 4 (o.f 18 2) with
    | .ok b => .ok b
    | .error a => .error { status := a.status, detail := a.detail }

/-- STAGE ends: the package is verified in the slot, which becomes STAGED, or EMPTY on failure. -/
def opStage (s : State) (o : MgmtOp) : State × MAns :=
  let k := s.stageSlot
  match s.stageSource o with
  | .error a => (s, a)
  | .ok b =>
    let st := s.pkgCheck b
    if st = stOk then
      ((s.setSlot k (fun _ => { st := .staged, svn := pkgSvn b, tries := 0, image := b })).mgtEvent 0x0887 k (pkgSvn b) 0 false, {})
    else (s.setSlot k (fun _ => {}), { status := st })

/-- An MP restart asked for: a compute reset that restarts the MP (R437, R439). -/
def State.restartMp (s : State) : State :=
  ({ s with mgt := { s.mgt with mpState := 3 } }).beginReset .mpRestart false false true

/-- ACTIVATE: the STAGED slot becomes PENDING; with NOW the MP restarts at once. -/
def opActivate (s : State) (o : MgmtOp) : State × MAns :=
  if 1 < o.f 33 1 then (s, { status := stBadField, detail := 33 })
  else match s.slotIn .staged with
    | none => (s, { status := stSlotState })
    | some k =>
      let s := s.setSlot k (fun w => { w with st := .pending, tries := 0 })
      (if o.f 33 1 = 1 then s.restartMp else s, {})

/-- COMMIT_SVN (R440): the ACTIVE slot must have booted in the present power cycle. -/
def opCommitSvn (s : State) (_ : MgmtOp) : State × MAns :=
  match s.slotIn .active with
  | none => (s, { status := stSlotState })
  | some k =>
    if s.mgt.booted = some k then
      ({ s with mgt := { s.mgt with fuseSvn := min 64 (max s.mgt.fuseSvn (s.slotAt k).svn) } }, {})
    else (s, { status := stSlotState })

/-- BOARD_RECORD: in force at the next power-on. -/
def opBoardRecord (s : State) (o : MgmtOp) : State × MAns :=
  let n := o.f 20 4
  if n = 0 ∨ 4096 < n then (s, { status := stBadField, detail := 20 })
  else if o.path = 1 then (s, { status := stBadField, detail := 24 })
  else ({ s with mgt := { s.mgt with board := padTo n o.data } }, {})

/-- KEY_ENROLL (R435, R437). -/
def opKeyEnroll (s : State) (o : MgmtOp) : State × MAns :=
  let k := o.f 32 1
  let key := padTo 56 o.data
  if 7 < k then (s, { status := stBadField, detail := 32 })
  else if o.path = 1 then (s, { status := stBadField, detail := 24 })
  else if !(s.packKey k).isEmpty then (s, { status := stKeySlot })
  else if (lmsSigLen (beNat (sliceB key 0 4))).isNone ∨ beNat (sliceB key 4 4) ≠ 3 then (s, { status := stSignatureBad })
  else ({ s with mgt := { s.mgt with keys := tput [] s.mgt.keys k key } }, {})

/-- KEY_REMOVE. -/
def opKeyRemove (s : State) (o : MgmtOp) : State × MAns :=
  let k := o.f 32 1
  if 7 < k then (s, { status := stBadField, detail := 32 })
  else if (s.packKey k).isEmpty then (s, { status := stKeySlot })
  else ({ s with mgt := { s.mgt with keys := tput [] s.mgt.keys k [] } }, {})

/-! ### Attestation (R444, R445) -/

/-- The next block of 1,024 leaf indices reserved in the journal, once the present one is used up (R444). -/
def State.reserveLeaves (s : State) : State :=
  if s.mgt.leafReserved ≤ s.mgt.leafNext then
    ({ s with mgt := { s.mgt with leafReserved := s.mgt.leafNext + 1024 } }).log logLeafBlock 0 0 0xFFFF (s.mgt.leafNext + 1024)
  else s

/-- An HSS index taken: the journal reserves ahead of use (R444). None when every index has been used. -/
def State.takeLeaf (s : State) : Option (State × Nat) :=
  if 2 ^ 40 ≤ s.mgt.leafNext then none
  else
    let t := s.reserveLeaves
    some ({ t with mgt := { t.mgt with leafNext := s.mgt.leafNext + 1 } }, s.mgt.leafNext)

/-- The 256-byte body of a report (R445). -/
def State.reportBody (s : State) (index : Nat) (nonce : List Byte) : List Byte :=
  let k := (s.mgt.booted).getD 0
  padTo 256 (natLE 4 0x54544158 ++ natLE 2 1 ++ natLE 2 s.dev.fuses.devId ++ natLE 1 s.dev.fuses.revId ++ natLE 1 s.mgt.fuseSvn ++
    natLE 1 k ++ natLE 1 (s.slotAt k).svn ++ natLE 4 s.mgt.bootCount ++ natLE 8 s.dev.fuses.serial ++ natLE 8 index ++ nonce ++
    sha256 (pkgSigned s.bootImage) ++ sha256 s.mgt.board ++
    sha256 ((List.range 8).flatMap (fun i => padTo 56 (s.packKey i))) ++ sha256 (s.dev.defects.flatMap defectBytes) ++
    (((s.cask.media).map (fun m => sha256 m.body)).getD (List.replicate 32 0)) ++
    natLE 4 s.deviceStatus ++ natLE 4 s.linkStatus)

/-- ATTEST (R445). -/
def opAttest (s : State) (o : MgmtOp) : State × MAns :=
  let ofs := o.f 20 4
  let whole := decide (o.path = 2) || (decide (o.path = 0) && decide (o.f 24 8 ≠ 0))
  if (whole ∧ ofs ≠ 0) ∨ ofs % 64 ≠ 0 ∨ 5972 ≤ ofs then (s, { status := stBadField, detail := 20 })
  else if ofs ≠ 0 then (s, { bytes := sliceB s.mgt.report ofs (min 64 (5972 - ofs)) })
  else if 100 ≤ s.mgt.signedThisSecond then (s, { status := stAttestRate })
  else match s.takeLeaf with
    | none => (s, { status := stLeafExhausted })
    | some (s, i) =>
      let body := s.reportBody i (sliceB o.body 16 32)
      let rep := body ++ padTo 5716 (Config.hssSign i body)
      ({ s with mgt := { s.mgt with report := rep, signedThisSecond := s.mgt.signedThisSecond + 1 } },
        { bytes := if whole then rep else rep.take 64 })

/-! ### The Cask (R446 to R453) -/

/-- CASK_WORN in place of OK for an action that succeeds on a worn Cask (R450). -/
def State.caskOk (s : State) : Nat := if s.cask.lifeState = 1 then stCaskWorn else stOk

/-- The Cask's checks before an action other than STATUS; `write` and `pair` add those of R448 to R450. -/
def State.caskChecks (s : State) (write pair : Bool) : Option MAns :=
  if !s.cask.present then some { status := stCaskAbsent }
  else match s.caskHeld with
    | some a => some { status := a.status, detail := a.detail }
    | none =>
      if !write then none
      else if !s.cask.identityValid then some { status := stCaskIdentity }
      else if pair ∧ !s.paired then some { status := stCaskUnpaired }
      else if s.cask.lifeState = 2 then some { status := stCaskReadOnly }
      else none

/-- The state the life estimate sets, READ_ONLY of the ledger kept (R450): CASK_LIFE is sent once for a state. -/
def State.caskLifeUpdate (s : State) : State :=
  match s.cask.media with
  | none => s
  | some m =>
    let l := s.caskLife
    let st := if l = 0x0B ∨ m.preEol = 3 ∨ m.ledger.any (·.readOnly) then 2 else if l = 0x0A then 1 else 0
    let media := if st = 2 ∧ !(m.ledger.any (·.readOnly)) then
        { m with ledger := m.ledger.drop (if 64 ≤ m.ledger.length then 1 else 0) ++ [{
            seq := ((m.ledger.map (·.seq)).max?).getD 0 + 1, serial := s.dev.fuses.serial, sectors := 0, erases := 0,
            lifeA := m.lifeA, lifeB := m.lifeB, readOnly := true }] } else m
    let new := decide (st ≠ s.cask.lifeState)
    let s := { s with cask := { s.cask with lifeState := st, media := some media, lifeSent := if st = 0 then false else s.cask.lifeSent && !new } }
    if st ≠ 0 ∧ !s.cask.lifeSent then
      ({ s with cask := { s.cask with lifeSent := true } }).mgtEvent 0x0885 0 l st false
    else s

/-- The end of a write session: the oldest ledger entry replaced, the life bytes read again (R447, R450). -/
def State.ledgerAdd (s : State) (sectors : Nat) : State :=
  match s.cask.media with
  | none => s
  | some m =>
    let e : LedgerEntry := { seq := ((m.ledger.map (·.seq)).max?).getD 0 + 1, serial := s.dev.fuses.serial, sectors, erases := 0,
                             lifeA := m.lifeA, lifeB := m.lifeB, readOnly := false }
    ({ s with cask := { s.cask with media := some { m with
        ledger := (if 64 ≤ m.ledger.length then m.ledger.drop (m.ledger.length - 63) else m.ledger) ++ [e] } } }).caskLifeUpdate

/-- A directory entry's 128 bytes (R451). -/
def CaskEntry.toBytes (e : CaskEntry) : List Byte :=
  padTo 128 (natLE 1 e.kind ++ [0, 0, 0] ++ natLE 4 e.bytes.length ++ natLE 4 e.startSector ++ [0, 0, 0, 0] ++ padTo 32 e.sha ++ padTo 32 e.name)

/-- CASK STATUS (R453). -/
def opCaskStatus (s : State) (_ : MgmtOp) : State × MAns :=
  match s.cask.media with
  | none => (s, { status := stCaskAbsent })
  | some m =>
    if !s.cask.present then (s, { status := stCaskAbsent })
    else (s, { status := s.caskOk, c0 := s.caskStatus, c1 := mediaFree m, bytes := padTo 64 m.body })

/-- CASK LIST: the current directory (R451, R453). -/
def opCaskList (s : State) (o : MgmtOp) : State × MAns :=
  match s.caskChecks false false with
  | some a => (s, a)
  | none =>
    let m := s.cask.media
    let head := (List.range 128).map (fun i => Config.caskHeader ((m.map (·.generation)).getD 0) i)
    let n := if o.f 24 8 = 0 ∨ o.path = 1 then 0 else 8191
    (s, { status := s.caskOk, bytes := head ++ (List.range n).flatMap (fun i =>
      ((s.caskEntry (i + 1)).map CaskEntry.toBytes).getD (List.replicate 128 0)) })

/-- The payload's own checks of a pack by its KIND (R166, R281, R452 step 4). -/
def State.payloadCheck (s : State) (kind : Nat) (pl : List Byte) : Option MAns :=
  if kind = 1 then (folioCheck pl s.devBit s.dev.fuses.revId).map (fun a => { status := a.status, detail := a.detail, c0 := a.c0 })
  else ((if kind = 2 then vocabCheck pl else grammarCheck pl)).map (fun d => { status := stTableRefused, detail := d })

/-- What WRITE stores: its KIND, or the answer that ends it (R436, R452). -/
def State.writeKind (s : State) (b : List Byte) : Except MAns Nat :=
  if leAt b 0 4 = 0x4B505746 then (if s.pkgCheck b = stOk then .ok 4 else .error { status := s.pkgCheck b })
  else match s.packOpen [1, 2, 3] b with
    | .error st => .error { status := st }
    | .ok pl => match s.payloadCheck (leAt b 6 1) pl with
      | some a => .error a
      | none => .ok (leAt b 6 1)

/-- The lowest free sectors for a pack, at or beyond sector 4,096 (R451; assumption log 16). -/
def mediaRoom (m : CaskMedia) (n : Nat) : Option Nat :=
  lowestFree 4096 (m.capacityMiB * 2048 - 4096) (packSectors n) (m.entries.map (fun e => (e.2.startSector, packSectors e.2.bytes.length)))

/-- CASK WRITE ends: the pack or package is verified and stored in the lowest free entry (R451, R453). -/
def opCaskWrite (s : State) (o : MgmtOp) : State × MAns :=
  match s.caskChecks true true with
  | some a => (s, a)
  | none =>
    if o.path = 1 then (s, { status := stBadField, detail := 24 })
    else
      let b := padTo (o.f 20 4) o.data
      match s.writeKind b, s.cask.media with
      | .error a, _ => (s, a)
      | .ok _, none => (s, { status := stCaskAbsent })
      | .ok kind, some m =>
        match (List.range 8191).find? (fun i => (nget m.entries (i + 1)).isNone), mediaRoom m b.length with
        | some i, some sec =>
          let e : CaskEntry := { kind, sha := sha256 b, name := sliceB o.body 16 32, startSector := sec, bytes := b }
          let s := { s with cask := { s.cask with media := some { m with
            generation := m.generation + 1, entries := tput { kind := 0, sha := [], name := [], startSector := 0, bytes := [] } m.entries (i + 1) e } } }
          let s := s.ledgerAdd (packSectors b.length + 2048)
          (s, { status := s.caskOk, c0 := i + 1 })
        | _, _ => (s, { status := stCaskFull })

/-- CASK DELETE (R453). -/
def opCaskDelete (s : State) (o : MgmtOp) : State × MAns :=
  match s.caskChecks true true with
  | some a => (s, a)
  | none =>
    let i := o.f 18 2
    if i = 0 ∨ 8191 < i then (s, { status := stBadField, detail := 18 })
    else
      let s := { s with cask := { s.cask with media := s.cask.media.map (fun (m : CaskMedia) => { m with
        generation := m.generation + 1, entries := ndel m.entries i }) } }
      let s := s.ledgerAdd 2048
      (s, { status := s.caskOk })

/-- PAIR (R449): an entry in the first invalid place, signed with one HSS index. -/
def opPair (s : State) (_ : MgmtOp) : State × MAns :=
  match s.caskChecks true false with
  | some a => (s, a)
  | none =>
    match s.cask.media with
    | none => (s, { status := stCaskAbsent })
    | some m =>
      if 4 ≤ (m.pairing.filter (·.valid)).length then (s, { status := stCaskFull })
      else match s.takeLeaf with
        | none => (s, { status := stLeafExhausted })
        | some (s, i) =>
          let h := sha256 Config.hssPublicKey
          let e : PairEntry := { keyHash := h, serial := s.dev.fuses.serial, valid := true, signature := padTo 5716 (Config.hssSign i (pairMessage m h)) }
          let pairing := match m.pairing.findIdx? (fun x => !x.valid) with
            | some j => m.pairing.set j e
            | none => m.pairing ++ [e]
          let s := { s with cask := { s.cask with media := some { m with pairing } } }
          let s := s.ledgerAdd 0
          (s, { status := s.caskOk })

/-- UNPAIR (R449): the sending device's own entry is cleared. -/
def opUnpair (s : State) (_ : MgmtOp) : State × MAns :=
  match s.caskChecks true true with
  | some a => (s, a)
  | none =>
    let s := { s with cask := { s.cask with media := s.cask.media.map (fun (m : CaskMedia) => { m with
      pairing := m.pairing.map (fun e => if ownPair m e then { e with valid := false } else e) }) } }
    let s := s.ledgerAdd 0
    (s, { status := s.caskOk })

/-! ### Which operation a request is, and whether it is served -/

/-- Body bytes an operation's layout lists (R423, R437, R445, R453, R472, R476, R479, R481). -/
def opBodyFields (op : Nat) : List (Nat × Nat) :=
  match op with
  | 0x01 => [(16, 31)]
  | 0x02 => [(24, 31)]
  | 0x03 => [(16, 16)]
  | 0x04 => [(16, 16)]
  | 0x05 => [(16, 17)]
  | 0x06 => [(16, 18)]
  | 0x07 => [(16, 17), (24, 31)]
  | 0x08 => [(16, 33)]
  | 0x09 => [(20, 63)]
  | 0x0A => [(16, 16), (18, 63)]
  | _ => []

/-- The first non-zero byte a mailbox or sideband body has outside its operation's layout (assumption log 25). -/
def MgmtOp.reserved (o : MgmtOp) : Option Nat :=
  ((List.range 64).map (· + 16)).find? (fun i =>
    decide (o.f i 1 ≠ 0) && !(opBodyFields o.op).any (fun r => decide (r.1 ≤ i) && decide (i ≤ r.2)))

/-- Whether an operation is served at all where the device stands: recovery, FAULT and a dead slow clock serve less (R438, R462, R508). -/
def State.opServed (s : State) (o : MgmtOp) : Bool :=
  if s.dev.slowClockDead then o.op == 0 && o.path == 1
  else if s.mgt.mpState = 2 then
    decide (o.path ≠ 2) && (o.op ≤ 2 || (o.op == 8 && (o.f 16 1 == 0 || o.f 16 1 == 1 || o.f 16 1 == 3)))
  else if s.dev.stage = .fault then
    o.op ≤ 4 || o.op == 7 || o.op == 8 || (o.op == 5 && o.f 17 1 != 1)
  else true

/-- UPDATE by its ACTION (R437). -/
def opUpdate (s : State) (o : MgmtOp) : State × MAns :=
  match o.f 16 1 with
  | 0 => opStage s o
  | 1 => opActivate s o
  | 2 => opCommitSvn s o
  | 3 => opBoardRecord s o
  | 4 => opKeyEnroll s o
  | 5 => opKeyRemove s o
  | _ => (s, { status := stBadField, detail := 16 })

/-- CASK by its ACTION (R453). -/
def opCask (s : State) (o : MgmtOp) : State × MAns :=
  match o.f 16 1 with
  | 0 => opCaskStatus s o
  | 1 => opCaskList s o
  | 2 => opCaskWrite s o
  | 3 => opCaskDelete s o
  | 4 => opPair s o
  | 5 => opUnpair s o
  | _ => (s, { status := stBadField, detail := 16 })

/-- An operation by its code (R423). -/
def opByCode (s : State) (o : MgmtOp) : State × MAns :=
  match o.op with
  | 0x00 => opIdentity s o
  | 0x01 => opLogRead s o
  | 0x02 => opSensorRead s o
  | 0x03 => opFunctionReset s o
  | 0x04 => opComputeReset s o
  | 0x05 => opDomainPower s o
  | 0x06 => opResetPolicy s o
  | 0x07 => opDefectRead s o
  | 0x08 => opUpdate s o
  | 0x09 => opAttest s o
  | _ => opCask s o

/-- An operation run to its end. -/
def opRun (s : State) (o : MgmtOp) : State × MAns :=
  if 0x0A < o.op ∨ (o.op = 0 ∧ o.path = 2) then (s, { status := stBadOpcode })
  else match (if o.path = 2 then none else o.reserved) with
    | some i => (s, { status := stBadField, detail := i })
    | none => if s.opServed o = false then (s, { status := stUnavailable }) else opByCode s o

/-! ### The request paths (R425, R427, R428) -/

/-- An operation ended: its registers and result bytes, or its packet's reply. -/
def State.opAnswer (s : State) (o : MgmtOp) (a : MAns) : State :=
  let addr := o.f 24 8
  let upd := fun (r : OpRegs) => { r with busy := false, done := true, status := a.status, detail := a.detail, counter0 := a.c0, counter1 := a.c1 }
  if o.path = 1 then
    { s with mgt := { s.mgt with sb := { upd s.mgt.sb with resp := if a.bytes.isEmpty then s.mgt.sb.resp else padTo 64 a.bytes } } }
  else if o.path = 0 then
    let host := decide (o.op ≠ 0) && decide (addr ≠ 0) && !a.bytes.isEmpty
    let s := if host then s.emit (.hostWrite 0 addr a.bytes) else s
    { s with mgt := { s.mgt with mbx := { upd s.mgt.mbx with
        data := if host || a.bytes.isEmpty then s.mgt.mbx.data else padTo 64 a.bytes } } }
  else
    match s.cp.flight.find? (fun x => x.id == o.id) with
    | none => s
    | some fl =>
      let s := if a.bytes.isEmpty then s else s.emit (.hostWrite 0 addr a.bytes)
      s.endPacket fl { status := a.status, detail := a.detail, c0 := a.c0, c1 := a.c1 }

/-- Whether an operation takes two steps: STAGE, and a Cask write (R425, R437, R453). -/
def MgmtOp.long (o : MgmtOp) : Bool := (o.op == 8 && o.f 16 1 == 0) || (o.op == 0x0A && o.f 16 1 == 2)

/-- UPDATE_BUSY follows the UPDATE actions in progress (R437). -/
def State.syncUpdate (s : State) : State :=
  { s with mgt := { s.mgt with updateBusy := s.mgt.ops.any (fun o => o.op == 8 && o.steps == 1) } }

/-- What ends a long operation at its first step (R437, R448). -/
def State.opEarly (s : State) (o : MgmtOp) : Option MAns :=
  if o.op = 8 then (match s.stageSource o with
    | .error a => some a
    | .ok _ => none)
  else match s.caskChecks true true with
    | some a => some a
    | none => if o.path = 1 then some { status := stBadField, detail := 24 } else none

/-- A long operation begun: a STAGE clears its slot (R437). -/
def State.opBegin (s : State) (o : MgmtOp) : State :=
  let s := if o.op = 8 then s.setSlot s.stageSlot (fun _ => {}) else s
  ({ s with mgt := { s.mgt with ops := s.mgt.ops ++ [{ o with steps := 1 }] } }).syncUpdate

/-- One step of an operation: an UPDATE while another runs ends with UPDATE_BUSY, a long operation's first step begins it, its last ends it (R425, R437).
Resets and shutdown answer before they act, so that the path's registers stand when the packet table is emptied (assumption log 26). -/
def State.opStep (s : State) (o : MgmtOp) : State :=
  if o.op = 8 ∧ o.steps ≠ 1 ∧ s.mgt.updateBusy then s.opAnswer o { status := stUpdateBusy }
  else if o.long ∧ o.steps = 0 ∧ s.opServed o = true then
    match s.opEarly o with
    | some a => s.opAnswer o a
    | none => s.opBegin o
  else if o.op = 3 ∨ o.op = 4 ∨ (o.op = 5 ∧ o.f 17 1 = 2) ∨ (o.op = 8 ∧ o.f 16 1 = 1) then
    (opRun (s.opAnswer o (opRun s o).2) o).1.syncUpdate
  else ((opRun s o).1.opAnswer o (opRun s o).2).syncUpdate

/-- Operations in progress ended with ABORTED_BY_RESET, a STAGE leaving its slot EMPTY (R426, R437; assumption log 26). -/
def State.abortOps (s : State) : State :=
  let l := s.mgt.ops
  let s := { s with mgt := { s.mgt with ops := [] } }
  (l.foldl (fun s o => s.opAnswer o { status := stAborted }) s).syncUpdate

/-- A request accepted: its path is busy with it, its packet waits for the MP (R425, R427, R428). -/
def State.opMark (s : State) (o : MgmtOp) : State :=
  let mark := fun (r : OpRegs) => { r with op := o.op, busy := true, done := false, overlap := false }
  if o.path = 0 then { s with mgt := { s.mgt with mbx := mark s.mgt.mbx } }
  else if o.path = 1 then { s with mgt := { s.mgt with sb := mark s.mgt.sb } }
  else match s.cp.flight.find? (fun x => x.id == o.id) with
    | some fl => s.setWait fl (fun x => { x with wait := .mp })
    | none => s

/-- A request accepted on its path: served at once when the MP serves nothing else, else in its turn; a forced shutdown is never kept waiting (R425, R426). -/
def State.opAccept (s : State) (o : MgmtOp) : State :=
  let s := s.opMark o
  if o.op = 5 ∧ o.f 17 1 = 2 ∧ s.opServed o = true then s.abortOps.opStep o
  else if s.mgt.ops.isEmpty ∧ (s.mgt.mpState = 1 ∨ s.mgt.mpState = 2) then s.opStep o
  else { s with mgt := { s.mgt with ops := s.mgt.ops ++ [o] } }

/-- A GO of the mailbox (R427, R439): ignored with OVERLAP while BUSY, held while the MP restarts. -/
def State.mailboxGo (s : State) (op : Nat) (data : List Byte) : State :=
  let o : MgmtOp := { op, body := s.mgt.mbx.data, data, path := 0, id := 0, steps := 0 }
  if !s.dev.hiReady ∨ s.mgt.mpState = 0 then s
  else if s.mgt.mbx.busy ∨ s.mgt.heldGo.isSome then { s with mgt := { s.mgt with mbx := { s.mgt.mbx with overlap := true } } }
  else if s.mgt.mpState = 3 then { s with mgt := { s.mgt with heldGo := some o } }
  else s.opAccept o

/-- A GO of the sideband (R428). -/
def State.sidebandGo (s : State) (op : Nat) : State :=
  if s.mgt.mpState = 0 then s
  else if s.mgt.sb.busy then { s with mgt := { s.mgt with sb := { s.mgt.sb with overlap := true } } }
  else s.opAccept { op, body := s.mgt.sb.data, data := [], path := 1, id := 0, steps := 0 }

/-- A management packet's body (R425): handed to the MP with the bytes it reads at ADDR. -/
def bodyMgmt (s : State) (fl : Flight) : State :=
  s.opAccept { op := fl.pk.opcode % 256, body := sliceB fl.pk.bytes 16 64, data := fl.aux.map (BitVec.ofNat 8), path := 2, id := fl.id, steps := 0 }

/-- The next step of the operation whose turn it is (R425). -/
def State.opTurn (s : State) : State :=
  match s.mgt.ops with
  | [] => s
  | o :: t => if s.mgt.mpState = 1 ∨ s.mgt.mpState = 2 then ({ s with mgt := { s.mgt with ops := t } }).opStep o else s

/-- The MP runs again after a restart: the held GO is accepted (R439). -/
def State.mpBack (s : State) : State :=
  match s.mgt.heldGo with
  | none => s
  | some o => ({ s with mgt := { s.mgt with heldGo := none } }).opAccept o

end Sys2Proof.Machine
end

