-- ==== Sys2Proof/Machine/Settle.lean ====
section
/-! DEFINITION. What runs a packet (R308, R310, R313): its body by opcode, the end of its DMA, and everything a change of state lets go on at once: satisfied waits, drained objects, records written, partitions freed. -/

namespace Sys2Proof.Machine

/-- The body of a packet by its opcode (R316). -/
def State.packetBody (s : State) (fl : Flight) : State :=
  match fl.pk.opcode with
  | 0x0101 => bodyNop s fl
  | 0x0102 => bodyFunctionInfo s fl
  | 0x0201 => bodyPartitionCreate s fl
  | 0x0202 => bodyPartitionResize s fl
  | 0x0203 => bodyPartitionDestroy s fl
  | 0x0204 => bodyFolioLoad s fl
  | 0x0205 => bodyFolioUnload s fl
  | 0x0206 => bodyPipelineCreate s fl
  | 0x0207 => bodyPipelineDestroy s fl
  | 0x0208 => bodyAccountRead s fl
  | 0x0301 => bodyStreamOpen s fl
  | 0x0302 => bodyFeed s fl
  | 0x0303 => bodyStreamFlush s fl
  | 0x0304 => bodyStreamReset s fl
  | 0x0305 => bodyStreamClose s fl
  | 0x0306 => bodySnapshot s fl
  | 0x0307 => bodyClipStart s fl
  | 0x0308 => bodyClipStop s fl
  | 0x0309 => bodyEncodeKey s fl
  | 0x0401 => bodyPageSourceOpen s fl
  | 0x0402 => bodySubmitPage s fl
  | 0x0403 => bodyPageSourceClose s fl
  | 0x0501 => bodyTextTableLoad s fl
  | 0x0502 => bodyTextTableUnload s fl
  | 0x0503 => bodyTokenizeOpen s fl
  | 0x0504 => bodyTokenizeFeed s fl
  | 0x0505 => bodyTokenizeClose s fl
  | 0x0601 => bodySyncSignal s fl
  | 0x0602 => bodySyncWait s fl
  | 0x0603 => bodySyncRead s fl
  | 0x0701 => bodyBinFree s fl
  | 0x0702 => bodyBinShare s fl
  | 0x0703 => bodyBinCount s fl
  | 0x0704 => bodyBinTake s fl
  | 0x0801 => bodyDmaIn s fl
  | 0x0802 => bodyDmaOut s fl
  | _ => bodyMgmt s fl

/-- A packet's DMA has ended: what its opcode does with the bytes read, or its reply (R313, R322). -/
def State.packetDone (s : State) (fl : Flight) (data : List Byte) : State :=
  match fl.pk.opcode with
  | 0x0204 => finishFolio s fl data
  | 0x0302 => doneFeed s fl data
  | 0x0402 => donePage s fl data
  | 0x0501 => finishTable s fl data
  | 0x0504 => doneTokenize s fl data
  | 0x0801 => doneDmaIn s fl data
  | 0x0802 => doneDmaOut s fl
  | _ => s.endWith fl stOk

/-- A packet's DMA has failed (R322): HOST_FAULT, with what its opcode gives back. -/
def State.packetFailed (s : State) (fl : Flight) : State :=
  match fl.pk.opcode with
  | 0x0302 => failFeed s fl
  | 0x0402 => failPage s fl
  | _ => s.endWith fl stHostFault

/-- A packet whose header wait has ended: the two checks of R310, then its body. -/
def State.startPacket (s : State) (fl : Flight) : State :=
  match s.startChecks fl with
  | some a => s.endPacket fl a
  | none => s.packetBody fl

/-- Whether a record of an object is not yet in the host's ring (R313). -/
def State.recordsOwed (s : State) (f obj : Nat) : Bool :=
  (s.resAt f).q.any (fun r => r.obj == obj) || (s.resAt f).stalled.any (fun r => r.obj == obj)

/-- A draining packet looked at again: started when its turn has come, moved on when its object is empty (R210, R251, R295). -/
def State.drainTurn (s : State) (fl : Flight) : State :=
  let op := fl.pk.opcode
  let id := pkF fl.pk 16 4
  if isFeed op then (if s.streamBusy fl isFlush then s else startFeed s fl)
  else if isFlush op ∨ isReset op ∨ isClose op then
    if fl.aux.getD 1 0 = 1 then
      match s.openStream fl.pk.fn id with
      | none => s.endWith fl stStreamState
      | some x => if x.drained then flushEmptied s fl x else s
    else if s.streamBusy fl (fun o => isFeed o || isFlush o || isReset o) then s
    else if isFlush op ∨ (isClose op ∧ pkF fl.pk 20 1 = 1) then startFlush s fl
    else startReset s fl
  else if op = 0x0308 then
    let c := pkF fl.pk 20 1
    if ((tget none s.media.clips c).bind (·.todo)).isSome then s else s.endClip c
  else if op = 0x0403 then
    if s.media.pages.any (fun e => e.2.source == id) then s
    else s.setWait fl (fun y => { y with wait := .records (((s.sourceAt id).map (·.completed)).getD 0) })
  else if s.sessionBusy fl then s
  else if op = 0x0504 then startTokenize s fl
  else startTokenizeClose s fl

/-- A packet whose records are all in the host's ring replies (R313). -/
def State.recordsWritten (s : State) (fl : Flight) (n : Nat) : State :=
  match fl.pk.opcode with
  | 0x0308 => s.endPacket fl { status := stOk, c0 := n }
  | 0x0403 => finishSource s fl n
  | _ => finishFlush s fl n

/-- One packet in flight looked at: whatever it waits for that has come lets it go on. -/
def State.nudge (s : State) (fl : Flight) : State :=
  match fl.wait with
  | .header => if s.headerReady fl.pk then s.startPacket fl else s
  | .drain _ => s.drainTurn fl
  | .records n => if s.recordsOwed fl.pk.fn (fl.aux.headD 0) then s else s.recordsWritten fl n
  | .cores p =>
    if (List.range 8).any (fun n => (s.coreAt n).preempt.any (fun x => x.part == 0 && x.victim == p)) then s else s.endWith fl stOk
  | .partFree p =>
    if (s.partAt p).st = .free then s.endWith fl stOk
    else if (s.partAt p).st = .draining ∧ s.held p = 0 then (s.freePart p).refillAll.endWith fl stOk
    else s
  | _ => s

/-- Every packet in flight looked at once, in fetch order. -/
def State.settleOnce (s : State) : State :=
  (s.cp.flight.map (·.id)).foldl (fun s i =>
    match s.cp.flight.find? (fun x => x.id == i) with
    | some fl => s.nudge fl
    | none => s) s.replySatisfied

/-- Looked at over and over, `n` times at most, until nothing in flight moves. -/
def State.settleN : Nat → State → State
  | 0, s => s
  | n + 1, s =>
    if s.cp.flight.isEmpty then s
    else
      let t := s.settleOnce
      if t.cp.flight = s.cp.flight then t else settleN n t

/-- Everything that a change of state lets go on at once (R53, R308, R313, R341): each packet moves at most four times, and pages held for an earlier one are quantised. -/
def State.settle (s : State) : State := (s.settleN (4 * s.cp.flight.length + 1)).quantisePages

/-! ### Commands that are packets -/

/-- A packet fetched from its ring (R304, R308, R310, R311, R315): the four checks, then its body where it need not wait for its header's counter.
Where the CP may not fetch it now, nothing happens. -/
def State.runPacket (s : State) (op : Nat) (pk : Packet) (data : List Byte) : State :=
  if decide (pk.opcode = op) && maySend op pk.fn && s.fetchable pk then
    match s.fetchChecks pk with
    | some a => ((s.fetched pk data).endPacket (s.newFlight pk data) a).settle
    | none => if s.headerReady pk then ((s.fetched pk data).startPacket (s.newFlight pk data)).settle else s.fetched pk data
  else s

/-- A packet of an undefined opcode, or one its function may not send: BAD_OPCODE, with no signal suppressed but R310's (R310, R316). -/
def State.runUndefined (s : State) (pk : Packet) : State :=
  if !maySend pk.opcode pk.fn && s.fetchable pk then
    ((s.fetched pk []).endPacket (s.newFlight pk []) { status := stBadOpcode }).settle
  else s

end Sys2Proof.Machine
end

