-- ==== Sys2Proof/Machine/Packets.lean ====
section
/-! DEFINITION. The meanings of the commands that are packets (R304 to R324), and of the DMAs and timeouts that end a packet's wait (R322, R340 to R344). -/

namespace Sys2Proof.Machine

/-- What a command answers. -/
abbrev StepOut := Host.Outcome State Fault Refusal

/-! ### Packets -/

/-- UNDEFINED_OPCODE (R310). -/
def execUndefinedOpcode (pk : Packet) (s : State) : StepOut := .next (s.runUndefined pk)
/-- NOP (R316). -/
def execNop (pk : Packet) (s : State) : StepOut := .next (s.runPacket 0x0101 pk [])
/-- FUNCTION_INFO (R318). -/
def execFunctionInfo (pk : Packet) (s : State) : StepOut := .next (s.runPacket 0x0102 pk [])
/-- PARTITION_CREATE (R169 to R171, R319). -/
def execPartitionCreate (pk : Packet) (s : State) : StepOut := .next (s.runPacket 0x0201 pk [])
/-- PARTITION_RESIZE (R192, R319). -/
def execPartitionResize (pk : Packet) (s : State) : StepOut := .next (s.runPacket 0x0202 pk [])
/-- PARTITION_DESTROY (R172). -/
def execPartitionDestroy (pk : Packet) (s : State) : StepOut := .next (s.runPacket 0x0203 pk [])
/-- FOLIO_LOAD (R166, R320). -/
def execFolioLoad (pk : Packet) (s : State) : StepOut := .next (s.runPacket 0x0204 pk [])
/-- FOLIO_UNLOAD (R320). -/
def execFolioUnload (pk : Packet) (s : State) : StepOut := .next (s.runPacket 0x0205 pk [])
/-- PIPELINE_CREATE (R321). -/
def execPipelineCreate (pk : Packet) (s : State) : StepOut := .next (s.runPacket 0x0206 pk [])
/-- PIPELINE_DESTROY (R320). -/
def execPipelineDestroy (pk : Packet) (s : State) : StepOut := .next (s.runPacket 0x0207 pk [])
/-- ACCOUNT_READ (R320). -/
def execAccountRead (pk : Packet) (s : State) : StepOut := .next (s.runPacket 0x0208 pk [])
/-- STREAM_OPEN (R209, R211, R214). -/
def execStreamOpen (pk : Packet) (s : State) : StepOut := .next (s.runPacket 0x0301 pk [])
/-- FEED (R213, R322). -/
def execFeed (pk : Packet) (s : State) : StepOut := .next (s.runPacket 0x0302 pk [])
/-- STREAM_FLUSH (R210). -/
def execStreamFlush (pk : Packet) (s : State) : StepOut := .next (s.runPacket 0x0303 pk [])
/-- STREAM_RESET (R210). -/
def execStreamReset (pk : Packet) (s : State) : StepOut := .next (s.runPacket 0x0304 pk [])
/-- STREAM_CLOSE (R210). -/
def execStreamClose (pk : Packet) (s : State) : StepOut := .next (s.runPacket 0x0305 pk [])
/-- SNAPSHOT (R239). -/
def execSnapshot (pk : Packet) (s : State) : StepOut := .next (s.runPacket 0x0306 pk [])
/-- CLIP_START (R240). -/
def execClipStart (pk : Packet) (s : State) : StepOut := .next (s.runPacket 0x0307 pk [])
/-- CLIP_STOP (R240). -/
def execClipStop (pk : Packet) (s : State) : StepOut := .next (s.runPacket 0x0308 pk [])
/-- ENCODE_KEY (R241). -/
def execEncodeKey (pk : Packet) (s : State) : StepOut := .next (s.runPacket 0x0309 pk [])
/-- PAGE_SOURCE_OPEN (R251). -/
def execPageSourceOpen (pk : Packet) (s : State) : StepOut := .next (s.runPacket 0x0401 pk [])
/-- SUBMIT_PAGE (R252 to R254). -/
def execSubmitPage (pk : Packet) (s : State) : StepOut := .next (s.runPacket 0x0402 pk [])
/-- PAGE_SOURCE_CLOSE (R251). -/
def execPageSourceClose (pk : Packet) (s : State) : StepOut := .next (s.runPacket 0x0403 pk [])
/-- TEXT_TABLE_LOAD (R275, R276). -/
def execTextTableLoad (pk : Packet) (s : State) : StepOut := .next (s.runPacket 0x0501 pk [])
/-- TEXT_TABLE_UNLOAD (R275, R276). -/
def execTextTableUnload (pk : Packet) (s : State) : StepOut := .next (s.runPacket 0x0502 pk [])
/-- TOKENIZE_OPEN (R295). -/
def execTokenizeOpen (pk : Packet) (s : State) : StepOut := .next (s.runPacket 0x0503 pk [])
/-- TOKENIZE_FEED (R295 to R299). -/
def execTokenizeFeed (pk : Packet) (s : State) : StepOut := .next (s.runPacket 0x0504 pk [])
/-- TOKENIZE_CLOSE (R295). -/
def execTokenizeClose (pk : Packet) (s : State) : StepOut := .next (s.runPacket 0x0505 pk [])
/-- SYNC_SIGNAL (R340). -/
def execSyncSignal (pk : Packet) (s : State) : StepOut := .next (s.runPacket 0x0601 pk [])
/-- SYNC_WAIT (R341, R342). -/
def execSyncWait (pk : Packet) (s : State) : StepOut := .next (s.runPacket 0x0602 pk [])
/-- SYNC_READ (R340). -/
def execSyncRead (pk : Packet) (s : State) : StepOut := .next (s.runPacket 0x0603 pk [])
/-- BIN_FREE (R351). -/
def execBinFree (pk : Packet) (s : State) : StepOut := .next (s.runPacket 0x0701 pk [])
/-- BIN_SHARE (R352). -/
def execBinShare (pk : Packet) (s : State) : StepOut := .next (s.runPacket 0x0702 pk [])
/-- BIN_COUNT (R316). -/
def execBinCount (pk : Packet) (s : State) : StepOut := .next (s.runPacket 0x0703 pk [])
/-- BIN_TAKE (R350). -/
def execBinTake (pk : Packet) (s : State) : StepOut := .next (s.runPacket 0x0704 pk [])
/-- DMA_IN (R322). -/
def execDmaIn (pk : Packet) (s : State) : StepOut := .next (s.runPacket 0x0801 pk [])
/-- DMA_OUT (R322). -/
def execDmaOut (pk : Packet) (s : State) : StepOut := .next (s.runPacket 0x0802 pk [])

/-! ### The ends of DMAs -/

/-- Bytes that a packet's DMA moves, for the opcodes whose own end does not charge them (R198, R199). -/
def hostBytes (fl : Flight) : Nat :=
  match fl.pk.opcode with
  | 0x0102 => 64
  | 0x0208 => 128
  | 0x0204 => pkF fl.pk 20 4
  | 0x0501 => pkF fl.pk 20 4
  | 0x0504 => if fl.aux.headD 0 = 0 then pkF fl.pk 20 4 else 2 * fl.aux.getD 3 0
  | _ => 0

/-- They are charged to the packet's function. -/
def State.chargeHost (s : State) (fl : Flight) : State := if hostBytes fl = 0 then s else s.charge fl.pk.fn 13 (hostBytes fl)

/-- The bytes of a packet's read, as many as it asked for. -/
def readBytes (fl : Flight) (data : List Byte) : List Byte :=
  match fl.pk.opcode with
  | 0x0204 => padTo (pkF fl.pk 20 4) data
  | 0x0501 => padTo (pkF fl.pk 20 4) data
  | 0x0504 => padTo (pkF fl.pk 20 4) data
  | _ => data

/-- A read whose completion a compute reset waits for has completed or failed (R475 step 2). -/
def State.readOwed (s : State) (id : Nat) : State :=
  match s.dev.reset with
  | some r => ({ s with dev := { s.dev with reset := some { r with owedReads := r.owedReads.filter (· != id) } } }).finishStop
  | none => s

/-- The packet whose own DMA is under way. -/
def State.dmaFlight (s : State) (id : Nat) : Option Flight :=
  s.cp.flight.find? (fun x => x.id == id && decide (x.wait = .dma))

/-- HOST_DMA_DONE (R313, R322): the packet goes on, with the bytes moved charged to its function. -/
def execHostDmaDone (id : Nat) (data : List Byte) (s : State) : StepOut :=
  if s.dev.reset.isSome then .next (s.readOwed id)
  else match s.dmaFlight id with
    | none => .next s
    | some fl => .next (((s.chargeHost fl).packetDone fl (readBytes fl data)).settle)

/-- A fetch, a reply write, a record write or a packet's own DMA that fails on PCIe (R305, R322, R338).
A fetch that fails leaves HEAD where it is; a record whose write fails stays in its queue, since TAIL has not passed it; a reply write fails when its packet ends (assumption log 29). -/
def State.dmaFault (s : State) : DmaTarget → State
  | .fetch f r =>
    let q := s.ringAt f r
    if q.enable ∧ !q.stopped ∧ q.head ≠ q.tail then
      (s.setRing f r (fun q => { q with fetchFault := true, stopped := true })).ringFault f q.vector r
    else s
  | .reply id =>
    if s.cp.nextId ≤ id ∨ s.cp.flight.any (fun x => x.id == id) = true then
      { s with cp := { s.cp with badReplies := setAdd s.cp.badReplies id } }
    else s
  | .record f =>
    let q := s.resAt f
    if q.enable ∧ !q.halted ∧ !q.q.isEmpty then
      (s.setRes f (fun q => { q with writeFault := true, halted := true })).ringFault f q.vector 64
    else s
  | .data id =>
    match s.dmaFlight id with
    | none => s
    | some fl => (s.packetFailed fl).settle

/-- HOST_DMA_ERROR (R305, R322, R338). -/
def execHostDmaError (target : DmaTarget) (s : State) : StepOut :=
  match target with
  | .data id => if s.dev.reset.isSome then .next (s.readOwed id) else .next (s.dmaFault target)
  | _ => .next (s.dmaFault target)

/-! ### Timeouts (R308, R342 to R344) -/

/-- Signals left for later cycles, each applied in its own and followed by what it satisfies (R340). -/
def State.laterSignals (s : State) (l : List Signal) : State := l.foldl (fun s g => (s.applySignal g).settle) s

/-- The cycle in which a packet's wait expires (R343, R344): its signals are applied first, the waits they satisfy reply, and then the wait that is still not satisfied times out. -/
def State.expire (s : State) (fl : Flight) (signals : List Signal) (met : State → Bool) (a : State → Ans) : State :=
  let c := cycleSignals signals
  let s := c.1.foldl State.applySignal s
  let t := s.replySatisfied
  (if met s then t.settle else (t.endPacket fl (a s)).settle).laterSignals c.2

/-- HEADER_WAIT_TIMEOUT (R308): the packet is not executed. A ring whose NS is 0 has no timeout. -/
def execHeaderWaitTimeout (fn : Fin 9) (ring : Fin 64) (signals : List Signal) (s : State) : StepOut :=
  match s.cp.flight.find? (fun x => decide (x.pk.fn = fn) && decide (x.pk.ring = ring) && decide (x.wait = .header)) with
  | none => .next s
  | some fl =>
    if (s.ringAt fn ring).timeout = 0 then .next s
    else .next (s.expire fl signals (fun s => s.headerReady fl.pk) (fun _ => { status := stTimeout, detail := 1 }))

/-- SYNC_WAIT_TIMEOUT (R342): DETAIL 0x0002, COUNTER0 the counter at expiry. A TIMEOUT of 0 never expires. -/
def execSyncWaitTimeout (id : Nat) (signals : List Signal) (s : State) : StepOut :=
  match s.cp.flight.find? (fun x => x.id == id) with
  | none => .next s
  | some fl =>
    match fl.wait with
    | .sync o v =>
      if pkF fl.pk 20 4 = 0 then .next s
      else .next (s.expire fl signals (fun s => decide (v ≤ s.counter fl.pk.fn o))
        (fun s => { status := stTimeout, detail := 2, c0 := s.counter fl.pk.fn o }))
    | _ => .next s

end Sys2Proof.Machine
end

