-- ==== Sys2Proof/Machine/Rings.lean ====
section
/-! DEFINITION. The meanings of the commands on packet rings and result rings: doorbells, enables, heads (R302 to R305, R335, R338), records committed and drained (R325 to R333, R336), and the interrupt delay (R337). -/

namespace Sys2Proof.Machine

/-- Whether the host sees a function at all: HI answers and the function exists (R386, R459). -/
def State.fnPresent (s : State) (f : Nat) : Bool := s.dev.hiReady && s.fnExists f

/-- Whether TLPs for a function are answered with Unsupported Request: its partition is RESETTING (R396). -/
def State.fnResetting (s : State) (f : Nat) : Bool := f != 0 && decide ((s.partAt f).st = .resetting)

/-- Whether a host access to a function's BAR0 pages takes effect; those of a VF under reset are discarded (R386, R396, R459). -/
def State.hostReaches (s : State) (f : Nat) : Bool := s.fnPresent f && !s.fnResetting f

/-! ### Packet rings (R302 to R305) -/

/-- LOG2 and VECTOR of a CP_RING_CTRL or CP_RES_CTRL value. -/
def ctrlLog2 (v : BitVec 32) : Nat := bitsOf v.toNat 16 5
def ctrlVector (v : BitVec 32) : Nat := bitsOf v.toNat 8 6

/-- LOG2_SLOTS and VECTOR written, ignored while ENABLE or RUNNING is 1 (R305). -/
def Ring.configure (r : Ring) (v : BitVec 32) : Ring :=
  if r.running then r else { r with log2 := ctrlLog2 v, vector := ctrlVector v }

/-- DOORBELL (R304, R305, R25): the tail; an enabled ring wakes FB, and a tail beyond the ring stops it. -/
def execDoorbell (fn : Fin 9) (ring : Fin 64) (tail : BitVec 32) (s : State) : StepOut :=
  let s := s.tlp
  if !s.hostReaches fn then .next s
  else
    let r := s.ringAt fn ring
    let s := s.setRing fn ring (fun r => { r with tail })
    if !r.enable then .next s
    else
      let s := s.wake 0
      if 2 ^ r.log2 < (tail - r.head).toNat then
        .next ((s.setRing fn ring (fun r => { r with tailFault := true, stopped := true })).ringFault fn r.vector ring)
      else .next s

/-- RING_ENABLE (R305). A write over a ring that is enabled already changes nothing (assumption log 30). -/
def execRingEnable (fn : Fin 9) (ring : Fin 64) (ctrl : BitVec 32) (s : State) : StepOut :=
  let s := s.tlp
  let r := s.ringAt fn ring
  if !s.hostReaches fn ∨ ctrl.getLsbD 31 = false ∨ r.enable then .next s
  else if r.running then
    .next ((s.setRing fn ring (fun r => { r with configFault := true })).ringFault fn r.vector ring)
  else
    let r := r.configure ctrl
    let s := s.setRing fn ring (fun _ => r)
    if r.log2 < 6 ∨ 16 < r.log2 then
      .next ((s.setRing fn ring (fun r => { r with configFault := true })).ringFault fn r.vector ring)
    else .next (s.setRing fn ring (fun r => { r with enable := true, tail := 0, head := 0, rqHead := 0, rqTail := 0 }))

/-- RING_DISABLE (R305): fetching stops at once; RUNNING and STOPPED clear with the last reply. -/
def execRingDisable (fn : Fin 9) (ring : Fin 64) (ctrl : BitVec 32) (s : State) : StepOut :=
  let s := s.tlp
  if !s.hostReaches fn ∨ ctrl.getLsbD 31 = true then .next s
  else .next (s.setRing fn ring (fun r => (({ r.configure ctrl with enable := false } : Ring)).settleStop))

/-- REPLY_HEAD_WRITE (R304). -/
def execReplyHeadWrite (fn : Fin 9) (ring : Fin 64) (head : BitVec 32) (s : State) : StepOut :=
  let s := s.tlp
  if !s.hostReaches fn then .next s else .next (s.setRing fn ring (fun r => { r with rqHead := head }))

/-! ### Result rings (R335, R338) -/

/-- RESULT_RING_ENABLE (R338): TAIL and HEAD 0, the drain starts; SEQ goes on. VECTOR may change at any time. -/
def execResultRingEnable (fn : Fin 9) (ctrl : BitVec 32) (s : State) : StepOut :=
  let s := s.tlp
  let q := s.resAt fn
  if !s.hostReaches fn ∨ ctrl.getLsbD 31 = false then .next s
  else
    let s := s.setRes fn (fun q => { q with vector := ctrlVector ctrl })
    if q.enable then .next s
    else
      let s := s.setRes fn (fun q => { q with log2 := ctrlLog2 ctrl })
      if ctrlLog2 ctrl < 8 ∨ 20 < ctrlLog2 ctrl then
        .next ((s.setRes fn (fun q => { q with configFault := true })).ringFault fn (ctrlVector ctrl) 64)
      else .next (s.setRes fn (fun q => { q with enable := true, tail := 0, head := 0, halted := false, lostTotal := 0, sinceMsg := 0 }))

/-- RESULT_RING_DISABLE (R338): the drain stops; records stay in the queue. -/
def execResultRingDisable (fn : Fin 9) (ctrl : BitVec 32) (s : State) : StepOut :=
  let s := s.tlp
  if !s.hostReaches fn ∨ ctrl.getLsbD 31 = true then .next s
  else
    let free := fn.val != 0 && decide ((s.partAt fn).st = .free)
    .next (s.setRes fn (fun q => { q with
      q := if free then [] else q.q, stalled := if free then [] else q.stalled,
      enable := false, halted := false, vector := ctrlVector ctrl, log2 := if q.enable then q.log2 else ctrlLog2 ctrl }))

/-- RESULT_HEAD_WRITE (R338): a head beyond the tail of an enabled ring stops the drain. -/
def execResultHeadWrite (fn : Fin 9) (head : BitVec 32) (s : State) : StepOut :=
  let s := s.tlp
  if !s.hostReaches fn then .next s
  else
    let q := s.resAt fn
    let s := s.setRes fn (fun q => { q with head })
    if q.enable ∧ 2 ^ q.log2 < (q.tail - head).toNat then
      .next ((s.setRes fn (fun q => { q with headFault := true, halted := true })).ringFault fn q.vector 64)
    else .next s

/-! ### Records (R325 to R333, R336, R337) -/

/-- Whether a producer writes records of a type (R13, R326): SNAPSHOT_REF is the encoders' own, PAD the CP's as it drains. -/
def mayWrite (p : Producer) (type : Nat) : Bool :=
  match type, p with
  | 1, .tp _ => true
  | 2, .tp _ => true
  | 3, .tp _ => true
  | 4, .en _ => true
  | 4, .snapshot => true
  | 5, .binder => true
  | 6, .tp _ => true
  | 7, .binder => true
  | 8, .binder => true
  | 9, _ => true
  | _, _ => false

/-- Whether a type of record may have a LENGTH (R326). -/
def lengthOk (type n : Nat) : Bool :=
  if type = 2 then decide (1 ≤ n ∧ n ≤ 17) else if type = 7 then decide (2 ≤ n ∧ n ≤ 4) else if type = 8 then decide (1 ≤ n ∧ n ≤ 16) else decide (n = 1)

/-- LENGTH of a record whose bytes from 8 on number n (R325). -/
def recLength (n : Nat) : Nat := (n + 8 + 63) / 64

/-- RECORD_COMMIT (R326, R329, R331): a record of its producer's types and of a length the type has enters its function's queue, waits for FULL to clear, or is lost. -/
def execRecordCommit (fn : Fin 9) (producer : Producer) (type : Byte) (prio : Fin 4) (body : List Byte) (s : State) : StepOut :=
  let n := recLength body.length
  if mayWrite producer type.toNat = false ∨ lengthOk type.toNat n = false then .next s
  else .next (s.commit fn { type, prio, body := padTo (64 * n - 8) body, prod := producer, obj := 0 })

/-- The bytes of a record as it is drained (R325, R333): the header from the descriptor, a word that failed parity delivered as read, which is a free value. -/
def drainBytes (type : Byte) (len prio : Nat) (bad : Option Nat) (phase : Bool) (seq : Nat) (body : List Byte) (epoch : Nat) : List Byte :=
  let free := fun (i : Nat) (b : Byte) => if bad = some (i / 8) then Config.freeByte epoch i else b
  [free 0 type, BitVec.ofNat 8 len, BitVec.ofNat 8 (prio + 4 * b2n bad.isSome + 8 * b2n phase), BitVec.ofNat 8 (bad.getD 0xFF)] ++
    natLE 4 seq ++ (padTo (64 * len - 8) body).zipIdx.map (fun e => free (e.2 + 8) e.1)

/-- One record's entries written at the tail, which moves past them (R336). -/
def State.writeRecord (s : State) (f : Nat) (bytes : List Byte) : State :=
  let q := s.resAt f
  let s := s.emit (.record f (q.base.toNat + 64 * (q.tail.toNat % 2 ^ q.log2)) bytes)
  s.setRes f (fun q => { q with tail := q.tail + BitVec.ofNat 32 (bytes.length / 64) })

/-- The record a drain takes: the earliest of the highest priority (R330). -/
def Res.front (q : Res) : Option Rec :=
  q.q.foldl (fun o r => match o with
    | none => some r
    | some b => if b.prio < r.prio then some r else some b) none

/-- RECORDS_LOST (R328, R332). -/
def lostEvent (q : Res) : Rec :=
  { type := 9, prio := 3, body := eventBody 0x0081 5 0 q.lostSince q.lostTotal 0, prod := .cellarer, obj := 0 }

/-- Stalled producers commit in arrival order while FULL is 0 (R331). -/
def admitRecords : Res → List Rec → Res
  | q, [] => { q with stalled := [] }
  | q, r :: rs => if q.full then { q with stalled := r :: rs } else admitRecords { q with q := q.q ++ [r] } rs

/-- FULL has gone from 1 to 0: RECORDS_LOST enters first when records were lost, then stalled producers commit (R331, R332). -/
def Res.reopen (q : Res) (wasFull : Bool) : Res :=
  let q := if wasFull ∧ !q.full ∧ 0 < q.lostSince then { q with q := q.q ++ [lostEvent q], lostSince := 0 } else q
  admitRecords q q.stalled

/-- A message sent when COUNT records have been written since the last (R337). -/
def State.countRecord (s : State) (f : Nat) : State :=
  let s := s.setRes f (fun q => { q with seq := q.seq + 1, sinceMsg := q.sinceMsg + 1 })
  let q := s.resAt f
  if max 1 q.count ≤ q.sinceMsg then (s.setRes f (fun q => { q with sinceMsg := 0 })).msix f q.vector else s

/-- The front record written, with a PAD before it where fewer entries than it needs remain before the end of the ring; where it does not fit, it waits (R330, R336). -/
def State.drainFront (s : State) (f : Nat) (bad : Option Nat) : State :=
  match (s.resAt f).front with
  | none => s
  | some r =>
    let q := s.resAt f
    let n := r.len
    let left := 2 ^ q.log2 - q.tail.toNat % 2 ^ q.log2
    let room := 2 ^ q.log2 - (q.tail - q.head).toNat
    let pad := decide (left < n)
    if pad ∧ room < left then s
    else
      let s := if pad then s.writeRecord f (drainBytes 0 left r.prio none (phaseOf q.tail q.log2) q.seq.toNat [] 0) else s
      if room - (if pad then left else 0) < n then s
      else
        let q := s.resAt f
        let s := s.writeRecord f (drainBytes r.type n r.prio (bad.filter (fun w => decide (w < 8 * n))) (phaseOf q.tail q.log2) q.seq.toNat r.body s.mem.epoch)
        let s := if bad.isSome then { s with mem := { s.mem with epoch := s.mem.epoch + 1 } } else s
        let s := s.countRecord f
        s.setRes f (fun q => ({ q with q := q.q.erase r }).reopen q.full)

/-- Whether the CP drains a function's queue now: ring enabled and not stopped, FB awake, the CP running. -/
def State.draining (s : State) (f : Nat) : Bool :=
  (s.resAt f).enable && !(s.resAt f).halted && decide ((s.domAt 0).st = .on) && s.fwUp 0 && !s.dev.cpStalled

/-- RECORD_DRAIN (R330 to R333, R336): closing packets that wait for their records go on (R313). -/
def execRecordDrain (fn : Fin 9) (badWord : Option (Fin 136)) (descriptorBad : Bool) (s : State) : StepOut :=
  if !s.draining fn then .next s
  else if descriptorBad ∧ !(s.resAt fn).q.isEmpty then
    .next (s.setRes fn (fun q => (({ q with q := [] } : Res).lose q.q.length).reopen q.full)).settle
  else .next (s.drainFront fn (badWord.map (·.val))).settle

/-- RESULT_IRQ_DELAY (R337): DELAY_US after the first record written since the last message. -/
def execResultIrqDelay (fn : Fin 9) (s : State) : StepOut :=
  let q := s.resAt fn
  if q.delay = 0 ∨ q.sinceMsg = 0 then .next s
  else .next ((s.setRes fn (fun q => { q with sinceMsg := 0 })).msix fn q.vector)

end Sys2Proof.Machine
end

