-- ==== Sys2Proof/Machine/Windows.lean ====
section
/-! DEFINITION. BAR2 windows: entries (R392), translation and access (R393 to R395), accesses held for a sleeping domain (R25, R394). -/

namespace Sys2Proof.Machine

/-! ### Window entries (R392) -/

/-- The fields of a window entry a function may write: OWNER only on PF0. -/
def winMask (f : Nat) : BitVec 64 :=
  BitVec.ofNat 64 (0xE1FFFE0000000000 + 0x000000FFFFFFF000 + (if f = 0 then 0x1E00000000000000 else 0))

/-- Windows a function has. -/
def winCount (f : Nat) : Nat := if f = 0 then 256 else 16

/-- An entry's two halves. -/
def winJoin (hi lo : Nat) : BitVec 64 := BitVec.ofNat 64 (hi * 2 ^ 32 + lo)

/-- WINDOW_ENTRY_WRITE (R392): a low half waits for the next write of the high half. -/
def execWindowEntryWrite (fn : Fin 9) (index : Fin 256) (access : WindowAccess) (s : State) : StepOut :=
  let s := s.tlp
  let k := 256 * fn.val + index.val
  if !s.hostReaches fn ∨ winCount fn ≤ index.val then .next s
  else match access with
    | .whole v => .next { s with hi := { s.hi with win := tput 0 s.hi.win k (v &&& winMask fn) } }
    | .lowHalf v => .next { s with hi := { s.hi with winLow := tput none s.hi.winLow k (some v) } }
    | .highHalf v =>
      let lo := match tget none s.hi.winLow k with
        | some l => l.toNat
        | none => (tget 0 s.hi.win k).toNat % 2 ^ 32
      .next { s with hi := { s.hi with
        win := tput 0 s.hi.win k (winJoin v.toNat lo &&& winMask fn), winLow := tput none s.hi.winLow k none } }

/-! ### Translation (R393, R394) -/

/-- Where an access goes: its device address, or the completion of a read that fails. -/
def State.translate (s : State) (f ofs len : Nat) (write : Bool) : Except Completion Nat :=
  let i := ofs / 2 ^ 28
  let w := ofs % 2 ^ 28
  let e := (tget 0 s.hi.win (256 * f + i)).toNat
  let base := bitsOf e 12 28 * 4096 + w
  let p := if f = 0 then bitsOf e 57 4 else f
  if s.dev.stage ≠ .ready ∨ winCount f ≤ i ∨ bitOf e 63 = false ∨ bitsOf e 41 16 < w / 4096 then .error .unsupportedRequest
  else if (if write then bitOf e 61 else bitOf e 62) = false then .error .completerAbort
  else if p = 0 then
    match s.regionOf base with
    | .regs => .error .completerAbort
    | .unmapped => .error .completerAbort
    | _ => .ok base
  else if (s.partAt p).st = .free ∨ s.binBytes p < base + len then .error .completerAbort
  else .ok (s.binAddr p base)

/-- The AER code of a failed write: the status a read would have received (R394). -/
def Completion.aer : Completion → Nat
  | .unsupportedRequest => aerUR
  | .completerAbort => aerCA
  | .poisoned _ => aerPoison
  | .data _ => 0

/-- The bytes a window moves, charged to the function that asked and drawn on its partition's regulators (R196, R198, R199). -/
def State.chargeAccess (s : State) (f a n : Nat) (write : Bool) : State :=
  match s.regionOf a with
  | .dram => s.dramTraffic f 0 3 write a n
  | .cellar => ((s.charge f 10 n).spendAll f (if write then [(3 + 3, n)] else s.injected .cellar a n)).1
  | _ => s

/-- A read served: its bytes, poisoned when their line is (R375, R394). -/
def State.serveRead (s : State) (f a n : Nat) : State :=
  let bs := s.bytesAt a n
  (s.chargeAccess f a n false).emit (.completion f (if (s.firstPoison a n).isSome then .poisoned bs else .data bs))

/-- A write served, which clears the zero-map bits it touches (R45, R395). -/
def State.serveWrite (s : State) (f a : Nat) (bs : List Byte) : State := (s.chargeAccess f a bs.length true).writeOutside a bs

/-- A held access ended with Completer Abort: a read's completion, a write's AER entry; both are logged through AER when a wake fails (R25, R394). -/
def State.failHeld (s : State) (h : Held) (wakeFailed : Bool) : State :=
  let s := if h.data.isEmpty then s.emit (.completion h.fn .completerAbort) else s
  if wakeFailed || !h.data.isEmpty then (if h.isReg then s else s.emit (.aer h.fn aerCA)) else s

/-- Whether a read by PF0 through a window without OWNER reaches an address outside every region, which R363 also has logged through AER. -/
def State.missesRegions (s : State) (f ofs : Nat) : Bool :=
  let e := (tget 0 s.hi.win (256 * f + ofs / 2 ^ 28)).toNat
  decide (f = 0) && bitOf e 62 && decide (bitsOf e 57 4 = 0) && decide (s.regionOf (bitsOf e 12 28 * 4096 + ofs % 2 ^ 28) = .unmapped)

/-- A read that failed: its completion, and the AER entry of R363 where it reached an address outside every region. -/
def State.failRead (s : State) (f ofs : Nat) (c : Completion) : State :=
  if c = .completerAbort ∧ s.missesRegions f ofs = true then (s.emit (.completion f c)).emit (.aer f aerCA) else s.emit (.completion f c)

/-- A window access, a write when bytes are given: failed, served, or held while its domain wakes (R25, R394). -/
def State.windowAccess (s : State) (f ofs len : Nat) (data : List Byte) (write : Bool) : State :=
  let fail := fun (c : Completion) => if write then s.emit (.aer f c.aer) else s.failRead f ofs c
  if !s.fnPresent f ∨ len = 0 ∨ 4096 < ofs % 4096 + len then s
  else if s.fnResetting f then (if write then s else s.emit (.completion f .unsupportedRequest))
  else match s.translate f ofs len write with
    | .error c => fail c
    | .ok a =>
      match s.domOf a with
      | none => fail .completerAbort
      | some d =>
        if (s.domAt d).st = .on then (if write then s.serveWrite f a data else s.serveRead f a len)
        else if (s.domAt d).switchedOff then fail .completerAbort
        else
          let s := s.wake d
          { s with hi := { s.hi with held := s.hi.held ++ [{ dom := d, fn := f, addr := a, len, data, isReg := false }] } }

/-- WINDOW_READ (R393, R394). -/
def execWindowRead (fn : Fin 9) (offset : Nat) (len : Nat) (s : State) : StepOut := .next (s.tlp.windowAccess fn offset len [] false)

/-- WINDOW_WRITE (R393, R394). -/
def execWindowWrite (fn : Fin 9) (offset : Nat) (data : List Byte) (s : State) : StepOut :=
  .next (s.tlp.windowAccess fn offset data.length data true)

/-- ACCESS_HOLD_TIMEOUT (R394, R491): the oldest held access ends with Completer Abort. -/
def execAccessHoldTimeout (s : State) : StepOut :=
  match s.hi.held with
  | [] => .next s
  | h :: t => .next (({ s with hi := { s.hi with held := t } }).failHeld h false)

end Sys2Proof.Machine
end

