-- ==== Sys2Proof/Machine/Registers.lean ====
section
/-! DEFINITION. The register space (R487 to R501) and every register's fields: MC (R81 to R88), SEQ (R167), CEL (R201 to R205), DC (R249, R250), PG (R273), TX (R300), CP (R354), MEM (R380 to R382), PWR (R418, R419), MGT and CASK (R455 to R457, R484, R499), HI, EN, PP, TK; the descriptor table (R390, R391); reads and writes of them (R11, R389, R490 to R494). -/

namespace Sys2Proof.Machine

/-! ### The index (R487) -/

/-- A block, with its instance. -/
inductive Block where
  | hi | cp | cel | mc (n : Nat) | seq (n : Nat) | dc (k : Nat) | en | pg | pp (n : Nat) | tk (k : Nat) | tx
  | memGlobal | memCh (c : Nat) | pwr | mgt | cask
  deriving DecidableEq, Repr

/-- The KIND 1 entries of the descriptor table: ID, base above the register space's, instances, stride (R391, R487). -/
def blockTable : List (Nat × Nat × Nat × Nat) :=
  [(0x01, 0x01000000, 1, 0x1000), (0x02, 0x02000000, 1, 0x1000), (0x03, 0x03000000, 1, 0x1000), (0x04, 0x04000000, 8, 0x10000),
   (0x05, 0x04100000, 8, 0x10000), (0x06, 0x05000000, 4, 0x10000), (0x07, 0x06000000, 1, 0x1000), (0x08, 0x05800000, 1, 0x1000)] ++
  [(0x09, 0x06100000, 8, 0x10000), (0x0A, 0x06400000, 4, 0x10000), (0x0B, 0x06800000, 1, 0x1000), (0x0C, 0x07800000, 1, 0x1000),
   (0x0D, 0x07000000, 12, 0x10000), (0x0E, 0x09000000, 1, 0x1000), (0x0F, 0x0A000000, 1, 0x1000), (0x10, 0x0A800000, 1, 0x1000)]

/-- A block by its ID and instance. -/
def blockById (id i : Nat) : Block :=
  match id with
  | 0x01 => .hi
  | 0x02 => .cp
  | 0x03 => .cel
  | 0x04 => .mc i
  | 0x05 => .seq i
  | 0x06 => .dc i
  | 0x07 => .en
  | 0x08 => .pg
  | 0x09 => .pp i
  | 0x0A => .tk i
  | 0x0B => .tx
  | 0x0C => .memGlobal
  | 0x0D => .memCh i
  | 0x0E => .pwr
  | 0x0F => .mgt
  | _ => .cask

/-- The block and the offset a device address lies at. -/
def blockOf (a : Nat) : Option (Block × Nat) :=
  (blockTable.find? (fun e => decide (regBase + e.2.1 ≤ a) && decide (a < regBase + e.2.1 + e.2.2.1 * e.2.2.2))).map (fun e =>
    let o := a - regBase - e.2.1
    (blockById e.1 (o / e.2.2.2), o % e.2.2.2))

/-! ### Fields -/

/-- A flag at a bit. -/
def atBit (b : Bool) (k : Nat) : Nat := b2n b * 2 ^ k

/-- One half of a 64-bit register. -/
def half (v : Nat) (high : Bool) : Nat := if high then v / 2 ^ 32 % 2 ^ 32 else v % 2 ^ 32

/-- A set of numbers as bits. -/
def setBits (l : List Nat) : Nat := (l.map (2 ^ ·)).sum

/-- SEQ_STATUS.STATE (R167): no binding check lasts beyond the issue in this model. -/
def Core.seqState (c : Core) : Nat :=
  match c.active with
  | none => 0
  | some a => if a.ended then 3 else 2

/-- The MC registers of a core (R82 to R88). -/
def State.mcWord (s : State) (n ofs : Nat) : Nat :=
  let c := s.coreAt n
  match ofs with
  | 0x00 => c.defect * 2 ^ 12 + c.fuse * 2 ^ 8 + (if c.out then 0 else c.enabled * 16 + c.arrays)
  | 0x08 => atBit c.mapFull 4 +
      4 * (if !c.tasted then 0 else if c.out then 3 else if (s.domAt (5 + n)).st ≠ .on then 0 else if c.active.isSome then 2 else 1) +
      2 * b2n c.checksum + b2n (c.writes.any (·.lane))
  | 0x10 => c.rowFail.toNat * 16 + c.colFail.toNat
  | 0x14 => c.checkCount
  | 0x18 => (match c.checkLast with
      | some (a, k, p) => 2 ^ 12 + (a % 4) * 2 ^ 10 + b2n k * 2 ^ 9 + p % 64
      | none => 0)
  | 0x20 => c.eccStatus.toNat
  | 0x24 => c.ce
  | 0x28 => c.ueAddr / 64 % 2 ^ 19 * 64
  | 0x30 => half c.passes false
  | 0x34 => half c.passes true
  | 0x38 => half c.skips false
  | 0x3C => half c.skips true
  | 0x40 => c.stalls
  | _ => 0

/-- The CEL registers (R201 to R205). -/
def State.celWord (s : State) (spine : Bool) (ofs : Nat) : Nat :=
  let nib := fun (f : Core → Nat) => ((List.range 8).map (fun n => (if (s.coreAt n).out then 15 else f (s.coreAt n)) * 16 ^ n)).sum
  let sel := if spine then s.cel.acctSelSpine else s.cel.acctSel
  let rc := bitsOf sel.toNat 16 13
  let acct := if rc ≤ 8 ∨ tget 0 s.cel.clients rc ≠ 0 then tget 0 s.cel.acct (16 * rc + bitsOf sel.toNat 0 4) else 0
  match ofs with
  | 0x00 => s.coresIn.length * 2 ^ 20 + (s.coresIn.filter (fun n => (s.coreAt n).owner == 0 && (s.coreAt n).user == 0)).length * 2 ^ 16 +
      setBits ((List.range 8).filter (fun n => (s.coreAt n).preempt.any (fun x => x.part != 0))) * 2 ^ 8 +
      setBits ((List.range 8).filter (fun i => decide ((s.partAt (i + 1)).st ≠ .free)))
  | 0x04 => nib (·.owner)
  | 0x08 => nib (·.user)
  | 0x10 => s.cel.transfers * 2 ^ 16 + s.cel.preempts
  | 0x14 => (match s.cel.last with
      | some (c, p, t, a, d) => 2 ^ 31 + (c % 8) * 2 ^ 28 + (p % 16) * 2 ^ 24 + atBit t 23 + atBit a 22 + min d (2 ^ 22 - 1)
      | none => 0)
  | 0x18 => s.cel.rerunCheck * 2 ^ 16 + s.cel.rerunAbandon
  | 0x20 => half s.cel.rackBytes false
  | 0x24 => half s.cel.rackBytes true
  | 0x400 => sel.toNat
  | 0x408 => half acct false
  | 0x40C => half acct true
  | _ =>
    if 0x100 ≤ ofs ∧ ofs < 0x180 then
      let p := (ofs - 0x100) / 16 + 1
      let q := s.partAt p
      let held := (s.coresHeld p).length
      match ofs % 16 with
      | 0 => if q.st = .free then 0 else held * 2 ^ 24 + q.coresMin * 2 ^ 20 + q.coresMax * 2 ^ 16 +
          (if q.policy ≠ 0 then q.policy else if held = 0 then 0 else if held ≤ 2 then 1 else 2) * 2 ^ 14 +
          atBit q.belowMin 13 + partCode q.st * 2 ^ 8
      | 4 => q.fabricRate * 2 ^ 16 + q.dramRate
      | 8 => q.throttle
      | _ => 0
    else 0

/-- The CP registers (R354). -/
def State.cpWord (s : State) (spine : Bool) (ofs : Nat) : Nat :=
  let ss := (if spine then s.cp.syncSelSpine else s.cp.syncSel).toNat
  let bs := (if spine then s.cp.binSelSpine else s.cp.binSel).toNat
  let f := bitsOf ss 16 4
  let o := bitsOf ss 0 13
  let v := if o < s.syncObjects f then s.counter f o else 0
  let waits := (s.cp.flight.filter (fun fl => fl.pk.fn.val == f && (match fl.wait with
    | .sync x _ => x == o
    | .header => pkWait fl.pk && pkWaitSync fl.pk == o
    | _ => false))).length
  let p := bitsOf bs 0 4
  match ofs with
  | 0x00 => ss
  | 0x08 => half v false
  | 0x0C => half v true
  | 0x10 => waits
  | 0x20 => bs
  | 0x24 => if (s.partAt p).st = .free then 0 else s.freeCount p (bitsOf bs 4 3) * 2 ^ 16 + s.binCount p (bitsOf bs 4 3)
  | 0x28 => s.cp.binEmpty
  | _ => 0

/-- The DC registers of a cluster (R250). -/
def State.dcWord (s : State) (k ofs : Nat) : Nat :=
  let c := s.clusterAt k
  match ofs with
  | 0x00 => (s.clusterStreams k).length * 2 ^ 16 + (bitList 10 c.busy.toNat).length * 2 ^ 8 + (bitList 10 c.engines.toNat).length * 16 + b2n c.up
  | 0x04 => c.engines.toNat
  | 0x08 => c.conceal
  | 0x0C => c.budget
  | 0x10 => half c.pictures false
  | 0x14 => half c.pictures true
  | _ => 0

/-- The PG registers (R273). -/
def State.pgWord (s : State) (ofs : Nat) : Nat :=
  match ofs with
  | 0x00 => s.pagesInFlight * 2 ^ 16 + s.media.pgBusy.toNat * 16 + s.media.pgService.toNat
  | 0x04 => s.media.pgBudget
  | 0x08 => s.media.pgTrunc
  | 0x0C => s.media.pgRefused
  | 0x10 => half s.media.pgPages false
  | 0x14 => half s.media.pgPages true
  | _ => 0

/-- The TX registers (R300): a selection is one command here, so SELECT_BUSY reads 0. -/
def State.txWord (s : State) (ofs : Nat) : Nat :=
  let t := s.text
  let live := t.reads.filter (fun e => !e.2.ended)
  match ofs with
  | 0x00 => live.length * 2 ^ 16 + t.sessions.length * 2 ^ 8 + atBit (live.any (fun e => e.2.maskAsked && !e.2.maskReady)) 2 + b2n t.binderUp
  | 0x04 => setBits ((List.range 8).filter (fun h => (tget none t.vocab h).isSome))
  | 0x08 => setBits ((List.range 32).filter (fun h => (tget none t.grammar h).isSome))
  | 0x0C => t.maskLate
  | 0x10 => t.replaces
  | 0x14 => t.rejects
  | 0x18 => t.stops
  | 0x20 => half t.steps false
  | 0x24 => half t.steps true
  | _ => 0

/-- The code of a channel's state (R382). -/
def chCode : ChState → Nat
  | .absent => 0
  | .training => 1
  | .ready => 2
  | .hold => 3
  | .failed => 4
  | .fenced => 5

/-- The MEM global registers (R381). -/
def State.memWord (s : State) (ofs : Nat) : Nat :=
  let n := s.ddr.inService.length
  match ofs with
  | 0x00 => atBit s.ddr.insufficient 31 + setBits s.ddr.inService * 2 ^ 16 +
      setBits ((List.range 12).filter (fun c => decide ((s.chan c).st = .failed))) * 16 + n
  | 0x04 => n * 256 * 2 ^ 20 + n * s.ddr.cMin * 2 ^ 8 + s.ddr.cMin
  | 0x08 => s.ddr.periodH.toNat * 2 ^ 16 + b2n s.ddr.scrubEnable
  | _ => 0

/-- The registers of a channel (R382). -/
def State.chWord (s : State) (c ofs : Nat) : Nat :=
  let x := s.chan c
  let ue := match x.ueAddr with
    | some a => 2 ^ 63 + a / 64 * 64 % 2 ^ 40
    | none => 0
  match ofs with
  | 0x00 => chCode x.st * 2 ^ 16 + x.fence * 2 ^ 14 + x.temp * 2 ^ 12 + x.fgr * 4 + atBit x.hot 1 + b2n x.selfRefresh
  | 0x04 => x.ce
  | 0x08 => x.ue
  | 0x10 => half ue false
  | 0x14 => half ue true
  | 0x18 => x.crc * 2 ^ 16 + x.parity
  | 0x1C => x.holds * 2 ^ 16 + x.moves
  | 0x20 => x.marginW * 2 ^ 8 + x.marginR
  | 0x28 => x.patgen.toNat % 2 ^ 29
  | 0x2C => x.patbase.toNat
  | 0x30 => atBit x.cmpDone 31 + atBit (decide (0 < x.cmpErrors)) 30 + (x.cmpLane % 128) * 2 ^ 23 + x.cmpErrors
  | _ => 0

/-- The PWR registers (R419). -/
def State.pwrWord (s : State) (spine : Bool) (ofs : Nat) : Nat :=
  let p := s.pwr
  let sel := (if spine then p.sensorSelSpine else p.sensorSel).toNat
  let mon := (if spine then p.energySelSpine else p.energySel).toNat
  let doms := fun (st : DomState) (n b : Nat) => setBits ((List.range n).filter (fun d => decide ((s.domAt (b + d)).st = st)))
  let r := p.sensors.getD sel { valid := false, temp := 0 }
  match ofs with
  | 0x00 => doms .on 30 0
  | 0x04 => doms .off 30 0
  | 0x08 => doms .ret 8 13
  | 0x0C => atBit p.halved 6 + p.pllLocked.toNat
  | 0x10 => p.idleCtrl.toNat
  | 0x20 => p.thermCtrl.toNat
  | 0x24 => s.thermStage * 2 ^ 20 + setBits p.released * 2 ^ 12 + ofSigned 12 p.tj
  | 0x28 => sel
  | 0x2C => if sel < 20 then atBit r.valid 12 + ofSigned 12 r.temp else 0
  | 0x30 => p.avg % 2 ^ 16 * 2 ^ 16 + p.limitW
  | 0x38 => mon
  | 0x40 => half (tget 0 p.energy mon) false
  | 0x44 => half (tget 0 p.energy mon) true
  | 0x48 => p.releases * 2 ^ 16 + p.halvings
  | _ => 0

/-- The MGT registers (R456, R484, R499). -/
def State.mgtWord (s : State) (ofs : Nat) : Nat :=
  let m := s.mgt
  let un := setBits m.unavail
  match ofs with
  | 0x00 => s.mgtStatus
  | 0x04 => m.bootCount
  | 0x08 => m.slotA.reg
  | 0x0C => m.slotB.reg
  | 0x10 => (m.logSeq + 2 ^ 32 - 1) % 2 ^ 32
  | 0x14 => (s.logAll.head?.map (·.seq)).getD 0
  | 0x18 => half un false
  | 0x1C => half un true
  | 0x20 => half m.leafNext false
  | 0x24 => half m.leafNext true
  | 0x28 => half m.leafReserved false
  | 0x2C => half m.leafReserved true
  | 0x30 => atBit m.root0Revoked 8 + setBits (m.keys.map (·.1))
  | 0x38 => half (m.aonCount % 2 ^ 48) false
  | 0x3C => half (m.aonCount % 2 ^ 48) true
  | 0x40 => atBit m.scrub 8 + m.keep.toNat
  | _ =>
    if 0x100 ≤ ofs ∧ ofs < 0x140 ∧ ofs % 4 = 0 then
      let h := tget 0 m.claims ((ofs - 0x100) / 4)
      atBit (decide (h ≠ 0)) 31 + h
    else 0

/-- The CASK registers (R457). -/
def State.caskWord (s : State) (ofs : Nat) : Nat :=
  let m := if s.cask.present then s.cask.media else none
  let written := ((m.map (fun m => (m.ledger.map (·.sectors)).sum)).getD 0) % 2 ^ 64
  match ofs with
  | 0x00 => s.caskStatus
  | 0x04 => (m.map (·.capacityMiB)).getD 0
  | 0x08 => ((m.map (fun m => m.entries.length)).getD 0) * 2 ^ 16 + 8191
  | 0x10 => half written false
  | 0x14 => half written true
  | 0x18 => s.cask.errorCount
  | _ => 0

/-- The word at a block's offset, as the spine's or the host's copy of a selector picks it: a 64-bit register is two words, and an undefined offset reads 0 (R12, R490, R493). -/
def State.blockWord (s : State) (spine : Bool) (b : Block) (ofs : Nat) : Nat :=
  let m := s.media
  match b with
  | .hi => (match ofs with
    | 0x00 => s.dev.fuses.devId * 256 + s.dev.fuses.revId
    | 0x04 => s.deviceStatus
    | 0x08 => s.linkStatus
    | 0x0C => s.hi.linkChanges
    | 0x10 => half s.dev.fuses.serial false
    | 0x14 => half s.dev.fuses.serial true
    | _ => 0)
  | .cp => s.cpWord spine ofs
  | .cel => s.celWord spine ofs
  | .mc n => s.mcWord n ofs
  | .seq n =>
    let c := s.coreAt n
    (match ofs with
    | 0x00 => c.seqState * 2 ^ 16 + (match c.active with
        | some a => a.quire
        | none => c.lastQuire)
    | 0x04 => c.longCount
    | 0x08 => c.abandonCount
    | _ => 0)
  | .dc k => s.dcWord k ofs
  | .en =>
    let n := fun (e : Nat) => ((List.range 16).filter (fun i => (tget none m.clips (16 * e + i)).isSome)).length
    (match ofs with
    | 0x00 => n 1 * 2 ^ 16 + n 0 * 2 ^ 8 + m.enService.toNat * 8 + setBits ((List.range 3).filter (fun e => (tget none m.enBusy e).isSome))
    | 0x08 => half m.enPictures false
    | 0x0C => half m.enPictures true
    | 0x10 => m.enDrops
    | _ => 0)
  | .pg => s.pgWord ofs
  | .pp n => (match ofs with
    | 0x00 => 2 * b2n (m.ppService.getLsbD n) + b2n (m.ppBusy.getLsbD n)
    | 0x08 => half (tget 0 m.ppPixels n) false
    | 0x0C => half (tget 0 m.ppPixels n) true
    | 0x10 => tget 0 m.ppHolds n
    | _ => 0)
  | .tk k => (match ofs with
    | 0x00 => (m.streams.filter (fun e => e.2.tp == k && decide (e.2.st ≠ .closed))).length * 2 ^ 16 + 2 * b2n (m.tkUp.getLsbD k)
    | 0x08 => half (tget 0 m.tkRecords k) false
    | 0x0C => half (tget 0 m.tkRecords k) true
    | 0x10 => tget 0 m.tkFull k
    | _ => 0)
  | .tx => s.txWord ofs
  | .memGlobal => s.memWord ofs
  | .memCh c => s.chWord c ofs
  | .pwr => s.pwrWord spine ofs
  | .mgt => s.mgtWord ofs
  | .cask => s.caskWord ofs

/-- Whether a 64-bit register starts at a block's offset. -/
def wide : Block → Nat → Bool
  | .hi, o => o == 0x10
  | .cp, o => o == 0x08
  | .cel, o => o == 0x20 || o == 0x408
  | .mc _, o => o == 0x30 || o == 0x38
  | .seq _, _ => false
  | .dc _, o => o == 0x10
  | .en, o => o == 0x08
  | .pg, o => o == 0x10
  | .pp _, o => o == 0x08
  | .tk _, o => o == 0x08
  | .tx, o => o == 0x20
  | .memGlobal, _ => false
  | .memCh _, o => o == 0x10
  | .pwr, o => o == 0x40
  | .mgt, o => o == 0x18 || o == 0x20 || o == 0x28 || o == 0x38
  | .cask, o => o == 0x10

/-- What a read of an RC register clears (R11); reads of other registers change nothing. `host` spares MC_CHECK_COUNT, which a BAR4 read does not clear (R493). -/
def State.clearRc (s : State) (host : Bool) (b : Block) (ofs : Nat) : State :=
  match b, ofs with
  | .hi, 0x0C => { s with hi := { s.hi with linkChanges := 0 } }
  | .cp, 0x28 => { s with cp := { s.cp with binEmpty := 0 } }
  | .cel, 0x10 => { s with cel := { s.cel with transfers := 0, preempts := 0 } }
  | .cel, 0x18 => { s with cel := { s.cel with rerunCheck := 0, rerunAbandon := 0 } }
  | .cel, o => if 0x100 ≤ o ∧ o < 0x180 ∧ o % 16 = 8 then s.setPart ((o - 0x100) / 16 + 1) (fun q => { q with throttle := 0 }) else s
  | .mc n, 0x14 => if host then s else s.setCore n (fun c => { c with checkCount := 0 })
  | .mc n, 0x24 => s.setCore n (fun c => { c with ce := 0 })
  | .mc n, 0x40 => s.setCore n (fun c => { c with stalls := 0 })
  | .seq n, 0x04 => s.setCore n (fun c => { c with longCount := 0 })
  | .seq n, 0x08 => s.setCore n (fun c => { c with abandonCount := 0 })
  | .dc k, 0x08 => s.setCluster k (fun c => { c with conceal := 0 })
  | .dc k, 0x0C => s.setCluster k (fun c => { c with budget := 0 })
  | .en, 0x10 => { s with media := { s.media with enDrops := 0 } }
  | .pg, 0x04 => { s with media := { s.media with pgBudget := 0 } }
  | .pg, 0x08 => { s with media := { s.media with pgTrunc := 0 } }
  | .pg, 0x0C => { s with media := { s.media with pgRefused := 0 } }
  | .pp n, 0x10 => { s with media := { s.media with ppHolds := tput 0 s.media.ppHolds n 0 } }
  | .tk k, 0x10 => { s with media := { s.media with tkFull := tput 0 s.media.tkFull k 0 } }
  | .tx, 0x0C => { s with text := { s.text with maskLate := 0 } }
  | .tx, 0x10 => { s with text := { s.text with replaces := 0 } }
  | .tx, 0x14 => { s with text := { s.text with rejects := 0 } }
  | .tx, 0x18 => { s with text := { s.text with stops := 0 } }
  | .memCh c, 0x04 => s.setChan c (fun x => { x with ce := 0 })
  | .memCh c, 0x08 => s.setChan c (fun x => { x with ue := 0 })
  | .memCh c, 0x18 => s.setChan c (fun x => { x with crc := 0, parity := 0 })
  | .memCh c, 0x1C => s.setChan c (fun x => { x with holds := 0, moves := 0 })
  | .pwr, 0x48 => { s with pwr := { s.pwr with releases := 0, halvings := 0 } }
  | .cask, 0x18 => { s with cask := { s.cask with errorCount := 0 } }
  | _, _ => s

/-! ### Writes -/

/-- The bits of a register a write may set: old bits elsewhere. -/
def maskWrite (mask old v : BitVec 32) : BitVec 32 := (old &&& ~~~mask) ||| (v &&& mask)

/-- PWR fields written by PF0 or the MP (R419, R494): a LIMIT_W outside 50 to 300 is ignored. -/
def State.writePwr (s : State) (spine : Bool) (ofs : Nat) (v : BitVec 32) : State :=
  let sel := BitVec.ofNat 5 (v.toNat % 32)
  match ofs with
  | 0x10 => { s with pwr := { s.pwr with idleCtrl := v } }
  | 0x20 => if thresholdsOk v then ({ s with pwr := { s.pwr with thermCtrl := v } }).thermWarn else s
  | 0x28 => if spine then { s with pwr := { s.pwr with sensorSelSpine := sel } } else { s with pwr := { s.pwr with sensorSel := sel } }
  | 0x30 =>
    let w := v.toNat % 1024
    if 50 ≤ w ∧ w ≤ 300 then { s with pwr := { s.pwr with limitW := w } } else s
  | 0x38 => if spine then { s with pwr := { s.pwr with energySelSpine := sel } } else { s with pwr := { s.pwr with energySel := sel } }
  | _ => s

/-- A 32-bit write of a register: over BAR4 the fields of R494, over the spine the RW and W1C fields of every block (R81, R201, R354, R380, R418). -/
def State.writeWord (s : State) (spine : Bool) (b : Block) (ofs : Nat) (v : BitVec 32) : State :=
  match b, ofs with
  | .cp, 0x00 =>
    let f := fun o => maskWrite 0x000F1FFF o v
    if spine then { s with cp := { s.cp with syncSelSpine := f s.cp.syncSelSpine } } else { s with cp := { s.cp with syncSel := f s.cp.syncSel } }
  | .cp, 0x20 =>
    let f := fun o => maskWrite 0x0000007F o v
    if spine then { s with cp := { s.cp with binSelSpine := f s.cp.binSelSpine } } else { s with cp := { s.cp with binSel := f s.cp.binSel } }
  | .cel, 0x400 =>
    let f := fun o => maskWrite 0x1FFF000F o v
    if spine then { s with cel := { s.cel with acctSelSpine := f s.cel.acctSelSpine } } else { s with cel := { s.cel with acctSel := f s.cel.acctSel } }
  | .mc n, 0x10 =>
    if spine then s.setCore n (fun c => { c with rowFail := c.rowFail &&& ~~~(v.extractLsb' 4 4), colFail := c.colFail &&& ~~~(v.extractLsb' 0 4) }) else s
  | .mc n, 0x20 => s.setCore n (fun c => { c with eccStatus := c.eccStatus &&& ~~~(v.extractLsb' 0 2) })
  | .pwr, o => s.writePwr spine o v
  | .memGlobal, 0x08 => { s with ddr := { s.ddr with periodH := v.extractLsb' 16 8, scrubEnable := v.getLsbD 0 } }
  | .memCh c, 0x28 => if spine then s.setChan c (fun x => { x with patgen := v &&& 0x1FFFFFFF }) else s
  | .memCh c, 0x2C => if spine then s.setChan c (fun x => { x with patbase := v }) else s
  | _, _ => s

/-! ### Reaching the space from the host (R389, R490, R491) -/

/-- The switched domain that holds a block. -/
def blockDomain : Block → Option Nat
  | .cp => some 0
  | .cel => some 0
  | .mc n => some (5 + n)
  | .seq n => some (5 + n)
  | .dc k => some (21 + k)
  | .en => some 25
  | .pg => some 26
  | .pp _ => some 27
  | .tk _ => some 28
  | .tx => some 29
  | .memCh c => some (1 + c / 4)
  | _ => none

/-- Whether a block is served at this stage (R491). -/
def State.blockServed (s : State) (b : Block) : Bool :=
  match b with
  | .memCh _ => decide (s.dev.stage = .training) || decide (s.dev.stage = .tasting) || decide (s.dev.stage = .ready) || s.ddr.insufficient
  | _ => (blockDomain b).isNone || (decide (s.dev.stage = .ready) && !s.ddr.insufficient)

/-- Whether an instance is fused off, or a channel a DX4-24 lacks (R473, R490). -/
def State.blockFused (s : State) (b : Block) : Bool :=
  match b with
  | .mc n => (List.range 4).all (fun i => bitOf s.dev.fuses.arrayMask (4 * n + i))
  | .seq n => (List.range 4).all (fun i => bitOf s.dev.fuses.arrayMask (4 * n + i))
  | .dc k => (List.range 10).all (s.engineFused k)
  | .memCh c => decide (10 ≤ c) && decide (s.dev.fuses.devId = 0x4D18)
  | _ => false

/-- The bytes of the register at a block's offset, 8 for a 64-bit register. -/
def State.regBytes (s : State) (spine : Bool) (b : Block) (ofs : Nat) : List Byte :=
  if wide b ofs then natLE 4 (s.blockWord spine b ofs) ++ natLE 4 (s.blockWord spine b (ofs + 4)) else natLE 4 (s.blockWord spine b ofs)

/-- A BAR4 access whose block can be reached: a read's completion and what it clears, or a write's words. -/
def State.serveReg (s : State) (a : Nat) (data : List Byte) : State :=
  match blockOf a with
  | none => s
  | some (b, o) =>
    if s.blockFused b then (if data.isEmpty then s.emit (.completion 0 (.data (List.replicate 4 0))) else s)
    else if data.isEmpty then (s.emit (.completion 0 (.data (s.regBytes false b o)))).clearRc true b o
    else
      let s := s.writeWord false b o (BitVec.ofNat 32 (leAt data 0 4))
      if data.length = 8 then s.writeWord false b (o + 4) (BitVec.ofNat 32 (leAt data 4 4)) else s

/-- A BAR4 access (R389, R490, R491): served, held while its domain wakes, or answered as a target that cannot be reached. -/
def State.bar4Access (s : State) (a : Nat) (data : List Byte) : State :=
  let ur := fun (c : Completion) => if data.isEmpty then s.emit (.completion 0 c) else s
  match blockOf a with
  | none => ur .unsupportedRequest
  | some (b, _) =>
    if !s.blockServed b then ur .unsupportedRequest
    else match blockDomain b with
      | none => s.serveReg a data
      | some d =>
        if s.blockFused b ∨ (s.domAt d).st = .on then s.serveReg a data
        else if (s.domAt d).st = .off then ur .completerAbort
        else
          let s := s.wake d
          { s with hi := { s.hi with held := s.hi.held ++ [{ dom := d, fn := 0, addr := a, len := 4, data, isReg := true }] } }

/-- LATCHED_COUNTER_READ (R81): a spine read of the low half of a 64-bit register latches its high half, which a read of the high half returns. -/
def execLatchedCounterRead (addr : Nat) (high : Bool) (s : State) : StepOut :=
  match blockOf addr with
  | none => .next s
  | some (b, o) =>
    if wide b o = false then .next s
    else if high then .next (s.emit (.spineData (tget 0 s.latch addr)))
    else .next { s.emit (.spineData (s.blockWord true b o)) with latch := tput 0 s.latch addr (s.blockWord true b (o + 4)) }

/-! ### REGISTER_WRITE (R11, R302, R335, R383, R389, R427, R494) -/

/-- A write in a ring's registers: the bases, ignored while ENABLE or RUNNING is 1, the timeout, and the W1C bits of the status (R303, R305). -/
def Ring.write (r : Ring) (ofs : Nat) (v : BitVec 64) : Ring :=
  let lo := v.extractLsb' 0 32
  let base := fun (old : BitVec 64) (high : Bool) => (if high then lo ++ old.extractLsb' 0 32 else v) &&& ~~~0x3F#64
  match ofs with
  | 0x00 => if r.running then r else { r with sqBase := base r.sqBase false }
  | 0x04 => if r.running then r else { r with sqBase := base r.sqBase true }
  | 0x08 => if r.running then r else { r with rqBase := base r.rqBase false }
  | 0x0C => if r.running then r else { r with rqBase := base r.rqBase true }
  | 0x14 => { r with timeout := lo }
  | 0x28 => { r with configFault := r.configFault && !v.getLsbD 4, tailFault := r.tailFault && !v.getLsbD 3,
                     fetchFault := r.fetchFault && !v.getLsbD 2 }
  | _ => r

/-- A write in a result page: the base, ignored while ENABLE is 1, the interrupt fields, and the W1C bits of the status (R335, R338). -/
def Res.write (q : Res) (ofs : Nat) (v : BitVec 64) : Res :=
  let lo := v.extractLsb' 0 32
  let base := fun (high : Bool) => (if high then lo ++ q.base.extractLsb' 0 32 else v) &&& ~~~0x3F#64
  match ofs with
  | 0x00 => if q.enable then q else { q with base := base false }
  | 0x04 => if q.enable then q else { q with base := base true }
  | 0x0C => { q with delay := v.toNat / 2 ^ 16 % 2 ^ 16, count := v.toNat % 2 ^ 16 }
  | 0x18 => { q with configFault := q.configFault && !v.getLsbD 5, headFault := q.headFault && !v.getLsbD 4,
                     writeFault := q.writeFault && !v.getLsbD 3, overrun := q.overrun && !v.getLsbD 2 }
  | _ => q

/-- A write of an MSI-X table entry: its address, or its data with the mask bit; unmasking sends a pending message (log 9). -/
def State.writeMsix (s : State) (f i : Nat) (high : Bool) (v : BitVec 64) : State :=
  let k := 64 * f + i
  if !high then { s with hi := { s.hi with msix := tmod {} s.hi.msix k (fun m => { m with addr := v }) } }
  else
    let m := tget {} s.hi.msix k
    let m : Msix := { m with data := v.extractLsb' 0 32, masked := v.getLsbD 32 }
    let send := m.pending && !m.masked
    let s := { s with hi := { s.hi with msix := tput {} s.hi.msix k { m with pending := m.pending && !send } } }
    if send then s.emit (.msix f i) else s

/-- Whether a write comes over the link. -/
def targetOnLink : RegTarget → Bool
  | .spine _ => false
  | _ => true

/-- REGISTER_WRITE (R494): a write of a register that has no row of its own. -/
def execRegisterWrite (target : RegTarget) (value : BitVec 64) (s : State) : StepOut :=
  let s := if targetOnLink target then s.tlp else s
  match target with
  | .bar4 ofs size =>
    if !s.dev.hiReady ∨ 2 ^ 24 ≤ ofs ∨ ¬(size = 4 ∨ size = 8) ∨ ofs % size ≠ 0 then .next s
    else .next (s.bar4Access (regBase + s.hi.slice * 2 ^ 24 + ofs) (natLE size value.toNat))
  | .spine addr =>
    match blockOf addr with
    | none => .next s
    | some (b, o) => .next (s.writeWord true b o (value.extractLsb' 0 32))
  | .ringPage f ofs => if s.hostReaches f then .next (s.setRing f (ofs / 64 % 64) (fun r => r.write (ofs % 64) value)) else .next s
  | .resultPage f ofs => if s.hostReaches f then .next (s.setRes f (fun q => q.write ofs value)) else .next s
  | .aperture => if s.dev.hiReady then .next { s with hi := { s.hi with slice := value.toNat % 16 } } else .next s
  | .mailboxOp =>
    if !s.dev.hiReady then .next s
    else
      let op := value.toNat % 256
      if value.getLsbD 31 then .next (s.mailboxGo op []).settle
      else .next { s with mgt := { s.mgt with mbx := { s.mgt.mbx with op } } }
  | .mailboxData i =>
    if !s.dev.hiReady then .next s
    else
      let d := s.mgt.mbx.data
      .next { s with mgt := { s.mgt with mbx := { s.mgt.mbx with
        data := d.take (4 * i.val) ++ natLE 4 (value.toNat % 2 ^ 32) ++ d.drop (4 * i.val + 4) } } }
  | .msixEntry f i high => if s.hostReaches f then .next (s.writeMsix f i high value) else .next s
  | .linkControl => if s.dev.hiReady then .next { s with hi := { s.hi with aspm := value.extractLsb' 0 4 } } else .next s

/-! ### Held accesses (R25, R394, R491) -/

/-- The accesses held for a domain that is awake are served, in the order they arrived; where its wake failed, they end. -/
def State.releaseHeld (s : State) (d : Nat) (ok : Bool) : State :=
  let l := s.hi.held.filter (fun h => h.dom == d)
  let s := { s with hi := { s.hi with held := s.hi.held.filter (fun h => h.dom != d) } }
  l.foldl (fun s h =>
    if !ok then s.failHeld h true
    else if h.isReg then s.serveReg h.addr h.data
    else if h.data.isEmpty then s.serveRead h.fn h.addr h.len
    else s.serveWrite h.fn h.addr h.data) s

/-! ### The descriptor table (R390, R391) -/

/-- The KIND 2 counts of a grade, in ID order (R391). -/
def gradeCounts (dev : Nat) : List Nat :=
  [8, 8, if dev = 0x4D20 then 32 else if dev = 0x4D1C then 28 else 24, if dev = 0x4D18 then 32 else 40, if dev = 0x4D18 then 10 else 12,
   8192, 4096, 64, 64, 256, 16, 1024, 1024, 8, 32]

/-- One entry of the table. -/
def descEntry (kind id inst size value : Nat) : List Byte := natLE 1 kind ++ natLE 1 id ++ natLE 2 inst ++ natLE 4 size ++ natLE 8 value

/-- The 4 KiB table of every function. -/
def State.descriptorTable (s : State) : List Byte :=
  let pages := [(0, 0x1000, 0x0000), (1, 0x1000, 0x1000), (2, 0x1000, 0x2000), (3, 0x1000, 0x3000), (4, 0x1000, 0x4000), (5, 0x400, 0x8000), (6, 8, 0x9000)]
  let chans := if s.dev.fuses.devId = 0x4D18 then 10 else 12
  let e := pages.flatMap (fun p => descEntry 0 p.1 1 p.2.1 p.2.2) ++
    blockTable.flatMap (fun b => descEntry 1 b.1 (if b.1 = 0x0D then chans else b.2.2.1) b.2.2.2 (regBase + b.2.1)) ++
    (gradeCounts s.dev.fuses.devId).zipIdx.flatMap (fun c => descEntry 2 (c.2 + 1) 1 0 c.1)
  padTo 4096 (natLE 4 0x43534544 ++ natLE 2 1 ++ natLE 2 s.dev.fuses.devId ++ natLE 1 s.dev.fuses.revId ++ [0] ++ natLE 2 (e.length / 16) ++
    natLE 4 0 ++ e)

/-! ### Reads of a function's pages and of configuration space (R302, R335, R384, R388, R427) -/

/-- A word of a ring's registers (R302, R303). -/
def Ring.word (r : Ring) (ofs : Nat) : Nat :=
  match ofs with
  | 0x00 => half r.sqBase.toNat false
  | 0x04 => half r.sqBase.toNat true
  | 0x08 => half r.rqBase.toNat false
  | 0x0C => half r.rqBase.toNat true
  | 0x10 => b2n r.enable * 2 ^ 31 + r.log2 % 32 * 2 ^ 16 + r.vector % 64 * 2 ^ 8
  | 0x14 => r.timeout.toNat
  | 0x18 => r.tail.toNat
  | 0x1C => r.head.toNat
  | 0x20 => r.rqHead.toNat
  | 0x24 => r.rqTail.toNat
  | 0x28 => r.inflight % 2 ^ 16 * 2 ^ 16 + packBits [r.running, r.stopped, r.fetchFault, r.tailFault, r.configFault]
  | _ => 0

/-- A word of a result page (R335). -/
def Res.word (q : Res) (ofs : Nat) : Nat :=
  match ofs with
  | 0x00 => half q.base.toNat false
  | 0x04 => half q.base.toNat true
  | 0x08 => b2n q.enable * 2 ^ 31 + q.log2 % 32 * 2 ^ 16 + q.vector % 64 * 2 ^ 8
  | 0x0C => q.delay % 2 ^ 16 * 2 ^ 16 + q.count % 2 ^ 16
  | 0x10 => q.tail.toNat
  | 0x14 => q.head.toNat
  | 0x18 => q.used % 2 ^ 11 * 2 ^ 16 + packBits [q.enable && !q.halted, q.full, q.overrun, q.writeFault, q.headFault, q.configFault]
  | 0x1C => q.lost
  | _ => 0

/-- A word of an MSI-X table entry or of the pending-bit array, as PCI Express lays them out (R383, R388; assumption log 9). -/
def State.msixWord (s : State) (f ofs : Nat) : Nat :=
  if ofs < 0x400 then
    let m := tget {} s.hi.msix (64 * f + ofs / 16)
    match ofs % 16 with
    | 0 => half m.addr.toNat false
    | 4 => half m.addr.toNat true
    | 8 => m.data.toNat
    | _ => b2n m.masked
  else packBits ((List.range 32).map (fun i => (tget {} s.hi.msix (64 * f + (ofs - 0x1000) / 4 * 32 + i)).pending))

/-- The word at an offset of a function's BAR0 (R388): offsets that no page holds, and the aperture page on a VF, read 0. -/
def State.pageWord (s : State) (f ofs : Nat) : Nat :=
  if ofs < 0x1000 then leAt s.descriptorTable ofs 4
  else if ofs < 0x2000 then (s.ringAt f ((ofs - 0x1000) / 64)).word (ofs % 64)
  else if ofs < 0x3000 then (s.resAt f).word (ofs - 0x2000)
  else if ofs < 0x4000 then
    let i := (ofs - 0x3000) / 8
    if i < winCount f then half (tget 0 s.hi.win (256 * f + i)).toNat (decide (ofs % 8 = 4)) else 0
  else if ofs = 0x4000 ∧ f = 0 then s.hi.slice
  else if (0x8000 ≤ ofs ∧ ofs < 0x8400) ∨ (0x9000 ≤ ofs ∧ ofs < 0x9008) then s.msixWord f (ofs - 0x8000)
  else 0

/-- What a read of a function's page clears: CP_RES_LOST (R11, R335). -/
def State.clearPage (s : State) (f ofs : Nat) : State := if ofs = 0x201C then s.setRes f (fun q => { q with lost := 0 }) else s

/-- Vendor ID, Class Code and the SR-IOV counts (R384). -/
def vendorId : Nat := 0x1F3D
def classCode : Nat := 0x120000
def totalVFs : Nat := 8
def firstVfOffset : Nat := 1
def vfStride : Nat := 1

/-- A word of a function's configuration header at its place in PCI Express (R384; assumption log 74): on a VF the Vendor and Device ID read ones, and the SR-IOV capability names them. -/
def State.headerWord (s : State) (f ofs : Nat) : Nat :=
  match ofs with
  | 0x00 => if f = 0 then s.dev.fuses.devId * 2 ^ 16 + vendorId else 2 ^ 32 - 1
  | 0x08 => classCode * 2 ^ 8 + s.dev.fuses.revId
  | 0x2C => s.hi.subsystem.toNat
  | _ => (Config.configWord 0 f ofs).toNat

/-- A word of the SR-IOV capability, at its place in PCI Express (R384, R386; assumption log 74). -/
def State.sriovWord (s : State) (ofs : Nat) : Nat :=
  match ofs with
  | 0x08 => b2n s.hi.vfEnable
  | 0x0C => totalVFs * 2 ^ 16 + totalVFs
  | 0x10 => s.hi.numVFs
  | 0x14 => vfStride * 2 ^ 16 + firstVfOffset
  | 0x18 => (s.dev.fuses.devId + 1) * 2 ^ 16
  | _ => (Config.configWord 1 0 ofs).toNat

/-- A word of the mailbox capability (R427); the version and link of its header are PCI Express's (assumption log 74). -/
def State.mailboxWord (s : State) (ofs : Nat) : Nat :=
  let m := s.mgt.mbx
  match ofs with
  | 0x00 => (Config.configWord 2 0 0).toNat / 2 ^ 16 * 2 ^ 16 + 0x000B
  | 0x04 => 0x68 * 2 ^ 20 + 1 * 2 ^ 16 + 0x0D41
  | 0x08 => m.op % 256
  | 0x0C => b2n m.busy * 2 ^ 31 + b2n m.done * 2 ^ 30 + b2n m.overlap * 2 ^ 29 + b2n (decide (s.mgt.mpState = 3)) * 2 ^ 28 + m.status % 2 ^ 16
  | 0x10 => m.detail % 2 ^ 16
  | 0x18 => m.counter0 % 2 ^ 32
  | 0x1C => m.counter0 / 2 ^ 32 % 2 ^ 32
  | 0x20 => m.counter1 % 2 ^ 32
  | 0x24 => m.counter1 / 2 ^ 32 % 2 ^ 32
  | o => if 0x28 ≤ o ∧ o < 0x68 then leAt m.data (o - 0x28) 4 else 0

/-- A 4-byte read of a function answered with a word, where HI answers and the function exists; Unsupported Request while its partition is RESETTING (R386, R396, R459). -/
def State.readWord (s : State) (f : Nat) (word : Nat) : State :=
  if !s.fnPresent f then s
  else if s.fnResetting f then s.emit (.completion f .unsupportedRequest)
  else s.emit (.completion f (.data (natLE 4 word)))

/-- RC_REGISTER_READ (R11, R81, R302, R335, R384, R388, R427, R493): a register by its device address, over the spine or through PF0's BAR4 at the slice it lies in; or a word of a function's BAR0 or of configuration space. -/
def execRcRegisterRead (path : ReadPath) (addr : Nat) (s : State) : StepOut :=
  if addr % 4 ≠ 0 then .next s
  else match path with
    | .spine =>
      match blockOf addr with
      | none => .next s
      | some (b, o) => .next ((s.emit (.spineData (s.blockWord true b o))).clearRc false b o)
    | .bar4 =>
      if addr < regBase ∨ regBase + 0x10000000 ≤ addr ∨ !s.dev.hiReady ∨ s.hi.slice ≠ (addr - regBase) / 2 ^ 24 then .next s
      else .next (s.tlp.bar4Access addr [])
    | .functionPage fn =>
      if 2 ^ 16 ≤ addr then .next s
      else if s.hostReaches fn then .next ((s.tlp.readWord fn (s.pageWord fn addr)).clearPage fn addr)
      else .next (s.tlp.readWord fn 0)
    | .config fn => if 2 ^ 12 ≤ addr then .next s else .next (s.tlp.readWord fn (s.headerWord fn addr))
    | .sriov => if 0x40 ≤ addr then .next s else .next (s.tlp.readWord 0 (s.sriovWord addr))
    | .mailbox => if 0x68 ≤ addr then .next s else .next (s.tlp.readWord 0 (s.mailboxWord addr))

end Sys2Proof.Machine
end

