-- ==== Sys2Proof/Machine/MgmtCmd.lean ====
section
/-! DEFINITION. The meanings of the management operations by their three request paths (R423 to R428), of the sideband's commands (R428) and of the MP's turns (R425). -/

namespace Sys2Proof.Machine

/-- Whether the body a path would carry has the ACTION a row names, `none` where the operation has one row; an ACTION that no row names goes with the first row of its operation and ends with BAD_FIELD. -/
def actionIs (act : Option (Nat × Nat)) (last : Nat) (body : List Byte) : Bool :=
  match act with
  | none => true
  | some (ofs, a) => decide (leAt body (ofs - 16) 1 = a) || (a == 0 && decide (last < leAt body (ofs - 16) 1))

/-- A management operation asked for (R425): a GO of the mailbox or the sideband, or a packet of PF0 from its ring. -/
def State.askOp (s : State) (op : Nat) (act : Option (Nat × Nat)) (req : MgmtReq) : State :=
  let last := if op = 5 then 2 else 5
  match req.path with
  | .mailbox => if actionIs act last s.mgt.mbx.data then (s.tlp.mailboxGo op req.data).settle else s
  | .sideband => if actionIs act last s.mgt.sb.data then (s.sidebandGo op).settle else s
  | .packet pk =>
    if op = 0 then (if pk.opcode = 0x0900 then s.runUndefined pk else s)
    else if actionIs act last (sliceB pk.bytes 16 64) then s.runPacket (0x0900 + op) pk req.data else s

/-- IDENTITY_STATUS (R424). -/
def execIdentityStatus (req : MgmtReq) (s : State) : StepOut := .next (s.askOp 0 none req)
/-- LOG_READ (R423, R430). -/
def execLogRead (req : MgmtReq) (s : State) : StepOut := .next (s.askOp 1 none req)
/-- SENSOR_READ (R423). -/
def execSensorRead (req : MgmtReq) (s : State) : StepOut := .next (s.askOp 2 none req)
/-- FUNCTION_RESET (R481). -/
def execFunctionReset (req : MgmtReq) (s : State) : StepOut := .next (s.askOp 3 none req)
/-- COMPUTE_RESET (R475, R479). -/
def execComputeReset (req : MgmtReq) (s : State) : StepOut := .next (s.askOp 4 none req)
/-- DOMAIN_POWER ACTION 0 (R407, R423). -/
def execDomainPowerOff (req : MgmtReq) (s : State) : StepOut := .next (s.askOp 5 (some (17, 0)) req)
/-- DOMAIN_POWER ACTION 1 (R407, R423). -/
def execDomainPowerOn (req : MgmtReq) (s : State) : StepOut := .next (s.askOp 5 (some (17, 1)) req)
/-- DOMAIN_POWER ACTION 2 (R416, R423). -/
def execForcedShutdown (req : MgmtReq) (s : State) : StepOut := .next (s.askOp 5 (some (17, 2)) req)
/-- RESET_POLICY (R476). -/
def execResetPolicy (req : MgmtReq) (s : State) : StepOut := .next (s.askOp 6 none req)
/-- DEFECT_READ (R472). -/
def execDefectRead (req : MgmtReq) (s : State) : StepOut := .next (s.askOp 7 none req)
/-- UPDATE STAGE (R437). -/
def execStage (req : MgmtReq) (s : State) : StepOut := .next (s.askOp 8 (some (16, 0)) req)
/-- UPDATE ACTIVATE (R437, R438). -/
def execActivate (req : MgmtReq) (s : State) : StepOut := .next (s.askOp 8 (some (16, 1)) req)
/-- UPDATE COMMIT_SVN (R437, R440). -/
def execCommitSvn (req : MgmtReq) (s : State) : StepOut := .next (s.askOp 8 (some (16, 2)) req)
/-- UPDATE BOARD_RECORD (R437). -/
def execBoardRecord (req : MgmtReq) (s : State) : StepOut := .next (s.askOp 8 (some (16, 3)) req)
/-- UPDATE KEY_ENROLL (R435, R437). -/
def execKeyEnroll (req : MgmtReq) (s : State) : StepOut := .next (s.askOp 8 (some (16, 4)) req)
/-- UPDATE KEY_REMOVE (R435, R437). -/
def execKeyRemove (req : MgmtReq) (s : State) : StepOut := .next (s.askOp 8 (some (16, 5)) req)
/-- ATTEST (R445). -/
def execAttest (req : MgmtReq) (s : State) : StepOut := .next (s.askOp 9 none req)
/-- CASK STATUS (R453). -/
def execCaskStatus (req : MgmtReq) (s : State) : StepOut := .next (s.askOp 10 (some (16, 0)) req)
/-- CASK LIST (R453). -/
def execCaskList (req : MgmtReq) (s : State) : StepOut := .next (s.askOp 10 (some (16, 1)) req)
/-- CASK WRITE (R452, R453). -/
def execCaskWrite (req : MgmtReq) (s : State) : StepOut := .next (s.askOp 10 (some (16, 2)) req)
/-- CASK DELETE (R453). -/
def execCaskDelete (req : MgmtReq) (s : State) : StepOut := .next (s.askOp 10 (some (16, 3)) req)
/-- CASK PAIR (R449, R453). -/
def execPair (req : MgmtReq) (s : State) : StepOut := .next (s.askOp 10 (some (16, 4)) req)
/-- CASK UNPAIR (R449, R453). -/
def execUnpair (req : MgmtReq) (s : State) : StepOut := .next (s.askOp 10 (some (16, 5)) req)

/-- MP_OPERATION_STEP (R425): the slots in rotation. -/
def execMpOperationStep (s : State) : StepOut := .next s.opTurn.settle

/-! ### The sideband (R428, R514) -/

/-- Whether a sideband command is taken: AON out of reset, and its PEC right where SMBus asks for one. -/
def State.sbTaken (s : State) (pecOk : Bool) : Bool := s.aonUp && (pecOk || s.dev.straps.sbMode)

/-- A sideband command: its effect, or a NACK for a failed PEC. -/
def State.sbCommand (s : State) (pecOk : Bool) (effect : State) : State :=
  if !s.aonUp then s else if s.sbTaken pecOk then effect else s.emit .sidebandNack

/-- Half of the parameter bytes written. -/
def State.sbParam (s : State) (high : Bool) (data : List Byte) : State :=
  let d := s.mgt.sb.data
  let n := padTo 32 data
  { s with mgt := { s.mgt with sb := { s.mgt.sb with data := if high then d.take 32 ++ n else n ++ d.drop 32 } } }

/-- PARAM_LO: parameter bytes 0 to 31. -/
def execParamLo (pecOk : Bool) (data : List Byte) (s : State) : StepOut := .next (s.sbCommand pecOk (s.sbParam false data))
/-- PARAM_HI: parameter bytes 32 to 63. -/
def execParamHi (pecOk : Bool) (data : List Byte) (s : State) : StepOut := .next (s.sbCommand pecOk (s.sbParam true data))

/-- The 22 bytes of STATUS. -/
def State.sbStatus (s : State) : List Byte :=
  let r := s.mgt.sb
  [BitVec.ofNat 8 (b2n r.busy + 2 * b2n r.done + 4 * b2n r.overlap + 8 * b2n (decide (s.mgt.mpState = 3))), 0] ++
    natLE 2 r.status ++ natLE 2 r.detail ++ natLE 8 r.counter0 ++ natLE 8 r.counter1

/-- STATUS. -/
def execStatus (pecOk : Bool) (s : State) : StepOut := .next (s.sbCommand pecOk (s.emit (.sideband s.sbStatus)))
/-- RESP_LO: result bytes 0 to 31. -/
def execRespLo (pecOk : Bool) (s : State) : StepOut := .next (s.sbCommand pecOk (s.emit (.sideband (sliceB s.mgt.sb.resp 0 32))))
/-- RESP_HI: result bytes 32 to 63. -/
def execRespHi (pecOk : Bool) (s : State) : StepOut := .next (s.sbCommand pecOk (s.emit (.sideband (sliceB s.mgt.sb.resp 32 32))))
/-- ALERT_ACK: a written 0 clears the sideband alert. -/
def execAlertAck (pecOk : Bool) (value : Byte) (s : State) : StepOut :=
  .next (s.sbCommand pecOk (if value = 0 then { s with mgt := { s.mgt with alert := false } } else s))

end Sys2Proof.Machine
end

