-- ==== Sys2Proof/Machine/Cellarer.lean ====
section
/-! DEFINITION. The Cellarer's commands (R171 to R200): placing and issuing quires, arbitration, acting on completion records, pre-emption, racking and the regulators. -/

namespace Sys2Proof.Machine

/-! ### Ready quires and classes (R148, R183) -/

/-- Whether every predecessor of a quire has completed (R148). -/
def State.predsDone (s : State) (r q : Nat) : Bool :=
  match s.runAt r with
  | none => false
  | some x =>
    let img := s.imageOf x.part x.folio
    (qpreds img (qhdr img q)).all (fun p => decide (tget .waiting x.quires p = .completed))

/-- Whether a quire of a run that has not failed waits for a place and is ready (R148). -/
def State.ready (s : State) (r q : Nat) : Bool :=
  match s.runAt r with
  | none => false
  | some x => decide (q < fQuires (s.imageOf x.part x.folio)) && x.status == 0 &&
      decide (tget .waiting x.quires q = .waiting) && s.predsDone r q

/-- The ready quires of a class in their order: those that lost a core first (R182), then by run and quire. -/
def State.classQueue (s : State) (p k : Nat) : List (Nat × Nat) :=
  let runs := s.cel.runs.filter (fun e => e.2.part == p && e.2.prio == k)
  let l := runs.flatMap (fun e =>
    ((List.range (fQuires (s.imageOf e.2.part e.2.folio))).filter (s.ready e.1)).map (fun q => (e.1, q)))
  let back := fun (e : Nat × Nat) => ((s.runAt e.1).map (fun x => x.returned.contains e.2)).getD false
  l.filter back ++ l.filter (fun e => !back e)

/-- EST_CYCLES of a quire on core n: doubled on a 2-array core (R161, R183). -/
def State.estOn (s : State) (n r q : Nat) : Nat :=
  (qhdr (s.runImage r) q).est * (if (s.coreAt n).arrays = 2 then 2 else 1)

/-- Bytes of a quire's bindings not homed in core n's store (R181). -/
def State.missBytes (s : State) (r q n : Nat) : Nat :=
  let img := s.runImage r
  let bs := qbinds img (qhdr img q)
  ((List.range bs.length).map (fun i =>
    match s.bindEntry r q i n with
    | some e => if atCore n e.2.home then 0 else (s.declOf e.2).storeBytes
    | none => (tdecl img (bs.getD i (0, 0)).1).storeBytes)).sum

/-! ### Pools and their grants (R183) -/

/-- The place of a pool in the table of pools. -/
def poolKey : Pool → Nat
  | .core n => n.val
  | .poolCores => 8
  | .prep => 9
  | .decode k => 10 + k.val
  | .encoders => 14
  | .pageLanes => 15
  | .trackers => 16
  | .binder => 17
  | .dma => 18

/-- The base of a pool (R183, R401). -/
def poolBase : Pool → Nat
  | .core _ => 16384
  | .poolCores => 1
  | .prep => 65536
  | .decode _ => 2097152
  | .encoders => 2097152
  | .pageLanes => 1048576
  | .trackers => 4
  | .binder => 4
  | .dma => 65536

/-- The class at a place of the rotation: p = 1 to 8, and within each p from k = 3 down to 0 (R183). -/
def rotClass (i : Nat) : Nat × Nat := (i / 4 + 1, 3 - i % 4)

/-- drr_next of R183 over the ready heads, `fuel` places at most: the pool's new state and the class granted. -/
def drrNext (share : Nat → Nat) (base : Nat) (cost : Nat × Nat → Option Nat) : Nat → PoolState → PoolState × Option (Nat × Nat)
  | 0, x => (x, none)
  | fuel + 1, x =>
    let c := rotClass x.pos
    let next := (x.pos + 1) % 32
    match cost c with
    | none => drrNext share base cost fuel { x with deficit := tput 0 x.deficit x.pos 0, pos := next, fresh := true }
    | some k =>
      let d := tget 0 x.deficit x.pos + (if x.fresh then share c.1 * 2 ^ c.2 * base else 0)
      if k ≤ d then ({ x with deficit := tput 0 x.deficit x.pos (d - k), fresh := false }, some c)
      else drrNext share base cost fuel { x with deficit := tput 0 x.deficit x.pos d, pos := next, fresh := true }

/-- A pool's state. -/
def State.poolAt (s : State) (k : Nat) : PoolState := tget {} s.cel.pools k

/-- A pool's state changed. -/
def State.setPool (s : State) (k : Nat) (f : PoolState → PoolState) : State :=
  { s with cel := { s.cel with pools := tmod {} s.cel.pools k f } }

/-- Whether a pool's work ends in records: encoders, track processors, the Binder (R331). -/
def recordPool (k : Nat) : Bool := k == 14 || k == 16 || k == 17

/-- Whether a class may take a unit of a pool: a grant of its own stands (R183, R184; assumption log 36); while its function's result queue is FULL a class has no work that ends in records (R331). -/
def State.mayTake (s : State) (pool p k : Nat) : Bool :=
  (s.poolAt pool).granted.contains (p, k) && !(recordPool pool && (s.resAt p).full)

/-- A class's grant taken up. -/
def State.takeGrant (s : State) (pool p k : Nat) : State :=
  s.setPool pool (fun x => { x with granted := x.granted.erase (p, k) })

/-! ### Cores: idle, lent, borrowed (R171) -/

/-- A core with no quire running, queued or loaded and nothing pending. -/
def Core.idle (c : Core) : Bool :=
  c.active.isNone && c.queue.isEmpty && c.second.isNone && c.done.isNone && c.preempt.isNone

/-- Idle pool cores (R171, R202). -/
def State.idlePool (s : State) : List Nat :=
  s.coresIn.filter (fun n => (s.coreAt n).owner == 0 && (s.coreAt n).user == 0 && (s.coreAt n).idle)

/-- Owned cores that may be lent to partition p: those with no placed quire (R171). -/
def State.lendable (s : State) (p : Nat) : List Nat :=
  s.coresIn.filter (fun n =>
    let c := s.coreAt n
    c.owner != 0 && c.owner != p && c.user == c.owner && c.idle)

/-- Whether a partition needs a further core: none that it holds is idle, and it holds fewer than CORES_MAX (R171). -/
def State.needsCore (s : State) (p : Nat) : Bool :=
  (s.coresHeld p).all (fun n => !(s.coreAt n).idle) && decide ((s.coresHeld p).length < (s.partAt p).coresMax)

/-- Where a tensor that must leave a core store goes: its partition's save area, and where that has no place left the partition's DRAM (R170; assumption log 68). -/
def State.outPlace (s : State) (t : Tensor) : Option (HomeKind × Nat) :=
  match s.saveRoom t.part (s.bytesIn t .saveArea) with
  | some a => some (.saveArea, a)
  | none => (s.dramPlace t.part (s.bytesIn t .dram)).map (fun a => (.dram, a))

/-- One tensor racked to its partition's save area, its bytes charged to a record; a move of it under way ends first (R170, R177, R187, R190). A tensor with no place left is lost. -/
def State.rackOutOne (s : State) (who k : Nat) : State :=
  match s.tensorAt k with
  | none => s
  | some t =>
    if t.move.isSome then s.landMove k
    else match s.outPlace t with
      | none => s.setTensor k (fun t => { t with lost := true })
      | some (h, a) =>
        let s := (s.setTensor k (fun t => { t with move := some (h, a), charge := who + 1 })).landMove k
        s.setTensor k (fun t => { t with charge := if who = 0 then 0 else who + 1 })

/-- Every tensor of a partition that must leave a core store, racked out, and its constants and decoded copies there dropped (R187 step 3). -/
def State.rackOut (s : State) (who victim n : Nat) : State :=
  let s := (s.toRack victim n).foldl (fun s k => s.rackOutOne who k) s
  s.freeTensors (fun t => t.part == victim && atCore n t.home && s.copies t)

/-- An idle core lent to partition p: what its owner keeps there is racked out first (R171; assumption log 39). -/
def State.lend (s : State) (p n : Nat) : State :=
  if (s.coreAt n).user = p then s
  else (s.rackOut p (s.coreAt n).user n).setCore n (fun c => { c.clear with user := p })

/-! ### Failing a quire (R158) -/

/-- The statuses that failed quires hand on to every quire that depends on them, in the order of the graph (R148, R158). -/
def failedFrom (img : List Byte) (t : Tbl Nat) : Tbl Nat :=
  (List.range (fQuires img)).foldl (fun t q =>
    if tget 0 t q ≠ 0 then t
    else match (qpreds img (qhdr img q)).find? (fun p => tget 0 t p != 0) with
      | some p => tput 0 t q (tget 0 t p)
      | none => t) t

/-- A quire fails with a status: it and every quire that depends on it end, and never run; the others of its run go on (R158). -/
def State.failQuire (s : State) (r q status : Nat) : State :=
  match s.runAt r with
  | none => s
  | some x =>
    let img := s.imageOf x.part x.folio
    let t := failedFrom img (tput 0 x.failed q status)
    let stays := fun (e : Nat × Nat) => e.1 != r || tget 0 t e.2 == 0
    let s := (List.range 8).foldl (fun s i => s.setCore i (fun c => { c with
      queue := c.queue.filter stays, second := c.second.filter stays })) s
    s.setRun r (fun x => { x with
      failed := t, returned := x.returned.filter (fun i => tget 0 t i == 0),
      quires := (List.range (fQuires img)).foldl (fun y i =>
        if tget 0 t i = 0 ∨ tget .waiting y i = .completed then y else tput .waiting y i (.ended (tget 0 t i))) x.quires })

/-- Borrowed cores whose placement queue has become empty, returned (R171). -/
def State.returnEmptied (s : State) : State :=
  (List.range 8).foldl (fun s n =>
    let c := s.coreAt n
    if c.user ≠ c.owner ∧ c.user ≠ 0 ∧ c.idle = true then s.startLeave c.user n else s) s

/-- Whether a quire binds a tensor lost with a switched-off store (R192). -/
def State.bindsLost (s : State) (r q n : Nat) : Bool := (s.quireEntries r q n).any (fun o => o.any (fun e => e.2.lost))

/-! ### When a run moves on -/

/-- A finished re-identification run gives its boxes their embeddings and ends (R234). -/
def State.finishReid (s : State) (r : Nat) : State :=
  match s.runAt r with
  | none => s
  | some x =>
    if x.purpose ≠ 1 ∨ s.runFinished r = false then s
    else
      let img := s.imageOf x.part x.folio
      let tid := (firstKind img 4).getD 0
      let s := (x.instances.zipIdx).foldl (fun s e =>
        let out := s.outEntry r tid e.2
        let st := s.instStatus r e.2
        let bad := st ≠ 0 ∨ out.isNone = true ∨ out.any (fun o => s.tensorBad o.2.1) = true
        let v := (out.map (fun o => s.positionValues o.2.1 o.2.2 256)).getD []
        s.setPic e.1.obj e.1.seq (fun p => { p with
          reidLeft := p.reidLeft - 1, clamps := p.clamps + e.1.clamps,
          status := if bad then (if st = 0 then stDataPoisoned else st) else p.status,
          dets := p.dets.map (fun d => if d.idx = e.1.idx ∧ ¬bad then { d with emb := v, reid := true } else d) })) s
      s.endRun r

/-- The pipelines of a partition looked at again: held batches issue, and the low-water alarm follows its queue (R53, R230). -/
def State.repipe (s : State) (p : Nat) : State :=
  let s := s.sweepBatches
  (s.media.pipelines.filter (fun x => x.part == p)).foldl (fun s x => (s.issueReady p x.handle).alarmUpdate p x.handle) s

/-- After a change of a run: a finished one hands on its results, and its partition's batches are looked at again. -/
def State.runMoved (s : State) (r : Nat) : State :=
  match s.runAt r with
  | none => s
  | some x => ((s.finishReid r).failReads r).repipe x.part

/-! ### PLACEMENT_DECISION (R179 to R181) -/

/-- Whether a partition places by affinity (R179). -/
def State.byAffinity (s : State) (p : Nat) : Bool :=
  (s.partAt p).policy == 2 || ((s.partAt p).policy == 0 && decide (3 ≤ (s.coresHeld p).length))

/-- Cycles of waiting on a core: what the running quire has left of its estimate, and the quires queued (R181). -/
def State.waitCycles (s : State) (n : Nat) : Nat :=
  let c := s.coreAt n
  (match c.active with
   | some a => s.estOn n a.run a.quire - a.cycles
   | none => 0) +
  ((c.queue ++ c.second.toList).map (fun e => s.estOn n e.1 e.2)).sum

/-- cost(c) of R181, in units of 1/179,200,000,000,000 s. -/
def State.placeCost (s : State) (r q n : Nat) : Nat :=
  s.waitCycles n * 256000 + s.missBytes r q n * 700 + (if (s.domAt (5 + n)).st = .on then 0 else 1792000000)

/-- Bytes of a quire's AFFINITY groups that a core holds (R181). -/
def State.groupBytes (s : State) (r q n : Nat) : Nat :=
  match s.runAt r with
  | none => 0
  | some x =>
    let img := s.imageOf x.part x.folio
    let gs := (((qbinds img (qhdr img q)).map (fun b => (tdecl img b.1).affinity)).filter (fun g => decide (g ≠ 0))).eraseDups
    ((s.cel.tensors.filter (fun e => e.2.part == x.part && e.2.folio == x.folio && atCore n e.2.home &&
      gs.contains (s.declOf e.2).affinity)).map (fun e => e.2.bytes)).sum

/-- Cores a ready quire may be placed on: held, in service, nothing pending, a place in the queue; or one lent to it; and not the one it must not re-run on (R70, R171, R182, R187). -/
def State.openCores (s : State) (p r q : Nat) : List Nat :=
  let av := ((s.runAt r).map (fun x => tget 0 x.avoid q)).getD 0
  (((s.coresHeld p).filter (fun n =>
    let c := s.coreAt n
    !c.out && c.preempt.isNone && decide (c.queue.length < 4))) ++
  (if s.needsCore p && s.idlePool.isEmpty then ((s.lendable p).filter (fun n => n + 1 != av)).take 1 else [])).filter (fun n => n + 1 != av)

/-- The core a ready quire goes to: the shortest placement queue, or the smallest cost (R180, R181). -/
def State.choosePlace (s : State) (p r q : Nat) : Option Nat :=
  let l := s.openCores p r q
  if s.byAffinity p then leastBy (fun n => s.placeCost r q n * 2 ^ 32 + (2 ^ 32 - 1 - s.groupBytes r q n)) l
  else leastBy (fun n => (s.coreAt n).queue.length) l

/-- A quire put on a core's placement queue, with homes for the tensors it binds (R174, R182). -/
def State.place (s : State) (x : Run) (r q n : Nat) : State :=
  let s := (s.lend x.part n).takeGrant n x.part x.prio
  let s := s.homeBindings r q n (s.pointExp x)
  let s := (s.setQuire r q (.placed n)).setRun r (fun x => { x with returned := x.returned.filter (· != q) })
  (s.setCore n (fun c => { c with queue := c.queue ++ [(r, q)] })).wake (5 + n)

/-- PLACEMENT_DECISION: a ready quire is placed, those that lost a core before the others of their class (R182), on a core it holds under that core's grant (R183). -/
def execPlacementDecision (run quire : Nat) (s : State) : Host.Outcome State Fault Refusal :=
  match s.runAt run with
  | none => .next s
  | some x =>
    let first := (s.classQueue x.part x.prio).head?
    let late := !x.returned.contains quire && first.any (fun e => ((s.runAt e.1).map (fun y => y.returned.contains e.2)).getD false)
    if !s.ready run quire || late then .next s
    else if s.bindsLost run quire 8 then .next (((s.failQuire run quire stDataPoisoned).returnEmptied).runMoved run).settle
    else match s.choosePlace x.part run quire with
      | none => .next s
      | some n => .next (if (s.coreAt n).user = x.part ∧ s.mayTake n x.part x.prio = false then s else s.place x run quire n)

/-- The highest priority at which a partition has a ready quire (R183). -/
def State.topPrio (s : State) (p : Nat) : Option Nat := [3, 2, 1, 0].find? (fun k => !(s.classQueue p k).isEmpty)

/-! ### QUIRE_ISSUE (R153, R154, R182) -/

/-- The gathers of a quire: binding of the list and binding of its source (R93). -/
def gathers (img : List Byte) (h : QHdr) : List (Nat × Nat) :=
  (codeWords img h).filterMap (fun w =>
    if iClass w = 3 ∧ bitsOf w 34 8 ≠ 0xFF then
      let c := chainD img (h.chainBase + bitsOf w 34 8)
      if c.gather then some (c.bGather, bitsOf w 50 8) else none
    else none)

/-- Whether every operand of a quire is racked in and no move of one is under way (R60, R177, R182). -/
def State.racked (s : State) (r q n : Nat) : Bool :=
  let img := s.runImage r
  let h := qhdr img q
  let bs := qbinds img h
  let gut := gutterBinds img h
  (List.range bs.length).all (fun i =>
    match s.bindEntry r q i n with
    | none => false
    | some e =>
      let d := s.declOf e.2
      e.2.move.isNone && (gut.contains i || atCore n e.2.home || (d.viaCopy && (bs.getD i (0, 0)).2 == roleWrite)))

/-- The errors that reads of a core store find (R74, R87): corrected words are counted, an uncorrectable one poisons its line. Errors of lines not read are not found. -/
def State.eccFound (s : State) (n : Nat) (reads : List (Nat × Nat)) (l : List StoreError) : State :=
  (l.filter (fun e => reads.any (fun r => meets (coreBase n + 64 * e.line.val) 64 r.1 r.2))).foldl (fun s e =>
    if e.ue then
      (s.setCore n (fun c => { c with eccStatus := c.eccStatus ||| 2, ueAddr := 64 * e.line.val })).setPoison (coreBase n / 64 + e.line.val) true
    else s.setCore n (fun c => { c with eccStatus := c.eccStatus ||| 1, ce := satAdd 32 c.ce 1 })) s

/-- The errors a move's reads find in the core store it comes from (R74, R87). -/
def State.sourceErrors (s : State) (k : Nat) (ecc : List StoreError) : State :=
  match s.tensorAt k with
  | some t =>
    match t.home, t.move with
    | .core n, some _ => s.eccFound n [(t.addr, t.bytes)] ecc
    | _, _ => s
  | none => s

/-- Room in the core store for the tensors a quire writes that only a copy holds there, where it has none (R60, R138). -/
def State.openPlanes (s : State) (r q n : Nat) : Option State :=
  let img := s.runImage r
  let bs := qbinds img (qhdr img q)
  (List.range bs.length).foldl (fun (o : Option State) i => o.bind (fun s =>
    match s.bindEntry r q i n with
    | none => none
    | some e =>
      let d := s.declOf e.2
      if d.viaCopy = false ∨ atCore n e.2.home = true ∨ (gutterBinds img (qhdr img q)).contains i = true then some s
      else
        let s := s.clearRoom n d.storeBytes
        (s.coreRoom n d.storeBytes).map (fun a =>
          s.newTensor { e.2 with home := coreHome n, addr := a, bytes := d.storeBytes, move := none, charge := 0, used := s.cel.uses }))) (some s)

/-- The binding table of a quire (R153): entry by entry, with a place for each UPDATE destination; none while one has no room. -/
def State.bindTable (s : State) (r q n : Nat) : Option (List Binding) :=
  let img := s.runImage r
  let bs := qbinds img (qhdr img q)
  ((List.range bs.length).foldl (fun (o : Option (List Binding × List (Nat × Nat))) i => o.bind (fun acc =>
    match s.bindEntry r q i n with
    | none => none
    | some e =>
      let d := s.declOf e.2
      let b : Binding := { valid := true, decoded := decide (d.comp ≠ 0), tensor := e.2.tid, extent := e.2.planeBytes,
                           stride := e.2.planeBytes, base := e.2.addr, dst := 0, e := e.2.e, num := e.1, zmap := s.zmapBase n e.1 }
      if (bs.getD i (0, 0)).2 = roleUpdate then
        (lowestFree (coreBase n) 0x02000000 d.storeBytes (s.tensorRanges (atCore n) ++ s.dstRanges n ++ acc.2)).map (fun a =>
          (acc.1 ++ [{ b with dst := a }], acc.2 ++ [(a, d.storeBytes)]))
      else some (acc.1 ++ [b], acc.2))) (some ([], []))).map (·.1)

/-- The device address a binding's accesses start from: the destination copy of an UPDATE (R155). -/
def Binding.place (b : Binding) : Nat := if b.dst ≠ 0 then b.dst else b.base

/-- The indices of a gather list that lie at or beyond the source's positions (R93). -/
def State.badIndex (s : State) (img : List Byte) (h : QHdr) (tab : List Binding) : Bool :=
  (gathers img h).any (fun g =>
    match tab[g.1]?, tab[g.2]? with
    | some l, some src =>
      let lim := (tdecl img src.tensor).positions
      (List.range (l.extent / 4)).any (fun k =>
        let v := leNat (s.bytesAt (l.base + 4 * k) 4)
        v != 0xFFFFFFFF && decide (lim ≤ v))
    | _, _ => true)

/-- Whether the sequencer's check of a binding table fails (R154). -/
def State.badBinding (s : State) (img : List Byte) (h : QHdr) (n : Nat) (tab : List Binding) : Bool :=
  let gut := gutterBinds img h
  let bs := qbinds img h
  let inStore := fun (a len : Nat) => decide (coreBase n ≤ a) && decide (a + len ≤ coreBase n + 0x02000000)
  let rng := fun (i : Nat) => ((tab[i]?).map (fun b => (b.base, s.boundBytes b))).getD (0, 0)
  (List.range bs.length).any (fun i =>
    match tab[i]? with
    | none => true
    | some b =>
      let d := tdecl img b.tensor
      !b.valid || b.tensor != (bs.getD i (0, 0)).1 || decide (b.extent < d.storePlane) ||
      !(inStore b.base (s.boundBytes b) || gut.contains i) ||
      (b.dst != 0 && (!inStore b.dst (s.boundBytes b) ||
        (List.range bs.length).any (fun j => meets b.dst (s.boundBytes b) (rng j).1 (rng j).2)))) ||
  s.badIndex img h tab

/-- Rows copied into a tensor by other means than a conversion: with their poison tags, and the zero-map bits of the tiles they touch cleared (R45, R74). -/
def State.copyRows (s : State) (src n dst : Nat) : State :=
  let z := s.zeroAfter dst n
  let s := s.copyData src n dst
  { s with mem := { s.mem with zero := z } }

/-- One gutter's rows brought into a strip's tensor, plane by plane: copied within the core store where the neighbour's rows lie in the same one, else racked in from the slot (R124, R196, R199). -/
def State.gutterIn (s : State) (r : Nat) (c : GutterCopy) : State :=
  let ent := fun (tid : Nat) => (s.cel.tensors.find? (fun e => e.2.run == r + 1 && e.2.tid == tid && !e.2.lost)).map (·.2)
  match ent c.slot, ent c.into with
  | some src, some dst =>
    let d := s.declOf dst
    let near := (ent c.near).filter (fun t => inCore t.home && decide (t.home = dst.home))
    let bytes := c.count * d.ps
    let rows := fun (s : State) (t : Tensor) (pos : Nat) => (List.range d.planes).foldl (fun s k =>
      s.copyRows (t.addr + k * t.planeBytes + pos * t.ps) bytes (dst.addr + k * dst.planeBytes + c.intoPos * dst.ps)) s
    match near with
    | some t => rows s t c.nearPos
    | none =>
      let s := (List.range d.planes).foldl (fun s k => (s.spendAll src.part (s.injected .cellar (src.addr + k * src.planeBytes) bytes)).1) s
      (rows s src 0).chargeMove src.part (s.clientsOf dst) src.home dst.home (d.planes * bytes)
  | _, _ => s

/-- The quire in a core's second code buffer starts when the core is free: its bindings are made and checked (R153, R154, R518). -/
def State.startQuire (s : State) (n : Nat) : State :=
  let c := s.coreAt n
  match c.second with
  | none => s
  | some (r, q) =>
    if c.active.isSome ∨ c.done.isSome ∨ c.preempt.isSome then s
    else match s.openPlanes r q n with
      | none => s
      | some s1 =>
        match s1.bindTable r q n with
        | none => s
        | some tab =>
          let s := (gutterCopies (s1.runImage r) q).foldl (fun s c => s.gutterIn r c) s1
          let img := s.runImage r
          let h := qhdr img q
          let s := tab.foldl (fun s b => s.setTensor b.num (fun t => { t with used := s.cel.uses })) s
          let s := { s with cel := { s.cel with uses := s.cel.uses + 1 } }
          let bad := s.badBinding img h n tab
          let s := s.setCore n (fun c => { c with
            second := none, lastQuire := q, checksum := h.checksum, active := some { run := r, quire := q, bindings := tab },
            banks := [], acc := [], v := [], mask := BitVec.allOnes 64, writes := [] })
          if bad then s.stopQuire n 3
          else tab.foldl (fun s b => if b.dst = 0 then s else s.copyData b.base (s.boundBytes b) b.dst) s

/-- Whether the head of a core's queue may be issued: predecessors completed, gutter turns come, operands racked in (R60, R125, R148, R182). -/
def State.mayIssue (s : State) (n r q : Nat) : Bool :=
  match s.runAt r with
  | none => false
  | some x =>
    let img := s.imageOf x.part x.folio
    x.status == 0 && s.predsDone r q &&
    (List.range (fQuires img)).all (fun p => !waitsForSlot img q p || decide (tget .waiting x.quires p = .completed)) &&
    s.racked r q n

/-- QUIRE_ISSUE: the head of a core's placement queue is loaded into a free code buffer, and starts when the core is free.
While the core's domains sleep their wakes are asked for, and nothing else happens. -/
def execQuireIssue (core : Fin 8) (s : State) : Host.Outcome State Fault Refusal :=
  let n := core.val
  let c := s.coreAt n
  if (s.domAt (5 + n)).st ≠ .on ∨ (s.domAt (5 + n)).move ≠ .none then
    .next (if c.queue.isEmpty && c.second.isNone then s else s.wake (5 + n))
  else if c.second.isSome then .next ((s.startQuire n).settle)
  else match c.queue with
    | [] => .next s
    | (r, q) :: rest =>
      if c.preempt.isSome then .next s
      else if s.bindsLost r q n then .next (((s.failQuire r q stDataPoisoned).returnEmptied).runMoved r).settle
      else
        let s := match s.runAt r with
          | some x => s.homeBindings r q n (s.pointExp x)
          | none => s
        if s.mayIssue n r q then
          let s := s.setQuire r q (.issued n)
          .next (((s.setCore n (fun c => { c with queue := rest, second := some (r, q) })).startQuire n).settle)
        else .next s

/-! ### QUIRE_COMPLETE (R126, R138, R155) -/

/-- The parts of a bound tensor that a quire wrote, from the start of its bytes: through its place in the store and its UPDATE destinations. -/
def Active.touched (a : Active) (num addr n : Nat) : List (Nat × Nat) :=
  (addr :: (a.bindings.filter (fun b => b.num == num && b.dst != 0)).map (·.dst)).flatMap (fun p =>
    a.undo.filterMap (fun u =>
      if meets u.1 u.2.length p n then some (max u.1 p - p, min (u.1 + u.2.length) (p + n) - max u.1 p) else none))

/-- Bytes of a copy brought back to its home, with the poison of the lines they lie in (R74, R177). -/
def State.bringBack (s : State) (src dst : Nat) (l : List (Nat × Nat)) : State := l.foldl (fun s r => s.copyData (src + r.1) r.2 (dst + r.1)) s

/-- The blocks of a compressed tensor that a quire wrote, encoded into its home (R136, R138, R139). -/
def State.encodeBlocks (s : State) (t : Tensor) (dst : Nat) (l : List (Nat × Nat)) : State :=
  let d := s.declOf t
  let blocks := encodeTensor (s.imageOf t.part t.folio) d (s.bytesAt t.addr d.storeBytes)
  let nb := ceilDiv d.channels 64
  let bb := blockBytes d.comp
  let ofs := fun (k i : Nat) => k * d.storePlane + (i / nb) * d.ps + (i % nb) * 8 * d.digitBits
  ((List.range (d.positions * nb)).filter (fun i =>
      (List.range d.planes).any (fun k => l.any (fun u => meets u.1 u.2 (ofs k i) (8 * d.digitBits))))).foldl (fun s i =>
    let bad := (List.range d.planes).any (fun k => (s.firstPoison (t.addr + ofs k i) (8 * d.digitBits)).isSome)
    let s := s.writeMem (dst + i * bb) (sliceB blocks (i * bb) bb)
    if bad then (List.range 2).foldl (fun s j =>
      let line := (dst + i * bb) / 64 + j
      if line * 64 < dst + i * bb + bb then s.setPoison line true else s) s else s) s

/-- The zero-map bits of the tiles a quire wrote in a copy, at its home (R44, R45); a compressed home keeps none. -/
def State.bitsBack (s : State) (a : Active) (num home : Nat) : State :=
  let ts := (a.undoZero.filter (fun z => z.1.1 == num)).map (fun z => z.1.2)
  let keep := s.mem.zero.filter (fun z => !(z.1 == home && ts.contains z.2))
  let new := (s.mem.zero.filter (fun z => z.1 == num && ts.contains z.2)).map (fun z => (home, z.2))
  { s with mem := { s.mem with zero := keep ++ new } }

/-- Copies of a tensor in core stores that no issued quire binds, dropped: what they hold is out of date (R164). -/
def State.dropStale (s : State) (t : Tensor) : State :=
  let bound := s.boundIssued
  ((s.cel.tensors.filter (fun e => t.same e.2 && inCore e.2.home && !bound.contains e.1)).map (·.1)).foldl (fun s k => s.freeTensor k) s

/-- A copy that a quire worked on in its core's store goes back to its home where it was written, with its exponent and statistic, and is dropped
unless the core's next quire binds it and it is not the planes of a tensor just encoded (R136, R138, R164, R199; assumption log 46). -/
def State.encodeBack (s : State) (a : Active) (b : Binding) : State :=
  match s.tensorAt b.num with
  | none => s
  | some t =>
    let d := s.declOf t
    match t.home with
    | .core n =>
      if d.isConst ∨ d.viaCopy = false then s
      else match s.cel.tensors.find? (fun e => t.same e.2 && !inCore e.2.home) with
        | none => s
        | some o =>
          let l := a.touched b.num t.addr d.storeBytes
          let s :=
            if l.isEmpty then s
            else if d.comp ≠ 0 then s.encodeBlocks t o.2.addr l
            else (s.bringBack t.addr o.2.addr l).bitsBack a b.num o.1
          let s := s.setTensor o.1 (fun y => { y with e := t.e, stat := match y.stat, t.stat with
            | some u, some v => some (max u.1 v.1, min u.2 v.2)
            | none, v => v
            | u, none => u })
          let s := if l.isEmpty then s
            else s.chargeMove t.part (s.clientsOf t) t.home o.2.home (if d.comp ≠ 0 then d.homeBytes else (l.map (·.2)).sum)
          let next := ((s.coreAt n).second.toList.flatMap (fun e => (s.quireEntries e.1 e.2 n).filterMap (fun x => x.map (·.1)))).contains b.num
          let s := if next && (decide (d.comp = 0) || l.isEmpty) then s else s.freeTensor b.num
          if l.isEmpty then s else s.dropStale t
    | _ => s

/-- What a quire hands back at its completion: exponents and statistics of its tensors (R47, R48, R54). -/
def State.handBack (s : State) (a : Active) : State :=
  let s := a.bindings.foldl (fun s b => s.setTensor b.num (fun t => { t with e := b.e })) s
  a.stats.foldl (fun s e => s.setTensor e.1 (fun t => { t with stat := match t.stat with
    | some o => some (max o.1 e.2.1, min o.2 e.2.2)
    | none => some e.2 })) s

/-- A gutter deposit becomes visible, with the poison of the line that its strip's own tensor holds it in (R126). -/
def State.deposit (s : State) (d : Deposit) : State :=
  let bad := (d.own.map (fun a => s.poisonMap a d.bytes.length d.addr)).getD []
  bad.foldl (fun s i => s.setPoison i true) (s.writeMem d.addr d.bytes)

/-- UPDATE copies go back, gutter deposits and outputs written in copies become visible (R126, R138, R155). -/
def State.showWrites (s : State) (a : Active) : State :=
  let s := a.deposits.foldl State.deposit s
  let s := a.bindings.foldl (fun s b =>
    if b.dst = 0 then s else (s.copyData b.dst (s.boundBytes b) b.base).scrub b.dst (b.dst + s.boundBytes b)) s
  let s := s.handBack a
  a.bindings.foldl (fun s b => s.encodeBack a b) s

/-- The completion record of a quire that has ended (R156). -/
def Active.record (a : Active) : Completed :=
  { run := a.run, quire := a.quire, outcome := 0, long := a.long, cycles := a.cycles, slotPasses := a.slotPasses, skipped := a.skipped,
    satPro := a.satPro, satEpi := a.satEpi, mark := a.mark, clamps := a.clamps, arrayCycles := a.arrayCycles }

/-- QUIRE_COMPLETE: after END with every write in the store, the completion record is made (R155, R156). -/
def execQuireComplete (core : Fin 8) (s : State) : Host.Outcome State Fault Refusal :=
  match (s.coreAt core).active with
  | none => .next s
  | some a =>
    if !a.ended || !(s.coreAt core).writes.isEmpty || (s.coreAt core).done.isSome then .next s
    else .next ((s.showWrites a).setCore core (fun c => { c with active := none, lastQuire := a.quire, done := some a.record }))

/-! ### QUIRE_OUTCOME (R70, R71, R158, R199) -/

/-- The instances of a run that a quire is bound to, and all of them where it binds none by itself (R143, R199). -/
def State.quireInstances (s : State) (x : Run) (q : Nat) : List Nat :=
  let img := s.imageOf x.part x.folio
  let bs := qbinds img (qhdr img q)
  let l := (((List.range bs.length).filter (fun i => decide (1 < instCount img (bs.getD i (0, 0)).1))).map (bindInstance img bs)).eraseDups
  let l := l.filter (fun i => decide (i < x.instances.length))
  if l.isEmpty then List.range x.instances.length else l

/-- Cycles of a core charged to a record, and to the domains of the core for the interval (R199, R200). -/
def State.chargeCore (s : State) (n who : Nat) (d : Completed) (clients : List Nat) : State :=
  ((s.chargeBatch who 0 d.arrayCycles clients).chargeBatch who 1 d.cycles clients).busyBatch [5 + n, 13 + n] who d.cycles clients

/-- A quire's cycles charged to its client, split over the instances it is bound to (R198, R199). -/
def State.chargeQuire (s : State) (n : Nat) (x : Run) (d : Completed) : State :=
  s.chargeCore n x.part d ((s.quireInstances x d.quire).map (fun i => ((x.instances[i]?).map (·.client)).getD 0))

/-- The clamp counts of a completed quire added to the instances bound (R56, R157). -/
def State.addClamps (s : State) (x : Run) (d : Completed) : State :=
  let img := s.imageOf x.part x.folio
  let bs := qbinds img (qhdr img d.quire)
  d.clamps.foldl (fun s e =>
    let j := bindInstance img bs e.1
    s.setRun d.run (fun x => { x with instances := x.instances.zipIdx.map (fun y =>
      if y.2 = j then { y.1 with clamps := y.1.clamps + e.2 } else y.1) })) s

/-- Statistics of running-mode points inside the network that are complete: every quire that writes the tensor instance has completed, and it enters its source's window (R50, R53). -/
def State.pushPoints (s : State) (r : Nat) : State :=
  match s.runAt r with
  | none => s
  | some x =>
    let img := s.imageOf x.part x.folio
    (s.cel.tensors.filter (fun e => e.2.run == r + 1 && (runningPoints img).contains e.2.tid && e.2.stat.isSome)).foldl (fun s e =>
      let whole := (List.range (fQuires img)).all (fun q =>
        let bs := qbinds img (qhdr img q)
        decide (tget .waiting x.quires q = .completed) ||
        !(List.range bs.length).any (fun i => (bs.getD i (0, 0)).1 == e.2.tid && roleWrites (bs.getD i (0, 0)).2 && bindInstance img bs i == e.2.inst))
      if !whole then s
      else match (x.instances[e.2.inst]?).bind s.instSource, e.2.stat with
        | some (page, obj, key, _), some st =>
          (s.pushWindow page obj x.folio e.2.tid key st).setTensor e.1 (fun t => { t with stat := none })
        | _, _ => s) s

/-- Tensors of a run that no quire still needs, their homes released: every quire that binds them has completed; network outputs and what step quires bind stay to the run's end (R142, R285). -/
def State.freeEnded (s : State) (r : Nat) : State :=
  match s.runAt r with
  | none => s
  | some x =>
    let img := s.imageOf x.part x.folio
    let used := fun (tid : Nat) => (List.range (fQuires img)).any (fun q =>
      ((qbinds img (qhdr img q)).any (fun b => b.1 == tid)) &&
      (decide (tget .waiting x.quires q ≠ .completed) || (x.purpose == 3 && isStep img q)))
    s.freeTensors (fun t => t.run == r + 1 && decide ((s.declOf t).kind ≠ 4) && !used t.tid)

/-- A core whose array has recorded 3 mismatches within one boot leaves service, and the MP logs the array (R71). -/
def State.checkOut (s : State) (n : Nat) : State :=
  match ((s.coreAt n).mismatches.filter (fun e => decide (3 ≤ e.2))).head? with
  | none => s
  | some e =>
    if (s.coreAt n).out then s
    else
      let s := { s with dev := { s.dev with arrayOut := setAdd s.dev.arrayOut (4 * n + e.1) } }
      (s.log logArrayOut 2 1 n e.1).removeCore n false false

/-- What the Cellarer does by the OUTCOME of a completion record (R158). -/
def State.actOutcome (s : State) (n : Nat) (x : Run) (d : Completed) : State :=
  let pre := ((s.coreAt n).preempt.map (·.part)).getD 0
  match d.outcome with
  | 0 => ((((s.chargeQuire n x d).addClamps x d).setQuire d.run d.quire .completed).pushPoints d.run).freeEnded d.run
  | 1 =>
    let s := (s.chargeCore n 0 d []).returnQuire d.run d.quire
    let s := s.setRun d.run (fun x => { x with avoid := tput 0 x.avoid d.quire (n + 1) })
    let s := { s with cel := { s.cel with rerunCheck := satAdd 16 s.cel.rerunCheck 1 } }
    (s.log stArrayCheck 1 1 n d.quire).checkOut n
  | 2 => (s.chargeQuire n x d).failQuire d.run d.quire stDataPoisoned
  | 3 => ((s.chargeQuire n x d).failQuire d.run d.quire stBadBinding).deviceFault 1 n stBadBinding
  | 4 =>
    let s := (s.chargeCore n pre d []).returnQuire d.run d.quire
    let s := s.setRun d.run (fun x => { x with abandons := tmod 0 x.abandons d.quire (· + 1) })
    { s with cel := { s.cel with rerunAbandon := satAdd 16 s.cel.rerunAbandon 1 } }
  | _ => ((s.chargeQuire n x d).failQuire d.run d.quire stTimeout).deviceFault 1 n stTimeout

/-- The core after a quire: a pending pre-emption goes to its rack-out, a removal ends when nothing is left, a borrowed core with an empty queue returns, and else the quire in the second buffer starts (R171, R187, R192). -/
def State.afterQuire (s : State) (n : Nat) : State :=
  let c := s.coreAt n
  match c.preempt with
  | some p =>
    if p.part = 0 then (s.startLeave p.victim n).restReleased n
    else s.setCore n (fun c => { c with preempt := some { p with phase := 3 } })
  | none =>
    if c.user ≠ c.owner ∧ c.user ≠ 0 ∧ c.queue = [] ∧ c.second = none then s.startLeave c.user n
    else s.startQuire n

/-- QUIRE_OUTCOME. -/
def execQuireOutcome (core : Fin 8) (s : State) : Host.Outcome State Fault Refusal :=
  let n := core.val
  match (s.coreAt n).done with
  | none => .next s
  | some d =>
    let s := s.setCore n (fun c => { c with
      done := none,
      preempt := c.preempt.map (fun (p : Preempt) => { p with
        abandoned := p.abandoned || d.outcome == 4, phase := if p.phase = 2 then 3 else p.phase }) })
    let s := match s.runAt d.run with
      | some x => s.actOutcome n x d
      | none => s
    .next ((((s.afterQuire n).returnEmptied).runMoved d.run).settle)

/-! ### QUIRE_LONG and QUIRE_WATCHDOG (R162, R163) -/

/-- QUIRE_LONG: LONG is set and counted; a pending pre-emption or removal abandons the quire unless it has been abandoned twice or has completed (R163, R165). -/
def execQuireLong (core : Fin 8) (s : State) : Host.Outcome State Fault Refusal :=
  let n := core.val
  let c := s.coreAt n
  match c.active with
  | none => .next s
  | some a =>
    if a.long then .next s
    else
      let s := s.setCore n (fun c => { c with
        longCount := satAdd 32 c.longCount 1, active := some { a with long := true, cycles := max a.cycles 44800 } })
      .next (if c.preempt.isSome && s.mayAbandon n then s.abandonQuire n else s)

/-- QUIRE_WATCHDOG: the quire stops with OUTCOME 5. -/
def execQuireWatchdog (core : Fin 8) (s : State) : Host.Outcome State Fault Refusal :=
  let n := core.val
  let c := s.coreAt n
  if c.active.isSome ∧ c.done.isNone then
    .next ((s.setCore n (fun c => { c with active := c.active.map (fun a => { a with cycles := max a.cycles 1048576 }) })).stopQuire n 5)
  else .next s

/-! ### Pre-emption (R185 to R190) -/

/-- Priority of the quire running on a core. -/
def State.runningPrio (s : State) (n : Nat) : Option Nat :=
  (s.coreAt n).active.bind (fun a => (s.runAt a.run).map (·.prio))

/-- The candidate victims of a request of partition p at priority k (R186). -/
def State.victims (s : State) (p k : Nat) : List Nat :=
  s.coresIn.filter (fun n =>
    let c := s.coreAt n
    let below := (s.runningPrio n).any (fun j => decide (j < k))
    c.preempt.isNone && c.user != 0 &&
    ((c.owner == p && c.user != p) || (c.owner == 0 && c.user != p && below) || (c.user == p && below)))

/-- Tensors of the holder that a pre-emption within a partition racks out: not bound by the quire, least recently used first, until its FOOTPRINT fits beside what it does not bind and what may not be dropped (R175, R187). -/
def State.spill (s : State) (p r q n : Nat) : List Nat :=
  let bound := (s.quireEntries r q n).filterMap (fun o => o.map (·.1))
  let drop := s.droppable n
  let here := s.cel.tensors.filter (fun e => atCore n e.2.home && !bound.contains e.1 && !drop.contains e.1)
  let lru := byUse (here.filter (fun e => e.2.part == p && !s.copies e.2 && !e.2.lost))
  let held := (here.map (fun e => e.2.bytes)).sum
  let need := (qhdr (s.runImage r) q).footprint
  (lru.foldl (fun (acc : List Nat × Nat) e =>
    if held + need ≤ 0x02000000 + acc.2 then acc else (acc.1 ++ [e.1], acc.2 + e.2.bytes)) ([], 0)).1

/-- Bytes a pre-emption of core n for a quire racks out (R187). -/
def State.outBytes (s : State) (p r q n : Nat) : Nat :=
  let l := if (s.coreAt n).user = p then s.spill p r q n else s.toRack (s.coreAt n).user n
  (l.map (fun k => ((s.tensorAt k).map (·.bytes)).getD 0)).sum

/-- The estimate of R186, in units of 1/179,200,000,000,000 s. -/
def State.victimCost (s : State) (p r q n : Nat) : Nat :=
  (match (s.coreAt n).active with
   | some a => (qhdr (s.runImage a.run) a.quire).est - a.cycles
   | none => 0) * 256000 +
  (s.outBytes p r q n + s.missBytes r q n) * 700 + (if (s.coreAt n).user = p then 0 else 2150400000)

/-- A core marked for pre-emption: nothing new is issued to it, and a quire loaded but not started returns to its class, with the rest of the queue when the core changes hands, whose moves into it stop (R177, R187 step 1). -/
def State.markPreempt (s : State) (p r q n : Nat) : State :=
  let c := s.coreAt n
  let transfer := decide (c.user ≠ p)
  let s := if transfer then (s.returnQueue n).stopMoves (fun t h => t.part == c.user && atCore n h)
    else (c.second.toList.foldl (fun s e => s.returnQuire e.1 e.2) s).setCore n (fun c => { c with second := none })
  s.setCore n (fun c => { c with preempt := some {
    part := p, run := r, quire := q, phase := if c.active.isNone ∧ c.done.isNone then 3 else 2,
    transfer, abandoned := false, victim := c.user } })

/-- Whether a ready quire may request pre-emption (R185). -/
def State.mayPreempt (s : State) (x : Run) (r q : Nat) : Bool :=
  let p := x.part
  s.ready r q && decide ((s.partAt p).preemptLevel ≤ x.prio) &&
  s.topPrio p == some x.prio && (s.classQueue p x.prio).head? == some (r, q) &&
  (s.coresHeld p).all (fun n => !(s.coreAt n).idle) && s.idlePool.isEmpty && (s.lendable p).isEmpty &&
  (List.range 8).all (fun n => !(s.coreAt n).preempt.any (fun y => y.part == p))

/-- PREEMPTION_REQUEST: the candidate with the smallest estimate is chosen, the lower-numbered on ties; with none the quire waits (R186).
An owner reclaims a lent core at any priority. -/
def execPreemptionRequest (run quire : Nat) (s : State) : Host.Outcome State Fault Refusal :=
  match s.runAt run with
  | none => .next s
  | some x =>
    if !s.mayPreempt x run quire then .next s
    else
      let l := (s.victims x.part x.prio).filter (fun n => (s.coreAt n).user == x.part ||
        decide ((s.coresHeld x.part).length < (s.partAt x.part).coresMax))
      match leastBy (s.victimCost x.part run quire) l with
      | none => .next s
      | some n =>
        let s := s.markPreempt x.part run quire n
        .next (if s.mayAbandon n then s.abandonQuire n else s)

/-- The quire a pre-emption was for, placed at the head of the core it won; a full queue returns its last quire (R182, R187 step 5). -/
def State.placeWinner (s : State) (y : Preempt) (n : Nat) : State :=
  match s.runAt y.run with
  | some x => if s.ready y.run y.quire ∧ x.part = y.part ∧ tget 0 x.avoid y.quire ≠ n + 1 then
      let s := s.homeBindings y.run y.quire n (s.pointExp x)
      let last := (s.coreAt n).queue.drop 3
      let s := last.foldl (fun s e => s.returnQuire e.1 e.2) s
      let s := (s.setQuire y.run y.quire (.placed n)).setRun y.run (fun x => { x with returned := x.returned.filter (· != y.quire) })
      (s.setCore n (fun c => { c with queue := (y.run, y.quire) :: c.queue.take 3 })).wake (5 + n)
    else s
  | none => s

/-- Ranges of a core store that hold nothing of partition p, and that no move of it is filling. -/
def State.foreign (s : State) (p n : Nat) : List (Nat × Nat × Nat) :=
  let mine := (s.cel.tensors.filter (fun e => e.2.part == p)).flatMap (fun e =>
    (if atCore n e.2.home then [(e.2.addr, e.2.bytes)] else []) ++
    (match e.2.move with
     | some (h, a) => if atCore n h then [(a, s.bytesIn e.2 h)] else []
     | none => []))
  mine.foldl (fun l r => carve r.1 (r.1 + r.2) l) [(coreBase n, coreBase n + 0x02000000, 0)]

/-- The lines of a core store not yet zeroed that are not partition p's, scrubbed, and the scrub charged to p (R187 step 4, R190). -/
def State.scrubForeign (s : State) (p n : Nat) : State :=
  let l := s.foreign p n
  let dirty := ((s.mem.cells.filter (fun e => l.any (fun r => decide (r.1 ≤ e.1) && decide (e.1 < r.2.1)))).map (fun e => e.1 / 64)).eraseDups
  (l.foldl (fun s r => s.scrub r.1 r.2.1) s).chargeScrub p (64 * dirty.length)

/-- A pre-emption that has ended, counted and described (R203). -/
def State.countPreempt (s : State) (y : Preempt) (n duration : Nat) : State :=
  { s with cel := { s.cel with
      preempts := satAdd 16 s.cel.preempts 1, uses := s.cel.uses + 1,
      transfers := if y.transfer then satAdd 16 s.cel.transfers 1 else s.cel.transfers,
      last := some (n, y.part, y.transfer, y.abandoned, min (2 ^ 22 - 1) duration) } }

/-- PREEMPTION_RACK_OUT_DONE (R187 step 3): the victim's tensors lie in its save area and its constants are dropped; within one partition only what makes the quire fit.
A pre-emption without transfer ends here; a removal lets the core go (R192). -/
def execPreemptionRackOutDone (core : Fin 8) (s : State) : Host.Outcome State Fault Refusal :=
  let n := core.val
  match (s.coreAt n).preempt with
  | none => .next s
  | some y =>
    if y.phase ≠ 3 then .next s
    else if y.part = 0 then .next ((((s.rackOut 0 y.victim n).coreLeft n).restReleased n).settle)
    else if y.transfer then
      .next (((s.rackOut y.part y.victim n).setCore n (fun c => { c with preempt := some { y with phase := 4 } })).settle)
    else
      let s := (s.spill y.victim y.run y.quire n).foldl (fun s k => s.rackOutOne y.part k) s
      let s := (s.setCore n (fun c => { c with preempt := none })).countPreempt y n (Config.duration s.cel.uses).toNat
      .next ((s.placeWinner y n).settle)

/-- PREEMPTION_TRANSFER_DONE (R187 steps 4 and 5): the core is cleared and scrubbed of the victim, its user is the new partition, and the quire is placed. -/
def execPreemptionTransferDone (core : Fin 8) (duration : Nat) (s : State) : Host.Outcome State Fault Refusal :=
  let n := core.val
  match (s.coreAt n).preempt with
  | none => .next s
  | some y =>
    if y.phase ≠ 4 then .next s
    else
      let s := s.freeTensors (fun t => t.part == y.victim && t.lost && atCore n t.home)
      let s := ((s.setCore n (fun c => { c.clear with
        preempt := none, user := if y.part = 0 then (if c.out then 0 else c.owner) else y.part })).dropZero n).scrubForeign y.part n
      .next ((if y.part = 0 then s else (s.countPreempt y n duration).placeWinner y n).settle)

/-! ### Racking (R174 to R178) and the regulators (R196, R197) -/

/-- The place of a destination: the address asked for when it is free, else the lowest free one. -/
def State.moveRoom (s : State) (t : Tensor) (dest : HomeKind) (destAddr : Nat) : State × Option Nat :=
  let n := s.bytesIn t dest
  let free := fun (l : List (Nat × Nat)) => decide (destAddr % 64 = 0) && l.all (fun u => !meets destAddr n u.1 u.2)
  match dest with
  | .core c =>
    let s := s.clearRoom c n
    let l := s.tensorRanges (atCore c) ++ s.dstRanges c
    if decide (coreBase c ≤ destAddr) && decide (destAddr + n ≤ coreBase c + 0x02000000) && free l then (s, some destAddr)
    else (s, s.coreRoom c n)
  | .cellar =>
    let l := s.tensorRanges (fun h => h = .cellar) ++ s.tableRanges
    match s.takeCellar t.part n (decide ((s.declOf t).home = 2)) with
    | (s, none) => (s, none)
    | (s, some a) =>
      (s, some (if decide (cellarBase ≤ destAddr) && decide (destAddr + n ≤ cellarBase + s.cellarSize) && free l then destAddr else a))
  | .dram =>
    (s, s.dramRoom t.part n (decide ((s.declOf t).home = 4)))
  | .saveArea => (s, s.saveRoom t.part n)

/-- Whether HOME_ALLOWED and the partition's state allow a destination: a core that the partition holds or has won, the save area only for what leaves a core (R142, R170, R174, R187). -/
def State.moveAllowed (s : State) (t : Tensor) (dest : HomeKind) : Bool :=
  let d := s.declOf t
  match dest with
  | .core c => (bitOf d.home 0 || !isGutterSlot (s.imageOf t.part t.folio) t.tid) && !(s.coreAt c).out && ((s.coreAt c).user == t.part || (s.coreAt c).preempt.any (fun y => y.part == t.part))
  | .cellar => bitOf d.home 1
  | .dram => bitOf d.home 2 && !d.isConst
  | .saveArea => (List.range 8).any (fun n => atCore n t.home && (s.coreAt n).preempt.any (fun y => y.victim == t.part && y.phase == 3)) && !s.copies t

/-- Whether an issued quire binds a tensor, or a quire queued on the core whose store it lies in (R176, R177). -/
def State.boundHere (s : State) (t : Tensor) (k : Nat) : Bool :=
  s.boundIssued.contains k || (List.range 8).any (fun n => atCore n t.home && (s.boundOn n).contains k)

/-- RACK_MOVE: a move begins, its destination taken; a copy (R138, R175) leaves its tensor's home where it is (R177).
It waits where a move of the tensor is under way, an issued quire binds it or a quire queued on the core it lies in does (R176), or no room is left. -/
def execRackMove (tensor : Nat) (dest : HomeKind) (destAddr : Nat) (s : State) : Host.Outcome State Fault Refusal :=
  match s.tensorAt tensor with
  | none => .next s
  | some t =>
    let copy := s.copies t
    if t.lost ∨ t.move.isSome = true ∨ t.home = dest ∨ s.moveAllowed t dest = false ∨ (copy = false ∧ s.boundHere t tensor = true) ∨
       (copy = true ∧ s.cel.tensors.any (fun e => e.2.part == t.part && e.2.folio == t.folio && e.2.run == t.run && e.2.tid == t.tid &&
          e.2.inst == t.inst && (decide (e.2.home = dest) || e.2.move.any (fun m => decide (m.1 = dest)))) = true) then .next s
    else
      match s.moveRoom t dest destAddr with
      | (_, none) => .next s
      | (s, some a) =>
        let n := s.bytesIn t t.home
        let o := if dest = .saveArea then (s, []) else s.regulate t dest a n
        let s := { o.1 with cel := { o.1.cel with uses := o.1.cel.uses + 1 } }
        .next (if copy then s.newTensor { t with move := some (dest, a), used := s.cel.uses, owed := o.2 }
          else s.setTensor tensor (fun t => { t with move := some (dest, a), used := s.cel.uses, owed := o.2 }))

/-- RACK_MOVE_DONE: the home switches to the destination (R177), once no request of the move waits for tokens (R196). -/
def execRackMoveDone (tensor : Nat) (ecc : List StoreError) (s : State) : Host.Outcome State Fault Refusal :=
  .next (if (s.tensorAt tensor).any (fun t => !t.owed.isEmpty) then s else (s.sourceErrors tensor ecc).landMove tensor)

/-- Trained channels of the device and of a memory group (R196). -/
def State.trainedIn (s : State) (g : Nat) : Nat := (s.ddr.inService.filter (fun c => c / 4 == g)).length

/-- The tokens of a bucket given to the moves that wait for them, in order; an unregulated bucket lets all go (R196). -/
def State.payWaiting (s : State) (p b rate : Nat) : State :=
  (s.cel.tensors.filter (fun e => e.2.part == p && decide (tget 0 e.2.owed b ≠ 0))).foldl (fun s e =>
    let have_ := tget 0 s.cel.tokens (32 * p + b)
    let want := tget 0 e.2.owed b
    let pay := if rate = 0 then want else min have_ want
    let s := { s with cel := { s.cel with tokens := tput 0 s.cel.tokens (32 * p + b) (have_ - pay) } }
    s.setTensor e.1 (fun t => { t with owed := tput 0 t.owed b (want - pay) })) s

/-- REGULATOR_REFILL: a bucket gains its tokens, up to its depth, and requests that wait are served from them (R196). -/
def execRegulatorRefill (part : Fin 8) (bucket : Fin 27) (s : State) : Host.Outcome State Fault Refusal :=
  let p := part.val + 1
  let b := bucket.val
  let q := s.partAt p
  let all := s.ddr.inService.length
  let depth := if b < 3 then q.burst * 1024 * s.trainedIn b / all else q.burst * 1024
  let gain := if b < 3 then q.dramRate * 1280 * s.trainedIn b / all else q.fabricRate * 1024
  if q.st = .free ∨ (b < 3 ∧ s.trainedIn b = 0) then .next s
  else .next (({ s with cel := { s.cel with tokens := tput 0 s.cel.tokens (32 * p + b) (min depth (tget 0 s.cel.tokens (32 * p + b) + gain)) } }).payWaiting p b
    (if b < 3 then q.dramRate else q.fabricRate))

end Sys2Proof.Machine
end

