-- ==== Sys2Proof/Machine/Video.lean ====
section
/-! DEFINITION. Decoding of video streams (R206, R207, R213, R215 to R222, R225, R227, R229, R238 to R241): PICTURE_PARSE, PICTURE_DISPATCH, PICTURE_DECODED, DECODE_BUDGET_EXPIRY.
What the coding standards fix comes as operands (assumption log 6). -/

namespace Sys2Proof.Machine

/-- Whether decode cluster k can work now: it serves and its domain is ON (R25, R214). -/
def State.clusterAwake (s : State) (k : Nat) : Bool := s.clusterServes k && decide ((s.domAt (21 + k)).st = .on ∧ (s.domAt (21 + k)).move = .none)

/-- The state of a stream that says whether its pictures decode: while it flushes, the one it returns to (R210). -/
def Stream.mode (x : Stream) : StreamState := if x.st = .flushing then x.back else x.st

/-- The mode of a stream set. -/
def Stream.setMode (x : Stream) (m : StreamState) : Stream := if x.st = .flushing then { x with back := m } else { x with st := m }

/-- Whether a picture still waits for its engine or is with it. -/
def Pic.undecoded (p : Pic) : Bool :=
  match p.stage with
  | .parsed => true
  | .dispatched _ => true
  | _ => false

/-- The nominal cost of a picture in engine cycles (R208). -/
def nominalCost (w h depth : Nat) : Nat := if depth = 10 then ceilDiv (5 * w * h) 6 else ceilDiv (2 * w * h) 3

/-! ### Input buffers (R213) -/

/-- The oldest FEED's buffer returns when its bytes are parsed and every picture that begins in it or before it is decoded. -/
def State.releaseFeed (s : State) (sid : Nat) : State :=
  match s.streamAt sid with
  | none => s
  | some x =>
    match x.feeds with
    | [] => s
    | f :: fs =>
      if f.here && decide (f.len ≤ x.parsed) && !(x.pics.any (fun p => p.undecoded && decide (p.feed ≤ f.id))) then
        (s.returnBuf f.buf).setStream sid (fun x => { x with feeds := fs, parsed := x.parsed - f.len })
      else s

/-- Every buffer that can go back, oldest first; what waits for the stream is looked at again. -/
def State.releaseFeeds (s : State) (sid : Nat) : State :=
  ((List.range (((s.streamAt sid).map (·.feeds.length)).getD 0)).foldl (fun s _ => s.releaseFeed sid) s).settle

/-! ### PICTURE_PARSE (R206, R207, R213, R215, R220, R221, R225, R239, R243) -/

/-- Whether a set's profile is one that R206 lists for a codec: 0 H.264, 1 H.265. -/
def profileOk (codec : Nat) : Profile → Bool
  | .constrainedBaseline => codec == 0
  | .main => codec == 0
  | .high => codec == 0
  | .hevcMain => codec == 1
  | .hevcMain10 => codec == 1
  | .other => false

/-- Whether a sequence parameter set is accepted: R206 and the stream's declared limits (R207). -/
def setAccepted (x : Stream) (p : SeqSet) : Bool :=
  profileOk x.codec p.profile && !p.extended && p.frameOnly &&
  decide (p.depth ≤ x.maxDepth ∧ (p.depth = 8 ∨ (p.depth = 10 ∧ x.codec = 1))) && decide (p.chroma = 1 ∨ (p.chroma = 0 ∧ x.codec = 0)) &&
  decide (64 ≤ p.width ∧ p.width ≤ min 4096 x.maxW) && decide (64 ≤ p.height ∧ p.height ≤ min 2304 x.maxH) && decide (p.numRefs ≤ min 16 x.maxRefs)

/-- A parameter set stored as received; one that cannot be parsed leaves its identifier empty until the next (R207, R220; assumption log 73). -/
def Stream.takeHeader (x : Stream) : HeaderUnit → Stream
  | .seqSet p => { x with seqSets := tput none x.seqSets p.id (some p) }
  | .picSet i k => { x with picSets := tput none x.picSets i (some k) }
  | .badSeq i => { x with seqSets := tput none x.seqSets i none }
  | .badPic i => { x with picSets := tput none x.picSets i none }
  | .sei _ _ _ => x

/-- The picture order count of the recovery point that an access unit's SEI names: a message above 64 KiB or one that does not parse counts for nothing (R220, R221). -/
def recoveryOf (p : ParsedPicture) : Option Int :=
  p.headers.findSome? (fun u => match u with
    | .sei n true (some c) => if n ≤ 65536 then some c else none
    | _ => none)

/-- Whether a picture is a starting point of R221. -/
def startsAt (p : ParsedPicture) : Bool := decide (p.start ≠ .none) || (recoveryOf p).isSome

/-- The identifier of the sequence parameter set a picture refers to (R207). -/
def Stream.setIdOf (x : Stream) (p : ParsedPicture) : Option Nat := tget none x.picSets p.set

/-- Whether a picture activates its set: an IRAP picture, or one that names another set than the last (R207; assumption log 73). -/
def Stream.activates (x : Stream) (p : ParsedPicture) : Bool := decide (p.start ≠ .none) || decide (x.active.map (·.id) ≠ x.setIdOf p)

/-- The sequence parameter set a picture refers to: the one it activates, else the one in force (R207). -/
def Stream.setOf (x : Stream) (p : ParsedPicture) : Option SeqSet :=
  if x.activates p then (x.setIdOf p).bind (fun i => tget none x.seqSets i) else x.active

/-- The PTS of a picture: its FEED's for the first picture that begins in it, else all ones (R213). -/
def Stream.ptsOf (x : Stream) (i : Nat) : Nat :=
  match x.feeds[i]? with
  | some f => if f.taken then 2 ^ 64 - 1 else f.pts
  | none => 2 ^ 64 - 1

/-- A FEED that has given its PTS. -/
def Stream.takePts (x : Stream) (i : Nat) : Stream :=
  { x with feeds := x.feeds.zipIdx.map (fun e => if e.2 = i then { e.1 with taken := true } else e.1) }

/-- Whether a reference of a picture is neither in the buffer nor on its way to it (R218). -/
def Stream.missesRef (x : Stream) (p : ParsedPicture) : Bool :=
  p.refs.any (fun r => !(x.dpb.any (fun e => e.decSeq == r.1)) &&
    !(x.pics.any (fun q => q.decSeq == r.1 && q.isRef && decide (q.stage ≠ .skipped))))

/-- Whether a picture of a stream comes before one of a picture order count in output order: it is of an earlier coded video sequence, or its count is lower (R215). -/
def Pic.before (q : Pic) (cvs : Nat) (poc : Int) : Bool := decide (q.cvs < cvs) || (q.cvs == cvs && decide (q.poc < poc))

/-- PIC_SEQ of a parsed picture: after every picture not yet output that precedes it, those still to be parsed included (R215, R243; assumption log 6). -/
def Stream.orderOf (x : Stream) (p : ParsedPicture) : Nat :=
  (x.nextPic + (x.pics.filter (fun q => !q.output && !q.hidden x && q.before x.cvs p.poc)).length + p.laterFirst) % 2 ^ 32

/-- Coding units of a picture (R219). -/
def unitCount (w h unit : Nat) : Nat := ceilDiv w unit * ceilDiv h unit

/-- Whether a picture's matrix is BT.601: COLOUR says so, or leaves it to matrix_coefficients 5 or 6 of the VUI (R225). -/
def Stream.isBt601 (x : Stream) (set : SeqSet) : Bool :=
  if x.colour = 0 then set.matrix == some 5 || set.matrix == some 6 else x.colour == 2

/-- Side of the coding units of a set: 16 in H.264 (R219). -/
def Stream.unitOf (x : Stream) (set : SeqSet) : Nat := if x.codec = 0 then 16 else max 1 set.unit

/-- The picture as the header processor hands it on, its stream already going on at it (R215, R218, R219, R221, R244). -/
def Stream.newPic (x : Stream) (p : ParsedPicture) (set : SeqSet) : Pic :=
  let rec_ := p.start = .none && x.recovery.any (fun c => decide (p.poc < c))
  let order := x.orderOf p
  let analysed := decide (order % x.every = 0) && !(rec_ && !x.outputRecovering)
  let skip := x.skipNonref && !p.isRef && !analysed
  let huge := decide (33554432 < p.auBytes)
  { decSeq := x.nextDec, order, w := set.width, h := set.height, depth := set.depth, chroma420 := decide (set.chroma = 1),
    pts := x.ptsOf p.feedIndex, poc := p.poc, isRef := p.isRef, isKey := startsAt p, refs := p.refs,
    keeps := if p.start = .idr then [] else p.keeps, marked := p.isRef,
    totalUnits := unitCount set.width set.height (x.unitOf set), unit := x.unitOf set, oversized := huge, source := none,
    bt601 := x.isBt601 set, fullRange := set.fullRange,
    stage := if skip then .skipped else .parsed, feed := ((x.feeds[p.feedIndex]?).map (·.id)).getD 0,
    causes := if skip then 0 else (if decide (600 < p.segments) || huge then 4 else 0) + (if x.missesRef p && x.recovery.isNone then 8 else 0),
    units := 0, refConcealed := false, since := x.startDec, cvs := x.cvs, recovering := rec_, analysed, cycles := 0, planes := none, samples := [], stat := (0, 0),
    regroup := none, prepared := false, quantised := false, e := 0, clamps := 0, batch := 0, detDone := false, dets := [], reidLeft := 0,
    crop := none, output := false, status := 0 }

/-- Snapshot requests for a picture that gives none end with SNAPSHOT_MISSED (R239). -/
def State.missSnaps (s : State) (sid dec : Nat) : State := s.reportSnaps sid (fun q => !q.taken && q.target == some dec)

/-- A stream that begins or goes on decoding at a picture: from SEEKING a CRA or any BLA picture drops its RASL pictures, and a recovery point makes the pictures before it RECOVERING until the next IRAP picture (R221). -/
def Stream.begins (x : Stream) (p : ParsedPicture) : Stream :=
  { x.setMode .decoding with
    startDec := if startsAt p then x.nextDec else x.startDec,
    cvs := if p.start = .idr ∨ p.start = .bla ∨ x.mode = .seeking then x.nextDec else x.cvs,
    raslOut := if p.start = .none then x.raslOut else p.start == .bla || (p.start == .cra && decide (x.mode = .seeking)),
    recovery := if p.start ≠ .none then none else if x.mode = .seeking then recoveryOf p else x.recovery }

/-- What happens to a parsed picture: refused with its set, discarded, or kept (R207, R210, R221). -/
def State.takePicture (s : State) (sid : Nat) (x : Stream) (p : ParsedPicture) (set : SeqSet) : State :=
  let d := x.nextDec
  let next := fun (x : Stream) => { x with nextDec := (x.nextDec + 1) % 2 ^ 32, active := some set }
  let s := s.setStream sid (fun x => x.takePts p.feedIndex)
  if !setAccepted x set then
    let fresh := x.activates p
    let s := (s.setStream sid (fun x => next { x.setMode .seeking with refused := x.refused + b2n fresh, dpb := [] })).missSnaps sid d
    if fresh then s.hpEvent x.cluster sid 0x0483 0 0 else s
  else if (x.mode = .seeking ∧ startsAt p = false) ∨ (p.rasl = true ∧ x.raslOut = true) then (s.setStream sid next).missSnaps sid d
  else
    let y := x.begins p
    let q := y.newPic p set
    let s := s.setStream sid (fun x => next { x.begins p with pics := if q.stage = .skipped ∧ q.hidden x = true then x.pics else x.pics ++ [q] })
    if q.stage = .skipped then s.missSnaps sid d else s

/-- The parameter sets of an access unit stored, then its picture: with nuh_layer_id above 0 it is discarded, and with no set to parse its header by it is none (R206, R207, R243; assumption log 73). -/
def State.takeUnit (s : State) (sid : Nat) (p : ParsedPicture) : State :=
  if p.layer ≠ 0 then s
  else
    let s := s.setStream sid (fun x => p.headers.foldl Stream.takeHeader x)
    match s.streamAt sid with
    | none => s
    | some x =>
      match x.setOf p with
      | some set => if p.segments = 0 then s else s.takePicture sid x p set
      | none => s

/-- PICTURE_PARSE: the header processor parses the next access unit of a stream, whose bytes are in the bin. -/
def execPictureParse (stream : Nat) (pic : ParsedPicture) (s : State) : Host.Outcome State Fault Refusal :=
  match s.streamAt stream with
  | none => .next s
  | some x =>
    if x.st = .closed ∨ x.unparsed < pic.auBytes ∨ pic.auBytes = 0 ∨ s.clusterServes x.cluster = false then .next s
    else if s.clusterAwake x.cluster = false then .next (s.wake (21 + x.cluster))
    else
      let s := (s.takeUnit stream pic).setStream stream (fun x => { x with parsed := x.parsed + pic.auBytes })
      .next ((s.alarmUpdate x.part x.pipeline).releaseFeeds stream)

/-! ### PICTURE_DISPATCH (R215, R227, R229, R239, R240) -/

/-- Bytes of a staging copy of an analysis picture: 16 bits a sample (R227). -/
def Pipeline.stageBytes (x : Pipeline) : Nat := 2 * x.wa * x.ha * chanCount x.channels

/-- The encoders a picture needs: those of the stream's sessions when it is output, and the snapshot encoder when a request names it (R239, R240).
An encoder out of service holds no picture back: only the clips and snapshots that need it are unavailable (R13). -/
def State.encodersFor (s : State) (sid : Nat) (x : Stream) (p : Pic) : List Nat :=
  (((List.range 2).filter (fun e => !p.hidden x && (s.clipsOf sid).any (fun c => c / 16 == e))) ++
  (if x.snaps.any (fun q => !q.taken && (q.target == none || q.target == some p.decSeq)) then [2] else [])).filter s.encoderServes

/-- Whether a picture's staging copy fits in CELLAR_BUDGET: only an input in running mode ever holds one (R53, R227). -/
def State.stagingFits (s : State) (pipe : Pipeline) : Bool :=
  s.inputMode pipe.part pipe.detFolio != 1 ||
  decide (s.cellarUse pipe.part + s.reserved pipe.part 2 + pipe.stageBytes ≤ 2 ^ 20 * (s.partAt pipe.part).cellar)

/-- Whether a picture is the next of its stream to decode and nothing but a free engine and its grants holds it back (R215, R227, R229, R240). -/
def State.dispatchable (s : State) (sid : Nat) (x : Stream) (p : Pic) (pipe : Pipeline) : Bool :=
  decide (p.stage = .parsed) && !(x.pics.any (fun q => decide (q.stage = .parsed ∧ q.decSeq < p.decSeq))) &&
  !(x.pics.any (fun q => p.refs.any (fun r => r.1 == q.decSeq) && q.undecoded)) &&
  !s.queueFull pipe && s.stagingFits pipe && (s.encodersFor sid x p).all (fun e => (tget none s.media.enBusy e).isNone)

/-- Whether a picture may take the encoders it needs: none, or a grant of theirs to its class stands (R183). -/
def State.mayEncode (s : State) (sid : Nat) (x : Stream) (p : Pic) (pipe : Pipeline) : Bool :=
  (s.encodersFor sid x p).isEmpty || s.mayTake 14 x.part (pipe.workPrio x.prio)

/-- Whether a picture may be dispatched to an engine now: the engine is free, and granted to its class (R183, R215, R227, R229, R240). -/
def State.mayDispatch (s : State) (sid : Nat) (x : Stream) (p : Pic) (pipe : Pipeline) (engine : Nat) : Bool :=
  let c := s.clusterAt x.cluster
  c.engines.getLsbD engine && !c.busy.getLsbD engine && s.dispatchable sid x p pipe && s.mayEncode sid x p pipe &&
  s.mayTake (10 + x.cluster) x.part (pipe.workPrio x.prio)

/-- The distance of two picture order counts. -/
def pocGap (a b : Int) : Nat := (a - b).natAbs

/-- The concealment source of a picture: the reference in the buffer whose count is nearest to its own, the lower on ties (R218). -/
def concealSource (l : List RefPic) (poc : Int) : Option RefPic :=
  l.foldl (fun o r => match o with
    | none => some r
    | some b => if pocGap r.poc poc < pocGap b.poc poc ∨ (pocGap r.poc poc = pocGap b.poc poc ∧ r.poc < b.poc) then some r else some b) none

/-- The sample that fills a concealed region where the buffer holds no reference (R218). -/
def fillSample (depth : Nat) : Nat := if depth = 10 then 512 else 128

/-- Planes of a picture that hold one sample. -/
def flatPlanes (p : Pic) : Planes :=
  let c := if p.chroma420 then p.w / 2 * (p.h / 2) else 0
  { width := p.w, height := p.h, y := List.replicate (p.w * p.h) (fillSample p.depth), cb := List.replicate c (fillSample p.depth),
    cr := List.replicate c (fillSample p.depth) }

/-- References absent from the buffer of a stream that began at a recovery point, generated as the concealment fill (R221). -/
def Stream.generated (x : Stream) (p : Pic) : List RefPic :=
  if x.recovery.isNone then []
  else (p.refs.filter (fun r => !(x.dpb.any (fun e => e.decSeq == r.1)) && !(x.pics.any (fun q => q.decSeq == r.1 && q.isRef)))).map (fun r =>
    { decSeq := r.1, poc := r.2, bad := false, planes := ((concealSource x.dpb p.poc).map (·.planes)).getD (flatPlanes p) })

/-- The decoded picture buffer at a picture's dispatch: what its slice headers no longer mark leaves it, an IDR picture empties it, and absent references are generated (R215, R221). -/
def Stream.mark (x : Stream) (p : Pic) : Stream :=
  { x with
    dpb := x.dpb.filter (fun e => p.keeps.contains e.decSeq) ++ x.generated p,
    pics := x.pics.map (fun q => if q.decSeq < p.decSeq then { q with marked := q.marked && p.keeps.contains q.decSeq } else q) }

/-- The part of a snapshot's box that lies in its picture: width and height (R239; assumption log 70). -/
def Snap.sizeIn (q : Snap) (w h : Nat) : Nat × Nat :=
  if q.whole then (w, h)
  else (min (q.box.getD 2 0) w - min (q.box.getD 0 0) w, min (q.box.getD 3 0) h - min (q.box.getD 1 0) h)

/-- CTU columns of a picture at a session's scale (R240, R241). -/
def Clip.columns (k : Clip) (w : Nat) : Nat := ceilDiv (w / 2 ^ k.scale) (max 1 (Config.encoderUnit k.codec))

/-- How the next picture of a session is coded (R240 to R242): an IDR at the start, after a dropped chunk, and in MODE 0 for a key request or every GOP pictures;
in MODE 1 a column of a refresh sweep, from its beginning after a request. -/
def Clip.planFor (k : Clip) (w : Nat) : EncPlan :=
  let idr := k.fresh || (decide (k.mode = 0) && (k.key || decide (k.gop ≤ k.count)))
  if idr ∨ k.mode = 0 then { idr, intra := (0, 0), vectors := 0, recovery := none }
  else
    let i := if k.key ∨ k.gop ≤ k.sweep then 0 else k.sweep
    let n := ceilDiv (k.columns w) (max 1 k.gop)
    { idr, intra := (i * n, n), vectors := i * n, recovery := if i = 0 then some (k.gop - 1) else none }

/-- A session with a dispatched picture to encode: requests before the dispatch give one key picture (R241). -/
def Clip.take (k : Clip) (p : Pic) : Clip :=
  let plan := k.planFor p.w
  { k with todo := some (p.decSeq, p.order), plan, key := false, fresh := false,
           sweep := if plan.idr then 0 else if k.key ∨ k.gop ≤ k.sweep then 1 else k.sweep + 1 }

/-- A picture handed to an engine, with what is attached to it and its concealment source (R215, R218, R221, R239, R241). -/
def State.dispatch (s : State) (sid : Nat) (x : Stream) (p : Pic) (engine : Nat) : State :=
  let es := s.encodersFor sid x p
  let x := x.mark p
  let s := s.setCluster x.cluster (fun c => { c with busy := c.busy ||| BitVec.ofNat 10 (2 ^ engine) })
  let s := s.setStream sid (fun x => x.mark p)
  let s := s.setPic sid p.decSeq (fun p => { p with
    stage := .dispatched engine, source := (concealSource x.dpb p.poc).map (·.planes),
    refConcealed := p.refs.any (fun r => decide (p.since ≤ r.1) && x.dpb.any (fun e => e.decSeq == r.1 && e.bad)) })
  let s := if es.contains 2 then s.setStream sid (fun x => { x with snaps := x.snaps.map (fun q =>
      if !q.taken && (q.target == none || q.target == some p.decSeq) then
        { q with taken := true, target := some p.decSeq, order := if p.hidden x then noPic else p.order, size := q.sizeIn p.w p.h }
      else q) }) else s
  let s := es.foldl (fun s e => { s with media := { s.media with enBusy := tput none s.media.enBusy e (some (sid, p.decSeq)) } }) s
  ((s.clipsOf sid).filter (fun c => es.contains (c / 16))).foldl (fun s c => { s with media := { s.media with
    clips := tmod none s.media.clips c (fun o => o.map (fun k => k.take p)) } }) s

/-- PICTURE_DISPATCH: the next picture of a stream goes to a free engine of its cluster. -/
def execPictureDispatch (stream : Nat) (decSeq : Nat) (engine : Fin 10) (s : State) : Host.Outcome State Fault Refusal :=
  match s.streamAt stream with
  | none => .next s
  | some x =>
    match x.picAt decSeq, s.pipeAt x.part x.pipeline with
    | some p, some pipe =>
      if s.mayDispatch stream x p pipe engine = false ∨ s.clusterServes x.cluster = false then .next s
      else
        let need := (21 + x.cluster) :: ((if p.analysed then [27] else []) ++ (if (s.encodersFor stream x p).isEmpty then [] else [25]))
        if need.any (fun d => decide ((s.domAt d).st ≠ .on ∨ (s.domAt d).move ≠ .none)) then .next (need.foldl State.wake s)
        else
          let t := (s.dispatch stream x p engine).takeGrant (10 + x.cluster) x.part (pipe.workPrio x.prio)
          .next (if (s.encodersFor stream x p).isEmpty then t else t.takeGrant 14 x.part (pipe.workPrio x.prio))
    | _, _ => .next s

/-! ### PICTURE_DECODED, DECODE_BUDGET_EXPIRY (R216 to R219, R250) -/

/-- The coding units of a picture that are concealed: those in error, those missing, those from the unit in progress on when the budget ran out, and all of an oversized access unit's (R218). -/
def Pic.concealed (p : Pic) (r : DecodeReport) (inUnit : Option Nat) : List Nat :=
  (List.range p.totalUnits).filter (fun u =>
    p.oversized || r.syntaxErrors.any (fun e => decide (e.1 ≤ u ∧ u ≤ e.2)) || r.missing.contains u || inUnit.any (fun b => decide (b ≤ u)))

/-- CONCEAL_CAUSE of a decoded picture (R218). -/
def Pic.causesOf (p : Pic) (r : DecodeReport) (inUnit : Option Nat) : Nat :=
  p.causes ||| packBits [!r.syntaxErrors.isEmpty, inUnit.isSome, !r.missing.isEmpty]

/-- A plane with its concealed units filled from the source: `u` is the side of a unit in this plane's samples, `cols` how many stand in a row (R218). -/
def fillPlane (w n u cols fill : Nat) (units : List Nat) (src : Option (List Nat)) (own : List Nat) : List Nat :=
  let a := own.toArray
  let b := src.map List.toArray
  (List.range n).map (fun i =>
    if units.contains (i / w / u * cols + i % w / u) then ((b.map (fun v => v.getD i fill)).getD fill) else a.getD i fill)

/-- The samples of a decoded picture: with no unit concealed as the engine gives them, else filled from the concealment source and then deblocked and offset as the codec's standard says (R216, R218). -/
def Pic.samplesOf (p : Pic) (codec : Nat) (units : List Nat) (pl : Planes) : Planes :=
  if units.isEmpty then pl
  else
    let cols := ceilDiv p.w (max 1 p.unit)
    let fill := fillSample p.depth
    let half := max 1 (p.unit / 2)
    let y := fillPlane (max 1 p.w) (p.w * p.h) (max 1 p.unit) cols fill units (p.source.map (·.y)) pl.y
    let n := if p.chroma420 then p.w / 2 * (p.h / 2) else 0
    let cb := fillPlane (max 1 (p.w / 2)) n half cols fill units (p.source.map (·.cb)) pl.cb
    let cr := fillPlane (max 1 (p.w / 2)) n half cols fill units (p.source.map (·.cr)) pl.cr
    let all := y ++ cb ++ cr
    let get := fun (k m : Nat) => (List.range m).map (fun i => Config.inLoop codec all (k + i) % 2 ^ p.depth)
    { width := p.w, height := p.h, y := get 0 y.length, cb := get y.length cb.length, cr := get (y.length + cb.length) cr.length }

/-- A plane box-averaged by k in each direction (R240). -/
def averagePlane (w h k : Nat) (l : List Nat) : List Nat := (({ w, h, a := l.toArray } : Grid).reduce k k).a.toList

/-- The picture an encoder is handed: samples of 8 bits, those of a 10-bit picture shifted right by 2, at a scale of 1, 1/2 or 1/4 by box averaging (R238, R240). -/
def encoderPlanes (pl : Planes) (depth scale : Nat) : Planes :=
  let e := fun (l : List Nat) => if depth = 10 then l.map (· / 4) else l
  let k := 2 ^ scale
  { width := pl.width / k, height := pl.height / k, y := averagePlane pl.width pl.height k (e pl.y),
    cb := averagePlane (pl.width / 2) (pl.height / 2) k (e pl.cb), cr := averagePlane (pl.width / 2) (pl.height / 2) k (e pl.cr) }

/-- The direct stream of a decoded picture taken by the encoders that hold it (R19, R238 to R240). -/
def State.feedEncoders (s : State) (sid : Nat) (p : Pic) (pl : Planes) : State :=
  { s with media := { s.media with
    snapInput := if tget none s.media.enBusy 2 = some (sid, p.decSeq) then some (encoderPlanes pl p.depth 0) else s.media.snapInput,
    clips := s.media.clips.map (fun e => (e.1, e.2.map (fun (k : Clip) =>
      if k.stream = sid ∧ k.todo.map (·.1) = some p.decSeq then { k with input := some (encoderPlanes pl p.depth k.scale) } else k))) } }

/-- A picture leaves its engine: counted, charged, in the buffer while it is marked as a reference; one that is never output is gone (R198, R215, R216, R218, R221, R250). -/
def State.leaveEngine (s : State) (sid : Nat) (x : Stream) (p : Pic) (engine cycles causes : Nat) (units : List Nat) (planes : Planes) : State :=
  let pl := p.samplesOf x.codec units planes
  let s := s.setCluster x.cluster (fun c => { c with
    busy := c.busy &&& ~~~(BitVec.ofNat 10 (2 ^ engine)), pictures := wrapAdd c.pictures 1 })
  let s := (s.chargeWork x.part x.client 2 cycles).busyBatch [21 + x.cluster] x.part cycles [x.client]
  let s := s.feedEncoders sid p pl
  let s := s.setPic sid p.decSeq (fun p => { p with
    stage := .decoded, causes, units := units.length, cycles := min cycles (2 ^ 32 - 1), planes := if p.analysed then some pl else none, source := none })
  let s := s.setStream sid (fun x =>
    let l := if p.marked then x.dpb ++ [{ decSeq := p.decSeq, poc := p.poc, bad := causes != 0 || p.refConcealed, planes := pl }] else x.dpb
    { x with dpb := l.drop (l.length - x.maxRefs), pics := if p.hidden x then x.pics.filter (fun q => q.decSeq != p.decSeq) else x.pics })
  (s.alarmUpdate x.part x.pipeline).releaseFeeds sid

/-- PICTURE_DECODED: an engine finishes a picture within its budget. -/
def execPictureDecoded (stream : Nat) (decSeq : Nat) (cycles : Nat) (report : DecodeReport) (s : State) : Host.Outcome State Fault Refusal :=
  match s.streamAt stream with
  | none => .next s
  | some x =>
    match x.picAt decSeq with
    | none => .next s
    | some p =>
      match p.stage with
      | .dispatched e =>
        if x.budgetMult * nominalCost p.w p.h p.depth < cycles then .next s
        else .next (s.leaveEngine stream x p e cycles (p.causesOf report none) (p.concealed report none) report.planes)
      | _ => .next s

/-- DECODE_BUDGET_EXPIRY: the picture's budget has run out; from the unit in progress on it is concealed (R217, R218). -/
def execDecodeBudgetExpiry (stream : Nat) (decSeq : Nat) (inUnit : Nat) (report : DecodeReport) (s : State) : Host.Outcome State Fault Refusal :=
  match s.streamAt stream with
  | none => .next s
  | some x =>
    match x.picAt decSeq with
    | none => .next s
    | some p =>
      match p.stage with
      | .dispatched e =>
        let s := s.setCluster x.cluster (fun c => { c with budget := satAdd 32 c.budget 1 })
        .next (s.leaveEngine stream x p e (x.budgetMult * nominalCost p.w p.h p.depth) (p.causesOf report (some inUnit))
          (p.concealed report (some inUnit)) report.planes)
      | _ => .next s

end Sys2Proof.Machine
end

