-- ==== Sys2Proof/Machine/PrepCmd.lean ====
section
/-! DEFINITION. The prep units' commands on pictures and crops (R53, R127 to R131, R223 to R230, R234, R268 to R270): PREP_PICTURE_DONE, PREP_QUANTISE, BATCH_WAIT_EXPIRY, CROP_JOB, CROP_JOB_DONE. -/

namespace Sys2Proof.Machine

/-! ### Units and domains -/

/-- Whether a domain is awake. -/
def State.awake (s : State) (d : Nat) : Bool := decide ((s.domAt d).st = .on ∧ (s.domAt d).move = .none)

/-- Whether prep unit u is in service and has no job (R501). -/
def State.prepFree (s : State) (u : Nat) : Bool := s.media.ppService.getLsbD u && !s.media.ppBusy.getLsbD u && !(s.domAt 27).switchedOff

/-- Output pixels of a prep unit counted (R501). -/
def State.prepPixels (s : State) (u n : Nat) : State :=
  { s with media := { s.media with ppPixels := tmod 0 s.media.ppPixels u (fun k => wrapAdd k n) } }

/-- The track processor that finishes a page: the processors in service take pages in turn (assumption log 16). -/
def State.pageTracker (s : State) (n : Nat) : Nat := s.trackers.getD (n % max 1 s.trackers.length) 0

/-- Records of track processor k counted (R501). -/
def State.tkCount (s : State) (k n : Nat) : State := { s with media := { s.media with tkRecords := tmod 0 s.media.tkRecords k (fun x => wrapAdd x n) } }

/-! ### PREP_PICTURE_DONE and PREP_QUANTISE (R53, R223 to R228) -/

/-- Whether a picture waits for an earlier analysed picture of its stream to record its statistic (R53). -/
def Stream.prepHeld (x : Stream) (dec : Nat) : Bool := x.pics.any (fun q => decide (q.decSeq < dec) && q.analysed && !q.prepared)

/-- The exponent of a picture's network input (R49 to R51, R54). -/
def State.picExp (s : State) (sid : Nat) (x : Stream) (folio : Nat) (p : Pic) : Nat :=
  match s.netInput x.part folio with
  | none => 0
  | some (t, img, d) =>
    if d.scaleMode = 2 then windowExp img d [p.stat]
    else windowExp img d (s.windowBefore false sid folio t (instOrder p.decSeq 0) x.window)

/-- A prepared picture quantised: its exponent and clamps are known, and it joins a ready batch (R47, R157, R228). -/
def State.quantise (s : State) (sid : Nat) (x : Stream) (pipe : Pipeline) (p : Pic) : State :=
  let e := s.picExp sid x pipe.detFolio p
  let k := match s.netInput x.part pipe.detFolio with
    | none => 0
    | some (_, img, d) =>
      let a := (p.samples.map List.toArray).toArray
      (inputCodes img d e (regroupAt p.regroup pipe.ha pipe.wa (chanCount pipe.channels) (fun i c => ((a.getD c #[]).getD i none).getD pipe.pad))).2
  let bytes := ((s.netInput x.part pipe.detFolio).map (fun o => o.2.2.homeBytes)).getD 0
  let s := s.chargeWork x.part x.client 10 bytes
  let j := s.joinBatch pipe 0 x.prio (sid, p.decSeq)
  let s := j.1.setPic sid p.decSeq (fun p => { p with e, clamps := k, quantised := true, batch := j.2 + 1 })
  ((s.issueReady x.part pipe.handle).alarmUpdate x.part pipe.handle).sweepBatches

/-- The source rectangle of a picture: CX, CY, CW and CH of its stream, the whole picture where CW = CH = 0 (R209, R322). -/
def Stream.roi (x : Stream) (p : Pic) : Nat × Nat × Nat × Nat := if x.cw = 0 then (0, 0, p.w, p.h) else (x.cx, x.cy, x.cw, x.chh)

/-- Channel lists of samples interleaved at 8 bits each (R226). -/
def interleaved (n : Nat) (l : List (List Int)) : List Byte :=
  let a := (l.map List.toArray).toArray
  (List.range n).flatMap (fun i => a.toList.map (fun c => BitVec.ofNat 8 ((c.getD i 0) / 16).toNat))

/-- The analysis picture of a decoded picture, its crop source and its statistic (R223 to R226). -/
def Pic.prepare (p : Pic) (x : Stream) (pipe : Pipeline) (regroup : Option Regroup) : Pic :=
  match p.planes with
  | none => p
  | some pl =>
    let (cx, cy, cw, ch) := x.roi p
    let (ws, hs, ox, oy) := contentBox x.fit pipe.wa pipe.ha cw ch
    let content := fun (k : Nat) => videoContent pl p.depth p.chroma420 p.bt601 p.fullRange pipe.channels cx cy cw ch (k * ws) (k * hs)
    let c1 := content 1
    let smp := placeContent pipe.wa pipe.ha ws hs ox oy pipe.off pipe.gain (c1.map (fun l => l.map some))
    let src := fun (k : Nat) (l : List (List Int)) => some (k * ws, k * hs, interleaved (k * ws * (k * hs)) l)
    { p with
      planes := none, samples := smp, stat := sampleStat smp, regroup, prepared := true,
      crop := if x.cropSource = 1 then src 1 c1 else if x.cropSource = 2 then src 2 (content 2) else none }

/-- A prepared analysis picture q in place of its decoded one, its unit's work counted and charged, its statistic in the window of its folio's running input (R48, R53, R198, R226, R227). -/
def State.takePrepared (s : State) (stream : Nat) (x : Stream) (pipe : Pipeline) (q : Pic) (unit : Nat) : State :=
  let s := s.setPic stream q.decSeq (fun _ => q)
  let s := (s.takeGrant 9 x.part (pipe.workPrio x.prio)).prepPixels unit (pipe.wa * pipe.ha)
  let s := s.chargeFree x.part x.client 4
  let s := s.chargeWork x.part x.client 10 (match q.crop with
    | some c => c.2.2.length
    | none => 0)
  match s.netInput x.part pipe.detFolio with
  | some (t, _, _) => if s.inputMode x.part pipe.detFolio = 1 then s.pushWindow false stream pipe.detFolio t (instOrder q.decSeq 0) q.stat else s
  | none => s

/-- A picture that a prep unit holds is counted (R53, R501). -/
def State.countHold (s : State) (unit : Nat) : State :=
  { s with media := { s.media with ppHolds := tmod 0 s.media.ppHolds unit (fun k => satAdd 32 k 1) } }

/-- The regrouping that the network input of a pipeline's first folio asks of the analysis picture (R118, R119, R223). -/
def State.askedRegroup (s : State) (p : Nat) (pipe : Pipeline) : Option Regroup :=
  (s.netInput p pipe.detFolio).bind (fun o => regroupOf o.2.1 o.2.2 pipe.ha pipe.wa (chanCount pipe.channels))

/-- The detector picture of a page whose decoding has ended, with its statistic in the source's window (R224, R226, R262). -/
def State.preparePage (s : State) (n : Nat) (g : Page) (x : Pipeline) (unit : Nat) : State :=
  let c := chanCount x.channels
  let (ws, hs, ox, oy) := contentBox x.fit x.wa x.ha g.w g.h
  let px := ((s.bytesAt (s.bufAddr (g.pageBuf.getD 0)) (g.rows * g.w * c)).map (·.toNat)).toArray
  let smp := placeContent x.wa x.ha ws hs ox oy x.off x.gain (pageContent g.w g.h g.rows c ws hs px)
  let stat := sampleStat smp
  let regroup := s.askedRegroup g.part x
  let s := (s.takeGrant 9 g.part (x.workPrio g.prio)).prepPixels unit (x.wa * x.ha)
  let s := s.chargeFree g.part g.client 4
  let mode := s.inputMode g.part x.detFolio
  let s := match s.netInput g.part x.detFolio with
    | some (t, _, _) => if mode = 1 then s.pushWindow true g.source x.detFolio t (instOrder n 0) stat else s
    | none => s
  s.setPage n (fun g => { g with samples := smp, stat, regroup, prepared := true })

/-- Whether a decoded picture waits for a prep unit (R223, R227). -/
def State.picWaits (s : State) (p : Pic) (pipe : Pipeline) : Bool :=
  decide (p.stage = .decoded) && p.analysed && !p.prepared && !s.queueFull pipe

/-- Whether a page whose decoding has ended waits for its detector picture (R262). -/
def Page.picWaits (g : Page) : Bool := decide (g.stage = .decoded) && !g.prepared

/-- A prep unit has prepared an analysed picture of a stream; it quantises it, or holds it for an earlier picture's statistic. -/
def State.prepPicture (s : State) (stream decSeq unit : Nat) : State :=
  match s.streamAt stream with
  | none => s
  | some x =>
    match x.picAt decSeq, s.pipeAt x.part x.pipeline with
    | some p, some pipe =>
      if s.picWaits p pipe = false ∨ s.prepFree unit = false ∨
          s.mayTake 9 x.part (pipe.workPrio x.prio) = false then s
      else if s.awake 27 = false then s.wake 27
      else
        let q := p.prepare x pipe (s.askedRegroup x.part pipe)
        let s := s.takePrepared stream x pipe q unit
        if s.inputMode x.part pipe.detFolio = 1 ∧ x.prepHeld decSeq = true then s.countHold unit
        else s.quantise stream x pipe q
    | _, _ => s

/-- A prep unit has built a page's detector picture from its bands, which is quantised once no earlier page of its source holds it (R53, R262, R263). -/
def State.prepPage (s : State) (page unit : Nat) : State :=
  match s.pageAt page with
  | none => s
  | some g =>
    match s.pagePipe g with
    | none => s
    | some x =>
      if g.picWaits = false ∨ s.prepFree unit = false ∨ s.mayTake 9 g.part (x.workPrio g.prio) = false then s
      else if s.awake 27 = false then s.wake 27
      else (s.preparePage page g x unit).settle

/-- PREP_PICTURE_DONE: a prep unit finishes an analysis picture. -/
def execPrepPictureDone (job : PrepJob) (unit : Fin 8) (s : State) : Host.Outcome State Fault Refusal :=
  .next (match job with
    | .picture stream decSeq => s.prepPicture stream decSeq unit
    | .page page => s.prepPage page unit)

/-- PREP_QUANTISE: a prep unit quantises a picture it held, once every earlier picture of the stream has recorded its statistic (R53). -/
def execPrepQuantise (stream : Nat) (decSeq : Nat) (unit : Fin 8) (s : State) : Host.Outcome State Fault Refusal :=
  match s.streamAt stream with
  | none => .next s
  | some x =>
    match x.picAt decSeq, s.pipeAt x.part x.pipeline with
    | some p, some pipe =>
      if p.prepared = false ∨ p.quantised = true ∨ x.prepHeld decSeq = true ∨ s.prepFree unit = false then .next s
      else if s.awake 27 = false then .next (s.wake 27)
      else .next (s.quantise stream x pipe p)
    | _, _ => .next s

/-- BATCH_WAIT_EXPIRY: the batch's oldest entry has waited BATCH_WAIT; a batch that is already full is issued once, as full (R228). -/
def execBatchWaitExpiry (batch : Nat) (s : State) : Host.Outcome State Fault Refusal :=
  match s.batchAt batch with
  | none => .next s
  | some b =>
    if b.run ≠ 0 ∨ b.full = true then .next s
    else .next (((s.setBatch batch (fun b => { b with waited := true })).issueReady b.part b.pipeline).alarmUpdate b.part b.pipeline)

/-! ### CROP_JOB and CROP_JOB_DONE (R127 to R131, R234, R263, R268 to R270) -/

/-- Height and width of a folio's input of POSITIONS elements: those of a geometry entry of that area, else one row (assumption log 18). -/
def inputGrid (img : List Byte) (d : TDecl) : Nat × Nat :=
  match (List.range (fGeoms img)).find? (fun g => (geomD img g).h * (geomD img g).w == d.positions) with
  | some g => ((geomD img g).h, (geomD img g).w)
  | none => (1, d.positions)

/-- Height and width of the picture of c channels that a folio's input asks for: f times its own where it is regrouped (R118, R234; assumption logs 18 and 69). -/
def inputSize (img : List Byte) (d : TDecl) (c : Nat) : Nat × Nat :=
  let g := inputGrid img d
  let f := if d.channels = c then 1 else ((pickRegroup img c d.channels (fun _ => true)).map (·.f)).getD 1
  (g.1 * f, g.2 * f)

/-- A crop job made (R127). -/
def State.addCrop (s : State) (j : CropJob) : State :=
  { s with media := { s.media with nextCrop := s.media.nextCrop + 1, crops := s.media.crops ++ [(s.media.nextCrop, j)] } }

/-- The source of a crop job by channel: a picture's crop source, or a page's buffer with its lost rows 0 (R127, R226, R260, R268). -/
def State.cropSource (s : State) (j : CropJob) : List Grid :=
  let bytes := if j.lines then
      ((s.pageAt j.obj).map (fun g => s.bytesAt (s.bufAddr (g.pageBuf.getD 0)) (g.rows * j.stride))).getD []
    else (((s.picAt j.obj j.seq).bind (·.crop)).map (·.2.2)).getD []
  sourceGrids bytes j.srcW j.srcH j.chans j.stride j.wide

/-- Width of a job's slots (R127). -/
def State.cropMax (_ : State) (j : CropJob) : Nat := j.maxW

/-- The slot of an entry that is applied: R129 with the entry's EDGE, or R270 on an augmented page, by the entry's LINE_INDEX. -/
def State.cropEntry (s : State) (j : CropJob) (src : List Grid) (e : BitVec 128) (i : Nat) : List (List Int) :=
  let b := entryBox e
  let w := entryWidth e j.defaultW
  match (if j.lines then s.pageAt j.obj else none) with
  | some g =>
    if g.augMask = 0 then cropSlot src (bitOf (entryFlags e) 1) j.outH j.maxW w b.1 b.2.1 b.2.2.1 b.2.2.2
    else augSlot src j.outH j.maxW w b.1 b.2.1 b.2.2.1 b.2.2.2 g.augMask g.augSeed (j.ids.getD i i)
  | none => cropSlot src (bitOf (entryFlags e) 1) j.outH j.maxW w b.1 b.2.1 b.2.2.1 b.2.2.2

/-- A slot of zeros (R130). -/
def CropJob.blank (j : CropJob) : List (List Int) := List.replicate j.chans (List.replicate (j.outH * j.maxW) 0)

/-- A job's entries applied in list order: its slots and its status array (R129, R130). -/
def State.applyEntries (s : State) (j : CropJob) : CropJob :=
  let src := s.cropSource j
  { j with out := entrySlots j.entries j.entries.length j.maxW j.defaultW j.blank (s.cropEntry j src),
           status := entryStatuses j.entries j.entries.length j.maxW j.defaultW }

/-- Whether a page's buffer holds a poisoned line that its crops read (R375). -/
def State.cropPoison (s : State) (j : CropJob) : Bool :=
  j.lines && (s.pageAt j.obj).any (fun g =>
    (s.firstPoison (s.bufAddr (g.pageBuf.getD 0)) (g.rows * g.w * chanCount ((s.pagePipe g).map (·.channels) |>.getD 0))).isSome)

/-- CROP_JOB: a prep unit starts a job's entries under a grant of its class (R183), or shares a list that others have started: slots and status follow list order all the same (R127 to R131).
A page whose buffer is poisoned ends (R375). -/
def execCropJob (job : Nat) (unit : Fin 8) (s : State) : Host.Outcome State Fault Refusal :=
  match nget s.media.crops job with
  | none => .next s
  | some j =>
    if s.prepFree unit = false ∨ (j.units.isEmpty = true ∧ s.mayTake 9 j.part j.prio = false) then .next s
    else if s.awake 27 = false then .next (s.wake 27)
    else if s.cropPoison j then .next (s.endPage j.obj stDataPoisoned false).settle
    else
      let k := if j.units.isEmpty then s.applyEntries j else j
      let s := if j.units.isEmpty then s.takeGrant 9 j.part j.prio else s
      .next { s with media := { s.media with
        ppBusy := s.media.ppBusy ||| BitVec.ofNat 8 (2 ^ unit.val),
        crops := nmod s.media.crops job (fun j => { j with units := j.units ++ [unit.val], out := k.out, status := k.status }) } }

/-- The statistic of a crop slot (R48, R226). -/
def slotStat (l : List (List Int)) : Int × Int := sampleStat (l.map (fun c => c.map some))

/-- Lists cut into groups of n. -/
def groupsOf {α : Type} (n : Nat) : Nat → List α → List (List α)
  | 0, _ => []
  | k + 1, l => if l.isEmpty then [] else l.take n :: groupsOf n k (l.drop n)

/-- Whether a picture's crops wait for an earlier picture's crops to record their statistics (R53). -/
def State.reidHeld (s : State) (x : Stream) (j : CropJob) : Bool :=
  x.pics.any (fun q => decide (q.decSeq < j.seq) && q.analysed && !q.detDone) ||
  s.media.crops.any (fun o => !o.2.lines && o.2.obj == j.obj && decide (o.2.seq < j.seq))

/-- Crop slots quantised as the re-identification folio's input, with what each counts as clamped (R157, R234). -/
def State.reidInputs (s : State) (x : Stream) (folio : Nat) (j : CropJob) (maxW : Nat) : List (Instance × Nat × List (List Int)) :=
  match s.netInput x.part folio with
  | none => []
  | some (t, img, d) =>
    (j.ids.zip j.out).map (fun e =>
      let i := e.1
      let ex := if d.scaleMode = 2 then windowExp img d [slotStat e.2]
        else windowExp img d (s.windowBefore false j.obj folio t (instOrder j.seq (1 + i)) x.window)
      let a := (e.2.map List.toArray).toArray
      let c := inputCodes img d ex (regroupAt (regroupOf img d j.outH maxW e.2.length) j.outH maxW e.2.length (fun p ch => (a.getD ch #[]).getD p 0))
      ({ kind := 1, obj := j.obj, seq := j.seq, idx := i, client := x.client, clamps := c.2 }, ex, c.1))

/-- The runs of a picture's crops, as many instances each as the folio binds; none where an input finds no home (R234). -/
def State.startReid (s : State) (x : Stream) (folio : Nat) (j : CropJob) (maxW : Nat) : Option State :=
  match s.netInput x.part folio with
  | none => none
  | some (t, img, d) =>
    let s := if d.scaleMode = 1 then (j.ids.zip j.out).foldl (fun s e =>
        s.pushWindow false j.obj folio t (instOrder j.seq (1 + e.1)) (slotStat e.2)) s
      else s
    let ins := s.reidInputs x folio j maxW
    (groupsOf (max 1 (instCount img t)) ins.length ins).foldl (fun (o : Option State) l => o.bind (fun s => s.startRun x.part folio x.prio 1 l)) (some s)

/-- Output pixels that unit k of a job's n has made: the entries are dealt out to the units in turn, and what R130 gives no output takes none (R131; assumption log 72). -/
def CropJob.pixels (j : CropJob) (k n : Nat) : Nat :=
  ((j.status.zipIdx.filter (fun e => e.2 % n == k && e.1 != 1 && e.1 != 4)).length) * (j.outH * j.maxW)

/-- A job's units are free again, their pixels and cycles counted: 4 output pixels a cycle each (R131, R501). -/
def State.endCrop (s : State) (job : Nat) (j : CropJob) (client : Nat) : State :=
  let n := j.units.length
  let s := j.units.zipIdx.foldl (fun s u => (s.prepPixels u.1 (j.pixels u.2 n)).chargeWork j.part client 4 (ceilDiv (j.pixels u.2 n) 4)) s
  { s with media := { s.media with
    ppBusy := j.units.foldl (fun b u => b &&& ~~~(BitVec.ofNat 8 (2 ^ u))) s.media.ppBusy, crops := ndel s.media.crops job } }

/-- Whether an earlier page of the source has not recorded the statistics of its lines (R53). -/
def State.linesHeld (s : State) (n : Nat) (g : Page) : Bool :=
  s.media.pages.any (fun e => decide (e.1 < n) && e.2.source == g.source && decide (e.2.stage ≠ .reading ∧ e.2.stage ≠ .done))

/-- A line of a page quantised from its crop: its exponent and clamp count (R129, R272). -/
def State.lineInput (s : State) (n : Nat) (g : Page) (x : Pipeline) (w : Nat) (i : Nat) (l : Line) (slot : List (List Int)) : Line :=
  match s.netInput g.part x.secFolio with
  | none => l
  | some (t, img, d) =>
    let ex := if d.scaleMode = 2 then windowExp img d [slotStat slot]
      else windowExp img d (s.windowBefore true g.source x.secFolio t (instOrder n (1 + i)) w)
    let a := (slot.map List.toArray).toArray
    let c := inputCodes img d ex (regroupAt (regroupOf img d x.lineH x.lineMaxW slot.length) x.lineH x.lineMaxW slot.length (fun p ch => (a.getD ch #[]).getD p 0))
    { l with e := ex, clamps := c.2 }

/-- A LINE record's bytes 8 to 63 (R272). -/
def lineBody (g : Page) (i : Nat) (l : Line) : List Byte :=
  padTo 56 (natLE 4 g.tag ++ natLE 4 g.source ++ natLE 2 i ++ natLE 2 l.det ++ natLE 2 l.cls ++ natLE 2 (ofSigned 16 l.score) ++
    natLE 4 l.x0 ++ natLE 4 l.y0 ++ natLE 4 l.x1 ++ natLE 4 l.y1 ++ natLE 2 l.outW ++ natLE 1 l.e ++
    natLE 1 (b2n l.squeezed + 2 * b2n l.clipped) ++ natLE 4 l.clamps)

/-- A page's lines are cropped: their inputs quantised, their LINE records written in order, each line in a recogniser batch, and the page buffer free (R254, R263, R267, R272). -/
def State.finishLines (s : State) (n : Nat) (g : Page) (x : Pipeline) (j : CropJob) : State :=
  let w := ((s.sourceAt g.source).map (·.window)).getD 8
  let s := match s.netInput g.part x.secFolio with
    | some (t, _, d) => if d.scaleMode = 1 then j.out.zipIdx.foldl (fun (s : State) (e : List (List Int) × Nat) => s.pushWindow true g.source x.secFolio t (instOrder n (1 + e.2)) (slotStat e.1)) s else s
    | none => s
  let lines : List Line := (g.lines.zip j.out).zipIdx.map (fun e => s.lineInput n g x w e.2 e.1.1 e.1.2)
  let s := s.returnOpt g.pageBuf
  let s := s.setPage n (fun g => { g with stage := .reading, pageBuf := none, lines, crops := j.out, clamps := g.clamps + (lines.map (·.clamps)).sum })
  let s := lines.zipIdx.foldl (fun s e => s.commit g.part {
    type := 6, prio := g.prio, body := lineBody g e.2 e.1, prod := .tp (Fin.ofNat 4 (s.pageTracker n)), obj := sourceKey g.source }) s
  let s := s.tkCount (s.pageTracker n) lines.length
  let s := (List.range lines.length).foldl (fun s i => (s.joinBatch x 2 g.prio (n, i)).1) s
  s.issueReady g.part x.handle

/-- CROP_JOB_DONE: a picture's crops go to the re-identification folio; a page's lines join recogniser batches.
A job waits while an earlier picture or page of its source owes a statistic, or while no home is free for its inputs. -/
def execCropJobDone (job : Nat) (s : State) : Host.Outcome State Fault Refusal :=
  match nget s.media.crops job with
  | none => .next s
  | some j =>
    if j.units.isEmpty then .next s
    else
      let maxW := s.cropMax j
      if j.lines then
        match s.pageAt j.obj with
        | none => .next s
        | some g =>
          match s.pagePipe g with
          | none => .next s
          | some x =>
            let mode := s.inputMode g.part x.secFolio
            if mode = 1 ∧ s.linesHeld j.obj g = true then .next s
            else .next ((s.endCrop job j g.client).finishLines j.obj g x j).settle
      else
        match s.streamAt j.obj with
        | none => .next s
        | some x =>
          match s.pipeAt x.part x.pipeline with
          | none => .next s
          | some pipe =>
            let mode := s.inputMode x.part pipe.secFolio
            if mode = 1 ∧ s.reidHeld x j = true then .next s
            else match s.startReid x pipe.secFolio j maxW with
              | none => .next s
              | some s => .next ((s.endCrop job j x.client).setPic j.obj j.seq (fun p => { p with crop := if x.snapAuto then p.crop else none }))

end Sys2Proof.Machine
end

