-- ==== Sys2Proof/Machine/Tracking.lean ====
section
/-! DEFINITION. The track processors on pictures (R20, R231 to R237, R241, R243 to R246): DETECTION_FINISH and TRACK_UPDATE, and the box keeping that pages share (R232, R233, R266). -/

namespace Sys2Proof.Machine

/-! ### Candidate lists and kept boxes (R231, R232) -/

/-- The bytes of an instance's candidate list: its own tensor, or its share of a tensor bound once (R231; assumption log 15). -/
def State.candBytes (s : State) (o : Tensor × Nat) (n i : Nat) : List Byte :=
  let t := o.1
  let d := s.declOf t
  let pl := (s.tensorPlanes t).take d.storePlane
  if o.2 = 0 ∧ i ≠ 0 then pl
  else
    let per := max 1 (d.positions / n)
    sliceB pl (i * per * d.ps) (per * d.ps)

/-- A candidate: score, class, X0, Y0, X1, Y1 in 1/16 pixel. -/
structure Cand where
  score : Int
  cls : Nat
  box : List Int

/-- The candidates of a list as far as CLASS 0xFFFF. -/
def candidates (bs : List Byte) : List Cand :=
  let s16 := fun (k o : Nat) => toSigned 16 (leAt bs (16 * k + o) 2)
  (((List.range (bs.length / 16)).map (fun k =>
    ({ score := s16 k 0, cls := leAt bs (16 * k + 2) 2, box := [s16 k 4, s16 k 6, s16 k 8, s16 k 10] } : Cand)))).takeWhile (fun c => c.cls != 0xFFFF)

/-- The area of a box, none of it where an edge is reversed. -/
def boxArea (x0 y0 x1 y1 : Int) : Nat := (x1 - x0).toNat * (y1 - y0).toNat

/-- Areas of the intersection and the union of two boxes. -/
def boxPair (a b : Int × Int × Int × Int) : Nat × Nat :=
  let i := boxArea (max a.1 b.1) (max a.2.1 b.2.1) (min a.2.2.1 b.2.2.1) (min a.2.2.2 b.2.2.2)
  (i, boxArea a.1 a.2.1 a.2.2.1 a.2.2.2 + boxArea b.1 b.2.1 b.2.2.1 b.2.2.2 - i)

/-- The corners of a kept box. -/
def Det.corners (d : Det) : Int × Int × Int × Int := (d.x0, d.y0, d.x1, d.y1)

/-- The kept boxes of a candidate list, with whether MAX_DET stopped it: content is (16·ox, 16·oy, 16·(ox + Ws), 16·(oy + Hs)) (R232). -/
def keepBoxes (scoreMin : Int) (nmsIou maxDet : Nat) (agnostic : Bool) (c : Int × Int × Int × Int) : List Cand → List Det → List Det × Bool
  | [], kept => (kept, false)
  | e :: l, kept =>
    if e.score < scoreMin then (kept, false)
    else if maxDet ≤ kept.length then (kept, true)
    else
      let cx := fun i => clampI c.1 c.2.2.1 (e.box.getD i 0)
      let cy := fun i => clampI c.2.1 c.2.2.2 (e.box.getD i 0)
      let d : Det := { score := e.score, cls := e.cls, x0 := cx 0, y0 := cy 1, x1 := cx 2, y1 := cy 3, idx := kept.length, emb := [], reid := false }
      let suppressed := kept.any (fun k => (agnostic || k.cls == d.cls) &&
        (let p := boxPair k.corners d.corners
         decide (nmsIou * p.2 < 1024 * p.1)))
      if d.x1 < d.x0 ∨ d.y1 < d.y0 ∨ suppressed = true then keepBoxes scoreMin nmsIou maxDet agnostic c l kept
      else keepBoxes scoreMin nmsIou maxDet agnostic c l (kept ++ [d])

/-- A coordinate in 1/16 analysis pixel as 1/4 source pixel (R233). -/
def toSource (a : Int) (c0 cn o s : Nat) : Nat :=
  (clampI (4 * (c0 : Int)) (4 * (c0 + cn : Nat)) (4 * (c0 : Int) + tdiv ((a - 16 * (o : Int)) * (cn : Int)) (4 * (s : Int)))).toNat

/-! ### DETECTION_FINISH (R231, R232, R234) -/

/-- The content box of a stream's analysis picture for a picture: Ws, Hs, ox, oy, and the ROI (R209, R224). -/
def Stream.contentOf (x : Stream) (pipe : Pipeline) (p : Pic) : (Nat × Nat × Nat × Nat) × Nat × Nat × Nat × Nat :=
  let r := x.roi p
  (contentBox x.fit pipe.wa pipe.ha r.2.2.1 r.2.2.2, r)

/-- Content bounds in 1/16 pixel. -/
def bounds16 (b : Nat × Nat × Nat × Nat) : Int × Int × Int × Int :=
  (16 * (b.2.2.1 : Int), 16 * (b.2.2.2 : Int), 16 * (b.2.2.1 + b.1 : Nat), 16 * (b.2.2.2 + b.2.1 : Nat))

/-- What a batch's run gave entry i: its status, its candidate bytes, its clamps (R74, R158). -/
def State.batchResult (s : State) (b : Batch) (folio i : Nat) : Nat × List Byte × Nat :=
  let r := b.run - 1
  match s.runAt r with
  | none => (stAborted, [], 0)
  | some x =>
    let img := s.imageOf x.part folio
    let cl := ((x.instances[i]?).map (·.clamps)).getD 0
    if s.instStatus r i ≠ 0 then (s.instStatus r i, [], cl)
    else match s.outEntry r ((firstKind img 4).getD 0) i with
      | none => (stDataPoisoned, [], cl)
      | some o =>
        if s.tensorBad o.2.1 then (stDataPoisoned, [], cl)
        else
          let size := max 1 (((s.pipeAt b.part b.pipeline).map (fun y => y.batchSize b.kind)).getD 1)
          (stOk, s.candBytes o.2 (max size (instCount img ((firstKind img 3).getD 0))) i, cl)

/-- The boxes sent for re-identification: up to REID_MAX of the enabled classes, in DET_INDEX order (R234). -/
def Stream.reidBoxes (x : Stream) (pipe : Pipeline) (p : Pic) (dets : List Det) : List Det :=
  if pipe.secFolio = 0xFF ∨ x.cropSource = 0 ∨ p.crop.isNone = true then []
  else (dets.filter (fun d => decide (d.cls < 64) && bitOf x.reidClasses d.cls)).take x.reidMax

/-- The crop job of a picture's re-identification boxes, mapped to the crop source in 1/256 pixel (R128, R234). -/
def State.reidJob (s : State) (sid : Nat) (x : Stream) (pipe : Pipeline) (p : Pic) (l : List Det) : State :=
  match s.netInput x.part pipe.secFolio with
  | none => s
  | some (_, img, d) =>
    let n := chanCount pipe.channels
    let sz := inputSize img d n
    let c := (x.contentOf pipe p).1
    let k : Int := if x.cropSource = 2 then 2 else 1
    let at_ := fun (a : Int) (o : Nat) => (16 * k * (a - 16 * (o : Int))).toNat
    let src := p.crop.getD (0, 0, [])
    s.addCrop { part := x.part, prio := pipe.workPrio x.prio, obj := sid, seq := p.decSeq, lines := false,
                srcW := src.1, srcH := src.2.1, chans := n, wide := false, stride := src.1 * n, outH := sz.1, maxW := sz.2, defaultW := sz.2,
                entries := l.zipIdx.map (fun (b : Det × Nat) => boxEntry (at_ b.1.x0 c.2.2.1) (at_ b.1.y0 c.2.2.2) (at_ b.1.x1 c.2.2.1) (at_ b.1.y1 c.2.2.2)
                  b.2 sz.2 0),
                ids := l.map (·.idx), units := [], out := [], status := [] }

/-- The place of an entry in a batch. -/
def Batch.place (b : Batch) (e : Nat × Nat) : Option Nat := (b.entries.zipIdx.find? (fun x => x.1 == e)).map (·.2)

/-- The kept boxes of entry i of a finished batch given to its picture, and the boxes for re-identification in a crop job (R231 to R234). -/
def State.takeDetections (s : State) (stream : Nat) (x : Stream) (pipe : Pipeline) (p : Pic) (b : Batch) (i : Nat) : State :=
  let (st, bytes, cl) := s.batchResult b pipe.detFolio i
  let c := x.contentOf pipe p
  let dets := (keepBoxes pipe.scoreMin pipe.nmsIou pipe.maxDet pipe.agnostic (bounds16 c.1) (candidates bytes) []).1
  let l := x.reidBoxes pipe p dets
  let l := if (s.netInput x.part pipe.secFolio).isNone then [] else l
  let s := (s.takeGrant 16 x.part x.prio).chargeFree x.part x.client 6
  let s := s.setPic stream p.decSeq (fun p => { p with
    detDone := true, dets, status := st, clamps := p.clamps + cl, reidLeft := l.length, samples := [],
    crop := if l.isEmpty && !x.snapAuto then none else p.crop })
  if l.isEmpty then s else s.reidJob stream x pipe p l

/-- The finished detection batch of a picture, and the picture's entry there (R231). -/
def State.detBatch (s : State) (stream : Nat) (p : Pic) : Option (Batch × Nat) :=
  if p.batch = 0 ∨ p.detDone = true then none
  else (s.batchAt (p.batch - 1)).bind (fun b =>
    if b.run = 0 ∨ s.runFinished (b.run - 1) = false then none else (b.place (stream, p.decSeq)).map (fun i => (b, i)))

/-- DETECTION_FINISH: the kept boxes of a picture whose batch's run has finished; boxes go to re-identification. -/
def execDetectionFinish (stream : Nat) (decSeq : Nat) (s : State) : Host.Outcome State Fault Refusal :=
  match s.streamAt stream with
  | none => .next s
  | some x =>
    match x.picAt decSeq, s.pipeAt x.part x.pipeline with
    | some p, some pipe =>
      match s.detBatch stream p with
      | none => .next s
      | some (b, i) =>
        if s.trackers.contains x.tp = false ∨ s.mayTake 16 x.part x.prio = false then .next s
        else if s.awake 28 = false then .next (s.wake 28)
        else .next ((s.takeDetections stream x pipe p b i).sweepBatches.alarmUpdate x.part x.pipeline)
    | _, _ => .next s

/-! ### Tracks (R235 to R237) -/

/-- A 32-bit signed value (R235). -/
def wrap32 (x : Int) : Int := toSigned 32 (ofSigned 32 x)

/-- predict of R235: an int32. -/
def predict (u v : Int) (delta : Nat) : Int := wrap32 (u + tdiv (v * delta) 256)

/-- update of R235 for one component. -/
def updateOne (u v z : Int) (delta alpha beta : Nat) : Int × Int :=
  let p := predict u v delta
  let r := z - p
  (wrap32 (p + tdiv (r * alpha) 1024), wrap32 (v + tdiv (r * beta * 256) (1024 * (delta : Int))))

/-- The components of a box (R235). -/
def boxState (d : Det) : List Int := [d.x0 + d.x1, d.y0 + d.y1, d.x1 - d.x0, d.y1 - d.y0]

/-- The doubled corners of a track predicted to this picture. -/
def Track.corners (t : Track) : Int × Int × Int × Int :=
  let u := fun i => predict (t.u.getD i 0) (t.v.getD i 0) (t.delta + 1)
  (u 0 - u 2, u 1 - u 3, u 0 + u 2, u 1 + u 3)

/-- iou of R236: 0 when the union is 0. -/
def Track.iou (t : Track) (d : Det) : Nat :=
  let p := boxPair t.corners (2 * d.x0, 2 * d.y0, 2 * d.x1, 2 * d.y1)
  if p.2 = 0 then 0 else 1024 * p.1 / p.2

/-- dist of R236, in 64 bits, when both embeddings exist. -/
def Track.dist (t : Track) (d : Det) : Option Nat :=
  if d.reid && !t.emb.isEmpty then some (((t.emb.zip d.emb).map (fun e => ((e.1 - e.2) ^ 2).toNat)).sum % 2 ^ 64) else none

/-- A pair of a track and a box that passes the gate: cost, tentative or not, number of the track, DET_INDEX, iou, dist (R236 steps 2 to 4). -/
structure Pair where
  cost : Nat
  tent : Bool
  num : Nat
  det : Nat
  iou : Nat
  dist : Option Nat
  deriving DecidableEq

/-- The passing pairs of a picture. -/
def passingPairs (x : Stream) (dets : List Det) : List Pair :=
  x.tracks.flatMap (fun t => dets.filterMap (fun d =>
    let iou := t.iou d
    let dist := t.dist d
    if t.cls = d.cls ∧ (x.iouGate ≤ iou ∨ (t.confirmed = true ∧ (dist.any (fun v => decide (v ≤ x.reidGate))) = true)) then
      some { cost := x.wIou * (1024 - iou) + x.wReid * dist.getD 0, tent := !t.confirmed, num := t.id, det := d.idx, iou, dist }
    else none))

/-- The order in which pairs are taken (R236 step 5). -/
def Pair.before (a b : Pair) : Bool :=
  decide (a.cost < b.cost) || (decide (a.cost = b.cost) &&
    ((!a.tent && b.tent) || (a.tent == b.tent && (decide (a.num < b.num) || (decide (a.num = b.num ∧ a.det < b.det))))))

/-- A pair put into its place. -/
def pairPlace (a : Pair) : List Pair → List Pair
  | [] => [a]
  | b :: l => if a.before b then a :: b :: l else b :: pairPlace a l

/-- The pairs taken greedily (R236 step 5). -/
def takePairs (l : List Pair) : List Pair :=
  (l.foldl (fun acc a => pairPlace a acc) []).foldl (fun (got : List Pair) a =>
    if got.any (fun g => (g.tent == a.tent && g.num == a.num) || g.det == a.det) then got else got ++ [a]) []

/-- A box in 1/4 source pixel (R233). -/
def sourceBox (x : Stream) (pipe : Pipeline) (p : Pic) (d : Det) : List Nat :=
  let (c, cx, cy, cw, ch) := x.contentOf pipe p
  [toSource d.x0 cx cw c.2.2.1 c.1, toSource d.y0 cy ch c.2.2.2 c.2.1, toSource d.x1 cx cw c.2.2.1 c.1, toSource d.y1 cy ch c.2.2.2 c.2.1]

/-- What tracking a picture gives: tracks, counts, events in order, the pairs taken, boxes that began tracks, whether TRACK_FULL is set. -/
structure TrackOut where
  tracks : List Track
  nextTrack : Nat
  nextTent : Nat
  /-- event, reason, the track then. -/
  events : List (Nat × Nat × Track)
  /-- TRACK_ID by DET_INDEX. -/
  ids : List (Nat × Nat)
  full : Bool

/-- A tentative track that has been taken N_CONFIRM times becomes confirmed with the stream's next TRACK_ID and writes START; after 2 × N_CONFIRM pictures without it is dropped (R237). -/
def confirmStep (x : Stream) (o : TrackOut) (t : Track) (det : Option Nat) : TrackOut :=
  if t.confirmed then { o with tracks := o.tracks ++ [t] }
  else if x.nConfirm ≤ t.hits then
    let t := { t with confirmed := true, id := o.nextTrack, age := 0 }
    { o with tracks := o.tracks ++ [t], nextTrack := (o.nextTrack + 1) % 2 ^ 32, events := o.events ++ [(1, 0, t)],
             ids := o.ids ++ (det.map (fun d => (d, t.id))).toList }
  else if 2 * x.nConfirm ≤ t.seen then o
  else { o with tracks := o.tracks ++ [t] }

/-- One track at a picture: updated by the box it took, or untaken (R235, R237). -/
def stepTrack (x : Stream) (pipe : Pipeline) (p : Pic) (dets : List Det) (got : List Pair) (o : TrackOut) (t : Track) : TrackOut :=
  match (got.find? (fun g => g.tent == !t.confirmed && g.num == t.id)).bind (fun g => dets.find? (fun d => d.idx == g.det)) with
  | some d =>
    let uv := ((boxState d).zip (t.u.zip t.v)).map (fun e => updateOne e.2.1 e.2.2 e.1 (t.delta + 1) x.alpha x.beta)
    let back := t.lost
    let t := { t with
      u := uv.map (·.1), v := uv.map (·.2), emb := if d.reid then d.emb else t.emb, hits := t.hits + 1, missed := 0,
      seen := t.seen + 1, age := t.age + 1, delta := 0, lost := false, box := sourceBox x pipe p d }
    let o := if back then { o with events := o.events ++ [(3, 0, t)] } else o
    confirmStep x (if t.confirmed then { o with ids := o.ids ++ [(d.idx, t.id)] } else o) t (some d.idx)
  | none =>
    let t := { t with missed := t.missed + 1, seen := t.seen + 1, age := t.age + 1, delta := t.delta + 1 }
    if t.confirmed then
      let gone := decide (x.maxAge ≤ t.missed)
      let lost := decide (t.missed = x.lostAfter)
      let t := { t with lost := t.lost || lost }
      { o with tracks := if gone then o.tracks else o.tracks ++ [t],
               events := o.events ++ (if lost then [(2, 0, t)] else []) ++ (if gone then [(4, 0, t)] else []) }
    else confirmStep x o t none

/-- An untaken box of enough score begins a tentative track while fewer than TRACK_MAX exist (R237). -/
def beginTrack (x : Stream) (pipe : Pipeline) (p : Pic) (got : List Pair) (o : TrackOut) (d : Det) : TrackOut :=
  if got.any (fun g => g.det == d.idx) || decide (d.score < x.newScore) then o
  else if x.trackMax ≤ o.tracks.length then { o with full := true }
  else
    let t : Track := { confirmed := false, id := o.nextTent, cls := d.cls, u := boxState d, v := [0, 0, 0, 0],
                       emb := if d.reid then d.emb else [], hits := 1, missed := 0, seen := 1, age := 0, delta := 0, lost := false,
                       box := sourceBox x pipe p d }
    confirmStep x { o with nextTent := (o.nextTent + 1) % 2 ^ 32 } t (some d.idx)

/-- Whether a picture is predicted only: more than half of it concealed (R219). -/
def Pic.predictOnly (p : Pic) : Bool := decide (p.totalUnits < 2 * p.units)

/-- Tracking at an analysed picture (R236, R237); predicted only, no box is taken and none begins a track. -/
def trackPicture (x : Stream) (pipe : Pipeline) (p : Pic) : TrackOut × List Pair :=
  let dets := if p.predictOnly then [] else p.dets
  let got := takePairs (passingPairs x dets)
  let o := x.tracks.foldl (stepTrack x pipe p dets got)
    { tracks := [], nextTrack := x.nextTrack, nextTent := x.nextTent, events := [], ids := [], full := false }
  (dets.foldl (beginTrack x pipe p got) o, got)

/-! ### Records (R243 to R246) -/

/-- A DETECTION record's bytes from 8 on (R245). -/
def detBody (sid order : Nat) (x : Stream) (d : Det) (box : List Nat) (id iou : Nat) (dist : Option Nat) : List Byte :=
  let emb := x.exportEmbed && d.reid
  let n := if emb then d.emb.length else 0
  padTo 56 (natLE 4 sid ++ natLE 4 order ++ natLE 4 id ++ natLE 2 d.idx ++ natLE 2 d.cls ++ natLE 2 (ofSigned 16 d.score) ++ natLE 2 n ++
    box.flatMap (natLE 2) ++ natLE 4 iou ++ natLE 8 (dist.getD (2 ^ 64 - 1))) ++
  (if emb then padTo (64 * ceilDiv (4 * n) 64) (d.emb.flatMap (fun v => natLE 4 (ofSigned 32 v))) else [])

/-- STATUS of a picture's FRAME record (R158, R219, R244). -/
def Pic.frameStatus (p : Pic) : Nat := if p.status ≠ 0 then p.status else if p.causes ≠ 0 then stPictureConcealed else stOk

/-- A FRAME record's bytes 8 to 63 (R244). -/
def frameBody (sid : Nat) (p : Pic) (nDet nEv : Nat) (full : Bool) : List Byte :=
  padTo 56 (natLE 4 sid ++ natLE 4 p.order ++ natLE 8 p.pts ++ natLE 4 (ofSigned 32 p.poc) ++
    natLE 2 p.frameStatus ++ natLE 1 p.causes ++
    natLE 1 (packBits [p.analysed, decide (p.stage = .skipped), p.recovering, p.refConcealed, p.analysed && p.predictOnly, full, p.isKey]) ++
    natLE 2 (min 0xFFFF p.units) ++ natLE 2 nDet ++ natLE 2 nEv ++ natLE 1 (if p.analysed then p.e else 0) ++ [0] ++
    natLE 4 (min (2 ^ 32 - 1) p.clamps) ++ natLE 4 p.cycles ++ natLE 2 p.w ++ natLE 2 p.h ++ natLE 4 p.decSeq)

/-- A track's box enlarged by a quarter of its width and height on each side, clipped to the ROI, in 1/4 source pixel: the edges are rounded down (R241; assumption log 70). -/
def autoBox (x : Stream) (p : Pic) (box : List Nat) : List Nat :=
  let (cx, cy, cw, ch) := x.roi p
  let grow := fun (a b lo n : Nat) => (max (4 * lo) (a - (b - a) / 4), min (4 * (lo + n)) (b + (b - a) / 4))
  let h := grow (box.getD 0 0) (box.getD 2 0) cx cw
  let v := grow (box.getD 1 0) (box.getD 3 0) cy ch
  [h.1, v.1, h.2, v.2]

/-- Width and height of an automatic snapshot: its box in pixels of the crop source, rounded up (R241; assumption log 70). -/
def autoSize (x : Stream) (p : Pic) (box : List Nat) : Nat × Nat :=
  let (_, _, cw, ch) := x.roi p
  let src := p.crop.getD (0, 0, [])
  (ceilDiv ((box.getD 2 0 - box.getD 0 0) * src.1) (4 * max 1 cw), ceilDiv ((box.getD 3 0 - box.getD 1 0) * src.2.1) (4 * max 1 ch))

/-- An automatic snapshot of a track at its START, from the crop source of the START picture (R241). -/
def autoSnap (x : Stream) (p : Pic) (t : Track) : Snap :=
  let box := autoBox x p t.box
  { tag := 0, target := some p.decSeq, quality := 85, whole := false, box, kind := 4, track := t.id, prio := x.prio, taken := true,
    order := p.order, ready := none, size := autoSize x p box }

/-- The records of a picture, in order: DETECTIONs, TRACK_EVENTs, FRAME (R243). -/
def pictureRecords (sid : Nat) (x : Stream) (pipe : Pipeline) (p : Pic) (o : TrackOut) (got : List Pair) : List Rec :=
  p.dets.map (fun d =>
    let g := got.find? (fun g => g.det == d.idx)
    tpRec x sid 2 (detBody sid p.order x d (sourceBox x pipe p d) (((o.ids.find? (fun e => e.1 == d.idx)).map (·.2)).getD 0)
      ((g.map (·.iou)).getD 0) (g.bind (·.dist)))) ++
  o.events.map (fun e => tpRec x sid 3 (trackBody sid p.order e.1 e.2.1 e.2.2)) ++
  [tpRec x sid 1 (frameBody sid p p.dets.length o.events.length o.full)]

/-- Whether a picture's FRAME record can be written: decoded or left undecoded, and its detections and embeddings finished when it is analysed. -/
def Pic.complete (p : Pic) : Bool :=
  decide (p.stage = .skipped) || (decide (p.stage = .decoded) && (!p.analysed || (p.detDone && decide (p.reidLeft = 0))))

/-- The single-picture snapshots whose JPEG waited for the FRAME record of a picture are returned (R243). -/
def State.releaseSnaps (s : State) (sid dec : Nat) : State := s.reportSnaps sid (fun q => q.ready.isSome && q.target == some dec)

/-- A picture that is output leaves, unless an automatic snapshot still needs its crop source (R226, R241). -/
def State.dropOutput (s : State) (sid dec : Nat) : State :=
  s.setStream sid (fun x => { x with pics := x.pics.filter (fun p =>
    !(p.decSeq == dec && p.output && !(x.snaps.any (fun q => q.kind == 4 && q.target == some dec)))) })

/-- What tracking gives at a picture, analysed or not (R219, R236, R237). -/
def tracksAt (x : Stream) (pipe : Pipeline) (p : Pic) : TrackOut × List Pair :=
  if p.analysed then trackPicture x pipe p
  else ({ tracks := x.tracks, nextTrack := x.nextTrack, nextTent := x.nextTent, events := [], ids := [], full := false }, [])

/-- A stream's next picture taken by its track processor: its records committed, its tracks kept, its analysis and its concealment counted, the picture output (R198, R236, R241, R243, R250, R501). -/
def State.takeTracks (s : State) (stream : Nat) (x : Stream) (pipe : Pipeline) (p : Pic) : State :=
  let t := tracksAt x pipe p
  let recs := pictureRecords stream x pipe p t.1 t.2
  let autos := if x.snapAuto ∧ p.crop.isSome = true then (t.1.events.filter (fun e => e.1 == 1)).map (fun e => autoSnap x p e.2.2) else []
  let s := (s.takeGrant 16 x.part x.prio).chargeFree x.part x.client 6
  let s := recs.foldl (fun s r => s.commit x.part r) s
  let s := (s.tkCount x.tp recs.length).setStream stream (fun x => { x with
    tracks := t.1.tracks, nextTrack := t.1.nextTrack, nextTent := t.1.nextTent, lastPic := p.order, nextPic := (x.nextPic + 1) % 2 ^ 32,
    flushed := x.flushed + 1, snaps := x.snaps ++ autos })
  let s := { s with media := { s.media with tkFull := if t.1.full then tmod 0 s.media.tkFull x.tp (fun n => satAdd 32 n 1) else s.media.tkFull } }
  let s := if p.frameStatus = stPictureConcealed then s.setCluster x.cluster (fun c => { c with conceal := satAdd 32 c.conceal 1 }) else s
  let s := if p.analysed ∧ p.status = 0 then s.chargeWork x.part x.client 15 1 else s
  s.setPic stream p.decSeq (fun p => { p with output := true })

/-- The picture whose turn it is in a stream's output order (R236). -/
def Stream.turn (x : Stream) : Option Pic := x.pics.find? (fun p => p.order == x.nextPic && !p.hidden x && !p.output)

/-- TRACK_UPDATE: the track processor takes a stream's next picture in output order and writes its records. -/
def execTrackUpdate (stream : Nat) (s : State) : Host.Outcome State Fault Refusal :=
  match s.streamAt stream with
  | none => .next s
  | some x =>
    match x.turn, s.pipeAt x.part x.pipeline with
    | some p, some pipe =>
      if p.complete = false ∨ s.trackers.contains x.tp = false ∨ s.mayTake 16 x.part x.prio = false then .next s
      else if s.awake 28 = false then .next (s.wake 28)
      else .next (((s.takeTracks stream x pipe p).releaseSnaps stream p.decSeq).dropOutput stream p.decSeq).settle
    | _, _ => .next s

end Sys2Proof.Machine
end

