-- ==== Sys2Proof/Machine/Encode.lean ====
section
/-! DEFINITION. The encoders (R238 to R243, R247): ENCODE_PICTURE_DONE and SNAPSHOT_DONE. The access units and the entropy-coded data an encoder writes come as operands (assumption log 6). -/

namespace Sys2Proof.Machine

/-- Whether a picture of a stream is still with its engine or before it. -/
def State.stillDecoding (s : State) (sid dec : Nat) : Bool := (s.picAt sid dec).any Pic.undecoded

/-- A picture or JPEG encoded: counted and its cycles charged (R198, R501). -/
def State.countEncoded (s : State) (x : Stream) (cycles : Nat) : State :=
  ({ s with media := { s.media with enPictures := wrapAdd s.media.enPictures 1 } }).chargeWork x.part x.client 3 cycles

/-! ### The JPEG file of a snapshot (R238; ITU-T T.81, which R238 names) -/

/-- The luminance quantisation entries of Annex K, row by row. -/
def annexLuma : List Nat := [
  16, 11, 10, 16, 24, 40, 51, 61, 12, 12, 14, 19, 26, 58, 60, 55, 14, 13, 16, 24, 40, 57, 69, 56, 14, 17, 22, 29, 51, 87, 80, 62,
  18, 22, 37, 56, 68, 109, 103, 77, 24, 35, 55, 64, 81, 104, 113, 92, 49, 64, 78, 87, 103, 121, 120, 101, 72, 92, 95, 98, 112, 100, 103, 99]

/-- The chrominance quantisation entries of Annex K, row by row. -/
def annexChroma : List Nat := [
  17, 18, 24, 47, 99, 99, 99, 99, 18, 21, 26, 66, 99, 99, 99, 99, 24, 26, 56, 99, 99, 99, 99, 99, 47, 66, 99, 99, 99, 99, 99, 99] ++
  List.replicate 32 99

/-- The zigzag order of a block: the row-major place of each of the 64 entries. -/
def zigzag : List Nat := [
  0, 1, 8, 16, 9, 2, 3, 10, 17, 24, 32, 25, 18, 11, 4, 5, 12, 19, 26, 33, 40, 48, 41, 34, 27, 20, 13, 6, 7, 14, 21, 28,
  35, 42, 49, 56, 57, 50, 43, 36, 29, 22, 15, 23, 30, 37, 44, 51, 58, 59, 52, 45, 38, 31, 39, 46, 53, 60, 61, 54, 47, 55, 62, 63]

/-- A table entry k at QUALITY q (R238). -/
def quantEntry (k q : Nat) : Nat := max 1 (min 255 ((k * (if q < 50 then 5000 / q else 200 - 2 * q) + 50) / 100))

/-- A quantisation table of QUALITY q in zigzag order. -/
def quantTable (t : List Nat) (q : Nat) : List Nat := zigzag.map (fun i => quantEntry (t.getD i 0) q)

/-- The Huffman tables of Annex K: the codes of each length 1 to 16, and their values. -/
def huffDcLuma : List Nat × List Nat := ([0, 1, 5, 1, 1, 1, 1, 1, 1, 0, 0, 0, 0, 0, 0, 0], List.range 12)
/-- DC chrominance. -/
def huffDcChroma : List Nat × List Nat := ([0, 3, 1, 1, 1, 1, 1, 1, 1, 1, 1, 0, 0, 0, 0, 0], List.range 12)
/-- AC luminance. -/
def huffAcLuma : List Nat × List Nat := ([0, 2, 1, 3, 3, 2, 4, 3, 5, 5, 4, 4, 0, 0, 1, 0x7D], [
  0x01, 0x02, 0x03, 0x00, 0x04, 0x11, 0x05, 0x12, 0x21, 0x31, 0x41, 0x06, 0x13, 0x51, 0x61, 0x07, 0x22, 0x71, 0x14, 0x32, 0x81, 0x91, 0xA1, 0x08,
  0x23, 0x42, 0xB1, 0xC1, 0x15, 0x52, 0xD1, 0xF0, 0x24, 0x33, 0x62, 0x72, 0x82, 0x09, 0x0A, 0x16, 0x17, 0x18, 0x19, 0x1A, 0x25, 0x26, 0x27, 0x28,
  0x29, 0x2A, 0x34, 0x35, 0x36, 0x37, 0x38, 0x39, 0x3A, 0x43, 0x44, 0x45, 0x46, 0x47, 0x48, 0x49, 0x4A, 0x53, 0x54, 0x55, 0x56, 0x57, 0x58, 0x59,
  0x5A, 0x63, 0x64, 0x65, 0x66, 0x67, 0x68, 0x69, 0x6A, 0x73, 0x74, 0x75, 0x76, 0x77, 0x78, 0x79, 0x7A, 0x83, 0x84, 0x85, 0x86, 0x87, 0x88, 0x89] ++ [
  0x8A, 0x92, 0x93, 0x94, 0x95, 0x96, 0x97, 0x98, 0x99, 0x9A, 0xA2, 0xA3, 0xA4, 0xA5, 0xA6, 0xA7, 0xA8, 0xA9, 0xAA, 0xB2, 0xB3, 0xB4, 0xB5, 0xB6,
  0xB7, 0xB8, 0xB9, 0xBA, 0xC2, 0xC3, 0xC4, 0xC5, 0xC6, 0xC7, 0xC8, 0xC9, 0xCA, 0xD2, 0xD3, 0xD4, 0xD5, 0xD6, 0xD7, 0xD8, 0xD9, 0xDA, 0xE1, 0xE2,
  0xE3, 0xE4, 0xE5, 0xE6, 0xE7, 0xE8, 0xE9, 0xEA, 0xF1, 0xF2, 0xF3, 0xF4, 0xF5, 0xF6, 0xF7, 0xF8, 0xF9, 0xFA])
/-- AC chrominance. -/
def huffAcChroma : List Nat × List Nat := ([0, 2, 1, 2, 4, 4, 3, 4, 7, 5, 4, 4, 0, 1, 2, 0x77], [
  0x00, 0x01, 0x02, 0x03, 0x11, 0x04, 0x05, 0x21, 0x31, 0x06, 0x12, 0x41, 0x51, 0x07, 0x61, 0x71, 0x13, 0x22, 0x32, 0x81, 0x08, 0x14, 0x42, 0x91,
  0xA1, 0xB1, 0xC1, 0x09, 0x23, 0x33, 0x52, 0xF0, 0x15, 0x62, 0x72, 0xD1, 0x0A, 0x16, 0x24, 0x34, 0xE1, 0x25, 0xF1, 0x17, 0x18, 0x19, 0x1A, 0x26,
  0x27, 0x28, 0x29, 0x2A, 0x35, 0x36, 0x37, 0x38, 0x39, 0x3A, 0x43, 0x44, 0x45, 0x46, 0x47, 0x48, 0x49, 0x4A, 0x53, 0x54, 0x55, 0x56, 0x57, 0x58,
  0x59, 0x5A, 0x63, 0x64, 0x65, 0x66, 0x67, 0x68, 0x69, 0x6A, 0x73, 0x74, 0x75, 0x76, 0x77, 0x78, 0x79, 0x7A, 0x82, 0x83, 0x84, 0x85, 0x86, 0x87] ++ [
  0x88, 0x89, 0x8A, 0x92, 0x93, 0x94, 0x95, 0x96, 0x97, 0x98, 0x99, 0x9A, 0xA2, 0xA3, 0xA4, 0xA5, 0xA6, 0xA7, 0xA8, 0xA9, 0xAA, 0xB2, 0xB3, 0xB4,
  0xB5, 0xB6, 0xB7, 0xB8, 0xB9, 0xBA, 0xC2, 0xC3, 0xC4, 0xC5, 0xC6, 0xC7, 0xC8, 0xC9, 0xCA, 0xD2, 0xD3, 0xD4, 0xD5, 0xD6, 0xD7, 0xD8, 0xD9, 0xDA,
  0xE2, 0xE3, 0xE4, 0xE5, 0xE6, 0xE7, 0xE8, 0xE9, 0xEA, 0xF2, 0xF3, 0xF4, 0xF5, 0xF6, 0xF7, 0xF8, 0xF9, 0xFA])

/-- A marker segment: its code, its length in big-endian order, its bytes. -/
def jpegSegment (code : Nat) (body : List Nat) : List Nat := [0xFF, code, (body.length + 2) / 256, (body.length + 2) % 256] ++ body

/-- The JPEG file of w × h samples at QUALITY q, 4:2:0, 8 bits, with the Annex K tables, around its entropy-coded data (R238).
The order of its segments is the model's (assumption log 70). -/
def jpegFile (w h q : Nat) (scan : List Byte) : List Byte :=
  let huff := fun (k : Nat) (t : List Nat × List Nat) => k :: (t.1 ++ t.2)
  ([0xFF, 0xD8] ++ jpegSegment 0xDB (0 :: quantTable annexLuma q) ++ jpegSegment 0xDB (1 :: quantTable annexChroma q) ++
    jpegSegment 0xC0 [8, h / 256, h % 256, w / 256, w % 256, 3, 1, 0x22, 0, 2, 0x11, 1, 3, 0x11, 1] ++
    jpegSegment 0xC4 (huff 0x00 huffDcLuma) ++ jpegSegment 0xC4 (huff 0x10 huffAcLuma) ++
    jpegSegment 0xC4 (huff 0x01 huffDcChroma) ++ jpegSegment 0xC4 (huff 0x11 huffAcChroma) ++
    jpegSegment 0xDA [3, 1, 0x00, 2, 0x11, 3, 0x11, 0, 63, 0]).map (BitVec.ofNat 8) ++ scan ++ [0xFF, 0xD9]

/-- The JPEG file of a request (R238, R239, R241). -/
def Snap.file (q : Snap) (scan : List Byte) : List Byte := jpegFile q.size.1 q.size.2 q.quality scan

/-! ### SNAPSHOT_DONE (R238, R239, R241 to R243) -/

/-- The request the snapshot encoder serves: the first of its picture that has no JPEG yet, else the first automatic one of any stream: the stream and the request. -/
def State.nextSnap (s : State) : Option (Nat × Snap) :=
  match tget none s.media.enBusy 2 with
  | some (sid, dec) =>
    (s.streamAt sid).bind (fun x => (x.snaps.find? (fun q => q.taken && q.kind != 4 && q.target == some dec && q.ready.isNone)).map (fun q => (sid, q)))
  | none => s.media.streams.findSome? (fun e => (e.2.snaps.find? (fun q => q.kind == 4 && q.ready.isNone)).map (fun q => (e.1, q)))

/-- The first request of a stream equal to `q` changed or, with none, taken away. -/
def State.setSnap (s : State) (sid : Nat) (q : Snap) (r : Option Snap) : State :=
  s.setStream sid (fun x => { x with snaps := (x.snaps.takeWhile (fun y => decide (y ≠ q))) ++ r.toList ++ (x.snaps.dropWhile (fun y => decide (y ≠ q))).drop 1 })

/-- A JPEG put into a bin buffer, or dropped: status, buffer handle and bytes (R242). -/
def State.keepJpeg (s : State) (x : Stream) (bytes : List Byte) : State × Nat × Nat × Nat :=
  match s.binPick x.part bytes.length with
  | .ok b => ((s.handBuf b).writeOutside (s.bufAddr b) bytes, stOk, s.bufHandle b, bytes.length)
  | .error _ => ({ s.countEmpty with media := { s.media with enDrops := satAdd 32 s.media.enDrops 1 } }, stBinEmpty, 0, 0)

/-- The SNAPSHOT_REF of a finished JPEG: written at once when its picture's FRAME record is written or never comes, else held for it (R243). -/
def State.returnJpeg (s : State) (x : Stream) (sid : Nat) (q : Snap) (st h n : Nat) : State :=
  let dec := q.target.getD noPic
  if q.kind = 4 ∨ q.order = noPic ∨ (x.picAt dec).all (·.output) then (s.setSnap sid q none).commitSnap x sid q st h n
  else s.setSnap sid q (some { q with ready := some (st, h, n) })

/-- The snapshot encoder free when no request of its picture is left (R239). -/
def State.freeSnapshot (s : State) : State :=
  if (tget none s.media.enBusy 2).isSome ∧ s.nextSnap.isNone then s.freeEncoder 2 else s

/-- SNAPSHOT_DONE: the snapshot encoder finishes the JPEG of its next request. -/
def execSnapshotDone (scan : List Byte) (cycles : Nat) (s : State) : Host.Outcome State Fault Refusal :=
  match s.nextSnap with
  | none => .next s
  | some (sid, q) =>
    match s.streamAt sid with
    | none => .next s
    | some x =>
      if s.encoderServes 2 = false ∨ s.stillDecoding sid (q.target.getD noPic) = true then .next s
      else if s.awake 25 = false then .next (s.wake 25)
      else
        let j := s.keepJpeg x (q.file scan)
        let s := (j.1.returnJpeg x sid q j.2.1 j.2.2.1 j.2.2.2).countEncoded x cycles
        .next (s.freeSnapshot.dropOutput sid (q.target.getD noPic)).settle

/-! ### ENCODE_PICTURE_DONE (R240 to R242) -/

/-- The most bytes of a clip chunk (R242). -/
def chunkLimit : Nat := 1048576

/-- A session with its picture's access unit in the chunk it fills (R240 to R242). -/
def Clip.append (k : Clip) (dec order : Nat) (bytes : List Byte) : Clip :=
  let first := k.bytes.isEmpty
  { k with
    bytes := k.bytes ++ bytes, count := if k.plan.idr then 1 else k.count + 1, todo := none, input := none, left := k.left - 1,
    group := (k.group + 1) % 32, groupBits := if k.group = 31 then 0 else k.groupBits + 8 * bytes.length,
    firstPic := if first then order else k.firstPic, firstDec := if first then dec else k.firstDec, idr := if first then k.plan.idr else k.idr }

/-- Whether an access unit keeps a session within BITS_PER_PIC over the present 32 pictures (R240; assumption log 70). -/
def Clip.holdsRate (k : Clip) (bytes : List Byte) : Bool := decide (k.groupBits + 8 * bytes.length ≤ 32 * k.bits)

/-- Whether a session ends with the picture it has just encoded: its length is reached, or a CLIP_STOP waits (R240). -/
def Clip.over (k : Clip) : Bool := k.stopping || (!k.until_ && decide (k.left = 0))

/-- A picture's access unit enters a session's chunk; a chunk it would overfill is returned first, a full or ended one after it (R242). -/
def State.appendClip (s : State) (c dec order : Nat) (bytes : List Byte) (endChunk : Bool) : State :=
  let held := ((tget none s.media.clips c).map (·.bytes.length)).getD 0
  let s := if held ≠ 0 ∧ chunkLimit < held + bytes.length then s.endChunk c false else s
  let s := { s with media := { s.media with clips := tmod none s.media.clips c (fun o => o.map (fun k => k.append dec order bytes)) } }
  match tget none s.media.clips c with
  | none => s
  | some k => if k.over then s.endClip c else if endChunk || decide (chunkLimit ≤ k.bytes.length) then s.endChunk c false else s

/-- An encoder free when none of its sessions has a picture to encode (R240). -/
def State.freeIfDone (s : State) (e : Nat) : State :=
  if (List.range 16).any (fun i => (tget none s.media.clips (16 * e + i)).any (fun k => k.todo.isSome)) then s else s.freeEncoder e

/-- ENCODE_PICTURE_DONE: an encoder finishes the picture a session has in progress. -/
def execEncodePictureDone (encoder : Fin 2) (session : Fin 16) (decSeq : Nat) (bytes : List Byte) (cycles : Nat) (endChunk : Bool) (s : State) :
    Host.Outcome State Fault Refusal :=
  let c := 16 * encoder.val + session.val
  match tget none s.media.clips c with
  | none => .next s
  | some k =>
    match k.todo, s.streamAt k.stream with
    | some (dec, order), some x =>
      if dec ≠ decSeq ∨ s.encoderServes encoder = false ∨ s.stillDecoding k.stream dec = true ∨ k.holdsRate bytes = false then .next s
      else if s.awake 25 = false then .next (s.wake 25)
      else .next (((s.appendClip c dec order bytes endChunk).countEncoded x cycles).freeIfDone encoder).settle
    | _, _ => .next s

end Sys2Proof.Machine
end

