-- ==== Sys2Proof/Machine/PageCmd.lean ====
section
/-! DEFINITION. The page decoder and the finishing of lines (R255 to R268, R271 to R273): PAGE_HEADER_PARSED, BAND_DONE, PAGE_BUDGET_EXPIRY, LINE_FINISH.
What the file formats fix comes as operands (assumption log 6). -/

namespace Sys2Proof.Machine

/-! ### PAGE_HEADER_PARSED (R255, R258) -/

/-- Whether the page decoder serves (R273). -/
def State.pageServes (s : State) : Bool := decide (s.media.pgService ≠ 0) && !(s.domAt 26).switchedOff

/-- A page whose decoding has ended, counted whatever its outcome (R273). -/
def State.countPage (s : State) : State := { s with media := { s.media with pgPages := wrapAdd s.media.pgPages 1 } }

/-- Whether the page decoder reads a file of these header fields (R255). -/
def formatRead : PageFormat → Bool
  | .jpeg process huffman bits comps =>
    decide (process ≠ .other) && huffman && decide (bits = 8) && (comps.length == 1 || comps.length == 3) &&
    comps.all (fun c => decide ((c.1 = 1 ∨ c.1 = 2) ∧ (c.2 = 1 ∨ c.2 = 2)))
  | .png colour depth interlace =>
    (match colour with
     | 0 => [1, 2, 4, 8, 16]
     | 2 => [8, 16]
     | 3 => [1, 2, 4, 8]
     | 4 => [8, 16]
     | 6 => [8, 16]
     | _ => []).contains depth && decide (interlace ≤ 1)
  | .tiff big tiled planar fillOrder photometric compression bits samples predictor t6Options =>
    !big && !tiled && decide (planar = 1) && decide (fillOrder = 1 ∨ fillOrder = 2) && decide (photometric ≤ 2) &&
    (decide (compression = 4 ∧ bits = 1 ∧ t6Options = 0) ||
     decide (compression = 5 ∧ (bits = 1 ∨ bits = 8) ∧ (samples = 1 ∨ samples = 3) ∧ (predictor = 1 ∨ predictor = 2)))

/-- FORMAT of a header's file (R252). -/
def formatCode : PageFormat → Nat
  | .jpeg _ _ _ _ => 0
  | .png _ _ _ => 1
  | .tiff _ _ _ _ _ _ _ _ _ _ => 2

/-- Whether a file is multipass: progressive JPEG, Adam7 PNG (R258). -/
def formatMultipass : PageFormat → Bool
  | .jpeg process _ _ _ => decide (process = .progressive)
  | .png _ _ interlace => decide (interlace = 1)
  | .tiff _ _ _ _ _ _ _ _ _ _ => false

/-- The largest sampling factors of a JPEG's components. -/
def maxFactors (comps : List (Nat × Nat)) : Nat × Nat := ((comps.map (·.1)).foldl max 1, (comps.map (·.2)).foldl max 1)

/-- Samples of a PNG's pixel by its colour type. -/
def pngSamples (colour : Nat) : Nat := if colour = 2 then 3 else if colour = 4 then 2 else if colour = 6 then 4 else 1

/-- Bytes of a page's work buffer: 2 for each coefficient of every component padded to whole MCUs, or the file's bytes per pixel, at least 1, for each pixel (R258; assumption log 71). -/
def workBytes (f : PageFormat) (w h : Nat) : Nat :=
  match f with
  | .jpeg _ _ _ comps =>
    if comps.length = 1 then 2 * (64 * (ceilDiv w 8 * ceilDiv h 8))
    else
      let m := maxFactors comps
      2 * (ceilDiv w (8 * m.1) * ceilDiv h (8 * m.2) * (comps.map (fun c => 64 * c.1 * c.2)).sum)
  | .png colour depth _ => ceilDiv (pngSamples colour * depth) 8 * (w * h)
  | .tiff _ _ _ _ _ _ _ _ _ _ => 0

/-- A page whose header ends it, or that takes its work buffer and waits for its first band (R255, R258). -/
def State.takeHeader (s : State) (n : Nat) (g : Page) (hdr : ParsedPage) : State :=
  if !hdr.parsed || formatCode hdr.format != g.format then s.countPage.endPage n stPageHeader false
  else if !formatRead hdr.format then s.countPage.endPage n stPageUnsupported false
  else if hdr.width ≠ g.w ∨ hdr.height ≠ g.h then s.countPage.endPage n stPageHeader false
  else
    let s := s.setPage n (fun g => { g with file := some hdr.format })
    if formatMultipass hdr.format then
      match s.binPick g.part (workBytes hdr.format g.w g.h) with
      | .ok b => (s.takeDevice b).setPage n (fun g => { g with stage := .decoding, multipass := true, workBuf := some b })
      | .error _ => ((s.countEmpty.setPage n (fun g => { g with multipass := true })).countPage).endPage n stBinEmpty false
    else s.setPage n (fun g => { g with stage := .decoding })

/-- PAGE_HEADER_PARSED: the page decoder has parsed the header of an accepted page. -/
def execPageHeaderParsed (page : Nat) (hdr : ParsedPage) (s : State) : Host.Outcome State Fault Refusal :=
  match s.pageAt page with
  | none => .next s
  | some g =>
    if g.stage ≠ .accepted ∨ s.pageServes = false then .next s
    else if s.awake 26 = false then .next (s.wake 26)
    else .next (s.takeHeader page g hdr).settle

/-! ### Samples of the page buffer (R256) -/

/-- Three colour samples of 8 bits in the pipeline's channels: 0 Y, 1 RGB, 2 BGR (R256). -/
def colourChannels (order : Nat) (r g b : Nat) : List Nat :=
  match order with
  | 1 => [r, g, b]
  | 2 => [b, g, r]
  | _ => [(truncShift (4899 * (r : Int) + 9617 * (g : Int) + 1868 * (b : Int)) 14).toNat]

/-- One grey sample in the pipeline's channels (R256). -/
def greyChannels (order v : Nat) : List Nat := if order = 0 then [v] else [v, v, v]

/-- A PNG sample of a depth at 8 bits (R256). -/
def pngSample (depth v : Nat) : Nat := if depth = 16 then v / 256 else if depth = 8 then v else v * 255 / (2 ^ depth - 1)

/-- A TIFF grey sample at 8 bits: bilevel is 255 for white and 0 for black; 8 bits with PhotometricInterpretation 0 are free (R256; assumption log 71). -/
def tiffGrey (photometric bits v : Nat) : Nat :=
  if bits = 1 then (if (v = 0) = (photometric = 0) then 255 else 0) else if photometric = 0 then Config.greyInverse v % 256 else v

/-- A pixel of a file's components in the pipeline's channels at 8 bits (R256). -/
def pixelChannels (f : PageFormat) (order : Nat) (px : List Nat) : List Nat :=
  let v := fun (i : Nat) => px.getD i 0
  match f with
  | .jpeg _ _ _ comps =>
    if comps.length = 1 then greyChannels order (v 0)
    else (colourPixel true true order (16 * (v 0 : Int)) (16 * (v 1 : Int)) (16 * (v 2 : Int))).map (fun c => (c / 16).toNat)
  | .png colour depth _ =>
    if colour = 0 ∨ colour = 4 then greyChannels order (pngSample depth (v 0))
    else if colour = 3 then colourChannels order (v 0) (v 1) (v 2)
    else colourChannels order (pngSample depth (v 0)) (pngSample depth (v 1)) (pngSample depth (v 2))
  | .tiff _ _ _ _ photometric _ bits samples _ _ =>
    if samples = 1 then greyChannels order (tiffGrey photometric bits (v 0))
    else
      let e := fun (i : Nat) => if bits = 1 then 255 * v i else v i
      colourChannels order (e 0) (e 1) (e 2)

/-- A component's sample at a row of a band and a column: JPEG chroma is upsampled by replication (R256). -/
def compSample (f : PageFormat) (comps : List (List (List Nat))) (row col i : Nat) : Nat :=
  match f with
  | .jpeg _ _ _ l =>
    let m := maxFactors l
    let c := l.getD i (1, 1)
    let k : Nat × Nat := if l.length = 1 then (row, col) else (row * c.2 / m.2, col * c.1 / m.1)
    ((comps.getD i []).getD k.1 []).getD k.2 0
  | _ => ((comps.getD i []).getD row []).getD col 0

/-- The rows of a band in the pipeline's channels, row-major (R256). -/
def bandSamples (f : PageFormat) (order w : Nat) (r : BandResult) : List Byte :=
  (List.range r.rows).flatMap (fun row => (List.range w).flatMap (fun col =>
    (pixelChannels f order ((List.range 4).map (compSample f r.comps row col))).map (BitVec.ofNat 8)))

/-! ### BAND_DONE (R256, R257, R259, R260, R262 to R265) -/

/-- The nominal cost of a page in lane cycles (R259). -/
def pageCost (w h : Nat) (multipass : Bool) : Nat := ceilDiv (4 * w * h) 5 * (if multipass then 2 else 1)

/-- The budget of a page in lane cycles (R259). -/
def State.pageBudget (s : State) (g : Page) : Nat := ((s.sourceAt g.source).map (·.budgetMult)).getD 16 * pageCost g.w g.h g.multipass

/-- Rows of a page's next band (R257). -/
def Page.bandRows (g : Page) : Nat := min 128 (g.h - g.rows)

/-- Whether a page waits for a lane: its pipeline's queue has room, and for its first band its decoder context fits (R257, R264). -/
def State.bandWaits (s : State) (g : Page) (x : Pipeline) : Bool :=
  decide (g.stage = .decoding) && g.lane.isNone && !s.queueFull x &&
  (decide (g.used ≠ 0) || decide (s.cellarUse g.part + s.reserved g.part 2 + 65536 ≤ 2 ^ 20 * (s.partAt g.part).cellar))

/-- Whether a lane decodes a page's next band: a grant has given it to the page (R183, R257). -/
def Page.holdsLane (g : Page) (lane : Nat) : Bool := g.lane == some lane

/-- Whether a band's report is one that R257, R259 and R260 allow: whole rows, fewer than the band's only where decoding ends early, within the budget. -/
def State.bandReport (s : State) (g : Page) (r : BandResult) : Bool :=
  decide (r.rows ≤ g.bandRows) && (decide (r.rows = g.bandRows) || r.endOfData || r.dataError || r.poisoned) &&
  decide (g.used + r.cycles ≤ s.pageBudget g)

/-- A band's rows in the page buffer, row-major (R256). -/
def State.putRows (s : State) (g : Page) (order : Nat) (r : BandResult) : State :=
  match g.file with
  | none => s
  | some f => s.writeOutside (s.bufAddr (g.pageBuf.getD 0) + g.rows * g.w * chanCount order) (bandSamples f order g.w r)

/-- The end of a page's decoding: counted, its input and work buffers back in their bins; with no row it ends, else a prep unit makes its detector picture (R254, R260, R262, R263). -/
def State.endDecoding (s : State) (n : Nat) (r : BandResult) : State :=
  match s.pageAt n with
  | none => s
  | some g =>
    let cut := decide (g.rows < g.h)
    let s := s.countPage
    let s := if cut then { s with media := { s.media with pgTrunc := satAdd 32 s.media.pgTrunc 1 } } else s
    let s := (s.freePageInput g).setPage n (fun g => { g with
      stage := .decoded, inBuf := none, workBuf := none, status := if cut then stImageTruncated else stOk,
      endOfData := cut && r.endOfData, dataError := cut && r.dataError })
    if g.rows = 0 then s.endPage n stImageTruncated false else s

/-- A band's rows, cycles and bytes taken over by its page, its lane released (R257, R259, R271). -/
def State.bandOver (s : State) (n : Nat) (g : Page) (x : Pipeline) (r : BandResult) : State :=
  let s := (s.putRows g x.channels r).freeLane g
  let s := s.chargeWork g.part g.client 5 r.cycles
  s.setPage n (fun g => { g with
    rows := g.rows + r.rows, cycles := g.cycles + r.cycles, used := g.used + r.cycles, dataBytes := r.dataBytes, lane := none })

/-- BAND_DONE: a lane finishes a band, or decoding ends in it. -/
def execBandDone (page : Nat) (result : BandResult) (s : State) : Host.Outcome State Fault Refusal :=
  match s.pageAt page with
  | none => .next s
  | some g =>
    match s.pagePipe g with
    | none => .next s
    | some x =>
      if g.stage ≠ .decoding ∨ s.pageServes = false ∨ g.holdsLane result.lane = false ∨ s.bandReport g result = false then .next s
      else if s.awake 26 = false then .next (s.wake 26)
      else
        let s := s.bandOver page g x result
        let stop := result.endOfData || result.dataError || decide (g.rows + result.rows = g.h)
        let s := if result.poisoned then s.countPage.endPage page stDataPoisoned false
          else if stop then s.endDecoding page result else s
        .next (s.alarmUpdate x.part x.handle).settle

/-! ### PAGE_BUDGET_EXPIRY (R21, R259) -/

/-- PAGE_BUDGET_EXPIRY: the page is abandoned with the rows it has reached; its buffers return, and it has a PAGE record only. -/
def execPageBudgetExpiry (page rows dataBytes : Nat) (s : State) : Host.Outcome State Fault Refusal :=
  match s.pageAt page with
  | none => .next s
  | some g =>
    if g.stage ≠ .decoding ∨ s.pageServes = false ∨ g.h < rows ∨ rows < g.rows then .next s
    else if s.awake 26 = false then .next (s.wake 26)
    else
      let n := s.pageBudget g
      let s := s.chargeWork g.part g.client 5 (n - g.used)
      let s := { s with media := { s.media with pgBudget := satAdd 32 s.media.pgBudget 1 } }
      let s := s.setPage page (fun g => { g with rows, dataBytes, cycles := n, used := n })
      let s := s.countPage.endPage page stDecodeBudget false
      .next ((match s.pagePipe g with
        | some x => s.alarmUpdate x.part x.handle
        | none => s).settle)

/-! ### LINE_FINISH (R266 to R268) -/

/-- Whether a line comes before another by three keys, all ascending. -/
def keysBefore (a b : Nat × Nat × Nat) : Bool :=
  decide (a.1 < b.1) || (decide (a.1 = b.1) && (decide (a.2.1 < b.2.1) || (decide (a.2.1 = b.2.1) && decide (a.2.2 ≤ b.2.2))))

/-- An element put into its place by its keys. -/
def keyPlace {α : Type} (key : α → Nat × Nat × Nat) (a : α) : List α → List α
  | [] => [a]
  | b :: l => if keysBefore (key b) (key a) then b :: keyPlace key a l else a :: b :: l

/-- A list sorted by keys. -/
def keySort {α : Type} (key : α → Nat × Nat × Nat) (l : List α) : List α := l.foldl (fun acc a => keyPlace key a acc) []

/-- The rows of lines sorted by their centres: a line joins the row whose first line covers its centre (R267). -/
def rowsOf : List Line → Nat → Option Nat → List (Nat × Line)
  | [], _, _ => []
  | l :: ls, row, bottom =>
    let fresh : Bool := match bottom with
      | none => true
      | some b => decide (b < (l.y0 + l.y1) / 2)
    let r := if fresh ∧ bottom.isSome then row + 1 else row
    (r, l) :: rowsOf ls r (if fresh then some l.y1 else bottom)

/-- Lines in reading order (R267). -/
def readingOrder (l : List Line) : List Line :=
  let byCentre := keySort (fun (x : Line) => (x.y0 + x.y1, x.x0, x.det)) l
  (keySort (fun (e : Nat × Line) => (e.1, e.2.x0, e.2.det)) (rowsOf byCentre 0 none)).map (·.2)

/-- A kept box as a line in 1/4 page pixel, clipped to the rows decoded; none when nothing is left of it (R233, R266, R268). -/
def Page.lineOf (g : Page) (x : Pipeline) (d : Det) : Option Line :=
  let (ws, hs, ox, oy) := contentBox x.fit x.wa x.ha g.w g.h
  let x0 := toSource d.x0 0 g.w ox ws
  let x1 := toSource d.x1 0 g.w ox ws
  let y0 := toSource d.y0 0 g.h oy hs
  let y := toSource d.y1 0 g.h oy hs
  let y1 := min y (4 * g.rows)
  if y1 < y0 then none
  else
    let w := lineWidth x.lineH x.lineMaxW x0 x1 y0 y1
    some { det := d.idx, cls := d.cls, score := d.score, x0, y0, x1, y1, outW := w.1, clipped := decide (y1 < y), squeezed := w.2, e := 0, clamps := 0 }

/-- The crop job of a page's lines: coordinates in 1/256 pixel (R268). -/
def State.lineJob (s : State) (n : Nat) (g : Page) (x : Pipeline) (lines : List Line) : State :=
  let c := chanCount x.channels
  s.addCrop { part := g.part, prio := x.workPrio g.prio, obj := n, seq := lines.length, lines := true,
              srcW := g.w, srcH := g.h, chans := c, wide := false, stride := g.w * c, outH := x.lineH, maxW := x.lineMaxW, defaultW := x.lineMaxW,
              entries := lines.zipIdx.map (fun (e : Line × Nat) => boxEntry (64 * e.1.x0) (64 * e.1.y0) (64 * e.1.x1) (64 * e.1.y1) e.2 e.1.outW 0),
              ids := List.range lines.length, units := [], out := [], status := [] }

/-- The lines of a page from entry i of its finished batch: a page with none ends, else its lines go to a crop job (R266 to R268). -/
def State.takeLines (s : State) (page : Nat) (g : Page) (x : Pipeline) (b : Batch) (i : Nat) : State :=
  let (st, bytes, cl) := s.batchResult b x.detFolio i
  let kept := keepBoxes x.scoreMin x.nmsIou x.maxDet true (bounds16 (contentBox x.fit x.wa x.ha g.w g.h)) (candidates bytes) []
  let lines := readingOrder (kept.1.filterMap (g.lineOf x))
  let s := (s.takeGrant 16 g.part g.prio).chargeFree g.part g.client 6
  let s := s.setPage page (fun g => { g with
    stage := .lines, samples := [], clamps := g.clamps + cl, capped := kept.2, lines := if st = 0 then lines else [] })
  if st ≠ 0 then s.endPage page st false
  else if lines.isEmpty then s.endPage page g.status true
  else s.lineJob page g x lines

/-- The finished detection batch of a page, and its entry there (R266). -/
def State.lineBatch (s : State) (page : Nat) (g : Page) : Option (Batch × Nat) :=
  if g.stage ≠ .detecting then none
  else (s.batchAt (g.batch - 1)).bind (fun b =>
    if b.run = 0 ∨ s.runFinished (b.run - 1) = false then none else (b.place (page, 0)).map (fun i => (b, i)))

/-- LINE_FINISH: the lines of a page whose detection batch has finished. -/
def execLineFinish (page : Nat) (s : State) : Host.Outcome State Fault Refusal :=
  match s.pageAt page with
  | none => .next s
  | some g =>
    match s.pagePipe g, s.lineBatch page g with
    | some x, some (b, i) =>
      if s.trackers.isEmpty = true ∨ s.mayTake 16 g.part g.prio = false then .next s
      else if s.awake 28 = false then .next (s.wake 28)
      else .next (((s.takeLines page g x b i).sweepBatches.alarmUpdate x.part x.handle).settle)
    | _, _ => .next s

end Sys2Proof.Machine
end

