-- ==== Sys2Proof/Machine/TextEngine.lean ====
section
/-! DEFINITION. The text engine at work (R280, R285 to R294, R300): STEP_RELEASE, DECODE_STEP, MASK_UPDATE, MASK_READY, TOKEN_SELECT. -/

namespace Sys2Proof.Machine

/-! ### The detokenizer, the stop window, fields and chunks (R289 to R293) -/

/-- What a read's parameters and its page give its records. -/
structure ReadCtx where
  tag : Nat
  source : Nat
  stops : List (List Byte)
  reject : Bool
  maxTokens : Nat
  chunkBytes : Nat

/-- A read while its token's characters are taken: its chunk records so far, how it ends, and the substitutions made. -/
structure Reading where
  r : Read
  recs : List (List Byte)
  fin : Option Nat
  stop : Nat
  bad : Nat
  tail : Bool
  repl : Nat

/-- A read with nothing taken yet. -/
def startReading (r : Read) : Reading := { r, recs := [], fin := none, stop := 0xFF, bad := 2 ^ 32 - 1, tail := false, repl := 0 }

/-- A TEXT_CHUNK record's bytes from 8 on (R294). -/
def chunkBody (c : ReadCtx) (r : Read) (status flags stop bad final : Nat) : List Byte :=
  padTo 56 (natLE 4 c.tag ++ natLE 4 c.source ++ natLE 2 r.line ++ natLE 2 r.chunkIdx ++ natLE 2 status ++ natLE 1 flags ++ natLE 1 stop ++
    natLE 2 r.chunk.length ++ natLE 2 r.chunkTokens ++ natLE 4 r.chunkAt ++ natLE 4 bad ++ natLE 2 r.chunkMargin ++ natLE 2 final) ++
  padTo (64 * ceilDiv r.chunk.length 64) r.chunk

/-- A read whose chunk has been written (R293). -/
def Read.nextChunk (r : Read) : Read :=
  { r with chunk := [], chunkIdx := r.chunkIdx + 1, chunkAt := r.outLen, chunkTokens := 0, chunkMargin := 65535, replaced := false }

/-- A field instance with one more character (R292, R294). -/
def FieldRun.put (f : FieldRun) (c : RChar) : FieldRun :=
  { f with
    bytes := f.bytes ++ c.bytes, tokens := if f.lastToken = c.token ∧ f.tokens ≠ 0 then f.tokens else f.tokens + 1,
    lastToken := c.token, margin := min f.margin c.margin }

/-- The field instances of a read with one more output character: a character of another field closes the open one (R292). -/
def Read.putField (r : Read) (c : RChar) : List FieldRun :=
  let fresh : List FieldRun :=
    if c.field = 0 then []
    else [({ field := c.field, offset := r.outLen, bytes := [], tokens := 0, lastToken := 0, margin := 65535, open_ := true } : FieldRun).put c]
  if r.fields.any (fun f => f.open_ && f.field == c.field) then r.fields.map (fun f => if f.open_ then f.put c else f)
  else r.fields.map (fun f => { f with open_ := false }) ++ fresh

/-- One character output: a chunk it would overfill is written first (R292, R293). -/
def Reading.out (c : ReadCtx) (o : Reading) (x : RChar) : Reading :=
  let fields := o.r.putField x
  let full := decide (c.chunkBytes < o.r.chunk.length + x.bytes.length)
  let recs := if full then o.recs ++ [chunkBody c o.r stOk (4 * b2n o.r.replaced) 0xFF (2 ^ 32 - 1) 0] else o.recs
  let r := if full then o.r.nextChunk else o.r
  { o with recs, r := { r with
    fields, chunk := r.chunk ++ x.bytes, outLen := r.outLen + x.bytes.length, replaced := r.replaced || x.repl } }

/-- The first k characters of the stop window released to the output (R291). -/
def Reading.release (c : ReadCtx) (o : Reading) (k : Nat) : Reading :=
  let o' := (o.r.win.take k).foldl (Reading.out c) o
  { o' with r := { o'.r with win := o.r.win.drop k } }

/-- The bytes of a window. -/
def winBytes (w : List RChar) : List Byte := w.flatMap (·.bytes)

/-- The stop string that a window ends with: the match that starts earliest, the lowest index among those: index and length (R291). -/
def stopHit (stops : List (List Byte)) (w : List Byte) : Option (Nat × Nat) :=
  stops.zipIdx.foldl (fun (hit : Option (Nat × Nat)) e =>
    if e.1.isSuffixOf w && hit.all (fun h => decide (h.2 < e.1.length)) then some (e.2, e.1.length) else hit) none

/-- Characters that lie before a place of a window's bytes. -/
def charsBefore : List RChar → Nat → Nat
  | [], _ => 0
  | c :: cs, n => if c.bytes.length ≤ n ∧ c.bytes ≠ [] then 1 + charsBefore cs (n - c.bytes.length) else 0

/-- Characters before the longest suffix of a window that is a proper prefix of a stop string (R291). -/
def keepFrom (stops : List (List Byte)) (w : List RChar) : Nat :=
  ((List.range w.length).find? (fun j =>
    let suf := winBytes (w.drop j)
    stops.any (fun t => decide (suf.length < t.length) && suf.isPrefixOf t))).getD w.length

/-- A released character enters the stop window (R291). -/
def Reading.push (c : ReadCtx) (o : Reading) (x : RChar) : Reading :=
  let w := o.r.win ++ [x]
  let o := { o with r := { o.r with win := w } }
  match stopHit c.stops (winBytes w) with
  | some (i, n) =>
    let o := o.release c (charsBefore w ((winBytes w).length - n))
    { o with r := { o.r with win := [] }, fin := some stStopMatched, stop := i }
  | none => o.release c (keepFrom c.stops w)

/-- The detokenizer: complete characters released from the front of the pending buffer, at most `n` (R289). -/
def Reading.detok (c : ReadCtx) (field margin : Nat) : Nat → Reading → Reading
  | 0, o => o
  | n + 1, o =>
    if o.fin.isSome then o
    else
      let step := fun (k : Nat) (o : Reading) => { o with r := { o.r with pend := o.r.pend.drop k, pendAt := o.r.pendAt + k } }
      let ch := fun (bs : List Byte) (repl : Bool) => ({ bytes := bs, field, token := o.r.tokens.length, margin, repl } : RChar)
      match utf8Front o.r.pend with
      | .none => o
      | .part => o
      | .whole k => Reading.detok c field margin n ((step k o).push c (ch (o.r.pend.take k) false))
      | .bad k =>
        if c.reject then { o with fin := some stInvalidUtf8, bad := o.r.pendAt }
        else Reading.detok c field margin n { ((step k o).push c (ch replacement true)) with repl := o.repl + 1 }

/-- A FIELD record's bytes from 8 on: the value cut at a character boundary beyond 192 bytes (R294). -/
def fieldBody (c : ReadCtx) (r : Read) (seq : Nat) (f : FieldRun) (unfinished : Bool) : List Byte :=
  let n := f.bytes.length
  let chars := (utf8Scan false (n + 1) 0 f.bytes).1
  let cut := chars.foldl (fun (acc : Nat × Bool) ch =>
    if acc.2 then acc else if acc.1 + ch.1.length ≤ 192 then (acc.1 + ch.1.length, false) else (acc.1, true)) (0, false)
  let k := if 192 < n then cut.1 else n
  padTo 56 (natLE 4 c.tag ++ natLE 4 c.source ++ natLE 2 r.line ++ natLE 1 f.field ++
    natLE 1 (b2n (decide (192 < n)) + 2 * b2n unfinished) ++ natLE 2 seq ++ natLE 2 (min n 65535) ++ natLE 4 f.offset ++
    natLE 2 f.tokens ++ natLE 2 f.margin) ++
  padTo (64 * ceilDiv (min n 192) 64) (f.bytes.take k)

/-- Bytes held at the end of a read by EOS or TOKEN_LIMIT: one U+FFFD through the stop window, or none (R290). -/
def Reading.heldOut (c : ReadCtx) (field margin : Nat) (o : Reading) : Reading :=
  if (o.fin = some stOk ∨ o.fin = some stTokenLimit) ∧ o.r.pend ≠ [] then
    let o' := o.push c { bytes := replacement, field, token := o.r.tokens.length, margin, repl := false }
    { o' with tail := true, repl := o.repl + 1 }
  else o

/-- A read that has ended with its last chunk and its FIELD records, in the order the fields opened (R286, R290 to R294).
`accepting` says that it ended in an accepting state, `eos` that EOS ended it. -/
def Reading.close (c : ReadCtx) (field margin : Nat) (accepting eos : Bool) (o : Reading) : Read × List (List Byte) × List (List Byte) :=
  let o := o.heldOut c field margin
  let st := o.fin.getD stOk
  let o := if st = stStopMatched ∨ st = stDataPoisoned then o else o.release c o.r.win.length
  let flags := 1 + 2 * b2n o.tail + 4 * b2n o.r.replaced + 8 * b2n (!accepting)
  let last := chunkBody c o.r st flags o.stop o.bad o.r.final
  let fs := o.r.fields.zipIdx.map (fun e => fieldBody c o.r e.2 e.1 (e.1.open_ && !eos))
  ({ o.r.nextChunk with pend := [], win := [], ended := true, status := st, stepped := false, released := false }, o.recs ++ [last], fs)

/-! ### The engine and its tables -/

/-- Whether the text engine can work now (R25, R470). -/
def State.textAwake (s : State) : Bool := !s.textDown && s.awake 29

/-- A read, its page and its pipeline. -/
def State.readAt (s : State) (k : Nat) : Option (Read × Page × Pipeline) :=
  (nget s.text.reads k).bind (fun r => (s.pageAt r.page).bind (fun g => (s.pagePipe g).map (fun x => (r, g, x))))

/-- What a read's records are written with. -/
def readCtx (g : Page) (x : Pipeline) : ReadCtx :=
  { tag := g.tag, source := g.source, stops := x.stops, reject := x.reject, maxTokens := x.maxTokens, chunkBytes := x.chunkBytes }

/-- The grammar of a page pipeline, none with 0xFF (R283). -/
def State.grammarOf (s : State) (x : Pipeline) : Option TextTable := if x.grammar = 0xFF then none else s.tableAt 1 x.part x.grammar

/-- Where state, mask and transition entries lie in a grammar's working copy (R274; assumption log 16). -/
def TextTable.stateAt (t : TextTable) (i : Nat) : Nat := t.addr + 64 + 8 * i
def TextTable.maskAt (t : TextTable) (m : Nat) : Nat := t.addr + 64 + 8 * gStates t.image + gMaskBytes t.image * m
def TextTable.transAt (t : TextTable) (i : Nat) : Nat := t.addr + 64 + 8 * gStates t.image + gMaskBytes t.image * gMasks t.image + 4 * i

/-- Whether the mask unit's fetch for a state finds poison (R74, R286, R287). -/
def State.maskPoison (s : State) (t : TextTable) (i : Nat) : Bool :=
  (s.firstPoison (t.stateAt i) 8).isSome || (s.firstPoison (t.maskAt (gState t.image i).mask) (gMaskBytes t.image)).isSome

/-- Whether the Binder's search of a state's transitions finds poison (R74, R286). -/
def State.transPoison (s : State) (t : TextTable) (i : Nat) : Bool :=
  (s.firstPoison (t.transAt (gState t.image i).first) (4 * (gState t.image i).n)).isSome

/-- Whether the detokenizer's read of a token's string finds poison (R74, R286). -/
def State.stringPoison (s : State) (t : TextTable) (i : Nat) : Bool :=
  (s.firstPoison (t.addr + vStrOfs t.image + 4 * i) 4).isSome ||
  (s.firstPoison (t.addr + vStrData t.image + (vStrEntry t.image i).1) (vStrEntry t.image i).2).isSome

/-- The field of a state, 0 without a grammar (R280, R292). -/
def fieldOf (g : Option TextTable) (i : Nat) : Nat := (g.map (fun t => (gState t.image i).field)).getD 0

/-- Whether a state is accepting: its mask allows EOS's class; without a grammar every state is (R280, R283). -/
def acceptingIn (v : List Byte) (g : Option TextTable) (i : Nat) : Bool :=
  g.all (fun t => gMaskBit t.image (gState t.image i).mask (vClass v (vEos v)))

/-- Whether a state's mask allows a token's class (R280, R283). -/
def allowedIn (v : List Byte) (g : Option TextTable) (i tok : Nat) : Bool :=
  g.all (fun t => gMaskBit t.image (gState t.image i).mask (vClass v tok))

/-! ### The end of a read -/

/-- A read that has ended: its records written by the Binder, chunks before fields, its page's counts raised, and what waited for it looked at (R286, R294, R300). -/
def State.endRead (s : State) (k : Nat) (g : Page) (e : Read × List (List Byte) × List (List Byte)) : State :=
  let r := e.1
  let put := fun (type : Byte) (s : State) (body : List Byte) =>
    s.commit g.part { type, prio := g.prio, body, prod := .binder, obj := sourceKey g.source }
  let s := e.2.1.foldl (put 8) s
  let s := e.2.2.foldl (put 7) s
  let s := s.setRead k (fun _ => r)
  let s := s.setPage r.page (fun g => { g with nChunks := g.nChunks + e.2.1.length, nFields := g.nFields + e.2.2.length })
  let s := { s with text := { s.text with
    stops := satAdd 32 s.text.stops (b2n (r.status == stStopMatched)), rejects := satAdd 32 s.text.rejects (b2n (r.status == stInvalidUtf8)) } }
  match s.batchAt r.batch with
  | none => s.pageRead r.page
  | some b => s.readOver (b.run - 1) ((b.place (r.page, r.line)).getD 0) r

/-- A read that goes on: the chunks its token filled are written. -/
def State.keepRead (s : State) (k : Nat) (g : Page) (r : Read) (recs : List (List Byte)) : State :=
  let s := recs.foldl (fun s body => s.commit g.part { type := 8, prio := g.prio, body, prod := .binder, obj := sourceKey g.source }) s
  (s.setRead k (fun _ => r)).setPage r.page (fun g => { g with nChunks := g.nChunks + recs.length })

/-- A read ended by poison in a table or in its logits: nothing more of it is output (R74, R286). -/
def State.poisonRead (s : State) (k : Nat) (r : Read) (g : Page) (x : Pipeline) : State :=
  let v := ((s.tableAt 0 x.part x.vocab).map (·.image)).getD []
  s.endRead k g (Reading.close (readCtx g x) 0 65535 (acceptingIn v (s.grammarOf x) r.state) false { startReading r with fin := some stDataPoisoned })

/-! ### STEP_RELEASE and DECODE_STEP (R285, R288) -/

/-- STEP_RELEASE: 1.5 µs after a read's selection the Binder releases its next step. -/
def execStepRelease (read : Nat) (s : State) : Host.Outcome State Fault Refusal :=
  match nget s.text.reads read with
  | none => .next s
  | some r =>
    if r.ended ∨ r.stepped ∨ s.textDown = true then .next s
    else if s.awake 29 = false then .next (s.wake 29)
    else .next (s.setRead read (fun r => { r with released := true }))

/-- The step quires of a run wait again (R285). -/
def State.restep (s : State) (r : Nat) : State :=
  s.setRun r (fun x =>
    let img := s.imageOf x.part x.folio
    { x with quires := ((List.range (fQuires img)).filter (fun q => isStep img q && tget 0 x.failed q == 0)).foldl (fun t q => tput .waiting t q .waiting) x.quires,
             abandons := x.abandons.filter (fun e => !isStep img e.1), avoid := x.avoid.filter (fun e => !isStep img e.1) })

/-- Whether the recogniser of a batch has finished the quires it was issued, and waits for a step (R285). -/
def State.stepsNow (s : State) (b : Batch) : Bool :=
  decide (b.kind = 2) && decide (b.run ≠ 0) && ((s.runAt (b.run - 1)).map (fun x => decide (x.status = 0))).getD false && s.runFinished (b.run - 1)

/-- The reads of a batch that still go on. -/
def State.liveReads (s : State) (batch : Nat) : List (Nat × Read) := (s.readsOf batch).filter (fun e => !e.2.ended)

/-- Whether every read of a batch that goes on has been released for its next step (R284, R285). -/
def stepReady (live : List (Nat × Read)) : Bool := !live.isEmpty && live.all (fun e => !e.2.stepped && e.2.released)

/-- DECODE_STEP: once every read of a batch is released, the recogniser's step quires are issued; the first step begins the reads. -/
def execDecodeStep (batch : Nat) (s : State) : Host.Outcome State Fault Refusal :=
  match s.batchAt batch with
  | none => .next s
  | some b =>
    if s.stepsNow b = false ∨ s.textDown = true ∨ s.mayTake 17 b.part b.prio = false then .next s
    else if s.awake 29 = false then .next (s.wake 29)
    else
      let t := s.beginReads batch
      let live := t.liveReads batch
      if stepReady live = false then .next s
      else
        let t := live.foldl (fun s e => s.setRead e.1 (fun x => { x with stepped := true, released := false })) t
        .next (((t.takeGrant 17 b.part b.prio).restep (b.run - 1)).chargeFree b.part 0 7)

/-! ### MASK_UPDATE and MASK_READY (R287, R288) -/

/-- MASK_UPDATE: the mask unit takes a read's state and fetches its entry and mask from the working copy; poison ends the read. -/
def execMaskUpdate (read : Nat) (s : State) : Host.Outcome State Fault Refusal :=
  match s.readAt read with
  | none => .next s
  | some (r, g, x) =>
    if r.ended ∨ r.maskAsked ∨ s.textDown = true then .next s
    else if s.awake 29 = false then .next (s.wake 29)
    else
      let s := s.chargeFree g.part g.client 7
      if (s.grammarOf x).any (fun t => s.maskPoison t r.state) then .next ((s.poisonRead read r g x).sweepBatches).settle
      else .next (s.setRead read (fun r => { r with maskAsked := true }))

/-! ### TOKEN_SELECT (R285, R286, R288) -/

/-- The logits of a read's step by token, none where the network output is poisoned or gone (R74, R94, R285). -/
def State.logitsOf (s : State) (r : Read) (n : Nat) : Option (List Int) :=
  (s.batchAt r.batch).bind (fun b =>
    match s.runAt (b.run - 1) with
    | none => none
    | some x =>
      match s.outEntry (b.run - 1) ((firstKind (s.imageOf x.part x.folio) 4).getD 0) ((b.place (r.page, r.line)).getD 0) with
      | none => none
      | some o => if s.tensorBad o.2.1 then none else some (s.positionValues o.2.1 o.2.2 n))

/-- The token with the largest logit among those allowed, the lowest on ties, with its margin (R285 step 2). -/
def pickToken (allowed : Nat → Bool) (logits : List Int) : Option (Nat × Nat) :=
  let best := (logits.zipIdx.filter (fun e => allowed e.2)).foldl (fun (b : Option (Nat × Int × Option Int)) e =>
    match b with
    | none => some (e.2, e.1, none)
    | some (t, v, w) =>
      if v < e.1 then some (e.2, e.1, some v)
      else some (t, v, some (match w with
        | some w => max w e.1
        | none => e.1))) none
  best.map (fun b => (b.1, match b.2.2 with
    | none => 65535
    | some w => (clampI 0 65535 (b.2.1 - w)).toNat))

/-- The token list of a run back in the cellar store, with one entry written (R174, R285 step 3). -/
def State.putToken (s : State) (run i tok : Nat) : State :=
  match s.runAt run with
  | none => s
  | some x =>
    let img := s.imageOf x.part x.folio
    match (tokenTensor img).bind (fun tid => s.outEntry run tid i) with
    | none => s
    | some (k, t, pos) =>
      let d := s.declOf t
      let s := if inCore t.home then
          match s.inputHome x.part d with
          | (s, some m) => (s.setTensor k (fun t => { t with move := some m })).landMove k
          | (_, none) => s
        else s
      (if d.viaCopy then s.dropStale t else s).writeMem (((s.tensorAt k).map (·.addr)).getD t.addr + 4 * pos) (natLE 4 tok)

/-- A read that takes a token: counted, its margin in the chunk it fills, its next state asked of the mask unit (R285, R286, R293). -/
def Read.take (r : Read) (tok margin state : Nat) : Read :=
  { r with
    tokens := r.tokens ++ [tok], chunkTokens := r.chunkTokens + 1, chunkMargin := min r.chunkMargin margin, final := r.state, state,
    maskAsked := false, maskReady := false, late := false, stepped := false }

/-- The token of a read taken through the grammar, the detokenizer and the stop window: the read as it stands, and whether it has ended (R285, R286). -/
def takeToken (c : ReadCtx) (v : List Byte) (g : Option TextTable) (r : Read) (tok margin : Nat) (poison : Bool) : Reading :=
  if tok = vEos v then { startReading (r.take tok margin r.state) with fin := some stOk }
  else
    let state := match g with
      | some t => (gNext t.image r.state (vClass v tok)).getD r.state
      | none => r.state
    let o := startReading (r.take tok margin state)
    if poison then { o with fin := some stDataPoisoned }
    else
      let o := { o with r := { o.r with pend := o.r.pend ++ vString v tok } }
      let o := o.detok c (fieldOf g state) margin (o.r.pend.length + 1)
      if o.fin.isNone ∧ c.maxTokens ≤ o.r.tokens.length then { o with fin := some stTokenLimit } else o

/-- A read's selection: the token picked, written to the token list, and taken (R285).
Tokens beyond the network output's channels have no logit and are not candidates; a read with no candidate ends TOKEN_LIMIT (assumption log 44). -/
def State.selectToken (s : State) (k : Nat) (r : Read) (g : Page) (x : Pipeline) : State :=
  match s.tableAt 0 x.part x.vocab with
  | none => s
  | some vt =>
    let v := vt.image
    let gr := s.grammarOf x
    let c := readCtx g x
    let run := ((s.batchAt r.batch).map (fun b => b.run - 1)).getD 0
    let i := ((s.batchAt r.batch).bind (fun b => b.place (r.page, r.line))).getD 0
    let s := s.chargeFree g.part g.client 7
    match s.logitsOf r (vTokens v) with
    | none => (s.poisonRead k r g x).putToken run i (2 ^ 32 - 1)
    | some logits =>
      match pickToken (allowedIn v gr r.state) logits with
      | none =>
        (s.putToken run i (2 ^ 32 - 1)).endRead k g (Reading.close c 0 65535 (acceptingIn v gr r.state) false { startReading r with fin := some stTokenLimit })
      | some (tok, margin) =>
        let poison := s.stringPoison vt tok || gr.any (fun t => s.transPoison t r.state)
        let o := takeToken c v gr r tok margin poison
        let s := { s with text := { s.text with steps := wrapAdd s.text.steps 1 } }
        let eos := decide (tok = vEos v)
        if o.fin.isSome then
          let held := decide ((o.fin = some stOk ∨ o.fin = some stTokenLimit) ∧ o.r.pend ≠ [])
          let s := { s with text := { s.text with replaces := satAdd 32 s.text.replaces (o.repl + b2n held) } }
          (s.putToken run i (2 ^ 32 - 1)).endRead k g (o.close c (fieldOf gr o.r.state) margin (eos || acceptingIn v gr o.r.state) eos)
        else
          let s := { s with text := { s.text with replaces := satAdd 32 s.text.replaces o.repl } }
          (s.putToken run i tok).keepRead k g o.r o.recs

/-- Whether a read's step has its logits: its batch's run has gone through the step without failing. -/
def State.stepDone (s : State) (r : Read) : Bool :=
  r.stepped && (s.batchAt r.batch).any (fun b => decide (b.run ≠ 0) && (s.runAt (b.run - 1)).any (fun x => decide (x.status = 0)) && s.runFinished (b.run - 1))

/-- TOKEN_SELECT: with logits and mask there, the read takes its next token; a mask that is late is counted once and waited for. -/
def execTokenSelect (read : Nat) (s : State) : Host.Outcome State Fault Refusal :=
  match s.readAt read with
  | none => .next s
  | some (r, g, x) =>
    if r.ended ∨ s.stepDone r = false ∨ s.textDown = true then .next s
    else if s.awake 29 = false then .next (s.wake 29)
    else if (s.grammarOf x).isSome ∧ r.maskReady = false then
      .next (if r.late then s else
        { s.setRead read (fun r => { r with late := true }) with text := { (s.setRead read (fun r => { r with late := true })).text with maskLate := satAdd 32 s.text.maskLate 1 } })
    else .next ((s.selectToken read r g x).sweepBatches).settle

/-- A mask that is ready; a selection that waited for it proceeds (R287). -/
def State.maskDone (s : State) (read : Nat) (r : Read) (g : Page) (x : Pipeline) : State :=
  let s := s.setRead read (fun r => { r with maskReady := true })
  if r.late ∧ s.stepDone { r with maskReady := true } = true then
    ((s.selectToken read { r with maskReady := true } g x).sweepBatches).settle
  else s

/-- MASK_READY: a mask fetch completes. -/
def execMaskReady (read : Nat) (s : State) : Host.Outcome State Fault Refusal :=
  match s.readAt read with
  | none => .next s
  | some (r, g, x) =>
    if r.ended ∨ r.maskAsked = false ∨ r.maskReady ∨ s.textDown = true then .next s
    else if s.awake 29 = false then .next (s.wake 29)
    else .next (s.maskDone read r g x)

end Sys2Proof.Machine
end

