-- ==== Sys2Proof/Machine/Arbiter.lean ====
section
/-! DEFINITION. Deficit round robin over the pools (R183, R184, R401): the work that waits in each class of a pool with the cost of each unit, the units that are free, and DRR_GRANT. -/

namespace Sys2Proof.Machine

/-! ### The work that waits (R183) -/

/-- The ready quires that go to core n next: the head of each class of its holder (R180 to R183; assumption log 36). -/
def State.coreWork (s : State) (n : Nat) : List ((Nat × Nat) × Nat) :=
  let p := (s.coreAt n).user
  if p = 0 then []
  else [3, 2, 1, 0].filterMap (fun k => (s.classQueue p k).head?.bind (fun e =>
    if s.choosePlace p e.1 e.2 = some n then some ((p, k), s.estOn n e.1 e.2) else none))

/-- The partitions that need a further core, each in the class of its highest ready priority (R171, R183). -/
def State.poolCoreWork (s : State) : List ((Nat × Nat) × Nat) :=
  (List.range 8).filterMap (fun i => if s.needsCore (i + 1) then (s.topPrio (i + 1)).map (fun k => ((i + 1, k), 1)) else none)

/-- The pictures of every stream with what a unit costs them, where they pass a test. -/
def State.picWork (s : State) (test : Nat → Stream → Pic → Pipeline → Bool) (cost : Pic → Pipeline → Nat) : List ((Nat × Nat) × Nat) :=
  s.media.streams.flatMap (fun e => match s.pipeAt e.2.part e.2.pipeline with
    | none => []
    | some pipe => (e.2.pics.filter (fun p => test e.1 e.2 p pipe)).map (fun p => ((e.2.part, pipe.workPrio e.2.prio), cost p pipe)))

/-- The pages with what a unit costs them, where they pass a test. -/
def State.pageWork (s : State) (test : Page → Pipeline → Bool) (cost : Page → Pipeline → Nat) : List ((Nat × Nat) × Nat) :=
  s.media.pages.filterMap (fun e => (s.pagePipe e.2).bind (fun x =>
    if test e.2 x then some ((e.2.part, x.workPrio e.2.prio), cost e.2 x) else none))

/-- Output pixels of a crop job, as one unit would make them (R130, R131). -/
def CropJob.cost (j : CropJob) : Nat := ({ j with status := entryStatuses j.entries j.entries.length j.maxW j.defaultW }).pixels 0 1

/-- Prep jobs (R183): analysis pictures, detector pictures of pages, and crop jobs that no unit has started, by output pixels. -/
def State.prepWork (s : State) : List ((Nat × Nat) × Nat) :=
  s.picWork (fun _ _ p pipe => s.picWaits p pipe) (fun _ pipe => pipe.wa * pipe.ha) ++
  s.pageWork (fun g _ => g.picWaits) (fun _ x => x.wa * x.ha) ++
  (s.media.crops.filter (fun e => e.2.units.isEmpty)).map (fun e => ((e.2.part, e.2.prio), e.2.cost))

/-- Pictures that a cluster's engines may take (R183, R215): those that need encoders once these are granted. -/
def State.decodeWork (s : State) (k : Nat) : List ((Nat × Nat) × Nat) :=
  s.picWork (fun sid x p pipe => x.cluster == k && s.clusterServes k && s.dispatchable sid x p pipe && s.mayEncode sid x p pipe)
    (fun p _ => nominalCost p.w p.h p.depth)

/-- Pictures that go to encoders with their dispatch (R183, R240; assumption log 36). -/
def State.encodeWork (s : State) : List ((Nat × Nat) × Nat) :=
  s.picWork (fun sid x p pipe => s.clusterServes x.cluster && s.dispatchable sid x p pipe && !(s.encodersFor sid x p).isEmpty)
    (fun p _ => nominalCost p.w p.h p.depth)

/-- Row bands that pages wait to have decoded, by their pixels (R183, R257). -/
def State.laneWork (s : State) : List ((Nat × Nat) × Nat) :=
  if s.pageServes then s.pageWork (fun g x => s.bandWaits g x) (fun g _ => g.bandRows * g.w) else []

/-- Finishing work of the track processors (R183): detections, tracks, and the lines of pages. -/
def State.finishWork (s : State) : List ((Nat × Nat) × Nat) :=
  s.media.streams.flatMap (fun e =>
    if s.trackers.contains e.2.tp then
      (e.2.pics.filter (fun p => (s.detBatch e.1 p).isSome)).map (fun _ => ((e.2.part, e.2.prio), 1)) ++
      (if e.2.turn.any Pic.complete then [((e.2.part, e.2.prio), 1)] else [])
    else []) ++
  (s.media.pages.filter (fun e => (s.lineBatch e.1 e.2).isSome)).map (fun e => ((e.2.part, e.2.prio), 1))

/-- Decode steps that the Binder may issue (R183, R285). -/
def State.stepWork (s : State) : List ((Nat × Nat) × Nat) :=
  (s.media.batches.filter (fun e => s.stepsNow e.2 && stepReady ((s.beginReads e.1).liveReads e.1))).map (fun e => ((e.2.part, e.2.prio), 1))

/-- Bytes of the bulk copy of a packet: FEED, SUBMIT_PAGE, TOKENIZE_FEED, DMA_IN and DMA_OUT (R401). -/
def bulkBytes (pk : Packet) : Nat :=
  if pk.opcode = 0x0801 ∨ pk.opcode = 0x0802 then pkF pk 36 4
  else if pk.opcode = 0x0302 ∨ pk.opcode = 0x0402 ∨ pk.opcode = 0x0504 then pkF pk 20 4
  else 0

/-- Transfers of up to 4 KiB that the DMA engine may make, in the class of their packet (R401). -/
def State.dmaWork (s : State) : List ((Nat × Nat) × Nat) :=
  (s.cp.flight.filter (fun x => decide (x.wait = .dma) && decide (0 < bulkBytes x.pk))).map (fun x =>
    ((x.pk.fn.val, pkPriority x.pk), min 4096 (bulkBytes x.pk)))

/-- The units of work that wait for a pool, in their order, each with its class and cost (R183, R401); a class whose function's result queue is FULL has none that ends in records (R331). -/
def State.poolWork (s : State) (pool : Pool) : List ((Nat × Nat) × Nat) :=
  (match pool with
  | .core n => s.coreWork n
  | .poolCores => s.poolCoreWork
  | .prep => s.prepWork
  | .decode k => s.decodeWork k
  | .encoders => s.encodeWork
  | .pageLanes => s.laneWork
  | .trackers => s.finishWork
  | .binder => s.stepWork
  | .dma => s.dmaWork).filter (fun w => decide (1 ≤ w.1.1) && !(recordPool (poolKey pool) && (s.resAt w.1.1).full))

/-- The lowest lane in service that decodes no band (R273). -/
def State.freeLaneOf (s : State) : Option Nat := (List.range 4).find? (fun l => s.media.pgService.getLsbD l && !s.media.pgBusy.getLsbD l)

/-- The units of a pool that are free (R183). -/
def State.freeUnits (s : State) : Pool → Nat
  | .core _ => 1
  | .poolCores => s.idlePool.length
  | .prep => ((List.range 8).filter s.prepFree).length
  | .decode k => ((List.range 10).filter (fun e => (s.clusterAt k).engines.getLsbD e && !(s.clusterAt k).busy.getLsbD e)).length
  | .encoders => ((List.range 3).filter (fun e => s.encoderServes e && (tget none s.media.enBusy e).isNone)).length
  | .pageLanes => ((List.range 4).filter (fun l => s.media.pgService.getLsbD l && !s.media.pgBusy.getLsbD l)).length
  | .trackers => s.trackers.length
  | .binder => b2n (!s.textDown)
  | .dma => 1

/-! ### DRR_GRANT (R183, R184) -/

/-- A pool whose standing grants are those of classes that still have work: a class that is not ready keeps none (R183). -/
def State.liveGrants (s : State) (pool : Pool) : PoolState :=
  let x := s.poolAt (poolKey pool)
  { x with granted := x.granted.filter (fun c => (s.poolWork pool).any (fun w => w.1 == c)) }

/-- The cost of the head of a class, where the class is ready (R183). -/
def headCost (work : List ((Nat × Nat) × Nat)) (c : Nat × Nat) : Option Nat := (work.find? (fun w => w.1 == c)).map (·.2)

/-- What the rotation of a pool comes to over its ready classes (R183). -/
def State.drrTurn (s : State) (pool : Pool) : PoolState × Option (Nat × Nat) :=
  let work := s.poolWork pool
  drrNext (fun p => (s.partAt p).share) (poolBase pool) (headCost work) (33 * (2 + (work.map (·.2)).foldl max 0)) (s.liveGrants pool)

/-- The page and the lane that a lane grant of a class starts at once: its first page that waits, the lowest free lane (R257). -/
def State.grantBand (s : State) (c : Nat × Nat) : Option (Nat × Nat) :=
  ((s.media.pages.find? (fun e => e.2.part == c.1 && (s.pagePipe e.2).any (fun x => x.workPrio e.2.prio == c.2 && s.bandWaits e.2 x))).map (·.1)).bind
    (fun n => s.freeLaneOf.map (fun l => (n, l)))

/-- A lane given to a page for its next band (R257). -/
def State.startBand (s : State) (n l : Nat) : State :=
  (s.setPage n (fun g => { g with lane := some l })).setLane l

/-- A grant to class c, with the pool's rotation after it: a pool-core grant lends the lowest idle pool core at once, a lane grant starts the class's next band,
a transfer is made; in every other pool the grant stands until the class takes its unit (R171, R183, R257, R401; assumption log 36). -/
def State.grant (s : State) (pool : Pool) (after : PoolState) (c : Nat × Nat) : State :=
  match pool with
  | .poolCores =>
    match s.idlePool with
    | [] => s
    | n :: _ => (s.setPool (poolKey pool) (fun _ => after)).setCore n (fun x => { x with user := c.1 })
  | .pageLanes =>
    match s.grantBand c with
    | some (n, l) => (s.setPool (poolKey pool) (fun _ => after)).startBand n l
    | none => s
  | .dma => s.setPool (poolKey pool) (fun _ => after)
  | _ => s.setPool (poolKey pool) (fun _ => { after with granted := after.granted ++ [c] })

/-- Whether a pool has a unit that is neither at work nor granted (R183). -/
def State.unitFree (s : State) (pool : Pool) : Bool := decide ((s.liveGrants pool).granted.length < s.freeUnits pool)

/-- DRR_GRANT: deficit round robin over the ready classes, while a unit of the pool is free (R183). -/
def execDrrGrant (pool : Pool) (s : State) : Host.Outcome State Fault Refusal :=
  if s.unitFree pool = false ∨ (s.poolWork pool).isEmpty = true then .next s
  else
    match s.drrTurn pool with
    | (_, none) => .next s
    | (after, some c) => .next (s.grant pool after c)

end Sys2Proof.Machine
end

