-- ==== Sys2Proof/Machine/Bringup.lean ====
section
/-! DEFINITION. Start-up, training, the tasting and resets as commands (R357 to R361, R379, R438 to R442, R446 to R454, R458 to R486, R506 to R508), firmware delivery, the Cask's insertion and the trace port. -/

namespace Sys2Proof.Machine

/-! ### Power-on (R457 to R462, R506 to R508) -/

/-- What a power loss leaves: fuses, boot flash and its journals, and the medium in the Cask's socket (R421, R430, R438, R444, R468, R506). -/
def State.powerFall (s : State) : State :=
  let m := s.mgt
  { State.reset with
    dev := { fuses := s.dev.fuses, defects := s.dev.defects }
    mgt := { bootCount := m.bootCount, slotA := m.slotA, slotB := m.slotB, fuseSvn := m.fuseSvn, root0Revoked := m.root0Revoked,
             rootHash0 := m.rootHash0, rootHash1 := m.rootHash1, keys := m.keys, board := m.board, flashLog := m.flashLog,
             logSeq := m.logSeq, leafNext := m.leafReserved, leafReserved := m.leafReserved }
    cask := { media := s.cask.media }
    mem := { undef := [(0, 2 ^ 40, s.mem.epoch)], epoch := s.mem.epoch + 1 }
    outbox := s.outbox
    pending := s.pending }

/-- Whether a Cask's identity validates: its signature under R435, and its CID (R448). -/
def State.caskIdentity (s : State) (m : CaskMedia) : Bool :=
  decide (leAt m.body 0 4 = 0x4B534143) && s.rootOk (leAt m.body 48 1) m.signerKey && lmsOk m.signerKey (padTo 64 m.body) m.signature &&
  decide (mediaCid m = padTo 16 m.cid)

/-- A Cask read for the first time: its identity, its life state, and group 0x01 claimed when it is free (R448, R450, R483). -/
def State.caskArrives (s : State) (m : CaskMedia) : State :=
  let s := { s with
    cask := { s.cask with present := true, media := some m, identityValid := s.caskIdentity m, lifeState := 0, lifeSent := false }
    mgt := { s.mgt with claims := if tget 0 s.mgt.claims 1 = 0 then tput 0 s.mgt.claims 1 2 else s.mgt.claims } }
  s.caskLifeUpdate

/-- A channel as the fuses and the board record leave it before training (R355 to R358). -/
def State.bootChannel (s : State) (c : Nat) : Chan :=
  let e := s.boardEntry c
  if bitOf s.dev.fuses.channelMask c then {}
  else if s.entryEmpty c then { st := .fenced, fence := 1 }
  else if !memConfigOk e then { st := .fenced, fence := 2 }
  else { st := .training, x16 := decide (e.1 = 16), ranks := e.2.2.1, gib := memGib e, fgr := e.2.2.2 }

/-- A channel set aside, logged (R358, R431). -/
def State.logFenced (s : State) (c : Nat) : State := s.log logChannelFenced 2 6 c (s.chan c).fence

/-- Every channel as the board record leaves it. -/
def State.bootChannels (s : State) : State := (List.range 12).foldl (fun s c => s.setChan c (fun _ => s.bootChannel c)) s

/-- The channels the board record fences, logged. -/
def State.logBoard (s : State) : State :=
  ((List.range 12).filter (fun c => decide ((s.chan c).st = ChState.fenced))).foldl State.logFenced s

/-- AON leaves reset: the straps sampled, the boot counted, POWER_ON logged, fan control's claim made, the boot ROM run (R438, R459, R483, R507). -/
def State.powerBoot (s : State) (st : Straps) : State :=
  let s := { s with
    dev := { s.dev with straps := st, pwrgd := true, stage := .boot }
    mgt := { s.mgt with bootCount := (s.mgt.bootCount + 1) % 2 ^ 32, claims := if s.fanControl then tput 0 s.mgt.claims 2 3 else s.mgt.claims } }
  (s.log logPowerOn 0 0 0xFFFF 0).bootMp

/-- The Cask at power-on: read when CASK_PRESENT_N is low, with group 0x01 claimed for it (R446, R448, R483). -/
def State.powerCask (s : State) (absent : Bool) : State :=
  if absent then { s with cask := { s.cask with media := none } }
  else match s.cask.media with
    | some m => s.caskArrives m
    | none => { s with mgt := { s.mgt with claims := tput 0 s.mgt.claims 1 2 } }

/-- HI comes up with the subsystem IDs of the board record; then training, or recovery when no slot has booted (R384, R422, R459, R462). -/
def State.powerHi (s : State) (perstN : Bool) : State :=
  let stage := if s.mgt.mpState = 2 then Stage.recovery else Stage.training
  { s with dev := { s.dev with hiReady := perstN, stage }, hi := { s.hi with subsystem := BitVec.ofNat 32 (leAt s.boardRecord 0 4) } }

/-- The sequence of R459 from AON's reset to TRAINING: the boot ROM, the slot, HI, and the wakes of FB, CS and the MEMGs. -/
def State.powerUp (s : State) (st : Straps) : State :=
  let s := ((s.powerBoot st).powerCask st.caskPresentN).powerHi st.perstN
  if s.mgt.mpState = 2 then s else [0, 4, 1, 2, 3].foldl State.wake s.bootChannels.logBoard

/-- POWER_ON (R459): while SYS_RESET_N is low AON stays in reset (R507). -/
def execPowerOn (straps : Straps) (s : State) : StepOut :=
  if s.dev.pwrgd then .next s
  else if straps.sysResetN then .next (s.powerUp straps)
  else .next { s with dev := { s.dev with pwrgd := true, straps } }

/-- POWER_LOSS (R506, R507). -/
def execPowerLoss (s : State) : StepOut := .next s.powerFall

/-- SYS_RESET (R458, R507): the whole device is reset, DRAM and the log buffer lost, and the sequence runs from the pin's rise. -/
def execSysReset (straps : Straps) (s : State) : StepOut :=
  if !s.dev.pwrgd then .next s
  else if straps.sysResetN then .next (s.powerFall.powerUp straps)
  else
    let s := s.powerFall
    .next { s with dev := { s.dev with pwrgd := true, straps } }

/-- SLOW_CLOCK_TIMEOUT (R508): the device stays at BOOT, with nothing but IDENTITY_STATUS on the sideband. -/
def execSlowClockTimeout (s : State) : StepOut :=
  if s.aonUp ∧ (s.dev.stage = .boot ∨ s.dev.stage = .training ∨ s.dev.stage = .recovery) then
    .next { s with
      dev := { s.dev with stage := .boot, slowClockDead := true, hiReady := false }
      hi := {}
      pwr := { s.pwr with dom := [], pllLocked := 0, pllStarting := 0 }
      ddr := { s.ddr with ch := [] }
      mgt := { s.mgt with mbx := {}, heldGo := none, ops := s.mgt.ops.filter (fun o => o.path == 1) } }
  else .next s

/-- PERST_N_RISING (R459): HI leaves the fundamental reset, and link training begins. -/
def execPerstNRising (s : State) : StepOut :=
  if s.aonUp then
    .next ({ s with dev := { s.dev with straps := { s.dev.straps with perstN := true },
                                        hiReady := s.dev.hiReady || (decide (s.mgt.mpState ≠ 0) && !s.dev.slowClockDead) } }).tryReady
  else .next s

/-! ### Training (R358, R359, R379) -/

/-- The end of training: nothing while a channel trains; then the interleave is set, and the tasting follows, or a compute reset goes on (R358 step 5, R379). -/
def State.trainingEnd (s : State) : State :=
  if (List.range 12).any (fun c => decide ((s.chan c).st = .training)) then s
  else if s.dev.stage = .training then
    let s := s.setInterleave
    { s with dev := { s.dev with stage := .tasting } }
  else if s.trained = s.ddr.inService then s.tryReady
  else
    let s := s.setInterleave
    let s := s.rehouse.loseTables
    (s.scrub 0 s.dramBytes).tryReady

/-- A channel that has failed training: fenced with cause 0b11, logged (R358, R379). -/
def State.fenceChannel (s : State) (c : Nat) : State :=
  (s.setChan c (fun x => { x with st := .fenced, fence := 3, needsFallback := false })).logFenced c

/-- A channel that has trained: READY with its margins (R358). -/
def Chan.ready (x : Chan) (r w : Nat) : Chan :=
  { x with st := .ready, fence := 0, marginR := r, marginW := w, needsFallback := false, retried := false, replays := 0 }

/-- HW_TRAINING_DONE (R358 steps 2 to 4): a channel whose steps failed waits for the fallback, one whose PRBS check failed returns to it once. -/
def execHwTrainingDone (trained prbsOk : BitVec 12) (readMargin writeMargin : Fin 65) (s : State) : StepOut :=
  let cs := (List.range 12).filter (fun c => decide ((s.chan c).st = .training) && !(s.chan c).needsFallback)
  if cs.isEmpty ∨ !([1, 2, 3].any (fun d => decide ((s.domAt d).st = .on))) then .next s
  else
    let s := cs.foldl (fun s c => s.setChan c (fun x =>
      if trained.getLsbD c && prbsOk.getLsbD c then x.ready readMargin writeMargin
      else { x with needsFallback := true, retried := trained.getLsbD c })) s
    .next s.trainingEnd

/-- TRAINING_FALLBACK_DONE (R359, R358 step 4): a widest run under 12/64 UI or a second failed check fences the channel. -/
def execTrainingFallbackDone (ch : Fin 12) (readRun writeRun : Nat) (prbsOk : Bool) (s : State) : StepOut :=
  let x := s.chan ch
  if x.st ≠ .training ∨ !x.needsFallback then .next s
  else if readRun < 12 ∨ writeRun < 12 then .next (s.fenceChannel ch).trainingEnd
  else if prbsOk then .next (s.setChan ch (fun x => x.ready (min readRun 255) (min writeRun 255))).trainingEnd
  else if x.retried then .next (s.fenceChannel ch).trainingEnd
  else .next (s.setChan ch (fun x => { x with retried := true }))

/-! ### The tasting (R463 to R471) -/

/-- Whether a failure names a unit the fuses leave, which alone are tested (R471, R473). -/
def State.tested (s : State) (f : TestFailure) : Bool :=
  decide (1 ≤ f.kind ∧ f.kind ≤ 11) &&
  !(f.kind == 1 && bitOf s.dev.fuses.arrayMask (4 * f.unit + f.sub)) && !(f.kind == 3 && s.engineFused f.unit f.sub)

/-- A failed test as a defect-list entry (R469). -/
def State.entryOf (s : State) (f : TestFailure) (kind test : Nat) : Nat × Nat × Nat × Nat × Nat × Nat :=
  (kind, f.unit, f.sub, test, s.mgt.bootCount, f.detail)

/-- The engines of a cluster that are in service when the conformance test runs (R466). -/
def State.enginesTested (s : State) (k : Nat) : List Nat :=
  (List.range 10).filter (fun i => !s.engineFused k i && !s.defectSub 3 k i)

/-- Whether every in-service engine of a cluster has failed the same conformance vector, held in the upper half of DETAIL (R466; assumption log 31). -/
def State.headerFault (s : State) (l : List TestFailure) (k : Nat) : Option TestFailure :=
  let mine := l.filter (fun f => f.kind == 3 && f.unit == k && f.test == 6)
  mine.find? (fun f => !(s.enginesTested k).isEmpty &&
    (s.enginesTested k).all (fun i => mine.any (fun g => g.sub == i && g.detail / 65536 == f.detail / 65536)))

/-- The entries the judged failures add: a cluster's shared fault goes to its header processor, a failed array's partner with TEST 7, a repair as KIND 12 (R463 to R466). -/
def State.tastingEntries (s : State) (l : List TestFailure) : List (Nat × Nat × Nat × Nat × Nat × Nat) :=
  let l := l.filter s.tested
  let bad := l.filter (fun f => f.failedAgain && !f.repaired)
  let hp := (List.range 4).filterMap (fun k => (s.headerFault bad k).map (fun f => (k, f)))
  let own := bad.filter (fun f => !(f.kind == 3 && f.test == 6 && hp.any (fun h => h.1 == f.unit)))
  own.map (fun f => s.entryOf f f.kind f.test) ++
  hp.map (fun h => (4, h.1, 0, 6, s.mgt.bootCount, h.2.detail)) ++
  (own.filter (fun f => f.kind == 1 && !bitOf s.dev.fuses.arrayMask (4 * f.unit + (f.sub / 2 * 2 + (1 - f.sub % 2))))).map
    (fun f => (1, f.unit, f.sub / 2 * 2 + (1 - f.sub % 2), 7, s.mgt.bootCount, 0)) ++
  (l.filter (·.repaired)).map (fun f => s.entryOf f 12 f.test)

/-- CORES, ARRAYS and ENGINES at the end of a tasting: units whose firmware has not been tried yet count (R497). -/
def State.tastedCounts (s : State) : State :=
  let cores := (List.range 8).filter (fun n => decide ((s.coreAt n).enabled ≠ 0) && !s.defectUnit 2 n && !s.pwr.released.contains n &&
    !s.mgt.unavail.contains (11 + n))
  let engines := ((List.range 4).filter (fun k => !s.defectUnit 4 k && !s.mgt.unavail.contains (2 + k))).map (fun k =>
    ((s.enginesTested k).filter (fun i => !s.mgt.unavail.contains (19 + 10 * k + i))).length)
  { s with dev := { s.dev with cores := cores.length, arrays := (cores.map (fun n => (s.coreAt n).arrays)).sum, engines := engines.sum } }

/-- Tests that failed once and passed again, logged (R463; assumption log 31). -/
def State.logOnce (s : State) (failures : List TestFailure) : State :=
  (failures.filter (fun f => s.tested f && !f.failedAgain && !f.repaired)).foldl
    (fun s f => s.log stDegraded 1 0 f.unit ((f.kind * 256 + f.sub) * 256 + f.test)) s

/-- The entries of a tasting appended, and the tasting over (R468). -/
def State.addDefects (s : State) (es : List (Nat × Nat × Nat × Nat × Nat × Nat)) : State :=
  { s with dev := { s.dev with defects := es.foldl defectAdd s.dev.defects, tasted := true, arrayOut := [] } }

/-- HI_DEVICE_STATUS.DEGRADED brought up to date (R471, R497). -/
def State.showDegraded (s : State) : State := { s with dev := { s.dev with degraded := s.degradedNow } }

/-- A tasting judged: entries appended, units set aside, the counts written (R463 to R471, R497). -/
def State.taste (s : State) (failures : List TestFailure) : State :=
  let s := s.logOnce failures
  ((((s.addDefects (s.tastingEntries failures)).unitsServing).syncUp).showDegraded).tastedCounts

/-- TASTING_DONE (R463 to R471): failures judged, entries appended, the counts written; FAULT when the device cannot run without a unit (R462, R470). -/
def execTastingDone (failures : List TestFailure) (s : State) : StepOut :=
  if s.dev.stage ≠ .tasting ∨ s.dev.tasted then .next s
  else
    let s := s.taste failures
    if s.dev.defects.any (fun d => d.1 == 10 || d.1 == 11) then .next { s with dev := { s.dev with stage := .fault, reset := none } }
    else .next s.tryReady

/-- DRAM_SCRUB_DONE (R459, R476, R478). -/
def execDramScrubDone (s : State) : StepOut :=
  if s.dev.stage ≠ .tasting ∨ s.dev.scrubbed then .next s
  else
    let s := s.scrubDram
    .next ({ s with dev := { s.dev with scrubbed := true } }).tryReady

/-! ### Firmware delivery (R441, R442) -/

/-- Chunks of a component. -/
def Receiver.count (r : Receiver) : Nat := ceilDiv r.length 4096

/-- Whether every chunk of a receiver's component is stored. -/
def Receiver.full (r : Receiver) : Bool := (List.range r.count).all (fun i => r.chunks.any (fun e => e.1 == i))

/-- The chunks a receiver lacks. -/
def Receiver.missing (r : Receiver) : List Nat := (List.range r.count).filter (fun i => !r.chunks.any (fun e => e.1 == i))

/-- A receiver's delivery state. -/
def State.receiver (s : State) (r : Nat) : Receiver := tget {} s.mgt.receivers r

/-- A receiver's delivery state changed. -/
def State.setReceiver (s : State) (r : Nat) (f : Receiver → Receiver) : State :=
  { s with mgt := { s.mgt with receivers := tmod {} s.mgt.receivers r f } }

/-- Header and chunk frames of a component, broadcast to its receivers. -/
def State.broadcast (s : State) (rs : List Nat) (comp : Nat) : State :=
  let mine := rs.filter (fun r => receiverComp r == comp)
  if mine.isEmpty then s
  else
    let n := ceilDiv (pkgBytes s.bootImage comp).length 4096
    (2 ^ 32 :: List.range n).foldl (fun s i => s.emit (.frame mine comp i)) s

/-- FIRMWARE_DELIVERY (R441 steps 1 and 2): the receivers held in reset with empty bitmaps, their components broadcast. -/
def execFirmwareDelivery (receivers : BitVec 59) (s : State) : StepOut :=
  let rs := (bitList 59 receivers.toNat).filter s.wantedReceiver
  if s.mgt.mpState ≠ 1 ∨ rs.isEmpty ∨ (s.dev.stage ≠ .tasting ∧ s.dev.stage ≠ .ready) then .next s
  else
    let s := rs.foldl (fun s r =>
      let b := pkgBytes s.bootImage (receiverComp r)
      s.setReceiver r (fun _ => { inReset := true, comp := receiverComp r, length := b.length,
                                  sha := if b.isEmpty then [] else sha256 b, chunks := [] })) s
    let s := { s with mgt := { s.mgt with rounds := 0 } }
    .next ((List.range 9).foldl (fun s c => s.broadcast rs c) s).syncUp

/-- FIRMWARE_CHUNK (R441 step 3): dropped when its CRC fails or its bit is set. -/
def execFirmwareChunk (receiver : Fin 59) (component index : Nat) (data : List Byte) (crc : Nat) (s : State) : StepOut :=
  let r := s.receiver receiver
  if r.inReset ∧ r.comp = component ∧ index < r.count ∧ data.length = 4096 ∧ crc = crc32c (natLE 4 index ++ data) ∧
      !(r.chunks.any (fun e => e.1 == index)) then
    .next (s.setReceiver receiver (fun r => { r with chunks := tput [] r.chunks index data }))
  else .next s

/-- FIRMWARE_RESEND_ROUND (R441 step 4): missing chunks unicast, three rounds at most; then what still lacks chunks is unavailable. -/
def execFirmwareResendRound (s : State) : StepOut :=
  let rs := (s.mgt.receivers.filter (fun e => e.2.inReset && decide (0 < e.2.length) && !e.2.full)).map (·.1)
  if s.mgt.mpState ≠ 1 ∨ rs.isEmpty then .next s
  else if s.mgt.rounds < 3 then
    let s := { s with mgt := { s.mgt with rounds := s.mgt.rounds + 1 } }
    .next (rs.foldl (fun s r => ((s.receiver r).missing).foldl (fun s i => s.emit (.frame [r] (s.receiver r).comp i)) s) s)
  else .next ((rs.foldl State.receiverFailed s).tryReady).settle

/-- A receiver out of reset, no longer unavailable. -/
def State.receiverRuns (s : State) (r : Nat) : State :=
  let s := s.setReceiver r (fun x => { x with inReset := false })
  ({ s with mgt := { s.mgt with unavail := s.mgt.unavail.filter (· != r) } }).syncUp

/-- A receiver leaves reset: its unit comes back into service. -/
def State.receiverUp (s : State) (r : Nat) : State :=
  let s := s.receiverRuns r
  if s.dev.stage = .ready then (if 11 ≤ r ∧ r ≤ 18 then (s.returnCore (r - 11)).recount else s.recount) else s

/-- RECEIVER_RELEASE (R441 step 5): out of reset when its image has the header's hash, else unavailable. -/
def execReceiverRelease (receiver : Fin 59) (s : State) : StepOut :=
  let r := s.receiver receiver
  if !r.inReset ∨ r.comp = 0 ∨ !r.full then .next s
  else if r.sha ≠ [] ∧ sha256 ((r.chunks.flatMap (·.2)).take r.length) = r.sha then .next ((s.receiverUp receiver).tryReady).settle
  else .next ((s.receiverFailed receiver).tryReady).settle

/-! ### Resets (R396, R397, R438, R439, R474 to R480) -/

/-- Whether a reset of the host side may start a compute reset: shutdown ends by a management request only (R416, R417; assumption log 32). -/
def State.hostResetHeld (s : State) : Bool := decide (s.dev.stage = .shutdown) || s.dev.thermtrip || s.dev.slowClockDead

/-- LINK_RESET (R458, R480): HI and configuration space reset, with a compute reset. -/
def execLinkReset (cause : LinkResetCause) (s : State) : StepOut :=
  if !s.aonUp then .next s
  else
    let s := if cause = .perst then { s with dev := { s.dev with straps := { s.dev.straps with perstN := false } } } else s
    if s.hostResetHeld then .next s.resetHi
    else .next (s.beginReset .linkReset false true false).settle

/-- PF0_FLR (R397): PF0's configuration space and VF Enable, with a compute reset. -/
def execPf0Flr (s : State) : StepOut :=
  if !s.dev.hiReady then .next s
  else
    let s := { s.tlp with hi := { s.tlp.hi with vfEnable := false, numVFs := 0, aspm := 0, msix := [] } }
    if s.hostResetHeld then .next s else .next (s.beginReset .pf0Flr false false false).settle

/-- FLR of a VF (R173, R396). -/
def execFlr (vf : Fin 8) (s : State) : StepOut :=
  if s.fnPresent (vf.val + 1) then .next (s.tlp.resetVf (vf.val + 1) false).settle else .next s

/-- VF_RESET_DONE (R173): OPEN, or FREE where the partition was draining. -/
def execVfResetDone (vf : Fin 8) (s : State) : StepOut :=
  let p := vf.val + 1
  if (s.partAt p).st ≠ .resetting then .next s
  else
    let s := (s.scrubBins p).returnCores p
    if (s.partAt p).thenFree then .next (s.freePart p).refillAll.settle
    else .next ((s.setPart p (fun q => { q with st := .opened })).refillAll).settle

/-- VF_ENABLE_CHANGE (R386): each VF that disappears is reset. -/
def execVfEnableChange (enable : Bool) (numVFs : Fin 9) (s : State) : StepOut :=
  if s.dev.hiReady then .next (s.tlp.setVfs enable numVFs).settle else .next s

/-- An MP restart: operations end, and a compute reset carries the restart (R437, R439); in shutdown the MP alone restarts. -/
def State.mpRestarts (s : State) : State :=
  let s := s.abortOps
  if s.dev.stage = .shutdown then
    (({ s with mgt := { s.mgt with bootCount := (s.mgt.bootCount + 1) % 2 ^ 32 } }).bootMp).mpBack
  else s.restartMp.settle

/-- SLOT_TRIAL_TIMEOUT (R438): a PENDING slot that has not reached readiness has failed one try, and the MP restarts. -/
def execSlotTrialTimeout (s : State) : StepOut :=
  match s.mgt.booted with
  | some k => if s.mgt.mpState = 1 ∧ (s.slotAt k).st = SlotState.pending ∧ s.dev.stage ≠ .ready then .next s.mpRestarts else .next s
  | none => .next s

/-- MP_RESTART (R439). -/
def execMpRestart (s : State) : StepOut :=
  if s.aonUp ∧ (s.mgt.mpState = 1 ∨ s.mgt.mpState = 2) ∧ !s.dev.slowClockDead ∧ !s.dev.thermtrip then .next s.mpRestarts else .next s

/-- CP_ABORT_REPLY_TIMEOUT (R475 step 3): no reply is written. -/
def execCpAbortReplyTimeout (s : State) : StepOut :=
  match s.dev.reset with
  | some r =>
    if r.awaitCp then
      let s := (s.endFlights (fun _ => true) false).dropWork
      .next ({ s with dev := { s.dev with reset := some { r with awaitCp := false } } }).finishStop
    else .next s
  | none => .next s

/-- READ_COMPLETION_DROP (R475 step 2). -/
def execReadCompletionDrop (s : State) : StepOut :=
  match s.dev.reset with
  | some r =>
    if r.owedReads = [] then .next s
    else .next ({ s with dev := { s.dev with reset := some { r with owedReads := [] } } }).finishStop
  | none => .next s

/-- COMPUTE_RESET_RESTART (R478): once the stopping steps have ended; an MP that finds no slot stays in recovery (R438). -/
def execComputeResetRestart (s : State) : StepOut :=
  match s.dev.reset with
  | some r =>
    if r.awaitCp ∨ r.owedReads ≠ [] ∨ r.restarted then .next s
    else
      let s := s.restart
      if !r.mp then .next s
      else if s.mgt.mpState = 2 then .next ({ s with dev := { s.dev with stage := .recovery, reset := none } }).mpBack
      else .next s.mpBack
  | none => .next s

/-! ### The Cask and the trace port (R446 to R454, R482, R483) -/

/-- CASK_INSERTED (R448, R450, R454, R483). -/
def execCaskInserted (media : CaskMedia) (s : State) : StepOut :=
  if !s.aonUp ∨ s.cask.present ∨ (s.mgt.mpState ≠ 1 ∧ s.mgt.mpState ≠ 2) then .next s
  else
    let s := { s with dev := { s.dev with straps := { s.dev.straps with caskPresentN := false } } }
    let s := s.caskArrives media
    .next (s.mgtEvent 0x0883 0 s.caskStatus 0 false)

/-- Whether an operation in progress uses the Cask. -/
def MgmtOp.usesCask (o : MgmtOp) : Bool := (o.op == 0x0A || (o.op == 8 && o.f 16 1 == 0 && o.f 17 1 == 1)) && o.steps == 1

/-- CASK_REMOVED (R454): an operation in progress ends with CASK_ABSENT, a STAGE leaving its slot EMPTY; the claim stays (R483). -/
def execCaskRemoved (s : State) : StepOut :=
  if !s.aonUp ∨ !s.cask.present then .next s
  else
    let l := s.mgt.ops.filter MgmtOp.usesCask
    let s := { s with
      cask := { s.cask with present := false, media := none, identityValid := false, lifeState := 0, lifeSent := false }
      dev := { s.dev with straps := { s.dev.straps with caskPresentN := true } }
      mgt := { s.mgt with ops := s.mgt.ops.filter (fun o => !o.usesCask) } }
    let s := l.foldl (fun s o => s.opAnswer o { status := stCaskAbsent }) s
    .next ((s.syncUpdate).mgtEvent 0x0884 0 0 0 false).settle

/-- TRACE_CLAIM (R482, R483): granted on a free resource the trace port may claim, else refused. -/
def execTraceClaim (resource : Fin 16) (s : State) : StepOut :=
  if !s.aonUp then .next s
  else if 1 ≤ resource.val ∧ resource.val ≤ 3 ∧ tget 0 s.mgt.claims resource = 0 then
    .next (({ s with mgt := { s.mgt with claims := tput 0 s.mgt.claims resource 4 } }).emit (.jtag true))
  else .next (s.emit (.jtag false))

/-- TRACE_RELEASE (R482, R483). -/
def execTraceRelease (resource : Fin 16) (s : State) : StepOut :=
  if tget 0 s.mgt.claims resource = 4 then .next { s with mgt := { s.mgt with claims := tput 0 s.mgt.claims resource 0 } } else .next s

/-! ### The link, the log, the heartbeat and the sideband's address -/

/-- LINK_CHANGE (R400, R498): the status follows, the change is counted and logged; the link's return makes HI ready again. -/
def execLinkChange (up : Bool) (width speed : Fin 6) (s : State) : StepOut :=
  let w := if up then width.val else 0
  let v := if up then speed.val else 0
  if !s.aonUp ∨ s.dev.slowClockDead ∨ s.mgt.mpState = 0 ∨ !s.dev.straps.perstN ∨ (s.hi.linkUp = up ∧ s.hi.width = w ∧ s.hi.speed = v) then .next s
  else
    let changed := decide (s.hi.width ≠ w ∨ s.hi.speed ≠ v)
    let s := { s with
      hi := { s.hi with linkUp := up, pmState := 0, width := w, speed := v, linkChanges := satAdd 32 s.hi.linkChanges (b2n changed) }
      dev := { s.dev with hiReady := s.dev.hiReady || up } }
    .next (if changed then s.log logLinkChange 0 7 0xFFFF s.linkStatus else s)

/-- Whether the device is idle (R399). -/
def State.idle (s : State) : Bool :=
  s.cp.flight.isEmpty && s.cp.res.all (fun e => e.2.q.isEmpty && e.2.stalled.isEmpty) && s.hi.msix.all (fun e => !e.2.pending) && s.hi.held.isEmpty

/-- L0S_ENTRY (R398). -/
def execL0sEntry (s : State) : StepOut :=
  if s.hi.linkUp ∧ s.hi.aspm.getLsbD 0 ∧ s.hi.pmState = 0 then .next { s with hi := { s.hi with pmState := 1 } } else .next s

/-- L1_ENTRY (R398): L1, and its substates where their conditions hold; the idle device reports an LTR of 1 ms. -/
def execL1Entry (clkreqReleased : Bool) (ltrThresholdNs : Nat) (s : State) : StepOut :=
  if s.hi.linkUp ∧ s.hi.aspm.getLsbD 1 ∧ s.idle = true then
    let l11 := clkreqReleased && s.hi.aspm.getLsbD 2
    let l12 := l11 && s.hi.aspm.getLsbD 3 && decide (ltrThresholdNs ≤ 1000000)
    .next { s with hi := { s.hi with pmState := if l12 then 4 else if l11 then 3 else 2 } }
  else .next s

/-- LOG_FLUSH (R430). -/
def execLogFlush (s : State) : StepOut := if s.aonUp then .next s.flushLog else .next s

/-- A heartbeat's count of misses, and whether this miss is the tenth in succession. -/
def beat (n : Nat) (answers : Bool) : Nat × Bool := if answers then (0, false) else (min 10 (n + 1), n == 9)

/-- HEARTBEAT (R486): suspended outside READY. -/
def execHeartbeat (cpAnswers celAnswers : Bool) (s : State) : StepOut :=
  if s.dev.stage ≠ .ready ∨ s.mgt.mpState ≠ 1 then .next s
  else
    let a := beat s.dev.cpMisses cpAnswers
    let b := beat s.dev.celMisses celAnswers
    let s := { s with dev := { s.dev with
      cpMisses := a.1, celMisses := b.1, cpStalled := decide (a.1 = 10), celStalled := decide (b.1 = 10) } }
    let s := if a.2 then s.deviceFault 0 0 0 else s
    .next (if b.2 then s.deviceFault 1 1 0 else s)

/-- ENTDAA (R428): in I3C mode alone. -/
def execEntdaa (address : Fin 128) (s : State) : StepOut :=
  if s.aonUp ∧ s.dev.straps.sbMode ∧ s.mgt.dynAddr = none then .next { s with mgt := { s.mgt with dynAddr := some address.val } } else .next s

/-- SIDEBAND_RESET (R514): the sideband interface alone; an operation the MP has accepted goes on (assumption log 33). -/
def execSidebandReset (s : State) : StepOut :=
  if s.aonUp ∧ s.dev.straps.sbMode then
    .next { s with mgt := { s.mgt with dynAddr := none, sb := { op := s.mgt.sb.op, busy := s.mgt.sb.busy } } }
  else .next s

end Sys2Proof.Machine
end

