-- ==== Sys2Proof/Machine/Dram.lean ====
section
/-! DEFINITION. The DDR4 channels at work (R362 to R376, R382): reads and writes with ECC, refresh and retraining, ALERT_n, scrub, power-down and the pattern generator. -/

namespace Sys2Proof.Machine

/-! ### Requests (R364, R365, R372 to R374) -/

/-- The rank a channel offset lies in (R362). -/
def Chan.rankOf (x : Chan) (ofs : Nat) : Nat := if x.ranks = 2 then (ofs / (if x.x16 then 2 ^ 16 else 2 ^ 17)) % 2 else 0

/-- A flag of rank 0 or 1 changed. -/
def pairSet {α : Type} (p : α × α) (i : Nat) (v : α) : α × α := if i = 0 then (v, p.2) else (p.1, v)

/-- A request reaches a rank: precharge power-down ends, and the command has succeeded (R365, R372). -/
def State.touchRank (s : State) (a : Nat) : State :=
  let c := interleave s.ddr.inService a
  s.setChan c.1 (fun x => { x with powerDown := pairSet x.powerDown (x.rankOf c.2) false, replays := 0 })

/-- A poisoned delivery counted, its line recorded (R373). -/
def State.countUe (s : State) (c line : Nat) : State :=
  s.setChan c (fun x => { x with ue := satAdd 32 x.ue 1, ueAddr := some (64 * line) })

/-- What ECC makes of a read of a line: a corrected word is counted and written back, a poisoned delivery counted; a word that does not decode stays so until it is written (R373, R374; assumption log 34). -/
def State.eccRead (s : State) (line : Nat) (ecc : EccFind) : State :=
  let c := s.channelOf (64 * line)
  if ecc = .uncorrectable then (s.setPoison line true).countUe c line
  else if tget false s.mem.poison line then s.countUe c line
  else if ecc = .single then s.setChan c (fun x => { x with ce := satAdd 32 x.ce 1 })
  else s

/-- A write of up to one line; a whole line without the tag is stored clean, a shorter write leaves a poisoned line poisoned (R373, R374). -/
def State.lineWrite (s : State) (line : Nat) (data : List Byte) (poison : Bool) : State :=
  let s := s.writeRaw (64 * line) (data.take 64)
  if poison then s.setPoison line true else s

/-- A channel's next request served. -/
def State.serveReq (s : State) (r : MemReq) : State :=
  let s := s.touchRank (64 * r.line)
  match r.write with
  | none => s.eccRead r.line r.ecc
  | some (d, p) => s.lineWrite r.line d p

/-- Requests of one kind that wait at a channel. -/
def Chan.waiting (x : Chan) (write : Bool) : Nat := (x.queue.filter (fun r => r.write.isSome == write)).length

/-- A request at its channel: served, held behind a RETRAIN_HOLD while its queue has room, discarded by a FAILED channel; outside the DRAM in service it completes with an address error (R18, R363, R364, R369, R372). -/
def State.memRequest (s : State) (r : MemReq) (rackOut : Bool) : State :=
  let a := 64 * r.line
  if s.regionOf a ≠ .dram then s.emit (.addressError a)
  else
    let c := s.channelOf a
    let d := 1 + c / 4
    let x := s.chan c
    if x.st = .hold then
      if 64 ≤ x.waiting r.write.isSome then s
      else s.setChan c (fun x => { x with queue := x.queue ++ [r], rackOut := x.rackOut + b2n rackOut })
    else if x.st ≠ .ready then s
    else if (s.domAt d).st ≠ .on then s.wake d
    else
      let s := if rackOut then s.setChan c (fun x => { x with writeCrc := false }) else s
      s.serveReq r

/-- DRAM_READ (R373). -/
def execDramRead (line : Nat) (ecc : EccFind) (s : State) : StepOut := .next (s.memRequest { line := line / 64, write := none, ecc } false)

/-- DRAM_WRITE (R364, R374). -/
def execDramWrite (line : Nat) (data : List Byte) (poison : Bool) (cls : WriteClass) (s : State) : StepOut :=
  .next (s.memRequest { line := line / 64, write := some (data.take 64, poison), ecc := .clean } (decide (cls = .rackOut)))

/-! ### Refresh and retraining (R367 to R369) -/

/-- A channel enters RETRAIN_HOLD (R369, R372). -/
def Chan.enterHold (x : Chan) : Chan :=
  { x with st := .hold, holds := satAdd 16 x.holds 1, replays := 0, writeCrc := false, powerDown := (false, false) }

/-- REFRESH (R367, R368): every 128th refresh of a rank carries a centring step; a margin below 6/64 UI holds the channel. -/
def execRefresh (ch : Fin 12) (rank : Fin 2) (readMargin writeMargin : Nat) (moved : Bool) (s : State) : StepOut :=
  let x := s.chan ch
  if x.st ≠ .ready ∨ x.selfRefresh ∨ x.ranks ≤ rank.val then .next s
  else
    let n := (if rank.val = 0 then x.refreshed.1 else x.refreshed.2) + 1
    let x := { x with refreshed := pairSet x.refreshed rank.val n }
    if n % 128 ≠ 0 then .next (s.setChan ch (fun _ => x))
    else
      let m := if x.writeStep then writeMargin else readMargin
      let x := { x with
        writeStep := !x.writeStep, moves := satAdd 16 x.moves (b2n moved),
        marginW := if x.writeStep then min 255 writeMargin else x.marginW,
        marginR := if x.writeStep then x.marginR else min 255 readMargin }
      .next (s.setChan ch (fun _ => if m < 6 then x.enterHold else x))

/-- RETRAIN_HOLD_DONE (R369, R372): READY with both margins at 12/64 UI or more, and the queued requests go on; FAILED otherwise. -/
def execRetrainHoldDone (ch : Fin 12) (readMargin writeMargin : Nat) (s : State) : StepOut :=
  let x := s.chan ch
  if x.st ≠ .hold then .next s
  else
    let s := s.setChan ch (fun x => { x with
      st := .ready, marginR := min 255 readMargin, marginW := min 255 writeMargin, queue := [], rackOut := 0, patRun := false })
    if readMargin < 12 ∨ writeMargin < 12 then .next (s.failChannel ch) else .next (x.queue.foldl State.serveReq s)

/-- DRAM_TEMP_POLL (R367). -/
def execDramTempPoll (ch : Fin 12) (ranges : List (Fin 3)) (s : State) : StepOut :=
  let x := s.chan ch
  if (x.st ≠ .ready ∧ x.st ≠ .hold) ∨ x.selfRefresh then .next s
  else
    let t := (((ranges.take x.ranks).map (·.val)).max?).getD x.temp
    .next (s.setChan ch (fun x => { x with temp := t, hot := decide (t = 2) }))

/-! ### ALERT_n (R370 to R372) -/

/-- A replay from the retry buffer; a command replayed 4 times without success holds the channel. -/
def Chan.replay (x : Chan) : Chan := if 4 ≤ x.replays then x.enterHold else { x with replays := x.replays + 1 }

/-- CA_PARITY_ALERT (R370). -/
def execCaParityAlert (ch : Fin 12) (s : State) : StepOut :=
  if (s.chan ch).st ≠ .ready ∨ (s.chan ch).selfRefresh then .next s
  else .next (s.setChan ch (fun x => ({ x with parity := satAdd 16 x.parity 1 } : Chan).replay))

/-- WRITE_CRC_ALERT (R371): while write CRC is on. -/
def execWriteCrcAlert (ch : Fin 12) (s : State) : StepOut :=
  if (s.chan ch).st ≠ .ready ∨ !(s.chan ch).writeCrc then .next s
  else .next (s.setChan ch (fun x => ({ x with crc := satAdd 16 x.crc 1 } : Chan).replay))

/-- WRITE_CRC_INTERVAL_START (R371): not while a rack-out write is queued. -/
def execWriteCrcIntervalStart (ch : Fin 12) (s : State) : StepOut :=
  if (s.chan ch).st ≠ .ready ∨ (s.chan ch).selfRefresh ∨ 0 < (s.chan ch).rackOut then .next s
  else .next (s.setChan ch (fun x => { x with writeCrc := true }))

/-- WRITE_CRC_INTERVAL_END (R371). -/
def execWriteCrcIntervalEnd (ch : Fin 12) (s : State) : StepOut := .next (s.setChan ch (fun x => { x with writeCrc := false }))

/-! ### Scrub and power-down (R365, R376) -/

/-- The patrol scrub moves on past a line (R376). -/
def State.patrolNext (s : State) (a : Nat) : State := { s with ddr := { s.ddr with patrol := (a + 64) % s.dramBytes } }

/-- A line read by the patrol scrub: corrected or rewritten poisoned, and logged when it does not decode (R376). -/
def State.patrolRead (s : State) (a : Nat) (ecc : EccFind) : State :=
  let s := (s.touchRank a).eccRead (a / 64) ecc
  if ecc = .uncorrectable then s.log stDataPoisoned 1 6 (s.channelOf a) a else s

/-- PATROL_SCRUB_LINE (R376): the next line read; FAILED channels are passed over. -/
def execPatrolScrubLine (ecc : EccFind) (s : State) : StepOut :=
  if !s.ddr.scrubEnable ∨ s.dramBytes = 0 ∨ s.dev.stage ≠ .ready then .next s
  else
    let a := s.ddr.patrol % s.dramBytes
    let c := s.channelOf a
    if (s.chan c).st = .failed then .next (s.patrolNext a)
    else if (s.chan c).st ≠ .ready ∨ (s.domAt (1 + c / 4)).st ≠ .on then .next s
    else .next ((s.patrolRead a ecc).patrolNext a)

/-- PRECHARGE_POWER_DOWN (R365). -/
def execPrechargePowerDown (ch : Fin 12) (rank : Fin 2) (s : State) : StepOut :=
  let x := s.chan ch
  if x.st ≠ .ready ∨ x.selfRefresh ∨ x.ranks ≤ rank.val ∨ !x.queue.isEmpty then .next s
  else .next (s.setChan ch (fun x => { x with powerDown := pairSet x.powerDown rank.val true }))

/-! ### The pattern generator (R359, R382) -/

/-- The device address of granule q of a channel in the interleave (R361). -/
def granuleAddr (t : List Nat) (c q : Nat) : Option Nat :=
  (t.findIdx? (· == c)).map (fun j => (q * t.length + (j + t.length - q % t.length) % t.length) * 256)

/-- Bursts that a pattern has been written over: their contents are the pattern, which the spec does not give (assumption log 35). -/
def State.loseBursts (s : State) (c first n : Nat) : State :=
  (List.range ((first + n + 3) / 4 - first / 4)).foldl (fun s i =>
    let q := first / 4 + i
    match granuleAddr s.ddr.inService c q with
    | some a =>
      let lo := a + 64 * (first - 4 * q)
      s.lose lo (a + 64 * (min 4 (first + n - 4 * q)))
    | none => s) s

/-- PATGEN_GO (R382): the fields are written; GO is ignored unless the channel is TRAINING or in RETRAIN_HOLD. -/
def execPatgenGo (ch : Fin 12) (value : BitVec 32) (s : State) : StepOut :=
  let x := s.chan ch
  let s := s.setChan ch (fun x => { x with patgen := value &&& 0x1FFFFFFF })
  if !value.getLsbD 31 ∨ (x.st ≠ .training ∧ x.st ≠ .hold) then .next s
  else
    let s := s.setChan ch (fun x => { x with patRun := true, cmpDone := false, cmpErrors := 0, cmpLane := 0 })
    let op := bitsOf value.toNat 24 2
    .next (if x.st = .hold ∧ op ≠ 1 then s.loseBursts ch x.patbase.toNat (value.toNat % 2 ^ 24) else s)

/-- PATGEN_DONE (R382): a run that compares reports its mismatched bits and their lowest lane. -/
def execPatgenDone (ch : Fin 12) (errors : Nat) (firstLane : Fin 72) (s : State) : StepOut :=
  let x := s.chan ch
  if !x.patRun then .next s
  else
    let e := if bitsOf x.patgen.toNat 24 2 = 0 then 0 else min errors (2 ^ 23 - 1)
    .next (s.setChan ch (fun x => { x with patRun := false, cmpDone := true, cmpErrors := e, cmpLane := if e = 0 then 0 else firstLane.val }))

end Sys2Proof.Machine
end

