-- ==== Sys2Proof/Machine/Flags.lean ====
section
/-! DEFINITION. What instructions flag and count: saturations (R96, R98), clamps outside a code range (R56, R157), the lane unit's saturating forms and mask results (R77, R518). -/

namespace Sys2Proof.Machine

/-- A value saturated to a range, with whether it left the range (R96, R98). -/
def saturate (r : Int × Int) (v : Int) : Int × Bool := (clampI r.1 r.2 v, decide (v < r.1 ∨ r.2 < v))

/-- Whether a code before the clamp lies outside the code range of its group's depth (R157). -/
def outsideRange (unsigned : Bool) (d : Nat) (q : Int) : Bool := (saturate (codeRange unsigned d) q).2

/-- A count that saturates at 2^24 − 1 (R157). -/
def clampAdd (n k : Nat) : Nat := satAdd 24 n k

/-- The signed value of a lane. -/
def laneS (v : BitVec 16) : Int := v.toInt
/-- The unsigned value of a lane. -/
def laneU (v : BitVec 16) : Int := (v.toNat : Int)
/-- A lane's value, signed unless MOD bit 0 is set (R151). -/
def laneVal (unsigned : Bool) (v : BitVec 16) : Int := if unsigned then laneU v else laneS v

/-- A saturating 16-bit result (R77: ADDS, SUBS). -/
def laneSat (unsigned : Bool) (v : Int) : BitVec 16 :=
  if unsigned then BitVec.ofInt 16 (clampI 0 65535 v) else BitVec.ofInt 16 (clampI (-32768) 32767 v)

/-- The mask after a compare: a bit is kept only where it was set and the comparison holds (R518). -/
def maskCompare (mask : BitVec 64) (holds : Nat → Bool) : BitVec 64 :=
  BitVec.ofNat 64 (packBits ((List.range 64).map (fun i => mask.getLsbD i && holds i)))

end Sys2Proof.Machine
end

