-- ==== Sys2Proof/Machine/Tile.lean ====
section
/-! DEFINITION. The tile sequencer's instructions (R15, R149, R150) on the arrays, prologues and epilogues of a core: reads and passes (R34, R35, R59 to R71, R93 to R97, R113 to R117, R121), flushes (R36, R40, R98 to R109, R120, R124, R157, R159), and the writes that land (R44, R63, R75).
A command runs the instruction it names when that is the next word of the quire its core runs; else nothing happens. -/

namespace Sys2Proof.Machine

/-! ### The next instruction (R15) -/

/-- The running quire of a core whose next instruction is the word, with its image and header. -/
def State.atInst (s : State) (n w : Nat) : Option (Active × List Byte × QHdr) :=
  match (s.coreAt n).active with
  | none => none
  | some a =>
    let img := s.runImage a.run
    let h := qhdr img a.quire
    if a.ended || decide (h.codeLen ≤ a.pc) || qinst img h a.pc != w then none else some (a, img, h)

/-- The running quire of a core changed. -/
def State.setActive (s : State) (n : Nat) (f : Active → Active) : State :=
  s.setCore n (fun c => { c with active := c.active.map f })

/-- The instruction taken: the next one follows, after the cycles its rules count and those it waits, its bank waits counted (R73, R88, R156; assumption log 13). -/
def State.tick (s : State) (n cycles : Nat) : State :=
  let k := (s.coreAt n).instrs
  let s := s.setCore n (fun c => { c with instrs := k + 1, stalls := satAdd 32 c.stalls (Config.bankWaits n k) })
  s.setActive n (fun a => { a with pc := a.pc + 1, cycles := min 0xFFFFFFFF (a.cycles + cycles + Config.instrWaits n k) })

/-- Whether ranges meet a write of the core that is not yet in its store: the instruction waits (R63). -/
def State.blocked (s : State) (n : Nat) (ranges : List (Nat × Nat)) : Bool :=
  (s.coreAt n).writes.any (fun w => w.segs.any (fun g => ranges.any (fun r => meets g.1 g.2.length r.1 r.2)))

/-- Whether any line of some ranges is poisoned (R74). -/
def State.anyPoison (s : State) (ranges : List (Nat × Nat)) : Bool := ranges.any (fun r => (s.firstPoison r.1 r.2).isSome)

/-- Binding i of the running quire. -/
def Active.bind (a : Active) (i : Nat) : Binding :=
  a.bindings.getD i { valid := false, decoded := false, tensor := 0, extent := 0, stride := 0, base := 0, dst := 0, e := 0, num := 0, zmap := 0 }

/-! ### Sources of a slot (R93, R113 to R116, R150) -/

/-- The chain of a slot's source, none where the passes read planes straight from the store (R90, R149). -/
def srcChain (img : List Byte) (h : QHdr) (src : SlotSrc) : Option ChainD :=
  if src.chain = 0xFF then none
  else
    let c := chainD img (h.chainBase + src.chain)
    if c.bypass then none else some c

/-- Contraction indices of one block of a tensor: 512 for S2 (R65). -/
def blockLen (d : TDecl) : Nat := if d.form = 2 then 512 else 256

/-- For each position of a slot's tile in block b: the stored position and the first channel, none for padding (R93, R114, R115, R150).
DESIGN CHOICE (log 55): entry P0 + j of the gather list serves tile position j. -/
def State.tileSources (s : State) (img : List Byte) (h : QHdr) (a : Active) (slot : Nat) (src : SlotSrc) (b : Nat) : List (Option (Nat × Nat)) :=
  let k := blockLen (tdecl img (a.bind src.binding).tensor)
  let plain := fun (j : Nat) =>
    match tget none a.geom slot with
    | some (g, true) => ((geomD img g).position b (src.p0 + j)).map (fun p => (p, b % (geomD img g).nb * k))
    | _ => some (src.p0 + j, b * k)
  match srcChain img h src with
  | some c =>
    if c.gather then (List.range src.p).map (fun j =>
      let v := leNat (s.bytesAt ((a.bind c.bGather).base + 4 * (src.p0 + j)) 4)
      if v = 0xFFFFFFFF then none else some (v, b * k))
    else (List.range src.p).map plain
  | none => (List.range src.p).map plain

/-- The byte address of an element of a plane of a binding (R28, R116). -/
def elemAddr (b : Binding) (d : TDecl) (p pos ch : Nat) : Nat := b.place + p * b.stride + pos * d.ps + ch * d.digitBits / 8

/-- The digit of an element in a plane (R28). -/
def State.digitAt (s : State) (b : Binding) (d : TDecl) (p pos ch : Nat) : Nat :=
  bitsOf (s.byteAt (elemAddr b d p pos ch)).toNat (ch * d.digitBits % 8) d.digitBits

/-- The stored code of an element (R27, R30, R42). -/
def State.codeAt (s : State) (img : List Byte) (b : Binding) (d : TDecl) (pos ch : Nat) : Int :=
  if d.form = 2 then s2d (s.digitAt b d 0 pos ch)
  else recompose (decide (d.form = 1)) ((List.range (chanDepth img d ch)).map (fun p => s.digitAt b d p pos ch))

/-- The operand of an element read straight from plane p: 0 beyond the channels or positions and in an absent plane (R34, R42, R114). -/
def State.directOperand (s : State) (img : List Byte) (b : Binding) (d : TDecl) (p pos ch : Nat) : Int :=
  if d.channels ≤ ch ∨ d.positions ≤ pos ∨ chanDepth img d ch ≤ p then 0
  else digitOperand d.form p (s.digitAt b d p pos ch) (zeroDigit img d ch p)

/-! ### The prologue (R93 to R97, R103, R105, R109) -/

/-- The 16 bytes of a side-vector entry. -/
def State.sideBytes (s : State) (a : Active) (bind pos : Nat) : List Byte := s.bytesAt ((a.bind bind).place + 16 * pos) 16

/-- The split-equivalent parameters of a chain: intermediate planes, unsigned form, the sweep's s, clamp bounds (R109, R145). -/
def splitParams (img : List Byte) (c : ChainD) : Nat × Bool × Nat × Int × Int :=
  (leAt img c.splitOfs 1, decide (leAt img (c.splitOfs + 1) 1 = 1), leAt img (c.splitOfs + 2) 1,
   toSigned 32 (leAt img (c.splitOfs + 4) 4), toSigned 32 (leAt img (c.splitOfs + 8) 4))

/-- l at the final m, from the row's stored codes (R109: F5). -/
def State.finalL (s : State) (img : List Byte) (b : Binding) (d : TDecl) (pos k : Nat) (m : Int) : Nat :=
  ((List.range d.channels).map (fun ch =>
    exp2n (exp2nArg (m - operandValue img d ch (s.codeAt img b d pos ch))) / 2 ^ k)).sum

/-- The row factors P, S, D of a position's entry (R105); split-equivalent SOFTMAX forms l anew (R109). -/
def State.factorsAt (s : State) (img : List Byte) (a : Active) (c : ChainD) (b : Binding) (d : TDecl) (pos : Nat) : Int × Int × Int :=
  let entry := s.sideBytes a c.bProSide pos
  if c.splitEq ∧ c.norm = 1 then
    (1, 0, max 1 (s.finalL img b d pos c.softmaxK (toSigned 32 (leAt entry 0 4)) : Nat))
  else rowFactors c.norm d.channels c.normE entry

/-- An element after steps 2 to 4 of the prologue, and whether split-equivalent mode saturated it (R94, R95, R103), with the truncations of split-equivalent mode:
F2 saturates at the intermediate's planes, F3 and F4 compute the sweep's normalised conversion (R109).
DESIGN CHOICE (log 56): g = 1, b = 0 and the zero points of PRO_ZERO_OFS in that conversion, none of which the split record holds; F2's intermediate has zero point 0. -/
def State.proValue (s : State) (img : List Byte) (a : Active) (c : ChainD) (b : Binding) (d : TDecl) (pos ch i : Nat) : Int × Bool :=
  let q := s.codeAt img b d pos ch
  let r := operandValue img d ch q
  let x := match c.norm with
    | 0 => proAct img c r q
    | 1 => ((exp2n (exp2nArg (toSigned 32 (leAt (s.sideBytes a c.bProSide pos) 0 4) - r)) / 2 ^ c.softmaxK : Nat) : Int)
    | _ => r
  if !c.splitEq then (x, false)
  else
    let (ni, un, sh, lo, hi) := splitParams img c
    let rng := codeRange un ni
    if c.norm = 0 then (if c.proAct = 0 then (x, false) else (clampI rng.1 rng.2 x, decide (clampI rng.1 rng.2 x ≠ x)))
    else
      let f := s.factorsAt img a c b d pos
      let z : Int := proZero img c i
      (clampI rng.1 rng.2 (clampI lo hi (normQuotient x f.1 f.2.1 1 1 0 f.2.2 c.normA sh + z)) - z, false)

/-- Step 5 of the prologue: the code of the element at contraction index i, its zero point and whether it was saturated, here or before (R96, R109). -/
def proSplit (img : List Byte) (c : ChainD) (i : Nat) (x : Int × Bool) : Int × Nat × Bool :=
  let zp := proZero img c i
  let r := codeRange (chainUnsigned img c) (chainPlanes img c)
  let v := x.1 + (zp : Int)
  (clampI r.1 r.2 v, zp, x.2 || decide (v < r.1 ∨ r.2 < v))

/-- One staged element of a slot's tile: stored position and channel, exchanged by a transposition (R93); none where nothing is stored.
DESIGN CHOICE (log 55): with a gather and a transposition the list's entry is the stored channel that the tile position becomes. -/
def State.stagedElem (s : State) (img : List Byte) (a : Active) (c : ChainD) (b : Binding) (d : TDecl) (pos ch : Nat) : Option (Int × Nat × Bool) :=
  let pc := if c.transpose then (ch, pos) else (pos, ch)
  if d.positions ≤ pc.1 ∨ d.channels ≤ pc.2 then none
  else some (proSplit img c ch (s.proValue img a c b d pc.1 pc.2 ch))

/-- The operand a staged element gives in plane p (R34, R96). -/
def stagedOperand (img : List Byte) (c : ChainD) (p : Nat) (e : Int × Nat × Bool) : Int :=
  let n := chainPlanes img c
  digitOperand (b2n (chainUnsigned img c)) p (digitOf e.1 n p) (digitOf (e.2.1 : Nat) n p)

/-! ### Reads of a tile: ranges, cost (R62, R74, R93, R116) -/

/-- The byte ranges a slot's tile reads for a pass: one plane's segments, or every plane and the side entries under a prologue, and the whole rows that split-equivalent SOFTMAX reads once more (R109: F5). -/
def State.tileRanges (s : State) (img : List Byte) (h : QHdr) (a : Active) (slot : Nat) (src : SlotSrc) (blk : Nat) : List (Nat × Nat) :=
  let b := a.bind src.binding
  let d := tdecl img b.tensor
  let seg := fun (p pos ch n : Nat) => (elemAddr b d p pos ch, (n * d.digitBits + 7) / 8)
  let cut := fun (ch : Nat) => min (blockLen d) (d.channels - ch)
  let l := (s.tileSources img h a slot src blk).filterMap id
  match srcChain img h src with
  | none => l.map (fun e => seg src.plane e.1 e.2 (cut e.2))
  | some c =>
    (List.range d.planes).flatMap (fun p => l.flatMap (fun e =>
      if c.transpose then (List.range (min 256 (d.positions - e.2))).map (fun k => seg p (e.2 + k) e.1 1)
      else [seg p e.1 e.2 (cut e.2)])) ++
    (if c.norm = 0 then [] else l.map (fun e => ((a.bind c.bProSide).place + 16 * e.1, 16))) ++
    (if c.splitEq ∧ c.norm = 1 then (List.range d.planes).flatMap (fun p => l.map (fun e => seg p e.1 0 d.channels)) else []) ++
    (if c.gather then [((a.bind c.bGather).base + 4 * src.p0, 4 * src.p)] else [])

/-- Cycles a slot's input is busy with a tile: P, or under window reads the sum of its positions' costs (R62, R116). -/
def State.tileCycles (s : State) (img : List Byte) (h : QHdr) (a : Active) (slot : Nat) (src : SlotSrc) (blk : Nat) : Nat :=
  match tget none a.geom slot, srcChain img h src with
  | some (_, true), none =>
    let b := a.bind src.binding
    let d := tdecl img b.tensor
    ((s.tileSources img h a slot src blk).map (fun o => match o with
      | none => 1
      | some e =>
        let lo := elemAddr b d src.plane e.1 e.2
        let n := (min (blockLen d) (d.channels - e.2) * d.digitBits + 7) / 8
        if n = 0 then 0 else ((lo + n + 63) / 64 - lo / 64 + 1) / 2)).sum
  | _, _ => src.p

/-! ### Skips (R44, R66, R96, R117) -/

/-- The operands of a slot's tile in its plane, by position and contraction index; checksum mode ignores index 255 (R68). -/
def State.tileOperands (s : State) (img : List Byte) (h : QHdr) (a : Active) (slot : Nat) (src : SlotSrc) (blk : Nat) : List (List Int) :=
  let b := a.bind src.binding
  let d := tdecl img b.tensor
  let k := if h.checksum then 255 else blockLen d
  (s.tileSources img h a slot src blk).map (fun o =>
    match o with
    | none => []
    | some e => (List.range k).map (fun i =>
      match srcChain img h src with
      | none => s.directOperand img b d src.plane e.1 (e.2 + i)
      | some c => ((s.stagedElem img a c b d e.1 (e.2 + i)).map (stagedOperand img c src.plane)).getD 0))

/-- Saturations of step 5 in a staged tile (R96). -/
def State.tileSats (s : State) (img : List Byte) (h : QHdr) (a : Active) (slot : Nat) (src : SlotSrc) (blk : Nat) : Nat :=
  match srcChain img h src with
  | none => 0
  | some c =>
    let b := a.bind src.binding
    let d := tdecl img b.tensor
    let k := if h.checksum then 255 else blockLen d
    ((s.tileSources img h a slot src blk).map (fun o =>
      match o with
      | none => 0
      | some e => ((List.range k).filter (fun i =>
          (s.stagedElem img a c b d e.1 (e.2 + i)).any (fun x => x.2.2))).length)).sum

/-- Whether a slot does not enter a pass: its residual plane is recorded as zero in every stored tile it reads, or the staged tile's plane is zero (R66, R96, R117). -/
def State.slotSkips (s : State) (img : List Byte) (h : QHdr) (a : Active) (slot : Nat) (src : SlotSrc) (blk : Nat) : Bool :=
  let b := a.bind src.binding
  if src.plane = 0 then false
  else match srcChain img h src with
    | none => !b.decoded && (s.tileSources img h a slot src blk).all (fun o =>
        match o with
        | none => true
        | some e => s.mem.zero.contains (b.num, src.plane, e.2 / 256, e.1 / 64))
    | some _ => (s.tileOperands img h a slot src blk).all (fun r => r.all (· == 0))

/-! ### The staging buffers (R96, R97) -/

/-- The tile a slot stages for a block. -/
def Active.stagedKey (a : Active) (slot : Nat) (src : SlotSrc) (blk : Nat) : Staged :=
  { slot, src := { src with plane := 0 }, geom := tget none a.geom slot, block := blk }

/-- The slots behind a prologue whose tile for a block is in no staging buffer: step 1 reads it now (R97). -/
def Active.fresh (a : Active) (img : List Byte) (h : QHdr) (slots : List (Nat × SlotSrc)) (blk : Nat) : List (Nat × SlotSrc) :=
  slots.filter (fun e => (srcChain img h e.2).isSome && !a.staged.contains (a.stagedKey e.1 e.2 blk))

/-- The latest two tiles of each prologue, oldest first (R97; log 57: the older of the two gives way). -/
def latestTwo (arr : Nat → Nat) (l : List Staged) : List Staged :=
  (l.zipIdx.filter (fun e => decide (((l.drop (e.2 + 1)).filter (fun x => arr x.slot == arr e.1.slot)).length < 2))).map (·.1)

/-- The ranges that stopping a quire for poison looks at: what step 1 reads of tiles not yet staged, whether or not their slots then skip, and what the slots without a prologue stream (R74, R93). -/
def State.readsNow (s : State) (img : List Byte) (h : QHdr) (a : Active) (slots run : List (Nat × SlotSrc)) (blk : Nat) : List (Nat × Nat) :=
  (a.fresh img h slots blk ++ run.filter (fun e => (srcChain img h e.2).isNone)).flatMap (fun e => s.tileRanges img h a e.1 e.2 blk)

/-- The tiles of a block staged, each saturated element of step 5 counted once (R96, R97). -/
def State.stageTiles (s : State) (n : Nat) (img : List Byte) (h : QHdr) (a : Active) (slots : List (Nat × SlotSrc)) (blk : Nat) : State :=
  let new := a.fresh img h slots blk
  let sats := (new.map (fun e => s.tileSats img h a e.1 e.2 blk)).sum
  let c := s.coreAt n
  let arr := fun (i : Nat) => if c.arrays = 2 then i % 2 else i
  s.setActive n (fun x => { x with
    satPro := min 0xFFFFFFFF (x.satPro + sats),
    staged := latestTwo arr (x.staged ++ new.map (fun e => a.stagedKey e.1 e.2 blk)) })

/-- A write issued drops the staged tiles whose sources it meets: a later pass reads them again (R63, R97). -/
def State.dropStaged (s : State) (n : Nat) (segs : List (Nat × List Byte)) : State :=
  match (s.coreAt n).active with
  | none => s
  | some a =>
    let img := s.runImage a.run
    let h := qhdr img a.quire
    s.setActive n (fun x => { x with staged := a.staged.filter (fun t =>
      !(s.tileRanges img h { a with geom := tput none a.geom t.slot t.geom } t.slot t.src t.block).any (fun r =>
        segs.any (fun g => meets g.1 g.2.length r.1 r.2))) })

/-! ### Weights (R58, R59, R62, R65, R68, R121) -/

/-- Bytes of a weight tile: 32 KiB, or 128 × g of a diagonal one. -/
def WTile.bytes (t : WTile) : Nat := if t.diag = 0 then 32768 else 128 * 2 ^ (t.diag - 1)

/-- Cycles a weight tile takes to load (R62, R122). -/
def WTile.cycles (t : WTile) : Nat := if t.diag = 0 then 64 else ceilDiv (2 ^ (t.diag - 1)) 4

/-- Where a weight tile starts. -/
def wtileAddr (a : Active) (t : WTile) : Nat := (a.bind t.binding).place + t.plane * (a.bind t.binding).stride + 64 * t.offset

/-- The operand of row r and column c from the bytes of a tile (R34, R65, R121). -/
def WTile.weightIn (t : WTile) (bytes : Array Byte) (r c : Nat) : Int :=
  let g := 2 ^ (t.diag - 1)
  let el := if t.diag = 0 then r * 256 + c else r / g * (g * g) + r % g * g + c % g
  if t.diag ≠ 0 ∧ r / g ≠ c / g then 0
  else
    let bits := if t.s2 then 2 else 4
    let dig := bitsOf (bytes.getD (el * bits / 8) 0).toNat (el * bits % 8) bits
    if bits = 2 then s2d dig else digitOperand 0 t.plane dig 0

/-- The weight operand the cells of row r and column c hold (R58, R62). -/
def WTile.weightAt (t : WTile) (r c : Nat) : Int := t.weightIn t.digits.toArray r c

/-! ### Passes (R35, R64, R66, R67, R70) -/

/-- Place of a bank's sum: slot, bank, position, column. -/
def bankKey (slot bank pos col : Nat) : Nat := ((2 * slot + bank) * 64 + pos) * 256 + col

/-- The column sums of one tile added into a bank (R35). -/
def State.addTile (s : State) (n slot bank : Nat) (t : WTile) (cols : Nat) (rows : List (List Int)) : State :=
  let dg := t.digits.toArray
  let sums : List (Nat × Int) := rows.zipIdx.flatMap (fun r =>
    let xs := (r.1.zipIdx).filter (fun x => decide (x.1 ≠ 0))
    if xs.isEmpty then []
    else (List.range cols).map (fun c => (bankKey slot bank r.2 c, (xs.map (fun x => x.1 * t.weightIn dg x.2 c)).sum)))
  s.setCore n (fun c => { c with banks := sums.foldl (fun (b : Tbl Int) (e : Nat × Int) => if e.2 = 0 then b else tput 0 b e.1 (tget 0 b e.1 + e.2)) c.banks })

/-- The array a slot runs on (R59, R67). -/
def Core.arrayOf (c : Core) (slot : Nat) : Nat :=
  if c.arrays = 2 then (bitList 4 c.enabled).getD (slot % 2) 0 else slot

/-- What the faults of a slot's pass add to its sums. -/
def faultSum (faults : List CellFault) (slot : Nat) (operand : Bool) (pos index : Nat) : Int :=
  ((faults.filter (fun e => decide (e.slot.val = slot) && decide (e.operand = operand) && decide (e.pos.val = pos) && decide (e.index.val = index))).map (·.error)).sum

/-- The mismatches of a slot's pass in checksum mode, as whether it is the row check and the position (R69): ŵ[r] in column 255 and â[j] in row 255,
each comparison modulo 15. -/
def checkSlot (t : WTile) (slot : Nat) (rows : List (List Int)) (faults : List CellFault) : List (Bool × Nat) :=
  let dg := t.digits.toArray
  let check := (List.range 255).map (fun r => ((List.range 255).map (fun c => t.weightIn dg r c)).sum % 15)
  rows.zipIdx.flatMap (fun e =>
    let xs := e.1.take 255
    let sum := fun (c : Nat) => (xs.zipIdx.map (fun x => x.1 * t.weightIn dg x.2 c)).sum + faultSum faults slot false e.2 c
    let last := ((xs.zip check).map (fun x => x.1 * x.2)).sum + faultSum faults slot false e.2 255
    let col := (last - ((List.range 255).map sum).sum) % 15
    let rowIn := xs.sum % 15 + faultSum faults slot true e.2 255
    let row := ((xs.zipIdx.map (fun x => x.1 + faultSum faults slot true e.2 x.2)).sum - rowIn) % 15
    (if col ≠ 0 then [(false, e.2)] else []) ++ (if row ≠ 0 then [(true, e.2)] else []))

/-- The faults of a slot's column sums, added into its bank (R69). -/
def State.addFaults (s : State) (n slot bank cols : Nat) (faults : List CellFault) : State :=
  let mine := faults.filter (fun e => decide (e.slot.val = slot) && !e.operand && decide (e.index.val < cols))
  s.setCore n (fun c => { c with banks := mine.foldl (fun b e => tmod 0 b (bankKey slot bank e.pos e.index) (fun v => v + e.error)) c.banks })

/-- A mismatch of checksum mode recorded (R70, R71, R85, R86): arrays, whether the row check failed, the lowest position. -/
def State.recordCheck (s : State) (n : Nat) (l : List (Nat × Bool × Nat)) : State :=
  let arrays := (List.range 4).filter (fun i => l.any (fun e => e.1 == i))
  let bits := fun (row : Bool) => BitVec.ofNat 4 (packBits ((List.range 4).map (fun i => l.any (fun e => e.1 == i && e.2.1 == row))))
  let first := arrays.headD 0
  let mine := l.filter (fun e => e.1 == first)
  let pos := (mine.map (fun e => e.2.2)).foldl min 63
  s.setCore n (fun c => { c with
    rowFail := c.rowFail ||| bits true, colFail := c.colFail ||| bits false,
    checkCount := satAdd 16 c.checkCount arrays.length,
    checkLast := some (first, mine.all (fun e => e.2.1), pos),
    mismatches := arrays.foldl (fun t i => tmod 0 t i (· + 1)) c.mismatches })

/-- The slots of a mask with their sources. -/
def maskSlots (a : Active) (mask : Nat) : List (Nat × SlotSrc) :=
  (bitList 4 mask).filterMap (fun i => (tget none a.src i).map (fun x => (i, x)))

/-- Cycles of a pass: its slots run at once, or in two halves on a 2-array core, the first under the new weight tile for at least the cycles of its load whether or not L0 or L1 runs (R62, R67). -/
def passCycles (two : Bool) (load : Nat) (l : List (Nat × Nat)) : Nat :=
  let m := fun (x : List (Nat × Nat)) => (x.map (·.2)).foldl max 0
  if two then max load (m (l.filter (fun e => decide (e.1 < 2)))) + m (l.filter (fun e => decide (2 ≤ e.1))) else m l

/-! ### The instructions CTRL, GEOM, WLOAD and SLOT (R149, R150) -/

/-- CTRL NOP. -/
def execCtrlNop (core : Fin 8) (s : State) : Host.Outcome State Fault Refusal :=
  if (s.atInst core wNop).isSome then .next (s.tick core 1) else .next s

/-- FENCE: waits until every earlier write of the quire is in the core store. -/
def execFence (core : Fin 8) (s : State) : Host.Outcome State Fault Refusal :=
  if (s.atInst core wFence).isSome ∧ (s.coreAt core).writes = [] then .next (s.tick core 1) else .next s

/-- MARK: the value goes into the completion record (R156). -/
def execMark (core : Fin 8) (value : BitVec 32) (s : State) : Host.Outcome State Fault Refusal :=
  if (s.atInst core (wMark value.toNat)).isSome then .next ((s.tick core 1).setActive core (fun a => { a with mark := value.toNat }))
  else .next s

/-- GEOM: read mode and geometry of each slot of the mask, until the next GEOM that names it. -/
def execGeom (core : Fin 8) (slotMask : BitVec 4) (index : Fin 4096) (window : Bool) (s : State) : Host.Outcome State Fault Refusal :=
  if (s.atInst core (wGeom slotMask.toNat index window)).isSome then
    let ms := bitList 4 slotMask.toNat
    .next ((s.tick core 1).setActive core (fun a => { a with
      geom := ms.foldl (fun t i => tput none t i (some (index.val, window))) a.geom }))
  else .next s

/-- WLOAD: the tile joins those the weight loader delivers into the shadow registers, one after another (R62).
It waits for outstanding writes to its range, and holds what the store then holds there: a quire is correct in any instruction order (R63; log 54). -/
def execWload (core : Fin 8) (binding : Fin 256) (plane : Fin 4) (diag : Fin 8) (s2 : Bool) (offset : Fin 16777216) (ecc : List StoreError) (s : State) :
    Host.Outcome State Fault Refusal :=
  match s.atInst core (wWload binding plane diag s2 offset) with
  | none => .next s
  | some (a, _, _) =>
    let t : WTile := { binding, plane, diag, s2, offset, loaded := false }
    let r := [(wtileAddr a t, t.bytes)]
    if s.blocked core r then .next s
    else
      let s := s.eccFound core r ecc
      .next ((s.tick core 1).setActive core (fun a => { a with
        shadow := a.shadow ++ [{ t with digits := s.bytesAt (wtileAddr a t) t.bytes, poisoned := s.anyPoison r }] }))

/-- WEIGHT_SHADOW_LOADED: the next tile is in the shadow registers (R62). -/
def execWeightShadowLoaded (core : Fin 8) (s : State) : Host.Outcome State Fault Refusal :=
  .next (s.setActive core (fun a => { a with shadow := match a.shadow with
    | [] => []
    | t :: ts => { t with loaded := true } :: ts }))

/-- SLOT: a slot's source, until the next SLOT for that slot. -/
def execSlot (core : Fin 8) (slot : Fin 4) (binding : Fin 256) (plane : Fin 4) (p : Fin 64) (chain : Fin 256) (p0 : BitVec 32) (s : State) :
    Host.Outcome State Fault Refusal :=
  if (s.atInst core (wSlot slot binding plane p chain p0.toNat)).isSome then
    .next ((s.tick core 1).setActive core (fun a => { a with
      src := tput none a.src slot (some { binding, plane, p := p.val + 1, chain, p0 := p0.toNat }) }))
  else .next s

/-! ### PASS (R62, R64, R66 to R71) -/

/-- A pass of the slots that run, with its saturations, cycles and counts (R35, R66, R69, R88, R96, R156). -/
def State.runPass (s : State) (n : Nat) (img : List Byte) (h : QHdr) (a : Active) (tile : WTile) (neww bank : Bool) (blk : Nat)
    (run skip : List (Nat × SlotSrc)) (faults : List CellFault) : State :=
  let two := decide ((s.coreAt n).arrays = 2)
  let cols := if h.checksum then 255 else 256
  let cyc := run.map (fun e =>
    let c := s.tileCycles img h a e.1 e.2 blk
    (e.1, if neww && (!two || decide (e.1 < 2)) then max c tile.cycles else c))
  let s := run.foldl (fun s e => (s.addTile n e.1 (b2n bank) tile cols (s.tileOperands img h a e.1 e.2 blk)).addFaults n e.1 (b2n bank) cols faults) s
  let s := s.setActive n (fun a => { a with
    slotPasses := min 0xFFFFFFFF (a.slotPasses + run.length), skipped := min 0xFFFFFFFF (a.skipped + skip.length),
    arrayCycles := a.arrayCycles + (cyc.map (·.2)).sum })
  let s := s.setCore n (fun c => { c with passes := wrapAdd c.passes run.length, skips := wrapAdd c.skips skip.length })
  s.tick n (if run.isEmpty then 0 else passCycles two (if neww then tile.cycles else 0) cyc)

/-- The mismatches of a pass by array, in checksum mode: a slot in which no fault falls has none (R69). -/
def State.passChecks (s : State) (n : Nat) (img : List Byte) (h : QHdr) (a : Active) (tile : WTile) (blk : Nat) (run : List (Nat × SlotSrc))
    (faults : List CellFault) : List (Nat × Bool × Nat) :=
  if !h.checksum then []
  else (run.filter (fun e => faults.any (fun x => decide (x.slot.val = e.1)))).flatMap (fun e =>
    (checkSlot tile e.1 (s.tileOperands img h a e.1 e.2 blk) faults).map (fun m => ((s.coreAt n).arrayOf e.1, m)))

/-- Whether a pass waits: a write of what it reads is outstanding (R63), a new tile that it runs against is not in the shadow registers yet (R62), or the core has a completion record to give. -/
def State.passWaits (s : State) (n : Nat) (img : List Byte) (h : QHdr) (a : Active) (neww : Bool) (blk : Nat) (slots run : List (Nat × SlotSrc)) : Bool :=
  s.blocked n (slots.flatMap (fun e => s.tileRanges img h a e.1 e.2 blk)) || (neww && !run.isEmpty && !a.shadow.head?.any (·.loaded)) ||
  (s.coreAt n).done.isSome

/-- A pass begins: a new tile becomes the active one, and the banks it opens are open. -/
def State.beginPass (s : State) (n : Nat) (neww opening bank : Bool) (slots : List (Nat × SlotSrc)) : State :=
  s.setActive n (fun a => { a with
    weight := if neww then a.shadow.head? else a.weight, shadow := if neww then a.shadow.drop 1 else a.shadow,
    opened := if opening then slots.foldl (fun l e => setAdd l (2 * e.1 + b2n bank)) a.opened else a.opened })

/-- PASS: the slots of the mask stream their tiles of block b against the active weight tile, a new one first when NEWW says so.
It waits for a write it reads and for the shadow tile; a poisoned line or a checksum mismatch stops the quire.
DEDUCED (log 58): the tile of a NEWW pass becomes the active one for later passes also when every slot skips and it is not loaded (R46, R66). -/
def execPass (core : Fin 8) (slotMask : BitVec 4) (neww : Bool) (bank : Bool) (opening : Bool) (block : Fin 512)
    (faults : List CellFault) (ecc : List StoreError) (s : State) : Host.Outcome State Fault Refusal :=
  let n := core.val
  match s.atInst n (wPass slotMask.toNat neww bank opening block) with
  | none => .next s
  | some (a, img, h) =>
    let slots := maskSlots a slotMask.toNat
    let skip := slots.filter (fun e => s.slotSkips img h a e.1 e.2 block)
    let run := slots.filter (fun e => !s.slotSkips img h a e.1 e.2 block)
    if s.passWaits n img h a neww block slots run then .next s
    else
      let s := s.beginPass n neww opening bank slots
      let reads := s.readsNow img h a slots run block
      let s := s.eccFound n reads ecc
      match if neww then a.shadow.head? else a.weight with
      | none => .next (s.tick n 1)
      | some t =>
        let bad := s.passChecks n img h a t block run faults
        let s := if bad.isEmpty then s else s.recordCheck n bad
        if s.anyPoison reads || (!run.isEmpty && t.poisoned) then .next (s.stopQuire n 2)
        else if !bad.isEmpty then .next (s.stopQuire n 1)
        else .next ((s.stageTiles n img h a slots block).runPass n img h a t neww bank block run skip faults)

/-! ### The epilogue (R36, R40, R98 to R109, R120, R157, R159) -/

/-- One converted element: its code after step 7, its reduced value, whether step 7 saturated it, whether it counts as clamped, and its value at exponent 0. -/
structure EpiElem where
  code : Int
  red : Int
  sat : Bool
  clamped : Bool
  stat : Int

/-- The range of a group's codes in a tensor's form (R27, R30). -/
def formRange (d : TDecl) (dep : Nat) : Int × Int := if d.form = 2 then (-2, 1) else codeRange (decide (d.form = 1)) dep

/-- The depth in which a flush or a lane writes channel ch: a measured-mode intermediate has every plane of its four (R54). -/
def writeDepth (img : List Byte) (d : TDecl) (ch : Nat) : Nat :=
  if d.measured then 4 else if d.form = 2 then 1 else chanDepth img d ch

/-- Steps 6 and 7 for one element of channel ch (R40, R54, R98, R106, R109, R157, R159): y the accumulator, f the row factors of a normalised conversion, eOut and eIn the exponents.
DESIGN CHOICE (log 56): at F1 the conversion to n_i shifts by s_c + e + 4(n − n_i), z_c is scaled to n_i, the clamp bounds of the split record apply before the function,
and a measured-mode intermediate takes the function once, on its own sixteen bits. -/
def epiElem (img : List Byte) (c : ChainD) (d : TDecl) (ch : Nat) (y : Int) (f : Option (Int × Int × Int)) (eOut eIn : Nat) (sweep : Bool) : EpiElem :=
  let n := d.planes
  let dep := if d.form = 2 then 1 else chanDepth img d ch
  let rc := chanRec img c ch
  let w := if sweep then 1 else rc.w
  let z := if d.form = 1 then rc.z else 0
  let zq := zeroAt z n dep
  let quot := fun (sh : Nat) => match f with
    | some (p, sr, dj) => normQuotient y p sr w rc.g rc.b dj c.normA sh
    | none => truncShift y sh
  let rng := formRange d dep
  let lim := if d.form = 2 ∧ c.groupOfs = 0 then rng else groupBounds img c (decide (d.form = 1)) dep (ch / 16)
  let e : Int := (if d.scaleMode = 1 then (eOut : Int) else 0) - eIn
  let stat := clampI (-(2 ^ 31)) (2 ^ 31 - 1) (quot (convShift rc.s (-(eIn : Int)) n n))
  let done := fun (q raw : Int) (early : Bool) =>
    let sat := clampI rng.1 rng.2 q
    ({ code := sat, red := (sat - zq) * 16 ^ (n - dep), sat := early || decide (sat ≠ q),
       clamped := decide (raw < rng.1 ∨ rng.2 < raw), stat } : EpiElem)
  if d.measured then
    let raw := quot (convShift rc.s e n n)
    let q := epiAct img c (clampI (-32767) 32767 raw) 0
    let v := clampI (-32767) 32767 q
    { code := v, red := v, sat := decide (v ≠ q), clamped := decide (raw < -32767 ∨ 32767 < raw), stat }
  else if c.splitEq ∧ c.epiAct ≠ 0 then
    let (ni, un, _, lo, hi) := splitParams img c
    let zi := if !un then 0 else if n ≤ ni then z * 16 ^ (ni - n) else zeroAt z n ni
    let r := codeRange un ni
    let q := epiAct img c (clampI lo hi (quot (convShift rc.s e n ni) + zi)) zi
    let qi := clampI r.1 r.2 q
    let raw := truncShift ((qi - zi) * 16 ^ (dep - ni)) (4 * (ni - dep)) + zq
    done (clampI lim.1 lim.2 raw) raw (decide (qi ≠ q))
  else
    let raw := quot (convShift rc.s e n dep) + zq
    done (epiAct img c (clampI lim.1 lim.2 raw) zq) raw false

/-- A run of consecutive channels of one position of the output. -/
structure ChanRun where
  pos : Nat
  ch : Nat
  codes : List Int

/-- The bytes of one plane of a run, with the depth of each channel: digits over what the store holds in the rest of the first and last byte, 0 beyond the channels (R28, R33).
DESIGN CHOICE (log 59): 0 also in the nibbles of a group's absent planes that lie inside the position stride (R42). -/
def State.runBytesAt (s : State) (b : Binding) (d : TDecl) (depth : Nat → Nat) (p : Nat) (r : ChanRun) : Nat × List Byte :=
  let per := 8 / d.digitBits
  let b0 := r.ch / per
  let b1 := (r.ch + r.codes.length + per - 1) / per
  let codes := r.codes.toArray
  let dig := fun (ch : Nat) =>
    if d.channels ≤ ch then 0
    else if ch < r.ch ∨ r.ch + r.codes.length ≤ ch then s.digitAt b d p r.pos ch
    else
      let v := codes.getD (ch - r.ch) 0
      if p < depth ch then (if d.form = 2 then (v % 4).toNat else digitOf v (depth ch) p) else 0
  (b.place + p * b.stride + r.pos * d.ps + b0,
   (List.range (b1 - b0)).map (fun i => BitVec.ofNat 8 (((List.range per).map (fun k => dig (per * (b0 + i) + k) * 2 ^ (d.digitBits * k))).sum)))

/-- The bytes of one plane of a flushed run. -/
def State.runBytes (s : State) (img : List Byte) (b : Binding) (d : TDecl) (p : Nat) (r : ChanRun) : Nat × List Byte :=
  s.runBytesAt b d.written (writeDepth img d) p r

/-- Whether any digit of a plane is nonzero as an operand within a tile (R44), read from the store. -/
def State.tileZero (s : State) (img : List Byte) (b : Binding) (d : TDecl) (p blk tile : Nat) : Bool :=
  (List.range (min 64 (d.positions - 64 * tile))).all (fun i =>
    (List.range (min 256 (d.channels - 256 * blk))).all (fun k =>
      let ch := 256 * blk + k
      decide (chanDepth img d ch ≤ p) ||
      s.digitAt b d p (64 * tile + i) ch == (if d.form = 1 then zeroDigit img d ch p else 0)))

/-- The columns of a flush as output runs: straight, or depth-to-space (R120, R150). -/
def flushRuns (img : List Byte) (a : Active) (slot : Nat) (c : ChainD) (d : TDecl) (pos base : Nat) (codes : List Int) : List ChanRun :=
  (outRuns img (tget none a.geom slot) c d pos base codes.length).map (fun r =>
    { pos := r.1, ch := r.2.1, codes := (codes.drop r.2.2.1).take r.2.2.2 })

/-- What a flush of one slot gives: its codes by position, its writes, its side-vector entries, counts and statistics. -/
structure FlushOut where
  segs : List (Nat × List Byte) := []
  tiles : List (Nat × Nat × Nat × Nat) := []
  side : List (Nat × List Byte) := []
  deposits : List Deposit := []
  sats : Nat := 0
  clamps : Nat := 0
  stats : List Int := []

/-- A 16-byte entry as the store and this flush's own earlier updates leave it. -/
def State.entryNow (s : State) (side : List (Nat × List Byte)) (addr : Nat) : List Byte :=
  ((side.reverse.find? (fun e => e.1 == addr)).map (·.2)).getD (s.bytesAt addr 16)

/-- The column channel of a column: its output channel, in depth-to-space layout the fine one (R120, R145). -/
def colChannel (c : ChainD) (d : TDecl) (col : Nat) : Nat := if c.d2s = 1 then col else col % d.channels

/-- Steps 6 to 10 of a chain on one slot's accumulators (R90, R99 to R104, R120, R124).
DESIGN CHOICE (log 60): a padding position of a gather, which names no side-vector entry, takes P = 1, S = 0 and D = 1. -/
def State.flushSlot (s : State) (n : Nat) (img : List Byte) (h : QHdr) (a : Active) (c : ChainD) (out col acc : Nat) (slot : Nat) (src : SlotSrc)
    (o : FlushOut) : FlushOut :=
  let ob := a.bind out
  let d := tdecl img ob.tensor
  let sb := a.bind src.binding
  let sd := tdecl img sb.tensor
  let ncol := if h.checksum then 255 else 256
  let base := col * ncol
  let f := c.d2s
  let cols := tileCols c d base ncol
  let rows := (s.tileSources img h a slot src 0).zipIdx
  (rows.filter (fun r => decide ((src.p0 + r.2) * (f * f) < d.positions))).foldl (fun (o : FlushOut) r =>
    let pos := src.p0 + r.2
    let fac := match srcChain img h src with
      | some pc => if pc.norm ≠ 0 ∧ pc.splitEq = false then
          some (match r.1 with
            | some e => s.factorsAt img a pc sb sd e.1
            | none => (1, 0, 1))
        else none
      | none => none
    let yOf := fun (k : Nat) =>
      if h.sweep then
        match srcChain img h src, r.1 with
        | some pc, some e => ((s.stagedElem img a pc sb sd e.1 (base + k)).map (fun x => x.1 - (x.2.1 : Int))).getD 0
        | none, some e => if d.channels ≤ base + k then 0 else operandValue img sd (base + k) (s.codeAt img sb sd e.1 (base + k))
        | _, none => 0
      else tget 0 (s.coreAt n).acc (bankKey slot acc r.2 k)
    let els := (List.range cols).map (fun k => epiElem img c d (colChannel c d (base + k)) (yOf k) fac ob.e sb.e h.sweep)
    let runs := flushRuns img a slot c d pos base (els.map (·.code))
    let seg := runs.flatMap (fun r => (List.range d.written.planes).map (fun p => s.runBytes img ob d p r))
    let tiles := if ob.decoded || d.planes < 2 || d.measured then [] else runs.flatMap (fun r => (List.range (d.planes - 1)).flatMap (fun p =>
      (List.range (ceilDiv (r.ch + r.codes.length) 256 - r.ch / 256)).map (fun i => (ob.num, p + 1, r.ch / 256 + i, r.pos / 64))))
    let rowAddr := (a.bind c.bEpiSide).place + 16 * pos
    let side := if c.epiRow = 0 then o.side
      else o.side ++ [(rowAddr, rowReduce c.epiRow c.softmaxK c.splitEq (if c.rowFirst then rowInit c.epiRow else s.entryNow o.side rowAddr) base (els.map (·.red)))]
    let side := if c.epiCol = 0 then side
      else els.zipIdx.foldl (fun sd e =>
        let addr := (a.bind c.bEpiSide).place + 16 * (base + e.2)
        let fresh := c.colFirst && !(sd.any (fun x => x.1 == addr))
        sd ++ [(addr, colReduce c.epiCol (if fresh then colInit c.epiCol else s.entryNow sd addr) e.1.red)]) side
    let dep := if !c.gutter then []
      else
        let gb := a.bind c.bGutter
        let gd := tdecl img gb.tensor
        runs.flatMap (fun r =>
          match gutterRow img h.strip a.quire gb.tensor r.pos with
          | none => []
          | some g => (List.range gd.written.planes).map (fun p =>
              let own := s.runBytes img ob d p r
              let slot := s.runBytes img gb gd p { r with pos := g }
              { addr := slot.1, bytes := slot.2, own := if c.epiWrite then some own.1 else none }))
    { o with segs := if c.epiWrite then o.segs ++ seg else o.segs,
             tiles := if c.epiWrite then (o.tiles ++ tiles).eraseDups else o.tiles,
             side, deposits := o.deposits ++ dep,
             sats := o.sats + (els.filter (·.sat)).length,
             clamps := if d.scaleMode ≠ 0 then o.clamps + (els.filter (·.clamped)).length else o.clamps,
             stats := if d.scaleMode = 1 then o.stats ++ els.map (·.stat) else o.stats }) o

/-- A bank's sums added into a long-accumulator set with a left shift, and the bank empty again (R36, R64). -/
def State.drainBank (s : State) (n slot bank set shift : Nat) : State :=
  s.setCore n (fun c =>
    let lo := bankKey slot bank 0 0
    let mine := c.banks.filter (fun e => decide (lo ≤ e.1) && decide (e.1 < lo + 16384))
    { c with banks := c.banks.filter (fun e => !(decide (lo ≤ e.1) && decide (e.1 < lo + 16384))),
             acc := mine.foldl (fun t e =>
               let k := bankKey slot set 0 0 + (e.1 - lo)
               tput 0 t k (wrap48 (tget 0 t k + e.2 * 2 ^ (4 * shift)))) c.acc })

/-- A long-accumulator set cleared (R150). -/
def State.clearSet (s : State) (n slot set : Nat) : State :=
  let lo := bankKey slot set 0 0
  s.setCore n (fun c => { c with acc := c.acc.filter (fun e => !(decide (lo ≤ e.1) && decide (e.1 < lo + 16384))) })

/-- The ranges a flush reads or writes, which wait for outstanding writes to them (R63): the output tile and the side-vector entries. -/
def State.flushRanges (s : State) (img : List Byte) (h : QHdr) (a : Active) (c : ChainD) (out col : Nat) (slots : List (Nat × SlotSrc)) :
    List (Nat × Nat) × List (Nat × Nat) :=
  let ob := a.bind out
  let d := tdecl img ob.tensor
  let ncol := if h.checksum then 255 else 256
  let side := (a.bind c.bEpiSide).place
  let outs := if c.epiWrite then [(ob.place, s.boundBytes ob)] else []
  let ents := (if c.epiRow = 0 then [] else slots.map (fun e => (side + 16 * e.2.p0, 16 * e.2.p))) ++
    (if c.epiCol = 0 then [] else [(side + 16 * (col * ncol), 16 * tileCols c d (col * ncol) ncol)])
  let pro := slots.flatMap (fun e =>
    match srcChain img h e.2 with
    | some pc => (if pc.norm = 0 then [] else ((s.tileSources img h a e.1 e.2 0).filterMap id).map (fun x => ((a.bind pc.bProSide).place + 16 * x.1, 16))) ++
        (if h.sweep then s.tileRanges img h a e.1 e.2 col else [])
    | none => if h.sweep then s.tileRanges img h a e.1 e.2 col else [])
  let reads := (if c.epiRow ≠ 0 ∧ c.rowFirst = false ∨ c.epiCol ≠ 0 ∧ c.colFirst = false then ents else []) ++ pro
  (outs ++ ents ++ pro, reads)

/-- The epilogue of a flush over its slots in order, its writes issued (R63, R101, R157); in a sweep the prologues stage their tiles first (R96, R107).
The zero bits of a depth-to-space output wait for the chain's end (R120). -/
def State.convertFlush (s : State) (n : Nat) (img : List Byte) (h : QHdr) (a : Active) (c : ChainD) (out col set : Nat)
    (slots : List (Nat × SlotSrc)) : State :=
  let o := slots.foldl (fun o e => s.flushSlot n img h a c out col set e.1 e.2 o) ({} : FlushOut)
  let ob := a.bind out
  let last := o.side.zipIdx.filter (fun e => !(o.side.drop (e.2 + 1)).any (fun x => x.1 == e.1.1))
  let segs := o.segs ++ last.map (·.1)
  let late := decide (c.d2s ≠ 1)
  let s := if h.sweep then s.stageTiles n img h a slots col else s
  let s := slots.foldl (fun s e => s.clearSet n e.1 set) s
  let s := if segs.isEmpty then s
    else (s.setCore n (fun x => { x with writes := x.writes ++ [{ segs, zero := if late then [] else o.tiles }] })).dropStaged n segs
  s.setActive n (fun a => { a with
    satEpi := min 0xFFFFFFFF (a.satEpi + o.sats),
    clamps := if o.clamps = 0 then a.clamps else tput 0 a.clamps out (min (2 ^ 24 - 1) (tget 0 a.clamps out + o.clamps)),
    deposits := a.deposits ++ o.deposits,
    fine := if late then a.fine ++ o.tiles.filter (fun z => !a.fine.contains z) else a.fine,
    stats := match o.stats with
      | [] => a.stats
      | x :: xs => a.stats ++ [(ob.num, xs.foldl max x, xs.foldl min x)] })

/-- Distinct 64-byte lines of segments (R120). -/
def lineCount (segs : List (Nat × List Byte)) : Nat :=
  (segs.flatMap (fun g => (List.range ((g.1 + g.2.length + 63) / 64 - g.1 / 64)).map (g.1 / 64 + ·))).eraseDups.length

/-- Cycles of a flush: 64 a bank, 256 under a normalised conversion, or one for each distinct line of a depth-to-space output when they are more; two slots of one epilogue one after the other (R63, R106, R112, R120). -/
def State.flushCycles (s : State) (n : Nat) (img : List Byte) (h : QHdr) (a : Active) (c : ChainD) (out col set : Nat) (convert : Bool)
    (slots : List (Nat × SlotSrc)) : Nat :=
  max 64 (passCycles (decide ((s.coreAt n).arrays = 2)) 0 (slots.map (fun e =>
    let norm := convert && (srcChain img h e.2).any (fun p => decide (p.norm ≠ 0) && !p.splitEq)
    let lines := if convert ∧ c.d2s ≠ 1 then lineCount (s.flushSlot n img h a c out col set e.1 e.2 {}).segs else 0
    (e.1, max (if norm then 256 else 64) lines))))

/-- FLUSH: each slot's bank goes into a long-accumulator set; with CONVERT the set runs steps 6 to 10 of the chain and is cleared.
It waits for outstanding writes to what it reads and writes; a poisoned line that it reads stops the quire. -/
def execFlush (core : Fin 8) (slotMask : BitVec 4) (bank : Bool) (shift : Fin 8) (convert : Bool) (chain : Fin 256) (outBinding : Fin 256)
    (colTile : Fin 256) (accSet : Bool) (ecc : List StoreError) (s : State) : Host.Outcome State Fault Refusal :=
  let n := core.val
  match s.atInst n (wFlush slotMask.toNat bank shift convert chain outBinding colTile accSet) with
  | none => .next s
  | some (a, img, h) =>
    let c := chainD img (h.chainBase + chain.val)
    let slots := maskSlots a slotMask.toNat
    let r := if convert then s.flushRanges img h a c outBinding colTile slots else ([], [])
    if s.blocked n r.1 || (s.coreAt n).done.isSome then .next s
    else
      let s := s.eccFound n r.2 ecc
      if s.anyPoison r.2 then .next (s.stopQuire n 2)
      else
        let s := slots.foldl (fun s e => s.drainBank n e.1 (b2n bank) (b2n accSet) shift) s
        let s := s.setActive n (fun a => { a with opened := a.opened.filter (fun o => !(slots.any (fun e => o == 2 * e.1 + b2n bank))) })
        let k := s.flushCycles n img h a c outBinding colTile (b2n accSet) convert slots
        let s := if convert then s.convertFlush n img h a c outBinding colTile (b2n accSet) slots else s
        .next (s.tick n k)

/-! ### EPILOGUE_WRITE_DONE (R44, R45, R63, R75) -/

/-- One zero-map bit decided from the store: set exactly when every operand of the plane in the tile is 0; clear, with MAP_FULL, when the RAM has no bit for it (R44, R75). -/
def State.decideZero (s : State) (n : Nat) (img : List Byte) (a : Active) (z : Nat × Nat × Nat × Nat) : State :=
  match a.bindings.find? (fun b => b.num == z.1) with
  | none => s
  | some b =>
    let d := tdecl img b.tensor
    let idx := b.zmap + ((z.2.1 - 1) * ceilDiv d.channels 256 + z.2.2.1) * ceilDiv d.positions 64 + z.2.2.2
    let was := s.mem.zero.contains z
    let set := decide (idx < 16384) && s.tileZero img b d z.2.1 z.2.2.1 z.2.2.2
    let rest := s.mem.zero.filter (fun x => x != z)
    let s := { s with mem := { s.mem with zero := if set then rest ++ [z] else rest } }
    let s := if idx < 16384 then s else s.setCore n (fun c => { c with mapFull := true })
    s.setActive n (fun a => { a with undoZero := (z, was) :: a.undoZero })

/-- A write landed in the store, with what it replaces kept until the quire completes (R155). -/
def State.landWrite (s : State) (n : Nat) (g : Nat × List Byte) : State :=
  (s.setActive n (fun a => { a with undo := (g.1, s.bytesAt g.1 g.2.length) :: a.undo })).writeMem g.1 g.2

/-- The poison of the lines that one write covers whole, cleared and remembered until the quire completes (R70, R74). -/
def State.cleanLines (s : State) (n : Nat) (segs : List (Nat × List Byte)) : State :=
  let l := s.wholeLines segs
  (l.foldl (fun s k => s.setPoison k false) s).setActive n (fun a => { a with undoPoison := l ++ a.undoPoison })

/-- The zero bits of depth-to-space outputs decided at the chain's end: END has run and every write has landed (R120). -/
def State.decideFine (s : State) (n : Nat) : State :=
  match (s.coreAt n).active with
  | none => s
  | some a =>
    if a.ended ∧ (s.coreAt n).writes = [] then
      (a.fine.foldl (fun s z => s.decideZero n (s.runImage a.run) a z) s).setActive n (fun a => { a with fine := [] })
    else s

/-- The zero-map bits that a landed write clears: those of tiles it touches and does not decide (R45). -/
def State.clearTouched (s : State) (n : Nat) (a : Active) (w : StoreWrite) : State :=
  let hit := s.mem.zero.filter (fun z => !w.zero.contains z && (nget s.cel.tensors z.1).any (fun t =>
    a.bindings.any (fun b => b.num == z.1 && w.segs.any (fun g => tileTouches { t with addr := b.place } z.2.1 z.2.2.1 z.2.2.2 g.1 g.2.length))))
  if hit.isEmpty then s
  else
    let s := { s with mem := { s.mem with zero := s.mem.zero.filter (fun z => !hit.contains z) } }
    s.setActive n (fun a => { a with undoZero := hit.map (fun z => (z, true)) ++ a.undoZero })

/-- EPILOGUE_WRITE_DONE: the oldest write of a core is in its store. -/
def execEpilogueWriteDone (core : Fin 8) (s : State) : Host.Outcome State Fault Refusal :=
  let n := core.val
  match (s.coreAt n).writes, (s.coreAt n).active with
  | w :: ws, some a =>
    let img := s.runImage a.run
    let s := s.setCore n (fun c => { c with writes := ws })
    let s := s.cleanLines n w.segs
    let s := w.segs.foldl (fun s g => s.landWrite n g) s
    let s := s.clearTouched n a w
    .next ((w.zero.foldl (fun s z => s.decideZero n img a z) s).decideFine n)
  | _, _ => .next s

/-- END: the quire has ended, and completes when its writes are in the store (R155); the chains that wrote depth-to-space outputs end with it (R120; log 61). -/
def execEndQuire (core : Fin 8) (s : State) : Host.Outcome State Fault Refusal :=
  if (s.atInst core wEnd).isSome then .next (((s.tick core 1).setActive core (fun a => { a with ended := true })).decideFine core) else .next s

end Sys2Proof.Machine
end

