-- ==== Sys2Proof/Machine/Lane.lean ====
section
/-! DEFINITION. The lane unit's instructions (R76 to R80, R151, R518): lanes, mask, reductions, sorts, moves and the plane operations.
A command runs the LANE instruction it names when that is the next word of the quire its core runs; else nothing happens. -/

namespace Sys2Proof.Machine

/-! ### Lanes and the mask (R76, R518) -/

/-- Lane i of vector register r. -/
def Core.lane (c : Core) (r i : Nat) : BitVec 16 := tget 0 c.v (64 * r + i)

/-- 32-bit lane i of vector register r: lanes 2i, the low half, and 2i + 1. -/
def Core.lane32 (c : Core) (r i : Nat) : BitVec 32 := c.lane r (2 * i + 1) ++ c.lane r (2 * i)

/-- Some lanes of a register written, whatever the mask. -/
def Core.setLanes (c : Core) (r : Nat) (l : List (Nat × BitVec 16)) : Core :=
  { c with v := l.foldl (fun (t : Tbl (BitVec 16)) (e : Nat × BitVec 16) => tput 0 t (64 * r + e.1) e.2) c.v }

/-- The lanes whose mask bit is 1. -/
def Core.masked (c : Core) : List Nat := (List.range 64).filter (fun i => c.mask.getLsbD i)

/-- The 32-bit lanes whose lower half's mask bit is 1. -/
def Core.masked32 (c : Core) : List Nat := (List.range 32).filter (fun i => c.mask.getLsbD (2 * i))

/-- A register written lane by lane under the mask. -/
def Core.writeLanes (c : Core) (r : Nat) (f : Nat → BitVec 16) : Core := c.setLanes r (c.masked.map (fun i => (i, f i)))

/-- A register written in 32-bit lanes under the mask. -/
def Core.writeLanes32 (c : Core) (r : Nat) (f : Nat → BitVec 32) : Core :=
  c.setLanes r (c.masked32.flatMap (fun i => [(2 * i, (f i).setWidth 16), (2 * i + 1, ((f i) >>> 16).setWidth 16)]))

/-! ### One instruction (R149, R151) -/

/-- MOD bit 0: unsigned, or descending for a sort (R151). -/
def laneBit0 (a : LaneArgs) : Bool := decide (a.mod.val % 2 = 1)

/-- The running quire whose next instruction is this LANE word. -/
def State.atLane (s : State) (lop : Nat) (a : LaneArgs) : Option (Active × List Byte × QHdr) :=
  s.atInst a.core (wLane lop a.vd a.va a.vb a.binding a.mod a.offset)

/-- A lane operation on registers and mask alone, of so many cycles. -/
def State.laneOp (s : State) (lop : Nat) (a : LaneArgs) (cycles : Nat) (f : Core → Core) : Host.Outcome State Fault Refusal :=
  if (s.atLane lop a).isSome then .next ((s.setCore a.core f).tick a.core cycles) else .next s

/-- A lane operation on 16-bit lanes of VA and VB into VD. -/
def laneMap (a : LaneArgs) (f : BitVec 16 → BitVec 16 → BitVec 16) (c : Core) : Core :=
  c.writeLanes a.vd (fun i => f (c.lane a.va i) (c.lane a.vb i))

/-- A compare into the mask (R518). -/
def laneCompare (a : LaneArgs) (f : Int → Int → Bool) (c : Core) : Core :=
  { c with mask := maskCompare c.mask (fun i => f (laneVal (laneBit0 a) (c.lane a.va i)) (laneVal (laneBit0 a) (c.lane a.vb i))) }

/-- The shift count: VB lane 0, or OFFSET[3:0] when MOD bit 1 is set (R151). -/
def laneCount (a : LaneArgs) (c : Core) : Nat :=
  if a.mod.val / 2 % 2 = 1 then a.offset.val % 16 else (c.lane a.vb 0).toNat

/-- A shift of VA's lanes into VD. -/
def laneShift (a : LaneArgs) (f : BitVec 16 → Nat → BitVec 16) (c : Core) : Core :=
  c.writeLanes a.vd (fun i => f (c.lane a.va i) (laneCount a c))

/-- The product of lane 2i of VA and lane 2i of VB (R518). -/
def laneProduct (a : LaneArgs) (c : Core) (i : Nat) : BitVec 32 :=
  BitVec.ofInt 32 (laneVal (laneBit0 a) (c.lane a.va (2 * i)) * laneVal (laneBit0 a) (c.lane a.vb (2 * i)))

/-- RECIP: floor(2^31 / x) of lane 2i, and the mask bits of zeros cleared (R79, R518).
DESIGN CHOICE (log 63): lanes 2i and 2i + 1 are written under mask bit 2i, as for the 32-bit operations of R77, and both mask bits of a zero are cleared whatever bit 2i is. -/
def laneRecips (a : LaneArgs) (c : Core) : Core :=
  { c.writeLanes32 a.vd (fun i => BitVec.ofNat 32 (recip (c.lane a.va (2 * i)).toNat)) with
    mask := BitVec.ofNat 64 (packBits ((List.range 64).map (fun i => c.mask.getLsbD i && decide (c.lane a.va (2 * (i / 2)) ≠ 0)))) }

/-- The selected lanes of VA as signed values (R518: reductions). -/
def laneSelected (a : LaneArgs) (c : Core) : List Int := c.masked.map (fun i => laneS (c.lane a.va i))

/-- Whether pair x comes before pair y, or is equal to it: by key, then by index, lower first (R80). -/
def pairLe (desc : Bool) (x y : Int × Nat) : Bool :=
  decide (x.1 = y.1 ∧ x.2 ≤ y.2) || (if desc then decide (y.1 < x.1) else decide (x.1 < y.1))

/-- A pair put into its place of a sorted list. -/
def pairInsert (desc : Bool) (x : Int × Nat) : List (Int × Nat) → List (Int × Nat)
  | [] => [x]
  | y :: l => if pairLe desc x y then x :: y :: l else y :: pairInsert desc x l

/-- A list of pairs sorted (R80). -/
def pairSort (desc : Bool) : List (Int × Nat) → List (Int × Nat)
  | [] => []
  | x :: l => pairInsert desc x (pairSort desc l)

/-- Whether a list of pairs is sorted. -/
def pairSorted (desc : Bool) : List (Int × Nat) → Bool
  | [] => true
  | [_] => true
  | x :: y :: l => pairLe desc x y && pairSorted desc (y :: l)

/-- SORT32: the 32 pairs of VA sorted, and the selected lanes written (R80, R518). -/
def laneSorted (a : LaneArgs) (c : Core) : Core :=
  let l := (pairSort (laneBit0 a) ((List.range 32).map (fun i => (laneS (c.lane a.va (2 * i)), (c.lane a.va (2 * i + 1)).toNat)))).toArray
  c.writeLanes a.vd (fun i =>
    let p := l.getD (i / 2) (0, 0)
    if i % 2 = 0 then BitVec.ofInt 16 p.1 else BitVec.ofNat 16 p.2)

/-! ### Operations that reach the core store (R63, R74, R153, R518) -/

/-- The address of OFFSET in a binding's plane D0. -/
def laneBase (b : Binding) (a : LaneArgs) : Nat := b.place + 8 * a.offset.val

/-- A lane operation that reads ranges of the store and writes segments: it waits for outstanding writes to what it reads and to `waits` (R63), a poisoned line stops the quire (R74), and its write is issued. -/
def State.laneMem (s : State) (n : Nat) (ecc : List StoreError) (cycles : Nat) (waits reads : List (Nat × Nat)) (segs : List (Nat × List Byte)) (zero : List (Nat × Nat × Nat × Nat))
    (f : State → State) : Host.Outcome State Fault Refusal :=
  if s.blocked n (waits ++ reads) || (s.coreAt n).done.isSome then .next s
  else
    let s := s.eccFound n reads ecc
    if s.anyPoison reads then .next (s.stopQuire n 2)
    else
      let s := if segs.isEmpty then s
        else (s.setCore n (fun c => { c with writes := c.writes ++ [{ segs, zero, lane := true }] })).dropStaged n segs
      .next ((f s).tick n cycles)

/-- The 16-bit lane at an address. -/
def State.halfAt (s : State) (addr : Nat) : BitVec 16 := BitVec.ofNat 16 (leNat (s.bytesAt addr 2))

/-- The two bytes of a lane. -/
def laneBytes (v : BitVec 16) : List Byte := natLE 2 v.toNat

/-- The address of the element an index names, when it lies below EXTENT (R518). -/
def laneElement (b : Binding) (a : LaneArgs) (k : Nat) : Option Nat :=
  if 8 * a.offset.val + 2 * k < b.extent then some (laneBase b a + 2 * k) else none

/-- The pairs of a run in the store (R518). -/
def State.pairsAt (s : State) (addr n : Nat) : List (Int × Nat) :=
  (List.range n).map (fun j => (toSigned 16 (leNat (s.bytesAt (addr + 4 * j) 2)), leNat (s.bytesAt (addr + 4 * j + 2) 2)))

/-- The bytes MERGE writes: the merged run; free where its halves are not each sorted (R80, R518; assumption log 41). -/
def State.merged (s : State) (desc : Bool) (addr n : Nat) : List Byte :=
  let l := s.pairsAt addr n
  if pairSorted desc (l.take (n / 2)) && pairSorted desc (l.drop (n / 2)) then
    (pairSort desc l).flatMap (fun p => natLE 2 (ofSigned 16 p.1) ++ natLE 2 p.2)
  else (List.range (4 * n)).map (Config.mergeFree desc (s.bytesAt addr (4 * n)))

/-! ### Plane operations (R32, R48, R49, R54, R518) -/

/-- SETCNT elements from OFFSET by position: position, first channel and number of channels; padding beyond the channels is left out (R28, R518). -/
def laneElems (d : TDecl) (ofs cnt : Nat) : List (Nat × Nat × Nat) :=
  let per := max 1 (d.ps * 8 / d.digitBits)
  let e0 := ofs * 8 / d.digitBits
  (List.range (d.positions - e0 / per)).filterMap (fun i =>
    let p := e0 / per + i
    let lo := max e0 (p * per) - p * per
    let hi := min (min (e0 + cnt) ((p + 1) * per) - p * per) d.channels
    if lo < hi then some (p, lo, hi - lo) else none)

/-- The ranges that the elements occupy in every plane. -/
def laneRanges (b : Binding) (d : TDecl) (l : List (Nat × Nat × Nat)) : List (Nat × Nat) :=
  (List.range d.planes).flatMap (fun p => l.map (fun e => (elemAddr b d p e.1 e.2.1, (e.2.2 * d.digitBits + 7) / 8)))

/-- An element of a measured-mode intermediate: its digits in the four planes, signed (R54). -/
def State.midAt (s : State) (b : Binding) (d : TDecl) (pos ch : Nat) : Int :=
  recompose false ((List.range d.written.planes).map (fun p => s.digitAt b d.written p pos ch))

/-- The values of the elements that are not padding. -/
def State.midValues (s : State) (b : Binding) (d : TDecl) (l : List (Nat × Nat × Nat)) : List Int :=
  l.flatMap (fun e => (List.range e.2.2).map (fun k => s.midAt b d e.1 (e.2.1 + k)))

/-- The zero-map tiles that elements lie in (R44). -/
def laneTiles (b : Binding) (d : TDecl) (l : List (Nat × Nat × Nat)) : List (Nat × Nat × Nat × Nat) :=
  if b.decoded then []
  else (l.flatMap (fun e => (List.range (d.planes - 1)).flatMap (fun p =>
    (List.range (ceilDiv (e.2.1 + e.2.2) 256 - e.2.1 / 256)).map (fun i => (b.num, p + 1, e.2.1 / 256 + i, e.1 / 64))))).eraseDups

/-- STATS: the running hi and lo of a measured-mode instance take the elements in, and its exponent is chosen anew (R48, R49, R54).
DESIGN CHOICE (log 62): on a tensor that is not in measured mode it changes nothing. -/
def State.takeStats (s : State) (n : Nat) (img : List Byte) (b : Binding) (vals : List Int) : State :=
  let d := tdecl img b.tensor
  match vals with
  | [] => s
  | x :: xs =>
    if !d.measured then s
    else s.setActive n (fun a =>
      let stats := a.stats ++ [(b.num, xs.foldl max x, xs.foldl min x)]
      let old := match s.cel.tensors.find? (fun t => t.1 == b.num) with
        | some t => t.2.stat.toList
        | none => []
      let e := windowExp img d (old ++ (stats.filter (fun t => t.1 == b.num)).map (·.2))
      { a with stats, bindings := a.bindings.map (fun y => if y.num = b.num then { y with e } else y) })

/-- What CONVERT writes and counts: the elements' codes in the declared planes (R54 step 4, R157). -/
def State.convertElems (s : State) (img : List Byte) (b : Binding) (d : TDecl) (l : List (Nat × Nat × Nat)) : List (Nat × List Byte) × Nat :=
  let rows := l.map (fun e => (e, (List.range e.2.2).map (fun k => inputCode img d b.e (e.2.1 + k) (s.midAt b d e.1 (e.2.1 + k)))))
  let dep := fun ch => if d.form = 2 then 1 else chanDepth img d ch
  (rows.flatMap (fun r => (List.range d.planes).map (fun p => s.runBytesAt b d dep p { pos := r.1.1, ch := r.1.2.1, codes := r.2.map (·.1) })),
   (rows.map (fun r => (r.2.filter (·.2)).length)).sum)

/-- What SPLIT writes: element k is lane k of the registers from VA on, split into the planes of its channel where the lane's mask bit is 1 (R32, R518; assumption log 14). -/
def State.splitElems (s : State) (c : Core) (img : List Byte) (b : Binding) (d : TDecl) (va : Nat) (l : List (Nat × Nat × Nat)) : List (Nat × List Byte) :=
  let starts := l.foldl (fun (acc : List Nat × Nat) e => (acc.1 ++ [acc.2], acc.2 + e.2.2)) ([], 0)
  let dep := fun ch => if d.form = 2 then 1 else chanDepth img d ch
  (l.zip starts.1).flatMap (fun e => (List.range d.planes).map (fun p =>
    s.runBytesAt b d dep p { pos := e.1.1, ch := e.1.2.1, codes := (List.range e.1.2.2).map (fun k =>
      let i := e.2 + k
      if c.mask.getLsbD (i % 64) then laneS (c.lane ((va + i / 64) % 32) (i % 64)) else s.codeAt img b d e.1.1 (e.1.2.1 + k)) }))

/-! ### The commands -/

/-- ADD, modulo 2^16. -/
def execLaneAdd (a : LaneArgs) (s : State) : Host.Outcome State Fault Refusal := s.laneOp 0x00 a 1 (laneMap a (fun x y => x + y))
/-- SUB, modulo 2^16. -/
def execLaneSub (a : LaneArgs) (s : State) : Host.Outcome State Fault Refusal := s.laneOp 0x01 a 1 (laneMap a (fun x y => x - y))
/-- ADDS: clamped to the signed or unsigned range. -/
def execLaneAdds (a : LaneArgs) (s : State) : Host.Outcome State Fault Refusal :=
  s.laneOp 0x02 a 1 (laneMap a (fun x y => laneSat (laneBit0 a) (laneVal (laneBit0 a) x + laneVal (laneBit0 a) y)))
/-- SUBS: clamped to the signed or unsigned range. -/
def execLaneSubs (a : LaneArgs) (s : State) : Host.Outcome State Fault Refusal :=
  s.laneOp 0x03 a 1 (laneMap a (fun x y => laneSat (laneBit0 a) (laneVal (laneBit0 a) x - laneVal (laneBit0 a) y)))
/-- MIN. -/
def execLaneMin (a : LaneArgs) (s : State) : Host.Outcome State Fault Refusal :=
  s.laneOp 0x08 a 1 (laneMap a (fun x y => if laneVal (laneBit0 a) x ≤ laneVal (laneBit0 a) y then x else y))
/-- MAX. -/
def execLaneMax (a : LaneArgs) (s : State) : Host.Outcome State Fault Refusal :=
  s.laneOp 0x09 a 1 (laneMap a (fun x y => if laneVal (laneBit0 a) x ≤ laneVal (laneBit0 a) y then y else x))
/-- CMPEQ, into the mask. -/
def execLaneCmpeq (a : LaneArgs) (s : State) : Host.Outcome State Fault Refusal := s.laneOp 0x0A a 1 (laneCompare a (fun x y => decide (x = y)))
/-- CMPLT, into the mask. -/
def execLaneCmplt (a : LaneArgs) (s : State) : Host.Outcome State Fault Refusal := s.laneOp 0x0B a 1 (laneCompare a (fun x y => decide (x < y)))
/-- SEL writes every lane: VA where the mask bit is 1, VB where it is 0. -/
def execLaneSel (a : LaneArgs) (s : State) : Host.Outcome State Fault Refusal :=
  s.laneOp 0x0C a 1 (fun c => c.setLanes a.vd ((List.range 64).map (fun i => (i, if c.mask.getLsbD i then c.lane a.va i else c.lane a.vb i))))
/-- AND. -/
def execLaneAnd (a : LaneArgs) (s : State) : Host.Outcome State Fault Refusal := s.laneOp 0x10 a 1 (laneMap a (fun x y => x &&& y))
/-- OR. -/
def execLaneOr (a : LaneArgs) (s : State) : Host.Outcome State Fault Refusal := s.laneOp 0x11 a 1 (laneMap a (fun x y => x ||| y))
/-- XOR. -/
def execLaneXor (a : LaneArgs) (s : State) : Host.Outcome State Fault Refusal := s.laneOp 0x12 a 1 (laneMap a (fun x y => x ^^^ y))
/-- SHL. -/
def execLaneShl (a : LaneArgs) (s : State) : Host.Outcome State Fault Refusal := s.laneOp 0x13 a 1 (laneShift a (fun x k => x <<< k))
/-- SHR, logical. -/
def execLaneShr (a : LaneArgs) (s : State) : Host.Outcome State Fault Refusal := s.laneOp 0x14 a 1 (laneShift a (fun x k => x >>> k))
/-- SHRT: trunc_shift of R39. -/
def execLaneShrt (a : LaneArgs) (s : State) : Host.Outcome State Fault Refusal :=
  s.laneOp 0x15 a 1 (laneShift a (fun x k => BitVec.ofInt 16 (truncShift x.toInt k)))
/-- ADD32, modulo 2^32. -/
def execLaneAdd32 (a : LaneArgs) (s : State) : Host.Outcome State Fault Refusal :=
  s.laneOp 0x18 a 1 (fun c => c.writeLanes32 a.vd (fun i => c.lane32 a.va i + c.lane32 a.vb i))
/-- SUB32, modulo 2^32. -/
def execLaneSub32 (a : LaneArgs) (s : State) : Host.Outcome State Fault Refusal :=
  s.laneOp 0x19 a 1 (fun c => c.writeLanes32 a.vd (fun i => c.lane32 a.va i - c.lane32 a.vb i))
/-- MUL: the exact product. -/
def execLaneMul (a : LaneArgs) (s : State) : Host.Outcome State Fault Refusal :=
  s.laneOp 0x1A a 1 (fun c => c.writeLanes32 a.vd (laneProduct a c))
/-- MAC32: the product added, modulo 2^32. -/
def execLaneMac32 (a : LaneArgs) (s : State) : Host.Outcome State Fault Refusal :=
  s.laneOp 0x1B a 1 (fun c => c.writeLanes32 a.vd (fun i => c.lane32 a.vd i + laneProduct a c i))
/-- EXP2N (R78). -/
def execLaneExp2n (a : LaneArgs) (s : State) : Host.Outcome State Fault Refusal :=
  s.laneOp 0x20 a 1 (fun c => c.writeLanes a.vd (fun i => BitVec.ofNat 16 (exp2n (c.lane a.va i).toNat)))
/-- RECIP (R79). -/
def execLaneRecip (a : LaneArgs) (s : State) : Host.Outcome State Fault Refusal := s.laneOp 0x21 a 2 (laneRecips a)
/-- SUM32 into 32-bit lane 0, whatever the mask bits of the result. -/
def execLaneSum32 (a : LaneArgs) (s : State) : Host.Outcome State Fault Refusal :=
  s.laneOp 0x28 a 6 (fun c =>
    let r := BitVec.ofInt 32 (laneSelected a c).sum
    c.setLanes a.vd [(0, r.setWidth 16), (1, (r >>> 16).setWidth 16)])
/-- MAX over the selected lanes, into lane 0. -/
def execLaneMaxReduction (a : LaneArgs) (s : State) : Host.Outcome State Fault Refusal :=
  s.laneOp 0x29 a 6 (fun c => c.setLanes a.vd [(0, BitVec.ofInt 16 ((laneSelected a c).foldl max (-32768)))])
/-- MIN over the selected lanes, into lane 0. -/
def execLaneMinReduction (a : LaneArgs) (s : State) : Host.Outcome State Fault Refusal :=
  s.laneOp 0x2A a 6 (fun c => c.setLanes a.vd [(0, BitVec.ofInt 16 ((laneSelected a c).foldl min 32767))])
/-- SORT32 (R80). -/
def execLaneSort32 (a : LaneArgs) (s : State) : Host.Outcome State Fault Refusal := s.laneOp 0x30 a 15 (laneSorted a)

/-- MERGE: the SETCNT pairs at OFFSET merged over themselves (R80, R518). -/
def execLaneMerge (a : LaneArgs) (s : State) : Host.Outcome State Fault Refusal :=
  match s.atLane 0x31 a with
  | none => .next s
  | some (x, _) =>
    let addr := laneBase (x.bind a.binding) a
    if x.cnt = 0 then .next (s.tick a.core 1)
    else s.laneMem a.core a.ecc (ceilDiv x.cnt 16) [] [(addr, 4 * x.cnt)] [(addr, s.merged (laneBit0 a) addr x.cnt)] [] (fun t => t)

/-- LOAD: 128 bytes into VD, under the mask. -/
def execLaneLoad (a : LaneArgs) (s : State) : Host.Outcome State Fault Refusal :=
  match s.atLane 0x38 a with
  | none => .next s
  | some (x, _) =>
    let addr := laneBase (x.bind a.binding) a
    s.laneMem a.core a.ecc 1 [] [(addr, 128)] [] [] (fun t => t.setCore a.core (fun c => c.writeLanes a.vd (fun i => s.halfAt (addr + 2 * i))))

/-- STORE: the selected lanes of VA to 128 bytes. -/
def execLaneStore (a : LaneArgs) (s : State) : Host.Outcome State Fault Refusal :=
  match s.atLane 0x39 a with
  | none => .next s
  | some (x, _) =>
    let addr := laneBase (x.bind a.binding) a
    let c := s.coreAt a.core
    s.laneMem a.core a.ecc 1 [] [] (c.masked.map (fun i => (addr + 2 * i, laneBytes (c.lane a.va i)))) [] (fun t => t)

/-- GATHER: the elements that VB's indices name, 0 at or beyond EXTENT. -/
def execLaneGather (a : LaneArgs) (s : State) : Host.Outcome State Fault Refusal :=
  match s.atLane 0x3A a with
  | none => .next s
  | some (x, _) =>
    let b := x.bind a.binding
    let c := s.coreAt a.core
    let place := fun i => laneElement b a (c.lane a.vb i).toNat
    s.laneMem a.core a.ecc 4 [] ((c.masked.filterMap place).map (fun p => (p, 2))) [] []
      (fun t => t.setCore a.core (fun c => c.writeLanes a.vd (fun i => ((place i).map s.halfAt).getD 0)))

/-- SCATTER: the selected lanes of VA to the elements that VB's indices name, in ascending order; none at or beyond EXTENT. -/
def execLaneScatter (a : LaneArgs) (s : State) : Host.Outcome State Fault Refusal :=
  match s.atLane 0x3B a with
  | none => .next s
  | some (x, _) =>
    let b := x.bind a.binding
    let c := s.coreAt a.core
    s.laneMem a.core a.ecc 4 [] [] (c.masked.filterMap (fun i =>
      (laneElement b a (c.lane a.vb i).toNat).map (fun p => (p, laneBytes (c.lane a.va i))))) [] (fun t => t)

/-- PERM: lane (VB lane i modulo 64) of VA. -/
def execLanePerm (a : LaneArgs) (s : State) : Host.Outcome State Fault Refusal :=
  s.laneOp 0x3C a 1 (fun c => c.writeLanes a.vd (fun i => c.lane a.va ((c.lane a.vb i).toNat % 64)))

/-- STATS (R48, R54 steps 2 and 3). -/
def execLaneStats (a : LaneArgs) (s : State) : Host.Outcome State Fault Refusal :=
  match s.atLane 0x40 a with
  | none => .next s
  | some (x, img, _) =>
    let b := x.bind a.binding
    let d := tdecl img b.tensor
    let l := laneElems d.written (8 * a.offset.val) x.cnt
    s.laneMem a.core a.ecc (max 1 (ceilDiv x.cnt 64)) [] (laneRanges b d.written l) [] [] (fun t => t.takeStats a.core img b (s.midValues b d l))

/-- CONVERT: the intermediate's elements into the declared planes, with the zero map, and the clamped elements counted (R54 step 4, R56, R157). -/
def execLaneConvert (a : LaneArgs) (s : State) : Host.Outcome State Fault Refusal :=
  match s.atLane 0x41 a with
  | none => .next s
  | some (x, img, _) =>
    let b := x.bind a.binding
    let d := tdecl img b.tensor
    let l := laneElems d.written (8 * a.offset.val) x.cnt
    let o := s.convertElems img b d l
    s.laneMem a.core a.ecc (max 1 (ceilDiv x.cnt 64)) [] (laneRanges b d.written l) o.1 (laneTiles b d l)
      (fun t => t.setActive a.core (fun y => { y with
        clamps := if o.2 = 0 then y.clamps else tput 0 y.clamps a.binding (clampAdd (tget 0 y.clamps a.binding) o.2) }))

/-- SPLIT: 16-bit values of the registers from VA on into digits of the planes (R32; assumption log 14). -/
def execLaneSplit (a : LaneArgs) (s : State) : Host.Outcome State Fault Refusal :=
  match s.atLane 0x42 a with
  | none => .next s
  | some (x, img, _) =>
    let b := x.bind a.binding
    let d := tdecl img b.tensor
    let l := laneElems d (8 * a.offset.val) x.cnt
    s.laneMem a.core a.ecc (max 1 (ceilDiv x.cnt 64)) (laneRanges b d l) [] (s.splitElems (s.coreAt a.core) img b d a.va l) [] (fun t => t)

/-- RECOMPOSE: the planes' elements into 16-bit lanes of the registers from VD on, under the mask (R32; assumption log 14). -/
def execLaneRecompose (a : LaneArgs) (s : State) : Host.Outcome State Fault Refusal :=
  match s.atLane 0x43 a with
  | none => .next s
  | some (x, img, _) =>
    let b := x.bind a.binding
    let d := tdecl img b.tensor
    let l := laneElems d (8 * a.offset.val) x.cnt
    let vals := l.flatMap (fun e => (List.range e.2.2).map (fun k => BitVec.ofInt 16 (s.codeAt img b d e.1 (e.2.1 + k))))
    s.laneMem a.core a.ecc (max 1 (ceilDiv x.cnt 64)) [] (laneRanges b d l) [] [] (fun t => t.setCore a.core (fun c =>
      vals.zipIdx.foldl (fun c e => if c.mask.getLsbD (e.2 % 64) then c.setLanes ((a.vd.val + e.2 / 64) % 32) [(e.2 % 64, e.1)] else c) c))

/-- SETCNT: the element count, from OFFSET. -/
def execLaneSetcnt (a : LaneArgs) (s : State) : Host.Outcome State Fault Refusal :=
  if (s.atLane 0x48 a).isSome then .next ((s.setActive a.core (fun x => { x with cnt := a.offset.val })).tick a.core 1) else .next s

/-- SETMASK: bit i becomes 1 when lane i of VA is non-zero. -/
def execLaneSetmask (a : LaneArgs) (s : State) : Host.Outcome State Fault Refusal :=
  s.laneOp 0x49 a 1 (fun c => { c with mask := BitVec.ofNat 64 (packBits ((List.range 64).map (fun i => decide (c.lane a.va i ≠ 0)))) })

end Sys2Proof.Machine
end

