-- ==== Sys2Proof/Machine/PowerCmd.lean ====
section
/-! DEFINITION. Power, clocks and heat as commands (R25, R200, R402 to R417, R492). -/

namespace Sys2Proof.Machine

/-! ### The analogue trip (R417) -/

/-- Every switched domain loses its power at once. -/
def State.allOff (s : State) : State :=
  (List.range 30).foldl (fun s d =>
    (s.setDom d (fun _ => { st := .off, move := .none, switchedOff := true, wakeReq := false })).offLoss d) s

/-- The THERMTRIP entry written straight to boot flash, before the supplies fall (R417, R429). -/
def State.logTrip (s : State) : State :=
  let e : LogEntry := { seq := s.mgt.logSeq, boot := s.mgt.bootCount, stamp := s.mgt.aonCount % 2 ^ 48, code := logThermtrip,
                        severity := 3, source := 8, unit := 0xFFFF, arg := 0 }
  { s with mgt := { s.mgt with flashLog := flashAppend s.mgt.flashLog [e], logSeq := (s.mgt.logSeq + 1) % 2 ^ 32 } }

/-- THERMTRIP (R417): power goes from every switched domain, the pin is asserted and the trip is logged; only power-on ends it (assumption log 32). -/
def execThermtrip (s : State) : StepOut :=
  if !s.dev.pwrgd ∨ s.dev.thermtrip then .next s
  else
    let s := ((s.endFlights (fun _ => true) false).dropWork).allOff
    let s := { s with dev := { s.dev with thermtrip := true, stage := .shutdown, reset := none }, pwr := { s.pwr with shutdown := true } }
    .next ((s.emit .thermtrip).logTrip)

/-! ### Sensors and thresholds (R410, R413 to R416) -/

/-- Sensors newly found not valid, logged (R410). -/
def State.logSensors (s : State) (old new : List SensorReading) : State :=
  ((List.range 20).filter (fun i => !((new[i]?.map (·.valid)).getD false) && ((old[i]?.map (·.valid)).getD true))).foldl
    (fun s i => s.log logSensorInvalid 1 8 i 0) s

/-- Tj: the highest valid reading; the last one stands when none is valid (R410). -/
def nextTj (old : Int) (new : List SensorReading) : Int :=
  (((new.take 20).filter (·.valid)).map (·.temp)).max?.getD old

/-- The PLL_A divider: applied at T_HALVE, removed below T_HALVE − 5 °C (R415). -/
def State.halveClock (s : State) : State :=
  let t := s.threshold 2
  if s.pwr.halved then (if s.pwr.tj < t - 20 then { s with pwr := { s.pwr with halved := false } } else s)
  else if t ≤ s.pwr.tj then { s with pwr := { s.pwr with halved := true, halvings := satAdd 16 s.pwr.halvings 1 } }
  else s

/-- Successive samples below the restore threshold, and at or above T_SHUTDOWN (R412, R414, R416). -/
def State.countSamples (s : State) : State :=
  { s with pwr := { s.pwr with
      coolSamples := if s.pwr.tj < s.threshold 1 - 40 ∧ s.pwr.powerCool = true then s.pwr.coolSamples + 1 else 0,
      hotSamples := if s.threshold 3 ≤ s.pwr.tj then s.pwr.hotSamples + 1 else 0 } }

/-- The readings kept and Tj formed from them (R410). -/
def State.formTj (s : State) (readings : List SensorReading) : State :=
  { s with pwr := { s.pwr with sensors := readings.take 20, tj := nextTj s.pwr.tj readings } }

/-- A sample taken: invalid sensors logged, Tj formed, the thresholds looked at (R410, R413, R415). -/
def State.sampled (s : State) (readings : List SensorReading) : State :=
  (((((s.logSensors s.pwr.sensors readings).formTj readings).thermWarn).halveClock).countSamples)

/-- SENSOR_SAMPLE (R410, R413, R415, R416): two successive samples at T_SHUTDOWN end in thermal shutdown. -/
def execSensorSample (readings : List SensorReading) (s : State) : StepOut :=
  if !s.aonUp ∨ s.dev.thermtrip then .next s
  else if 2 ≤ (s.sampled readings).pwr.hotSamples then .next ((s.sampled readings).thermalShutdown).settle
  else .next (s.sampled readings)

/-! ### Thermal release and return (R412, R414) -/

/-- The reading of a core's sensor, where it is valid. -/
def State.coreTemp (s : State) (n : Nat) : Option Int := (s.pwr.sensors[n]?).bind (fun r => if r.valid then some r.temp else none)

/-- The hotter of two cores, the lower-numbered one on ties; a core without a valid reading is the coolest. -/
def State.hotter (s : State) (a b : Nat) : Nat :=
  match s.coreTemp a, s.coreTemp b with
  | some x, some y => if x < y then b else a
  | none, some _ => b
  | _, none => a

/-- The core a thermal request names (R414 step 1). -/
def State.hottest (s : State) : Option Nat :=
  match s.coresIn.filter (fun n => !s.pwr.released.contains n) with
  | [] => none
  | n :: t => some (t.foldl s.hotter n)

/-- THERMAL_RELEASE_TICK (R414): the hottest core is removed under R192, and rests once its partition has left it. -/
def execThermalReleaseTick (s : State) : StepOut :=
  if s.dev.stage ≠ .ready ∨ (s.pwr.tj < s.threshold 1 ∧ s.pwr.powerHot = false) then .next s
  else
    match s.hottest with
    | none => .next s
    | some n =>
      let s := { s with pwr := { s.pwr with released := n :: s.pwr.released, releases := satAdd 16 s.pwr.releases 1 } }
      .next (((s.removeCore n false false).restReleased n).settle)

/-- The cores still released (R414). -/
def State.setReleased (s : State) (l : List Nat) : State := { s with pwr := { s.pwr with released := l } }

/-- The latest released core no longer counts as released, and comes back where the device serves (R193, R414). -/
def State.returnReleased (s : State) (n : Nat) (rest : List Nat) : State :=
  if s.dev.stage = .ready then ((s.setReleased rest).returnCore n).settle else s.setReleased rest

/-- THERMAL_RETURN_TICK (R414): after 100 ms below T_RELEASE − 10 °C the latest released core returns. -/
def execThermalReturnTick (s : State) : StepOut :=
  match s.pwr.released with
  | [] => .next s
  | n :: rest => if s.pwr.coolSamples < 100 then .next s else .next (s.returnReleased n rest)

/-! ### The accounting interval (R200, R411, R412) -/

/-- The record that a domain's energy goes to when nothing in it was busy: the core's owner for MC and MS, else record 0 (R200). -/
def State.idleRecord (s : State) (d : Nat) : Nat :=
  if 5 ≤ d ∧ d ≤ 20 then (if (s.coreAt ((d - 5) % 8)).out then 0 else (s.coreAt ((d - 5) % 8)).owner) else 0

/-- A domain's energy split by busy cycles: each record its floor, what is left to record 0 (R200); a sub-client record holds its share of its partition's. -/
def State.splitEnergy (s : State) (d e : Nat) (busy : List (Nat × Nat)) : State :=
  let own := busy.filter (fun b => decide (b.1 ≤ 8))
  let sum := (own.map (·.2)).sum
  if sum = 0 then s.charge (s.idleRecord d) 14 e
  else
    let s := busy.foldl (fun s b => s.charge b.1 14 (e * b.2 / sum)) s
    s.charge 0 14 (e - (own.map (fun b => e * b.2 / sum)).sum)

/-- The running totals of the monitors (R411). -/
def State.addEnergy (s : State) (energy : List Nat) : State :=
  let t := (List.range 32).foldl (fun t i => tmod 0 t i (fun n => wrapAdd n (energy.getD i 0))) s.pwr.energy
  { s with pwr := { s.pwr with energy := t } }

/-- The average power of an interval in 0.1 W, and what it makes the next interval act as (R412). -/
def State.powerLimit (s : State) (total : Nat) : State :=
  { s with pwr := { s.pwr with
      avg := min 65535 (total / 3125),
      powerHot := decide (s.pwr.limitW * 31250 < total),
      powerCool := decide (total < (s.pwr.limitW - 10) * 31250) } }

/-- The AON counter and the seconds that attestation counts (R200, R445; assumption log 11). -/
def State.tickInterval (s : State) : State :=
  { s with mgt := { s.mgt with
      aonCount := (s.mgt.aonCount + 1024) % 2 ^ 48,
      intervals := if 32 ≤ s.mgt.intervals + 1 then 0 else s.mgt.intervals + 1,
      signedThisSecond := if 32 ≤ s.mgt.intervals + 1 then 0 else s.mgt.signedThisSecond } }

/-- The busy cycles that the interval has charged in a domain's units, by record (R200). -/
def State.busyOf (s : State) (d : Nat) : List (Nat × Nat) :=
  (s.cel.busy.filter (fun e => e.1 / 4105 == d)).map (fun e => (e.1 % 4105, e.2))

/-- ACCOUNTING_INTERVAL (R200, R411, R412): the MP's energies of the 30 domains, AON and HI, split by the busy cycles charged in the interval, which begin anew. -/
def execAccountingInterval (energy : List Nat) (s : State) : StepOut :=
  if !s.aonUp ∨ s.dev.slowClockDead then .next s
  else
    let s := (s.addEnergy energy).tickInterval
    let s := (List.range 30).foldl (fun s d => s.splitEnergy d (energy.getD d 0) (s.busyOf d)) s
    let s := s.charge 0 14 (energy.getD 30 0 + energy.getD 31 0)
    let s := { s with cel := { s.cel with busy := [] } }
    .next (s.powerLimit ((List.range 32).map (fun i => energy.getD i 0)).sum)

/-! ### Idle domains (R25, R404, R405, R406, R409) -/

/-- Whether a core's store holds a tensor or is the destination of a move (R405, R409). -/
def State.storeUsed (s : State) (n : Nat) : Bool :=
  s.cel.tensors.any (fun e => atCore n e.2.home || (match e.2.move with
    | some (h, _) => atCore n h
    | none => false))

/-- Racking between a core's store and another memory (R177, R405). -/
def State.storeMoving (s : State) (n : Nat) : Bool :=
  s.cel.tensors.any (fun e => match e.2.move with
    | some (h, _) => atCore n h || atCore n e.2.home
    | none => false)

/-- Whether the cellar store holds a tensor whose only copy is there (R404), or staged preparation. -/
def State.cellarUsed (s : State) : Bool :=
  s.cel.tensors.any (fun e => !s.copies e.2 && (decide (e.2.home = .cellar) || (match e.2.move with
    | some (h, _) => decide (h = .cellar)
    | none => false))) ||
  (List.range 8).any (fun i => decide (s.mediaCellar (i + 1) ≠ 0))

/-- Finishing work for the track processors: finished batches not yet taken, and a picture whose records can be written. -/
def State.finishingWork (s : State) : Bool :=
  s.media.batches.any (fun e => e.2.run != 0 && e.2.kind != 2 && s.runFinished (e.2.run - 1) && !s.batchTaken e.1 e.2) ||
  s.media.streams.any (fun e => e.2.turn.any Pic.complete)

/-- The idle condition of a domain's block (R405). -/
def State.domIdle (s : State) (d : Nat) : Bool :=
  if d = 0 then s.idle
  else if d ≤ 3 then (List.range 12).all (fun c => (s.chan c).queue.isEmpty)
  else if d = 4 then !s.cellarUsed
  else if d ≤ 12 then
    let c := s.coreAt (d - 5)
    c.queue.isEmpty && c.second.isNone && c.active.isNone && c.done.isNone && c.preempt.isNone
  else if d ≤ 20 then decide ((s.domAt (d - 8)).st = .sleep ∨ (s.domAt (d - 8)).st = .off) && !s.storeMoving (d - 13)
  else if d ≤ 24 then (s.clusterStreams (d - 21)).all (fun e => e.2.pics.all (fun p => !p.undecoded))
  else if d = 25 then s.media.enBusy.all (fun e => e.2.isNone)
  else if d = 26 then s.media.pages.all (fun e => decide (e.2.stage ≠ .accepted ∧ e.2.stage ≠ .decoding))
  else if d = 27 then decide (s.media.ppBusy = 0) && s.media.crops.isEmpty &&
    s.media.streams.all (fun e => e.2.pics.all (fun p => !p.analysed || p.quantised || decide (p.stage ≠ .decoded)))
  else if d = 28 then !s.finishingWork
  else s.text.reads.all (fun e => e.2.ended) && s.cp.flight.all (fun f => decide (f.pk.opcode ≠ 0x0504))

/-- Whether a domain may be put to sleep: ON, no wake asked for, and everything that needs it asleep; for the MEMGs, DC, EN and PG as well (R25, R405, R406). -/
def State.maySleep (s : State) (d : Nat) : Bool :=
  decide ((s.domAt d).st = .on) && decide ((s.domAt d).move = .none) && !(s.domAt d).wakeReq &&
  ((domDependents d).all (fun e => decide ((s.domAt e).st ≠ .on) && decide ((s.domAt e).move ≠ .waking))) &&
  (!decide (1 ≤ d ∧ d ≤ 3) || (List.range 6).all (fun i => decide ((s.domAt (21 + i)).st ≠ .on) && decide ((s.domAt (21 + i)).move ≠ .waking)))

/-- DOMAIN_IDLE_EXPIRY (R405): the block's idle request, and sleep entry begun; MEMG0 to MEMG2 go together (R406). -/
def execDomainIdleExpiry (domain : Fin 30) (s : State) : StepOut :=
  let d := domain.val
  if s.domIdle d && s.maySleep d then
    let ds := if 1 ≤ d ∧ d ≤ 3 then [1, 2, 3].filter s.maySleep else [d]
    .next (ds.foldl (fun s e => s.setDom e (fun m => { m with move := .entering })) s)
  else .next s

/-- A domain's sleep entry completes: SLEEP; for an MS domain RET, or OFF where its core is owned by none and its store holds no tensor (R402, R409). -/
def State.fallAsleep (s : State) (d : Nat) : State :=
  if 13 ≤ d ∧ d ≤ 20 then
    if (s.coreAt (d - 13)).owner = 0 ∧ s.storeUsed (d - 13) = false then
      (s.setDom d (fun m => { m with st := .off, move := .none })).offLoss d
    else (s.setDom d (fun m => { m with st := .ret, move := .none })).sleepLoss d
  else (s.setDom d (fun m => { m with st := .sleep, move := .none })).sleepLoss d

/-- DOMAIN_SLEEP_DONE (R405). -/
def execDomainSleepDone (domain : Fin 30) (s : State) : StepOut :=
  if (s.domAt domain).move = .entering then .next (s.fallAsleep domain) else .next s

/-! ### Wakes (R25, R405, R492) -/

/-- A core's MC and SEQ registers at their Reset values (R82, R167, R492). -/
def Core.regsReset (c : Core) : Core :=
  { c with checksum := false, mapFull := false, rowFail := 0, colFail := 0, checkCount := 0, checkLast := none, eccStatus := 0,
           ce := 0, ueAddr := 0, passes := 0, skips := 0, stalls := 0, lastQuire := 0, longCount := 0, abandonCount := 0 }

/-- A channel's counters and pattern registers at their Reset values; what training left is kept in AON (R358, R382, R492). -/
def Chan.regsReset (c : Chan) : Chan :=
  { c with ce := 0, ue := 0, ueAddr := none, crc := 0, parity := 0, holds := 0, moves := 0, patgen := 0, patbase := 0,
           patRun := false, cmpDone := false, cmpErrors := 0, cmpLane := 0 }

/-- The registers of the blocks a domain holds, at their Reset values: what leaving OFF does (R487, R492). -/
def State.regsReset (s : State) (d : Nat) : State :=
  if d = 0 then
    { s with cp := { s.cp with binEmpty := 0, syncSel := 0, syncSelSpine := 0, binSel := 0, binSelSpine := 0 },
             cel := { s.cel with transfers := 0, preempts := 0, last := none, rerunCheck := 0, rerunAbandon := 0, rackBytes := 0,
                                 acctSel := 0, acctSelSpine := 0 } }
  else if d ≤ 3 then (List.range 4).foldl (fun s i => s.setChan (4 * (d - 1) + i) Chan.regsReset) s
  else if d = 4 then s
  else if d ≤ 12 then s.setCore (d - 5) Core.regsReset
  else if d ≤ 20 then s
  else if d ≤ 24 then s.setCluster (d - 21) (fun c => { c with conceal := 0, budget := 0, pictures := 0 })
  else if d = 25 then { s with media := { s.media with enPictures := 0, enDrops := 0 } }
  else if d = 26 then { s with media := { s.media with pgBudget := 0, pgTrunc := 0, pgRefused := 0, pgPages := 0 } }
  else if d = 27 then { s with media := { s.media with ppPixels := [], ppHolds := [] } }
  else if d = 28 then { s with media := { s.media with tkRecords := [], tkFull := [] } }
  else { s with text := { s.text with maskLate := 0, replaces := 0, rejects := 0, stops := 0, steps := 0 } }

/-- A domain that has woken: ON; from OFF its registers start at their Reset values; a MEMG's channels leave self-refresh; a core that serves again returns (R193, R377, R405, R492). -/
def State.comeOn (s : State) (d : Nat) : State :=
  let s := if (s.domAt d).st = .off then s.regsReset d else s
  let s := s.setDom d (fun m => { m with st := .on, move := .none, wakeReq := false })
  let s := if 1 ≤ d ∧ d ≤ 3 then (List.range 4).foldl (fun s i => s.setChan (4 * (d - 1) + i) (fun c => { c with selfRefresh := false })) s else s
  if 5 ≤ d ∧ d ≤ 20 ∧ s.dev.stage = .ready then s.returnCore ((d - 5) % 8) else s

/-- The domains that wait for a wake and cannot have it, once the wake of d has failed: those that need d; for a MEMG, those that need one when no other is ON or waking (R24, R25). -/
def State.stranded (s : State) (d : Nat) : List Nat :=
  (List.range 30).filter (fun e => decide (e ≠ d) && (s.domAt e).wakeReq && decide ((s.domAt e).st ≠ .on) && (domNeeds e).contains d &&
    (!decide (1 ≤ d ∧ d ≤ 3) || [1, 2, 3].all (fun n => decide ((s.domAt n).st ≠ .on) && decide ((s.domAt n).move ≠ .waking))))

/-- A domain whose wake fails: no wake of it is asked for, and the accesses held for it end (R25). -/
def State.failWake (s : State) (d : Nat) : State :=
  (s.setDom d (fun m => { m with move := .none, wakeReq := false })).releaseHeld d false

/-- DOMAIN_WAKE_DONE (R25, R405): held accesses and waiting work go on; where the wake failed, the accesses held for it, and for what needs it, end. -/
def execDomainWakeDone (domain : Fin 30) (ok : Bool) (s : State) : StepOut :=
  let d := domain.val
  if (s.domAt d).move ≠ .waking then .next s
  else if ok then .next ((((s.comeOn d).beginWakes).releaseHeld d true).settle)
  else
    let s := s.failWake d
    .next ((s.stranded d).foldl State.failWake s)

/-! ### Clock generators (R408) -/

/-- PLL_LOCKED (R408): the wakes that waited for it begin. -/
def execPllLocked (pll : Fin 6) (s : State) : StepOut :=
  if s.pwr.pllStarting.getLsbD pll then
    .next ({ s with pwr := { s.pwr with
      pllLocked := s.pwr.pllLocked ||| BitVec.ofNat 6 (2 ^ pll.val),
      pllStarting := s.pwr.pllStarting &&& ~~~(BitVec.ofNat 6 (2 ^ pll.val)) } }).beginWakes
  else .next s

/-- Whether a domain that a PLL feeds is ON, waking or asked for. -/
def State.pllNeeded (s : State) (pll : Nat) : Bool :=
  (List.range 30).any (fun d => (domPlls d).contains pll &&
    (decide ((s.domAt d).st = .on) || decide ((s.domAt d).move = .waking) || (s.domAt d).wakeReq))

/-- PLL_STOP (R408). -/
def execPllStop (pll : Fin 6) (s : State) : StepOut :=
  if s.pllNeeded pll then .next s
  else .next { s with pwr := { s.pwr with pllLocked := s.pwr.pllLocked &&& ~~~(BitVec.ofNat 6 (2 ^ pll.val)) } }

end Sys2Proof.Machine
end

