-- ==== Sys2Proof/Machine/Dispatch.lean ====
section
/-! DEFINITION. The dispatch: one arm for each command of the table. -/

namespace Sys2Proof.Machine

def exec (i : Instr) (s : State) : Host.Outcome State Fault Refusal :=
  match i with
  | .powerOn straps => Sys2Proof.Machine.execPowerOn straps s
  | .powerLoss => Sys2Proof.Machine.execPowerLoss s
  | .sysReset straps => Sys2Proof.Machine.execSysReset straps s
  | .linkReset cause => Sys2Proof.Machine.execLinkReset cause s
  | .pf0Flr => Sys2Proof.Machine.execPf0Flr s
  | .flr vf => Sys2Proof.Machine.execFlr vf s
  | .vfResetDone vf => Sys2Proof.Machine.execVfResetDone vf s
  | .vfEnableChange enable numVFs => Sys2Proof.Machine.execVfEnableChange enable numVFs s
  | .linkChange up width speed => Sys2Proof.Machine.execLinkChange up width speed s
  | .l0sEntry => Sys2Proof.Machine.execL0sEntry s
  | .l1Entry clkreqReleased ltrThresholdNs => Sys2Proof.Machine.execL1Entry clkreqReleased ltrThresholdNs s
  | .thermtrip => Sys2Proof.Machine.execThermtrip s
  | .slowClockTimeout => Sys2Proof.Machine.execSlowClockTimeout s
  | .caskInserted media => Sys2Proof.Machine.execCaskInserted media s
  | .caskRemoved => Sys2Proof.Machine.execCaskRemoved s
  | .traceClaim resource => Sys2Proof.Machine.execTraceClaim resource s
  | .traceRelease resource => Sys2Proof.Machine.execTraceRelease resource s
  | .hwTrainingDone trained prbsOk readMargin writeMargin => Sys2Proof.Machine.execHwTrainingDone trained prbsOk readMargin writeMargin s
  | .trainingFallbackDone ch readRun writeRun prbsOk => Sys2Proof.Machine.execTrainingFallbackDone ch readRun writeRun prbsOk s
  | .tastingDone failures => Sys2Proof.Machine.execTastingDone failures s
  | .dramScrubDone => Sys2Proof.Machine.execDramScrubDone s
  | .slotTrialTimeout => Sys2Proof.Machine.execSlotTrialTimeout s
  | .mpRestart => Sys2Proof.Machine.execMpRestart s
  | .firmwareDelivery receivers => Sys2Proof.Machine.execFirmwareDelivery receivers s
  | .firmwareChunk receiver component index data crc => Sys2Proof.Machine.execFirmwareChunk receiver component index data crc s
  | .firmwareResendRound => Sys2Proof.Machine.execFirmwareResendRound s
  | .receiverRelease receiver => Sys2Proof.Machine.execReceiverRelease receiver s
  | .computeReset req => Sys2Proof.Machine.execComputeReset req s
  | .cpAbortReplyTimeout => Sys2Proof.Machine.execCpAbortReplyTimeout s
  | .readCompletionDrop => Sys2Proof.Machine.execReadCompletionDrop s
  | .computeResetRestart => Sys2Proof.Machine.execComputeResetRestart s
  | .sensorSample readings => Sys2Proof.Machine.execSensorSample readings s
  | .thermalReleaseTick => Sys2Proof.Machine.execThermalReleaseTick s
  | .thermalReturnTick => Sys2Proof.Machine.execThermalReturnTick s
  | .accountingInterval energy => Sys2Proof.Machine.execAccountingInterval energy s
  | .heartbeat cpAnswers celAnswers => Sys2Proof.Machine.execHeartbeat cpAnswers celAnswers s
  | .logFlush => Sys2Proof.Machine.execLogFlush s
  | .domainIdleExpiry domain => Sys2Proof.Machine.execDomainIdleExpiry domain s
  | .domainSleepDone domain => Sys2Proof.Machine.execDomainSleepDone domain s
  | .domainWakeDone domain ok => Sys2Proof.Machine.execDomainWakeDone domain ok s
  | .pllLocked pll => Sys2Proof.Machine.execPllLocked pll s
  | .pllStop pll => Sys2Proof.Machine.execPllStop pll s
  | .dramRead line ecc => Sys2Proof.Machine.execDramRead line ecc s
  | .dramWrite line data poison cls => Sys2Proof.Machine.execDramWrite line data poison cls s
  | .refresh ch rank readMargin writeMargin moved => Sys2Proof.Machine.execRefresh ch rank readMargin writeMargin moved s
  | .retrainHoldDone ch readMargin writeMargin => Sys2Proof.Machine.execRetrainHoldDone ch readMargin writeMargin s
  | .dramTempPoll ch ranges => Sys2Proof.Machine.execDramTempPoll ch ranges s
  | .caParityAlert ch => Sys2Proof.Machine.execCaParityAlert ch s
  | .writeCrcAlert ch => Sys2Proof.Machine.execWriteCrcAlert ch s
  | .writeCrcIntervalStart ch => Sys2Proof.Machine.execWriteCrcIntervalStart ch s
  | .writeCrcIntervalEnd ch => Sys2Proof.Machine.execWriteCrcIntervalEnd ch s
  | .patrolScrubLine ecc => Sys2Proof.Machine.execPatrolScrubLine ecc s
  | .prechargePowerDown ch rank => Sys2Proof.Machine.execPrechargePowerDown ch rank s
  | .patgenGo ch value => Sys2Proof.Machine.execPatgenGo ch value s
  | .patgenDone ch errors firstLane => Sys2Proof.Machine.execPatgenDone ch errors firstLane s
  | .doorbell fn ring tail => Sys2Proof.Machine.execDoorbell fn ring tail s
  | .ringEnable fn ring ctrl => Sys2Proof.Machine.execRingEnable fn ring ctrl s
  | .ringDisable fn ring ctrl => Sys2Proof.Machine.execRingDisable fn ring ctrl s
  | .replyHeadWrite fn ring head => Sys2Proof.Machine.execReplyHeadWrite fn ring head s
  | .resultRingEnable fn ctrl => Sys2Proof.Machine.execResultRingEnable fn ctrl s
  | .resultRingDisable fn ctrl => Sys2Proof.Machine.execResultRingDisable fn ctrl s
  | .resultHeadWrite fn head => Sys2Proof.Machine.execResultHeadWrite fn head s
  | .windowEntryWrite fn index access => Sys2Proof.Machine.execWindowEntryWrite fn index access s
  | .windowRead fn offset len => Sys2Proof.Machine.execWindowRead fn offset len s
  | .windowWrite fn offset data => Sys2Proof.Machine.execWindowWrite fn offset data s
  | .accessHoldTimeout => Sys2Proof.Machine.execAccessHoldTimeout s
  | .registerWrite target value => Sys2Proof.Machine.execRegisterWrite target value s
  | .rcRegisterRead path addr => Sys2Proof.Machine.execRcRegisterRead path addr s
  | .latchedCounterRead addr high => Sys2Proof.Machine.execLatchedCounterRead addr high s
  | .hostDmaDone id data => Sys2Proof.Machine.execHostDmaDone id data s
  | .hostDmaError target => Sys2Proof.Machine.execHostDmaError target s
  | .undefinedOpcode pk => Sys2Proof.Machine.execUndefinedOpcode pk s
  | .headerWaitTimeout fn ring signals => Sys2Proof.Machine.execHeaderWaitTimeout fn ring signals s
  | .syncWaitTimeout id signals => Sys2Proof.Machine.execSyncWaitTimeout id signals s
  | .nop pk => Sys2Proof.Machine.execNop pk s
  | .functionInfo pk => Sys2Proof.Machine.execFunctionInfo pk s
  | .partitionCreate pk => Sys2Proof.Machine.execPartitionCreate pk s
  | .partitionResize pk => Sys2Proof.Machine.execPartitionResize pk s
  | .partitionDestroy pk => Sys2Proof.Machine.execPartitionDestroy pk s
  | .folioLoad pk => Sys2Proof.Machine.execFolioLoad pk s
  | .folioUnload pk => Sys2Proof.Machine.execFolioUnload pk s
  | .pipelineCreate pk => Sys2Proof.Machine.execPipelineCreate pk s
  | .pipelineDestroy pk => Sys2Proof.Machine.execPipelineDestroy pk s
  | .accountRead pk => Sys2Proof.Machine.execAccountRead pk s
  | .streamOpen pk => Sys2Proof.Machine.execStreamOpen pk s
  | .feed pk => Sys2Proof.Machine.execFeed pk s
  | .streamFlush pk => Sys2Proof.Machine.execStreamFlush pk s
  | .streamReset pk => Sys2Proof.Machine.execStreamReset pk s
  | .streamClose pk => Sys2Proof.Machine.execStreamClose pk s
  | .snapshot pk => Sys2Proof.Machine.execSnapshot pk s
  | .clipStart pk => Sys2Proof.Machine.execClipStart pk s
  | .clipStop pk => Sys2Proof.Machine.execClipStop pk s
  | .encodeKey pk => Sys2Proof.Machine.execEncodeKey pk s
  | .pageSourceOpen pk => Sys2Proof.Machine.execPageSourceOpen pk s
  | .submitPage pk => Sys2Proof.Machine.execSubmitPage pk s
  | .pageSourceClose pk => Sys2Proof.Machine.execPageSourceClose pk s
  | .textTableLoad pk => Sys2Proof.Machine.execTextTableLoad pk s
  | .textTableUnload pk => Sys2Proof.Machine.execTextTableUnload pk s
  | .tokenizeOpen pk => Sys2Proof.Machine.execTokenizeOpen pk s
  | .tokenizeFeed pk => Sys2Proof.Machine.execTokenizeFeed pk s
  | .tokenizeClose pk => Sys2Proof.Machine.execTokenizeClose pk s
  | .syncSignal pk => Sys2Proof.Machine.execSyncSignal pk s
  | .syncWait pk => Sys2Proof.Machine.execSyncWait pk s
  | .syncRead pk => Sys2Proof.Machine.execSyncRead pk s
  | .binFree pk => Sys2Proof.Machine.execBinFree pk s
  | .binShare pk => Sys2Proof.Machine.execBinShare pk s
  | .binCount pk => Sys2Proof.Machine.execBinCount pk s
  | .binTake pk => Sys2Proof.Machine.execBinTake pk s
  | .dmaIn pk => Sys2Proof.Machine.execDmaIn pk s
  | .dmaOut pk => Sys2Proof.Machine.execDmaOut pk s
  | .identityStatus req => Sys2Proof.Machine.execIdentityStatus req s
  | .logRead req => Sys2Proof.Machine.execLogRead req s
  | .sensorRead req => Sys2Proof.Machine.execSensorRead req s
  | .functionReset req => Sys2Proof.Machine.execFunctionReset req s
  | .domainPowerOff req => Sys2Proof.Machine.execDomainPowerOff req s
  | .domainPowerOn req => Sys2Proof.Machine.execDomainPowerOn req s
  | .forcedShutdown req => Sys2Proof.Machine.execForcedShutdown req s
  | .resetPolicy req => Sys2Proof.Machine.execResetPolicy req s
  | .defectRead req => Sys2Proof.Machine.execDefectRead req s
  | .stage req => Sys2Proof.Machine.execStage req s
  | .activate req => Sys2Proof.Machine.execActivate req s
  | .commitSvn req => Sys2Proof.Machine.execCommitSvn req s
  | .boardRecord req => Sys2Proof.Machine.execBoardRecord req s
  | .keyEnroll req => Sys2Proof.Machine.execKeyEnroll req s
  | .keyRemove req => Sys2Proof.Machine.execKeyRemove req s
  | .attest req => Sys2Proof.Machine.execAttest req s
  | .caskStatus req => Sys2Proof.Machine.execCaskStatus req s
  | .caskList req => Sys2Proof.Machine.execCaskList req s
  | .caskWrite req => Sys2Proof.Machine.execCaskWrite req s
  | .caskDelete req => Sys2Proof.Machine.execCaskDelete req s
  | .pair req => Sys2Proof.Machine.execPair req s
  | .unpair req => Sys2Proof.Machine.execUnpair req s
  | .paramLo pecOk data => Sys2Proof.Machine.execParamLo pecOk data s
  | .paramHi pecOk data => Sys2Proof.Machine.execParamHi pecOk data s
  | .status pecOk => Sys2Proof.Machine.execStatus pecOk s
  | .respLo pecOk => Sys2Proof.Machine.execRespLo pecOk s
  | .respHi pecOk => Sys2Proof.Machine.execRespHi pecOk s
  | .alertAck pecOk value => Sys2Proof.Machine.execAlertAck pecOk value s
  | .sidebandReset => Sys2Proof.Machine.execSidebandReset s
  | .recordCommit fn producer type prio body => Sys2Proof.Machine.execRecordCommit fn producer type prio body s
  | .recordDrain fn badWord descriptorBad => Sys2Proof.Machine.execRecordDrain fn badWord descriptorBad s
  | .resultIrqDelay fn => Sys2Proof.Machine.execResultIrqDelay fn s
  | .placementDecision run quire => Sys2Proof.Machine.execPlacementDecision run quire s
  | .drrGrant pool => Sys2Proof.Machine.execDrrGrant pool s
  | .quireIssue core => Sys2Proof.Machine.execQuireIssue core s
  | .quireComplete core => Sys2Proof.Machine.execQuireComplete core s
  | .quireOutcome core => Sys2Proof.Machine.execQuireOutcome core s
  | .quireLong core => Sys2Proof.Machine.execQuireLong core s
  | .quireWatchdog core => Sys2Proof.Machine.execQuireWatchdog core s
  | .preemptionRequest run quire => Sys2Proof.Machine.execPreemptionRequest run quire s
  | .preemptionRackOutDone core => Sys2Proof.Machine.execPreemptionRackOutDone core s
  | .preemptionTransferDone core duration => Sys2Proof.Machine.execPreemptionTransferDone core duration s
  | .rackMove tensor dest destAddr => Sys2Proof.Machine.execRackMove tensor dest destAddr s
  | .rackMoveDone tensor ecc => Sys2Proof.Machine.execRackMoveDone tensor ecc s
  | .regulatorRefill part bucket => Sys2Proof.Machine.execRegulatorRefill part bucket s
  | .ctrlNop core => Sys2Proof.Machine.execCtrlNop core s
  | .endQuire core => Sys2Proof.Machine.execEndQuire core s
  | .fence core => Sys2Proof.Machine.execFence core s
  | .mark core value => Sys2Proof.Machine.execMark core value s
  | .geom core slotMask index window => Sys2Proof.Machine.execGeom core slotMask index window s
  | .wload core binding plane diag s2 offset ecc => Sys2Proof.Machine.execWload core binding plane diag s2 offset ecc s
  | .weightShadowLoaded core => Sys2Proof.Machine.execWeightShadowLoaded core s
  | .slot core slot binding plane p chain p0 => Sys2Proof.Machine.execSlot core slot binding plane p chain p0 s
  | .pass core slotMask neww bank opening block faults ecc => Sys2Proof.Machine.execPass core slotMask neww bank opening block faults ecc s
  | .flush core slotMask bank shift convert chain outBinding colTile accSet ecc => Sys2Proof.Machine.execFlush core slotMask bank shift convert chain outBinding colTile accSet ecc s
  | .epilogueWriteDone core => Sys2Proof.Machine.execEpilogueWriteDone core s
  | .laneAdd a => Sys2Proof.Machine.execLaneAdd a s
  | .laneSub a => Sys2Proof.Machine.execLaneSub a s
  | .laneAdds a => Sys2Proof.Machine.execLaneAdds a s
  | .laneSubs a => Sys2Proof.Machine.execLaneSubs a s
  | .laneMin a => Sys2Proof.Machine.execLaneMin a s
  | .laneMax a => Sys2Proof.Machine.execLaneMax a s
  | .laneCmpeq a => Sys2Proof.Machine.execLaneCmpeq a s
  | .laneCmplt a => Sys2Proof.Machine.execLaneCmplt a s
  | .laneSel a => Sys2Proof.Machine.execLaneSel a s
  | .laneAnd a => Sys2Proof.Machine.execLaneAnd a s
  | .laneOr a => Sys2Proof.Machine.execLaneOr a s
  | .laneXor a => Sys2Proof.Machine.execLaneXor a s
  | .laneShl a => Sys2Proof.Machine.execLaneShl a s
  | .laneShr a => Sys2Proof.Machine.execLaneShr a s
  | .laneShrt a => Sys2Proof.Machine.execLaneShrt a s
  | .laneAdd32 a => Sys2Proof.Machine.execLaneAdd32 a s
  | .laneSub32 a => Sys2Proof.Machine.execLaneSub32 a s
  | .laneMul a => Sys2Proof.Machine.execLaneMul a s
  | .laneMac32 a => Sys2Proof.Machine.execLaneMac32 a s
  | .laneExp2n a => Sys2Proof.Machine.execLaneExp2n a s
  | .laneRecip a => Sys2Proof.Machine.execLaneRecip a s
  | .laneSum32 a => Sys2Proof.Machine.execLaneSum32 a s
  | .laneMaxReduction a => Sys2Proof.Machine.execLaneMaxReduction a s
  | .laneMinReduction a => Sys2Proof.Machine.execLaneMinReduction a s
  | .laneSort32 a => Sys2Proof.Machine.execLaneSort32 a s
  | .laneMerge a => Sys2Proof.Machine.execLaneMerge a s
  | .laneLoad a => Sys2Proof.Machine.execLaneLoad a s
  | .laneStore a => Sys2Proof.Machine.execLaneStore a s
  | .laneGather a => Sys2Proof.Machine.execLaneGather a s
  | .laneScatter a => Sys2Proof.Machine.execLaneScatter a s
  | .lanePerm a => Sys2Proof.Machine.execLanePerm a s
  | .laneStats a => Sys2Proof.Machine.execLaneStats a s
  | .laneConvert a => Sys2Proof.Machine.execLaneConvert a s
  | .laneSplit a => Sys2Proof.Machine.execLaneSplit a s
  | .laneRecompose a => Sys2Proof.Machine.execLaneRecompose a s
  | .laneSetcnt a => Sys2Proof.Machine.execLaneSetcnt a s
  | .laneSetmask a => Sys2Proof.Machine.execLaneSetmask a s
  | .pictureParse stream pic => Sys2Proof.Machine.execPictureParse stream pic s
  | .pictureDispatch stream decSeq engine => Sys2Proof.Machine.execPictureDispatch stream decSeq engine s
  | .pictureDecoded stream decSeq cycles report => Sys2Proof.Machine.execPictureDecoded stream decSeq cycles report s
  | .decodeBudgetExpiry stream decSeq inUnit report => Sys2Proof.Machine.execDecodeBudgetExpiry stream decSeq inUnit report s
  | .prepQuantise stream decSeq unit => Sys2Proof.Machine.execPrepQuantise stream decSeq unit s
  | .prepPictureDone job unit => Sys2Proof.Machine.execPrepPictureDone job unit s
  | .batchWaitExpiry batch => Sys2Proof.Machine.execBatchWaitExpiry batch s
  | .detectionFinish stream decSeq => Sys2Proof.Machine.execDetectionFinish stream decSeq s
  | .cropJob job unit => Sys2Proof.Machine.execCropJob job unit s
  | .cropJobDone job => Sys2Proof.Machine.execCropJobDone job s
  | .trackUpdate stream => Sys2Proof.Machine.execTrackUpdate stream s
  | .encodePictureDone encoder session decSeq bytes cycles endChunk => Sys2Proof.Machine.execEncodePictureDone encoder session decSeq bytes cycles endChunk s
  | .snapshotDone scan cycles => Sys2Proof.Machine.execSnapshotDone scan cycles s
  | .pageHeaderParsed page hdr => Sys2Proof.Machine.execPageHeaderParsed page hdr s
  | .bandDone page result => Sys2Proof.Machine.execBandDone page result s
  | .pageBudgetExpiry page rows dataBytes => Sys2Proof.Machine.execPageBudgetExpiry page rows dataBytes s
  | .lineFinish page => Sys2Proof.Machine.execLineFinish page s
  | .stepRelease read => Sys2Proof.Machine.execStepRelease read s
  | .decodeStep batch => Sys2Proof.Machine.execDecodeStep batch s
  | .maskUpdate read => Sys2Proof.Machine.execMaskUpdate read s
  | .maskReady read => Sys2Proof.Machine.execMaskReady read s
  | .tokenSelect read => Sys2Proof.Machine.execTokenSelect read s
  | .perstNRising => Sys2Proof.Machine.execPerstNRising s
  | .mpOperationStep => Sys2Proof.Machine.execMpOperationStep s
  | .entdaa address => Sys2Proof.Machine.execEntdaa address s

end Sys2Proof.Machine
end

