-- ==== Sys2Proof/Safety.lean ====
section
/-! DEFINITION. The terms that claims are stated in: when a command has its own effect, and what its answer is. -/

namespace Sys2Proof.Machine

/-! ### Packets (R304, R308, R310, R313) -/

/-- A packet of an opcode that its function may send is fetched now, passes the checks of R310, need not wait for its header's counter, and its body runs. -/
def State.runs (s : State) (op : Nat) (pk : Packet) : Prop :=
  pk.opcode = op ∧ maySend op pk.fn = true ∧ s.fetchable pk = true ∧ s.fetchChecks pk = none ∧
  s.headerReady pk = true ∧ (s.fetched pk []).startChecks (s.newFlight pk []) = none

/-- The packet's in-flight entry. -/
def State.entry (s : State) (pk : Packet) : Flight := s.newFlight pk []

/-- What a command answers when the packet's body has brought the device to u and the packet goes on waiting there. -/
def goesOn (u : State) : Host.Outcome State Fault Refusal := .next u.settle

/-- What a command answers when the packet's body has brought the device to u and the packet ends with a reply. -/
def State.replies (s : State) (pk : Packet) (u : State) (a : Ans) : Host.Outcome State Fault Refusal :=
  .next (u.endPacket (s.entry pk) a).settle

/-! ### Management requests (R423 to R428) -/

/-- The operation a request makes of body and data, on its path: 0 mailbox, 1 sideband, 2 packet. -/
def State.asked (s : State) (req : MgmtReq) (op : Nat) : MgmtOp :=
  match req.path with
  | .mailbox => { op, body := s.mgt.mbx.data, data := req.data, path := 0, id := 0, steps := 0 }
  | .sideband => { op, body := s.mgt.sb.data, data := [], path := 1, id := 0, steps := 0 }
  | .packet pk => { op, body := sliceB pk.bytes 16 64, data := req.data, path := 2, id := s.cp.nextId, steps := 0 }

/-- The device once the request o has been taken in, before the MP serves it. -/
def State.tookIn (s : State) (req : MgmtReq) (o : MgmtOp) : State :=
  match req.path with
  | .mailbox => s.tlp.opMark o
  | .sideband => s.opMark o
  | .packet pk => (s.fetched pk req.data).opMark o

/-- Whether a path accepts a request: HI ready and the mailbox not busy, the sideband not busy, or a packet of the operation that PF0's ring may fetch and whose header wait is over (R425, R427, R428). -/
def State.accepts (s : State) (req : MgmtReq) (op : Nat) : Prop :=
  match req.path with
  | .mailbox => s.dev.hiReady = true ∧ s.mgt.mbx.busy = false ∧ s.mgt.heldGo = none
  | .sideband => s.mgt.sb.busy = false
  | .packet pk => 1 ≤ op ∧ pk.opcode = 0x0900 + op ∧ maySend pk.opcode pk.fn = true ∧ s.fetchable pk = true ∧ s.fetchChecks pk = none ∧
      s.headerReady pk = true

/-- The MP takes the operation o of a request at once, in the state u: the path accepts it, the MP runs and serves nothing else, and it serves the operation where the device stands (R425, R437, R438, R462). -/
def State.mpTakes (s : State) (op : Nat) (req : MgmtReq) (u : State) (o : MgmtOp) : Prop :=
  s.accepts req op ∧ o = s.asked req op ∧ u = s.tookIn req o ∧ (s.mgt.mpState = 1 ∨ s.mgt.mpState = 2) ∧ s.mgt.ops = [] ∧
  s.mgt.updateBusy = false ∧ u.opServed o = true ∧ (o.path = 2 ∨ o.reserved = none)

/-- What a command answers when an operation ends with an answer. -/
def mpEnds (u : State) (o : MgmtOp) (a : MAns) : Host.Outcome State Fault Refusal := .next ((u.opAnswer o a).syncUpdate).settle

/-- What a command answers when an operation acts once its answer stands. -/
def mpActs (u : State) (o : MgmtOp) (f : State → MgmtOp → State × MAns) : Host.Outcome State Fault Refusal :=
  .next ((f (u.opAnswer o (f u o).2) o).1.syncUpdate).settle

/-! ### Lane instructions (R76, R151, R518) -/

/-- A write of the lane unit issued: it is outstanding, and the staged tiles it meets are read again (R63, R97). -/
def State.laneIssue (s : State) (n : Nat) (segs : List (Nat × List Byte)) (zero : List (Nat × Nat × Nat × Nat)) : State :=
  (s.setCore n (fun y => { y with writes := y.writes ++ [{ segs, zero, lane := true }] })).dropStaged n segs

/-- What a lane instruction leaves unchanged: every register but its destination, every other core, the writes not yet landed, memory and the Cellarer's tables. -/
def State.laneFrame (s u : State) (a : LaneArgs) : Prop :=
  (∀ r k : Nat, r ≠ a.vd.val → k < 64 → (u.coreAt a.core).lane r k = (s.coreAt a.core).lane r k) ∧
  (∀ n : Nat, n ≠ a.core.val → u.coreAt n = s.coreAt n) ∧ (u.coreAt a.core).writes = (s.coreAt a.core).writes ∧ u.mem = s.mem ∧ u.cel = s.cel

/-- Whether command i, when LANE operation `lop` of the operands is its core's next word, writes f into the destination's 16-bit lanes whose mask bit is 1, and changes nothing else. -/
def State.laneWrites (s : State) (a : LaneArgs) (lop : Nat) (i : Instr) (f : Nat → BitVec 16) : Prop :=
  (s.atLane lop a).isSome = true → ∃ u : State, exec i s = .next u ∧
    (∀ k : Nat, k < 64 → (u.coreAt a.core).lane a.vd k =
      if (s.coreAt a.core).mask.getLsbD k = true then f k else (s.coreAt a.core).lane a.vd k) ∧
    (u.coreAt a.core).mask = (s.coreAt a.core).mask ∧ s.laneFrame u a

/-- The same in 32-bit lanes, under the mask bit of the lower half. -/
def State.laneWrites32 (s : State) (a : LaneArgs) (lop : Nat) (i : Instr) (f : Nat → BitVec 32) : Prop :=
  (s.atLane lop a).isSome = true → ∃ u : State, exec i s = .next u ∧
    (∀ k : Nat, k < 32 → (u.coreAt a.core).lane32 a.vd k =
      if (s.coreAt a.core).mask.getLsbD (2 * k) = true then f k else (s.coreAt a.core).lane32 a.vd k) ∧ s.laneFrame u a

/-- Whether command i, when LANE operation `lop` is next, sets mask bit k to f k, and changes nothing else. -/
def State.maskWrites (s : State) (a : LaneArgs) (lop : Nat) (i : Instr) (f : Nat → Bool) : Prop :=
  (s.atLane lop a).isSome = true → ∃ u : State, exec i s = .next u ∧
    (∀ k : Nat, k < 64 → (u.coreAt a.core).mask.getLsbD k = f k) ∧ (u.coreAt a.core).v = (s.coreAt a.core).v ∧ s.laneFrame u a

end Sys2Proof.Machine
end

