-- ==== Sys2Proof/Certificates/Slice0/Obligations.lean ====
section
/-! DEFINITION. What the provers are asked to prove of the model: one statement a definition, each with the rules it formalises. -/

section Claims

open Sys2Proof Sys2Proof.Machine

/-- NOP, the sync packets and SYNC_WAIT's two forms complete as R316 and R340 to R342 say: the counter takes the saturated sum or the set value, the reply holds the value produced, and a wait that the counter does not yet satisfy stays in flight. -/
def Obligations.SyncPacketsAnswer : Prop :=
  ∀ (s : State) (pk : Packet),
    (s.runs 0x0101 pk → exec (.nop pk) s = s.replies pk (s.fetched pk []) { status := stOk }) ∧
    (s.runs 0x0601 pk → pkF pk 16 2 < s.syncObjects pk.fn → pkF pk 18 1 = 0 →
      exec (.syncSignal pk) s =
        s.replies pk ((s.fetched pk []).setCounter pk.fn (pkF pk 16 2) (min (s.counter pk.fn (pkF pk 16 2) + pkF pk 24 8) (2 ^ 64 - 1)))
          { status := stOk, detail := if 2 ^ 64 ≤ s.counter pk.fn (pkF pk 16 2) + pkF pk 24 8 then 1 else 0,
            c0 := min (s.counter pk.fn (pkF pk 16 2) + pkF pk 24 8) (2 ^ 64 - 1) }) ∧
    (s.runs 0x0601 pk → pkF pk 16 2 < s.syncObjects pk.fn → pkF pk 18 1 = 1 →
      exec (.syncSignal pk) s =
        s.replies pk ((s.fetched pk []).setCounter pk.fn (pkF pk 16 2) (pkF pk 24 8)) { status := stOk, c0 := pkF pk 24 8 }) ∧
    (s.runs 0x0602 pk → pkF pk 16 2 < s.syncObjects pk.fn → pkF pk 24 8 ≤ s.counter pk.fn (pkF pk 16 2) →
      exec (.syncWait pk) s = s.replies pk (s.fetched pk []) { status := stOk, c0 := s.counter pk.fn (pkF pk 16 2) }) ∧
    (s.runs 0x0602 pk → pkF pk 16 2 < s.syncObjects pk.fn → s.counter pk.fn (pkF pk 16 2) < pkF pk 24 8 →
      exec (.syncWait pk) s =
        goesOn ((s.fetched pk []).setWait (s.entry pk) (fun x => { x with wait := .sync (pkF pk 16 2) (pkF pk 24 8) }))) ∧
    (s.runs 0x0603 pk → pkF pk 16 2 < s.syncObjects pk.fn →
      exec (.syncRead pk) s = s.replies pk (s.fetched pk []) { status := stOk, c0 := s.counter pk.fn (pkF pk 16 2) })

/-- The bin packets complete as R316 and R350 to R352 say: BIN_FREE returns the buffer its final owner names, BIN_SHARE replaces its owners, BIN_COUNT reports the free buffers of the eight sizes, and BIN_TAKE hands the free buffer of the smallest size that holds the request to the VF. -/
def Obligations.BinPacketsAnswer : Prop :=
  ∀ (s : State) (pk : Packet),
    (∀ k, s.runs 0x0701 pk → s.namedBuf pk.fn (pkF pk 16 8) = .ok k → s.finalOwner k = pk.fn →
      exec (.binFree pk) s = s.replies pk ((s.fetched pk []).returnBuf k) { status := stOk }) ∧
    (∀ k, s.runs 0x0702 pk → shareChecks pk = none → s.namedBuf pk.fn (pkF pk 16 8) = .ok k → s.finalOwner k = pk.fn →
      s.shareFree pk = none →
      exec (.binShare pk) s = s.replies pk ((s.fetched pk []).setBuf k (fun b => { b with
        hold := .host ((pkOwners pk).filter (fun o => decide (o ≠ 0))) ((pkOwners pk).getD (pkF pk 28 1) 0) })) { status := stOk }) ∧
    (s.runs 0x0703 pk →
      exec (.binCount pk) s = s.replies pk (s.fetched pk []) {
        status := stOk,
        c0 := (s.freeCount pk.fn 0 % 65536) + (s.freeCount pk.fn 1 % 65536) * 2 ^ 16 + (s.freeCount pk.fn 2 % 65536) * 2 ^ 32 +
          (s.freeCount pk.fn 3 % 65536) * 2 ^ 48,
        c1 := (s.freeCount pk.fn 4 % 65536) + (s.freeCount pk.fn 5 % 65536) * 2 ^ 16 + (s.freeCount pk.fn 6 % 65536) * 2 ^ 32 +
          (s.freeCount pk.fn 7 % 65536) * 2 ^ 48 }) ∧
    (∀ k, s.runs 0x0704 pk → 1 ≤ pkF pk 16 4 → pkF pk 16 4 ≤ 67108864 → s.freeBuf pk.fn (binFor (pkF pk 16 4)) = some k →
      exec (.binTake pk) s = s.replies pk ((s.fetched pk []).setBuf k (fun b => { b with hold := .host [keyPart k] (keyPart k) }))
        { status := stOk, c0 := s.bufHandle k })

/-- DMA_IN, DMA_OUT, FUNCTION_INFO and ACCOUNT_READ complete as R318, R320 and R322 say: the read or the write of host memory begins and the packet waits for its end; a DMA_OUT that meets a poisoned line writes the bytes before it and ends with DATA_POISONED and the line's offset in the buffer. -/
def Obligations.HostTransferPacketsBegin : Prop :=
  ∀ (s : State) (pk : Packet),
    (∀ k, s.runs 0x0801 pk → 1 ≤ pkF pk 36 4 → pkF pk 36 4 ≤ 67108864 → s.namedBuf pk.fn (pkF pk 24 8) = .ok k →
      pkF pk 32 4 + pkF pk 36 4 ≤ binSize (keySize k) →
      exec (.dmaIn pk) s = goesOn (((s.fetched pk []).emit (.hostRead pk.fn (pkF pk 16 8) (pkF pk 36 4) true)).setWait (s.entry pk)
        (fun x => { x with wait := .dma, aux := [k] }))) ∧
    (∀ k, s.runs 0x0802 pk → 1 ≤ pkF pk 36 4 → pkF pk 36 4 ≤ 67108864 → s.namedBuf pk.fn (pkF pk 24 8) = .ok k →
      pkF pk 32 4 + pkF pk 36 4 ≤ binSize (keySize k) → s.firstPoison (s.bufAddr k + pkF pk 32 4) (pkF pk 36 4) = none →
      exec (.dmaOut pk) s = goesOn ((((s.fetched pk []).emit
        (.hostWrite pk.fn (pkF pk 16 8) (s.bytesAt (s.bufAddr k + pkF pk 32 4) (pkF pk 36 4)))).setWait (s.entry pk)
        (fun x => { x with wait := .dma })).setWait (s.entry pk) (fun x => { x with aux := [pkF pk 36 4] }))) ∧
    (∀ k b, s.runs 0x0802 pk → 1 ≤ pkF pk 36 4 → pkF pk 36 4 ≤ 67108864 → s.namedBuf pk.fn (pkF pk 24 8) = .ok k →
      pkF pk 32 4 + pkF pk 36 4 ≤ binSize (keySize k) → s.firstPoison (s.bufAddr k + pkF pk 32 4) (pkF pk 36 4) = some b →
      exec (.dmaOut pk) s = s.replies pk ((s.fetched pk []).emit
        (.hostWrite pk.fn (pkF pk 16 8) (s.bytesAt (s.bufAddr k + pkF pk 32 4) (b - (s.bufAddr k + pkF pk 32 4)))))
        { status := stDataPoisoned, c0 := b - (s.bufAddr k + pkF pk 32 4), c1 := b / 64 * 64 - s.bufAddr k }) ∧
    (s.runs 0x0102 pk →
      exec (.functionInfo pk) s = goesOn (((s.fetched pk []).emit (.hostWrite pk.fn (pkF pk 16 8) ((s.fetched pk []).functionBlock pk.fn))).setWait
        (s.entry pk) (fun x => { x with wait := .dma }))) ∧
    (s.runs 0x0208 pk → pkF pk 16 1 = 0 →
      exec (.accountRead pk) s = goesOn (((s.fetched pk []).emit (.hostWrite pk.fn (pkF pk 24 8) (s.acctBytes pk.fn))).setWait
        (s.entry pk) (fun x => { x with wait := .dma }))) ∧
    (∀ r, s.runs 0x0208 pk → 1 ≤ pkF pk 16 1 → pkF pk 16 1 ≤ 3 → s.clientOf pk.fn (pkF pk 16 1) (pkF pk 20 4) = some r →
      exec (.accountRead pk) s = goesOn (((s.fetched pk []).emit (.hostWrite pk.fn (pkF pk 24 8) (s.acctBytes r))).setWait
        (s.entry pk) (fun x => { x with wait := .dma })))

/-- PARTITION_CREATE completes for a FREE partition whose fields are in range and that nothing refuses: it is OPEN with the packet's parameters and the memory picked for it, its sync counters and its accounting record start at 0, a core changes owner only to it, and other partitions and memory are as before.
PARTITION_RESIZE and PARTITION_DESTROY complete for a partition in a state that takes them: the new parameters stand and the reply waits for the cores that leave; a destroyed partition is DRAINING and the reply waits until it is FREE (R169 to R172, R192, R319). -/
def Obligations.PartitionPacketsAct : Prop :=
  (∀ (s : State) (pk : Packet) (p : Nat), p = pkF pk 16 1 → s.runs 0x0201 pk → partChecks pk = none → (s.partAt p).st = .free →
     s.partRefused p { partFields pk {} with st := .opened } false = none →
     ∃ u, exec (.partitionCreate pk) s = s.replies pk u { status := stOk } ∧
       u.partAt p = { partFields pk {} with
         st := .opened, chunks := s.pickChunks (pkF pk 26 2), save := s.pickSave (pkF pk 18 1) (s.pickChunks (pkF pk 26 2)) } ∧
       (∀ o, o < 8192 → u.counter p o = 0) ∧ (∀ c, c < 16 → tget 0 u.cel.acct (16 * p + c) = 0) ∧
       (∀ n, (u.coreAt n).owner = p ∨ (u.coreAt n).owner = (s.coreAt n).owner) ∧
       (∀ q, q ≠ p → u.partAt q = s.partAt q) ∧ u.mem = s.mem) ∧
  (∀ (s : State) (pk : Packet) (p : Nat), p = pkF pk 16 1 →
     (s.runs 0x0202 pk → partChecks pk = none → ((s.partAt p).st = .opened ∨ (s.partAt p).st = .running) →
       resizeChecks pk (s.partAt p) = none → s.partRefused p (partFields pk (s.partAt p)) true = none →
       ∃ (u : State) (chunks save : List Nat), exec (.partitionResize pk) s =
           goesOn (((u.resizeCores p).belowMinUpdate p).setWait (s.entry pk) (fun x => { x with wait := .cores p })) ∧
         u.partAt p = { partFields pk (s.partAt p) with chunks, save } ∧ (∀ q, q ≠ p → u.partAt q = s.partAt q) ∧
         u.core = s.core ∧ u.mem = s.mem) ∧
     (s.runs 0x0203 pk → 1 ≤ p → p ≤ 8 → ((s.partAt p).st = .opened ∨ (s.partAt p).st = .running ∨ (s.partAt p).st = .draining) →
       exec (.partitionDestroy pk) s = goesOn ((((s.fetched pk []).dropWins p).setPart p (fun q => { q with
         st := .draining, drainFrom := (s.fetched pk []).cp.nextId })).setWait (s.entry pk) (fun x => { x with wait := .partFree p }))))

/-- FOLIO_LOAD reads its pack from host memory, or takes it from the Cask entry it names, and loads what it read; FOLIO_UNLOAD removes a folio that no pipeline names and no other.
A folio that has passed its checks and fits its partition's budgets is loaded under the lowest free handle: an OPEN partition runs, the folio stands under that handle with its image in DRAM, and the reply holds the handle; where no constant is SHARED, the tensors gain exactly the masters of its constants and no other thing of the partition changes (R170, R172, R175, R317, R320). -/
def Obligations.FolioPacketsAnswer : Prop :=
  (∀ (s : State) (pk : Packet),
     (s.runs 0x0204 pk → pkF pk 16 1 = 0 → 1 ≤ pkF pk 20 4 → (∃ h, h < 16 ∧ s.folioAt pk.fn h = none) →
       exec (.folioLoad pk) s = goesOn (((s.fetched pk []).emit (.hostRead pk.fn (pkF pk 24 8) (pkF pk 20 4) true)).setWait (s.entry pk)
         (fun x => { x with wait := .dma, aux := [] }))) ∧
     (∀ b, s.runs 0x0204 pk → pkF pk 16 1 = 1 → s.caskBytes 1 (pkF pk 18 2) = .ok b → (∃ h, h < 16 ∧ s.folioAt pk.fn h = none) →
       exec (.folioLoad pk) s = goesOn (finishFolio (s.fetched pk []) (s.entry pk) b)) ∧
     (∀ f, s.runs 0x0205 pk → s.folioAt pk.fn (pkF pk 16 1) = some f →
       s.media.pipelines.all (fun x => !(x.part == pk.fn.val && x.folios.contains (pkF pk 16 1))) = true →
       ∃ u, exec (.folioUnload pk) s = s.replies pk u { status := stOk } ∧ u.folioAt pk.fn (pkF pk 16 1) = none ∧
         ∀ p h, ¬(p = pk.fn.val ∧ h = pkF pk 16 1) → u.folioAt p h = s.folioAt p h)) ∧
  (∀ (s : State) (fl : Flight) (img : List Byte) (h a : Nat), s.folioOver fl.pk.fn img = false → h < 16 → s.folioAt fl.pk.fn h = none →
     (∀ i, i < h → (s.folioAt fl.pk.fn i).isSome = true) → s.dramPlace fl.pk.fn img.length = some a →
     ∃ u : State, s.placeFolio fl img = u.endPacket fl { status := stOk, c0 := h } ∧
       u.cel.folios = s.cel.folios ++ [{ part := fl.pk.fn.val, handle := h, image := img, addr := a }] ∧
       ((s.partAt fl.pk.fn).st = .opened → (u.partAt fl.pk.fn).st = .running) ∧
       ((∀ i, i < fTensors img → bitOf (tdecl img i).hints 1 = false) →
         ((s.partAt fl.pk.fn).st ≠ .opened → (s.partAt fl.pk.fn).st ≠ .free → u.partAt fl.pk.fn = s.partAt fl.pk.fn) ∧ u.mem = (s.writeOutside a img).mem ∧
         u.cel.tensors.map (·.2) = s.cel.tensors.map (·.2) ++ masterTensors fl.pk.fn h a img))

/-- PIPELINE_CREATE stores the pipeline its packet describes under the lowest free handle, and PIPELINE_DESTROY removes it and no other (R261, R283, R317, R320, R321). -/
def Obligations.PipelinePacketsAnswer : Prop :=
  ∀ (s : State) (pk : Packet),
    (∀ h, s.runs 0x0206 pk → s.trackers ≠ [] → (pkF pk 16 1 = 0 ∨ s.textDown = false) → pipelineFields pk = none →
      s.pipelineHandles pk = true → s.pipelineMismatch pk = false → badStop (pkPipeline pk 0).stops = none →
      h < 16 → s.pipeAt pk.fn h = none → (∀ i, i < h → (s.pipeAt pk.fn i).isSome = true) →
      ∃ u, exec (.pipelineCreate pk) s = s.replies pk u { status := stOk, c0 := h } ∧
        u = { s.fetched pk [] with media := { s.media with pipelines := s.media.pipelines ++ [pkPipeline pk h] } }) ∧
    (∀ x, s.runs 0x0207 pk → s.pipeAt pk.fn (pkF pk 16 1) = some x →
      s.media.streams.all (fun e => !(e.2.part == pk.fn.val && e.2.pipeline == pkF pk 16 1 && decide (e.2.st ≠ .closed))) = true →
      s.media.sources.all (fun e => !(e.2.part == pk.fn.val && e.2.pipeline == pkF pk 16 1)) = true →
      ∃ u, exec (.pipelineDestroy pk) s = s.replies pk u { status := stOk } ∧ u.pipeAt pk.fn (pkF pk 16 1) = none ∧
        (∀ p h, ¬(p = pk.fn.val ∧ h = pkF pk 16 1) → u.pipeAt p h = s.pipeAt p h) ∧ u.mem = s.mem ∧ u.core = s.core ∧ u.cel = s.cel)

/-- STREAM_OPEN opens a stream with the packet's parameters on the cluster and the track processor the device picks, its reference buffers at a place in its partition's DRAM, and answers with its STREAM_ID.
The packets of an open stream complete: a FEED takes a buffer and reads its bytes, or waits while the stream flushes; a flush, or a draining close, makes the stream FLUSHING and waits for it to empty; a reset and a close without DRAIN discard what is pending (R209 to R214, R312, R317). -/
def Obligations.StreamPacketsAnswer : Prop :=
  (∀ (s : State) (pk : Packet) (pipe : Pipeline) (k t a : Nat), s.runs 0x0301 pk →
     (List.range 4).any s.clusterServes = true → s.trackers ≠ [] → pkF pk 31 1 < 64 → streamRanges (pkStream pk) = true →
     s.pipeAt pk.fn (pkF pk 19 1) = some pipe → pipe.page = false → s.pickCluster = some k → s.pickTracker = some t →
     (s.media.streams.filter (fun e => decide (e.2.st ≠ .closed))).length < 1024 →
     s.dramUse pk.fn + s.reserved pk.fn 4 + (pkStream pk).refBytes ≤ 2 ^ 28 * (s.partAt pk.fn).dram →
     s.dramPlace pk.fn (pkStream pk).refBytes = some a →
     ∃ (u : State) (r : Nat), exec (.streamOpen pk) s = s.replies pk u { status := stOk, c0 := s.media.nextStream } ∧
       u.media.streams = s.media.streams ++ [(s.media.nextStream, { pkStream pk with client := r, cluster := k, tp := t, refAddr := a })] ∧
       u.media.nextStream = (s.media.nextStream + 1) % 2 ^ 32 ∧ (bitOf (pkF pk 31 1) 5 = false → r = 0) ∧ u.mem = s.mem) ∧
  (∀ (s : State) (pk : Packet) (x : Stream), s.openStream pk.fn (pkF pk 16 4) = some x →
     (∀ k, s.runs 0x0302 pk → 1 ≤ pkF pk 20 4 → pkF pk 20 4 ≤ 67108864 →
       (s.fetched pk []).streamBusy (s.entry pk) (fun o => isReset o || isClose o) = false →
       (s.fetched pk []).streamBusy (s.entry pk) isFlush = false → s.freeBuf pk.fn (binFor (pkF pk 20 4)) = some k →
       exec (.feed pk) s = goesOn (((((s.fetched pk []).takeDevice k).setStream (pkF pk 16 4) (fun y => { y with
         feeds := y.feeds ++ [{ id := s.cp.nextId, buf := k, len := pkF pk 20 4, pts := pkF pk 32 8, here := false, taken := false }] })).emit
         (.hostRead pk.fn (pkF pk 24 8) (pkF pk 20 4) true)).setWait (s.entry pk) (fun y => { y with wait := .dma, aux := [k] }))) ∧
     (s.runs 0x0302 pk → 1 ≤ pkF pk 20 4 → pkF pk 20 4 ≤ 67108864 →
       (s.fetched pk []).streamBusy (s.entry pk) (fun o => isReset o || isClose o) = false →
       (s.fetched pk []).streamBusy (s.entry pk) isFlush = true →
       exec (.feed pk) s = goesOn ((s.fetched pk []).setWait (s.entry pk) (fun y => { y with wait := .drain (streamKey (pkF pk 16 4)) }))) ∧
     ((s.fetched pk []).streamBusy (s.entry pk) isClose = false →
       (s.fetched pk []).streamBusy (s.entry pk) (fun o => isFeed o || isFlush o || isReset o) = false →
       (s.runs 0x0303 pk →
         exec (.streamFlush pk) s = goesOn ((((s.fetched pk []).setStream (pkF pk 16 4) (fun y => { y with st := .flushing, back := y.st, flushed := 0 })).setWait
           (s.entry pk) (fun y => { y with wait := .drain (streamKey (pkF pk 16 4)), aux := [streamKey (pkF pk 16 4), 1] })).flushBatches
           x.part x.pipeline (pkF pk 16 4))) ∧
       (s.runs 0x0304 pk →
         exec (.streamReset pk) s = s.replies pk ((s.fetched pk []).resetStream (pkF pk 16 4) 1) { status := stOk, c0 := x.toDiscard }) ∧
       (s.runs 0x0305 pk → pkF pk 20 1 = 0 →
         exec (.streamClose pk) s = s.replies pk (((s.fetched pk []).resetStream (pkF pk 16 4) 2).closeStream (pkF pk 16 4)) { status := stOk }) ∧
       (s.runs 0x0305 pk → pkF pk 20 1 = 1 →
         exec (.streamClose pk) s = goesOn ((((s.fetched pk []).setStream (pkF pk 16 4) (fun y => { y with st := .flushing, back := y.st, flushed := 0 })).setWait
           (s.entry pk) (fun y => { y with wait := .drain (streamKey (pkF pk 16 4)), aux := [streamKey (pkF pk 16 4), 1] })).flushBatches
           x.part x.pipeline (pkF pk 16 4)))))

/-- The encoder packets of an open stream complete as R239 to R241 say: SNAPSHOT queues its request, CLIP_START opens the lowest free session of an encoder in service, CLIP_STOP ends a session at once or after the picture it still encodes, and ENCODE_KEY asks for a key picture. -/
def Obligations.EncoderPacketsAnswer : Prop :=
  ∀ (s : State) (pk : Packet) (x : Stream), s.openStream pk.fn (pkF pk 16 4) = some x →
    (s.runs 0x0306 pk → s.encoderServes 2 = true → 1 ≤ pkF pk 24 1 → pkF pk 24 1 ≤ 100 → pkF pk 25 1 ≤ 1 →
      (pkF pk 20 4 = noPic ∨ x.passed (pkF pk 20 4) = false) → (x.snaps.filter (fun q => q.kind != 4)).length < 16 →
      exec (.snapshot pk) s = s.replies pk ((s.fetched pk []).setStream (pkF pk 16 4) (fun y => { y with snaps := y.snaps ++ [{
        tag := pkTag pk, target := if pkF pk 20 4 = noPic then none else some (pkF pk 20 4), quality := pkF pk 24 1,
        whole := decide (pkF pk 25 1 = 1), box := [pkF pk 28 2, pkF pk 30 2, pkF pk 32 2, pkF pk 34 2],
        kind := if pkF pk 25 1 = 1 then 1 else 2, track := 0, prio := pkPriority pk, taken := false, order := noPic, ready := none }] }))
        { status := stOk }) ∧
    (∀ c, s.runs 0x0307 pk → clipChecks pk = none → s.lowestSession = some c →
      exec (.clipStart pk) s = s.replies pk { s.fetched pk [] with
        media := { s.media with clips := tput none s.media.clips c (some (pkClip pk)) } } { status := stOk, c0 := c }) ∧
    (∀ c, s.runs 0x0308 pk → s.namedClip pk = some c → c.todo = none →
      exec (.clipStop pk) s = goesOn (((s.fetched pk []).endClip (pkF pk 20 1)).setWait (s.entry pk)
        (fun y => { y with wait := .records (c.chunks + if c.bytes.isEmpty then 0 else 1), aux := [clipKey (pkF pk 20 1), 1] }))) ∧
    (∀ c, s.runs 0x0308 pk → s.namedClip pk = some c → c.todo.isSome = true →
      exec (.clipStop pk) s = goesOn (({ s.fetched pk [] with
        media := { s.media with clips := tput none s.media.clips (pkF pk 20 1) (some { c with stopping := true }) } } : State).setWait (s.entry pk)
        (fun y => { y with wait := .drain (clipKey (pkF pk 20 1)), aux := [clipKey (pkF pk 20 1), 1] }))) ∧
    (∀ c, s.runs 0x0309 pk → s.namedClip pk = some c →
      exec (.encodeKey pk) s = s.replies pk { s.fetched pk [] with
        media := { s.media with clips := tput none s.media.clips (pkF pk 20 1) (some { c with key := true }) } } { status := stOk })

/-- The page packets complete as R251 to R254 say: PAGE_SOURCE_OPEN opens a source with the packet's parameters, SUBMIT_PAGE takes an input and a page buffer and reads the file, and PAGE_SOURCE_CLOSE closes the source to further pages and waits for its pages to end. -/
def Obligations.PagePacketsAnswer : Prop :=
  ∀ (s : State) (pk : Packet),
    (∀ x, s.runs 0x0401 pk → s.pageDown = false → dflt (pkF pk 17 1) 8 ≤ 32 → 2 ≤ dflt (pkF pk 18 1) 16 → dflt (pkF pk 18 1) 16 ≤ 64 → pkF pk 19 1 ≤ 1 →
      s.pipeAt pk.fn (pkF pk 16 1) = some x → x.page = true → s.media.sources.length < 256 →
      (s.media.sources.filter (fun e => e.2.part == pk.fn.val)).length < 64 →
      ∃ (u : State) (r : Nat), exec (.pageSourceOpen pk) s = s.replies pk u { status := stOk, c0 := s.media.nextSource } ∧
        u.media.sources = s.media.sources ++ [(s.media.nextSource, {
          part := pk.fn, pipeline := pkF pk 16 1, window := dflt (pkF pk 17 1) 8, budgetMult := dflt (pkF pk 18 1) 16, client := r,
          closing := false, completed := 0 })] ∧
        u.media.nextSource = (s.media.nextSource + 1) % 2 ^ 32 ∧ (pkF pk 19 1 = 0 → r = 0) ∧ u.mem = s.mem) ∧
    (∀ src x a b, s.runs 0x0402 pk → s.pageDown = false → s.pageChecks pk = none → s.openSource pk.fn (pkF pk 16 4) = some src →
      s.pipeAt pk.fn src.pipeline = some x →
      s.pageBuffers pk.fn (pkF pk 20 4) (pkF pk 36 2 * pkF pk 38 2 * chanCount x.channels) = .ok (a, b) →
      ∃ u : State, exec (.submitPage pk) s = goesOn ((u.emit (.hostRead pk.fn (pkF pk 24 8) (pkF pk 20 4) true)).setWait (s.entry pk)
          (fun y => { y with wait := .dma, aux := [s.media.nextPage] })) ∧
        u.media.pages = s.media.pages ++ [(s.media.nextPage, pkPage pk src.client a b)] ∧
        u.media.nextPage = s.media.nextPage + 1 ∧ u.cp.buf = (((s.fetched pk []).takeDevice a).takeDevice b).cp.buf ∧ u.mem = s.mem) ∧
    (∀ src, s.runs 0x0403 pk → s.openSource pk.fn (pkF pk 16 4) = some src →
      exec (.pageSourceClose pk) s = goesOn (({ s.fetched pk [] with
        media := { s.media with sources := nmod s.media.sources (pkF pk 16 4) (fun x => { x with closing := true }) } } : State).setWait (s.entry pk)
        (fun y => { y with wait := .drain (sourceKey (pkF pk 16 4)), aux := [sourceKey (pkF pk 16 4), 1] })))

/-- The text packets complete as R274 to R276 and R295 to R298 say: TEXT_TABLE_LOAD reads its pack from host memory or takes it from the Cask, TEXT_TABLE_UNLOAD empties the slot, TOKENIZE_OPEN opens a session, TOKENIZE_FEED reads its bytes, or runs at once with none, or waits for earlier packets of its session, and TOKENIZE_CLOSE ends the session and counts the held bytes. -/
def Obligations.TextPacketsAnswer : Prop :=
  ∀ (s : State) (pk : Packet), s.textDown = false →
    (s.runs 0x0501 pk → pkF pk 16 1 = 0 → pkF pk 17 1 ≤ 1 → 1 ≤ pkF pk 20 4 → (s.tableSlot (pkF pk 17 1)).isSome = true →
      s.dramUse pk.fn + s.reserved pk.fn 4 + s.masterBytes pk ≤ 2 ^ 28 * (s.partAt pk.fn).dram →
      exec (.textTableLoad pk) s = goesOn (((s.fetched pk []).emit (.hostRead pk.fn (pkF pk 24 8) (pkF pk 20 4) true)).setWait (s.entry pk)
        (fun x => { x with wait := .dma, aux := [] }))) ∧
    (∀ b, s.runs 0x0501 pk → pkF pk 16 1 = 1 → pkF pk 17 1 ≤ 1 → s.caskBytes (2 + pkF pk 17 1) (pkF pk 18 2) = .ok b →
      (s.tableSlot (pkF pk 17 1)).isSome = true → s.dramUse pk.fn + s.reserved pk.fn 4 + s.masterBytes pk ≤ 2 ^ 28 * (s.partAt pk.fn).dram →
      exec (.textTableLoad pk) s = goesOn (finishTable (s.fetched pk []) (s.entry pk) b)) ∧
    (∀ t, s.runs 0x0502 pk → pkF pk 16 1 ≤ 1 → s.tableAt (pkF pk 16 1) pk.fn (pkF pk 17 1) = some t →
      s.tableUsed (pkF pk 16 1) pk.fn (pkF pk 17 1) = false →
      exec (.textTableUnload pk) s = s.replies pk ((s.fetched pk []).putTable (pkF pk 16 1) (pkF pk 17 1) none) { status := stOk }) ∧
    (∀ t, s.runs 0x0503 pk → pkF pk 17 1 ≤ 1 → pkF pk 18 1 ≤ 1 → s.tableAt 0 pk.fn (pkF pk 16 1) = some t →
      s.text.sessions.length < 64 → (s.text.sessions.filter (fun e => e.2.part == pk.fn.val)).length < 16 →
      ∃ (u : State) (r : Nat), exec (.tokenizeOpen pk) s = s.replies pk u { status := stOk, c0 := s.text.nextSession } ∧
        u.text.sessions = s.text.sessions ++ [(s.text.nextSession, {
          part := pk.fn, vocab := pkF pk 16 1, reject := decide (pkF pk 17 1 = 1), client := r, failed := false, held := [],
          partialChar := [], consumed := 0 })] ∧
        u.text.nextSession = (s.text.nextSession + 1) % 2 ^ 32 ∧ (pkF pk 18 1 = 0 → r = 0) ∧ u.mem = s.mem) ∧
    (∀ x, s.sessionAt pk.fn (pkF pk 16 4) = some x → (s.fetched pk []).sessionBusy (s.entry pk) = false →
      (s.runs 0x0504 pk → pkF pk 44 1 ≤ 1 → 1 ≤ pkF pk 20 4 → pkF pk 20 4 ≤ 1048576 → pkF pk 20 4 + 259 ≤ pkF pk 40 4 → x.failed = false →
        x.consumed + pkF pk 20 4 ≤ 4294967295 →
        exec (.tokenizeFeed pk) s = goesOn (((s.fetched pk []).emit (.hostRead pk.fn (pkF pk 24 8) (pkF pk 20 4) true)).setWait (s.entry pk)
          (fun y => { y with wait := .dma, aux := [0] }))) ∧
      (s.runs 0x0504 pk → pkF pk 44 1 ≤ 1 → pkF pk 20 4 = 0 → 259 ≤ pkF pk 40 4 → x.failed = false → x.consumed ≤ 4294967295 →
        exec (.tokenizeFeed pk) s = goesOn (finishTokenize (s.fetched pk []) (s.entry pk) [])) ∧
      (s.runs 0x0505 pk →
        exec (.tokenizeClose pk) s = s.replies pk (({ s.fetched pk [] with
          text := { s.text with sessions := ndel s.text.sessions (pkF pk 16 4) } } : State).dropClient x.client)
          { status := stOk, c0 := x.held.length + x.partialChar.length })) ∧
    ((s.fetched pk []).sessionBusy (s.entry pk) = true →
      (s.runs 0x0504 pk → pkF pk 44 1 ≤ 1 → pkF pk 20 4 ≤ 1048576 → pkF pk 20 4 + 259 ≤ pkF pk 40 4 →
        exec (.tokenizeFeed pk) s = goesOn ((s.fetched pk []).setWait (s.entry pk) (fun y => { y with wait := .drain (sessionKey (pkF pk 16 4)) }))) ∧
      (s.runs 0x0505 pk →
        exec (.tokenizeClose pk) s = goesOn ((s.fetched pk []).setWait (s.entry pk) (fun y => { y with wait := .drain (sessionKey (pkF pk 16 4)) }))))

/-- A packet of an undefined opcode, or of one its function may not send, is fetched and answered BAD_OPCODE, with nothing else done (R310, R316). -/
def Obligations.UndefinedOpcodeAnswersBadOpcode : Prop :=
  ∀ (s : State) (pk : Packet), maySend pk.opcode pk.fn = false → s.fetchable pk = true →
    exec (.undefinedOpcode pk) s = s.replies pk (s.fetched pk []) { status := stBadOpcode }

/-- The end of a packet's DMA completes it as R313, R318, R320 and R322 say: an information block or a copy out ends with OK, a copy in puts its bytes in the buffer, a FEED's bytes are in the bin and its stream can use them, a page is accepted, and a pack or a text is handed to what loads or encodes it; the bytes of host memory and of DRAM are charged, and an alarm whose condition comes to hold is raised (R196, R199, R230). -/
def Obligations.HostDmaDoneCompletesPacket : Prop :=
  ∀ (s : State) (id : Nat) (data : List Byte) (fl : Flight), s.dev.reset = none → s.dmaFlight id = some fl →
    (fl.pk.opcode = 0x0102 → exec (.hostDmaDone id data) s = goesOn ((s.charge fl.pk.fn 13 64).endPacket fl { status := stOk })) ∧
    (fl.pk.opcode = 0x0208 → exec (.hostDmaDone id data) s = goesOn ((s.charge fl.pk.fn 13 128).endPacket fl { status := stOk })) ∧
    (fl.pk.opcode = 0x0801 → exec (.hostDmaDone id data) s =
      goesOn ((((s.writeOutside (s.bufAddr (fl.aux.headD 0) + pkF fl.pk 32 4) (padTo (pkF fl.pk 36 4) data)).charge fl.pk.fn 13 (pkF fl.pk 36 4)).dramTraffic
        fl.pk.fn 0 3 true (s.bufAddr (fl.aux.headD 0) + pkF fl.pk 32 4) (pkF fl.pk 36 4)).endPacket fl { status := stOk, c0 := pkF fl.pk 36 4 })) ∧
    (∀ k, fl.pk.opcode = 0x0802 → s.namedBuf fl.pk.fn (pkF fl.pk 24 8) = .ok k → exec (.hostDmaDone id data) s =
      goesOn (((s.charge fl.pk.fn 13 (pkF fl.pk 36 4)).dramTraffic fl.pk.fn 0 3 false (s.bufAddr k + pkF fl.pk 32 4) (pkF fl.pk 36 4)).endPacket fl
        { status := stOk, c0 := pkF fl.pk 36 4 })) ∧
    (∀ x a t, fl.pk.opcode = 0x0302 → s.streamAt (pkF fl.pk 16 4) = some x → a = s.bufAddr (fl.aux.headD 0) →
      t = (((s.writeOutside a (padTo (pkF fl.pk 20 4) data)).chargeWork fl.pk.fn x.client 13 (pkF fl.pk 20 4)).dramTraffic
        fl.pk.fn x.client 3 true a (pkF fl.pk 20 4)).setStream (pkF fl.pk 16 4)
          (fun y => { y with feeds := y.feeds.map (fun f => if f.id = fl.id then { f with here := true } else f) }) →
      exec (.hostDmaDone id data) s = goesOn ((t.alarmUpdate x.part x.pipeline).endPacket fl { status := stOk, c0 := pkF fl.pk 20 4 })) ∧
    (∀ g a t, fl.pk.opcode = 0x0402 → s.pageAt (fl.aux.headD 0) = some g → a = s.bufAddr (g.inBuf.getD 0) →
      t = (((s.writeOutside a (padTo (pkF fl.pk 20 4) data)).chargeWork g.part g.client 13 (pkF fl.pk 20 4)).dramTraffic
        g.part g.client 3 true a (pkF fl.pk 20 4)).setPage (fl.aux.headD 0) (fun g => { g with stage := .accepted }) →
      (∀ x, t.pagePipe g = some x → exec (.hostDmaDone id data) s =
        goesOn ((t.alarmUpdate x.part x.handle).endPacket fl { status := stOk, c0 := pkF fl.pk 20 4 })) ∧
      (t.pagePipe g = none → exec (.hostDmaDone id data) s = goesOn (t.endPacket fl { status := stOk, c0 := pkF fl.pk 20 4 }))) ∧
    (fl.pk.opcode = 0x0204 → 1 ≤ pkF fl.pk 20 4 → exec (.hostDmaDone id data) s =
      goesOn (finishFolio (s.charge fl.pk.fn 13 (pkF fl.pk 20 4)) fl (padTo (pkF fl.pk 20 4) data))) ∧
    (fl.pk.opcode = 0x0501 → 1 ≤ pkF fl.pk 20 4 → exec (.hostDmaDone id data) s =
      goesOn (finishTable (s.charge fl.pk.fn 13 (pkF fl.pk 20 4)) fl (padTo (pkF fl.pk 20 4) data))) ∧
    (fl.pk.opcode = 0x0504 → fl.aux.headD 0 = 0 → 1 ≤ pkF fl.pk 20 4 → exec (.hostDmaDone id data) s =
      goesOn (finishTokenize (s.charge fl.pk.fn 13 (pkF fl.pk 20 4)) fl (padTo (pkF fl.pk 20 4) data))) ∧
    (∀ st d n h, fl.pk.opcode = 0x0504 → fl.aux = [1, st, d, n, h] → 1 ≤ n → exec (.hostDmaDone id data) s =
      goesOn ((s.charge fl.pk.fn 13 (2 * n)).endPacket fl { status := st, detail := d, c0 := n, c1 := h }))

/-- A DMA that ends with a PCIe error acts as R305, R322 and R338 say: a failed fetch stops its ring, a failed record write halts the result ring, a failed reply is kept for the packet's end, and a failed transfer of a packet ends it with HOST_FAULT, a FEED giving its buffer back and a page never accepted. -/
def Obligations.HostDmaErrorActs : Prop :=
  ∀ (s : State),
    (∀ (f : Fin 9) (r : Fin 64), (s.ringAt f r).enable = true → (s.ringAt f r).stopped = false → (s.ringAt f r).head ≠ (s.ringAt f r).tail →
      exec (.hostDmaError (.fetch f r)) s =
        .next ((s.setRing f r (fun q => { q with fetchFault := true, stopped := true })).ringFault f (s.ringAt f r).vector r)) ∧
    (∀ f : Fin 9, (s.resAt f).enable = true → (s.resAt f).halted = false → (s.resAt f).q ≠ [] →
      exec (.hostDmaError (.record f)) s =
        .next ((s.setRes f (fun q => { q with writeFault := true, halted := true })).ringFault f (s.resAt f).vector 64)) ∧
    (∀ id fl, fl ∈ s.cp.flight → fl.id = id →
      exec (.hostDmaError (.reply id)) s = .next { s with cp := { s.cp with badReplies := setAdd s.cp.badReplies id } }) ∧
    (∀ id fl, s.dev.reset = none → s.dmaFlight id = some fl → fl.pk.opcode ≠ 0x0302 → fl.pk.opcode ≠ 0x0402 →
      exec (.hostDmaError (.data id)) s = goesOn (s.endPacket fl { status := stHostFault })) ∧
    (∀ id fl, s.dev.reset = none → s.dmaFlight id = some fl → fl.pk.opcode = 0x0302 →
      exec (.hostDmaError (.data id)) s = goesOn (((s.returnBuf (fl.aux.headD 0)).setStream (pkF fl.pk 16 4)
        (fun x => { x with feeds := x.feeds.filter (fun f => f.id != fl.id) })).endPacket fl { status := stHostFault })) ∧
    (∀ id fl g, s.dev.reset = none → s.dmaFlight id = some fl → fl.pk.opcode = 0x0402 → s.pageAt (fl.aux.headD 0) = some g →
      ∃ u : State, exec (.hostDmaError (.data id)) s = goesOn (u.endPacket fl { status := stHostFault }) ∧
        u.media.pages = ndel s.media.pages (fl.aux.headD 0) ∧ u.cp.buf = ((s.returnOpt g.inBuf).returnOpt g.pageBuf).cp.buf ∧ u.mem = s.mem)

/-- When a signal applied in the cycle in which a wait expires satisfies the wait, the wait completes successfully, for header waits and for SYNC_WAITs; a wait that the counter at the end of that cycle does not satisfy ends with TIMEOUT, whatever signals are applied later (R343). -/
def Obligations.ExpiredWaitsEndWithTimeout : Prop :=
  ∀ (s : State) (signals : List Signal) (fl : Flight),
    (∀ f r, s.cp.flight.find? (fun x => decide (x.pk.fn = f) && decide (x.pk.ring = r) && decide (x.wait = .header)) = some fl →
      (s.ringAt f r).timeout ≠ 0 →
      (((cycleSignals signals).1.foldl State.applySignal s).headerReady fl.pk = false →
        exec (.headerWaitTimeout f r signals) s = .next
          (((((cycleSignals signals).1.foldl State.applySignal s).replySatisfied).endPacket fl { status := stTimeout, detail := 1 }).settle.laterSignals
            (cycleSignals signals).2)) ∧
      (((cycleSignals signals).1.foldl State.applySignal s).headerReady fl.pk = true →
        exec (.headerWaitTimeout f r signals) s = .next
          ((((cycleSignals signals).1.foldl State.applySignal s).replySatisfied).settle.laterSignals (cycleSignals signals).2))) ∧
    (∀ id o v, s.cp.flight.find? (fun x => x.id == id) = some fl → fl.wait = .sync o v → pkF fl.pk 20 4 ≠ 0 →
      (((cycleSignals signals).1.foldl State.applySignal s).counter fl.pk.fn o < v →
        exec (.syncWaitTimeout id signals) s = .next
          (((((cycleSignals signals).1.foldl State.applySignal s).replySatisfied).endPacket fl
            { status := stTimeout, detail := 2, c0 := ((cycleSignals signals).1.foldl State.applySignal s).counter fl.pk.fn o }).settle.laterSignals
            (cycleSignals signals).2)) ∧
      (v ≤ ((cycleSignals signals).1.foldl State.applySignal s).counter fl.pk.fn o →
        (fl, ((cycleSignals signals).1.foldl State.applySignal s).counter fl.pk.fn o) ∈ ((cycleSignals signals).1.foldl State.applySignal s).satisfiedWaits ∧
        (∀ u : State, u.replySatisfied = u.satisfiedWaits.foldl (fun w e => w.endPacket e.1 { status := stOk, c0 := e.2 }) u) ∧
        exec (.syncWaitTimeout id signals) s = .next
          ((((cycleSignals signals).1.foldl State.applySignal s).replySatisfied).settle.laterSignals (cycleSignals signals).2)))

/-- The commands on a packet ring act as R25, R304 and R305 say: a doorbell stores the tail, wakes FB for an enabled ring and stops one whose tail passes its size; an enable configures the ring and starts its four indexes at 0, and a LOG2_SLOTS out of range or a ring that still runs sets CONFIG_FAULT; a disable stops fetching; a head write frees reply entries. -/
def Obligations.PacketRingCommandsAct : Prop :=
  ∀ (s : State) (fn : Fin 9) (ring : Fin 64), s.hostReaches fn = true →
    (∀ tail, (s.ringAt fn ring).enable = true → (tail - (s.ringAt fn ring).head).toNat ≤ 2 ^ (s.ringAt fn ring).log2 →
      exec (.doorbell fn ring tail) s = .next ((s.tlp.setRing fn ring (fun r => { r with tail })).wake 0)) ∧
    (∀ tail, (s.ringAt fn ring).enable = true → 2 ^ (s.ringAt fn ring).log2 < (tail - (s.ringAt fn ring).head).toNat →
      exec (.doorbell fn ring tail) s = .next ((((s.tlp.setRing fn ring (fun r => { r with tail })).wake 0).setRing fn ring
        (fun r => { r with tailFault := true, stopped := true })).ringFault fn (s.ringAt fn ring).vector ring)) ∧
    (∀ tail, (s.ringAt fn ring).enable = false →
      exec (.doorbell fn ring tail) s = .next (s.tlp.setRing fn ring (fun r => { r with tail }))) ∧
    (∀ ctrl : BitVec 32, ctrl.getLsbD 31 = true → (s.ringAt fn ring).enable = false → (s.ringAt fn ring).inflight = 0 →
      6 ≤ bitsOf ctrl.toNat 16 5 → bitsOf ctrl.toNat 16 5 ≤ 16 →
      ∃ t, exec (.ringEnable fn ring ctrl) s = .next t ∧
        t.ringAt fn ring = { s.ringAt fn ring with
          log2 := bitsOf ctrl.toNat 16 5, vector := bitsOf ctrl.toNat 8 6, enable := true, tail := 0, head := 0, rqHead := 0, rqTail := 0 } ∧
        (∀ f r, 64 * f + r ≠ 64 * fn.val + ring.val → t.ringAt f r = s.ringAt f r) ∧ t.mem = s.mem ∧ t.cp.flight = s.cp.flight) ∧
    (∀ ctrl : BitVec 32, ctrl.getLsbD 31 = true → (s.ringAt fn ring).enable = false → 0 < (s.ringAt fn ring).inflight →
      exec (.ringEnable fn ring ctrl) s = .next ((s.tlp.setRing fn ring (fun r => { r with configFault := true })).ringFault fn
        (s.ringAt fn ring).vector ring)) ∧
    (∀ ctrl : BitVec 32, ctrl.getLsbD 31 = true → (s.ringAt fn ring).enable = false → (s.ringAt fn ring).inflight = 0 →
      (bitsOf ctrl.toNat 16 5 < 6 ∨ 16 < bitsOf ctrl.toNat 16 5) →
      exec (.ringEnable fn ring ctrl) s = .next (((s.tlp.setRing fn ring (fun r => { r with
        log2 := bitsOf ctrl.toNat 16 5, vector := bitsOf ctrl.toNat 8 6 })).setRing fn ring (fun r => { r with configFault := true })).ringFault fn
        (bitsOf ctrl.toNat 8 6) ring)) ∧
    (∀ ctrl : BitVec 32, ctrl.getLsbD 31 = false →
      exec (.ringDisable fn ring ctrl) s = .next (s.tlp.setRing fn ring (fun r => ({ r.configure ctrl with enable := false } : Ring).settleStop))) ∧
    (∀ head, exec (.replyHeadWrite fn ring head) s = .next (s.tlp.setRing fn ring (fun r => { r with rqHead := head })))

/-- The commands on a result ring act as R338 says: an enable in range starts the ring empty with its LOG2_ENTRIES and VECTOR, one out of range sets CONFIG_FAULT, a disable stops the drain and, where its partition is FREE, discards the records queued (R172), and a head beyond the tail of an enabled ring stops it with HEAD_FAULT. -/
def Obligations.ResultRingCommandsAct : Prop :=
  ∀ (s : State) (fn : Fin 9), s.hostReaches fn = true →
    (∀ ctrl : BitVec 32, ctrl.getLsbD 31 = true → (s.resAt fn).enable = false → 8 ≤ bitsOf ctrl.toNat 16 5 → bitsOf ctrl.toNat 16 5 ≤ 20 →
      exec (.resultRingEnable fn ctrl) s = .next (((s.tlp.setRes fn (fun q => { q with vector := bitsOf ctrl.toNat 8 6 })).setRes fn
        (fun q => { q with log2 := bitsOf ctrl.toNat 16 5 })).setRes fn (fun q => { q with
          enable := true, tail := 0, head := 0, halted := false, lostTotal := 0, sinceMsg := 0 }))) ∧
    (∀ ctrl : BitVec 32, ctrl.getLsbD 31 = true → (s.resAt fn).enable = false → (bitsOf ctrl.toNat 16 5 < 8 ∨ 20 < bitsOf ctrl.toNat 16 5) →
      exec (.resultRingEnable fn ctrl) s = .next ((((s.tlp.setRes fn (fun q => { q with vector := bitsOf ctrl.toNat 8 6 })).setRes fn
        (fun q => { q with log2 := bitsOf ctrl.toNat 16 5 })).setRes fn (fun q => { q with configFault := true })).ringFault fn
        (bitsOf ctrl.toNat 8 6) 64)) ∧
    (∀ ctrl : BitVec 32, ctrl.getLsbD 31 = true → (s.resAt fn).enable = true →
      exec (.resultRingEnable fn ctrl) s = .next (s.tlp.setRes fn (fun q => { q with vector := bitsOf ctrl.toNat 8 6 }))) ∧
    (∀ ctrl : BitVec 32, ctrl.getLsbD 31 = false →
      ((fn.val = 0 ∨ (s.partAt fn).st ≠ .free) → exec (.resultRingDisable fn ctrl) s = .next (s.tlp.setRes fn (fun q => { q with
        enable := false, halted := false, vector := bitsOf ctrl.toNat 8 6, log2 := if q.enable then q.log2 else bitsOf ctrl.toNat 16 5 }))) ∧
      (fn.val ≠ 0 → (s.partAt fn).st = .free → exec (.resultRingDisable fn ctrl) s = .next (s.tlp.setRes fn (fun q => { q with
        q := [], stalled := [],
        enable := false, halted := false, vector := bitsOf ctrl.toNat 8 6, log2 := if q.enable then q.log2 else bitsOf ctrl.toNat 16 5 })))) ∧
    (∀ head, (s.resAt fn).enable = true → 2 ^ (s.resAt fn).log2 < ((s.resAt fn).tail - head).toNat →
      exec (.resultHeadWrite fn head) s = .next (((s.tlp.setRes fn (fun q => { q with head })).setRes fn
        (fun q => { q with headFault := true, halted := true })).ringFault fn (s.resAt fn).vector 64)) ∧
    (∀ head, ((s.resAt fn).enable = false ∨ ((s.resAt fn).tail - head).toNat ≤ 2 ^ (s.resAt fn).log2) →
      exec (.resultHeadWrite fn head) s = .next (s.tlp.setRes fn (fun q => { q with head })))

/-- A record of its producer's types and of a length its type has, committed to a result queue, enters it, waits behind a FULL queue, or is lost where its producer cannot stall and it does not fit; any other record is not written (R325, R326, R328, R329, R331). -/
def Obligations.RecordCommitQueuesStallsOrLoses : Prop :=
  ∀ (s : State) (fn : Fin 9) (producer : Producer) (type : Byte) (prio : Fin 4) (body : List Byte),
    ((mayWrite producer type.toNat = false ∨ lengthOk type.toNat ((body.length + 71) / 64) = false) →
      exec (.recordCommit fn producer type prio body) s = .next s) ∧
    (∀ r : Rec, mayWrite producer type.toNat = true → lengthOk type.toNat ((body.length + 71) / 64) = true →
    r = { type, prio, body := padTo (64 * ((body.length + 71) / 64) - 8) body, prod := producer, obj := 0 } →
    (prodUnstallable producer = true → r.len ≤ (s.resAt fn).freeEntries →
      exec (.recordCommit fn producer type prio body) s = .next (s.setRes fn (fun q => { q with q := q.q ++ [r] }))) ∧
    (prodUnstallable producer = true → (s.resAt fn).freeEntries < r.len →
      exec (.recordCommit fn producer type prio body) s = .next (s.setRes fn (fun q => { q with
        overrun := true, lost := min (2 ^ 32 - 1) (q.lost + 1), lostSince := min (2 ^ 32 - 1) (q.lostSince + 1),
        lostTotal := min (2 ^ 32 - 1) (q.lostTotal + 1) }))) ∧
    (prodUnstallable producer = false → (s.resAt fn).full = false → (s.resAt fn).stalled = [] →
      exec (.recordCommit fn producer type prio body) s = .next (s.setRes fn (fun q => { q with q := q.q ++ [r] }))) ∧
    (prodUnstallable producer = false → ((s.resAt fn).full = true ∨ (s.resAt fn).stalled ≠ []) →
      exec (.recordCommit fn producer type prio body) s = .next (s.setRes fn (fun q => { q with stalled := q.stalled ++ [r] }))))

/-- A drain writes the front record at the tail of its ring, after a PAD where it would cross the ring's end, and lets what waited behind a FULL queue in; a queue whose descriptor fails is lost; the delayed message is sent (R325, R329 to R333, R336, R337). -/
def Obligations.RecordDrainWritesFront : Prop :=
  ∀ (s : State) (fn : Fin 9),
    (∀ r q, q = s.resAt fn → s.draining fn = true → q.front = some r → r.len ≤ 2 ^ q.log2 - q.tail.toNat % 2 ^ q.log2 →
      r.len ≤ 2 ^ q.log2 - (q.tail - q.head).toNat →
      exec (.recordDrain fn none false) s = goesOn (((s.writeRecord fn
        (drainBytes r.type r.len r.prio none (phaseOf q.tail q.log2) q.seq.toNat r.body s.mem.epoch)).countRecord fn).setRes fn
        (fun q => ({ q with q := q.q.erase r } : Res).reopen q.full))) ∧
    (∀ r q left u, q = s.resAt fn → left = 2 ^ q.log2 - q.tail.toNat % 2 ^ q.log2 → s.draining fn = true → q.front = some r → left < r.len →
      left + r.len ≤ 2 ^ q.log2 - (q.tail - q.head).toNat →
      u = s.writeRecord fn (drainBytes 0 left r.prio none (phaseOf q.tail q.log2) q.seq.toNat [] 0) →
      exec (.recordDrain fn none false) s = goesOn (((u.writeRecord fn
        (drainBytes r.type r.len r.prio none (phaseOf (u.resAt fn).tail (u.resAt fn).log2) (u.resAt fn).seq.toNat r.body s.mem.epoch)).countRecord fn).setRes fn
        (fun q => ({ q with q := q.q.erase r } : Res).reopen q.full))) ∧
    (s.draining fn = true → (s.resAt fn).q ≠ [] →
      exec (.recordDrain fn none true) s = goesOn (s.setRes fn (fun q => (({ q with q := [] } : Res).lose q.q.length).reopen q.full))) ∧
    ((s.resAt fn).delay ≠ 0 → (s.resAt fn).sinceMsg ≠ 0 →
      exec (.resultIrqDelay fn) s = .next ((s.setRes fn (fun q => { q with sinceMsg := 0 })).msix fn (s.resAt fn).vector))

/-- A write of a window entry and an access through a window act as R25 and R392 to R395 say: an access that translates is served where its domain is ON and held, with the wake asked for, where it sleeps; one that does not translate is answered with its error, which a read of an address outside every region also has logged through AER (R363); and the oldest held access ends with Completer Abort when its time is over. -/
def Obligations.WindowCommandsAct : Prop :=
  ∀ (s : State) (fn : Fin 9), s.hostReaches fn = true →
    (∀ (i : Fin 256) v, i.val < winCount fn →
      exec (.windowEntryWrite fn i (.whole v)) s =
        .next { s.tlp with hi := { s.tlp.hi with win := tput 0 s.hi.win (256 * fn.val + i.val) (v &&& winMask fn) } }) ∧
    (∀ (i : Fin 256) v, i.val < winCount fn →
      exec (.windowEntryWrite fn i (.lowHalf v)) s =
        .next { s.tlp with hi := { s.tlp.hi with winLow := tput none s.hi.winLow (256 * fn.val + i.val) (some v) } }) ∧
    (∀ (i : Fin 256) v lo, i.val < winCount fn → tget none s.hi.winLow (256 * fn.val + i.val) = some lo →
      exec (.windowEntryWrite fn i (.highHalf v)) s =
        .next { s.tlp with hi := { s.tlp.hi with
          win := tput 0 s.hi.win (256 * fn.val + i.val) (BitVec.ofNat 64 (v.toNat * 2 ^ 32 + lo.toNat) &&& winMask fn),
          winLow := tput none s.hi.winLow (256 * fn.val + i.val) none } }) ∧
    (∀ ofs len a d, 1 ≤ len → ofs % 4096 + len ≤ 4096 → s.fnResetting fn = false → s.translate fn ofs len false = .ok a → s.domOf a = some d →
      ((s.domAt d).st = .on → s.firstPoison a len = none →
        exec (.windowRead fn ofs len) s = .next ((s.tlp.chargeAccess fn a len false).emit (.completion fn (.data (s.bytesAt a len))))) ∧
      ((s.domAt d).st = .on → (s.firstPoison a len).isSome = true →
        exec (.windowRead fn ofs len) s = .next ((s.tlp.chargeAccess fn a len false).emit (.completion fn (.poisoned (s.bytesAt a len))))) ∧
      ((s.domAt d).st ≠ .on → (s.domAt d).switchedOff = false →
        exec (.windowRead fn ofs len) s = .next { s.tlp.wake d with hi := { (s.tlp.wake d).hi with
          held := (s.tlp.wake d).hi.held ++ [{ dom := d, fn, addr := a, len, data := [], isReg := false }] } })) ∧
    (∀ ofs len c, 1 ≤ len → ofs % 4096 + len ≤ 4096 → s.fnResetting fn = false → s.translate fn ofs len false = .error c →
      (c ≠ .completerAbort ∨ s.missesRegions fn ofs = false →
        exec (.windowRead fn ofs len) s = .next (s.tlp.emit (.completion fn c))) ∧
      (c = .completerAbort → s.missesRegions fn ofs = true →
        exec (.windowRead fn ofs len) s = .next ((s.tlp.emit (.completion fn c)).emit (.aer fn aerCA)))) ∧
    (∀ ofs (data : List Byte) a d, 1 ≤ data.length → ofs % 4096 + data.length ≤ 4096 → s.fnResetting fn = false →
      s.translate fn ofs data.length true = .ok a → s.domOf a = some d →
      ((s.domAt d).st = .on →
        exec (.windowWrite fn ofs data) s = .next ((s.tlp.chargeAccess fn a data.length true).writeOutside a data)) ∧
      ((s.domAt d).st ≠ .on → (s.domAt d).switchedOff = false →
        exec (.windowWrite fn ofs data) s = .next { s.tlp.wake d with hi := { (s.tlp.wake d).hi with
          held := (s.tlp.wake d).hi.held ++ [{ dom := d, fn, addr := a, len := data.length, data, isReg := false }] } })) ∧
    (∀ ofs (data : List Byte) c, 1 ≤ data.length → ofs % 4096 + data.length ≤ 4096 → s.fnResetting fn = false →
      s.translate fn ofs data.length true = .error c →
      exec (.windowWrite fn ofs data) s = .next (s.tlp.emit (.aer fn c.aer))) ∧
    (∀ h rest, s.hi.held = h :: rest →
      exec .accessHoldTimeout s = .next (({ s with hi := { s.hi with held := rest } } : State).failHeld h false))

/-- A read of a register returns its fields and clears what its read clears; a read of the low half of a 64-bit register latches the high half, which the read of that half returns.
A read of a function's BAR0 page returns its word, and that of CP_RES_LOST clears the counter; the configuration header gives PF0's Vendor and Device ID, the Class Code and REV_ID, and the SR-IOV capability its counts, offsets and the VFs' Device ID, at the places in PCI Express that log 74 names; a function that is resetting answers Unsupported Request (R11, R81, R335, R384, R388, R389, R396, R427, R490, R493). -/
def Obligations.RegisterReadsAnswer : Prop :=
  (∀ (s : State) (addr : Nat) (b : Block) (o : Nat), regBase ≤ addr → addr < regBase + 0x10000000 → addr % 4 = 0 → blockOf addr = some (b, o) →
    exec (.rcRegisterRead .spine addr) s = .next ((s.emit (.spineData (s.blockWord true b o))).clearRc false b o) ∧
    (s.dev.hiReady = true → s.hi.slice = (addr - regBase) / 2 ^ 24 → s.blockServed b = true → s.blockFused b = false →
      (blockDomain b = none ∨ ∃ d, blockDomain b = some d ∧ (s.domAt d).st = .on) →
      exec (.rcRegisterRead .bar4 addr) s = .next ((s.toL0.emit (.completion 0 (.data (s.toL0.regBytes false b o)))).clearRc true b o)) ∧
    (wide b o = true →
      exec (.latchedCounterRead addr false) s =
        .next { s.emit (.spineData (s.blockWord true b o)) with latch := tput 0 s.latch addr (s.blockWord true b (o + 4)) } ∧
      exec (.latchedCounterRead addr true) s = .next (s.emit (.spineData (tget 0 s.latch addr))))) ∧
  (∀ (s : State) (f : Fin 9), s.dev.hiReady = true → s.fnExists f = true →
    (s.fnResetting f = false →
      (∀ ofs, ofs < 2 ^ 16 → ofs % 4 = 0 → ofs ≠ 0x201C → exec (.rcRegisterRead (.functionPage f) ofs) s =
        .next (s.toL0.emit (.completion f (.data (natLE 4 (s.pageWord f ofs)))))) ∧
      exec (.rcRegisterRead (.functionPage f) 0x201C) s =
        .next ((s.toL0.emit (.completion f (.data (natLE 4 (s.resAt f).lost)))).setRes f (fun q => { q with lost := 0 })) ∧
      (f.val = 0 → exec (.rcRegisterRead (.config f) 0) s = .next (s.toL0.emit (.completion f (.data (natLE 4 (s.dev.fuses.devId * 65536 + 0x1F3D)))))) ∧
      exec (.rcRegisterRead (.config f) 8) s = .next (s.toL0.emit (.completion f (.data (natLE 4 (0x120000 * 256 + s.dev.fuses.revId))))) ∧
      exec (.rcRegisterRead (.config f) 0x2C) s = .next (s.toL0.emit (.completion f (.data (natLE 4 s.hi.subsystem.toNat))))) ∧
    (s.fnResetting f = true → ∀ ofs, ofs < 2 ^ 12 → ofs % 4 = 0 →
      exec (.rcRegisterRead (.config f) ofs) s = .next (s.toL0.emit (.completion f .unsupportedRequest)) ∧
      exec (.rcRegisterRead (.functionPage f) ofs) s = .next (s.toL0.emit (.completion f .unsupportedRequest)))) ∧
  (∀ s : State, s.dev.hiReady = true →
    exec (.rcRegisterRead .sriov 0x0C) s = .next (s.toL0.emit (.completion 0 (.data (natLE 4 (8 * 65536 + 8))))) ∧
    exec (.rcRegisterRead .sriov 0x14) s = .next (s.toL0.emit (.completion 0 (.data (natLE 4 (1 * 65536 + 1))))) ∧
    exec (.rcRegisterRead .sriov 0x18) s = .next (s.toL0.emit (.completion 0 (.data (natLE 4 ((s.dev.fuses.devId + 1) * 65536))))) ∧
    (∀ ofs, ofs < 0x68 → ofs % 4 = 0 → exec (.rcRegisterRead .mailbox ofs) s = .next (s.toL0.emit (.completion 0 (.data (natLE 4 (s.mailboxWord ofs)))))))

/-- A write of a register that has no row of its own goes to the fields its target has (R302, R335, R383, R389, R427, R480, R494). -/
def Obligations.RegisterWritesAct : Prop :=
  ∀ (s : State) (v : BitVec 64),
    (∀ addr b o, blockOf addr = some (b, o) →
      exec (.registerWrite (.spine addr) v) s = .next (s.writeWord true b o (v.extractLsb' 0 32))) ∧
    (s.dev.hiReady = true →
      (∀ ofs b o, ofs < 2 ^ 24 → ofs % 4 = 0 → blockOf (regBase + s.hi.slice * 2 ^ 24 + ofs) = some (b, o) → s.blockServed b = true → s.blockFused b = false →
        (blockDomain b = none ∨ ∃ d, blockDomain b = some d ∧ (s.domAt d).st = .on) →
        exec (.registerWrite (.bar4 ofs 4) v) s = .next (s.toL0.writeWord false b o (BitVec.ofNat 32 v.toNat))) ∧
      exec (.registerWrite .aperture v) s = .next { s.toL0 with hi := { s.toL0.hi with slice := v.toNat % 16 } } ∧
      (∀ i : Fin 16, exec (.registerWrite (.mailboxData i) v) s = .next { s.toL0 with mgt := { s.mgt with mbx := { s.mgt.mbx with
        data := s.mgt.mbx.data.take (4 * i.val) ++ natLE 4 (v.toNat % 2 ^ 32) ++ s.mgt.mbx.data.drop (4 * i.val + 4) } } }) ∧
      (v.getLsbD 31 = false →
        exec (.registerWrite .mailboxOp v) s = .next { s.toL0 with mgt := { s.mgt with mbx := { s.mgt.mbx with op := v.toNat % 256 } } }) ∧
      exec (.registerWrite .linkControl v) s = .next { s.toL0 with hi := { s.toL0.hi with aspm := v.extractLsb' 0 4 } } ∧
      (∀ f : Fin 9, s.hostReaches f = true →
        (∀ ofs, exec (.registerWrite (.ringPage f ofs) v) s = .next (s.toL0.setRing f (ofs / 64 % 64) (fun r => r.write (ofs % 64) v))) ∧
        (∀ ofs, exec (.registerWrite (.resultPage f ofs) v) s = .next (s.toL0.setRes f (fun q => q.write ofs v))) ∧
        (∀ i high, exec (.registerWrite (.msixEntry f i high) v) s = .next (s.toL0.writeMsix f i high v))))

/-- A request that reaches a READY channel of an awake domain is served: a read counts what ECC finds and a word that does not decode poisons its line, a write stores the line and its tag; on a channel in RETRAIN_HOLD the request waits in the queue; one outside the DRAM in service completes with an address error (R18, R363, R364, R369, R373, R374). -/
def Obligations.DramRequestsServedOrHeld : Prop :=
  ∀ (s : State) (a c : Nat) (line : Nat), line = a / 64 → c = s.channelOf (64 * line) →
    (s.regionOf (64 * line) ≠ .dram →
      (∀ ecc, exec (.dramRead a ecc) s = .next (s.emit (.addressError (64 * line)))) ∧
      (∀ data p cls, exec (.dramWrite a data p cls) s = .next (s.emit (.addressError (64 * line))))) ∧
    (s.regionOf (64 * line) = .dram →
    ((s.chan c).st = .ready → (s.domAt (1 + c / 4)).st = .on →
      exec (.dramRead a .clean) s = .next ((s.touchRank (64 * line)).eccRead line .clean) ∧
      (tget false s.mem.poison line = false →
        exec (.dramRead a .clean) s = .next (s.touchRank (64 * line)) ∧
        exec (.dramRead a .single) s = .next ((s.touchRank (64 * line)).setChan c (fun x => { x with ce := min (2 ^ 32 - 1) (x.ce + 1) }))) ∧
      exec (.dramRead a .uncorrectable) s = .next (((s.touchRank (64 * line)).setPoison line true).setChan c (fun x => { x with
        ue := min (2 ^ 32 - 1) (x.ue + 1), ueAddr := some (64 * line) })) ∧
      (∀ (data : List Byte) cls, data.length = 64 → cls ≠ .rackOut →
        exec (.dramWrite a data false cls) s = .next ((s.touchRank (64 * line)).writeRaw (64 * line) data) ∧
        exec (.dramWrite a data true cls) s = .next (((s.touchRank (64 * line)).writeRaw (64 * line) data).setPoison line true))) ∧
    ((s.chan c).st = .hold →
      (∀ ecc, (s.chan c).waiting false < 64 →
        exec (.dramRead a ecc) s = .next (s.setChan c (fun x => { x with queue := x.queue ++ [{ line, write := none, ecc }], rackOut := x.rackOut }))) ∧
      (∀ (data : List Byte) p cls, data.length = 64 → cls ≠ .rackOut → (s.chan c).waiting true < 64 →
        exec (.dramWrite a data p cls) s = .next (s.setChan c (fun x => { x with
          queue := x.queue ++ [{ line, write := some (data, p), ecc := .clean }], rackOut := x.rackOut })))))

/-- Refresh, retraining, temperature polls, ALERT_n and power-down act on their channel alone, as R365 and R367 to R372 say.
A command replayed four times without success puts its channel into RETRAIN_HOLD; fewer replays are counted (R370 to R372). -/
def Obligations.ChannelUpkeepActs : Prop :=
  (∀ (s : State) (ch : Fin 12), (s.chan ch).st = .ready → (s.chan ch).selfRefresh = false →
     (∀ (rank : Fin 2) rm wm mv n, rank.val < (s.chan ch).ranks →
       n = (if rank.val = 0 then (s.chan ch).refreshed.1 else (s.chan ch).refreshed.2) + 1 →
       (n % 128 ≠ 0 →
         exec (.refresh ch rank rm wm mv) s = .next (s.setChan ch (fun x => { x with refreshed := pairSet x.refreshed rank.val n }))) ∧
       (n % 128 = 0 → (s.chan ch).writeStep = false →
         exec (.refresh ch rank rm wm mv) s = .next (s.setChan ch (fun x =>
           let y := { x with refreshed := pairSet x.refreshed rank.val n, writeStep := true,
                             moves := min (2 ^ 16 - 1) (x.moves + if mv then 1 else 0), marginR := min 255 rm }
           if rm < 6 then y.enterHold else y))) ∧
       (n % 128 = 0 → (s.chan ch).writeStep = true →
         exec (.refresh ch rank rm wm mv) s = .next (s.setChan ch (fun x =>
           let y := { x with refreshed := pairSet x.refreshed rank.val n, writeStep := false,
                             moves := min (2 ^ 16 - 1) (x.moves + if mv then 1 else 0), marginW := min 255 wm }
           if wm < 6 then y.enterHold else y)))) ∧
     (exec (.caParityAlert ch) s = .next (s.setChan ch (fun x => ({ x with parity := min (2 ^ 16 - 1) (x.parity + 1) } : Chan).replay))) ∧
     ((s.chan ch).writeCrc = true →
       exec (.writeCrcAlert ch) s = .next (s.setChan ch (fun x => ({ x with crc := min (2 ^ 16 - 1) (x.crc + 1) } : Chan).replay))) ∧
     ((s.chan ch).rackOut = 0 → exec (.writeCrcIntervalStart ch) s = .next (s.setChan ch (fun x => { x with writeCrc := true }))) ∧
     (exec (.writeCrcIntervalEnd ch) s = .next (s.setChan ch (fun x => { x with writeCrc := false }))) ∧
     (∀ r0 : Fin 3, (s.chan ch).ranks = 1 →
       exec (.dramTempPoll ch [r0]) s = .next (s.setChan ch (fun x => { x with temp := r0, hot := decide (r0.val = 2) }))) ∧
     (∀ r0 r1 : Fin 3, (s.chan ch).ranks = 2 →
       exec (.dramTempPoll ch [r0, r1]) s = .next (s.setChan ch (fun x => { x with
         temp := max r0.val r1.val, hot := decide (max r0.val r1.val = 2) }))) ∧
     ((s.chan ch).queue = [] → 1 ≤ (s.chan ch).ranks →
       exec (.prechargePowerDown ch 0) s = .next (s.setChan ch (fun x => { x with powerDown := (true, x.powerDown.2) }))) ∧
     ((s.chan ch).queue = [] → 2 ≤ (s.chan ch).ranks →
       exec (.prechargePowerDown ch 1) s = .next (s.setChan ch (fun x => { x with powerDown := (x.powerDown.1, true) })))) ∧
  (∀ (x : Chan), (4 ≤ x.replays → x.replay.st = .hold ∧ x.replay.replays = 0 ∧ x.replay.holds = min (2 ^ 16 - 1) (x.holds + 1)) ∧
     (x.replays < 4 → x.replay = { x with replays := x.replays + 1 }))

/-- The end of a RETRAIN_HOLD, the patrol scrub and the pattern generator act as R369, R372, R376 and R382 say. -/
def Obligations.RetrainScrubAndPatternsAct : Prop :=
  ∀ (s : State),
    (∀ (ch : Fin 12) rm wm, (s.chan ch).st = .hold →
      (12 ≤ rm → 12 ≤ wm → exec (.retrainHoldDone ch rm wm) s =
        .next ((s.chan ch).queue.foldl State.serveReq (s.setChan ch (fun x => { x with
          st := .ready, marginR := min 255 rm, marginW := min 255 wm, queue := [], rackOut := 0, patRun := false })))) ∧
      ((rm < 12 ∨ wm < 12) → exec (.retrainHoldDone ch rm wm) s =
        .next ((s.setChan ch (fun x => { x with
          st := .ready, marginR := min 255 rm, marginW := min 255 wm, queue := [], rackOut := 0, patRun := false })).failChannel ch))) ∧
    (∀ a c, s.ddr.scrubEnable = true → 0 < s.dramBytes → s.dev.stage = .ready → a = s.ddr.patrol % s.dramBytes → c = s.channelOf a →
      ((s.chan c).st = .ready → (s.domAt (1 + c / 4)).st = .on →
        (exec (.patrolScrubLine .clean) s = .next (((s.touchRank a).eccRead (a / 64) .clean).patrolNext a) ∧
         exec (.patrolScrubLine .single) s = .next (((s.touchRank a).eccRead (a / 64) .single).patrolNext a))) ∧
      ((s.chan c).st = .failed → ∀ e, exec (.patrolScrubLine e) s = .next (s.patrolNext a))) ∧
    (∀ (ch : Fin 12) (v : BitVec 32),
      (v.getLsbD 31 = false → exec (.patgenGo ch v) s = .next (s.setChan ch (fun x => { x with patgen := v &&& 0x1FFFFFFF }))) ∧
      (v.getLsbD 31 = true → (s.chan ch).st = .training →
        exec (.patgenGo ch v) s = .next ((s.setChan ch (fun x => { x with patgen := v &&& 0x1FFFFFFF })).setChan ch (fun x => { x with
          patRun := true, cmpDone := false, cmpErrors := 0, cmpLane := 0 }))) ∧
      (v.getLsbD 31 = true → (s.chan ch).st = .hold → bitsOf v.toNat 24 2 = 1 →
        exec (.patgenGo ch v) s = .next ((s.setChan ch (fun x => { x with patgen := v &&& 0x1FFFFFFF })).setChan ch (fun x => { x with
          patRun := true, cmpDone := false, cmpErrors := 0, cmpLane := 0 })))) ∧
    (∀ (ch : Fin 12) n (lane : Fin 72), (s.chan ch).patRun = true →
      (bitsOf (s.chan ch).patgen.toNat 24 2 = 0 → exec (.patgenDone ch n lane) s =
        .next (s.setChan ch (fun x => { x with patRun := false, cmpDone := true, cmpErrors := 0, cmpLane := 0 }))) ∧
      (bitsOf (s.chan ch).patgen.toNat 24 2 ≠ 0 → 1 ≤ n → exec (.patgenDone ch n lane) s =
        .next (s.setChan ch (fun x => { x with patRun := false, cmpDone := true, cmpErrors := min n (2 ^ 23 - 1), cmpLane := lane.val }))))

/-- Power-on runs the start-up sequence, or holds AON in reset while SYS_RESET_N is low; a power loss leaves fuses, flash and the Cask; a system reset is a power loss followed by the sequence; a slow clock that never starts leaves the device at BOOT; PERST_N's rise takes HI out of the fundamental reset (R458, R459, R506 to R508). -/
def Obligations.PowerCommandsRestartDevice : Prop :=
  ∀ (s : State) (st : Straps),
    (s.dev.pwrgd = false → st.sysResetN = true → exec (.powerOn st) s = .next (s.powerUp st)) ∧
    (s.dev.pwrgd = false → st.sysResetN = false → exec (.powerOn st) s = .next { s with dev := { s.dev with pwrgd := true, straps := st } }) ∧
    (∃ u : State, exec .powerLoss s = .next u ∧ u.dev.fuses = s.dev.fuses ∧ u.dev.defects = s.dev.defects ∧
      u.mgt.slotA = s.mgt.slotA ∧ u.mgt.slotB = s.mgt.slotB ∧ u.mgt.fuseSvn = s.mgt.fuseSvn ∧ u.mgt.keys = s.mgt.keys ∧
      u.mgt.board = s.mgt.board ∧ u.mgt.flashLog = s.mgt.flashLog ∧ u.mgt.bootCount = s.mgt.bootCount ∧
      u.mgt.leafNext = s.mgt.leafReserved ∧ u.mgt.leafReserved = s.mgt.leafReserved ∧ u.mgt.logBuf = [] ∧
      u.cask.media = s.cask.media ∧ u.dev.pwrgd = false ∧ u.dev.stage = .boot ∧ u.cp = State.reset.cp ∧ u.cel = State.reset.cel ∧
      u.core = State.reset.core ∧ u.media = State.reset.media ∧ u.text = State.reset.text ∧ u.ddr = State.reset.ddr ∧
      u.hi = State.reset.hi ∧ u.pwr = State.reset.pwr ∧ u.outbox = s.outbox ∧ u.pending = s.pending ∧
      (∀ a : Nat, a < 2 ^ 40 → u.byteAt a = Config.freeByte s.mem.epoch a) ∧
      (s.dev.pwrgd = true → exec (.sysReset st) s = exec (.powerOn st) u)) ∧
    (s.aonUp = true → (s.dev.stage = .boot ∨ s.dev.stage = .training ∨ s.dev.stage = .recovery) →
      exec .slowClockTimeout s = .next { s with
        dev := { s.dev with stage := .boot, slowClockDead := true, hiReady := false }
        hi := {}
        pwr := { s.pwr with dom := [], pllLocked := 0, pllStarting := 0 }
        ddr := { s.ddr with ch := [] }
        mgt := { s.mgt with mbx := {}, heldGo := none, ops := s.mgt.ops.filter (fun o => o.path == 1) } }) ∧
    (s.aonUp = true → s.mgt.mpState ≠ 0 → s.dev.slowClockDead = false → exec .perstNRising s =
      .next ({ s with dev := { s.dev with straps := { s.dev.straps with perstN := true }, hiReady := true } }).tryReady)

/-- Training by hardware makes a channel that trained READY with its margins and leaves the others to the fallback, which fences a channel whose runs stay under 12/64 UI; when no channel trains any more the interleave is set over those that did and the tasting begins (R358 to R361, R459). -/
def Obligations.TrainingSetsChannelsAndInterleave : Prop :=
  ∀ (s : State),
    (∀ (x : Chan) r w, (x.ready r w).st = .ready ∧ (x.ready r w).marginR = r ∧ (x.ready r w).marginW = w ∧ (x.ready r w).fence = 0) ∧
    (∀ (c : Fin 12) (rm wm : Fin 65) (ok ok2 : BitVec 12), (s.chan c).st = .training → (s.chan c).needsFallback = false →
      (∀ d : Fin 12, d ≠ c → (s.chan d).st ≠ .training ∨ (s.chan d).needsFallback = true) →
      ((s.domAt 1).st = .on ∨ (s.domAt 2).st = .on ∨ (s.domAt 3).st = .on) →
      (ok.getLsbD c = true → ok2.getLsbD c = true → exec (.hwTrainingDone ok ok2 rm wm) s =
        .next ((s.setChan c (fun x => x.ready rm wm)).trainingEnd)) ∧
      ((ok.getLsbD c = false ∨ ok2.getLsbD c = false) → exec (.hwTrainingDone ok ok2 rm wm) s =
        .next ((s.setChan c (fun x => { x with needsFallback := true, retried := ok.getLsbD c })).trainingEnd))) ∧
    (∀ (ch : Fin 12) r w ok, (s.chan ch).st = .training → (s.chan ch).needsFallback = true →
      ((r < 12 ∨ w < 12) → exec (.trainingFallbackDone ch r w ok) s = .next (s.fenceChannel ch).trainingEnd) ∧
      (12 ≤ r → 12 ≤ w → exec (.trainingFallbackDone ch r w true) s = .next (s.setChan ch (fun x =>
        x.ready (min r 255) (min w 255))).trainingEnd) ∧
      (12 ≤ r → 12 ≤ w → (s.chan ch).retried = false → exec (.trainingFallbackDone ch r w false) s =
        .next (s.setChan ch (fun x => { x with retried := true }))) ∧
      (12 ≤ r → 12 ≤ w → (s.chan ch).retried = true → exec (.trainingFallbackDone ch r w false) s =
        .next (s.fenceChannel ch).trainingEnd)) ∧
    (s.dev.stage = .training → (∀ c : Fin 12, (s.chan c).st ≠ .training) →
      s.trainingEnd.dev.stage = .tasting ∧ s.trainingEnd.ddr.inService = s.trained ∧
      s.trainingEnd.dev.channels = s.trained.length ∧ (s.trainingEnd.ddr.insufficient = true ↔ s.trained.length < 4))

/-- The tasting adds to the defect list what failed twice, and the device faults only where the list names a unit it cannot run without; the scrub of the start zeroes every DRAM byte that no kept partition owns (R459, R462 to R471, R476). -/
def Obligations.TastingAndScrubEndStart : Prop :=
  ∀ (s : State), s.dev.stage = .tasting →
    (∀ fs, s.dev.tasted = false → (s.taste fs).dev.defects.any (fun d => d.1 == 10 || d.1 == 11) = false →
      exec (.tastingDone fs) s = .next (s.taste fs).tryReady) ∧
    (∀ fs, s.dev.tasted = false → (s.taste fs).dev.defects.any (fun d => d.1 == 10 || d.1 == 11) = true →
      ∃ u : State, exec (.tastingDone fs) s = .next u ∧ u.dev.stage = .fault ∧ u.dev.reset = none ∧
        u.dev.defects = (s.taste fs).dev.defects) ∧
    (s.dev.scrubbed = false → exec .dramScrubDone s = .next ({ s.scrubDram with dev := { s.scrubDram.dev with scrubbed := true } }).tryReady) ∧
    (s.dev.reset = none → ∀ a : Nat, a < s.dramBytes → s.failedAt a = false → s.scrubDram.byteAt a = 0)

/-- Firmware reaches a receiver as R441 and R442 say: a delivery holds it in reset with an empty bitmap, a chunk whose CRC is right is stored once, a resend round sends what is missing and after three rounds the receiver is unavailable, and it leaves reset only when its image has the header's hash. -/
def Obligations.FirmwareReachesReceivers : Prop :=
  ∀ (s : State),
    (∀ (r : Fin 59), s.mgt.mpState = 1 → s.wantedReceiver r = true → (s.dev.stage = .tasting ∨ s.dev.stage = .ready) →
      ∃ u : State, exec (.firmwareDelivery (BitVec.ofNat 59 (2 ^ r.val))) s = .next (u.broadcast [r.val] (receiverComp r)).syncUp ∧
        (u.receiver r).inReset = true ∧ (u.receiver r).chunks = [] ∧ (u.receiver r).comp = receiverComp r ∧ u.mgt.rounds = 0 ∧
        (u.receiver r).length = (pkgBytes s.bootImage (receiverComp r)).length ∧ u.mem = s.mem ∧ u.outbox = s.outbox) ∧
    (∀ (r : Fin 59) i (data : List Byte), (s.receiver r).inReset = true → i < (s.receiver r).count → data.length = 4096 →
      (((s.receiver r).chunks.any (fun e => e.1 == i)) = false →
        exec (.firmwareChunk r (s.receiver r).comp i data (crc32c (natLE 4 i ++ data))) s =
          .next (s.setReceiver r (fun x => { x with chunks := tput [] x.chunks i data }))) ∧
      (∀ comp crc, (crc ≠ crc32c (natLE 4 i ++ data) ∨ comp ≠ (s.receiver r).comp) → exec (.firmwareChunk r comp i data crc) s = .next s)) ∧
    (∀ (rs : List Nat), rs = (s.mgt.receivers.filter (fun e => e.2.inReset && decide (0 < e.2.length) && !e.2.full)).map (·.1) → rs ≠ [] →
      s.mgt.mpState = 1 →
      (3 ≤ s.mgt.rounds → exec .firmwareResendRound s = .next ((rs.foldl State.receiverFailed s).tryReady).settle) ∧
      (∀ r, rs = [r] → s.mgt.rounds < 3 → exec .firmwareResendRound s = .next { s with
        mgt := { s.mgt with rounds := s.mgt.rounds + 1 },
        outbox := s.outbox ++ (s.receiver r).missing.map (fun i => .frame [r] (s.receiver r).comp i) })) ∧
    (∀ (r : Fin 59), (s.receiver r).inReset = true → (s.receiver r).comp ≠ 0 → (s.receiver r).full = true →
      ((s.receiver r).sha ≠ [] → sha256 (((s.receiver r).chunks.flatMap (·.2)).take (s.receiver r).length) = (s.receiver r).sha →
        exec (.receiverRelease r) s = .next ((s.receiverUp r).tryReady).settle) ∧
      (sha256 (((s.receiver r).chunks.flatMap (·.2)).take (s.receiver r).length) ≠ (s.receiver r).sha →
        exec (.receiverRelease r) s = .next ((s.receiverFailed r).tryReady).settle)) ∧
    (∀ k, s.mgt.booted = some k → s.mgt.mpState = 1 → (s.slotAt k).st = .pending → s.dev.stage ≠ .ready →
      exec .slotTrialTimeout s = .next s.mpRestarts) ∧
    (s.aonUp = true → (s.mgt.mpState = 1 ∨ s.mgt.mpState = 2) → s.dev.slowClockDead = false → s.dev.thermtrip = false →
      exec .mpRestart s = .next s.mpRestarts)

/-- Resets from the host act as R173, R386, R396, R397, R474, R475 and R480 say: a link reset resets HI with a compute reset, PF0's FLR takes VF Enable with it, a VF's FLR ends its packets without replies and leaves its partition RESETTING until VF_RESET_DONE, and a compute reset goes on when the CP's replies and the owed reads are given up. -/
def Obligations.HostResetsAct : Prop :=
  ∀ (s : State),
    (s.aonUp = true → s.hostResetHeld = false →
      exec (.linkReset .hotReset) s = .next (s.beginReset .linkReset false true false).settle ∧
      exec (.linkReset .dlDown) s = .next (s.beginReset .linkReset false true false).settle ∧
      exec (.linkReset .perst) s = .next (({ s with dev := { s.dev with straps := { s.dev.straps with perstN := false } } } : State).beginReset
        .linkReset false true false).settle) ∧
    (s.aonUp = true → s.dev.stage = .shutdown → exec (.linkReset .hotReset) s = .next { s with hi := { subsystem := s.hi.subsystem }, dev := { s.dev with hiReady := false } }) ∧
    (s.dev.hiReady = true → s.hostResetHeld = false → exec .pf0Flr s =
      .next (({ s with hi := { s.hi with pmState := 0, vfEnable := false, numVFs := 0, aspm := 0, msix := [] } } : State).beginReset
        .pf0Flr false false false).settle) ∧
    (∀ vf : Fin 8, s.hostReaches (vf.val + 1) = true → exec (.flr vf) s = .next (s.tlp.resetVf (vf.val + 1) false).settle) ∧
    (∀ p, s.dev.reset = none → (s.partAt p).st ≠ .resetting → (s.partAt p).st ≠ .free →
      ((s.resetVf p false).partAt p).st = .resetting ∧ (((s.resetVf p false).partAt p).thenFree = true ↔ (s.partAt p).st = .draining) ∧
      (s.resetVf p false).cp.flight.all (fun f => f.pk.fn != p) = true ∧ (s.resetVf p false).outbox = s.outbox) ∧
    (∀ vf : Fin 8, (s.partAt (vf.val + 1)).st = .resetting →
      ((((s.scrubBins (vf.val + 1)).returnCores (vf.val + 1)).partAt (vf.val + 1)).thenFree = true →
        exec (.vfResetDone vf) s = .next ((((s.scrubBins (vf.val + 1)).returnCores (vf.val + 1)).freePart (vf.val + 1)).refillAll).settle) ∧
      ((((s.scrubBins (vf.val + 1)).returnCores (vf.val + 1)).partAt (vf.val + 1)).thenFree = false →
        exec (.vfResetDone vf) s = .next ((((s.scrubBins (vf.val + 1)).returnCores (vf.val + 1)).setPart (vf.val + 1)
          (fun q => { q with st := .opened })).refillAll).settle)) ∧
    (∀ e n, s.dev.hiReady = true → exec (.vfEnableChange e n) s = .next (s.tlp.setVfs e n).settle) ∧
    (∀ r : ResetRun, s.dev.reset = some r →
      (r.awaitCp = true → exec .cpAbortReplyTimeout s =
        .next ({ (s.endFlights (fun _ => true) false).dropWork with dev := { (s.endFlights (fun _ => true) false).dropWork.dev with
          reset := some { r with awaitCp := false } } }).finishStop) ∧
      (r.owedReads ≠ [] → exec .readCompletionDrop s =
        .next ({ s with dev := { s.dev with reset := some { r with owedReads := [] } } }).finishStop) ∧
      (r.awaitCp = false → r.owedReads = [] → r.restarted = false →
        (r.mp = false → exec .computeResetRestart s = .next s.restart) ∧
        (r.mp = true → exec .computeResetRestart s = if s.restart.mgt.mpState = 2 then
          .next ({ s.restart with dev := { s.restart.dev with stage := .recovery, reset := none } }).mpBack
          else .next s.restart.mpBack)))

/-- A compute reset that begins puts the device into RESETTING, and takes its runs, rings, windows, streams and reads with it; begun while another runs, or before READY, it starts nothing new (R426, R474, R475, R479). -/
def Obligations.ComputeResetBegins : Prop :=
  ∀ (s : State) (cause : ResetCause) (full mp : Bool),
    (s.dev.reset = none → s.dev.stage = .ready →
      (s.beginReset cause full false mp).dev.stage = .resetting ∧ (s.beginReset cause full false mp).dev.deviceFault = false ∧
      (∃ r, (s.beginReset cause full false mp).dev.reset = some r ∧ r.cause = cause ∧ r.full = full ∧ r.mp = mp ∧ r.restarted = false) ∧
      (s.beginReset cause full false mp).cel.runs = [] ∧ (s.beginReset cause full false mp).cp.ring = [] ∧
      (s.beginReset cause full false mp).hi.win = [] ∧ (s.beginReset cause full false mp).media.streams = [] ∧
      (s.beginReset cause full false mp).text.reads = [] ∧ (s.beginReset cause full false mp).mgt.keys = s.mgt.keys ∧
      (s.beginReset cause full false mp).dev.defects = s.dev.defects) ∧
    (∀ r, s.dev.reset = some r → s.beginReset cause full false mp =
      { s with dev := { s.dev with reset := some { r with full := r.full || full, link := r.link || false, mp := r.mp || mp } } }) ∧
    (s.dev.reset = none → s.dev.stage = .tasting → s.beginReset cause full false false = s)

/-- The Cask and the trace port act as R448, R450, R454, R482 and R483 say: an inserted Cask is read, claims a free group 1 and is reported; a removed one ends the operations that use it with CASK_ABSENT, the claim staying; the trace port is granted the free resources it may claim and refused the others. -/
def Obligations.CaskAndTraceCommandsAct : Prop :=
  ∀ (s : State), s.aonUp = true →
    (∀ m, s.cask.present = false → (s.mgt.mpState = 1 ∨ s.mgt.mpState = 2) →
      ∃ t : State, t = ({ s with dev := { s.dev with straps := { s.dev.straps with caskPresentN := false } } } : State).caskArrives m ∧
        exec (.caskInserted m) s = .next (t.mgtEvent 0x0883 0 t.caskStatus 0 false) ∧ t.cask.present = true ∧
        t.cask.identityValid = s.caskIdentity m ∧ (tget 0 s.mgt.claims 1 = 0 → tget 0 t.mgt.claims 1 = 2) ∧
        (tget 0 s.mgt.claims 1 ≠ 0 → t.mgt.claims = s.mgt.claims)) ∧
    (s.cask.present = true → ∃ t : State,
      exec .caskRemoved s = .next (((((s.mgt.ops.filter MgmtOp.usesCask).foldl (fun s o => s.opAnswer o { status := stCaskAbsent }) t).syncUpdate).mgtEvent
        0x0884 0 0 0 false).settle) ∧
      t.cask.present = false ∧ t.cask.media = none ∧ t.mgt.claims = s.mgt.claims ∧ t.dev.straps.caskPresentN = true ∧
      t.mgt.ops = s.mgt.ops.filter (fun o => !o.usesCask) ∧ t.mem = s.mem ∧ t.cp = s.cp) ∧
    (∀ r : Fin 16, 1 ≤ r.val → r.val ≤ 3 → tget 0 s.mgt.claims r.val = 0 → ∃ u : State, exec (.traceClaim r) s = .next u ∧
      tget 0 u.mgt.claims r.val = 4 ∧ (∀ i : Nat, i ≠ r.val → tget 0 u.mgt.claims i = tget 0 s.mgt.claims i) ∧
      u.outbox = s.outbox ++ [.jtag true] ∧ u.mem = s.mem ∧ u.dev = s.dev ∧ u.hi = s.hi) ∧
    (∀ r : Fin 16, (r.val = 0 ∨ 3 < r.val ∨ tget 0 s.mgt.claims r.val ≠ 0) → exec (.traceClaim r) s = .next (s.emit (.jtag false))) ∧
    (∀ r : Fin 16, tget 0 s.mgt.claims r.val = 4 →
      exec (.traceRelease r) s = .next { s with mgt := { s.mgt with claims := tput 0 s.mgt.claims r.val 0 } }) ∧
    (∀ r : Fin 16, tget 0 s.mgt.claims r.val ≠ 4 → exec (.traceRelease r) s = .next s)

/-- The link's changes are counted and logged, the idle states of the link are entered as R398 says, the log buffer goes to flash, ten heartbeats missed in succession are a device fault, and the sideband's address and interface follow R428 and R514 (R398 to R400, R428, R430, R485, R486, R514). -/
def Obligations.LinkLogHeartbeatAndAddressAct : Prop :=
  ∀ (s : State), s.aonUp = true →
    (∀ up (w v : Fin 6) (x y : Nat), x = (if up then w.val else 0) → y = (if up then v.val else 0) →
      s.dev.slowClockDead = false → s.mgt.mpState ≠ 0 → s.dev.straps.perstN = true → (s.hi.width ≠ x ∨ s.hi.speed ≠ y) →
      ∃ t : State, t = { s with
          hi := { s.hi with linkUp := up, pmState := 0, width := x, speed := y, linkChanges := satAdd 32 s.hi.linkChanges 1 },
          dev := { s.dev with hiReady := s.dev.hiReady || up } } ∧
        exec (.linkChange up w v) s = .next (t.log logLinkChange 0 7 0xFFFF t.linkStatus)) ∧
    (s.hi.linkUp = true → s.hi.aspm.getLsbD 0 = true → s.hi.pmState = 0 →
      exec .l0sEntry s = .next { s with hi := { s.hi with pmState := 1 } }) ∧
    (∀ rel ns p, s.hi.linkUp = true → s.hi.aspm.getLsbD 1 = true → s.idle = true →
      p = (if rel = true ∧ s.hi.aspm.getLsbD 2 = true then (if s.hi.aspm.getLsbD 3 = true ∧ ns ≤ 1000000 then 4 else 3) else 2) →
      exec (.l1Entry rel ns) s = .next { s with hi := { s.hi with pmState := p } }) ∧
    (exec .logFlush s = .next s.flushLog ∧ s.flushLog.mgt.logBuf = [] ∧
      (∀ e es, s.mgt.logBuf = e :: es → s.mgt.logLost = 0 → s.flushLog.mgt.flashLog = flashAppend s.mgt.flashLog (e :: es))) ∧
    (s.dev.stage = .ready → s.mgt.mpState = 1 →
      exec (.heartbeat true true) s = .next { s with dev := { s.dev with cpMisses := 0, celMisses := 0, cpStalled := false, celStalled := false } } ∧
      (∀ n, s.dev.cpMisses = n → n < 9 → exec (.heartbeat false true) s =
        .next { s with dev := { s.dev with cpMisses := n + 1, celMisses := 0, cpStalled := false, celStalled := false } }) ∧
      (s.dev.cpMisses = 9 → exec (.heartbeat false true) s =
        .next (({ s with dev := { s.dev with cpMisses := 10, celMisses := 0, cpStalled := true, celStalled := false } } : State).deviceFault 0 0 0)) ∧
      (s.dev.celMisses = 9 → exec (.heartbeat true false) s =
        .next (({ s with dev := { s.dev with cpMisses := 0, celMisses := 10, cpStalled := false, celStalled := true } } : State).deviceFault 1 1 0))) ∧
    (∀ a : Fin 128, s.dev.straps.sbMode = true →
      (s.mgt.dynAddr = none → exec (.entdaa a) s = .next { s with mgt := { s.mgt with dynAddr := some a.val } }) ∧
      exec .sidebandReset s = .next { s with mgt := { s.mgt with dynAddr := none, sb := { op := s.mgt.sb.op, busy := s.mgt.sb.busy } } })

/-- A sample forms Tj, warns, halves the clock and counts as R410 to R416 say, and the second at T_SHUTDOWN shuts the device down; the release tick takes the hottest core and the return tick brings the last one back; the trip takes power from every switched domain; the accounting interval adds the energies and judges the power limit (R200, R410 to R417). -/
def Obligations.SensorsHeatAndEnergyAct : Prop :=
  ∀ (s : State),
    (∀ rs, s.aonUp = true → s.dev.thermtrip = false →
      ((s.sampled rs).pwr.hotSamples < 2 → exec (.sensorSample rs) s = .next (s.sampled rs)) ∧
      (2 ≤ (s.sampled rs).pwr.hotSamples → exec (.sensorSample rs) s = .next ((s.sampled rs).thermalShutdown).settle)) ∧
    (∀ (rs : List SensorReading), rs.length = 20 →
      (s.sampled rs).pwr.sensors = rs ∧
      (∀ r ∈ rs, r.valid = true → r.temp ≤ (s.sampled rs).pwr.tj) ∧
      ((∀ r ∈ rs, r.valid = false) → (s.sampled rs).pwr.tj = s.pwr.tj) ∧
      ((∃ r ∈ rs, r.valid = true) → ∃ r ∈ rs, r.valid = true ∧ r.temp = (s.sampled rs).pwr.tj) ∧
      (s.pwr.halved = false → ((s.sampled rs).pwr.halved = true ↔ s.threshold 2 ≤ (s.sampled rs).pwr.tj)) ∧
      (s.pwr.halved = true → ((s.sampled rs).pwr.halved = false ↔ (s.sampled rs).pwr.tj < s.threshold 2 - 20)) ∧
      (s.threshold 3 ≤ (s.sampled rs).pwr.tj → (s.sampled rs).pwr.hotSamples = s.pwr.hotSamples + 1) ∧
      ((s.sampled rs).pwr.tj < s.threshold 3 → (s.sampled rs).pwr.hotSamples = 0) ∧
      (s.sampled rs).mem = s.mem ∧ (s.sampled rs).core = s.core) ∧
    (∀ n, s.dev.stage = .ready → s.threshold 1 ≤ s.pwr.tj → s.hottest = some n → exec .thermalReleaseTick s =
      .next (((({ s with pwr := { s.pwr with released := n :: s.pwr.released, releases := satAdd 16 s.pwr.releases 1 } } : State).removeCore n
        false false).restReleased n).settle)) ∧
    (∀ n rest, s.pwr.released = n :: rest → 100 ≤ s.pwr.coolSamples → exec .thermalReturnTick s = .next (s.returnReleased n rest)) ∧
    (∀ n rest, s.pwr.released = n :: rest → s.pwr.coolSamples < 100 → exec .thermalReturnTick s = .next s) ∧
    (s.dev.pwrgd = true → s.dev.thermtrip = false → ∃ u : State, exec .thermtrip s = .next u ∧ u.dev.thermtrip = true ∧
      u.dev.stage = .shutdown ∧ u.dev.reset = none ∧ u.cel.runs = [] ∧ .thermtrip ∈ u.outbox ∧
      (∀ d : Fin 30, (u.domAt d).st = .off ∧ (u.domAt d).switchedOff = true) ∧ u.mgt.logSeq = (s.mgt.logSeq + 1) % 2 ^ 32) ∧
    (∀ energy, s.aonUp = true → s.dev.slowClockDead = false → ∃ u : State, exec (.accountingInterval energy) s = .next u ∧
      u.cel.busy = [] ∧
      u.pwr.avg = min 65535 (((List.range 32).map (fun i => energy.getD i 0)).sum / 3125) ∧
      (u.pwr.powerHot = true ↔ s.pwr.limitW * 31250 < ((List.range 32).map (fun i => energy.getD i 0)).sum) ∧
      (u.pwr.powerCool = true ↔ ((List.range 32).map (fun i => energy.getD i 0)).sum < (s.pwr.limitW - 10) * 31250) ∧
      u.mgt.aonCount = (s.mgt.aonCount + 1024) % 2 ^ 48 ∧ u.mem = s.mem ∧ u.dev = s.dev ∧ u.cp = s.cp ∧ u.core = s.core)

/-- Domains sleep and wake, and the clock generators lock and stop, as R25, R402, R405, R406, R408 and R409 say; a wake that fails ends the accesses held for the domain and for every domain that waits for it. -/
def Obligations.DomainsAndClocksAct : Prop :=
  ∀ (s : State),
    (∀ d : Fin 30, (d.val = 0 ∨ 4 ≤ d.val) → s.domIdle d = true → s.maySleep d = true →
      exec (.domainIdleExpiry d) s = .next (s.setDom d (fun m => { m with move := .entering }))) ∧
    (∀ d : Fin 30, 1 ≤ d.val → d.val ≤ 3 → s.domIdle d = true → s.maySleep 1 = true → s.maySleep 2 = true → s.maySleep 3 = true →
      exec (.domainIdleExpiry d) s = .next (((s.setDom 1 (fun m => { m with move := .entering })).setDom 2
        (fun m => { m with move := .entering })).setDom 3 (fun m => { m with move := .entering }))) ∧
    (∀ d : Fin 30, (s.domAt d).move = .entering →
      ((d.val < 13 ∨ 20 < d.val) → exec (.domainSleepDone d) s =
        .next ((s.setDom d (fun m => { m with st := .sleep, move := .none })).sleepLoss d)) ∧
      (13 ≤ d.val → d.val ≤ 20 → ((s.coreAt (d.val - 13)).owner ≠ 0 ∨ s.storeUsed (d.val - 13) = true) → exec (.domainSleepDone d) s =
        .next ((s.setDom d (fun m => { m with st := .ret, move := .none })).sleepLoss d)) ∧
      (13 ≤ d.val → d.val ≤ 20 → (s.coreAt (d.val - 13)).owner = 0 → s.storeUsed (d.val - 13) = false → exec (.domainSleepDone d) s =
        .next ((s.setDom d (fun m => { m with st := .off, move := .none })).offLoss d))) ∧
    (∀ d : Fin 30, (s.domAt d).move = .waking →
      exec (.domainWakeDone d true) s = .next ((((s.comeOn d).beginWakes).releaseHeld d true).settle) ∧
      exec (.domainWakeDone d false) s = .next (((s.failWake d).stranded d).foldl State.failWake (s.failWake d)) ∧
      s.failWake d = (s.setDom d (fun m => { m with move := .none, wakeReq := false })).releaseHeld d false ∧
      ((d.val < 5 ∨ 20 < d.val) → ((s.comeOn d).domAt d).st = .on ∧ ((s.comeOn d).domAt d).move = .none ∧ (s.comeOn d).mem = s.mem)) ∧
    (∀ p : Fin 6, s.pwr.pllStarting.getLsbD p = true → ∃ u : State, exec (.pllLocked p) s = .next u.beginWakes ∧
      u.pwr.pllLocked.getLsbD p = true ∧ u.pwr.pllStarting.getLsbD p = false ∧ u.pwr.dom = s.pwr.dom ∧
      (∀ q : Fin 6, q ≠ p → u.pwr.pllLocked.getLsbD q = s.pwr.pllLocked.getLsbD q ∧
        u.pwr.pllStarting.getLsbD q = s.pwr.pllStarting.getLsbD q)) ∧
    (∀ p : Fin 6, s.pllNeeded p = false → ∃ u : State, exec (.pllStop p) s = .next u ∧ u.pwr.pllLocked.getLsbD p = false ∧
      (∀ q : Fin 6, q ≠ p → u.pwr.pllLocked.getLsbD q = s.pwr.pllLocked.getLsbD q) ∧ u.pwr.dom = s.pwr.dom) ∧
    (∀ p : Fin 6, s.pllNeeded p = true → exec (.pllStop p) s = .next s)

/-- Every management operation that the MP takes at once, on any of its three paths, runs to its end and answers on that path; resets, a forced shutdown and ACTIVATE answer before they act; STAGE and a Cask write begin, and end in the MP's later turns; a packet that asks for IDENTITY_STATUS is refused with BAD_OPCODE (R423 to R428, R437, R453). -/
def Obligations.ManagementOperationsRun : Prop :=
  ∀ (s u : State) (req : MgmtReq) (o : MgmtOp),
    (s.mpTakes 0 req u o → exec (.identityStatus req) s = mpEnds u o (opIdentity u o).2) ∧
    (∀ pk, req.path = .packet pk → pk.opcode = 0x0900 → maySend 0x0900 pk.fn = false → s.fetchable pk = true →
      exec (.identityStatus req) s = s.replies pk (s.fetched pk []) { status := stBadOpcode }) ∧
    (s.mpTakes 1 req u o → exec (.logRead req) s = mpEnds u o (opLogRead u o).2) ∧
    (s.mpTakes 2 req u o → exec (.sensorRead req) s = mpEnds u o (opSensorRead u o).2) ∧
    (s.mpTakes 3 req u o → exec (.functionReset req) s = mpActs u o opFunctionReset) ∧
    (s.mpTakes 4 req u o → exec (.computeReset req) s = mpActs u o opComputeReset) ∧
    (s.mpTakes 5 req u o → o.f 17 1 = 0 → exec (.domainPowerOff req) s = mpEnds (opDomainPower u o).1 o (opDomainPower u o).2) ∧
    (s.mpTakes 5 req u o → o.f 17 1 = 1 → exec (.domainPowerOn req) s = mpEnds (opDomainPower u o).1 o (opDomainPower u o).2) ∧
    (s.mpTakes 5 req u o → o.f 17 1 = 2 → exec (.forcedShutdown req) s = mpActs u o opDomainPower) ∧
    (s.mpTakes 6 req u o → exec (.resetPolicy req) s = mpEnds (opResetPolicy u o).1 o (opResetPolicy u o).2) ∧
    (s.mpTakes 7 req u o → exec (.defectRead req) s = mpEnds u o (opDefectRead u o).2) ∧
    (s.mpTakes 8 req u o → o.f 16 1 = 0 →
      (∀ b, u.stageSource o = .ok b → exec (.stage req) s = .next (u.opBegin o).settle) ∧
      (∀ a, u.stageSource o = .error a → exec (.stage req) s = .next (u.opAnswer o a).settle)) ∧
    (s.mpTakes 8 req u o → o.f 16 1 = 1 → exec (.activate req) s = mpActs u o opActivate) ∧
    (s.mpTakes 8 req u o → o.f 16 1 = 2 → exec (.commitSvn req) s = mpEnds (opCommitSvn u o).1 o (opCommitSvn u o).2) ∧
    (s.mpTakes 8 req u o → o.f 16 1 = 3 → exec (.boardRecord req) s = mpEnds (opBoardRecord u o).1 o (opBoardRecord u o).2) ∧
    (s.mpTakes 8 req u o → o.f 16 1 = 4 → exec (.keyEnroll req) s = mpEnds (opKeyEnroll u o).1 o (opKeyEnroll u o).2) ∧
    (s.mpTakes 8 req u o → o.f 16 1 = 5 → exec (.keyRemove req) s = mpEnds (opKeyRemove u o).1 o (opKeyRemove u o).2) ∧
    (s.mpTakes 9 req u o → exec (.attest req) s = mpEnds (opAttest u o).1 o (opAttest u o).2) ∧
    (s.mpTakes 10 req u o → o.f 16 1 = 0 → exec (.caskStatus req) s = mpEnds u o (opCaskStatus u o).2) ∧
    (s.mpTakes 10 req u o → o.f 16 1 = 1 → exec (.caskList req) s = mpEnds u o (opCaskList u o).2) ∧
    (s.mpTakes 10 req u o → o.f 16 1 = 2 →
      (∀ a, u.caskChecks true true = some a → exec (.caskWrite req) s = .next (u.opAnswer o a).settle) ∧
      (o.path ≠ 1 → u.cask.present = true → u.caskHeld = none → u.cask.identityValid = true → u.cask.lifeState ≠ 2 →
        exec (.caskWrite req) s = .next (if u.paired = true then u.opBegin o else u.opAnswer o { status := stCaskUnpaired }).settle)) ∧
    (s.mpTakes 10 req u o → o.f 16 1 = 3 → exec (.caskDelete req) s = mpEnds (opCaskDelete u o).1 o (opCaskDelete u o).2) ∧
    (s.mpTakes 10 req u o → o.f 16 1 = 4 → exec (.pair req) s = mpEnds (opPair u o).1 o (opPair u o).2) ∧
    (s.mpTakes 10 req u o → o.f 16 1 = 5 → exec (.unpair req) s = mpEnds (opUnpair u o).1 o (opUnpair u o).2)

/-- What the lasting management operations do: RESET_POLICY and a function's reset, COMMIT_SVN, BOARD_RECORD, KEY_ENROLL and KEY_REMOVE, ACTIVATE, the verdict of STAGE, attestation, and the Cask's DELETE, PAIR and UNPAIR (R423, R435, R437, R440, R444, R445, R449 to R451, R476, R481). -/
def Obligations.ManagementOperationsAct : Prop :=
  ∀ (s : State) (o : MgmtOp),
    (o.f 17 1 ≤ 1 → o.f 18 1 = 0 → s.dev.reset = none → ∃ b, b = bitOf (o.f 17 1) 0 ∧ opResetPolicy s o =
      ({ s with mgt := { s.mgt with keep := BitVec.ofNat 8 (o.f 16 1), scrub := b } },
       { c0 := (BitVec.ofNat 8 (o.f 16 1)).toNat + 256 * b2n b })) ∧
    (o.f 17 1 ≤ 1 → o.f 18 1 = 1 → opResetPolicy s o = (s, { c0 := s.mgt.keep.toNat + 256 * b2n s.mgt.scrub })) ∧
    (∀ p, p = o.f 16 1 → 1 ≤ p → p ≤ 8 →
      ((s.partAt p).st = .free → opFunctionReset s o = (s, {})) ∧ ((s.partAt p).st ≠ .free → opFunctionReset s o = (s.resetVf p true, {}))) ∧
    (8 < o.f 16 1 → opFunctionReset s o = (s, { status := stBadField, detail := 16 })) ∧
    (s.resetRefused = true → o.f 16 1 ≤ 1 → opComputeReset s o = (s, { status := stResourceHeld, detail := 1 })) ∧
    (∀ k, s.slotIn .active = some k →
      (s.mgt.booted = some k → opCommitSvn s o =
        ({ s with mgt := { s.mgt with fuseSvn := min 64 (max s.mgt.fuseSvn (s.slotAt k).svn) } }, {})) ∧
      (s.mgt.booted ≠ some k → opCommitSvn s o = (s, { status := stSlotState }))) ∧
    (1 ≤ o.f 20 4 → o.f 20 4 ≤ 4096 → o.path ≠ 1 → opBoardRecord s o =
      ({ s with mgt := { s.mgt with board := padTo (o.f 20 4) o.data } }, {})) ∧
    (∀ k key, k = o.f 32 1 → key = padTo 56 o.data → k ≤ 7 →
      (s.packKey k = [] → o.path ≠ 1 → (lmsSigLen (beNat (sliceB key 0 4))).isSome = true → beNat (sliceB key 4 4) = 3 →
        opKeyEnroll s o = ({ s with mgt := { s.mgt with keys := tput [] s.mgt.keys k key } }, {})) ∧
      (s.packKey k ≠ [] → o.path ≠ 1 → opKeyEnroll s o = (s, { status := stKeySlot })) ∧
      (s.packKey k ≠ [] → opKeyRemove s o = ({ s with mgt := { s.mgt with keys := tput [] s.mgt.keys k [] } }, {})) ∧
      (s.packKey k = [] → opKeyRemove s o = (s, { status := stKeySlot }))) ∧
    (∀ k, s.slotIn .staged = some k → o.f 33 1 = 0 →
      opActivate s o = (s.setSlot k (fun w => { w with st := .pending, tries := 0 }), {})) ∧
    (s.slotIn .staged = none → o.f 33 1 ≤ 1 → opActivate s o = (s, { status := stSlotState })) ∧
    (∀ b, s.stageSource o = .ok b → opStage s o =
      if s.pkgCheck b = stOk then
        ((s.setSlot s.stageSlot (fun _ => { st := .staged, svn := pkgSvn b, tries := 0, image := b })).mgtEvent 0x0887 s.stageSlot (pkgSvn b) 0 false, {})
      else (s.setSlot s.stageSlot (fun _ => {}), { status := s.pkgCheck b })) ∧
    (o.f 20 4 = 0 → 100 ≤ s.mgt.signedThisSecond → opAttest s o = (s, { status := stAttestRate })) ∧
    (o.f 20 4 = 0 → s.mgt.signedThisSecond < 100 → 2 ^ 40 ≤ s.mgt.leafNext → opAttest s o = (s, { status := stLeafExhausted })) ∧
    (o.f 20 4 = 0 → s.mgt.signedThisSecond < 100 → s.mgt.leafNext < 2 ^ 40 →
      (opAttest s o).1.mgt.leafNext = s.mgt.leafNext + 1 ∧ (opAttest s o).1.mgt.signedThisSecond = s.mgt.signedThisSecond + 1 ∧
      (opAttest s o).1.mgt.leafNext ≤ (opAttest s o).1.mgt.leafReserved ∧ (opAttest s o).2.status = 0 ∧
      (opAttest s o).1.mgt.report.length = 5972 ∧ (opAttest s o).1.cask = s.cask ∧ (opAttest s o).1.mem = s.mem) ∧
    (∀ m i, s.cask.present = true → s.caskHeld = none → s.cask.identityValid = true → s.cask.lifeState ≠ 2 → s.cask.media = some m →
      i = o.f 18 2 → 1 ≤ i → i ≤ 8191 → ∃ t : State, t = ({ s with cask := { s.cask with media := some { m with
          generation := m.generation + 1, entries := ndel m.entries i } } } : State).ledgerAdd 2048 ∧
        opCaskDelete s o = if s.paired = true then (t, { status := t.caskOk }) else (s, { status := stCaskUnpaired })) ∧
    (∀ m, s.caskChecks true false = none → s.cask.media = some m →
      (4 ≤ (m.pairing.filter (·.valid)).length → opPair s o = (s, { status := stCaskFull })) ∧
      ((m.pairing.filter (·.valid)).length < 4 → s.mgt.leafNext < 2 ^ 40 → (opPair s o).1.mgt.leafNext = s.mgt.leafNext + 1 ∧
        (opPair s o).2.status = (opPair s o).1.caskOk)) ∧
    (∀ m, s.cask.present = true → s.caskHeld = none → s.cask.identityValid = true → s.cask.lifeState ≠ 2 → s.cask.media = some m →
      ∃ t : State, t = ({ s with cask := { s.cask with media := some { m with
          pairing := m.pairing.map (fun e => if ownPair m e then { e with valid := false } else e) } } } : State).ledgerAdd 0 ∧
        opUnpair s o = if s.paired = true then (t, { status := t.caskOk }) else (s, { status := stCaskUnpaired }))

/-- The sideband's commands write the parameter bytes, read the status and result bytes and clear the alert, a failed PEC being refused; the MP's turn serves the operation in front (R425, R428). -/
def Obligations.SidebandCommandsAndMpTurnsAct : Prop :=
  ∀ (s : State),
    (s.aonUp = true →
      (∀ data : List Byte, data.length = 32 →
        exec (.paramLo true data) s = .next { s with mgt := { s.mgt with sb := { s.mgt.sb with data := data ++ s.mgt.sb.data.drop 32 } } } ∧
        exec (.paramHi true data) s = .next { s with mgt := { s.mgt with sb := { s.mgt.sb with data := s.mgt.sb.data.take 32 ++ data } } }) ∧
      exec (.status true) s = .next { s with outbox := s.outbox ++ [.sideband s.sbStatus] } ∧
      exec (.respLo true) s = .next { s with outbox := s.outbox ++ [.sideband (sliceB s.mgt.sb.resp 0 32)] } ∧
      exec (.respHi true) s = .next { s with outbox := s.outbox ++ [.sideband (sliceB s.mgt.sb.resp 32 32)] } ∧
      exec (.alertAck true 0) s = .next { s with mgt := { s.mgt with alert := false } } ∧
      (∀ v : Byte, v ≠ 0 → exec (.alertAck true v) s = .next s) ∧
      (s.dev.straps.sbMode = false → ∀ data v, exec (.paramLo false data) s = .next { s with outbox := s.outbox ++ [.sidebandNack] } ∧
        exec (.paramHi false data) s = .next { s with outbox := s.outbox ++ [.sidebandNack] } ∧
        exec (.status false) s = .next { s with outbox := s.outbox ++ [.sidebandNack] } ∧
        exec (.respLo false) s = .next { s with outbox := s.outbox ++ [.sidebandNack] } ∧
        exec (.respHi false) s = .next { s with outbox := s.outbox ++ [.sidebandNack] } ∧
        exec (.alertAck false v) s = .next { s with outbox := s.outbox ++ [.sidebandNack] })) ∧
    (s.sbStatus.length = 22) ∧
    (∀ o t, s.mgt.ops = o :: t → (s.mgt.mpState = 1 ∨ s.mgt.mpState = 2) →
      exec .mpOperationStep s = .next ((({ s with mgt := { s.mgt with ops := t } } : State).opStep o).settle)) ∧
    (∀ o, o.op = 8 → o.f 16 1 = 0 → o.steps = 1 → o.path = 1 ∨ o.path = 0 → s.opServed o = true → o.reserved = none →
      s.opStep o = (((opStage s o).1.opAnswer o (opStage s o).2).syncUpdate)) ∧
    (s.mgt.ops = [] → exec .mpOperationStep s = .next s.settle)

/-- A ready quire is placed on the core its policy chooses, the head of a core's queue is issued and started, an ended quire makes its completion record, and the Cellarer acts on the record; a long quire is marked, a watched one stops with OUTCOME 5, and while a unit of a pool is free, a grant goes to the class that the rotation reaches over the classes with work (R148, R153, R155, R156, R158, R162, R163, R179 to R183). -/
def Obligations.QuiresArePlacedIssuedAndCompleted : Prop :=
  ∀ (s : State),
    (∀ r q x n, s.runAt r = some x → s.ready r q = true → s.bindsLost r q 8 = false → s.choosePlace x.part r q = some n →
      (x.returned.contains q = true ∨ x.returned = [] ∧ s.cel.runs.all (fun e => e.2.returned == []) = true) →
      ((s.coreAt n).user ≠ x.part ∨ s.mayTake n x.part x.prio = true) → exec (.placementDecision r q) s = .next (s.place x r q n)) ∧
    (∀ (p : Pool) after c, s.unitFree p = true → (s.poolWork p).isEmpty = false → s.drrTurn p = (after, some c) →
      exec (.drrGrant p) s = .next (s.grant p after c)) ∧
    (∀ n : Fin 8,
      ((s.domAt (5 + n.val)).st ≠ .on → (s.coreAt n).queue ≠ [] → exec (.quireIssue n) s = .next (s.wake (5 + n.val))) ∧
      ((s.domAt (5 + n.val)).st = .on → (s.domAt (5 + n.val)).move = .none →
        ((s.coreAt n).second.isSome = true → exec (.quireIssue n) s = .next (s.startQuire n).settle) ∧
        (∀ r q rest x u, (s.coreAt n).second = none → (s.coreAt n).queue = (r, q) :: rest → (s.coreAt n).preempt = none →
          s.bindsLost r q n = false → s.runAt r = some x → u = s.homeBindings r q n (s.pointExp x) →
          (u.mayIssue n r q = true → exec (.quireIssue n) s =
            .next ((((u.setQuire r q (.issued n)).setCore n (fun c => { c with queue := rest, second := some (r, q) })).startQuire n).settle)) ∧
          (u.mayIssue n r q = false → exec (.quireIssue n) s = .next u)))) ∧
    (∀ (n : Fin 8) a, (s.coreAt n).active = some a → a.ended = true → (s.coreAt n).writes = [] → (s.coreAt n).done = none →
      exec (.quireComplete n) s = .next ((s.showWrites a).setCore n (fun c => { c with active := none, lastQuire := a.quire, done := some a.record })) ∧
      a.record.outcome = 0 ∧ a.record.cycles = a.cycles ∧ a.record.mark = a.mark) ∧
    (∀ (n : Fin 8) d x t, (s.coreAt n).done = some d → s.runAt d.run = some x →
      t = s.setCore n (fun c => { c with done := none, preempt := c.preempt.map (fun (p : Preempt) => { p with
        abandoned := p.abandoned || d.outcome == 4, phase := if p.phase = 2 then 3 else p.phase }) }) →
      exec (.quireOutcome n) s = .next (((((t.actOutcome n x d).afterQuire n).returnEmptied).runMoved d.run).settle)) ∧
    (∀ n x d, (d.outcome = 0 → s.actOutcome n x d =
        ((((s.chargeQuire n x d).addClamps x d).setQuire d.run d.quire .completed).pushPoints d.run).freeEnded d.run) ∧
      (d.outcome = 2 → s.actOutcome n x d = (s.chargeQuire n x d).failQuire d.run d.quire stDataPoisoned) ∧
      ((d.outcome = 3 ∨ d.outcome = 5) → (s.actOutcome n x d).dev.deviceFault = true ∧ (s.actOutcome n x d).mem = s.mem) ∧
      (d.outcome = 4 → (s.actOutcome n x d).cel.rerunAbandon = satAdd 16 s.cel.rerunAbandon 1 ∧ (s.actOutcome n x d).dev = s.dev)) ∧
    (∀ (n : Fin 8) a, (s.coreAt n).active = some a → a.long = false → (s.coreAt n).preempt = none →
      exec (.quireLong n) s = .next (s.setCore n (fun c => { c with
        longCount := satAdd 32 c.longCount 1, active := some { a with long := true, cycles := max a.cycles 44800 } }))) ∧
    (∀ (n : Fin 8) a, (s.coreAt n).active = some a → (s.coreAt n).done = none → exec (.quireWatchdog n) s =
      .next ((s.setCore n (fun c => { c with active := c.active.map (fun b => { b with cycles := max b.cycles 1048576 }) })).stopQuire n 5)) ∧
    (∀ n outcome a, (s.coreAt n).active = some a → ((s.stopQuire n outcome).coreAt n).active = none ∧
      (∃ d, ((s.stopQuire n outcome).coreAt n).done = some d ∧ d.outcome = outcome ∧ d.run = a.run ∧ d.quire = a.quire))

/-- Pre-emption marks the cheapest victim, abandons its quire when that is LONG and not complete, and hands the core over, scrubbed, once its tensors lie in the save area; a move takes its destination and draws its tokens, and the tensor is at its new home when its last byte has landed, which waits for the tokens; a regulator's bucket gains tokens up to its depth and serves what waits (R163, R165, R175, R177, R185 to R187, R192, R196). -/
def Obligations.PreemptionAndRackingAct : Prop :=
  ∀ (s : State),
    (∀ r q x n t, s.runAt r = some x → s.mayPreempt x r q = true →
      leastBy (s.victimCost x.part r q) ((s.victims x.part x.prio).filter (fun n => (s.coreAt n).user == x.part ||
        decide ((s.coresHeld x.part).length < (s.partAt x.part).coresMax))) = some n →
      t = s.markPreempt x.part r q n →
      ((t.coreAt n).active = none → exec (.preemptionRequest r q) s = .next t) ∧
      (∀ a, (t.coreAt n).active = some a → (a.long = false ∨ (a.ended = true ∧ (t.coreAt n).writes = [])) →
        exec (.preemptionRequest r q) s = .next t) ∧
      (∀ a y, (t.coreAt n).active = some a → (t.coreAt n).done = none → a.long = true → (a.ended = false ∨ (t.coreAt n).writes ≠ []) →
        t.runAt a.run = some y → tget 0 y.abandons a.quire < 2 → exec (.preemptionRequest r q) s = .next (t.abandonQuire n))) ∧
    (∀ (n : Fin 8) y, (s.coreAt n).preempt = some y → y.phase = 3 →
      (y.part = 0 → exec (.preemptionRackOutDone n) s = .next ((((s.rackOut 0 y.victim n).coreLeft n).restReleased n).settle)) ∧
      (y.part ≠ 0 → y.transfer = true → exec (.preemptionRackOutDone n) s =
        .next (((s.rackOut y.part y.victim n).setCore n (fun c => { c with preempt := some { y with phase := 4 } })).settle)) ∧
      (y.part ≠ 0 → y.transfer = false → ∃ k, exec (.preemptionRackOutDone n) s =
        .next ((((((s.spill y.victim y.run y.quire n).foldl (fun s k => s.rackOutOne y.part k) s).setCore n
          (fun c => { c with preempt := none })).countPreempt y n k).placeWinner y n).settle))) ∧
    (∀ (n : Fin 8) y k u, (s.coreAt n).preempt = some y → y.phase = 4 →
      u = s.freeTensors (fun t => t.part == y.victim && t.lost && atCore n t.home) →
      (y.part ≠ 0 → exec (.preemptionTransferDone n k) s =
        .next ((((((u.setCore n (fun c => { c.clear with preempt := none, user := y.part })).dropZero n).scrubForeign y.part n).countPreempt
          y n k).placeWinner y n).settle)) ∧
      (y.part = 0 → exec (.preemptionTransferDone n k) s =
        .next ((((u.setCore n (fun c => { c.clear with preempt := none, user := if c.out then 0 else c.owner })).dropZero n).scrubForeign 0 n).settle))) ∧
    (∀ k dest addr t u a v, s.tensorAt k = some t → t.lost = false → t.move = none → t.home ≠ dest → s.moveAllowed t dest = true →
      s.moveRoom t dest addr = (u, some a) → v = (if dest = .saveArea then (u, []) else u.regulate t dest a (u.bytesIn t t.home)) →
      (s.copies t = false → s.boundHere t k = false → exec (.rackMove k dest addr) s =
        .next (({ v.1 with cel := { v.1.cel with uses := v.1.cel.uses + 1 } } : State).setTensor k
          (fun t => { t with move := some (dest, a), used := v.1.cel.uses + 1, owed := v.2 }))) ∧
      (s.copies t = true → (∀ e ∈ s.cel.tensors, e.2.part = t.part → e.2.folio = t.folio → e.2.run = t.run → e.2.tid = t.tid → e.2.inst = t.inst →
          e.2.home ≠ dest ∧ ∀ m, e.2.move = some m → m.1 ≠ dest) → exec (.rackMove k dest addr) s =
        .next (({ v.1 with cel := { v.1.cel with uses := v.1.cel.uses + 1 } } : State).newTensor
          { t with move := some (dest, a), used := v.1.cel.uses + 1, owed := v.2 }))) ∧
    (∀ k t h a ecc, s.tensorAt k = some t → t.move = some (h, a) →
      (t.owed ≠ [] → exec (.rackMoveDone k ecc) s = .next s) ∧
      (t.owed = [] → exec (.rackMoveDone k ecc) s = .next ((s.sourceErrors k ecc).landMove k)) ∧
      (∃ y, (s.landMove k).tensorAt k = some y ∧ y.home = h ∧ y.addr = a ∧ y.move = none ∧ y.charge = 0 ∧ y.tid = t.tid) ∧
      (∀ j : Nat, j ≠ k → (s.landMove k).tensorAt j = s.tensorAt j) ∧ (s.landMove k).cel.runs = s.cel.runs) ∧
    (∀ (p : Fin 8) (b : Fin 27) (k v : Nat) (q : Part), q = s.partAt (p.val + 1) → k = 32 * (p.val + 1) + b.val → q.st ≠ .free →
      ((3 ≤ b.val ∧ v = min (q.burst * 1024) (tget 0 s.cel.tokens k + q.fabricRate * 1024)) ∨
       (b.val < 3 ∧ s.trainedIn b.val ≠ 0 ∧ v = min (q.burst * 1024 * s.trainedIn b.val / s.ddr.inService.length)
         (tget 0 s.cel.tokens k + q.dramRate * 1280 * s.trainedIn b.val / s.ddr.inService.length))) →
      exec (.regulatorRefill p b) s = .next (({ s with cel := { s.cel with tokens := tput 0 s.cel.tokens k v } } : State).payWaiting (p.val + 1) b
        (if b.val < 3 then q.dramRate else q.fabricRate)))

/-- Each set-up instruction of the tile sequencer, when it is the next word of the quire its core runs, does what R149 to R155 give it and the next word follows, its waits counted (log 13); when it is not, nothing happens; WLOAD waits for a write to its range and takes the digits there (R15, R62, R63, R149, R150, R155, R156). -/
def Obligations.TileSetupInstructionsAct : Prop :=
  ∀ (s : State) (n : Fin 8),
    (∀ w a img h, s.atInst n w = some (a, img, h) →
      (w = wNop → exec (.ctrlNop n) s = .next (s.tick n 1)) ∧
      (w = wEnd → exec (.endQuire n) s = .next (((s.tick n 1).setActive n (fun a => { a with ended := true })).decideFine n)) ∧
      (w = wFence → (s.coreAt n).writes = [] → exec (.fence n) s = .next (s.tick n 1)) ∧
      (w = wFence → (s.coreAt n).writes ≠ [] → exec (.fence n) s = .next s) ∧
      (∀ v, w = wMark v.toNat → exec (.mark n v) s = .next ((s.tick n 1).setActive n (fun a => { a with mark := v.toNat }))) ∧
      (∀ m (i : Fin 4096) win, w = wGeom m.toNat i win → exec (.geom n m i win) s = .next ((s.tick n 1).setActive n (fun a => { a with
        geom := (bitList 4 m.toNat).foldl (fun t j => tput none t j (some (i.val, win))) a.geom }))) ∧
      (∀ (b : Fin 256) (p : Fin 4) (d : Fin 8) s2 (o : Fin 16777216) ecc (t : WTile) r u, w = wWload b p d s2 o →
        t = { binding := b, plane := p, diag := d, s2 := s2, offset := o, loaded := false } → r = [(wtileAddr a t, t.bytes)] → u = s.eccFound n r ecc →
        (s.blocked n r = false → exec (.wload n b p d s2 o ecc) s = .next ((u.tick n 1).setActive n (fun a => { a with
          shadow := a.shadow ++ [{ t with digits := u.bytesAt (wtileAddr a t) t.bytes, poisoned := u.anyPoison r }] }))) ∧
        (s.blocked n r = true → exec (.wload n b p d s2 o ecc) s = .next s)) ∧
      (∀ (k : Fin 4) (b : Fin 256) (p : Fin 4) (q : Fin 64) (c : Fin 256) (p0 : BitVec 32), w = wSlot k b p q c p0.toNat → exec (.slot n k b p q c p0) s = .next ((s.tick n 1).setActive n (fun a => { a with
        src := tput none a.src k (some { binding := b, plane := p, p := q.val + 1, chain := c, p0 := p0.toNat }) })))) ∧
    (s.atInst n wNop = none → exec (.ctrlNop n) s = .next s) ∧ (s.atInst n wEnd = none → exec (.endQuire n) s = .next s) ∧
    (s.atInst n wFence = none → exec (.fence n) s = .next s) ∧
    (∀ a, (s.coreAt n).active = some a → ∃ b, ((s.tick n 1).coreAt n).active = some b ∧ b.pc = a.pc + 1 ∧
      b.cycles = min 0xFFFFFFFF (a.cycles + 1 + Config.instrWaits n (s.coreAt n).instrs) ∧ b.bindings = a.bindings ∧ b.quire = a.quire) ∧
    (∀ t ts a, (s.coreAt n).active = some a → a.shadow = t :: ts → exec (.weightShadowLoaded n) s =
      .next (s.setCore n (fun c => { c with active := some { a with shadow := { t with loaded := true } :: ts } })))

/-- PASS, FLUSH and EPILOGUE_WRITE_DONE complete.
A PASS of the quire's next word, with a tile to use and nothing that it reads outstanding, runs the slots that do not skip against that tile, the loaded shadow tile where NEWW says so; a PASS that reads a poisoned line, or in checksum mode finds a mismatch, stops the quire with OUTCOME 2 or 1, and one that must wait changes nothing.
A FLUSH drains its banks into an accumulator set and, with CONVERT, converts the set, unless a line that it reads is poisoned; a write that lands is in the store, with what it replaced kept (R35, R36, R44, R45, R63, R66, R69, R70, R74, R97, R155). -/
def Obligations.PassesFlushesAndWritesAct : Prop :=
  ∀ (s : State) (n : Fin 8),
    (∀ (m : BitVec 4) neww bank opening (blk : Fin 512) (faults : List CellFault) (ecc : List StoreError) a img h slots run skip v reads,
      s.atInst n (wPass m.toNat neww bank opening blk) = some (a, img, h) → slots = maskSlots a m.toNat →
      skip = slots.filter (fun e => s.slotSkips img h a e.1 e.2 blk) → run = slots.filter (fun e => !s.slotSkips img h a e.1 e.2 blk) →
      reads = (s.beginPass n neww opening bank slots).readsNow img h a slots run blk →
      v = (s.beginPass n neww opening bank slots).eccFound n reads ecc →
      (s.passWaits n img h a neww blk slots run = true → exec (.pass n m neww bank opening blk faults ecc) s = .next s) ∧
      (∀ t, s.passWaits n img h a neww blk slots run = false → (if neww then a.shadow.head? else a.weight) = some t →
        (v.anyPoison reads = false → (run = [] ∨ t.poisoned = false) → v.passChecks n img h a t blk run faults = [] →
          exec (.pass n m neww bank opening blk faults ecc) s =
            .next ((v.stageTiles n img h a slots blk).runPass n img h a t neww bank blk run skip faults)) ∧
        ((v.recordCheck n (v.passChecks n img h a t blk run faults)).anyPoison reads = false → (run = [] ∨ t.poisoned = false) →
          v.passChecks n img h a t blk run faults ≠ [] → exec (.pass n m neww bank opening blk faults ecc) s =
            .next ((v.recordCheck n (v.passChecks n img h a t blk run faults)).stopQuire n 1)) ∧
        ((v.anyPoison reads = true ∨ (run ≠ [] ∧ t.poisoned = true)) → v.passChecks n img h a t blk run faults = [] →
          exec (.pass n m neww bank opening blk faults ecc) s = .next (v.stopQuire n 2)) ∧
        ((h.checksum = false ∨ faults = []) → v.passChecks n img h a t blk run faults = []))) ∧
    (∀ img h a neww (blk : Nat) slots run, s.passWaits n img h a neww blk slots run = true ↔
      s.blocked n (slots.flatMap (fun e => s.tileRanges img h a e.1 e.2 blk)) = true ∨
      (neww = true ∧ run ≠ [] ∧ ∀ t, a.shadow.head? = some t → t.loaded = false) ∨ (s.coreAt n).done ≠ none) ∧
    (∀ (m : BitVec 4) bank (sh : Fin 8) (chain out col : Fin 256) set ecc a img h slots u k,
      s.atInst n (wFlush m.toNat bank sh false chain out col set) = some (a, img, h) → slots = maskSlots a m.toNat → (s.coreAt n).done = none →
      u = (slots.foldl (fun s e => s.drainBank n e.1 (b2n bank) (b2n set) sh) s).setActive n (fun a => { a with
        opened := a.opened.filter (fun o => !(slots.any (fun e => o == 2 * e.1 + b2n bank))) }) →
      k = u.flushCycles n img h a (chainD img (h.chainBase + chain.val)) out col (b2n set) false slots →
      exec (.flush n m bank sh false chain out col set ecc) s = .next (u.tick n k)) ∧
    (∀ (m : BitVec 4) bank (sh : Fin 8) (chain out col : Fin 256) set ecc a img h slots c r v u k,
      s.atInst n (wFlush m.toNat bank sh true chain out col set) = some (a, img, h) → slots = maskSlots a m.toNat → (s.coreAt n).done = none →
      c = chainD img (h.chainBase + chain.val) → r = s.flushRanges img h a c out col slots → v = s.eccFound n r.2 ecc →
      u = (slots.foldl (fun s e => s.drainBank n e.1 (b2n bank) (b2n set) sh) v).setActive n (fun a => { a with
        opened := a.opened.filter (fun o => !(slots.any (fun e => o == 2 * e.1 + b2n bank))) }) →
      k = u.flushCycles n img h a c out col (b2n set) true slots →
      (s.blocked n r.1 = true → exec (.flush n m bank sh true chain out col set ecc) s = .next s) ∧
      (s.blocked n r.1 = false → v.anyPoison r.2 = true → exec (.flush n m bank sh true chain out col set ecc) s = .next (v.stopQuire n 2)) ∧
      (s.blocked n r.1 = false → v.anyPoison r.2 = false →
        exec (.flush n m bank sh true chain out col set ecc) s = .next ((u.convertFlush n img h a c out col (b2n set) slots).tick n k))) ∧
    (∀ (u : State) img h a c out col set convert slots, 64 ≤ u.flushCycles n img h a c out col set convert slots) ∧
    (∀ w ws a img u, (s.coreAt n).writes = w :: ws → (s.coreAt n).active = some a → img = s.runImage a.run →
      u = (w.segs.foldl (fun s g => s.landWrite n g) ((s.setCore n (fun c => { c with writes := ws })).cleanLines n w.segs)).clearTouched n a w →
      exec (.epilogueWriteDone n) s = .next ((w.zero.foldl (fun s z => s.decideZero n img a z) u).decideFine n)) ∧
    (∀ g a, (s.coreAt n).active = some a → ((s.landWrite n g).coreAt n).active =
      some { a with undo := (g.1, s.bytesAt g.1 g.2.length) :: a.undo })

/-- A pass adds to each bank sum the products of its position's operands with the weights of its column, a flush adds a bank shifted left by 4·SHIFT into a 48-bit accumulator and empties the bank, and the epilogue's last step keeps every code in its range (R28, R35, R36, R40, R64). -/
def Obligations.AccumulationIsExact : Prop :=
  ∀ (s : State) (n : Nat), twf {} s.core = true → twf 0 (s.coreAt n).banks = true → twf 0 (s.coreAt n).acc = true →
    (∀ (slot bank cols : Nat) (t : WTile) (rows : List (List Int)) (pos col : Nat), bank < 2 → rows.length ≤ 64 → cols ≤ 256 → pos < rows.length → col < cols →
      tget 0 ((s.addTile n slot bank t cols rows).coreAt n).banks (bankKey slot bank pos col) =
        tget 0 (s.coreAt n).banks (bankKey slot bank pos col) +
          (((rows.getD pos []).zipIdx).map (fun x => x.1 * t.weightAt x.2 col)).sum) ∧
    (∀ (slot bank set shift pos col : Nat), bank < 2 → set < 2 → pos < 64 → col < 256 →
      tget 0 ((s.drainBank n slot bank set shift).coreAt n).banks (bankKey slot bank pos col) = 0 ∧
      (tget 0 (s.coreAt n).banks (bankKey slot bank pos col) ≠ 0 →
        tget 0 ((s.drainBank n slot bank set shift).coreAt n).acc (bankKey slot set pos col) =
          wrap48 (tget 0 (s.coreAt n).acc (bankKey slot set pos col) +
            tget 0 (s.coreAt n).banks (bankKey slot bank pos col) * 2 ^ (4 * shift))) ∧
      (tget 0 (s.coreAt n).banks (bankKey slot bank pos col) = 0 →
        tget 0 ((s.drainBank n slot bank set shift).coreAt n).acc (bankKey slot set pos col) =
          tget 0 (s.coreAt n).acc (bankKey slot set pos col))) ∧
    (∀ (v : Int), -(2 ^ 47) ≤ wrap48 v ∧ wrap48 v < 2 ^ 47 ∧ (2 ^ 48 : Int) ∣ wrap48 v - v) ∧
    (∀ (v lo hi : Int), lo ≤ hi → lo ≤ clampI lo hi v ∧ clampI lo hi v ≤ hi ∧ (lo ≤ v → v ≤ hi → clampI lo hi v = v))

/-- The lane instructions that work lane by lane write their results into the destination's lanes whose mask bit is 1, or into the mask, and leave everything else (R76 to R79, R151, R518). -/
def Obligations.LaneInstructionsWriteUnderMask : Prop :=
  ∀ (s : State) (a : LaneArgs) (c : Core) (b : Bool) (n : Nat), c = s.coreAt a.core → b = laneBit0 a → n = laneCount a c → twf 0 c.v = true →
    s.laneWrites a 0x00 (.laneAdd a) (fun k => c.lane a.va k + c.lane a.vb k) ∧
    s.laneWrites a 0x01 (.laneSub a) (fun k => c.lane a.va k - c.lane a.vb k) ∧
    s.laneWrites a 0x02 (.laneAdds a) (fun k => laneSat b (laneVal b (c.lane a.va k) + laneVal b (c.lane a.vb k))) ∧
    s.laneWrites a 0x03 (.laneSubs a) (fun k => laneSat b (laneVal b (c.lane a.va k) - laneVal b (c.lane a.vb k))) ∧
    s.laneWrites a 0x08 (.laneMin a) (fun k => if laneVal b (c.lane a.va k) ≤ laneVal b (c.lane a.vb k) then c.lane a.va k else c.lane a.vb k) ∧
    s.laneWrites a 0x09 (.laneMax a) (fun k => if laneVal b (c.lane a.va k) ≤ laneVal b (c.lane a.vb k) then c.lane a.vb k else c.lane a.va k) ∧
    s.laneWrites a 0x10 (.laneAnd a) (fun k => c.lane a.va k &&& c.lane a.vb k) ∧
    s.laneWrites a 0x11 (.laneOr a) (fun k => c.lane a.va k ||| c.lane a.vb k) ∧
    s.laneWrites a 0x12 (.laneXor a) (fun k => c.lane a.va k ^^^ c.lane a.vb k) ∧
    s.laneWrites a 0x13 (.laneShl a) (fun k => c.lane a.va k <<< n) ∧
    s.laneWrites a 0x14 (.laneShr a) (fun k => c.lane a.va k >>> n) ∧
    s.laneWrites a 0x15 (.laneShrt a) (fun k => BitVec.ofInt 16 (Int.tdiv (c.lane a.va k).toInt (2 ^ n))) ∧
    s.laneWrites a 0x20 (.laneExp2n a) (fun k => BitVec.ofNat 16 (exp2n (c.lane a.va k).toNat)) ∧
    s.laneWrites a 0x3C (.lanePerm a) (fun k => c.lane a.va ((c.lane a.vb k).toNat % 64)) ∧
    s.laneWrites32 a 0x18 (.laneAdd32 a) (fun k => c.lane32 a.va k + c.lane32 a.vb k) ∧
    s.laneWrites32 a 0x19 (.laneSub32 a) (fun k => c.lane32 a.va k - c.lane32 a.vb k) ∧
    s.laneWrites32 a 0x1A (.laneMul a) (fun k => BitVec.ofInt 32 (laneVal b (c.lane a.va (2 * k)) * laneVal b (c.lane a.vb (2 * k)))) ∧
    s.laneWrites32 a 0x1B (.laneMac32 a) (fun k => c.lane32 a.vd k +
      BitVec.ofInt 32 (laneVal b (c.lane a.va (2 * k)) * laneVal b (c.lane a.vb (2 * k)))) ∧
    s.laneWrites32 a 0x21 (.laneRecip a) (fun k => BitVec.ofNat 32 (recip (c.lane a.va (2 * k)).toNat)) ∧
    s.maskWrites a 0x0A (.laneCmpeq a) (fun k => c.mask.getLsbD k && decide (c.lane a.va k = c.lane a.vb k)) ∧
    s.maskWrites a 0x0B (.laneCmplt a) (fun k => c.mask.getLsbD k && decide (laneVal b (c.lane a.va k) < laneVal b (c.lane a.vb k))) ∧
    s.maskWrites a 0x49 (.laneSetmask a) (fun k => decide (c.lane a.va k ≠ 0))

/-- SEL, the reductions, SORT32 and SETCNT do what R80, R151 and R518 say, whatever the mask bit of the lane they write. -/
def Obligations.LaneReductionsAndSortsAct : Prop :=
  ∀ (s : State) (a : LaneArgs) (c : Core), c = s.coreAt a.core → twf 0 c.v = true →
    ((s.atLane 0x0C a).isSome = true → ∃ u : State, exec (.laneSel a) s = .next u ∧ s.laneFrame u a ∧
      ∀ k : Nat, k < 64 → (u.coreAt a.core).lane a.vd k = if c.mask.getLsbD k = true then c.lane a.va k else c.lane a.vb k) ∧
    ((s.atLane 0x28 a).isSome = true → ∃ u : State, exec (.laneSum32 a) s = .next u ∧ s.laneFrame u a ∧
      (u.coreAt a.core).lane32 a.vd 0 = BitVec.ofInt 32 ((c.masked.map (fun k => (c.lane a.va k).toInt)).sum) ∧
      ∀ k : Nat, 2 ≤ k → k < 64 → (u.coreAt a.core).lane a.vd k = c.lane a.vd k) ∧
    ((s.atLane 0x29 a).isSome = true → ∃ u : State, exec (.laneMaxReduction a) s = .next u ∧ s.laneFrame u a ∧
      (∀ k : Nat, k ∈ c.masked → (c.lane a.va k).toInt ≤ ((u.coreAt a.core).lane a.vd 0).toInt) ∧
      (c.masked ≠ [] → ∃ k ∈ c.masked, (u.coreAt a.core).lane a.vd 0 = c.lane a.va k) ∧
      ∀ k : Nat, 1 ≤ k → k < 64 → (u.coreAt a.core).lane a.vd k = c.lane a.vd k) ∧
    ((s.atLane 0x2A a).isSome = true → ∃ u : State, exec (.laneMinReduction a) s = .next u ∧ s.laneFrame u a ∧
      (∀ k : Nat, k ∈ c.masked → ((u.coreAt a.core).lane a.vd 0).toInt ≤ (c.lane a.va k).toInt) ∧
      (c.masked ≠ [] → ∃ k ∈ c.masked, (u.coreAt a.core).lane a.vd 0 = c.lane a.va k) ∧
      ∀ k : Nat, 1 ≤ k → k < 64 → (u.coreAt a.core).lane a.vd k = c.lane a.vd k) ∧
    ((s.atLane 0x30 a).isSome = true → c.mask = BitVec.allOnes 64 → ∃ u : State, exec (.laneSort32 a) s = .next u ∧ s.laneFrame u a ∧
      ∃ p q : List (Int × Nat), p = (List.range 32).map (fun j => ((c.lane a.va (2 * j)).toInt, (c.lane a.va (2 * j + 1)).toNat)) ∧
        q = (List.range 32).map (fun j => (((u.coreAt a.core).lane a.vd (2 * j)).toInt, ((u.coreAt a.core).lane a.vd (2 * j + 1)).toNat)) ∧
        q.Perm p ∧ pairSorted (laneBit0 a) q = true) ∧
    ((s.atLane 0x48 a).isSome = true →
      exec (.laneSetcnt a) s = .next ((s.setActive a.core (fun x => { x with cnt := a.offset.val })).tick a.core 1))

/-- The lane instructions that reach the core store read what is there, issue their writes and stop the quire with DATA_POISONED on a poisoned line, once no outstanding write meets what they touch (R54, R63, R74, R80, R153, R518). -/
def Obligations.LaneStoreInstructionsAct : Prop :=
  ∀ (s u : State) (a : LaneArgs) (x : Active) (img : List Byte) (h : QHdr) (b : Binding) (d : TDecl) (l m : List (Nat × Nat × Nat)) (reads : List (Nat × Nat))
    (addr n : Nat) (c : Core),
    b = x.bind a.binding → addr = laneBase b a → n = a.core.val → c = s.coreAt n → d = tdecl img b.tensor → l = laneElems d (8 * a.offset.val) x.cnt →
    m = laneElems d.written (8 * a.offset.val) x.cnt → c.done = none → c.writes = [] → u = s.eccFound n reads a.ecc →
    (s.atLane 0x38 a = some (x, img, h) → reads = [(addr, 128)] →
      (u.anyPoison reads = false → exec (.laneLoad a) s =
        .next ((u.setCore n (fun c => c.writeLanes a.vd (fun i => s.halfAt (addr + 2 * i)))).tick n 1)) ∧
      (u.anyPoison reads = true → exec (.laneLoad a) s = .next (u.stopQuire n 2))) ∧
    (s.atLane 0x39 a = some (x, img, h) → c.masked ≠ [] → exec (.laneStore a) s =
      .next ((s.laneIssue n (c.masked.map (fun i => (addr + 2 * i, laneBytes (c.lane a.va i)))) []).tick n 1)) ∧
    (s.atLane 0x3A a = some (x, img, h) → reads = (c.masked.filterMap (fun i => laneElement b a (c.lane a.vb i).toNat)).map (fun p => (p, 2)) →
      (u.anyPoison reads = false → exec (.laneGather a) s = .next ((u.setCore n (fun y => y.writeLanes a.vd (fun i =>
        ((laneElement b a (c.lane a.vb i).toNat).map s.halfAt).getD 0))).tick n 4)) ∧
      (u.anyPoison reads = true → exec (.laneGather a) s = .next (u.stopQuire n 2))) ∧
    (∀ segs, s.atLane 0x3B a = some (x, img, h) →
      segs = c.masked.filterMap (fun i => (laneElement b a (c.lane a.vb i).toNat).map (fun p => (p, laneBytes (c.lane a.va i)))) → segs ≠ [] →
      exec (.laneScatter a) s = .next ((s.laneIssue n segs []).tick n 4)) ∧
    (s.atLane 0x31 a = some (x, img, h) → x.cnt ≠ 0 → reads = [(addr, 4 * x.cnt)] →
      (u.anyPoison reads = false → exec (.laneMerge a) s =
        .next ((u.laneIssue n [(addr, s.merged (laneBit0 a) addr x.cnt)] []).tick n (ceilDiv x.cnt 16))) ∧
      (u.anyPoison reads = true → exec (.laneMerge a) s = .next (u.stopQuire n 2))) ∧
    (s.atLane 0x40 a = some (x, img, h) → reads = laneRanges b d.written m →
      (u.anyPoison reads = false → exec (.laneStats a) s =
        .next ((u.takeStats n img b (s.midValues b d m)).tick n (max 1 (ceilDiv x.cnt 64)))) ∧
      (u.anyPoison reads = true → exec (.laneStats a) s = .next (u.stopQuire n 2))) ∧
    (∀ o, s.atLane 0x41 a = some (x, img, h) → reads = laneRanges b d.written m → o = s.convertElems img b d m → o.1 ≠ [] →
      (u.anyPoison reads = false → exec (.laneConvert a) s =
        .next (((u.laneIssue n o.1 (laneTiles b d m)).setActive n
          (fun y => { y with clamps := if o.2 = 0 then y.clamps else tput 0 y.clamps a.binding (clampAdd (tget 0 y.clamps a.binding) o.2) })).tick n (max 1 (ceilDiv x.cnt 64)))) ∧
      (u.anyPoison reads = true → exec (.laneConvert a) s = .next (u.stopQuire n 2))) ∧
    (∀ segs, s.atLane 0x42 a = some (x, img, h) → segs = s.splitElems c img b d a.va l → segs ≠ [] → exec (.laneSplit a) s =
      .next ((s.laneIssue n segs []).tick n (max 1 (ceilDiv x.cnt 64)))) ∧
    (∀ vals, s.atLane 0x43 a = some (x, img, h) → reads = laneRanges b d l →
      vals = l.flatMap (fun e => (List.range e.2.2).map (fun k => BitVec.ofInt 16 (s.codeAt img b d e.1 (e.2.1 + k)))) →
      (u.anyPoison reads = false → exec (.laneRecompose a) s = .next ((u.setCore n (fun c => vals.zipIdx.foldl (fun c e =>
        if c.mask.getLsbD (e.2 % 64) then c.setLanes ((a.vd.val + e.2 / 64) % 32) [(e.2 % 64, e.1)] else c) c)).tick n (max 1 (ceilDiv x.cnt 64)))) ∧
      (u.anyPoison reads = true → exec (.laneRecompose a) s = .next (u.stopQuire n 2)))

/-- The header processor parses a picture whose bytes are in the bin, storing its parameter sets, refusing what its stream's limits shut out and discarding pictures before a starting point; a free engine takes the stream's next picture under a grant, with the encoders it needs; a decoded picture leaves its engine, concealed where units are in error or missing, and from the unit where its budget ran out (R206, R207, R213, R215 to R218, R220, R221, R239). -/
def Obligations.PicturesAreParsedAndDecoded : Prop :=
  ∀ (s : State) (sid : Nat) (x : Stream), s.streamAt sid = some x →
    (∀ p : ParsedPicture, x.st ≠ .closed → 1 ≤ p.auBytes → p.auBytes ≤ x.unparsed → s.clusterServes x.cluster = true →
      (s.clusterAwake x.cluster = false → exec (.pictureParse sid p) s = .next (s.wake (21 + x.cluster))) ∧
      (s.clusterAwake x.cluster = true → exec (.pictureParse sid p) s =
        .next ((((s.takeUnit sid p).setStream sid (fun x => { x with parsed := x.parsed + p.auBytes })).alarmUpdate x.part x.pipeline).releaseFeeds sid))) ∧
    (∀ p : ParsedPicture, p.layer ≠ 0 → s.takeUnit sid p = s) ∧
    (∀ (p : ParsedPicture) y t, p.layer = 0 → t = s.setStream sid (fun x => p.headers.foldl Stream.takeHeader x) → t.streamAt sid = some y →
      (y.setOf p = none → s.takeUnit sid p = t) ∧
      (∀ set, y.setOf p = some set → (p.segments = 0 → s.takeUnit sid p = t) ∧ (p.segments ≠ 0 → s.takeUnit sid p = t.takePicture sid y p set))) ∧
    (∀ (p : ParsedPicture) set t, t = s.setStream sid (fun x => x.takePts p.feedIndex) →
      (setAccepted x set = true → x.mode = .seeking → startsAt p = false → s.takePicture sid x p set =
        (t.setStream sid (fun x => { x with nextDec := (x.nextDec + 1) % 2 ^ 32, active := some set })).missSnaps sid x.nextDec) ∧
      (setAccepted x set = false → x.activates p = true → s.takePicture sid x p set =
        ((t.setStream sid (fun y => { y.setMode .seeking with
          refused := y.refused + 1, dpb := [], nextDec := (y.nextDec + 1) % 2 ^ 32, active := some set })).missSnaps sid x.nextDec).hpEvent x.cluster sid 0x0483 0 0)) ∧
    (∀ (d : Nat) (e : Fin 10) p pipe t, x.picAt d = some p → s.pipeAt x.part x.pipeline = some pipe → s.mayDispatch sid x p pipe e = true →
      s.clusterServes x.cluster = true → s.awake (21 + x.cluster) = true → (p.analysed = true → s.awake 27 = true) →
      (s.encodersFor sid x p ≠ [] → s.awake 25 = true) → t = (s.dispatch sid x p e).takeGrant (10 + x.cluster) x.part (pipe.workPrio x.prio) →
      (s.encodersFor sid x p = [] → exec (.pictureDispatch sid d e) s = .next t) ∧
      (s.encodersFor sid x p ≠ [] → exec (.pictureDispatch sid d e) s = .next (t.takeGrant 14 x.part (pipe.workPrio x.prio)))) ∧
    (∀ (d : Nat) p e (r : DecodeReport), x.picAt d = some p → p.stage = .dispatched e →
      (∀ cyc, cyc ≤ x.budgetMult * nominalCost p.w p.h p.depth → exec (.pictureDecoded sid d cyc r) s =
        .next (s.leaveEngine sid x p e cyc (p.causesOf r none) (p.concealed r none) r.planes)) ∧
      (∀ u : Nat, exec (.decodeBudgetExpiry sid d u r) s =
        .next ((s.setCluster x.cluster (fun c => { c with budget := satAdd 32 c.budget 1 })).leaveEngine sid x p e
          (x.budgetMult * nominalCost p.w p.h p.depth) (p.causesOf r (some u)) (p.concealed r (some u)) r.planes)) ∧
      (∀ u k : Nat, k < p.totalUnits → (k ∈ p.concealed r (some u) ↔
        p.oversized = true ∨ (∃ l ∈ r.syntaxErrors, l.1 ≤ k ∧ k ≤ l.2) ∨ k ∈ r.missing ∨ u ≤ k)))

/-- A prep unit prepares and quantises a decoded analysis picture, holding it while an earlier one owes its statistic; an expired batch issues with what it has; a prep unit makes a page's detector picture; a crop job's entries are applied in list order by the free unit that starts it under a grant, others may share its list, and its crops go to re-identification or become a page's lines (R53, R127 to R131, R223 to R230, R234, R268 to R270). -/
def Obligations.PicturesAndCropsArePrepared : Prop :=
  ∀ (s : State),
    (∀ sid x d p q pipe (u : Fin 8) t, s.streamAt sid = some x → x.picAt d = some p → s.pipeAt x.part x.pipeline = some pipe →
      s.picWaits p pipe = true → s.prepFree u = true → s.mayTake 9 x.part (pipe.workPrio x.prio) = true → s.awake 27 = true →
      q = p.prepare x pipe (s.askedRegroup x.part pipe) → t = s.takePrepared sid x pipe q u →
      (t.inputMode x.part pipe.detFolio ≠ 1 ∨ x.prepHeld d = false →
        exec (.prepPictureDone (.picture sid d) u) s = .next (t.quantise sid x pipe q)) ∧
      (t.inputMode x.part pipe.detFolio = 1 → x.prepHeld d = true → exec (.prepPictureDone (.picture sid d) u) s = .next (t.countHold u))) ∧
    (∀ n g x (u : Fin 8), s.pageAt n = some g → s.pagePipe g = some x → g.picWaits = true → s.prepFree u = true →
      s.mayTake 9 g.part (x.workPrio g.prio) = true → s.awake 27 = true →
      exec (.prepPictureDone (.page n) u) s = .next (s.preparePage n g x u).settle) ∧
    (∀ sid x d p pipe (u : Fin 8), s.streamAt sid = some x → x.picAt d = some p → s.pipeAt x.part x.pipeline = some pipe →
      p.prepared = true → p.quantised = false → x.prepHeld d = false → s.prepFree u = true → s.awake 27 = true →
      exec (.prepQuantise sid d u) s = .next (s.quantise sid x pipe p)) ∧
    (∀ n b, s.batchAt n = some b → b.run = 0 → b.full = false → exec (.batchWaitExpiry n) s =
      .next (((s.setBatch n (fun b => { b with waited := true })).issueReady b.part b.pipeline).alarmUpdate b.part b.pipeline)) ∧
    (∀ n j (u : Fin 8) k, nget s.media.crops n = some j → s.prepFree u = true → s.awake 27 = true → s.cropPoison j = false →
      (j.units ≠ [] ∨ s.mayTake 9 j.part j.prio = true) → k = (if j.units = [] then s.applyEntries j else j) → ∃ t : State, exec (.cropJob n u) s = .next t ∧
        t.media.crops = nmod s.media.crops n (fun j => { j with units := j.units ++ [u.val], out := k.out, status := k.status }) ∧
        t.media.ppBusy = s.media.ppBusy ||| BitVec.ofNat 8 (2 ^ u.val) ∧ t.mem = s.mem ∧ t.cp = s.cp) ∧
    (∀ n j g x, nget s.media.crops n = some j → j.units ≠ [] → j.lines = true → s.pageAt j.obj = some g → s.pagePipe g = some x →
      (s.inputMode g.part x.secFolio ≠ 1 ∨ s.linesHeld j.obj g = false) → exec (.cropJobDone n) s =
        .next ((s.endCrop n j g.client).finishLines j.obj g x j).settle) ∧
    (∀ n j x pipe t, nget s.media.crops n = some j → j.units ≠ [] → j.lines = false → s.streamAt j.obj = some x →
      s.pipeAt x.part x.pipeline = some pipe → (s.inputMode x.part pipe.secFolio ≠ 1 ∨ s.reidHeld x j = false) →
      s.startReid x pipe.secFolio j (s.cropMax j) = some t → exec (.cropJobDone n) s =
        .next ((t.endCrop n j x.client).setPic j.obj j.seq (fun p => { p with crop := if x.snapAuto then p.crop else none })))

/-- A finished batch gives its picture its kept boxes, the track processor takes the stream's next complete picture in output order and commits its records, and encoders finish clip pictures within BITS_PER_PIC and snapshots, a snapshot's scan in the JPEG file of R238, into bin buffers (R231 to R234, R236 to R246). -/
def Obligations.PicturesAreTrackedAndEncoded : Prop :=
  ∀ (s : State),
    (∀ sid x d p pipe b i, s.streamAt sid = some x → x.picAt d = some p → s.pipeAt x.part x.pipeline = some pipe →
      s.batchAt (p.batch - 1) = some b → b.place (sid, p.decSeq) = some i → p.batch ≠ 0 → p.detDone = false → b.run ≠ 0 →
      s.runFinished (b.run - 1) = true → s.trackers.contains x.tp = true → s.mayTake 16 x.part x.prio = true → s.awake 28 = true →
      exec (.detectionFinish sid d) s = .next ((s.takeDetections sid x pipe p b i).sweepBatches.alarmUpdate x.part x.pipeline)) ∧
    (∀ (lo : Int) iou m ag c l, ((keepBoxes lo iou m ag c l []).1).length ≤ m ∧ ∀ d ∈ (keepBoxes lo iou m ag c l []).1, lo ≤ d.score) ∧
    (∀ sid x p pipe, s.streamAt sid = some x → x.pics.find? (fun p => p.order == x.nextPic && !p.hidden x && !p.output) = some p →
      s.pipeAt x.part x.pipeline = some pipe → p.complete = true → s.trackers.contains x.tp = true → s.mayTake 16 x.part x.prio = true →
      s.awake 28 = true → exec (.trackUpdate sid) s =
        .next (((s.takeTracks sid x pipe p).releaseSnaps sid p.decSeq).dropOutput sid p.decSeq).settle) ∧
    (∀ (e : Fin 2) (c : Fin 16) k dec order x bytes cyc fin, tget none s.media.clips (16 * e.val + c.val) = some k → k.todo = some (dec, order) →
      s.streamAt k.stream = some x → s.encoderServes e = true → s.stillDecoding k.stream dec = false → k.holdsRate bytes = true → s.awake 25 = true →
      exec (.encodePictureDone e c dec bytes cyc fin) s =
        .next (((s.appendClip (16 * e.val + c.val) dec order bytes fin).countEncoded x cyc).freeIfDone e).settle) ∧
    (∀ sid q x scan cyc j t, s.nextSnap = some (sid, q) → s.streamAt sid = some x → s.encoderServes 2 = true →
      s.stillDecoding sid (q.target.getD noPic) = false → s.awake 25 = true → j = s.keepJpeg x (q.file scan) →
      t = ((j.1.returnJpeg x sid q j.2.1 j.2.2.1 j.2.2.2).countEncoded x cyc).freeSnapshot →
      exec (.snapshotDone scan cyc) s = .next (t.dropOutput sid (q.target.getD noPic)).settle)

/-- The page decoder takes or refuses a page by its header's fields, a granted lane's band puts its rows into the page buffer and charges its cycles, an expired budget ends the page with the rows it has, and a page's kept boxes become its lines (R255 to R259, R262 to R268). -/
def Obligations.PagesAreDecodedIntoLines : Prop :=
  ∀ (s : State) (n : Nat) (g : Page), s.pageAt n = some g →
    (∀ hdr, g.stage = .accepted → s.pageServes = true → s.awake 26 = true → exec (.pageHeaderParsed n hdr) s = .next (s.takeHeader n g hdr).settle) ∧
    (∀ hdr, (hdr.parsed = false ∨ formatCode hdr.format ≠ g.format → s.takeHeader n g hdr = s.countPage.endPage n stPageHeader false) ∧
      (hdr.parsed = true → formatCode hdr.format = g.format →
        (formatRead hdr.format = false → s.takeHeader n g hdr = s.countPage.endPage n stPageUnsupported false) ∧
        (formatRead hdr.format = true → (hdr.width ≠ g.w ∨ hdr.height ≠ g.h) → s.takeHeader n g hdr = s.countPage.endPage n stPageHeader false) ∧
        (formatRead hdr.format = true → hdr.width = g.w → hdr.height = g.h → formatMultipass hdr.format = false →
          s.takeHeader n g hdr = (s.setPage n (fun g => { g with file := some hdr.format })).setPage n (fun g => { g with stage := .decoding })))) ∧
    (∀ x r t, s.pagePipe g = some x → g.stage = .decoding → s.pageServes = true → g.holdsLane r.lane = true → s.bandReport g r = true →
      s.awake 26 = true → t = s.bandOver n g x r →
      (r.poisoned = true → exec (.bandDone n r) s = .next ((t.countPage.endPage n stDataPoisoned false).alarmUpdate x.part x.handle).settle) ∧
      (r.poisoned = false → (r.endOfData = true ∨ r.dataError = true ∨ g.rows + r.rows = g.h) →
        exec (.bandDone n r) s = .next ((t.endDecoding n r).alarmUpdate x.part x.handle).settle) ∧
      (r.poisoned = false → r.endOfData = false → r.dataError = false → g.rows + r.rows ≠ g.h →
        exec (.bandDone n r) s = .next (t.alarmUpdate x.part x.handle).settle)) ∧
    (∀ rows bytes x t, s.pagePipe g = some x → g.stage = .decoding → s.pageServes = true → g.rows ≤ rows → rows ≤ g.h → s.awake 26 = true →
      t = (((({ s.chargeWork g.part g.client 5 (s.pageBudget g - g.used) with media := { (s.chargeWork g.part g.client 5 (s.pageBudget g - g.used)).media with
        pgBudget := satAdd 32 s.media.pgBudget 1 } } : State).setPage n
        (fun y => { y with rows := rows, dataBytes := bytes, cycles := s.pageBudget g, used := s.pageBudget g })).countPage).endPage n stDecodeBudget false) →
      ((t.pagePipe g = some x → exec (.pageBudgetExpiry n rows bytes) s = .next (t.alarmUpdate x.part x.handle).settle) ∧
       (t.pagePipe g = none → exec (.pageBudgetExpiry n rows bytes) s = .next t.settle))) ∧
    (∀ x b i, s.pagePipe g = some x → s.batchAt (g.batch - 1) = some b → b.place (n, 0) = some i → g.stage = .detecting → b.run ≠ 0 →
      s.runFinished (b.run - 1) = true → s.trackers ≠ [] → s.mayTake 16 g.part g.prio = true → s.awake 28 = true →
      exec (.lineFinish n) s = .next (((s.takeLines n g x b i).sweepBatches.alarmUpdate x.part x.handle).settle)) ∧
    (∀ l : List Line, (readingOrder l).Perm l)

/-- The text engine releases a read's next step, issues the steps of a batch, updates and delivers masks, and selects a read's token: the largest logit among those its grammar allows, the lowest number on ties (R283, R285 to R288). -/
def Obligations.ReadsTakeTokens : Prop :=
  ∀ (s : State), s.textDown = false → s.awake 29 = true →
    (∀ k r, nget s.text.reads k = some r → r.ended = false → r.stepped = false →
      exec (.stepRelease k) s = .next (s.setRead k (fun r => { r with released := true }))) ∧
    (∀ n b t live, s.batchAt n = some b → s.stepsNow b = true → s.mayTake 17 b.part b.prio = true → t = s.beginReads n →
      live = t.liveReads n → (stepReady live = true → exec (.decodeStep n) s =
        .next (((((live.foldl (fun s e => s.setRead e.1 (fun x => { x with stepped := true, released := false })) t).takeGrant 17
          b.part b.prio).restep (b.run - 1)).chargeFree b.part 0 7))) ∧
      (stepReady live = false → exec (.decodeStep n) s = .next s)) ∧
    (∀ b x, b.kind = 2 → b.run ≠ 0 → s.runAt (b.run - 1) = some x → x.status = 0 → s.runFinished (b.run - 1) = true → s.stepsNow b = true) ∧
    (∀ live : List (Nat × Read), stepReady live = true ↔ live ≠ [] ∧ ∀ e ∈ live, e.2.stepped = false ∧ e.2.released = true) ∧
    (∀ k r g x t, s.readAt k = some (r, g, x) → r.ended = false → t = s.chargeFree g.part g.client 7 →
      (r.maskAsked = false → (t.grammarOf x).any (fun y => t.maskPoison y r.state) = false →
        exec (.maskUpdate k) s = .next (t.setRead k (fun r => { r with maskAsked := true }))) ∧
      (r.maskAsked = false → (t.grammarOf x).any (fun y => t.maskPoison y r.state) = true →
        exec (.maskUpdate k) s = .next ((t.poisonRead k r g x).sweepBatches).settle) ∧
      (r.maskAsked = true → r.maskReady = false → exec (.maskReady k) s = .next (s.maskDone k r g x)) ∧
      (s.stepDone r = true → (s.grammarOf x = none ∨ r.maskReady = true) →
        exec (.tokenSelect k) s = .next ((s.selectToken k r g x).sweepBatches).settle) ∧
      (s.stepDone r = true → (s.grammarOf x).isSome = true → r.maskReady = false → r.late = true → exec (.tokenSelect k) s = .next s)) ∧
    (∀ (ok : Nat → Bool) (l : List Int) t m, pickToken ok l = some (t, m) →
      ok t = true ∧ (∃ v, l[t]? = some v ∧ (∀ i w, l[i]? = some w → ok i = true → w ≤ v) ∧ (∀ i w, l[i]? = some w → ok i = true → i < t → w < v)) ∧ m ≤ 65535) ∧
    (∀ (ok : Nat → Bool) (l : List Int), pickToken ok l = none ↔ ∀ i : Nat, i < l.length → ok i = false)

/-- A step takes the command at the front of the queue and answers what the command answers on the state with the queue's rest; with no command waiting the block idles, which is the model's choice (log 1). -/
def Obligations.StepRunsFrontCommand : Prop :=
  ∀ (s : State), (∀ c rest, s.pending = c :: rest → step s = exec c { s with pending := rest }) ∧
    (s.pending = [] → step s = .next s) ∧
    (∀ c, step { s with pending := c :: s.pending } = exec c s)

/-- The power-on reset leaves the registers whose reset value the spec gives at that value, and the invariants of memory, of the leaf counters and of the fuse SVN hold there (R169, R302, R335, R381, R412, R413, R419, R440, R444, R459, R476).
That memory lists no byte, that nothing has been sent and that no command waits is the model's (logs 1, 7 and 12). -/
def Obligations.PowerOnResetState : Prop :=
  State.reset.mem.wf = true ∧ State.reset.mgt.leafNext ≤ State.reset.mgt.leafReserved ∧ State.reset.mgt.fuseSvn ≤ 64 ∧
  State.reset.dev.stage = .boot ∧ State.reset.dev.reset = none ∧ State.reset.pending = [] ∧ State.reset.outbox = [] ∧
  (∀ f r : Nat, (State.reset.ringAt f r).enable = false ∧ (State.reset.ringAt f r).running = false) ∧
  (∀ f : Nat, (State.reset.resAt f).enable = false ∧ (State.reset.resAt f).q = [] ∧ (State.reset.resAt f).count = 1) ∧
  (∀ p : Nat, (State.reset.partAt p).st = .free) ∧ (∀ f o : Nat, State.reset.counter f o = 0) ∧
  State.reset.pwr.idleCtrl = 0x050A0A0A ∧ State.reset.pwr.thermCtrl = 0x6C645F5A ∧ State.reset.pwr.limitW = 300 ∧
  State.reset.ddr.periodH = 24 ∧ State.reset.ddr.scrubEnable = true ∧ State.reset.mgt.keep = 0 ∧ State.reset.mgt.scrub = true ∧
  (∀ n : Nat, (State.reset.coreAt n).active = none ∧ (State.reset.coreAt n).queue = [] ∧ (State.reset.coreAt n).preempt = none)

/-- A write of bytes into the device's address space puts each byte at its address, except in a FAILED channel, which discards it and reads as zero, and changes no byte and no poison tag outside the lines it writes whole; the memory keeps its canonical form and nothing but the memory changes (R10, R74, R361, R372, R374). -/
def Obligations.WriteChangesOnlyItsBytes : Prop :=
  ∀ (s u : State) (a : Nat) (bs : List Byte), s.mem.wf = true → u = s.writeOutside a bs →
    u.mem.wf = true ∧
    (∀ i : Nat, i < bs.length → u.byteAt (a + i) = if s.failedAt (a + i) = true then 0 else bs.getD i 0) ∧
    (∀ b : Nat, b < a ∨ a + bs.length ≤ b → u.byteAt b = s.byteAt b) ∧
    (∀ l : Nat, 64 * l < a ∨ a + bs.length < 64 * l + 64 → u.poisoned l = s.poisoned l) ∧
    (∀ l : Nat, a ≤ 64 * l → 64 * l + 64 ≤ a + bs.length → u.poisoned l = s.failedAt (64 * l)) ∧
    u = { s with mem := u.mem } ∧ u.mem.epoch = s.mem.epoch

/-- The end of a packet (R304, R305, R309, R313, R314): its reply of 32 bytes goes to the reply entry at the ring's reply tail, which moves by one; the packet leaves the in-flight table; the header's signal adds 1 to its counter, whatever the status, unless the counter does not exist; and the ring's vector is sent when the packet asked for it or the status is not OK.
On a ring whose reply write has failed, none of the reply, the signal and the message happens. -/
def Obligations.PacketEndRepliesSignalsAndInterrupts : Prop :=
  ∀ (s u : State) (fl : Flight) (a : Ans) (f r : Nat), f = fl.pk.fn.val → r = fl.pk.ring.val → u = s.endPacket fl a →
    u.cp.flight = s.cp.flight.filter (fun x => x.id != fl.id) ∧ u.mem = s.mem ∧ u.core = s.core ∧ u.cel = s.cel ∧
    ((s.ringAt f r).replyFault = false → fl.id ∉ s.cp.badReplies →
      (∃ l : List Out, u.outbox = s.outbox ++ [.reply f ((s.ringAt f r).rqBase.toNat + 32 * ((s.ringAt f r).rqTail.toNat % 2 ^ (s.ringAt f r).log2))
          (replyBytes fl.pk a (phaseOf (s.ringAt f r).rqTail (s.ringAt f r).log2) (s.signals fl.pk) fl.slot)] ++ l ∧
        l = if (pkIrq fl.pk = true ∨ a.status ≠ stOk) ∧ (tget {} s.hi.msix (64 * f + (s.ringAt f r).vector)).masked = false then
          [.msix f (s.ringAt f r).vector] else []) ∧
      u.cp.ring = ((s.setRing f r (fun q => ({ q with inflight := q.inflight - 1 } : Ring).settleStop)).setRing f r
        (fun q => { q with rqTail := q.rqTail + 1 })).cp.ring ∧
      (s.signals fl.pk = true → u.counter f (pkSignalSync fl.pk) = min (2 ^ 64 - 1) (s.counter f (pkSignalSync fl.pk) + 1)) ∧
      (∀ g o : Nat, o < 8192 → pkSignalSync fl.pk < 8192 → ¬(s.signals fl.pk = true ∧ g = f ∧ o = pkSignalSync fl.pk) → u.counter g o = s.counter g o)) ∧
    ((s.ringAt f r).replyFault = true → u.outbox = s.outbox ∧ u.cp.sync = s.cp.sync ∧ u.hi = s.hi ∧
      u.cp.ring = (s.setRing f r (fun q => ({ q with inflight := q.inflight - 1 } : Ring).settleStop)).cp.ring)

/-- Every step keeps the memory in its canonical form: addresses strictly rising, no entry equal to what an unlisted address reads as, for the bytes and for the poison tags (R18, R74). -/
def Obligations.EveryStepKeepsMemoryCanonical : Prop :=
  ∀ s t : State, s.mem.wf = true → step s = .next t → t.mem.wf = true

/-- What no command undoes, from any state: the fuses' array and engine masks, serial number and identities, and the root hashes, stand (R421, R435); an entry of the defect list stays (R468, R469); the fuse SVN never falls and stays within its 64 bits (R440); the leaf counter never falls and stays within what flash has reserved (R444); the queue loses its front command alone and what was sent stays sent (log 7). -/
def Obligations.FusesAndRecordsOnlyAdvance : Prop :=
  ∀ s t : State, step s = .next t →
    t.dev.fuses = s.dev.fuses ∧ t.mgt.rootHash0 = s.mgt.rootHash0 ∧ t.mgt.rootHash1 = s.mgt.rootHash1 ∧
    (∀ e, e ∈ s.dev.defects → e ∈ t.dev.defects) ∧
    (s.mgt.fuseSvn ≤ 64 → s.mgt.fuseSvn ≤ t.mgt.fuseSvn ∧ t.mgt.fuseSvn ≤ 64) ∧
    (s.mgt.leafNext ≤ s.mgt.leafReserved → s.mgt.leafNext ≤ t.mgt.leafNext ∧ t.mgt.leafNext ≤ t.mgt.leafReserved) ∧
    t.pending = s.pending.tail ∧ ∃ l, t.outbox = s.outbox ++ l

/-- RECIP takes an unsigned 16-bit x and returns the unsigned 32-bit value floor(2^31 / x); for x = 0 it returns 0xFFFF_FFFF and clears that lane's mask bit (R79). -/
def Obligations.RecipReturnsFloor : Prop :=
  ∀ (s : State) (a : LaneArgs) (c : Core), c = s.coreAt a.core → (s.atLane 0x21 a).isSome = true →
    ∃ u : State, exec (.laneRecip a) s = .next u ∧
      ∀ k : Nat, k < 32 → c.mask.getLsbD (2 * k) = true →
        (c.lane a.va (2 * k) ≠ 0 →
          ((u.coreAt a.core).lane32 a.vd k).toNat = 2147483648 / (c.lane a.va (2 * k)).toNat ∧ (u.coreAt a.core).mask.getLsbD (2 * k) = true) ∧
        (c.lane a.va (2 * k) = 0 →
          (u.coreAt a.core).lane32 a.vd k = 0xFFFFFFFF#32 ∧ (u.coreAt a.core).mask.getLsbD (2 * k) = false)

/-- The count of a quire's array cycles is 0 when the quire starts, and every instruction adds its cycles to it, with those it waits, which are free values (log 13).
At 44,800 cycles, which QUIRE_LONG tells, LONG is set for the completion record and SEQ_LONG_COUNT goes up by one, and the quire continues unless a pre-emption is pending; at 1,048,576 cycles, which QUIRE_WATCHDOG tells, the quire stops with OUTCOME 5 (R162). -/
def Obligations.QuireCycleLimitsAct : Prop :=
  ∀ (s : State) (n : Fin 8),
    (∀ a : Active, (s.coreAt n).active = none → ((s.startQuire n).coreAt n).active = some a → a.cycles = 0 ∧ a.long = false) ∧
    (∀ a : Active, (s.coreAt n).active = some a →
      (∀ k : Nat, ((s.tick n k).coreAt n).active = some { a with pc := a.pc + 1, cycles := min 0xFFFFFFFF (a.cycles + k + Config.instrWaits n (s.coreAt n).instrs) }) ∧
      (a.record.long = a.long ∧ a.record.cycles = a.cycles) ∧
      (a.long = false → (s.coreAt n).preempt = none → ∃ u : State, exec (.quireLong n) s = .next u ∧
        (u.coreAt n).active = some { a with long := true, cycles := max a.cycles 44800 } ∧
        (u.coreAt n).longCount = min (2 ^ 32 - 1) ((s.coreAt n).longCount + 1) ∧ u.mem = s.mem ∧ u.cel = s.cel ∧
        ∀ m : Nat, m ≠ n.val → u.coreAt m = s.coreAt m) ∧
      ((s.coreAt n).done = none → ∃ (u : State) (d : Completed), exec (.quireWatchdog n) s = .next u ∧ (u.coreAt n).active = none ∧
        (u.coreAt n).done = some d ∧ d.outcome = 5 ∧ d.run = a.run ∧ d.quire = a.quire ∧ d.cycles = max a.cycles 1048576 ∧
        ∀ m : Nat, m ≠ n.val → u.coreAt m = s.coreAt m))

/-- A matrix core runs with 4 arrays or with 2 arrays, never 3: an array that the fuses or the defect list disable takes a second array of its core, its pair partner, with it, and nothing else is disabled (R3). -/
def Obligations.CoresRunFourOrTwoArrays : Prop :=
  ∀ (s u : State) (n : Nat), n < 8 → u = s.unitsServing →
    ((u.coreAt n).arrays = 4 ∨ (u.coreAt n).arrays = 2 ∨ (u.coreAt n).enabled = 0) ∧
    ∀ i j : Nat, i < 4 → (j = if i % 2 = 0 then i + 1 else i - 1) →
      (bitOf (u.coreAt n).enabled i = false ↔
        ((bitOf s.dev.fuses.arrayMask (4 * n + i) = true ∨ s.defectSub 1 n i = true) ∨
         (bitOf s.dev.fuses.arrayMask (4 * n + j) = true ∨ s.defectSub 1 n j = true)))

/-- MGT_CLAIM_n, at MGT + 0x0100 + 4n for resource n, reports each entry: HELD in bit 31, zeros in bits 30 to 8, the holder's code in bits 7 to 0, zero when free; a write of it by the host changes nothing (R484). -/
def Obligations.ClaimRegistersReportHolders : Prop :=
  ∀ (s : State) (spine : Bool) (n h : Nat), n < 16 → tget 0 s.mgt.claims n = h → h < 256 →
    bitsOf (s.blockWord spine .mgt (0x100 + 4 * n)) 0 8 = h ∧ bitsOf (s.blockWord spine .mgt (0x100 + 4 * n)) 8 23 = 0 ∧
    (bitOf (s.blockWord spine .mgt (0x100 + 4 * n)) 31 = true ↔ h ≠ 0) ∧
    ∀ v : BitVec 32, s.writeWord false .mgt (0x100 + 4 * n) v = s

end Claims
end

