-- ==== Sys2Proof/Laws/Keeps.lean ====
section
/-! SUPPORT. What every operation of the model keeps, from one state to a later one: a preorder that the frame lemmas of the other files state of each shared operation. -/

namespace Sys2Proof.Machine

set_option linter.unusedTactic false
set_option linter.unreachableTactic false
set_option linter.unusedVariables false
set_option linter.unusedSimpArgs false

/-- From s to t: fuses stand, the defect list only grows, what boot flash and the fuses guarantee holds, memory stays canonical, the queue is untouched and what was sent stays sent. -/
structure Keeps (s t : State) : Prop where
  pending : t.pending = s.pending
  outbox : ∃ l, t.outbox = s.outbox ++ l
  fuses : t.dev.fuses = s.dev.fuses
  defects : ∀ e, e ∈ s.dev.defects → e ∈ t.dev.defects
  svn : s.mgt.fuseSvn ≤ 64 → s.mgt.fuseSvn ≤ t.mgt.fuseSvn ∧ t.mgt.fuseSvn ≤ 64
  revoked : s.mgt.root0Revoked = true → t.mgt.root0Revoked = true
  hash0 : t.mgt.rootHash0 = s.mgt.rootHash0
  hash1 : t.mgt.rootHash1 = s.mgt.rootHash1
  leaf : s.mgt.leafNext ≤ s.mgt.leafReserved → s.mgt.leafNext ≤ t.mgt.leafNext ∧ t.mgt.leafNext ≤ t.mgt.leafReserved
  mem : s.mem.wf = true → t.mem.wf = true

/-- A state keeps itself. -/
theorem Keeps.refl (s : State) : Keeps s s :=
  ⟨rfl, ⟨[], by simp⟩, rfl, fun _ h => h, fun h => ⟨Nat.le_refl _, h⟩, id, rfl, rfl, fun h => ⟨Nat.le_refl _, h⟩, id⟩

/-- One operation after another. -/
theorem Keeps.trans {a b c : State} (h : Keeps a b) (k : Keeps b c) : Keeps a c where
  pending := k.pending.trans h.pending
  outbox := by
    obtain ⟨l, hl⟩ := h.outbox
    obtain ⟨m, hm⟩ := k.outbox
    exact ⟨l ++ m, by rw [hm, hl, List.append_assoc]⟩
  fuses := k.fuses.trans h.fuses
  defects e he := k.defects e (h.defects e he)
  svn e := ⟨Nat.le_trans (h.svn e).1 (k.svn (h.svn e).2).1, (k.svn (h.svn e).2).2⟩
  revoked e := k.revoked (h.revoked e)
  hash0 := k.hash0.trans h.hash0
  hash1 := k.hash1.trans h.hash1
  leaf e := ⟨Nat.le_trans (h.leaf e).1 (k.leaf (h.leaf e).2).1, (k.leaf (h.leaf e).2).2⟩
  mem e := k.mem (h.mem e)

/-- An update that touches none of the fields keeps them. -/
theorem Keeps.same {a b c : State} (h : Keeps a b) (h1 : c.pending = b.pending) (h2 : c.outbox = b.outbox)
    (h3 : c.dev.fuses = b.dev.fuses) (h4 : c.dev.defects = b.dev.defects) (h5 : c.mgt.fuseSvn = b.mgt.fuseSvn)
    (h6 : c.mgt.root0Revoked = b.mgt.root0Revoked) (h7 : c.mgt.rootHash0 = b.mgt.rootHash0)
    (h8 : c.mgt.rootHash1 = b.mgt.rootHash1) (h9 : c.mgt.leafNext = b.mgt.leafNext)
    (h10 : c.mgt.leafReserved = b.mgt.leafReserved) (h11 : c.mem.cells = b.mem.cells) (h12 : c.mem.poison = b.mem.poison) :
    Keeps a c :=
  h.trans ⟨h1, ⟨[], by rw [h2, List.append_nil]⟩, h3, by rw [h4]; exact fun _ h => h, by rw [h5]; exact fun h => ⟨Nat.le_refl _, h⟩, by rw [h6]; exact id, h7, h8,
    by rw [h9, h10]; exact fun h => ⟨Nat.le_refl _, h⟩, by unfold Mem.wf; rw [h11, h12]; exact id⟩

/-- `Keeps` of a state given by its groups: a form that a rewrite reaches only where a state is built. -/
def KeepsMk (a : State) (dev : Dev) (mgt : Mgt) (mem : Mem) (outbox : List Out) (pending : List Instr) : Prop :=
  Keeps a { dev, mgt, mem, outbox, pending }

/-- A state built from its groups. -/
theorem keeps_mk (a : State) (dev : Dev) (hi : Hi) (pwr : Pwr) (mgt : Mgt) (cask : Cask) (ddr : Ddr) (mem : Mem) (cp : Cp) (cel : Cel)
    (core : Tbl Core) (media : Media) (text : Text) (latch : Tbl Nat) (outbox : List Out) (pending : List Instr) :
    Keeps a ⟨dev, hi, pwr, mgt, cask, ddr, mem, cp, cel, core, media, text, latch, outbox, pending⟩ ↔
      KeepsMk a dev mgt mem outbox pending :=
  ⟨fun h => h.same rfl rfl rfl rfl rfl rfl rfl rfl rfl rfl rfl rfl, fun h => h.same rfl rfl rfl rfl rfl rfl rfl rfl rfl rfl rfl rfl⟩

/-- A state built from another with none of the fields touched. -/
theorem KeepsMk.same {a b : State} {dev : Dev} {mgt : Mgt} {mem : Mem} {outbox : List Out} {pending : List Instr}
    (h1 : pending = b.pending) (h : Keeps a b) (h2 : outbox = b.outbox)
    (h3 : dev.fuses = b.dev.fuses) (h4 : dev.defects = b.dev.defects) (h5 : mgt.fuseSvn = b.mgt.fuseSvn)
    (h6 : mgt.root0Revoked = b.mgt.root0Revoked) (h7 : mgt.rootHash0 = b.mgt.rootHash0)
    (h8 : mgt.rootHash1 = b.mgt.rootHash1) (h9 : mgt.leafNext = b.mgt.leafNext)
    (h10 : mgt.leafReserved = b.mgt.leafReserved) (h11 : mem.cells = b.mem.cells) (h12 : mem.poison = b.mem.poison) :
    KeepsMk a dev mgt mem outbox pending :=
  h.same h1 h2 h3 h4 h5 h6 h7 h8 h9 h10 h11 h12

/-- Either branch of a choice. -/
theorem Keeps.ite {a x y : State} {c : Prop} [Decidable c] (h : Keeps a x) (k : Keeps a y) : Keeps a (if c then x else y) := by
  split
  · exact h
  · exact k

/-- A fold of operations that keep keeps. -/
theorem Keeps.fold {α : Type} {a b : State} (h : Keeps a b) (f : State → α → State) (hf : ∀ s x, Keeps a s → Keeps a (f s x))
    (l : List α) : Keeps a (l.foldl f b) := by
  induction l generalizing b with
  | nil => exact h
  | cons x t ih => exact ih (hf b x h)

/-- The state of an answer that has been taken apart. -/
theorem Keeps.of_eq {β : Type} {a u : State} {p : State × β} {y : β} (e : p = (u, y)) (h : Keeps a p.1) : Keeps a u := by
  rw [e] at h
  exact h

/-- A fold of operations that keep and answer something more. -/
theorem Keeps.foldPair {α β : Type} {a : State} {b : State × β} (h : Keeps a b.1) (f : State × β → α → State × β)
    (hf : ∀ s x, Keeps a s.1 → Keeps a (f s x).1) (l : List α) : Keeps a (l.foldl f b).1 := by
  induction l generalizing b with
  | nil => exact h
  | cons x t ih => exact ih (hf b x h)

/-- What a command's outcome keeps, when it is a next state. -/
def KeepsOut (a : State) (o : Host.Outcome State Fault Refusal) : Prop := ∀ t, o = .next t → Keeps a t

/-- A next state. -/
theorem KeepsOut.next {a t : State} (h : Keeps a t) : KeepsOut a (.next t) := by
  intro u hu
  cases hu
  exact h

/-- What an operation that may find no room keeps, when it finds it. -/
abbrev KeepsOpt (a : State) (o : Option State) : Prop := ∀ t, o = some t → Keeps a t

/-- An operation that answers. -/
theorem KeepsOpt.some {a t : State} (h : Keeps a t) : KeepsOpt a (.some t) := by
  intro u hu
  cases hu
  exact h

/-- An operation that finds no room. -/
theorem KeepsOpt.none {a : State} : KeepsOpt a .none := by
  intro u hu
  cases hu

/-- An operation on what was found. -/
theorem KeepsOpt.map {α : Type} {a : State} (o : Option α) (f : α → State) (hf : ∀ x, Keeps a (f x)) : KeepsOpt a (o.map f) := by
  intro u hu
  cases o with
  | none => cases hu
  | some x =>
    cases hu
    exact hf x

/-- One operation that may find no room after another. -/
theorem KeepsOpt.bind {a : State} {o : Option State} (h : KeepsOpt a o) (f : State → Option State)
    (hf : ∀ s, Keeps a s → KeepsOpt a (f s)) : KeepsOpt a (o.bind f) := by
  intro u hu
  cases o with
  | none => cases hu
  | some x => exact hf x (h x rfl) u hu

/-- A fold of them. -/
theorem KeepsOpt.fold {α : Type} {a : State} {o : Option State} (h : KeepsOpt a o) (f : Option State → α → Option State)
    (hf : ∀ o x, KeepsOpt a o → KeepsOpt a (f o x)) (l : List α) : KeepsOpt a (l.foldl f o) := by
  induction l generalizing o with
  | nil => exact h
  | cons x t ih => exact ih (hf o x h)

end Sys2Proof.Machine
end

