-- ==== Sys2Proof/Laws/Tables.lean ====
section
/-! SUPPORT. The indexed stores: reading what was written, and the canonical form kept by every operation on them. -/

namespace Sys2Proof.Machine

set_option linter.unusedTactic false
set_option linter.unreachableTactic false
set_option linter.unusedVariables false
set_option linter.unusedSimpArgs false

variable {α : Type} [DecidableEq α]

/-- An empty store is canonical. -/
theorem twf_nil (d : α) : twf d [] = true := rfl

/-- What a canonical store with an entry in front says. -/
theorem twf_cons (d : α) (e : Nat × α) (t : Tbl α) :
    twf d (e :: t) = true ↔ e.2 ≠ d ∧ (∀ x ∈ t, e.1 < x.1) ∧ twf d t = true := by
  obtain ⟨k, v⟩ := e
  simp [twf, and_assoc]

/-- The keys of a written store come from it or are the key written. -/
theorem tput_keys (d : α) (t : Tbl α) (i : Nat) (v : α) : ∀ x ∈ tput d t i v, x.1 = i ∨ ∃ y ∈ t, x.1 = y.1 := by
  induction t with
  | nil =>
    intro x hx
    simp only [tput] at hx
    split at hx
    · cases hx
    · simp only [List.mem_singleton] at hx
      exact .inl (by rw [hx])
  | cons e t ih =>
    obtain ⟨k, w⟩ := e
    intro x hx
    simp only [tput] at hx
    split at hx
    · split at hx
      · exact .inr ⟨x, hx, rfl⟩
      · rcases List.mem_cons.mp hx with rfl | hx
        · exact .inl rfl
        · exact .inr ⟨x, hx, rfl⟩
    · split at hx
      · split at hx
        · exact .inr ⟨x, List.mem_cons_of_mem _ hx, rfl⟩
        · rcases List.mem_cons.mp hx with rfl | hx
          · exact .inl rfl
          · exact .inr ⟨x, List.mem_cons_of_mem _ hx, rfl⟩
      · rcases List.mem_cons.mp hx with rfl | hx
        · exact .inr ⟨_, List.mem_cons_self, rfl⟩
        · rcases ih x hx with h | ⟨y, hy, h⟩
          · exact .inl h
          · exact .inr ⟨y, List.mem_cons_of_mem _ hy, h⟩

/-- A write keeps the canonical form. -/
theorem tput_twf (d : α) (t : Tbl α) (i : Nat) (v : α) (h : twf d t = true) : twf d (tput d t i v) = true := by
  induction t with
  | nil =>
    simp only [tput]
    split
    · rfl
    · exact (twf_cons d _ _).mpr ⟨by assumption, by simp, rfl⟩
  | cons e t ih =>
    obtain ⟨k, w⟩ := e
    obtain ⟨h1, h2, h3⟩ := (twf_cons d _ _).mp h
    simp only [tput]
    split
    · split
      · exact h
      · refine (twf_cons d _ _).mpr ⟨by assumption, ?_, h⟩
        intro x hx
        rcases List.mem_cons.mp hx with rfl | hx
        · assumption
        · exact Nat.lt_trans (by assumption) (h2 x hx)
    · split
      · split
        · exact h3
        · subst i
          exact (twf_cons d _ _).mpr ⟨by assumption, h2, h3⟩
      · refine (twf_cons d _ _).mpr ⟨h1, ?_, ih h3⟩
        intro x hx
        rcases tput_keys d t i v x hx with h | ⟨y, hy, h⟩
        · simp only [h]
          omega
        · rw [h]
          exact h2 y hy

/-- A canonical store lists no key before its first. -/
theorem tget_before (d : α) (t : Tbl α) (i : Nat) (h : ∀ x ∈ t, i < x.1) : tget d t i = d := by
  induction t with
  | nil => rfl
  | cons e t ih =>
    obtain ⟨k, w⟩ := e
    have := h (k, w) List.mem_cons_self
    simp only [tget, ih (fun x hx => h x (List.mem_cons_of_mem _ hx))]
    split
    · omega
    · rfl

/-- A key written reads as what was written. -/
theorem tget_tput_same (d : α) (t : Tbl α) (i : Nat) (v : α) (h : twf d t = true) : tget d (tput d t i v) i = v := by
  induction t with
  | nil =>
    simp only [tput]
    split
    · simp [tget, *]
    · simp [tget]
  | cons e t ih =>
    obtain ⟨k, w⟩ := e
    obtain ⟨h1, h2, h3⟩ := (twf_cons d _ _).mp h
    simp only [tput]
    split
    · split
      · rename_i hik hv
        rw [hv]
        refine tget_before d _ i (fun x hx => ?_)
        rcases List.mem_cons.mp hx with rfl | hx
        · exact hik
        · exact Nat.lt_trans hik (h2 x hx)
      · simp [tget]
    · split
      · subst i
        split
        · rename_i hv
          rw [hv]
          exact tget_before d t k h2
        · simp [tget]
      · rename_i hik
        simp only [tget, if_neg (Ne.symm hik), ih h3]

/-- A write changes no other key. -/
theorem tget_tput_other (d : α) (t : Tbl α) (i j : Nat) (v : α) (hij : j ≠ i) :
    tget d (tput d t i v) j = tget d t j := by
  induction t with
  | nil =>
    simp only [tput]
    split
    · rfl
    · simp [tget, Ne.symm hij]
  | cons e t ih =>
    obtain ⟨k, w⟩ := e
    simp only [tput]
    split
    · split
      · rfl
      · simp [tget, Ne.symm hij]
    · split
      · subst i
        split
        · simp only [tget, if_neg (Ne.symm hij)]
        · simp [tget, Ne.symm hij]
      · simp only [tget, ih]

/-- A value other than what unlisted keys read as is read back, in any store. -/
theorem tget_tput_ne (d : α) (t : Tbl α) (i : Nat) (v : α) (hv : v ≠ d) : tget d (tput d t i v) i = v := by
  induction t with
  | nil => simp [tput, hv, tget]
  | cons e t ih =>
    obtain ⟨k, w⟩ := e
    simp only [tput]
    split
    · simp [hv, tget]
    · split
      · simp [hv, tget]
      · rename_i hik
        simp only [tget, if_neg (Ne.symm hik), ih]

/-- A filter keeps the canonical form. -/
theorem filter_twf (d : α) (t : Tbl α) (p : Nat × α → Bool) (h : twf d t = true) : twf d (t.filter p) = true := by
  induction t with
  | nil => rfl
  | cons e t ih =>
    obtain ⟨h1, h2, h3⟩ := (twf_cons d _ _).mp h
    rw [List.filter_cons]
    split
    · exact (twf_cons d _ _).mpr ⟨h1, fun x hx => h2 x (List.mem_filter.mp hx).1, ih h3⟩
    · exact ih h3

/-- Bytes written one after another keep the canonical form. -/
theorem putBytes_twf (t : Tbl Byte) (a : Nat) (bs : List Byte) (h : twf 0 t = true) : twf 0 (putBytes t a bs) = true := by
  induction bs generalizing t a with
  | nil => exact h
  | cons b bs ih => exact ih _ _ (tput_twf 0 t a b h)

/-- What an address reads as after bytes were written: the byte, or what it read as before. -/
theorem tget_putBytes (t : Tbl Byte) (a : Nat) (bs : List Byte) (j : Nat) (h : twf 0 t = true) :
    tget 0 (putBytes t a bs) j = if a ≤ j ∧ j < a + bs.length then bs.getD (j - a) 0 else tget 0 t j := by
  induction bs generalizing t a with
  | nil =>
    simp only [putBytes, List.length_nil]
    rw [if_neg (by omega)]
  | cons b bs ih =>
    simp only [putBytes, List.length_cons]
    rw [ih _ _ (tput_twf 0 t a b h)]
    by_cases hj : j = a
    · subst hj
      rw [if_neg (by omega), if_pos (by omega), tget_tput_same 0 t j b h]
      simp
    · rw [tget_tput_other 0 t a j b hj]
      by_cases hr : a + 1 ≤ j ∧ j < a + 1 + bs.length
      · rw [if_pos hr, if_pos (by omega)]
        obtain ⟨n, rfl⟩ : ∃ n, j = a + 1 + n := ⟨j - (a + 1), by omega⟩
        have e1 : a + 1 + n - (a + 1) = n := by omega
        have e2 : a + 1 + n - a = n + 1 := by omega
        rw [e1, e2]
        simp
      · rw [if_neg hr, if_neg (by omega)]

end Sys2Proof.Machine
end

