-- ==== Sys2Proof/Laws/KeepOps.lean ====
section
/-! SUPPORT. What the operations of Machine/Ops.lean keep, one lemma for each. -/

namespace Sys2Proof.Machine

set_option linter.unusedTactic false
set_option linter.unreachableTactic false
set_option linter.unusedVariables false
set_option linter.unusedSimpArgs false

/-- What `State.setDom` keeps. -/
theorem State.setDom_keeps {a s : State} (h : Keeps a s) (d : Nat) (f : Dom → Dom) :
    Keeps a (State.setDom s d f) := by
  unfold State.setDom
  repeat'
    first
    | with_reducible assumption
    | (extract_lets +onlyGivenNames x; refine (fun (hx : Keeps a x) => ?_) ?_; clear_value x; rotate_left; simp only [x])
    | (extract_lets +onlyGivenNames x; refine (fun (hx : Keeps a x) => ?_) ?_; rotate_left; simp only [x])
    | (extract_lets +onlyGivenNames x; clear_value x)
    | extract_lets +onlyGivenNames x
    | (simp only [keeps_mk]; refine KeepsMk.same rfl ?_ rfl rfl rfl rfl rfl rfl rfl rfl rfl rfl rfl)

/-- What `State.setChan` keeps. -/
theorem State.setChan_keeps {a s : State} (h : Keeps a s) (c : Nat) (f : Chan → Chan) :
    Keeps a (State.setChan s c f) := by
  unfold State.setChan
  repeat'
    first
    | with_reducible assumption
    | (extract_lets +onlyGivenNames x; refine (fun (hx : Keeps a x) => ?_) ?_; clear_value x; rotate_left; simp only [x])
    | (extract_lets +onlyGivenNames x; refine (fun (hx : Keeps a x) => ?_) ?_; rotate_left; simp only [x])
    | (extract_lets +onlyGivenNames x; clear_value x)
    | extract_lets +onlyGivenNames x
    | (simp only [keeps_mk]; refine KeepsMk.same rfl ?_ rfl rfl rfl rfl rfl rfl rfl rfl rfl rfl rfl)

/-- What `State.setRing` keeps. -/
theorem State.setRing_keeps {a s : State} (h : Keeps a s) (f : Nat) (r : Nat) (g : Ring → Ring) :
    Keeps a (State.setRing s f r g) := by
  unfold State.setRing
  repeat'
    first
    | with_reducible assumption
    | (extract_lets +onlyGivenNames x; refine (fun (hx : Keeps a x) => ?_) ?_; clear_value x; rotate_left; simp only [x])
    | (extract_lets +onlyGivenNames x; refine (fun (hx : Keeps a x) => ?_) ?_; rotate_left; simp only [x])
    | (extract_lets +onlyGivenNames x; clear_value x)
    | extract_lets +onlyGivenNames x
    | (simp only [keeps_mk]; refine KeepsMk.same rfl ?_ rfl rfl rfl rfl rfl rfl rfl rfl rfl rfl rfl)

/-- What `State.setRes` keeps. -/
theorem State.setRes_keeps {a s : State} (h : Keeps a s) (f : Nat) (g : Res → Res) :
    Keeps a (State.setRes s f g) := by
  unfold State.setRes
  repeat'
    first
    | with_reducible assumption
    | (extract_lets +onlyGivenNames x; refine (fun (hx : Keeps a x) => ?_) ?_; clear_value x; rotate_left; simp only [x])
    | (extract_lets +onlyGivenNames x; refine (fun (hx : Keeps a x) => ?_) ?_; rotate_left; simp only [x])
    | (extract_lets +onlyGivenNames x; clear_value x)
    | extract_lets +onlyGivenNames x
    | (simp only [keeps_mk]; refine KeepsMk.same rfl ?_ rfl rfl rfl rfl rfl rfl rfl rfl rfl rfl rfl)

/-- What `State.setPart` keeps. -/
theorem State.setPart_keeps {a s : State} (h : Keeps a s) (p : Nat) (g : Part → Part) :
    Keeps a (State.setPart s p g) := by
  unfold State.setPart
  repeat'
    first
    | with_reducible assumption
    | (extract_lets +onlyGivenNames x; refine (fun (hx : Keeps a x) => ?_) ?_; clear_value x; rotate_left; simp only [x])
    | (extract_lets +onlyGivenNames x; refine (fun (hx : Keeps a x) => ?_) ?_; rotate_left; simp only [x])
    | (extract_lets +onlyGivenNames x; clear_value x)
    | extract_lets +onlyGivenNames x
    | (simp only [keeps_mk]; refine KeepsMk.same rfl ?_ rfl rfl rfl rfl rfl rfl rfl rfl rfl rfl rfl)

/-- What `State.setCore` keeps. -/
theorem State.setCore_keeps {a s : State} (h : Keeps a s) (n : Nat) (g : Core → Core) :
    Keeps a (State.setCore s n g) := by
  unfold State.setCore
  repeat'
    first
    | with_reducible assumption
    | (extract_lets +onlyGivenNames x; refine (fun (hx : Keeps a x) => ?_) ?_; clear_value x; rotate_left; simp only [x])
    | (extract_lets +onlyGivenNames x; refine (fun (hx : Keeps a x) => ?_) ?_; rotate_left; simp only [x])
    | (extract_lets +onlyGivenNames x; clear_value x)
    | extract_lets +onlyGivenNames x
    | (simp only [keeps_mk]; refine KeepsMk.same rfl ?_ rfl rfl rfl rfl rfl rfl rfl rfl rfl rfl rfl)

/-- What `State.setCluster` keeps. -/
theorem State.setCluster_keeps {a s : State} (h : Keeps a s) (k : Nat) (g : Cluster → Cluster) :
    Keeps a (State.setCluster s k g) := by
  unfold State.setCluster
  repeat'
    first
    | with_reducible assumption
    | (extract_lets +onlyGivenNames x; refine (fun (hx : Keeps a x) => ?_) ?_; clear_value x; rotate_left; simp only [x])
    | (extract_lets +onlyGivenNames x; refine (fun (hx : Keeps a x) => ?_) ?_; rotate_left; simp only [x])
    | (extract_lets +onlyGivenNames x; clear_value x)
    | extract_lets +onlyGivenNames x
    | (simp only [keeps_mk]; refine KeepsMk.same rfl ?_ rfl rfl rfl rfl rfl rfl rfl rfl rfl rfl rfl)

/-- What `State.busyAt` keeps. -/
theorem State.busyAt_keeps {a0 s : State} (h0 : Keeps a0 s) (d : Nat) (r : Nat) (k : Nat) :
    Keeps a0 (State.busyAt s d r k) := by
  unfold State.busyAt
  repeat'
    first
    | with_reducible assumption
    | with_reducible refine Keeps.of_eq (by assumption) ?_
    | (extract_lets +onlyGivenNames x; refine (fun (hx : Keeps a0 x) => ?_) ?_; clear_value x; rotate_left; simp only [x])
    | (extract_lets +onlyGivenNames x; refine (fun (hx : Keeps a0 x) => ?_) ?_; rotate_left; simp only [x])
    | (extract_lets +onlyGivenNames x; refine (fun (hx : Keeps a0 x.1) => ?_) ?_; clear_value x; rotate_left; simp only [x])
    | (extract_lets +onlyGivenNames x; refine (fun (hx : Keeps a0 x.1) => ?_) ?_; rotate_left; simp only [x])
    | (extract_lets +onlyGivenNames x; clear_value x)
    | extract_lets +onlyGivenNames x
    | split
    | dsimp only
    | (simp only [keeps_mk]; refine KeepsMk.same rfl ?_ rfl rfl rfl rfl rfl rfl rfl rfl rfl rfl rfl)

/-- What `State.charge` keeps. -/
theorem State.charge_keeps {a0 s : State} (h0 : Keeps a0 s) (r : Nat) (c : Nat) (k : Nat) :
    Keeps a0 (State.charge s r c k) := by
  unfold State.charge
  repeat'
    first
    | with_reducible assumption
    | with_reducible refine Keeps.of_eq (by assumption) ?_
    | with_reducible refine State.busyAt_keeps ?_ _ _ _
    | (extract_lets +onlyGivenNames x; refine (fun (hx : Keeps a0 x) => ?_) ?_; clear_value x; rotate_left; simp only [x])
    | (extract_lets +onlyGivenNames x; refine (fun (hx : Keeps a0 x) => ?_) ?_; rotate_left; simp only [x])
    | (extract_lets +onlyGivenNames x; refine (fun (hx : Keeps a0 x.1) => ?_) ?_; clear_value x; rotate_left; simp only [x])
    | (extract_lets +onlyGivenNames x; refine (fun (hx : Keeps a0 x.1) => ?_) ?_; rotate_left; simp only [x])
    | (extract_lets +onlyGivenNames x; clear_value x)
    | extract_lets +onlyGivenNames x
    | split
    | dsimp only
    | (simp only [keeps_mk]; refine KeepsMk.same rfl ?_ rfl rfl rfl rfl rfl rfl rfl rfl rfl rfl rfl)

/-- What `State.chargeWork` keeps. -/
theorem State.chargeWork_keeps {a s : State} (h : Keeps a s) (p : Nat) (client : Nat) (c : Nat) (k : Nat) :
    Keeps a (State.chargeWork s p client c k) := by
  unfold State.chargeWork
  repeat'
    first
    | with_reducible assumption
    | with_reducible refine State.charge_keeps ?_ _ _ _
    | (extract_lets +onlyGivenNames x; refine (fun (hx : Keeps a x) => ?_) ?_; clear_value x; rotate_left; simp only [x])
    | (extract_lets +onlyGivenNames x; refine (fun (hx : Keeps a x) => ?_) ?_; rotate_left; simp only [x])
    | (extract_lets +onlyGivenNames x; clear_value x)
    | extract_lets +onlyGivenNames x
    | split

/-- What `State.toL0` keeps. -/
theorem State.toL0_keeps {a s : State} (h : Keeps a s) :
    Keeps a (State.toL0 s) := by
  unfold State.toL0
  repeat'
    first
    | with_reducible assumption
    | (extract_lets +onlyGivenNames x; refine (fun (hx : Keeps a x) => ?_) ?_; clear_value x; rotate_left; simp only [x])
    | (extract_lets +onlyGivenNames x; refine (fun (hx : Keeps a x) => ?_) ?_; rotate_left; simp only [x])
    | (extract_lets +onlyGivenNames x; clear_value x)
    | extract_lets +onlyGivenNames x
    | (simp only [keeps_mk]; refine KeepsMk.same rfl ?_ rfl rfl rfl rfl rfl rfl rfl rfl rfl rfl rfl)

/-- What `State.emit` keeps. -/
theorem State.emit_keeps {a s : State} (h : Keeps a s) (o : Out) :
    Keeps a (State.emit s o) :=
  h.trans ⟨rfl, ⟨[o], rfl⟩, rfl, fun _ h => h, fun h => ⟨Nat.le_refl _, h⟩, id, rfl, rfl, fun h => ⟨Nat.le_refl _, h⟩, id⟩

/-- What `State.tlp` keeps. -/
theorem State.tlp_keeps {a s : State} (h : Keeps a s) :
    Keeps a (State.tlp s) := by
  unfold State.tlp
  repeat'
    first
    | with_reducible assumption
    | with_reducible refine State.toL0_keeps ?_
    | split

/-- What `State.writeRaw` keeps. -/
theorem State.writeRaw_keeps {a s : State} (h : Keeps a s) (a0 : Nat) (bs : List Byte) :
    Keeps a (State.writeRaw s a0 bs) := by
  unfold State.writeRaw
  split
  · exact h
  · refine h.trans ⟨rfl, ⟨[], by simp⟩, rfl, fun _ h => h, fun h => ⟨Nat.le_refl _, h⟩, id, rfl, rfl, fun h => ⟨Nat.le_refl _, h⟩, fun w => ?_⟩
    simp only [Mem.wf, Bool.and_eq_true] at w ⊢
    exact ⟨putBytes_twf _ _ _ w.1, filter_twf _ _ _ w.2⟩

/-- What `State.writeMem` keeps. -/
theorem State.writeMem_keeps {a0 s : State} (h : Keeps a0 s) (a : Nat) (bs : List Byte) :
    Keeps a0 (State.writeMem s a bs) := by
  unfold State.writeMem
  repeat'
    first
    | with_reducible assumption
    | with_reducible refine Keeps.fold ?_ _ (fun _ _ _ => ?_) _
    | with_reducible refine State.writeRaw_keeps ?_ _ _
    | split

/-- What `State.writeOutside` keeps. -/
theorem State.writeOutside_keeps {a0 s : State} (h : Keeps a0 s) (a : Nat) (bs : List Byte) :
    Keeps a0 (State.writeOutside s a bs) := by
  unfold State.writeOutside
  repeat'
    first
    | with_reducible assumption
    | with_reducible refine State.writeMem_keeps ?_ _ _
    | (extract_lets +onlyGivenNames x; refine (fun (hx : Keeps a0 x) => ?_) ?_; clear_value x; rotate_left; simp only [x])
    | (extract_lets +onlyGivenNames x; refine (fun (hx : Keeps a0 x) => ?_) ?_; rotate_left; simp only [x])
    | (extract_lets +onlyGivenNames x; have _g : Mem := x)
    | (extract_lets +onlyGivenNames x; clear_value x)
    | extract_lets +onlyGivenNames x
    | (simp only [keeps_mk]; refine KeepsMk.same rfl ?_ rfl rfl rfl rfl rfl rfl rfl rfl rfl rfl rfl)

/-- What `State.scrub` keeps. -/
theorem State.scrub_keeps {a s : State} (h : Keeps a s) (lo : Nat) (hi : Nat) :
    Keeps a (State.scrub s lo hi) := by
  unfold State.scrub
  refine h.trans ⟨rfl, ⟨[], by simp⟩, rfl, fun _ h => h, fun h => ⟨Nat.le_refl _, h⟩, id, rfl, rfl, fun h => ⟨Nat.le_refl _, h⟩, fun w => ?_⟩
  simp only [Mem.wf, Bool.and_eq_true] at w ⊢
  exact ⟨filter_twf _ _ _ w.1, filter_twf _ _ _ w.2⟩

/-- What `State.lose` keeps. -/
theorem State.lose_keeps {a s : State} (h : Keeps a s) (lo : Nat) (hi : Nat) :
    Keeps a (State.lose s lo hi) := by
  unfold State.lose
  repeat'
    first
    | with_reducible assumption
    | with_reducible refine State.scrub_keeps ?_ _ _
    | (extract_lets +onlyGivenNames x; refine (fun (hx : Keeps a x) => ?_) ?_; clear_value x; rotate_left; simp only [x])
    | (extract_lets +onlyGivenNames x; refine (fun (hx : Keeps a x) => ?_) ?_; rotate_left; simp only [x])
    | (extract_lets +onlyGivenNames x; have _g : Mem := x)
    | (extract_lets +onlyGivenNames x; clear_value x)
    | extract_lets +onlyGivenNames x
    | (simp only [keeps_mk]; refine KeepsMk.same rfl ?_ rfl rfl rfl rfl rfl rfl rfl rfl rfl rfl rfl)

/-- What `State.setPoison` keeps. -/
theorem State.setPoison_keeps {a s : State} (h : Keeps a s) (line : Nat) (p : Bool) :
    Keeps a (State.setPoison s line p) := by
  unfold State.setPoison
  refine h.trans ⟨rfl, ⟨[], by simp⟩, rfl, fun _ h => h, fun h => ⟨Nat.le_refl _, h⟩, id, rfl, rfl, fun h => ⟨Nat.le_refl _, h⟩, fun w => ?_⟩
  simp only [Mem.wf, Bool.and_eq_true] at w ⊢
  exact ⟨w.1, tput_twf _ _ _ _ w.2⟩

/-- What `State.spend` keeps. -/
theorem State.spend_keeps {a0 s : State} (h0 : Keeps a0 s) (p : Nat) (b : Nat) (n : Nat) :
    ∀ u y, State.spend s p b n = (u, y) → Keeps a0 u := by
  have key : Keeps a0 (State.spend s p b n).1 := by
    unfold State.spend
    repeat'
      first
      | with_reducible assumption
      | with_reducible refine Keeps.of_eq (by assumption) ?_
      | with_reducible refine State.setPart_keeps ?_ _ _
      | (extract_lets +onlyGivenNames x; refine (fun (hx : Keeps a0 x) => ?_) ?_; clear_value x; rotate_left; simp only [x])
      | (extract_lets +onlyGivenNames x; refine (fun (hx : Keeps a0 x) => ?_) ?_; rotate_left; simp only [x])
      | (extract_lets +onlyGivenNames x; refine (fun (hx : Keeps a0 x.1) => ?_) ?_; clear_value x; rotate_left; simp only [x])
      | (extract_lets +onlyGivenNames x; refine (fun (hx : Keeps a0 x.1) => ?_) ?_; rotate_left; simp only [x])
      | (extract_lets +onlyGivenNames x; clear_value x)
      | extract_lets +onlyGivenNames x
      | split
      | dsimp only
      | (simp only [keeps_mk]; refine KeepsMk.same rfl ?_ rfl rfl rfl rfl rfl rfl rfl rfl rfl rfl rfl)
  intro u y hu
  rw [hu] at key
  exact key

/-- What `State.spendAll` keeps. -/
theorem State.spendAll_keeps {a0 s : State} (h0 : Keeps a0 s) (p : Nat) (l : List (Nat × Nat)) :
    ∀ u y, State.spendAll s p l = (u, y) → Keeps a0 u := by
  have key : Keeps a0 (State.spendAll s p l).1 := by
    unfold State.spendAll
    repeat'
      first
      | with_reducible assumption
      | with_reducible refine Keeps.fold ?_ _ (fun _ _ _ => ?_) _
      | with_reducible refine Keeps.foldPair ?_ _ (fun _ _ _ => ?_) _
      | with_reducible refine Keeps.of_eq (by assumption) ?_
      | with_reducible refine State.spend_keeps ?_ _ _ _ _ _ (by assumption)
      | with_reducible refine State.spend_keeps ?_ _ _ _ _ _ Prod.mk.eta.symm
      | (extract_lets +onlyGivenNames x; refine (fun (hx : Keeps a0 x) => ?_) ?_; clear_value x; rotate_left; simp only [x])
      | (extract_lets +onlyGivenNames x; refine (fun (hx : Keeps a0 x) => ?_) ?_; rotate_left; simp only [x])
      | (extract_lets +onlyGivenNames x; refine (fun (hx : Keeps a0 x.1) => ?_) ?_; clear_value x; rotate_left; simp only [x])
      | (extract_lets +onlyGivenNames x; refine (fun (hx : Keeps a0 x.1) => ?_) ?_; rotate_left; simp only [x])
      | (extract_lets +onlyGivenNames x; clear_value x)
      | extract_lets +onlyGivenNames x
      | split
      | dsimp only
      | (simp only [keeps_mk]; refine KeepsMk.same rfl ?_ rfl rfl rfl rfl rfl rfl rfl rfl rfl rfl rfl)
  intro u y hu
  rw [hu] at key
  exact key

/-- What `State.dramTraffic` keeps. -/
theorem State.dramTraffic_keeps {a0 s : State} (h0 : Keeps a0 s) (p : Nat) (client : Nat) (stop : Nat) (write : Bool) (a : Nat) (n : Nat) :
    Keeps a0 (State.dramTraffic s p client stop write a n) := by
  unfold State.dramTraffic
  repeat'
    first
    | with_reducible assumption
    | with_reducible refine Keeps.of_eq (by assumption) ?_
    | with_reducible refine State.chargeWork_keeps ?_ _ _ _ _
    | with_reducible refine State.spendAll_keeps ?_ _ _ _ _ (by assumption)
    | with_reducible refine State.spendAll_keeps ?_ _ _ _ _ Prod.mk.eta.symm
    | (extract_lets +onlyGivenNames x; refine (fun (hx : Keeps a0 x) => ?_) ?_; clear_value x; rotate_left; simp only [x])
    | (extract_lets +onlyGivenNames x; refine (fun (hx : Keeps a0 x) => ?_) ?_; rotate_left; simp only [x])
    | (extract_lets +onlyGivenNames x; refine (fun (hx : Keeps a0 x.1) => ?_) ?_; clear_value x; rotate_left; simp only [x])
    | (extract_lets +onlyGivenNames x; refine (fun (hx : Keeps a0 x.1) => ?_) ?_; rotate_left; simp only [x])
    | (extract_lets +onlyGivenNames x; clear_value x)
    | extract_lets +onlyGivenNames x
    | split
    | dsimp only
    | (simp only [keeps_mk]; refine KeepsMk.same rfl ?_ rfl rfl rfl rfl rfl rfl rfl rfl rfl rfl rfl)

/-- What `State.flushLog` keeps. -/
theorem State.flushLog_keeps {a s : State} (h : Keeps a s) :
    Keeps a (State.flushLog s) := by
  unfold State.flushLog
  repeat'
    first
    | with_reducible assumption
    | (extract_lets +onlyGivenNames x; refine (fun (hx : Keeps a x) => ?_) ?_; clear_value x; rotate_left; simp only [x])
    | (extract_lets +onlyGivenNames x; refine (fun (hx : Keeps a x) => ?_) ?_; rotate_left; simp only [x])
    | (extract_lets +onlyGivenNames x; have _g : Mgt := x)
    | (extract_lets +onlyGivenNames x; clear_value x)
    | extract_lets +onlyGivenNames x
    | split
    | (simp only [keeps_mk]; refine KeepsMk.same rfl ?_ rfl rfl rfl rfl rfl rfl rfl rfl rfl rfl rfl)

/-- What `State.log` keeps. -/
theorem State.log_keeps {a s : State} (h : Keeps a s) (code : Nat) (severity : Nat) (source : Nat) (unit : Nat) (arg : Nat) :
    Keeps a (State.log s code severity source unit arg) := by
  unfold State.log
  repeat'
    first
    | with_reducible assumption
    | with_reducible refine State.flushLog_keeps ?_
    | (extract_lets +onlyGivenNames x; refine (fun (hx : Keeps a x) => ?_) ?_; clear_value x; rotate_left; simp only [x])
    | (extract_lets +onlyGivenNames x; refine (fun (hx : Keeps a x) => ?_) ?_; rotate_left; simp only [x])
    | (extract_lets +onlyGivenNames x; have _g : Mgt := x)
    | (extract_lets +onlyGivenNames x; clear_value x)
    | extract_lets +onlyGivenNames x
    | split
    | (simp only [keeps_mk]; refine KeepsMk.same rfl ?_ rfl rfl rfl rfl rfl rfl rfl rfl rfl rfl rfl)

/-- What `State.msix` keeps. -/
theorem State.msix_keeps {a s : State} (h : Keeps a s) (f : Nat) (v : Nat) :
    Keeps a (State.msix s f v) := by
  unfold State.msix
  repeat'
    first
    | with_reducible assumption
    | with_reducible refine State.emit_keeps ?_ _
    | (extract_lets +onlyGivenNames x; refine (fun (hx : Keeps a x) => ?_) ?_; clear_value x; rotate_left; simp only [x])
    | (extract_lets +onlyGivenNames x; refine (fun (hx : Keeps a x) => ?_) ?_; rotate_left; simp only [x])
    | (extract_lets +onlyGivenNames x; clear_value x)
    | extract_lets +onlyGivenNames x
    | split
    | (simp only [keeps_mk]; refine KeepsMk.same rfl ?_ rfl rfl rfl rfl rfl rfl rfl rfl rfl rfl rfl)

/-- What `State.deviceFault` keeps. -/
theorem State.deviceFault_keeps {a s : State} (h : Keeps a s) (source : Nat) (unit : Nat) (arg : Nat) :
    Keeps a (State.deviceFault s source unit arg) := by
  unfold State.deviceFault
  repeat'
    first
    | with_reducible assumption
    | with_reducible refine State.log_keeps ?_ _ _ _ _ _
    | with_reducible refine State.emit_keeps ?_ _
    | (extract_lets +onlyGivenNames x; refine (fun (hx : Keeps a x) => ?_) ?_; clear_value x; rotate_left; simp only [x])
    | (extract_lets +onlyGivenNames x; refine (fun (hx : Keeps a x) => ?_) ?_; rotate_left; simp only [x])
    | (extract_lets +onlyGivenNames x; have _g : Mgt := x)
    | (extract_lets +onlyGivenNames x; have _g : Dev := x)
    | (extract_lets +onlyGivenNames x; clear_value x)
    | extract_lets +onlyGivenNames x
    | (simp only [keeps_mk]; refine KeepsMk.same rfl ?_ rfl rfl rfl rfl rfl rfl rfl rfl rfl rfl rfl)

/-- What `State.commit` keeps. -/
theorem State.commit_keeps {a s : State} (h : Keeps a s) (f : Nat) (r : Rec) :
    Keeps a (State.commit s f r) := by
  unfold State.commit
  repeat'
    first
    | with_reducible assumption
    | with_reducible refine State.setRes_keeps ?_ _ _
    | (extract_lets +onlyGivenNames x; refine (fun (hx : Keeps a x) => ?_) ?_; clear_value x; rotate_left; simp only [x])
    | (extract_lets +onlyGivenNames x; refine (fun (hx : Keeps a x) => ?_) ?_; rotate_left; simp only [x])
    | (extract_lets +onlyGivenNames x; clear_value x)
    | extract_lets +onlyGivenNames x
    | split
    | (simp only [keeps_mk]; refine KeepsMk.same rfl ?_ rfl rfl rfl rfl rfl rfl rfl rfl rfl rfl rfl)

/-- What `State.mpEventTo` keeps. -/
theorem State.mpEventTo_keeps {a s : State} (h : Keeps a s) (f : Nat) (code : Nat) (object : Nat) (arg0 : Nat) (arg1 : Nat) :
    Keeps a (State.mpEventTo s f code object arg0 arg1) := by
  unfold State.mpEventTo
  repeat'
    first
    | with_reducible assumption
    | with_reducible refine State.commit_keeps ?_ _ _
    | (simp only [keeps_mk]; refine KeepsMk.same rfl ?_ rfl rfl rfl rfl rfl rfl rfl rfl rfl rfl rfl)

/-- What `State.mgtEvent` keeps. -/
theorem State.mgtEvent_keeps {a s : State} (h : Keeps a s) (code : Nat) (object : Nat) (arg0 : Nat) (arg1 : Nat) (toVFs : Bool) :
    Keeps a (State.mgtEvent s code object arg0 arg1 toVFs) := by
  unfold State.mgtEvent
  repeat'
    first
    | with_reducible assumption
    | with_reducible refine Keeps.fold ?_ _ (fun _ _ _ => ?_) _
    | with_reducible refine State.mpEventTo_keeps ?_ _ _ _ _ _
    | (extract_lets +onlyGivenNames x; refine (fun (hx : Keeps a x) => ?_) ?_; clear_value x; rotate_left; simp only [x])
    | (extract_lets +onlyGivenNames x; refine (fun (hx : Keeps a x) => ?_) ?_; rotate_left; simp only [x])
    | (extract_lets +onlyGivenNames x; have _g : Mgt := x)
    | (extract_lets +onlyGivenNames x; clear_value x)
    | extract_lets +onlyGivenNames x
    | split
    | (simp only [keeps_mk]; refine KeepsMk.same rfl ?_ rfl rfl rfl rfl rfl rfl rfl rfl rfl rfl rfl)

/-- What `State.celEvent` keeps. -/
theorem State.celEvent_keeps {a s : State} (h : Keeps a s) (p : Nat) (code : Nat) (object : Nat) (arg0 : Nat) (arg1 : Nat) :
    Keeps a (State.celEvent s p code object arg0 arg1) := by
  unfold State.celEvent
  repeat'
    first
    | with_reducible assumption
    | with_reducible refine State.commit_keeps ?_ _ _
    | (simp only [keeps_mk]; refine KeepsMk.same rfl ?_ rfl rfl rfl rfl rfl rfl rfl rfl rfl rfl rfl)

/-- What `State.startPll` keeps. -/
theorem State.startPll_keeps {a s : State} (h : Keeps a s) (p : Nat) :
    Keeps a (State.startPll s p) := by
  unfold State.startPll
  repeat'
    first
    | with_reducible assumption
    | (extract_lets +onlyGivenNames x; refine (fun (hx : Keeps a x) => ?_) ?_; clear_value x; rotate_left; simp only [x])
    | (extract_lets +onlyGivenNames x; refine (fun (hx : Keeps a x) => ?_) ?_; rotate_left; simp only [x])
    | (extract_lets +onlyGivenNames x; clear_value x)
    | extract_lets +onlyGivenNames x
    | split
    | (simp only [keeps_mk]; refine KeepsMk.same rfl ?_ rfl rfl rfl rfl rfl rfl rfl rfl rfl rfl rfl)

/-- What `State.beginWake` keeps. -/
theorem State.beginWake_keeps {a s : State} (h : Keeps a s) (d : Nat) :
    Keeps a (State.beginWake s d) := by
  unfold State.beginWake
  repeat'
    first
    | with_reducible assumption
    | with_reducible refine State.setDom_keeps ?_ _ _
    | (extract_lets +onlyGivenNames x; refine (fun (hx : Keeps a x) => ?_) ?_; clear_value x; rotate_left; simp only [x])
    | (extract_lets +onlyGivenNames x; refine (fun (hx : Keeps a x) => ?_) ?_; rotate_left; simp only [x])
    | (extract_lets +onlyGivenNames x; clear_value x)
    | extract_lets +onlyGivenNames x
    | split
    | (simp only [keeps_mk]; refine KeepsMk.same rfl ?_ rfl rfl rfl rfl rfl rfl rfl rfl rfl rfl rfl)

/-- What `State.beginWakes` keeps. -/
theorem State.beginWakes_keeps {a s : State} (h : Keeps a s) :
    Keeps a (State.beginWakes s) := by
  unfold State.beginWakes
  repeat'
    first
    | with_reducible assumption
    | with_reducible refine Keeps.fold ?_ _ (fun _ _ _ => ?_) _
    | with_reducible refine State.beginWake_keeps ?_ _

/-- What `State.wakeOne` keeps. -/
theorem State.wakeOne_keeps {a s : State} (h : Keeps a s) (d : Nat) :
    Keeps a (State.wakeOne s d) := by
  unfold State.wakeOne
  repeat'
    first
    | with_reducible assumption
    | with_reducible refine Keeps.fold ?_ _ (fun _ _ _ => ?_) _
    | with_reducible refine State.startPll_keeps ?_ _
    | with_reducible refine State.setDom_keeps ?_ _ _
    | (extract_lets +onlyGivenNames x; refine (fun (hx : Keeps a x) => ?_) ?_; clear_value x; rotate_left; simp only [x])
    | (extract_lets +onlyGivenNames x; refine (fun (hx : Keeps a x) => ?_) ?_; rotate_left; simp only [x])
    | (extract_lets +onlyGivenNames x; clear_value x)
    | extract_lets +onlyGivenNames x
    | split
    | (simp only [keeps_mk]; refine KeepsMk.same rfl ?_ rfl rfl rfl rfl rfl rfl rfl rfl rfl rfl rfl)

/-- What `State.wake` keeps. -/
theorem State.wake_keeps {a s : State} (h : Keeps a s) (d : Nat) :
    Keeps a (State.wake s d) := by
  unfold State.wake
  repeat'
    first
    | with_reducible assumption
    | with_reducible refine Keeps.fold ?_ _ (fun _ _ _ => ?_) _
    | with_reducible refine State.beginWakes_keeps ?_
    | with_reducible refine State.wakeOne_keeps ?_ _
    | (extract_lets +onlyGivenNames x; refine (fun (hx : Keeps a x) => ?_) ?_; clear_value x; rotate_left; simp only [x])
    | (extract_lets +onlyGivenNames x; refine (fun (hx : Keeps a x) => ?_) ?_; rotate_left; simp only [x])
    | (extract_lets +onlyGivenNames x; clear_value x)
    | extract_lets +onlyGivenNames x
    | split

end Sys2Proof.Machine
end

