-- ==== Sys2Proof/Laws/KeepPacket.lean ====
section
/-! SUPPORT. What the operations of Machine/Packet.lean keep, one lemma for each. -/

namespace Sys2Proof.Machine

set_option linter.unusedTactic false
set_option linter.unreachableTactic false
set_option linter.unusedVariables false
set_option linter.unusedSimpArgs false

/-- What `State.setCounter` keeps. -/
theorem State.setCounter_keeps {a s : State} (h : Keeps a s) (f : Nat) (o : Nat) (v : Nat) :
    Keeps a (State.setCounter s f o v) := by
  unfold State.setCounter
  repeat'
    first
    | with_reducible assumption
    | (extract_lets +onlyGivenNames x; refine (fun (hx : Keeps a x) => ?_) ?_; clear_value x; rotate_left; simp only [x])
    | (extract_lets +onlyGivenNames x; refine (fun (hx : Keeps a x) => ?_) ?_; rotate_left; simp only [x])
    | (extract_lets +onlyGivenNames x; clear_value x)
    | extract_lets +onlyGivenNames x
    | (simp only [keeps_mk]; refine KeepsMk.same rfl ?_ rfl rfl rfl rfl rfl rfl rfl rfl rfl rfl rfl)

/-- What `State.ringFault` keeps. -/
theorem State.ringFault_keeps {a s : State} (h : Keeps a s) (f : Nat) (v : Nat) (arg : Nat) :
    Keeps a (State.ringFault s f v arg) := by
  unfold State.ringFault
  repeat'
    first
    | with_reducible assumption
    | with_reducible refine State.msix_keeps ?_ _ _
    | with_reducible refine State.log_keeps ?_ _ _ _ _ _

/-- What `State.dropFlight` keeps. -/
theorem State.dropFlight_keeps {a s : State} (h : Keeps a s) (fl : Flight) :
    Keeps a (State.dropFlight s fl) := by
  unfold State.dropFlight
  repeat'
    first
    | with_reducible assumption
    | with_reducible refine State.setRing_keeps ?_ _ _ _
    | (extract_lets +onlyGivenNames x; refine (fun (hx : Keeps a x) => ?_) ?_; clear_value x; rotate_left; simp only [x])
    | (extract_lets +onlyGivenNames x; refine (fun (hx : Keeps a x) => ?_) ?_; rotate_left; simp only [x])
    | (extract_lets +onlyGivenNames x; clear_value x)
    | extract_lets +onlyGivenNames x
    | split
    | (simp only [keeps_mk]; refine KeepsMk.same rfl ?_ rfl rfl rfl rfl rfl rfl rfl rfl rfl rfl rfl)

/-- What `State.replyFails` keeps. -/
theorem State.replyFails_keeps {a s : State} (h : Keeps a s) (fl : Flight) :
    Keeps a (State.replyFails s fl) := by
  unfold State.replyFails
  repeat'
    first
    | with_reducible assumption
    | with_reducible refine State.dropFlight_keeps ?_ _
    | with_reducible refine State.setRing_keeps ?_ _ _ _
    | with_reducible refine State.ringFault_keeps ?_ _ _ _
    | (extract_lets +onlyGivenNames x; refine (fun (hx : Keeps a x) => ?_) ?_; clear_value x; rotate_left; simp only [x])
    | (extract_lets +onlyGivenNames x; refine (fun (hx : Keeps a x) => ?_) ?_; rotate_left; simp only [x])
    | (extract_lets +onlyGivenNames x; clear_value x)
    | extract_lets +onlyGivenNames x
    | split
    | (simp only [keeps_mk]; refine KeepsMk.same rfl ?_ rfl rfl rfl rfl rfl rfl rfl rfl rfl rfl rfl)

/-- What `State.endPacket` keeps. -/
theorem State.endPacket_keeps {a0 s : State} (h : Keeps a0 s) (fl : Flight) (a : Ans) :
    Keeps a0 (State.endPacket s fl a) := by
  unfold State.endPacket
  repeat'
    first
    | with_reducible assumption
    | with_reducible refine State.dropFlight_keeps ?_ _
    | with_reducible refine State.replyFails_keeps ?_ _
    | with_reducible refine State.emit_keeps ?_ _
    | with_reducible refine State.setRing_keeps ?_ _ _ _
    | with_reducible refine State.setCounter_keeps ?_ _ _ _
    | with_reducible refine State.msix_keeps ?_ _ _
    | (extract_lets +onlyGivenNames x; refine (fun (hx : Keeps a0 x) => ?_) ?_; clear_value x; rotate_left; simp only [x])
    | (extract_lets +onlyGivenNames x; refine (fun (hx : Keeps a0 x) => ?_) ?_; rotate_left; simp only [x])
    | (extract_lets +onlyGivenNames x; refine (fun (hx : Keeps a0 x.1) => ?_) ?_; clear_value x; rotate_left; simp only [x])
    | (extract_lets +onlyGivenNames x; refine (fun (hx : Keeps a0 x.1) => ?_) ?_; rotate_left; simp only [x])
    | (extract_lets +onlyGivenNames x; clear_value x)
    | extract_lets +onlyGivenNames x
    | split
    | (simp only [keeps_mk]; refine KeepsMk.same rfl ?_ rfl rfl rfl rfl rfl rfl rfl rfl rfl rfl rfl)

/-- What `State.endWith` keeps. -/
theorem State.endWith_keeps {a s : State} (h : Keeps a s) (fl : Flight) (status : Nat) (detail : optParam Nat 0) :
    Keeps a (State.endWith s fl status detail) := by
  unfold State.endWith
  repeat'
    first
    | with_reducible assumption
    | with_reducible refine State.endPacket_keeps ?_ _ _
    | (simp only [keeps_mk]; refine KeepsMk.same rfl ?_ rfl rfl rfl rfl rfl rfl rfl rfl rfl rfl rfl)

/-- What `State.setWait` keeps. -/
theorem State.setWait_keeps {a s : State} (h : Keeps a s) (fl : Flight) (f : Flight → Flight) :
    Keeps a (State.setWait s fl f) := by
  unfold State.setWait
  repeat'
    first
    | with_reducible assumption
    | (extract_lets +onlyGivenNames x; refine (fun (hx : Keeps a x) => ?_) ?_; clear_value x; rotate_left; simp only [x])
    | (extract_lets +onlyGivenNames x; refine (fun (hx : Keeps a x) => ?_) ?_; rotate_left; simp only [x])
    | (extract_lets +onlyGivenNames x; clear_value x)
    | extract_lets +onlyGivenNames x
    | split
    | (simp only [keeps_mk]; refine KeepsMk.same rfl ?_ rfl rfl rfl rfl rfl rfl rfl rfl rfl rfl rfl)

/-- What `State.fetched` keeps. -/
theorem State.fetched_keeps {a s : State} (h : Keeps a s) (pk : Packet) (data : List Byte) :
    Keeps a (State.fetched s pk data) := by
  unfold State.fetched
  repeat'
    first
    | with_reducible assumption
    | with_reducible refine State.setRing_keeps ?_ _ _ _
    | (extract_lets +onlyGivenNames x; refine (fun (hx : Keeps a x) => ?_) ?_; clear_value x; rotate_left; simp only [x])
    | (extract_lets +onlyGivenNames x; refine (fun (hx : Keeps a x) => ?_) ?_; rotate_left; simp only [x])
    | (extract_lets +onlyGivenNames x; clear_value x)
    | extract_lets +onlyGivenNames x
    | split
    | (simp only [keeps_mk]; refine KeepsMk.same rfl ?_ rfl rfl rfl rfl rfl rfl rfl rfl rfl rfl rfl)

end Sys2Proof.Machine
end

