-- ==== Sys2Proof/Laws/KeepSyncBin.lean ====
section
/-! SUPPORT. What the operations of Machine/SyncBin.lean keep, one lemma for each. -/

namespace Sys2Proof.Machine

set_option linter.unusedTactic false
set_option linter.unreachableTactic false
set_option linter.unusedVariables false
set_option linter.unusedSimpArgs false

/-- What `State.dmaWrite` keeps. -/
theorem State.dmaWrite_keeps {a s : State} (h : Keeps a s) (fl : Flight) (addr : Nat) (bs : List Byte) :
    Keeps a (State.dmaWrite s fl addr bs) := by
  unfold State.dmaWrite
  repeat'
    first
    | with_reducible assumption
    | with_reducible refine State.setWait_keeps ?_ _ _
    | with_reducible refine State.emit_keeps ?_ _
    | (extract_lets +onlyGivenNames x; refine (fun (hx : Keeps a x) => ?_) ?_; clear_value x; rotate_left; simp only [x])
    | (extract_lets +onlyGivenNames x; refine (fun (hx : Keeps a x) => ?_) ?_; rotate_left; simp only [x])
    | (extract_lets +onlyGivenNames x; clear_value x)
    | extract_lets +onlyGivenNames x
    | split
    | (simp only [keeps_mk]; refine KeepsMk.same rfl ?_ rfl rfl rfl rfl rfl rfl rfl rfl rfl rfl rfl)

/-- What `State.dmaRead` keeps. -/
theorem State.dmaRead_keeps {a s : State} (h : Keeps a s) (fl : Flight) (addr : Nat) (len : Nat) (relaxed : Bool) (aux : List Nat) :
    Keeps a (State.dmaRead s fl addr len relaxed aux) := by
  unfold State.dmaRead
  repeat'
    first
    | with_reducible assumption
    | with_reducible refine State.setWait_keeps ?_ _ _
    | with_reducible refine State.emit_keeps ?_ _
    | (extract_lets +onlyGivenNames x; refine (fun (hx : Keeps a x) => ?_) ?_; clear_value x; rotate_left; simp only [x])
    | (extract_lets +onlyGivenNames x; refine (fun (hx : Keeps a x) => ?_) ?_; rotate_left; simp only [x])
    | (extract_lets +onlyGivenNames x; clear_value x)
    | extract_lets +onlyGivenNames x
    | split
    | (simp only [keeps_mk]; refine KeepsMk.same rfl ?_ rfl rfl rfl rfl rfl rfl rfl rfl rfl rfl rfl)

/-- What `bodyNop` keeps. -/
theorem bodyNop_keeps {a s : State} (h : Keeps a s) (fl : Flight) :
    Keeps a (bodyNop s fl) := by
  unfold bodyNop
  repeat'
    first
    | with_reducible assumption
    | with_reducible refine State.endWith_keeps ?_ _ _ _

/-- What `bodyFunctionInfo` keeps. -/
theorem bodyFunctionInfo_keeps {a s : State} (h : Keeps a s) (fl : Flight) :
    Keeps a (bodyFunctionInfo s fl) := by
  unfold bodyFunctionInfo
  repeat'
    first
    | with_reducible assumption
    | with_reducible refine State.dmaWrite_keeps ?_ _ _ _

/-- What `bodySyncSignal` keeps. -/
theorem bodySyncSignal_keeps {a s : State} (h : Keeps a s) (fl : Flight) :
    Keeps a (bodySyncSignal s fl) := by
  unfold bodySyncSignal
  repeat'
    first
    | with_reducible assumption
    | with_reducible refine State.endWith_keeps ?_ _ _ _
    | with_reducible refine State.endPacket_keeps ?_ _ _
    | with_reducible refine State.setCounter_keeps ?_ _ _ _
    | (extract_lets +onlyGivenNames x; refine (fun (hx : Keeps a x) => ?_) ?_; clear_value x; rotate_left; simp only [x])
    | (extract_lets +onlyGivenNames x; refine (fun (hx : Keeps a x) => ?_) ?_; rotate_left; simp only [x])
    | (extract_lets +onlyGivenNames x; refine (fun (hx : Keeps a x.1) => ?_) ?_; clear_value x; rotate_left; simp only [x])
    | (extract_lets +onlyGivenNames x; refine (fun (hx : Keeps a x.1) => ?_) ?_; rotate_left; simp only [x])
    | (extract_lets +onlyGivenNames x; clear_value x)
    | extract_lets +onlyGivenNames x
    | split
    | (simp only [keeps_mk]; refine KeepsMk.same rfl ?_ rfl rfl rfl rfl rfl rfl rfl rfl rfl rfl rfl)

/-- What `bodySyncWait` keeps. -/
theorem bodySyncWait_keeps {a s : State} (h : Keeps a s) (fl : Flight) :
    Keeps a (bodySyncWait s fl) := by
  unfold bodySyncWait
  repeat'
    first
    | with_reducible assumption
    | with_reducible refine State.endWith_keeps ?_ _ _ _
    | with_reducible refine State.endPacket_keeps ?_ _ _
    | with_reducible refine State.setWait_keeps ?_ _ _
    | (extract_lets +onlyGivenNames x; refine (fun (hx : Keeps a x) => ?_) ?_; clear_value x; rotate_left; simp only [x])
    | (extract_lets +onlyGivenNames x; refine (fun (hx : Keeps a x) => ?_) ?_; rotate_left; simp only [x])
    | (extract_lets +onlyGivenNames x; clear_value x)
    | extract_lets +onlyGivenNames x
    | split
    | (simp only [keeps_mk]; refine KeepsMk.same rfl ?_ rfl rfl rfl rfl rfl rfl rfl rfl rfl rfl rfl)

/-- What `bodySyncRead` keeps. -/
theorem bodySyncRead_keeps {a s : State} (h : Keeps a s) (fl : Flight) :
    Keeps a (bodySyncRead s fl) := by
  unfold bodySyncRead
  repeat'
    first
    | with_reducible assumption
    | with_reducible refine State.endWith_keeps ?_ _ _ _
    | with_reducible refine State.endPacket_keeps ?_ _ _
    | (extract_lets +onlyGivenNames x; refine (fun (hx : Keeps a x) => ?_) ?_; clear_value x; rotate_left; simp only [x])
    | (extract_lets +onlyGivenNames x; refine (fun (hx : Keeps a x) => ?_) ?_; rotate_left; simp only [x])
    | (extract_lets +onlyGivenNames x; clear_value x)
    | extract_lets +onlyGivenNames x
    | split
    | (simp only [keeps_mk]; refine KeepsMk.same rfl ?_ rfl rfl rfl rfl rfl rfl rfl rfl rfl rfl rfl)

/-- What `State.replySatisfied` keeps. -/
theorem State.replySatisfied_keeps {a s : State} (h : Keeps a s) :
    Keeps a (State.replySatisfied s) := by
  unfold State.replySatisfied
  repeat'
    first
    | with_reducible assumption
    | with_reducible refine Keeps.fold ?_ _ (fun _ _ _ => ?_) _
    | with_reducible refine State.endPacket_keeps ?_ _ _
    | split
    | (simp only [keeps_mk]; refine KeepsMk.same rfl ?_ rfl rfl rfl rfl rfl rfl rfl rfl rfl rfl rfl)

/-- What `State.applySignal` keeps. -/
theorem State.applySignal_keeps {a s : State} (h : Keeps a s) (g : Signal) :
    Keeps a (State.applySignal s g) := by
  unfold State.applySignal
  repeat'
    first
    | with_reducible assumption
    | with_reducible refine State.setCounter_keeps ?_ _ _ _
    | split

/-- What `State.setBuf` keeps. -/
theorem State.setBuf_keeps {a s : State} (h : Keeps a s) (k : Nat) (f : Buf → Buf) :
    Keeps a (State.setBuf s k f) := by
  unfold State.setBuf
  repeat'
    first
    | with_reducible assumption
    | (extract_lets +onlyGivenNames x; refine (fun (hx : Keeps a x) => ?_) ?_; clear_value x; rotate_left; simp only [x])
    | (extract_lets +onlyGivenNames x; refine (fun (hx : Keeps a x) => ?_) ?_; rotate_left; simp only [x])
    | (extract_lets +onlyGivenNames x; clear_value x)
    | extract_lets +onlyGivenNames x
    | (simp only [keeps_mk]; refine KeepsMk.same rfl ?_ rfl rfl rfl rfl rfl rfl rfl rfl rfl rfl rfl)

/-- What `State.countEmpty` keeps. -/
theorem State.countEmpty_keeps {a s : State} (h : Keeps a s) :
    Keeps a (State.countEmpty s) := by
  unfold State.countEmpty
  repeat'
    first
    | with_reducible assumption
    | (extract_lets +onlyGivenNames x; refine (fun (hx : Keeps a x) => ?_) ?_; clear_value x; rotate_left; simp only [x])
    | (extract_lets +onlyGivenNames x; refine (fun (hx : Keeps a x) => ?_) ?_; rotate_left; simp only [x])
    | (extract_lets +onlyGivenNames x; clear_value x)
    | extract_lets +onlyGivenNames x
    | (simp only [keeps_mk]; refine KeepsMk.same rfl ?_ rfl rfl rfl rfl rfl rfl rfl rfl rfl rfl rfl)

/-- What `State.takeDevice` keeps. -/
theorem State.takeDevice_keeps {a s : State} (h : Keeps a s) (k : Nat) :
    Keeps a (State.takeDevice s k) := by
  unfold State.takeDevice
  repeat'
    first
    | with_reducible assumption
    | with_reducible refine State.setBuf_keeps ?_ _ _
    | (extract_lets +onlyGivenNames x; refine (fun (hx : Keeps a x) => ?_) ?_; clear_value x; rotate_left; simp only [x])
    | (extract_lets +onlyGivenNames x; refine (fun (hx : Keeps a x) => ?_) ?_; rotate_left; simp only [x])
    | (extract_lets +onlyGivenNames x; clear_value x)
    | extract_lets +onlyGivenNames x
    | split
    | (simp only [keeps_mk]; refine KeepsMk.same rfl ?_ rfl rfl rfl rfl rfl rfl rfl rfl rfl rfl rfl)

/-- What `State.returnBuf` keeps. -/
theorem State.returnBuf_keeps {a s : State} (h : Keeps a s) (k : Nat) :
    Keeps a (State.returnBuf s k) := by
  unfold State.returnBuf
  repeat'
    first
    | with_reducible assumption
    | with_reducible refine State.setBuf_keeps ?_ _ _
    | split
    | (simp only [keeps_mk]; refine KeepsMk.same rfl ?_ rfl rfl rfl rfl rfl rfl rfl rfl rfl rfl rfl)

/-- What `State.handBuf` keeps. -/
theorem State.handBuf_keeps {a s : State} (h : Keeps a s) (k : Nat) :
    Keeps a (State.handBuf s k) := by
  unfold State.handBuf
  repeat'
    first
    | with_reducible assumption
    | with_reducible refine State.setBuf_keeps ?_ _ _
    | (extract_lets +onlyGivenNames x; refine (fun (hx : Keeps a x) => ?_) ?_; clear_value x; rotate_left; simp only [x])
    | (extract_lets +onlyGivenNames x; refine (fun (hx : Keeps a x) => ?_) ?_; rotate_left; simp only [x])
    | (extract_lets +onlyGivenNames x; clear_value x)
    | extract_lets +onlyGivenNames x
    | split
    | (simp only [keeps_mk]; refine KeepsMk.same rfl ?_ rfl rfl rfl rfl rfl rfl rfl rfl rfl rfl rfl)

/-- What `bodyBinFree` keeps. -/
theorem bodyBinFree_keeps {a s : State} (h : Keeps a s) (fl : Flight) :
    Keeps a (bodyBinFree s fl) := by
  unfold bodyBinFree
  repeat'
    first
    | with_reducible assumption
    | with_reducible refine State.endPacket_keeps ?_ _ _
    | with_reducible refine State.endWith_keeps ?_ _ _ _
    | with_reducible refine State.returnBuf_keeps ?_ _
    | (extract_lets +onlyGivenNames x; refine (fun (hx : Keeps a x) => ?_) ?_; clear_value x; rotate_left; simp only [x])
    | (extract_lets +onlyGivenNames x; refine (fun (hx : Keeps a x) => ?_) ?_; rotate_left; simp only [x])
    | (extract_lets +onlyGivenNames x; clear_value x)
    | extract_lets +onlyGivenNames x
    | split
    | (simp only [keeps_mk]; refine KeepsMk.same rfl ?_ rfl rfl rfl rfl rfl rfl rfl rfl rfl rfl rfl)

/-- What `bodyBinShare` keeps. -/
theorem bodyBinShare_keeps {a s : State} (h : Keeps a s) (fl : Flight) :
    Keeps a (bodyBinShare s fl) := by
  unfold bodyBinShare
  repeat'
    first
    | with_reducible assumption
    | with_reducible refine State.endPacket_keeps ?_ _ _
    | with_reducible refine State.endWith_keeps ?_ _ _ _
    | with_reducible refine State.setBuf_keeps ?_ _ _
    | (extract_lets +onlyGivenNames x; refine (fun (hx : Keeps a x) => ?_) ?_; clear_value x; rotate_left; simp only [x])
    | (extract_lets +onlyGivenNames x; refine (fun (hx : Keeps a x) => ?_) ?_; rotate_left; simp only [x])
    | (extract_lets +onlyGivenNames x; clear_value x)
    | extract_lets +onlyGivenNames x
    | split
    | (simp only [keeps_mk]; refine KeepsMk.same rfl ?_ rfl rfl rfl rfl rfl rfl rfl rfl rfl rfl rfl)

/-- What `bodyBinCount` keeps. -/
theorem bodyBinCount_keeps {a s : State} (h : Keeps a s) (fl : Flight) :
    Keeps a (bodyBinCount s fl) := by
  unfold bodyBinCount
  repeat'
    first
    | with_reducible assumption
    | with_reducible refine State.endPacket_keeps ?_ _ _
    | with_reducible exact hff _
    | (extract_lets +onlyGivenNames ff; refine (fun (hff : ∀ c, Keeps a (ff c)) => ?_) (fun c => ?_); clear_value ff; rotate_left; simp only [ff])
    | (extract_lets +onlyGivenNames x; refine (fun (hx : Keeps a x) => ?_) ?_; clear_value x; rotate_left; simp only [x])
    | (extract_lets +onlyGivenNames x; refine (fun (hx : Keeps a x) => ?_) ?_; rotate_left; simp only [x])
    | extract_lets +onlyGivenNames x
    | split
    | (simp only [keeps_mk]; refine KeepsMk.same rfl ?_ rfl rfl rfl rfl rfl rfl rfl rfl rfl rfl rfl)

/-- What `bodyBinTake` keeps. -/
theorem bodyBinTake_keeps {a s : State} (h : Keeps a s) (fl : Flight) :
    Keeps a (bodyBinTake s fl) := by
  unfold bodyBinTake
  repeat'
    first
    | with_reducible assumption
    | with_reducible refine State.endWith_keeps ?_ _ _ _
    | with_reducible refine State.countEmpty_keeps ?_
    | with_reducible refine State.endPacket_keeps ?_ _ _
    | with_reducible refine State.handBuf_keeps ?_ _
    | (extract_lets +onlyGivenNames x; refine (fun (hx : Keeps a x) => ?_) ?_; clear_value x; rotate_left; simp only [x])
    | (extract_lets +onlyGivenNames x; refine (fun (hx : Keeps a x) => ?_) ?_; rotate_left; simp only [x])
    | (extract_lets +onlyGivenNames x; clear_value x)
    | extract_lets +onlyGivenNames x
    | split
    | (simp only [keeps_mk]; refine KeepsMk.same rfl ?_ rfl rfl rfl rfl rfl rfl rfl rfl rfl rfl rfl)

/-- What `bodyDmaIn` keeps. -/
theorem bodyDmaIn_keeps {a s : State} (h : Keeps a s) (fl : Flight) :
    Keeps a (bodyDmaIn s fl) := by
  unfold bodyDmaIn
  repeat'
    first
    | with_reducible assumption
    | with_reducible refine State.endPacket_keeps ?_ _ _
    | with_reducible refine State.dmaRead_keeps ?_ _ _ _ _ _
    | (extract_lets +onlyGivenNames x; refine (fun (hx : Keeps a x) => ?_) ?_; clear_value x; rotate_left; simp only [x])
    | (extract_lets +onlyGivenNames x; refine (fun (hx : Keeps a x) => ?_) ?_; rotate_left; simp only [x])
    | (extract_lets +onlyGivenNames x; clear_value x)
    | extract_lets +onlyGivenNames x
    | split
    | (simp only [keeps_mk]; refine KeepsMk.same rfl ?_ rfl rfl rfl rfl rfl rfl rfl rfl rfl rfl rfl)

/-- What `doneDmaIn` keeps. -/
theorem doneDmaIn_keeps {a0 s : State} (h0 : Keeps a0 s) (fl : Flight) (data : List Byte) :
    Keeps a0 (doneDmaIn s fl data) := by
  unfold doneDmaIn
  repeat'
    first
    | with_reducible assumption
    | with_reducible refine Keeps.of_eq (by assumption) ?_
    | with_reducible refine State.writeOutside_keeps ?_ _ _
    | with_reducible refine State.charge_keeps ?_ _ _ _
    | with_reducible refine State.dramTraffic_keeps ?_ _ _ _ _ _ _
    | with_reducible refine State.endPacket_keeps ?_ _ _
    | (extract_lets +onlyGivenNames x; refine (fun (hx : Keeps a0 x) => ?_) ?_; clear_value x; rotate_left; simp only [x])
    | (extract_lets +onlyGivenNames x; refine (fun (hx : Keeps a0 x) => ?_) ?_; rotate_left; simp only [x])
    | (extract_lets +onlyGivenNames x; refine (fun (hx : Keeps a0 x.1) => ?_) ?_; clear_value x; rotate_left; simp only [x])
    | (extract_lets +onlyGivenNames x; refine (fun (hx : Keeps a0 x.1) => ?_) ?_; rotate_left; simp only [x])
    | (extract_lets +onlyGivenNames x; clear_value x)
    | extract_lets +onlyGivenNames x
    | split
    | dsimp only
    | (simp only [keeps_mk]; refine KeepsMk.same rfl ?_ rfl rfl rfl rfl rfl rfl rfl rfl rfl rfl rfl)

/-- What `State.dmaOutFrom` keeps. -/
theorem State.dmaOutFrom_keeps {a0 s : State} (h : Keeps a0 s) (fl : Flight) (base : Nat) (a : Nat) (n : Nat) :
    Keeps a0 (State.dmaOutFrom s fl base a n) := by
  unfold State.dmaOutFrom
  repeat'
    first
    | with_reducible assumption
    | with_reducible refine State.setWait_keeps ?_ _ _
    | with_reducible refine State.dmaWrite_keeps ?_ _ _ _
    | with_reducible refine State.endPacket_keeps ?_ _ _
    | with_reducible refine State.emit_keeps ?_ _
    | (extract_lets +onlyGivenNames x; refine (fun (hx : Keeps a0 x) => ?_) ?_; clear_value x; rotate_left; simp only [x])
    | (extract_lets +onlyGivenNames x; refine (fun (hx : Keeps a0 x) => ?_) ?_; rotate_left; simp only [x])
    | (extract_lets +onlyGivenNames x; clear_value x)
    | extract_lets +onlyGivenNames x
    | split
    | (simp only [keeps_mk]; refine KeepsMk.same rfl ?_ rfl rfl rfl rfl rfl rfl rfl rfl rfl rfl rfl)

/-- What `bodyDmaOut` keeps. -/
theorem bodyDmaOut_keeps {a s : State} (h : Keeps a s) (fl : Flight) :
    Keeps a (bodyDmaOut s fl) := by
  unfold bodyDmaOut
  repeat'
    first
    | with_reducible assumption
    | with_reducible refine State.endPacket_keeps ?_ _ _
    | with_reducible refine State.dmaOutFrom_keeps ?_ _ _ _ _
    | (extract_lets +onlyGivenNames x; refine (fun (hx : Keeps a x) => ?_) ?_; clear_value x; rotate_left; simp only [x])
    | (extract_lets +onlyGivenNames x; refine (fun (hx : Keeps a x) => ?_) ?_; rotate_left; simp only [x])
    | (extract_lets +onlyGivenNames x; clear_value x)
    | extract_lets +onlyGivenNames x
    | split
    | (simp only [keeps_mk]; refine KeepsMk.same rfl ?_ rfl rfl rfl rfl rfl rfl rfl rfl rfl rfl rfl)

/-- What `doneDmaOut` keeps. -/
theorem doneDmaOut_keeps {a0 s : State} (h0 : Keeps a0 s) (fl : Flight) :
    Keeps a0 (doneDmaOut s fl) := by
  unfold doneDmaOut
  repeat'
    first
    | with_reducible assumption
    | with_reducible refine Keeps.of_eq (by assumption) ?_
    | with_reducible refine State.charge_keeps ?_ _ _ _
    | with_reducible refine State.dramTraffic_keeps ?_ _ _ _ _ _ _
    | with_reducible refine State.endPacket_keeps ?_ _ _
    | (extract_lets +onlyGivenNames x; refine (fun (hx : Keeps a0 x) => ?_) ?_; clear_value x; rotate_left; simp only [x])
    | (extract_lets +onlyGivenNames x; refine (fun (hx : Keeps a0 x) => ?_) ?_; rotate_left; simp only [x])
    | (extract_lets +onlyGivenNames x; refine (fun (hx : Keeps a0 x.1) => ?_) ?_; clear_value x; rotate_left; simp only [x])
    | (extract_lets +onlyGivenNames x; refine (fun (hx : Keeps a0 x.1) => ?_) ?_; rotate_left; simp only [x])
    | (extract_lets +onlyGivenNames x; clear_value x)
    | extract_lets +onlyGivenNames x
    | split
    | dsimp only
    | (simp only [keeps_mk]; refine KeepsMk.same rfl ?_ rfl rfl rfl rfl rfl rfl rfl rfl rfl rfl rfl)

end Sys2Proof.Machine
end

