-- ==== Sys2Proof/Laws/KeepCellar.lean ====
section
/-! SUPPORT. What the operations of Machine/Cellar.lean keep, one lemma for each. -/

namespace Sys2Proof.Machine

set_option linter.unusedTactic false
set_option linter.unreachableTactic false
set_option linter.unusedVariables false
set_option linter.unusedSimpArgs false

/-- What `State.ownCore` keeps. -/
theorem State.ownCore_keeps {a0 s : State} (h0 : Keeps a0 s) (p : Nat) (n : Nat) :
    Keeps a0 (State.ownCore s p n) := by
  unfold State.ownCore
  repeat'
    first
    | with_reducible assumption
    | with_reducible refine Keeps.of_eq (by assumption) ?_
    | with_reducible refine State.setCore_keeps ?_ _ _
    | (extract_lets +onlyGivenNames x; refine (fun (hx : Keeps a0 x) => ?_) ?_; clear_value x; rotate_left; simp only [x])
    | (extract_lets +onlyGivenNames x; refine (fun (hx : Keeps a0 x) => ?_) ?_; rotate_left; simp only [x])
    | (extract_lets +onlyGivenNames x; refine (fun (hx : Keeps a0 x.1) => ?_) ?_; clear_value x; rotate_left; simp only [x])
    | (extract_lets +onlyGivenNames x; refine (fun (hx : Keeps a0 x.1) => ?_) ?_; rotate_left; simp only [x])
    | (extract_lets +onlyGivenNames x; clear_value x)
    | extract_lets +onlyGivenNames x
    | split
    | dsimp only
    | (simp only [keeps_mk]; refine KeepsMk.same rfl ?_ rfl rfl rfl rfl rfl rfl rfl rfl rfl rfl rfl)

/-- What `State.belowMinUpdate` keeps. -/
theorem State.belowMinUpdate_keeps {a s : State} (h : Keeps a s) (p : Nat) :
    Keeps a (State.belowMinUpdate s p) := by
  unfold State.belowMinUpdate
  repeat'
    first
    | with_reducible assumption
    | with_reducible refine State.celEvent_keeps ?_ _ _ _ _ _
    | with_reducible refine State.setPart_keeps ?_ _ _
    | (extract_lets +onlyGivenNames x; refine (fun (hx : Keeps a x) => ?_) ?_; clear_value x; rotate_left; simp only [x])
    | (extract_lets +onlyGivenNames x; refine (fun (hx : Keeps a x) => ?_) ?_; rotate_left; simp only [x])
    | (extract_lets +onlyGivenNames x; clear_value x)
    | extract_lets +onlyGivenNames x
    | split
    | (simp only [keeps_mk]; refine KeepsMk.same rfl ?_ rfl rfl rfl rfl rfl rfl rfl rfl rfl rfl rfl)

/-- What `State.setRun` keeps. -/
theorem State.setRun_keeps {a s : State} (h : Keeps a s) (r : Nat) (f : Run → Run) :
    Keeps a (State.setRun s r f) := by
  unfold State.setRun
  repeat'
    first
    | with_reducible assumption
    | (extract_lets +onlyGivenNames x; refine (fun (hx : Keeps a x) => ?_) ?_; clear_value x; rotate_left; simp only [x])
    | (extract_lets +onlyGivenNames x; refine (fun (hx : Keeps a x) => ?_) ?_; rotate_left; simp only [x])
    | (extract_lets +onlyGivenNames x; clear_value x)
    | extract_lets +onlyGivenNames x
    | (simp only [keeps_mk]; refine KeepsMk.same rfl ?_ rfl rfl rfl rfl rfl rfl rfl rfl rfl rfl rfl)

/-- What `State.setQuire` keeps. -/
theorem State.setQuire_keeps {a s : State} (h : Keeps a s) (r : Nat) (q : Nat) (st : QStat) :
    Keeps a (State.setQuire s r q st) := by
  unfold State.setQuire
  repeat'
    first
    | with_reducible assumption
    | with_reducible refine State.setRun_keeps ?_ _ _
    | (extract_lets +onlyGivenNames x; refine (fun (hx : Keeps a x) => ?_) ?_; clear_value x; rotate_left; simp only [x])
    | (extract_lets +onlyGivenNames x; refine (fun (hx : Keeps a x) => ?_) ?_; rotate_left; simp only [x])
    | (extract_lets +onlyGivenNames x; clear_value x)
    | extract_lets +onlyGivenNames x
    | split
    | (simp only [keeps_mk]; refine KeepsMk.same rfl ?_ rfl rfl rfl rfl rfl rfl rfl rfl rfl rfl rfl)

/-- What `State.returnQuire` keeps. -/
theorem State.returnQuire_keeps {a s : State} (h : Keeps a s) (r : Nat) (q : Nat) :
    Keeps a (State.returnQuire s r q) := by
  unfold State.returnQuire
  repeat'
    first
    | with_reducible assumption
    | with_reducible refine State.setRun_keeps ?_ _ _
    | (extract_lets +onlyGivenNames x; refine (fun (hx : Keeps a x) => ?_) ?_; clear_value x; rotate_left; simp only [x])
    | (extract_lets +onlyGivenNames x; refine (fun (hx : Keeps a x) => ?_) ?_; rotate_left; simp only [x])
    | (extract_lets +onlyGivenNames x; clear_value x)
    | extract_lets +onlyGivenNames x
    | split
    | (simp only [keeps_mk]; refine KeepsMk.same rfl ?_ rfl rfl rfl rfl rfl rfl rfl rfl rfl rfl rfl)

/-- What `State.returnQueue` keeps. -/
theorem State.returnQueue_keeps {a s : State} (h : Keeps a s) (n : Nat) :
    Keeps a (State.returnQueue s n) := by
  unfold State.returnQueue
  repeat'
    first
    | with_reducible assumption
    | with_reducible refine Keeps.fold ?_ _ (fun _ _ _ => ?_) _
    | with_reducible refine State.returnQuire_keeps ?_ _ _
    | with_reducible refine State.setCore_keeps ?_ _ _
    | (extract_lets +onlyGivenNames x; refine (fun (hx : Keeps a x) => ?_) ?_; clear_value x; rotate_left; simp only [x])
    | (extract_lets +onlyGivenNames x; refine (fun (hx : Keeps a x) => ?_) ?_; rotate_left; simp only [x])
    | (extract_lets +onlyGivenNames x; refine (fun (hx : Keeps a x.1) => ?_) ?_; clear_value x; rotate_left; simp only [x])
    | (extract_lets +onlyGivenNames x; refine (fun (hx : Keeps a x.1) => ?_) ?_; rotate_left; simp only [x])
    | (extract_lets +onlyGivenNames x; clear_value x)
    | extract_lets +onlyGivenNames x
    | split
    | (simp only [keeps_mk]; refine KeepsMk.same rfl ?_ rfl rfl rfl rfl rfl rfl rfl rfl rfl rfl rfl)

/-- What `State.undoQuire` keeps. -/
theorem State.undoQuire_keeps {a0 s : State} (h0 : Keeps a0 s) (n : Nat) :
    Keeps a0 (State.undoQuire s n) := by
  unfold State.undoQuire
  repeat'
    first
    | with_reducible assumption
    | with_reducible refine Keeps.fold ?_ _ (fun _ _ _ => ?_) _
    | with_reducible refine Keeps.foldPair ?_ _ (fun _ _ _ => ?_) _
    | with_reducible refine Keeps.of_eq (by assumption) ?_
    | with_reducible refine State.writeMem_keeps ?_ _ _
    | with_reducible refine State.setPoison_keeps ?_ _ _
    | with_reducible refine State.scrub_keeps ?_ _ _
    | with_reducible refine State.setCore_keeps ?_ _ _
    | (extract_lets +onlyGivenNames x; refine (fun (hx : Keeps a0 x) => ?_) ?_; clear_value x; rotate_left; simp only [x])
    | (extract_lets +onlyGivenNames x; refine (fun (hx : Keeps a0 x) => ?_) ?_; rotate_left; simp only [x])
    | (extract_lets +onlyGivenNames x; refine (fun (hx : Keeps a0 x.1) => ?_) ?_; clear_value x; rotate_left; simp only [x])
    | (extract_lets +onlyGivenNames x; refine (fun (hx : Keeps a0 x.1) => ?_) ?_; rotate_left; simp only [x])
    | (extract_lets +onlyGivenNames x; have _g : Mem := x)
    | (extract_lets +onlyGivenNames x; clear_value x)
    | extract_lets +onlyGivenNames x
    | split
    | dsimp only
    | (simp only [keeps_mk]; refine KeepsMk.same rfl ?_ rfl rfl rfl rfl rfl rfl rfl rfl rfl rfl rfl)

/-- What `State.stopQuire` keeps. -/
theorem State.stopQuire_keeps {a0 s : State} (h0 : Keeps a0 s) (n : Nat) (outcome : Nat) :
    Keeps a0 (State.stopQuire s n outcome) := by
  unfold State.stopQuire
  repeat'
    first
    | with_reducible assumption
    | with_reducible refine Keeps.of_eq (by assumption) ?_
    | with_reducible refine State.undoQuire_keeps ?_ _
    | with_reducible refine State.setCore_keeps ?_ _ _
    | (extract_lets +onlyGivenNames x; refine (fun (hx : Keeps a0 x) => ?_) ?_; clear_value x; rotate_left; simp only [x])
    | (extract_lets +onlyGivenNames x; refine (fun (hx : Keeps a0 x) => ?_) ?_; rotate_left; simp only [x])
    | (extract_lets +onlyGivenNames x; refine (fun (hx : Keeps a0 x.1) => ?_) ?_; clear_value x; rotate_left; simp only [x])
    | (extract_lets +onlyGivenNames x; refine (fun (hx : Keeps a0 x.1) => ?_) ?_; rotate_left; simp only [x])
    | (extract_lets +onlyGivenNames x; clear_value x)
    | extract_lets +onlyGivenNames x
    | split
    | dsimp only
    | (simp only [keeps_mk]; refine KeepsMk.same rfl ?_ rfl rfl rfl rfl rfl rfl rfl rfl rfl rfl rfl)

/-- What `State.abandonQuire` keeps. -/
theorem State.abandonQuire_keeps {a0 s : State} (h0 : Keeps a0 s) (n : Nat) :
    Keeps a0 (State.abandonQuire s n) := by
  unfold State.abandonQuire
  repeat'
    first
    | with_reducible assumption
    | with_reducible refine Keeps.of_eq (by assumption) ?_
    | with_reducible refine State.stopQuire_keeps ?_ _ _
    | with_reducible refine State.setCore_keeps ?_ _ _
    | (extract_lets +onlyGivenNames x; refine (fun (hx : Keeps a0 x) => ?_) ?_; clear_value x; rotate_left; simp only [x])
    | (extract_lets +onlyGivenNames x; refine (fun (hx : Keeps a0 x) => ?_) ?_; rotate_left; simp only [x])
    | (extract_lets +onlyGivenNames x; refine (fun (hx : Keeps a0 x.1) => ?_) ?_; clear_value x; rotate_left; simp only [x])
    | (extract_lets +onlyGivenNames x; refine (fun (hx : Keeps a0 x.1) => ?_) ?_; rotate_left; simp only [x])
    | (extract_lets +onlyGivenNames x; clear_value x)
    | extract_lets +onlyGivenNames x
    | split
    | dsimp only
    | (simp only [keeps_mk]; refine KeepsMk.same rfl ?_ rfl rfl rfl rfl rfl rfl rfl rfl rfl rfl rfl)

/-- What `State.setTensor` keeps. -/
theorem State.setTensor_keeps {a s : State} (h : Keeps a s) (k : Nat) (f : Tensor → Tensor) :
    Keeps a (State.setTensor s k f) := by
  unfold State.setTensor
  repeat'
    first
    | with_reducible assumption
    | (extract_lets +onlyGivenNames x; refine (fun (hx : Keeps a x) => ?_) ?_; clear_value x; rotate_left; simp only [x])
    | (extract_lets +onlyGivenNames x; refine (fun (hx : Keeps a x) => ?_) ?_; rotate_left; simp only [x])
    | (extract_lets +onlyGivenNames x; clear_value x)
    | extract_lets +onlyGivenNames x
    | (simp only [keeps_mk]; refine KeepsMk.same rfl ?_ rfl rfl rfl rfl rfl rfl rfl rfl rfl rfl rfl)

/-- What `State.newTensor` keeps. -/
theorem State.newTensor_keeps {a s : State} (h : Keeps a s) (t : Tensor) :
    Keeps a (State.newTensor s t) := by
  unfold State.newTensor
  repeat'
    first
    | with_reducible assumption
    | (extract_lets +onlyGivenNames x; refine (fun (hx : Keeps a x) => ?_) ?_; clear_value x; rotate_left; simp only [x])
    | (extract_lets +onlyGivenNames x; refine (fun (hx : Keeps a x) => ?_) ?_; rotate_left; simp only [x])
    | (extract_lets +onlyGivenNames x; clear_value x)
    | extract_lets +onlyGivenNames x
    | (simp only [keeps_mk]; refine KeepsMk.same rfl ?_ rfl rfl rfl rfl rfl rfl rfl rfl rfl rfl rfl)

/-- What `State.freeTensor` keeps. -/
theorem State.freeTensor_keeps {a s : State} (h : Keeps a s) (k : Nat) :
    Keeps a (State.freeTensor s k) := by
  unfold State.freeTensor
  repeat'
    first
    | with_reducible assumption
    | with_reducible refine State.setCore_keeps ?_ _ _
    | with_reducible refine State.scrub_keeps ?_ _ _
    | (extract_lets +onlyGivenNames x; refine (fun (hx : Keeps a x) => ?_) ?_; clear_value x; rotate_left; simp only [x])
    | (extract_lets +onlyGivenNames x; refine (fun (hx : Keeps a x) => ?_) ?_; rotate_left; simp only [x])
    | (extract_lets +onlyGivenNames x; refine (fun (hx : Keeps a x.1) => ?_) ?_; clear_value x; rotate_left; simp only [x])
    | (extract_lets +onlyGivenNames x; refine (fun (hx : Keeps a x.1) => ?_) ?_; rotate_left; simp only [x])
    | (extract_lets +onlyGivenNames x; have _g : Mem := x)
    | (extract_lets +onlyGivenNames x; clear_value x)
    | extract_lets +onlyGivenNames x
    | split
    | (simp only [keeps_mk]; refine KeepsMk.same rfl ?_ rfl rfl rfl rfl rfl rfl rfl rfl rfl rfl rfl)

/-- What `State.freeTensors` keeps. -/
theorem State.freeTensors_keeps {a s : State} (h : Keeps a s) (pick : Tensor → Bool) :
    Keeps a (State.freeTensors s pick) := by
  unfold State.freeTensors
  repeat'
    first
    | with_reducible assumption
    | with_reducible refine Keeps.fold ?_ _ (fun _ _ _ => ?_) _
    | with_reducible refine State.freeTensor_keeps ?_ _
    | split

/-- What `State.chargeBatch` keeps. -/
theorem State.chargeBatch_keeps {a s : State} (h : Keeps a s) (p : Nat) (counter : Nat) (k : Nat) (clients : List Nat) :
    Keeps a (State.chargeBatch s p counter k clients) := by
  unfold State.chargeBatch
  repeat'
    first
    | with_reducible assumption
    | with_reducible refine Keeps.fold ?_ _ (fun _ _ _ => ?_) _
    | with_reducible refine State.charge_keeps ?_ _ _ _
    | (extract_lets +onlyGivenNames x; refine (fun (hx : Keeps a x) => ?_) ?_; clear_value x; rotate_left; simp only [x])
    | (extract_lets +onlyGivenNames x; refine (fun (hx : Keeps a x) => ?_) ?_; rotate_left; simp only [x])
    | (extract_lets +onlyGivenNames x; refine (fun (hx : Keeps a x.1) => ?_) ?_; clear_value x; rotate_left; simp only [x])
    | (extract_lets +onlyGivenNames x; refine (fun (hx : Keeps a x.1) => ?_) ?_; rotate_left; simp only [x])
    | (extract_lets +onlyGivenNames x; clear_value x)
    | extract_lets +onlyGivenNames x
    | split

/-- What `State.busyBatch` keeps. -/
theorem State.busyBatch_keeps {a0 s : State} (h0 : Keeps a0 s) (doms : List Nat) (p : Nat) (k : Nat) (clients : List Nat) :
    Keeps a0 (State.busyBatch s doms p k clients) := by
  unfold State.busyBatch
  repeat'
    first
    | with_reducible assumption
    | with_reducible refine Keeps.fold ?_ _ (fun _ _ _ => ?_) _
    | with_reducible refine Keeps.foldPair ?_ _ (fun _ _ _ => ?_) _
    | with_reducible refine Keeps.of_eq (by assumption) ?_
    | with_reducible refine State.busyAt_keeps ?_ _ _ _
    | (extract_lets +onlyGivenNames x; refine (fun (hx : Keeps a0 x) => ?_) ?_; clear_value x; rotate_left; simp only [x])
    | (extract_lets +onlyGivenNames x; refine (fun (hx : Keeps a0 x) => ?_) ?_; rotate_left; simp only [x])
    | (extract_lets +onlyGivenNames x; refine (fun (hx : Keeps a0 x.1) => ?_) ?_; clear_value x; rotate_left; simp only [x])
    | (extract_lets +onlyGivenNames x; refine (fun (hx : Keeps a0 x.1) => ?_) ?_; rotate_left; simp only [x])
    | (extract_lets +onlyGivenNames x; clear_value x)
    | extract_lets +onlyGivenNames x
    | split
    | dsimp only
    | (simp only [keeps_mk]; refine KeepsMk.same rfl ?_ rfl rfl rfl rfl rfl rfl rfl rfl rfl rfl rfl)

/-- What `State.chargeMove` keeps. -/
theorem State.chargeMove_keeps {a0 s : State} (h0 : Keeps a0 s) (who : Nat) (clients : List Nat) (src : HomeKind) (dst : HomeKind) (n : Nat) :
    Keeps a0 (State.chargeMove s who clients src dst n) := by
  unfold State.chargeMove
  repeat'
    first
    | with_reducible assumption
    | with_reducible refine Keeps.of_eq (by assumption) ?_
    | with_reducible refine State.chargeBatch_keeps ?_ _ _ _ _
    | (extract_lets +onlyGivenNames x; refine (fun (hx : Keeps a0 x) => ?_) ?_; clear_value x; rotate_left; simp only [x])
    | (extract_lets +onlyGivenNames x; refine (fun (hx : Keeps a0 x) => ?_) ?_; rotate_left; simp only [x])
    | (extract_lets +onlyGivenNames x; refine (fun (hx : Keeps a0 x.1) => ?_) ?_; clear_value x; rotate_left; simp only [x])
    | (extract_lets +onlyGivenNames x; refine (fun (hx : Keeps a0 x.1) => ?_) ?_; rotate_left; simp only [x])
    | (extract_lets +onlyGivenNames x; clear_value x)
    | extract_lets +onlyGivenNames x
    | split
    | dsimp only
    | (simp only [keeps_mk]; refine KeepsMk.same rfl ?_ rfl rfl rfl rfl rfl rfl rfl rfl rfl rfl rfl)

/-- What `State.chargeScrub` keeps. -/
theorem State.chargeScrub_keeps {a0 s : State} (h0 : Keeps a0 s) (who : Nat) (n : Nat) :
    Keeps a0 (State.chargeScrub s who n) := by
  unfold State.chargeScrub
  repeat'
    first
    | with_reducible assumption
    | with_reducible refine Keeps.of_eq (by assumption) ?_
    | with_reducible refine State.charge_keeps ?_ _ _ _
    | (extract_lets +onlyGivenNames x; refine (fun (hx : Keeps a0 x) => ?_) ?_; clear_value x; rotate_left; simp only [x])
    | (extract_lets +onlyGivenNames x; refine (fun (hx : Keeps a0 x) => ?_) ?_; rotate_left; simp only [x])
    | (extract_lets +onlyGivenNames x; refine (fun (hx : Keeps a0 x.1) => ?_) ?_; clear_value x; rotate_left; simp only [x])
    | (extract_lets +onlyGivenNames x; refine (fun (hx : Keeps a0 x.1) => ?_) ?_; rotate_left; simp only [x])
    | (extract_lets +onlyGivenNames x; clear_value x)
    | extract_lets +onlyGivenNames x
    | split
    | dsimp only
    | (simp only [keeps_mk]; refine KeepsMk.same rfl ?_ rfl rfl rfl rfl rfl rfl rfl rfl rfl rfl rfl)

/-- What `State.copyData` keeps. -/
theorem State.copyData_keeps {a0 s : State} (h0 : Keeps a0 s) (src : Nat) (n : Nat) (dst : Nat) :
    Keeps a0 (State.copyData s src n dst) := by
  unfold State.copyData
  repeat'
    first
    | with_reducible assumption
    | with_reducible refine Keeps.fold ?_ _ (fun _ _ _ => ?_) _
    | with_reducible refine Keeps.foldPair ?_ _ (fun _ _ _ => ?_) _
    | with_reducible refine Keeps.of_eq (by assumption) ?_
    | with_reducible refine State.writeMem_keeps ?_ _ _
    | with_reducible refine State.setPoison_keeps ?_ _ _
    | (extract_lets +onlyGivenNames x; refine (fun (hx : Keeps a0 x) => ?_) ?_; clear_value x; rotate_left; simp only [x])
    | (extract_lets +onlyGivenNames x; refine (fun (hx : Keeps a0 x) => ?_) ?_; rotate_left; simp only [x])
    | (extract_lets +onlyGivenNames x; refine (fun (hx : Keeps a0 x.1) => ?_) ?_; clear_value x; rotate_left; simp only [x])
    | (extract_lets +onlyGivenNames x; refine (fun (hx : Keeps a0 x.1) => ?_) ?_; rotate_left; simp only [x])
    | (extract_lets +onlyGivenNames x; clear_value x)
    | extract_lets +onlyGivenNames x
    | split
    | dsimp only
    | (simp only [keeps_mk]; refine KeepsMk.same rfl ?_ rfl rfl rfl rfl rfl rfl rfl rfl rfl rfl rfl)

/-- What `State.poisonDecoded` keeps. -/
theorem State.poisonDecoded_keeps {a s : State} (h : Keeps a s) (d : TDecl) (dst : Nat) (bad : List Nat) :
    Keeps a (State.poisonDecoded s d dst bad) := by
  unfold State.poisonDecoded
  repeat'
    first
    | with_reducible assumption
    | with_reducible refine Keeps.fold ?_ _ (fun _ _ _ => ?_) _
    | with_reducible refine State.setPoison_keeps ?_ _ _
    | (extract_lets +onlyGivenNames x; refine (fun (hx : Keeps a x) => ?_) ?_; clear_value x; rotate_left; simp only [x])
    | (extract_lets +onlyGivenNames x; refine (fun (hx : Keeps a x) => ?_) ?_; rotate_left; simp only [x])
    | (extract_lets +onlyGivenNames x; clear_value x)
    | extract_lets +onlyGivenNames x
    | split

/-- What `State.putTensor` keeps. -/
theorem State.putTensor_keeps {a0 s : State} (h0 : Keeps a0 s) (t : Tensor) (dst : HomeKind) (addr : Nat) :
    Keeps a0 (State.putTensor s t dst addr) := by
  unfold State.putTensor
  repeat'
    first
    | with_reducible assumption
    | with_reducible refine Keeps.of_eq (by assumption) ?_
    | with_reducible refine State.writeMem_keeps ?_ _ _
    | with_reducible refine State.poisonDecoded_keeps ?_ _ _ _
    | with_reducible refine State.copyData_keeps ?_ _ _ _
    | (extract_lets +onlyGivenNames x; refine (fun (hx : Keeps a0 x) => ?_) ?_; clear_value x; rotate_left; simp only [x])
    | (extract_lets +onlyGivenNames x; refine (fun (hx : Keeps a0 x) => ?_) ?_; rotate_left; simp only [x])
    | (extract_lets +onlyGivenNames x; refine (fun (hx : Keeps a0 x.1) => ?_) ?_; clear_value x; rotate_left; simp only [x])
    | (extract_lets +onlyGivenNames x; refine (fun (hx : Keeps a0 x.1) => ?_) ?_; rotate_left; simp only [x])
    | (extract_lets +onlyGivenNames x; clear_value x)
    | extract_lets +onlyGivenNames x
    | split
    | dsimp only
    | (simp only [keeps_mk]; refine KeepsMk.same rfl ?_ rfl rfl rfl rfl rfl rfl rfl rfl rfl rfl rfl)

/-- What `State.copyBits` keeps. -/
theorem State.copyBits_keeps {a s : State} (h : Keeps a s) (k : Nat) (t : Tensor) :
    Keeps a (State.copyBits s k t) := by
  unfold State.copyBits
  split
  · exact h
  · exact h.same rfl rfl rfl rfl rfl rfl rfl rfl rfl rfl rfl rfl

/-- What `State.fitBits` keeps. -/
theorem State.fitBits_keeps {a0 s : State} (h0 : Keeps a0 s) (n : Nat) (k : Nat) :
    Keeps a0 (State.fitBits s n k) := by
  unfold State.fitBits
  repeat'
    first
    | with_reducible assumption
    | with_reducible refine Keeps.of_eq (by assumption) ?_
    | with_reducible refine State.setCore_keeps ?_ _ _
    | (extract_lets +onlyGivenNames x; refine (fun (hx : Keeps a0 x) => ?_) ?_; clear_value x; rotate_left; simp only [x])
    | (extract_lets +onlyGivenNames x; refine (fun (hx : Keeps a0 x) => ?_) ?_; rotate_left; simp only [x])
    | (extract_lets +onlyGivenNames x; refine (fun (hx : Keeps a0 x.1) => ?_) ?_; clear_value x; rotate_left; simp only [x])
    | (extract_lets +onlyGivenNames x; refine (fun (hx : Keeps a0 x.1) => ?_) ?_; rotate_left; simp only [x])
    | (extract_lets +onlyGivenNames x; have _g : Mem := x)
    | (extract_lets +onlyGivenNames x; clear_value x)
    | extract_lets +onlyGivenNames x
    | split
    | dsimp only
    | (simp only [keeps_mk]; refine KeepsMk.same rfl ?_ rfl rfl rfl rfl rfl rfl rfl rfl rfl rfl rfl)

/-- What `State.landMove` keeps. -/
theorem State.landMove_keeps {a0 s : State} (h0 : Keeps a0 s) (k : Nat) :
    Keeps a0 (State.landMove s k) := by
  unfold State.landMove
  repeat'
    first
    | with_reducible assumption
    | with_reducible refine Keeps.of_eq (by assumption) ?_
    | with_reducible refine State.putTensor_keeps ?_ _ _ _
    | with_reducible refine State.chargeMove_keeps ?_ _ _ _ _ _
    | with_reducible refine State.charge_keeps ?_ _ _ _
    | with_reducible refine State.copyBits_keeps ?_ _ _
    | with_reducible refine State.setTensor_keeps ?_ _ _
    | with_reducible refine State.fitBits_keeps ?_ _ _
    | with_reducible refine State.scrub_keeps ?_ _ _
    | with_reducible refine State.setCore_keeps ?_ _ _
    | (extract_lets +onlyGivenNames x; refine (fun (hx : Keeps a0 x) => ?_) ?_; clear_value x; rotate_left; simp only [x])
    | (extract_lets +onlyGivenNames x; refine (fun (hx : Keeps a0 x) => ?_) ?_; rotate_left; simp only [x])
    | (extract_lets +onlyGivenNames x; refine (fun (hx : Keeps a0 x.1) => ?_) ?_; clear_value x; rotate_left; simp only [x])
    | (extract_lets +onlyGivenNames x; refine (fun (hx : Keeps a0 x.1) => ?_) ?_; rotate_left; simp only [x])
    | (extract_lets +onlyGivenNames x; clear_value x)
    | extract_lets +onlyGivenNames x
    | split
    | dsimp only
    | (simp only [keeps_mk]; refine KeepsMk.same rfl ?_ rfl rfl rfl rfl rfl rfl rfl rfl rfl rfl rfl)

/-- What `State.stopMove` keeps. -/
theorem State.stopMove_keeps {a0 s : State} (h0 : Keeps a0 s) (k : Nat) :
    Keeps a0 (State.stopMove s k) := by
  unfold State.stopMove
  repeat'
    first
    | with_reducible assumption
    | with_reducible refine Keeps.of_eq (by assumption) ?_
    | with_reducible refine State.setTensor_keeps ?_ _ _
    | (extract_lets +onlyGivenNames x; refine (fun (hx : Keeps a0 x) => ?_) ?_; clear_value x; rotate_left; simp only [x])
    | (extract_lets +onlyGivenNames x; refine (fun (hx : Keeps a0 x) => ?_) ?_; rotate_left; simp only [x])
    | (extract_lets +onlyGivenNames x; refine (fun (hx : Keeps a0 x.1) => ?_) ?_; clear_value x; rotate_left; simp only [x])
    | (extract_lets +onlyGivenNames x; refine (fun (hx : Keeps a0 x.1) => ?_) ?_; rotate_left; simp only [x])
    | (extract_lets +onlyGivenNames x; clear_value x)
    | extract_lets +onlyGivenNames x
    | split
    | dsimp only
    | (simp only [keeps_mk]; refine KeepsMk.same rfl ?_ rfl rfl rfl rfl rfl rfl rfl rfl rfl rfl rfl)

/-- What `State.stopMoves` keeps. -/
theorem State.stopMoves_keeps {a0 s : State} (h0 : Keeps a0 s) (pick : Tensor → HomeKind → Bool) :
    Keeps a0 (State.stopMoves s pick) := by
  unfold State.stopMoves
  repeat'
    first
    | with_reducible assumption
    | with_reducible refine Keeps.fold ?_ _ (fun _ _ _ => ?_) _
    | with_reducible refine Keeps.foldPair ?_ _ (fun _ _ _ => ?_) _
    | with_reducible refine Keeps.of_eq (by assumption) ?_
    | with_reducible refine State.stopMove_keeps ?_ _
    | (extract_lets +onlyGivenNames x; refine (fun (hx : Keeps a0 x) => ?_) ?_; clear_value x; rotate_left; simp only [x])
    | (extract_lets +onlyGivenNames x; refine (fun (hx : Keeps a0 x) => ?_) ?_; rotate_left; simp only [x])
    | (extract_lets +onlyGivenNames x; refine (fun (hx : Keeps a0 x.1) => ?_) ?_; clear_value x; rotate_left; simp only [x])
    | (extract_lets +onlyGivenNames x; refine (fun (hx : Keeps a0 x.1) => ?_) ?_; rotate_left; simp only [x])
    | (extract_lets +onlyGivenNames x; clear_value x)
    | extract_lets +onlyGivenNames x
    | split
    | dsimp only
    | (simp only [keeps_mk]; refine KeepsMk.same rfl ?_ rfl rfl rfl rfl rfl rfl rfl rfl rfl rfl rfl)

/-- What `State.regulate` keeps. -/
theorem State.regulate_keeps {a0 s : State} (h0 : Keeps a0 s) (t : Tensor) (dst : HomeKind) (addr : Nat) (n : Nat) :
    ∀ u y, State.regulate s t dst addr n = (u, y) → Keeps a0 u := by
  have key : Keeps a0 (State.regulate s t dst addr n).1 := by
    unfold State.regulate
    repeat'
      first
      | with_reducible assumption
      | with_reducible refine Keeps.of_eq (by assumption) ?_
      | with_reducible refine State.spendAll_keeps ?_ _ _ _ _ (by assumption)
      | with_reducible refine State.spendAll_keeps ?_ _ _ _ _ Prod.mk.eta.symm
      | (extract_lets +onlyGivenNames x; refine (fun (hx : Keeps a0 x) => ?_) ?_; clear_value x; rotate_left; simp only [x])
      | (extract_lets +onlyGivenNames x; refine (fun (hx : Keeps a0 x) => ?_) ?_; rotate_left; simp only [x])
      | (extract_lets +onlyGivenNames x; refine (fun (hx : Keeps a0 x.1) => ?_) ?_; clear_value x; rotate_left; simp only [x])
      | (extract_lets +onlyGivenNames x; refine (fun (hx : Keeps a0 x.1) => ?_) ?_; rotate_left; simp only [x])
      | (extract_lets +onlyGivenNames x; clear_value x)
      | extract_lets +onlyGivenNames x
      | split
      | dsimp only
      | (simp only [keeps_mk]; refine KeepsMk.same rfl ?_ rfl rfl rfl rfl rfl rfl rfl rfl rfl rfl rfl)
  intro u y hu
  rw [hu] at key
  exact key

/-- What `State.clearCellar` keeps. -/
theorem State.clearCellar_keeps {a0 s : State} (h0 : Keeps a0 s) (p : Nat) (n : Nat) (only : Bool) :
    Keeps a0 (State.clearCellar s p n only) := by
  unfold State.clearCellar
  repeat'
    first
    | with_reducible assumption
    | with_reducible refine Keeps.fold ?_ _ (fun _ _ _ => ?_) _
    | with_reducible refine Keeps.foldPair ?_ _ (fun _ _ _ => ?_) _
    | with_reducible refine Keeps.of_eq (by assumption) ?_
    | with_reducible refine State.freeTensor_keeps ?_ _
    | (extract_lets +onlyGivenNames x; refine (fun (hx : Keeps a0 x) => ?_) ?_; clear_value x; rotate_left; simp only [x])
    | (extract_lets +onlyGivenNames x; refine (fun (hx : Keeps a0 x) => ?_) ?_; rotate_left; simp only [x])
    | (extract_lets +onlyGivenNames x; refine (fun (hx : Keeps a0 x.1) => ?_) ?_; clear_value x; rotate_left; simp only [x])
    | (extract_lets +onlyGivenNames x; refine (fun (hx : Keeps a0 x.1) => ?_) ?_; rotate_left; simp only [x])
    | (extract_lets +onlyGivenNames x; clear_value x)
    | extract_lets +onlyGivenNames x
    | split
    | dsimp only
    | (simp only [keeps_mk]; refine KeepsMk.same rfl ?_ rfl rfl rfl rfl rfl rfl rfl rfl rfl rfl rfl)

/-- What `State.takeCellar` keeps. -/
theorem State.takeCellar_keeps {a0 s : State} (h0 : Keeps a0 s) (p : Nat) (n : Nat) (only : Bool) :
    ∀ u y, State.takeCellar s p n only = (u, y) → Keeps a0 u := by
  have key : Keeps a0 (State.takeCellar s p n only).1 := by
    unfold State.takeCellar
    repeat'
      first
      | with_reducible assumption
      | with_reducible refine Keeps.of_eq (by assumption) ?_
      | with_reducible refine State.clearCellar_keeps ?_ _ _ _
      | (extract_lets +onlyGivenNames x; refine (fun (hx : Keeps a0 x) => ?_) ?_; clear_value x; rotate_left; simp only [x])
      | (extract_lets +onlyGivenNames x; refine (fun (hx : Keeps a0 x) => ?_) ?_; rotate_left; simp only [x])
      | (extract_lets +onlyGivenNames x; refine (fun (hx : Keeps a0 x.1) => ?_) ?_; clear_value x; rotate_left; simp only [x])
      | (extract_lets +onlyGivenNames x; refine (fun (hx : Keeps a0 x.1) => ?_) ?_; rotate_left; simp only [x])
      | (extract_lets +onlyGivenNames x; clear_value x)
      | extract_lets +onlyGivenNames x
      | split
      | dsimp only
      | (simp only [keeps_mk]; refine KeepsMk.same rfl ?_ rfl rfl rfl rfl rfl rfl rfl rfl rfl rfl rfl)
  intro u y hu
  rw [hu] at key
  exact key

/-- What `State.rackAway` keeps. -/
theorem State.rackAway_keeps {a0 s : State} (h0 : Keeps a0 s) (k : Nat) :
    Keeps a0 (State.rackAway s k) := by
  unfold State.rackAway
  repeat'
    first
    | with_reducible assumption
    | with_reducible refine Keeps.of_eq (by assumption) ?_
    | with_reducible refine State.takeCellar_keeps ?_ _ _ _ _ _ (by assumption)
    | with_reducible refine State.takeCellar_keeps ?_ _ _ _ _ _ Prod.mk.eta.symm
    | with_reducible refine State.regulate_keeps ?_ _ _ _ _ _ _ (by assumption)
    | with_reducible refine State.regulate_keeps ?_ _ _ _ _ _ _ Prod.mk.eta.symm
    | with_reducible refine State.setTensor_keeps ?_ _ _
    | with_reducible refine State.landMove_keeps ?_ _
    | (extract_lets +onlyGivenNames x; refine (fun (hx : Keeps a0 x) => ?_) ?_; clear_value x; rotate_left; simp only [x])
    | (extract_lets +onlyGivenNames x; refine (fun (hx : Keeps a0 x) => ?_) ?_; rotate_left; simp only [x])
    | (extract_lets +onlyGivenNames x; refine (fun (hx : Keeps a0 x.1) => ?_) ?_; clear_value x; rotate_left; simp only [x])
    | (extract_lets +onlyGivenNames x; refine (fun (hx : Keeps a0 x.1) => ?_) ?_; rotate_left; simp only [x])
    | (extract_lets +onlyGivenNames x; clear_value x)
    | extract_lets +onlyGivenNames x
    | split
    | dsimp only
    | (simp only [keeps_mk]; refine KeepsMk.same rfl ?_ rfl rfl rfl rfl rfl rfl rfl rfl rfl rfl rfl)

/-- What `State.makeRoom` keeps. -/
theorem State.makeRoom_keeps {a s : State} (h : Keeps a s) (c : Nat) (n : Nat) (l : List Nat) :
    Keeps a (State.makeRoom s c n l) := by
  induction l generalizing s with
  | nil => exact h
  | cons k t ih =>
    unfold State.makeRoom
    split
    · exact h
    · refine ih ?_
      repeat'
        first
        | with_reducible assumption
        | with_reducible refine State.rackAway_keeps ?_ _
        | split
        | with_reducible refine State.freeTensor_keeps ?_ _

/-- What `State.clearRoom` keeps. -/
theorem State.clearRoom_keeps {a0 s : State} (h0 : Keeps a0 s) (c : Nat) (n : Nat) :
    Keeps a0 (State.clearRoom s c n) := by
  unfold State.clearRoom
  repeat'
    first
    | with_reducible assumption
    | with_reducible refine Keeps.of_eq (by assumption) ?_
    | with_reducible refine State.makeRoom_keeps ?_ _ _ _
    | (extract_lets +onlyGivenNames x; refine (fun (hx : Keeps a0 x) => ?_) ?_; clear_value x; rotate_left; simp only [x])
    | (extract_lets +onlyGivenNames x; refine (fun (hx : Keeps a0 x) => ?_) ?_; rotate_left; simp only [x])
    | (extract_lets +onlyGivenNames x; refine (fun (hx : Keeps a0 x.1) => ?_) ?_; clear_value x; rotate_left; simp only [x])
    | (extract_lets +onlyGivenNames x; refine (fun (hx : Keeps a0 x.1) => ?_) ?_; rotate_left; simp only [x])
    | (extract_lets +onlyGivenNames x; clear_value x)
    | extract_lets +onlyGivenNames x
    | split
    | dsimp only
    | (simp only [keeps_mk]; refine KeepsMk.same rfl ?_ rfl rfl rfl rfl rfl rfl rfl rfl rfl rfl rfl)

/-- What `State.firstHome` keeps. -/
theorem State.firstHome_keeps {a0 s : State} (h0 : Keeps a0 s) (p : Nat) (r : Nat) (folio : Nat) (tid : Nat) (d : TDecl) (n : Nat) :
    ∀ u y, State.firstHome s p r folio tid d n = (u, y) → Keeps a0 u := by
  have key : Keeps a0 (State.firstHome s p r folio tid d n).1 := by
    unfold State.firstHome
    repeat'
      first
      | with_reducible assumption
      | with_reducible refine Keeps.of_eq (by assumption) ?_
      | with_reducible refine State.clearRoom_keeps ?_ _ _
      | with_reducible refine State.takeCellar_keeps ?_ _ _ _ _ _ (by assumption)
      | with_reducible refine State.takeCellar_keeps ?_ _ _ _ _ _ Prod.mk.eta.symm
      | (extract_lets +onlyGivenNames x; refine (fun (hx : Keeps a0 x) => ?_) ?_; clear_value x; rotate_left; simp only [x])
      | (extract_lets +onlyGivenNames x; refine (fun (hx : Keeps a0 x) => ?_) ?_; rotate_left; simp only [x])
      | (extract_lets +onlyGivenNames x; refine (fun (hx : Keeps a0 x.1) => ?_) ?_; clear_value x; rotate_left; simp only [x])
      | (extract_lets +onlyGivenNames x; refine (fun (hx : Keeps a0 x.1) => ?_) ?_; rotate_left; simp only [x])
      | (extract_lets +onlyGivenNames x; clear_value x)
      | extract_lets +onlyGivenNames x
      | split
      | dsimp only
      | (simp only [keeps_mk]; refine KeepsMk.same rfl ?_ rfl rfl rfl rfl rfl rfl rfl rfl rfl rfl rfl)
  intro u y hu
  rw [hu] at key
  exact key

/-- What `State.homeBindings` keeps. -/
theorem State.homeBindings_keeps {a0 s : State} (h0 : Keeps a0 s) (r : Nat) (q : Nat) (n : Nat) (ex : TDecl → Nat → Nat → Nat) :
    Keeps a0 (State.homeBindings s r q n ex) := by
  unfold State.homeBindings
  repeat'
    first
    | with_reducible assumption
    | with_reducible refine Keeps.fold ?_ _ (fun _ _ _ => ?_) _
    | with_reducible refine Keeps.foldPair ?_ _ (fun _ _ _ => ?_) _
    | with_reducible refine Keeps.of_eq (by assumption) ?_
    | with_reducible refine State.firstHome_keeps ?_ _ _ _ _ _ _ _ _ (by assumption)
    | with_reducible refine State.firstHome_keeps ?_ _ _ _ _ _ _ _ _ Prod.mk.eta.symm
    | with_reducible refine State.newTensor_keeps ?_ _
    | (extract_lets +onlyGivenNames x; refine (fun (hx : Keeps a0 x) => ?_) ?_; clear_value x; rotate_left; simp only [x])
    | (extract_lets +onlyGivenNames x; refine (fun (hx : Keeps a0 x) => ?_) ?_; rotate_left; simp only [x])
    | (extract_lets +onlyGivenNames x; refine (fun (hx : Keeps a0 x.1) => ?_) ?_; clear_value x; rotate_left; simp only [x])
    | (extract_lets +onlyGivenNames x; refine (fun (hx : Keeps a0 x.1) => ?_) ?_; rotate_left; simp only [x])
    | (extract_lets +onlyGivenNames x; clear_value x)
    | extract_lets +onlyGivenNames x
    | split
    | dsimp only
    | (simp only [keeps_mk]; refine KeepsMk.same rfl ?_ rfl rfl rfl rfl rfl rfl rfl rfl rfl rfl rfl)

/-- What `State.takeClient` keeps. -/
theorem State.takeClient_keeps {a s : State} (h : Keeps a s) (p : Nat) (kind : Nat) (id : Nat) :
    ∀ u y, State.takeClient s p kind id = (u, y) → Keeps a u := by
  have key : Keeps a (State.takeClient s p kind id).1 := by
    unfold State.takeClient
    repeat'
      first
      | with_reducible assumption
      | (extract_lets +onlyGivenNames x; refine (fun (hx : Keeps a x) => ?_) ?_; clear_value x; rotate_left; simp only [x])
      | (extract_lets +onlyGivenNames x; refine (fun (hx : Keeps a x) => ?_) ?_; rotate_left; simp only [x])
      | (extract_lets +onlyGivenNames x; refine (fun (hx : Keeps a x.1) => ?_) ?_; clear_value x; rotate_left; simp only [x])
      | (extract_lets +onlyGivenNames x; refine (fun (hx : Keeps a x.1) => ?_) ?_; rotate_left; simp only [x])
      | (extract_lets +onlyGivenNames x; clear_value x)
      | extract_lets +onlyGivenNames x
      | split
      | dsimp only
      | (simp only [keeps_mk]; refine KeepsMk.same rfl ?_ rfl rfl rfl rfl rfl rfl rfl rfl rfl rfl rfl)
  intro u y hu
  rw [hu] at key
  exact key

/-- What `State.dropClient` keeps. -/
theorem State.dropClient_keeps {a s : State} (h : Keeps a s) (r : Nat) :
    Keeps a (State.dropClient s r) := by
  unfold State.dropClient
  repeat'
    first
    | with_reducible assumption
    | (extract_lets +onlyGivenNames x; refine (fun (hx : Keeps a x) => ?_) ?_; clear_value x; rotate_left; simp only [x])
    | (extract_lets +onlyGivenNames x; refine (fun (hx : Keeps a x) => ?_) ?_; rotate_left; simp only [x])
    | (extract_lets +onlyGivenNames x; clear_value x)
    | extract_lets +onlyGivenNames x
    | split
    | (simp only [keeps_mk]; refine KeepsMk.same rfl ?_ rfl rfl rfl rfl rfl rfl rfl rfl rfl rfl rfl)

end Sys2Proof.Machine
end

