-- ==== Sys2Proof/Laws/KeepPartitionBody.lean ====
section
/-! SUPPORT. What the operations of Machine/PartitionBody.lean keep, one lemma for each. -/

namespace Sys2Proof.Machine

set_option linter.unusedTactic false
set_option linter.unreachableTactic false
set_option linter.unusedVariables false
set_option linter.unusedSimpArgs false

/-- What `State.claimCellar` keeps. -/
theorem State.claimCellar_keeps {a s : State} (h : Keeps a s) (p : Nat) :
    Keeps a (State.claimCellar s p) := by
  unfold State.claimCellar
  repeat'
    first
    | with_reducible assumption
    | (extract_lets +onlyGivenNames x; refine (fun (hx : Keeps a x) => ?_) ?_; clear_value x; rotate_left; simp only [x])
    | (extract_lets +onlyGivenNames x; refine (fun (hx : Keeps a x) => ?_) ?_; rotate_left; simp only [x])
    | (extract_lets +onlyGivenNames x; have _g : Mgt := x)
    | (extract_lets +onlyGivenNames x; clear_value x)
    | extract_lets +onlyGivenNames x
    | split
    | (simp only [keeps_mk]; refine KeepsMk.same rfl ?_ rfl rfl rfl rfl rfl rfl rfl rfl rfl rfl rfl)

/-- What `State.clearSync` keeps. -/
theorem State.clearSync_keeps {a s : State} (h : Keeps a s) (f : Nat) :
    Keeps a (State.clearSync s f) := by
  unfold State.clearSync
  repeat'
    first
    | with_reducible assumption
    | (extract_lets +onlyGivenNames x; refine (fun (hx : Keeps a x) => ?_) ?_; clear_value x; rotate_left; simp only [x])
    | (extract_lets +onlyGivenNames x; refine (fun (hx : Keeps a x) => ?_) ?_; rotate_left; simp only [x])
    | (extract_lets +onlyGivenNames x; refine (fun (hx : Keeps a x.1) => ?_) ?_; clear_value x; rotate_left; simp only [x])
    | (extract_lets +onlyGivenNames x; refine (fun (hx : Keeps a x.1) => ?_) ?_; rotate_left; simp only [x])
    | (extract_lets +onlyGivenNames x; clear_value x)
    | extract_lets +onlyGivenNames x
    | split
    | (simp only [keeps_mk]; refine KeepsMk.same rfl ?_ rfl rfl rfl rfl rfl rfl rfl rfl rfl rfl rfl)

/-- What `bodyPartitionCreate` keeps. -/
theorem bodyPartitionCreate_keeps {a s : State} (h : Keeps a s) (fl : Flight) :
    Keeps a (bodyPartitionCreate s fl) := by
  unfold bodyPartitionCreate
  repeat'
    first
    | with_reducible assumption
    | with_reducible refine Keeps.fold ?_ _ (fun _ _ _ => ?_) _
    | with_reducible refine State.endPacket_keeps ?_ _ _
    | with_reducible refine State.endWith_keeps ?_ _ _ _
    | with_reducible refine State.setPart_keeps ?_ _ _
    | with_reducible refine State.claimCellar_keeps ?_ _
    | with_reducible refine State.clearSync_keeps ?_ _
    | with_reducible refine State.ownCore_keeps ?_ _ _
    | (extract_lets +onlyGivenNames x; refine (fun (hx : Keeps a x) => ?_) ?_; clear_value x; rotate_left; simp only [x])
    | (extract_lets +onlyGivenNames x; refine (fun (hx : Keeps a x) => ?_) ?_; rotate_left; simp only [x])
    | (extract_lets +onlyGivenNames x; refine (fun (hx : Keeps a x.1) => ?_) ?_; clear_value x; rotate_left; simp only [x])
    | (extract_lets +onlyGivenNames x; refine (fun (hx : Keeps a x.1) => ?_) ?_; rotate_left; simp only [x])
    | (extract_lets +onlyGivenNames x; clear_value x)
    | extract_lets +onlyGivenNames x
    | split
    | (simp only [keeps_mk]; refine KeepsMk.same rfl ?_ rfl rfl rfl rfl rfl rfl rfl rfl rfl rfl rfl)

/-- What `State.holdOwned` keeps. -/
theorem State.holdOwned_keeps {a0 s : State} (h0 : Keeps a0 s) (p : Nat) :
    Keeps a0 (State.holdOwned s p) := by
  unfold State.holdOwned
  repeat'
    first
    | with_reducible assumption
    | with_reducible refine Keeps.fold ?_ _ (fun _ _ _ => ?_) _
    | with_reducible refine Keeps.foldPair ?_ _ (fun _ _ _ => ?_) _
    | with_reducible refine Keeps.of_eq (by assumption) ?_
    | with_reducible refine State.setCore_keeps ?_ _ _
    | (extract_lets +onlyGivenNames x; refine (fun (hx : Keeps a0 x) => ?_) ?_; clear_value x; rotate_left; simp only [x])
    | (extract_lets +onlyGivenNames x; refine (fun (hx : Keeps a0 x) => ?_) ?_; rotate_left; simp only [x])
    | (extract_lets +onlyGivenNames x; refine (fun (hx : Keeps a0 x.1) => ?_) ?_; clear_value x; rotate_left; simp only [x])
    | (extract_lets +onlyGivenNames x; refine (fun (hx : Keeps a0 x.1) => ?_) ?_; rotate_left; simp only [x])
    | (extract_lets +onlyGivenNames x; clear_value x)
    | extract_lets +onlyGivenNames x
    | split
    | dsimp only
    | (simp only [keeps_mk]; refine KeepsMk.same rfl ?_ rfl rfl rfl rfl rfl rfl rfl rfl rfl rfl rfl)

/-- What `State.coreLeft` keeps. -/
theorem State.coreLeft_keeps {a0 s : State} (h0 : Keeps a0 s) (n : Nat) :
    Keeps a0 (State.coreLeft s n) := by
  unfold State.coreLeft
  repeat'
    first
    | with_reducible assumption
    | with_reducible refine Keeps.of_eq (by assumption) ?_
    | with_reducible refine State.setCore_keeps ?_ _ _
    | with_reducible refine State.holdOwned_keeps ?_ _
    | (extract_lets +onlyGivenNames x; refine (fun (hx : Keeps a0 x) => ?_) ?_; clear_value x; rotate_left; simp only [x])
    | (extract_lets +onlyGivenNames x; refine (fun (hx : Keeps a0 x) => ?_) ?_; rotate_left; simp only [x])
    | (extract_lets +onlyGivenNames x; refine (fun (hx : Keeps a0 x.1) => ?_) ?_; clear_value x; rotate_left; simp only [x])
    | (extract_lets +onlyGivenNames x; refine (fun (hx : Keeps a0 x.1) => ?_) ?_; rotate_left; simp only [x])
    | (extract_lets +onlyGivenNames x; clear_value x)
    | extract_lets +onlyGivenNames x
    | split
    | dsimp only
    | (simp only [keeps_mk]; refine KeepsMk.same rfl ?_ rfl rfl rfl rfl rfl rfl rfl rfl rfl rfl rfl)

/-- What `State.startLeave` keeps. -/
theorem State.startLeave_keeps {a0 s : State} (h0 : Keeps a0 s) (p : Nat) (n : Nat) :
    Keeps a0 (State.startLeave s p n) := by
  unfold State.startLeave
  repeat'
    first
    | with_reducible assumption
    | with_reducible refine Keeps.of_eq (by assumption) ?_
    | with_reducible refine State.returnQueue_keeps ?_ _
    | with_reducible refine State.stopMoves_keeps ?_ _
    | with_reducible refine State.freeTensors_keeps ?_ _
    | with_reducible refine State.abandonQuire_keeps ?_ _
    | with_reducible refine State.coreLeft_keeps ?_ _
    | with_reducible refine State.setCore_keeps ?_ _ _
    | (extract_lets +onlyGivenNames x; refine (fun (hx : Keeps a0 x) => ?_) ?_; clear_value x; rotate_left; simp only [x])
    | (extract_lets +onlyGivenNames x; refine (fun (hx : Keeps a0 x) => ?_) ?_; rotate_left; simp only [x])
    | (extract_lets +onlyGivenNames x; refine (fun (hx : Keeps a0 x.1) => ?_) ?_; clear_value x; rotate_left; simp only [x])
    | (extract_lets +onlyGivenNames x; refine (fun (hx : Keeps a0 x.1) => ?_) ?_; rotate_left; simp only [x])
    | (extract_lets +onlyGivenNames x; clear_value x)
    | extract_lets +onlyGivenNames x
    | split
    | dsimp only
    | (simp only [keeps_mk]; refine KeepsMk.same rfl ?_ rfl rfl rfl rfl rfl rfl rfl rfl rfl rfl rfl)

/-- What `State.refillCores` keeps. -/
theorem State.refillCores_keeps {a0 s : State} (h0 : Keeps a0 s) (p : Nat) :
    Keeps a0 (State.refillCores s p) := by
  unfold State.refillCores
  repeat'
    first
    | with_reducible assumption
    | with_reducible refine Keeps.fold ?_ _ (fun _ _ _ => ?_) _
    | with_reducible refine Keeps.foldPair ?_ _ (fun _ _ _ => ?_) _
    | with_reducible refine Keeps.of_eq (by assumption) ?_
    | with_reducible refine State.ownCore_keeps ?_ _ _
    | with_reducible refine State.startLeave_keeps ?_ _ _
    | with_reducible refine State.belowMinUpdate_keeps ?_ _
    | (extract_lets +onlyGivenNames x; refine (fun (hx : Keeps a0 x) => ?_) ?_; clear_value x; rotate_left; simp only [x])
    | (extract_lets +onlyGivenNames x; refine (fun (hx : Keeps a0 x) => ?_) ?_; rotate_left; simp only [x])
    | (extract_lets +onlyGivenNames x; refine (fun (hx : Keeps a0 x.1) => ?_) ?_; clear_value x; rotate_left; simp only [x])
    | (extract_lets +onlyGivenNames x; refine (fun (hx : Keeps a0 x.1) => ?_) ?_; rotate_left; simp only [x])
    | (extract_lets +onlyGivenNames x; clear_value x)
    | extract_lets +onlyGivenNames x
    | split
    | dsimp only
    | (simp only [keeps_mk]; refine KeepsMk.same rfl ?_ rfl rfl rfl rfl rfl rfl rfl rfl rfl rfl rfl)

/-- What `State.refillAll` keeps. -/
theorem State.refillAll_keeps {a s : State} (h : Keeps a s) :
    Keeps a (State.refillAll s) := by
  unfold State.refillAll
  repeat'
    first
    | with_reducible assumption
    | with_reducible refine Keeps.fold ?_ _ (fun _ _ _ => ?_) _
    | with_reducible refine State.refillCores_keeps ?_ _
    | split

/-- What `State.resizeCores` keeps. -/
theorem State.resizeCores_keeps {a0 s : State} (h0 : Keeps a0 s) (p : Nat) :
    Keeps a0 (State.resizeCores s p) := by
  unfold State.resizeCores
  repeat'
    first
    | with_reducible assumption
    | with_reducible refine Keeps.fold ?_ _ (fun _ _ _ => ?_) _
    | with_reducible refine Keeps.foldPair ?_ _ (fun _ _ _ => ?_) _
    | with_reducible refine Keeps.of_eq (by assumption) ?_
    | with_reducible refine State.setCore_keeps ?_ _ _
    | with_reducible refine State.refillCores_keeps ?_ _
    | with_reducible refine State.startLeave_keeps ?_ _ _
    | with_reducible refine State.refillAll_keeps ?_
    | (extract_lets +onlyGivenNames x; refine (fun (hx : Keeps a0 x) => ?_) ?_; clear_value x; rotate_left; simp only [x])
    | (extract_lets +onlyGivenNames x; refine (fun (hx : Keeps a0 x) => ?_) ?_; rotate_left; simp only [x])
    | (extract_lets +onlyGivenNames x; refine (fun (hx : Keeps a0 x.1) => ?_) ?_; clear_value x; rotate_left; simp only [x])
    | (extract_lets +onlyGivenNames x; refine (fun (hx : Keeps a0 x.1) => ?_) ?_; rotate_left; simp only [x])
    | (extract_lets +onlyGivenNames x; clear_value x)
    | extract_lets +onlyGivenNames x
    | split
    | dsimp only
    | (simp only [keeps_mk]; refine KeepsMk.same rfl ?_ rfl rfl rfl rfl rfl rfl rfl rfl rfl rfl rfl)

/-- What `bodyPartitionResize` keeps. -/
theorem bodyPartitionResize_keeps {a s : State} (h : Keeps a s) (fl : Flight) :
    Keeps a (bodyPartitionResize s fl) := by
  unfold bodyPartitionResize
  repeat'
    first
    | with_reducible assumption
    | with_reducible refine State.endPacket_keeps ?_ _ _
    | with_reducible refine State.endWith_keeps ?_ _ _ _
    | with_reducible refine State.claimCellar_keeps ?_ _
    | with_reducible refine State.setPart_keeps ?_ _ _
    | with_reducible refine State.belowMinUpdate_keeps ?_ _
    | with_reducible refine State.resizeCores_keeps ?_ _
    | with_reducible refine State.setWait_keeps ?_ _ _
    | with_reducible exact hff _
    | (extract_lets +onlyGivenNames ff; refine (fun (hff : ∀ c, Keeps a (ff c)) => ?_) (fun c => ?_); clear_value ff; rotate_left; simp only [ff])
    | (extract_lets +onlyGivenNames x; refine (fun (hx : Keeps a x) => ?_) ?_; clear_value x; rotate_left; simp only [x])
    | (extract_lets +onlyGivenNames x; refine (fun (hx : Keeps a x) => ?_) ?_; rotate_left; simp only [x])
    | (extract_lets +onlyGivenNames x; refine (fun (hx : Keeps a x.1) => ?_) ?_; clear_value x; rotate_left; simp only [x])
    | (extract_lets +onlyGivenNames x; refine (fun (hx : Keeps a x.1) => ?_) ?_; rotate_left; simp only [x])
    | extract_lets +onlyGivenNames x
    | split
    | (simp only [keeps_mk]; refine KeepsMk.same rfl ?_ rfl rfl rfl rfl rfl rfl rfl rfl rfl rfl rfl)

/-- What `State.dropMedia` keeps. -/
theorem State.dropMedia_keeps {a0 s : State} (h0 : Keeps a0 s) (p : Nat) :
    Keeps a0 (State.dropMedia s p) := by
  unfold State.dropMedia
  repeat'
    first
    | with_reducible assumption
    | with_reducible refine Keeps.fold ?_ _ (fun _ _ _ => ?_) _
    | with_reducible refine Keeps.foldPair ?_ _ (fun _ _ _ => ?_) _
    | with_reducible refine Keeps.of_eq (by assumption) ?_
    | with_reducible refine State.setCluster_keeps ?_ _ _
    | (extract_lets +onlyGivenNames x; refine (fun (hx : Keeps a0 x) => ?_) ?_; clear_value x; rotate_left; simp only [x])
    | (extract_lets +onlyGivenNames x; refine (fun (hx : Keeps a0 x) => ?_) ?_; rotate_left; simp only [x])
    | (extract_lets +onlyGivenNames x; refine (fun (hx : Keeps a0 x.1) => ?_) ?_; clear_value x; rotate_left; simp only [x])
    | (extract_lets +onlyGivenNames x; refine (fun (hx : Keeps a0 x.1) => ?_) ?_; rotate_left; simp only [x])
    | (extract_lets +onlyGivenNames x; clear_value x)
    | extract_lets +onlyGivenNames x
    | split
    | dsimp only
    | (simp only [keeps_mk]; refine KeepsMk.same rfl ?_ rfl rfl rfl rfl rfl rfl rfl rfl rfl rfl rfl)

/-- What `State.dropRuns` keeps. -/
theorem State.dropRuns_keeps {a0 s : State} (h0 : Keeps a0 s) (p : Nat) :
    Keeps a0 (State.dropRuns s p) := by
  unfold State.dropRuns
  repeat'
    first
    | with_reducible assumption
    | with_reducible refine Keeps.fold ?_ _ (fun _ _ _ => ?_) _
    | with_reducible refine Keeps.foldPair ?_ _ (fun _ _ _ => ?_) _
    | with_reducible refine Keeps.of_eq (by assumption) ?_
    | with_reducible refine State.undoQuire_keeps ?_ _
    | with_reducible refine State.setCore_keeps ?_ _ _
    | with_reducible refine State.chargeScrub_keeps ?_ _ _
    | with_reducible refine State.freeTensors_keeps ?_ _
    | (extract_lets +onlyGivenNames x; refine (fun (hx : Keeps a0 x) => ?_) ?_; clear_value x; rotate_left; simp only [x])
    | (extract_lets +onlyGivenNames x; refine (fun (hx : Keeps a0 x) => ?_) ?_; rotate_left; simp only [x])
    | (extract_lets +onlyGivenNames x; refine (fun (hx : Keeps a0 x.1) => ?_) ?_; clear_value x; rotate_left; simp only [x])
    | (extract_lets +onlyGivenNames x; refine (fun (hx : Keeps a0 x.1) => ?_) ?_; rotate_left; simp only [x])
    | (extract_lets +onlyGivenNames x; clear_value x)
    | extract_lets +onlyGivenNames x
    | split
    | dsimp only
    | (simp only [keeps_mk]; refine KeepsMk.same rfl ?_ rfl rfl rfl rfl rfl rfl rfl rfl rfl rfl rfl)

/-- What `State.releaseBins` keeps. -/
theorem State.releaseBins_keeps {a s : State} (h : Keeps a s) (p : Nat) :
    Keeps a (State.releaseBins s p) := by
  unfold State.releaseBins
  repeat'
    first
    | with_reducible assumption
    | with_reducible refine Keeps.fold ?_ _ (fun _ _ _ => ?_) _
    | with_reducible refine State.returnBuf_keeps ?_ _
    | with_reducible refine State.setBuf_keeps ?_ _ _
    | (extract_lets +onlyGivenNames x; refine (fun (hx : Keeps a x) => ?_) ?_; clear_value x; rotate_left; simp only [x])
    | (extract_lets +onlyGivenNames x; refine (fun (hx : Keeps a x) => ?_) ?_; rotate_left; simp only [x])
    | (extract_lets +onlyGivenNames x; refine (fun (hx : Keeps a x.1) => ?_) ?_; clear_value x; rotate_left; simp only [x])
    | (extract_lets +onlyGivenNames x; refine (fun (hx : Keeps a x.1) => ?_) ?_; rotate_left; simp only [x])
    | (extract_lets +onlyGivenNames x; clear_value x)
    | extract_lets +onlyGivenNames x
    | split
    | (simp only [keeps_mk]; refine KeepsMk.same rfl ?_ rfl rfl rfl rfl rfl rfl rfl rfl rfl rfl rfl)

/-- What `State.dropFolios` keeps. -/
theorem State.dropFolios_keeps {a s : State} (h : Keeps a s) (p : Nat) :
    Keeps a (State.dropFolios s p) := by
  unfold State.dropFolios
  repeat'
    first
    | with_reducible assumption
    | (extract_lets +onlyGivenNames x; refine (fun (hx : Keeps a x) => ?_) ?_; clear_value x; rotate_left; simp only [x])
    | (extract_lets +onlyGivenNames x; refine (fun (hx : Keeps a x) => ?_) ?_; rotate_left; simp only [x])
    | (extract_lets +onlyGivenNames x; clear_value x)
    | extract_lets +onlyGivenNames x
    | split
    | (simp only [keeps_mk]; refine KeepsMk.same rfl ?_ rfl rfl rfl rfl rfl rfl rfl rfl rfl rfl rfl)

/-- What `State.dropTables` keeps. -/
theorem State.dropTables_keeps {a s : State} (h : Keeps a s) (p : Nat) :
    Keeps a (State.dropTables s p) := by
  unfold State.dropTables
  repeat'
    first
    | with_reducible assumption
    | with_reducible exact hff _
    | (extract_lets +onlyGivenNames ff; refine (fun (hff : ∀ c, Keeps a (ff c)) => ?_) (fun c => ?_); clear_value ff; rotate_left; simp only [ff])
    | (extract_lets +onlyGivenNames x; refine (fun (hx : Keeps a x) => ?_) ?_; clear_value x; rotate_left; simp only [x])
    | (extract_lets +onlyGivenNames x; refine (fun (hx : Keeps a x) => ?_) ?_; rotate_left; simp only [x])
    | extract_lets +onlyGivenNames x
    | split
    | (simp only [keeps_mk]; refine KeepsMk.same rfl ?_ rfl rfl rfl rfl rfl rfl rfl rfl rfl rfl rfl)

/-- What `State.returnCores` keeps. -/
theorem State.returnCores_keeps {a s : State} (h : Keeps a s) (p : Nat) :
    Keeps a (State.returnCores s p) := by
  unfold State.returnCores
  repeat'
    first
    | with_reducible assumption
    | with_reducible refine Keeps.fold ?_ _ (fun _ _ _ => ?_) _
    | with_reducible refine State.setCore_keeps ?_ _ _
    | (extract_lets +onlyGivenNames x; refine (fun (hx : Keeps a x) => ?_) ?_; clear_value x; rotate_left; simp only [x])
    | (extract_lets +onlyGivenNames x; refine (fun (hx : Keeps a x) => ?_) ?_; rotate_left; simp only [x])
    | (extract_lets +onlyGivenNames x; clear_value x)
    | extract_lets +onlyGivenNames x
    | split
    | (simp only [keeps_mk]; refine KeepsMk.same rfl ?_ rfl rfl rfl rfl rfl rfl rfl rfl rfl rfl rfl)

/-- What `State.scrubBins` keeps. -/
theorem State.scrubBins_keeps {a s : State} (h : Keeps a s) (p : Nat) :
    Keeps a (State.scrubBins s p) := by
  unfold State.scrubBins
  repeat'
    first
    | with_reducible assumption
    | with_reducible refine Keeps.fold ?_ _ (fun _ _ _ => ?_) _
    | with_reducible refine State.scrub_keeps ?_ _ _
    | (extract_lets +onlyGivenNames x; refine (fun (hx : Keeps a x) => ?_) ?_; clear_value x; rotate_left; simp only [x])
    | (extract_lets +onlyGivenNames x; refine (fun (hx : Keeps a x) => ?_) ?_; rotate_left; simp only [x])
    | (extract_lets +onlyGivenNames x; refine (fun (hx : Keeps a x.1) => ?_) ?_; clear_value x; rotate_left; simp only [x])
    | (extract_lets +onlyGivenNames x; refine (fun (hx : Keeps a x.1) => ?_) ?_; rotate_left; simp only [x])
    | (extract_lets +onlyGivenNames x; clear_value x)
    | extract_lets +onlyGivenNames x
    | split

/-- What `State.freePart` keeps. -/
theorem State.freePart_keeps {a s : State} (h : Keeps a s) (p : Nat) :
    Keeps a (State.freePart s p) := by
  unfold State.freePart
  repeat'
    first
    | with_reducible assumption
    | with_reducible refine Keeps.fold ?_ _ (fun _ _ _ => ?_) _
    | with_reducible refine State.releaseBins_keeps ?_ _
    | with_reducible refine State.dropRuns_keeps ?_ _
    | with_reducible refine State.dropMedia_keeps ?_ _
    | with_reducible refine State.returnCores_keeps ?_ _
    | with_reducible refine State.scrubBins_keeps ?_ _
    | with_reducible refine State.clearSync_keeps ?_ _
    | with_reducible refine State.dropTables_keeps ?_ _
    | with_reducible refine State.dropFolios_keeps ?_ _
    | with_reducible refine State.setCore_keeps ?_ _ _
    | with_reducible refine State.setRes_keeps ?_ _ _
    | with_reducible refine State.claimCellar_keeps ?_ _
    | with_reducible refine State.setPart_keeps ?_ _ _
    | (extract_lets +onlyGivenNames x; refine (fun (hx : Keeps a x) => ?_) ?_; clear_value x; rotate_left; simp only [x])
    | (extract_lets +onlyGivenNames x; refine (fun (hx : Keeps a x) => ?_) ?_; rotate_left; simp only [x])
    | (extract_lets +onlyGivenNames x; refine (fun (hx : Keeps a x.1) => ?_) ?_; clear_value x; rotate_left; simp only [x])
    | (extract_lets +onlyGivenNames x; refine (fun (hx : Keeps a x.1) => ?_) ?_; rotate_left; simp only [x])
    | (extract_lets +onlyGivenNames x; clear_value x)
    | extract_lets +onlyGivenNames x
    | split
    | (simp only [keeps_mk]; refine KeepsMk.same rfl ?_ rfl rfl rfl rfl rfl rfl rfl rfl rfl rfl rfl)

/-- What `State.dropWins` keeps. -/
theorem State.dropWins_keeps {a s : State} (h : Keeps a s) (p : Nat) :
    Keeps a (State.dropWins s p) := by
  unfold State.dropWins
  repeat'
    first
    | with_reducible assumption
    | with_reducible refine Keeps.fold ?_ _ (fun _ _ _ => ?_) _
    | with_reducible exact hff _
    | (extract_lets +onlyGivenNames ff; refine (fun (hff : ∀ c, Keeps a (ff c)) => ?_) (fun c => ?_); clear_value ff; rotate_left; simp only [ff])
    | (extract_lets +onlyGivenNames x; refine (fun (hx : Keeps a x) => ?_) ?_; clear_value x; rotate_left; simp only [x])
    | (extract_lets +onlyGivenNames x; refine (fun (hx : Keeps a x) => ?_) ?_; rotate_left; simp only [x])
    | (extract_lets +onlyGivenNames x; refine (fun (hx : Keeps a x.1) => ?_) ?_; clear_value x; rotate_left; simp only [x])
    | (extract_lets +onlyGivenNames x; refine (fun (hx : Keeps a x.1) => ?_) ?_; rotate_left; simp only [x])
    | extract_lets +onlyGivenNames x
    | split
    | (simp only [keeps_mk]; refine KeepsMk.same rfl ?_ rfl rfl rfl rfl rfl rfl rfl rfl rfl rfl rfl)

/-- What `bodyPartitionDestroy` keeps. -/
theorem bodyPartitionDestroy_keeps {a0 s : State} (h0 : Keeps a0 s) (fl : Flight) :
    Keeps a0 (bodyPartitionDestroy s fl) := by
  unfold bodyPartitionDestroy
  repeat'
    first
    | with_reducible assumption
    | with_reducible refine Keeps.of_eq (by assumption) ?_
    | with_reducible refine State.endWith_keeps ?_ _ _ _
    | with_reducible refine State.dropWins_keeps ?_ _
    | with_reducible refine State.setPart_keeps ?_ _ _
    | with_reducible refine State.setWait_keeps ?_ _ _
    | (extract_lets +onlyGivenNames x; refine (fun (hx : Keeps a0 x) => ?_) ?_; clear_value x; rotate_left; simp only [x])
    | (extract_lets +onlyGivenNames x; refine (fun (hx : Keeps a0 x) => ?_) ?_; rotate_left; simp only [x])
    | (extract_lets +onlyGivenNames x; refine (fun (hx : Keeps a0 x.1) => ?_) ?_; clear_value x; rotate_left; simp only [x])
    | (extract_lets +onlyGivenNames x; refine (fun (hx : Keeps a0 x.1) => ?_) ?_; rotate_left; simp only [x])
    | (extract_lets +onlyGivenNames x; clear_value x)
    | extract_lets +onlyGivenNames x
    | split
    | dsimp only
    | (simp only [keeps_mk]; refine KeepsMk.same rfl ?_ rfl rfl rfl rfl rfl rfl rfl rfl rfl rfl rfl)

/-- What `bodyFolioUnload` keeps. -/
theorem bodyFolioUnload_keeps {a s : State} (h : Keeps a s) (fl : Flight) :
    Keeps a (bodyFolioUnload s fl) := by
  unfold bodyFolioUnload
  repeat'
    first
    | with_reducible assumption
    | with_reducible refine State.endWith_keeps ?_ _ _ _
    | with_reducible refine State.freeTensors_keeps ?_ _
    | (extract_lets +onlyGivenNames x; refine (fun (hx : Keeps a x) => ?_) ?_; clear_value x; rotate_left; simp only [x])
    | (extract_lets +onlyGivenNames x; refine (fun (hx : Keeps a x) => ?_) ?_; rotate_left; simp only [x])
    | (extract_lets +onlyGivenNames x; clear_value x)
    | extract_lets +onlyGivenNames x
    | split
    | (simp only [keeps_mk]; refine KeepsMk.same rfl ?_ rfl rfl rfl rfl rfl rfl rfl rfl rfl rfl rfl)

/-- What `bodyPipelineDestroy` keeps. -/
theorem bodyPipelineDestroy_keeps {a s : State} (h : Keeps a s) (fl : Flight) :
    Keeps a (bodyPipelineDestroy s fl) := by
  unfold bodyPipelineDestroy
  repeat'
    first
    | with_reducible assumption
    | with_reducible refine State.endWith_keeps ?_ _ _ _
    | (extract_lets +onlyGivenNames x; refine (fun (hx : Keeps a x) => ?_) ?_; clear_value x; rotate_left; simp only [x])
    | (extract_lets +onlyGivenNames x; refine (fun (hx : Keeps a x) => ?_) ?_; rotate_left; simp only [x])
    | (extract_lets +onlyGivenNames x; clear_value x)
    | extract_lets +onlyGivenNames x
    | split
    | (simp only [keeps_mk]; refine KeepsMk.same rfl ?_ rfl rfl rfl rfl rfl rfl rfl rfl rfl rfl rfl)

/-- What `bodyAccountRead` keeps. -/
theorem bodyAccountRead_keeps {a s : State} (h : Keeps a s) (fl : Flight) :
    Keeps a (bodyAccountRead s fl) := by
  unfold bodyAccountRead
  repeat'
    first
    | with_reducible assumption
    | with_reducible refine State.endWith_keeps ?_ _ _ _
    | with_reducible refine State.dmaWrite_keeps ?_ _ _ _
    | (extract_lets +onlyGivenNames x; refine (fun (hx : Keeps a x) => ?_) ?_; clear_value x; rotate_left; simp only [x])
    | (extract_lets +onlyGivenNames x; refine (fun (hx : Keeps a x) => ?_) ?_; rotate_left; simp only [x])
    | (extract_lets +onlyGivenNames x; clear_value x)
    | extract_lets +onlyGivenNames x
    | split
    | (simp only [keeps_mk]; refine KeepsMk.same rfl ?_ rfl rfl rfl rfl rfl rfl rfl rfl rfl rfl rfl)

end Sys2Proof.Machine
end

