-- ==== Sys2Proof/Laws/KeepFolioLoad.lean ====
section
/-! SUPPORT. What the operations of Machine/FolioLoad.lean keep, one lemma for each. -/

namespace Sys2Proof.Machine

set_option linter.unusedTactic false
set_option linter.unreachableTactic false
set_option linter.unusedVariables false
set_option linter.unusedSimpArgs false

/-- What `State.shareCopy` keeps. -/
theorem State.shareCopy_keeps {a0 s : State} (h0 : Keeps a0 s) (t : Tensor) :
    Keeps a0 (State.shareCopy s t) := by
  unfold State.shareCopy
  repeat'
    first
    | with_reducible assumption
    | with_reducible refine Keeps.of_eq (by assumption) ?_
    | with_reducible refine State.regulate_keeps ?_ _ _ _ _ _ _ (by assumption)
    | with_reducible refine State.regulate_keeps ?_ _ _ _ _ _ _ Prod.mk.eta.symm
    | with_reducible refine State.newTensor_keeps ?_ _
    | with_reducible refine State.landMove_keeps ?_ _
    | (extract_lets +onlyGivenNames x; refine (fun (hx : Keeps a0 x) => ?_) ?_; clear_value x; rotate_left; simp only [x])
    | (extract_lets +onlyGivenNames x; refine (fun (hx : Keeps a0 x) => ?_) ?_; rotate_left; simp only [x])
    | (extract_lets +onlyGivenNames x; refine (fun (hx : Keeps a0 x.1) => ?_) ?_; clear_value x; rotate_left; simp only [x])
    | (extract_lets +onlyGivenNames x; refine (fun (hx : Keeps a0 x.1) => ?_) ?_; rotate_left; simp only [x])
    | (extract_lets +onlyGivenNames x; clear_value x)
    | extract_lets +onlyGivenNames x
    | split
    | dsimp only
    | (simp only [keeps_mk]; refine KeepsMk.same rfl ?_ rfl rfl rfl rfl rfl rfl rfl rfl rfl rfl rfl)

/-- What `State.placeFolio` keeps. -/
theorem State.placeFolio_keeps {a0 s : State} (h0 : Keeps a0 s) (fl : Flight) (img : List Byte) :
    Keeps a0 (State.placeFolio s fl img) := by
  unfold State.placeFolio
  repeat'
    first
    | with_reducible assumption
    | with_reducible refine Keeps.fold ?_ _ (fun _ _ _ => ?_) _
    | with_reducible refine Keeps.foldPair ?_ _ (fun _ _ _ => ?_) _
    | with_reducible refine Keeps.of_eq (by assumption) ?_
    | with_reducible refine State.endWith_keeps ?_ _ _ _
    | with_reducible refine State.newTensor_keeps ?_ _
    | with_reducible refine State.writeOutside_keeps ?_ _ _
    | with_reducible refine State.shareCopy_keeps ?_ _
    | with_reducible refine State.setPart_keeps ?_ _ _
    | with_reducible refine State.endPacket_keeps ?_ _ _
    | (extract_lets +onlyGivenNames x; refine (fun (hx : Keeps a0 x) => ?_) ?_; clear_value x; rotate_left; simp only [x])
    | (extract_lets +onlyGivenNames x; refine (fun (hx : Keeps a0 x) => ?_) ?_; rotate_left; simp only [x])
    | (extract_lets +onlyGivenNames x; refine (fun (hx : Keeps a0 x.1) => ?_) ?_; clear_value x; rotate_left; simp only [x])
    | (extract_lets +onlyGivenNames x; refine (fun (hx : Keeps a0 x.1) => ?_) ?_; rotate_left; simp only [x])
    | (extract_lets +onlyGivenNames x; clear_value x)
    | extract_lets +onlyGivenNames x
    | split
    | dsimp only
    | (simp only [keeps_mk]; refine KeepsMk.same rfl ?_ rfl rfl rfl rfl rfl rfl rfl rfl rfl rfl rfl)

/-- What `finishFolio` keeps. -/
theorem finishFolio_keeps {a s : State} (h : Keeps a s) (fl : Flight) (data : List Byte) :
    Keeps a (finishFolio s fl data) := by
  unfold finishFolio
  repeat'
    first
    | with_reducible assumption
    | with_reducible refine State.endWith_keeps ?_ _ _ _
    | with_reducible refine State.endPacket_keeps ?_ _ _
    | with_reducible refine State.placeFolio_keeps ?_ _ _
    | (extract_lets +onlyGivenNames x; refine (fun (hx : Keeps a x) => ?_) ?_; clear_value x; rotate_left; simp only [x])
    | (extract_lets +onlyGivenNames x; refine (fun (hx : Keeps a x) => ?_) ?_; rotate_left; simp only [x])
    | (extract_lets +onlyGivenNames x; clear_value x)
    | extract_lets +onlyGivenNames x
    | split
    | (simp only [keeps_mk]; refine KeepsMk.same rfl ?_ rfl rfl rfl rfl rfl rfl rfl rfl rfl rfl rfl)

/-- What `State.packSource` keeps. -/
theorem State.packSource_keeps {a s : State} (h : Keeps a s) (fl : Flight) (kind : Nat) (finish : State → Flight → List Byte → State)
    (hf : ∀ t x l, Keeps a t → Keeps a (finish t x l)) : Keeps a (State.packSource s fl kind finish) := by
  unfold State.packSource
  repeat'
    first
    | with_reducible assumption
    | with_reducible refine hf _ _ _ ?_
    | with_reducible refine State.endPacket_keeps ?_ _ _
    | with_reducible refine State.endWith_keeps ?_ _ _
    | with_reducible refine State.dmaRead_keeps ?_ _ _ _ _ _
    | (extract_lets +onlyGivenNames x; clear_value x)
    | split

/-- What `bodyFolioLoad` keeps. -/
theorem bodyFolioLoad_keeps {a s : State} (h : Keeps a s) (fl : Flight) :
    Keeps a (bodyFolioLoad s fl) := by
  unfold bodyFolioLoad
  repeat'
    first
    | with_reducible assumption
    | with_reducible refine State.endWith_keeps ?_ _ _ _
    | with_reducible refine State.packSource_keeps ?_ _ _ _ (fun _ _ _ _ => ?_)
    | with_reducible refine finishFolio_keeps ?_ _ _
    | (extract_lets +onlyGivenNames x; refine (fun (hx : Keeps a x) => ?_) ?_; clear_value x; rotate_left; simp only [x])
    | (extract_lets +onlyGivenNames x; refine (fun (hx : Keeps a x) => ?_) ?_; rotate_left; simp only [x])
    | (extract_lets +onlyGivenNames x; clear_value x)
    | extract_lets +onlyGivenNames x
    | split

end Sys2Proof.Machine
end

