-- ==== Sys2Proof/Laws/KeepTextBody.lean ====
section
/-! SUPPORT. What the operations of Machine/TextBody.lean keep, one lemma for each. -/

namespace Sys2Proof.Machine

set_option linter.unusedTactic false
set_option linter.unreachableTactic false
set_option linter.unusedVariables false
set_option linter.unusedSimpArgs false

/-- What `State.putTable` keeps. -/
theorem State.putTable_keeps {a s : State} (h0 : Keeps a s) (kind : Nat) (h : Nat) (t : Option TextTable) :
    Keeps a (State.putTable s kind h t) := by
  unfold State.putTable
  repeat'
    first
    | with_reducible assumption
    | (extract_lets +onlyGivenNames x; refine (fun (hx : Keeps a x) => ?_) ?_; clear_value x; rotate_left; simp only [x])
    | (extract_lets +onlyGivenNames x; refine (fun (hx : Keeps a x) => ?_) ?_; rotate_left; simp only [x])
    | (extract_lets +onlyGivenNames x; clear_value x)
    | extract_lets +onlyGivenNames x
    | split
    | (simp only [keeps_mk]; refine KeepsMk.same rfl ?_ rfl rfl rfl rfl rfl rfl rfl rfl rfl rfl rfl)

/-- What `State.placeTable` keeps. -/
theorem State.placeTable_keeps {a0 s : State} (h0 : Keeps a0 s) (fl : Flight) (kind : Nat) (img : List Byte) (w : Nat) :
    Keeps a0 (State.placeTable s fl kind img w) := by
  unfold State.placeTable
  repeat'
    first
    | with_reducible assumption
    | with_reducible refine Keeps.of_eq (by assumption) ?_
    | with_reducible refine State.takeCellar_keeps ?_ _ _ _ _ _ (by assumption)
    | with_reducible refine State.takeCellar_keeps ?_ _ _ _ _ _ Prod.mk.eta.symm
    | with_reducible refine State.endWith_keeps ?_ _ _ _
    | with_reducible refine State.putTable_keeps ?_ _ _ _
    | with_reducible refine State.writeMem_keeps ?_ _ _
    | with_reducible refine State.endPacket_keeps ?_ _ _
    | (extract_lets +onlyGivenNames x; refine (fun (hx : Keeps a0 x) => ?_) ?_; clear_value x; rotate_left; simp only [x])
    | (extract_lets +onlyGivenNames x; refine (fun (hx : Keeps a0 x) => ?_) ?_; rotate_left; simp only [x])
    | (extract_lets +onlyGivenNames x; refine (fun (hx : Keeps a0 x.1) => ?_) ?_; clear_value x; rotate_left; simp only [x])
    | (extract_lets +onlyGivenNames x; refine (fun (hx : Keeps a0 x.1) => ?_) ?_; rotate_left; simp only [x])
    | (extract_lets +onlyGivenNames x; clear_value x)
    | extract_lets +onlyGivenNames x
    | split
    | dsimp only
    | (simp only [keeps_mk]; refine KeepsMk.same rfl ?_ rfl rfl rfl rfl rfl rfl rfl rfl rfl rfl rfl)

/-- What `State.finishTableOf` keeps. -/
theorem State.finishTableOf_keeps {a s : State} (h : Keeps a s) (fl : Flight) (kind : Nat) (data : List Byte) :
    Keeps a (State.finishTableOf s fl kind data) := by
  unfold State.finishTableOf
  repeat'
    first
    | with_reducible assumption
    | with_reducible refine State.endWith_keeps ?_ _ _ _
    | with_reducible refine State.placeTable_keeps ?_ _ _ _ _
    | (extract_lets +onlyGivenNames x; refine (fun (hx : Keeps a x) => ?_) ?_; clear_value x; rotate_left; simp only [x])
    | (extract_lets +onlyGivenNames x; refine (fun (hx : Keeps a x) => ?_) ?_; rotate_left; simp only [x])
    | (extract_lets +onlyGivenNames x; clear_value x)
    | extract_lets +onlyGivenNames x
    | split
    | (simp only [keeps_mk]; refine KeepsMk.same rfl ?_ rfl rfl rfl rfl rfl rfl rfl rfl rfl rfl rfl)

/-- What `finishTable` keeps. -/
theorem finishTable_keeps {a s : State} (h : Keeps a s) (fl : Flight) (data : List Byte) :
    Keeps a (finishTable s fl data) := by
  unfold finishTable
  repeat'
    first
    | with_reducible assumption
    | with_reducible refine State.finishTableOf_keeps ?_ _ _ _

/-- What `bodyTextTableLoad` keeps. -/
theorem bodyTextTableLoad_keeps {a s : State} (h : Keeps a s) (fl : Flight) :
    Keeps a (bodyTextTableLoad s fl) := by
  unfold bodyTextTableLoad
  repeat'
    first
    | with_reducible assumption
    | with_reducible refine State.endWith_keeps ?_ _ _ _
    | with_reducible refine State.endPacket_keeps ?_ _ _
    | with_reducible refine State.packSource_keeps ?_ _ _ _ (fun _ _ _ _ => ?_)
    | with_reducible refine finishTable_keeps ?_ _ _
    | (extract_lets +onlyGivenNames x; refine (fun (hx : Keeps a x) => ?_) ?_; clear_value x; rotate_left; simp only [x])
    | (extract_lets +onlyGivenNames x; refine (fun (hx : Keeps a x) => ?_) ?_; rotate_left; simp only [x])
    | (extract_lets +onlyGivenNames x; clear_value x)
    | extract_lets +onlyGivenNames x
    | split
    | (simp only [keeps_mk]; refine KeepsMk.same rfl ?_ rfl rfl rfl rfl rfl rfl rfl rfl rfl rfl rfl)

/-- What `bodyTextTableUnload` keeps. -/
theorem bodyTextTableUnload_keeps {a s : State} (h : Keeps a s) (fl : Flight) :
    Keeps a (bodyTextTableUnload s fl) := by
  unfold bodyTextTableUnload
  repeat'
    first
    | with_reducible assumption
    | with_reducible refine State.endWith_keeps ?_ _ _ _
    | with_reducible refine State.putTable_keeps ?_ _ _ _
    | (extract_lets +onlyGivenNames x; refine (fun (hx : Keeps a x) => ?_) ?_; clear_value x; rotate_left; simp only [x])
    | (extract_lets +onlyGivenNames x; refine (fun (hx : Keeps a x) => ?_) ?_; rotate_left; simp only [x])
    | (extract_lets +onlyGivenNames x; clear_value x)
    | extract_lets +onlyGivenNames x
    | split

/-- What `State.addSession` keeps. -/
theorem State.addSession_keeps {a s : State} (h : Keeps a s) (pk : Packet) :
    Keeps a (State.addSession s pk) := by
  unfold State.addSession
  repeat'
    first
    | with_reducible assumption
    | with_reducible refine State.takeClient_keeps ?_ _ _ _ _ _ (by assumption)
    | with_reducible refine State.takeClient_keeps ?_ _ _ _ _ _ rfl
    | (extract_lets +onlyGivenNames x; refine (fun (hx : Keeps a x) => ?_) ?_; clear_value x; rotate_left; simp only [x])
    | (extract_lets +onlyGivenNames x; refine (fun (hx : Keeps a x) => ?_) ?_; rotate_left; simp only [x])
    | (extract_lets +onlyGivenNames x; refine (fun (hx : Keeps a x.1) => ?_) ?_; clear_value x; rotate_left; simp only [x])
    | (extract_lets +onlyGivenNames x; refine (fun (hx : Keeps a x.1) => ?_) ?_; rotate_left; simp only [x])
    | (extract_lets +onlyGivenNames x; clear_value x)
    | extract_lets +onlyGivenNames x
    | split
    | (simp only [keeps_mk]; refine KeepsMk.same rfl ?_ rfl rfl rfl rfl rfl rfl rfl rfl rfl rfl rfl)

/-- What `bodyTokenizeOpen` keeps. -/
theorem bodyTokenizeOpen_keeps {a s : State} (h : Keeps a s) (fl : Flight) :
    Keeps a (bodyTokenizeOpen s fl) := by
  unfold bodyTokenizeOpen
  repeat'
    first
    | with_reducible assumption
    | with_reducible refine State.endWith_keeps ?_ _ _ _
    | with_reducible refine State.endPacket_keeps ?_ _ _
    | with_reducible refine State.addSession_keeps ?_ _
    | (extract_lets +onlyGivenNames x; refine (fun (hx : Keeps a x) => ?_) ?_; clear_value x; rotate_left; simp only [x])
    | (extract_lets +onlyGivenNames x; refine (fun (hx : Keeps a x) => ?_) ?_; rotate_left; simp only [x])
    | (extract_lets +onlyGivenNames x; clear_value x)
    | extract_lets +onlyGivenNames x
    | split
    | (simp only [keeps_mk]; refine KeepsMk.same rfl ?_ rfl rfl rfl rfl rfl rfl rfl rfl rfl rfl rfl)

/-- What `finishTokenize` keeps. -/
theorem finishTokenize_keeps {a s : State} (h : Keeps a s) (fl : Flight) (data : List Byte) :
    Keeps a (finishTokenize s fl data) := by
  unfold finishTokenize
  repeat'
    first
    | with_reducible assumption
    | with_reducible refine State.endWith_keeps ?_ _ _ _
    | with_reducible refine State.endPacket_keeps ?_ _ _
    | with_reducible refine State.setWait_keeps ?_ _ _
    | with_reducible refine State.dmaWrite_keeps ?_ _ _ _
    | (extract_lets +onlyGivenNames x; refine (fun (hx : Keeps a x) => ?_) ?_; clear_value x; rotate_left; simp only [x])
    | (extract_lets +onlyGivenNames x; refine (fun (hx : Keeps a x) => ?_) ?_; rotate_left; simp only [x])
    | (extract_lets +onlyGivenNames x; refine (fun (hx : Keeps a x.1) => ?_) ?_; clear_value x; rotate_left; simp only [x])
    | (extract_lets +onlyGivenNames x; refine (fun (hx : Keeps a x.1) => ?_) ?_; rotate_left; simp only [x])
    | (extract_lets +onlyGivenNames x; clear_value x)
    | extract_lets +onlyGivenNames x
    | split
    | (simp only [keeps_mk]; refine KeepsMk.same rfl ?_ rfl rfl rfl rfl rfl rfl rfl rfl rfl rfl rfl)

/-- What `startTokenize` keeps. -/
theorem startTokenize_keeps {a s : State} (h : Keeps a s) (fl : Flight) :
    Keeps a (startTokenize s fl) := by
  unfold startTokenize
  repeat'
    first
    | with_reducible assumption
    | with_reducible refine State.endWith_keeps ?_ _ _ _
    | with_reducible refine finishTokenize_keeps ?_ _ _
    | with_reducible refine State.dmaRead_keeps ?_ _ _ _ _ _
    | (extract_lets +onlyGivenNames x; refine (fun (hx : Keeps a x) => ?_) ?_; clear_value x; rotate_left; simp only [x])
    | (extract_lets +onlyGivenNames x; refine (fun (hx : Keeps a x) => ?_) ?_; rotate_left; simp only [x])
    | (extract_lets +onlyGivenNames x; clear_value x)
    | extract_lets +onlyGivenNames x
    | split
    | (simp only [keeps_mk]; refine KeepsMk.same rfl ?_ rfl rfl rfl rfl rfl rfl rfl rfl rfl rfl rfl)

/-- What `bodyTokenizeFeed` keeps. -/
theorem bodyTokenizeFeed_keeps {a s : State} (h : Keeps a s) (fl : Flight) :
    Keeps a (bodyTokenizeFeed s fl) := by
  unfold bodyTokenizeFeed
  repeat'
    first
    | with_reducible assumption
    | with_reducible refine State.endWith_keeps ?_ _ _ _
    | with_reducible refine State.setWait_keeps ?_ _ _
    | with_reducible refine startTokenize_keeps ?_ _
    | (extract_lets +onlyGivenNames x; refine (fun (hx : Keeps a x) => ?_) ?_; clear_value x; rotate_left; simp only [x])
    | (extract_lets +onlyGivenNames x; refine (fun (hx : Keeps a x) => ?_) ?_; rotate_left; simp only [x])
    | (extract_lets +onlyGivenNames x; clear_value x)
    | extract_lets +onlyGivenNames x
    | split
    | (simp only [keeps_mk]; refine KeepsMk.same rfl ?_ rfl rfl rfl rfl rfl rfl rfl rfl rfl rfl rfl)

/-- What `doneTokenize` keeps. -/
theorem doneTokenize_keeps {a s : State} (h : Keeps a s) (fl : Flight) (data : List Byte) :
    Keeps a (doneTokenize s fl data) := by
  unfold doneTokenize
  repeat'
    first
    | with_reducible assumption
    | with_reducible refine finishTokenize_keeps ?_ _ _
    | with_reducible refine State.endPacket_keeps ?_ _ _
    | split
    | (simp only [keeps_mk]; refine KeepsMk.same rfl ?_ rfl rfl rfl rfl rfl rfl rfl rfl rfl rfl rfl)

/-- What `startTokenizeClose` keeps. -/
theorem startTokenizeClose_keeps {a s : State} (h : Keeps a s) (fl : Flight) :
    Keeps a (startTokenizeClose s fl) := by
  unfold startTokenizeClose
  repeat'
    first
    | with_reducible assumption
    | with_reducible refine State.endWith_keeps ?_ _ _ _
    | with_reducible refine State.endPacket_keeps ?_ _ _
    | with_reducible refine State.dropClient_keeps ?_ _
    | (extract_lets +onlyGivenNames x; refine (fun (hx : Keeps a x) => ?_) ?_; clear_value x; rotate_left; simp only [x])
    | (extract_lets +onlyGivenNames x; refine (fun (hx : Keeps a x) => ?_) ?_; rotate_left; simp only [x])
    | (extract_lets +onlyGivenNames x; clear_value x)
    | extract_lets +onlyGivenNames x
    | split
    | (simp only [keeps_mk]; refine KeepsMk.same rfl ?_ rfl rfl rfl rfl rfl rfl rfl rfl rfl rfl rfl)

/-- What `bodyTokenizeClose` keeps. -/
theorem bodyTokenizeClose_keeps {a s : State} (h : Keeps a s) (fl : Flight) :
    Keeps a (bodyTokenizeClose s fl) := by
  unfold bodyTokenizeClose
  repeat'
    first
    | with_reducible assumption
    | with_reducible refine State.endWith_keeps ?_ _ _ _
    | with_reducible refine State.setWait_keeps ?_ _ _
    | with_reducible refine startTokenizeClose_keeps ?_ _
    | (extract_lets +onlyGivenNames x; refine (fun (hx : Keeps a x) => ?_) ?_; clear_value x; rotate_left; simp only [x])
    | (extract_lets +onlyGivenNames x; refine (fun (hx : Keeps a x) => ?_) ?_; rotate_left; simp only [x])
    | (extract_lets +onlyGivenNames x; clear_value x)
    | extract_lets +onlyGivenNames x
    | split
    | (simp only [keeps_mk]; refine KeepsMk.same rfl ?_ rfl rfl rfl rfl rfl rfl rfl rfl rfl rfl rfl)

end Sys2Proof.Machine
end

