-- ==== Sys2Proof/Laws/KeepPipelineBody.lean ====
section
/-! SUPPORT. What the operations of Machine/PipelineBody.lean keep, one lemma for each. -/

namespace Sys2Proof.Machine

set_option linter.unusedTactic false
set_option linter.unreachableTactic false
set_option linter.unusedVariables false
set_option linter.unusedSimpArgs false

/-- What `bodyPipelineCreate` keeps. -/
theorem bodyPipelineCreate_keeps {a s : State} (h : Keeps a s) (fl : Flight) :
    Keeps a (bodyPipelineCreate s fl) := by
  unfold bodyPipelineCreate
  repeat'
    first
    | with_reducible assumption
    | with_reducible refine State.endWith_keeps ?_ _ _ _
    | with_reducible refine State.endPacket_keeps ?_ _ _
    | (extract_lets +onlyGivenNames x; refine (fun (hx : Keeps a x) => ?_) ?_; clear_value x; rotate_left; simp only [x])
    | (extract_lets +onlyGivenNames x; refine (fun (hx : Keeps a x) => ?_) ?_; rotate_left; simp only [x])
    | (extract_lets +onlyGivenNames x; clear_value x)
    | extract_lets +onlyGivenNames x
    | split
    | (simp only [keeps_mk]; refine KeepsMk.same rfl ?_ rfl rfl rfl rfl rfl rfl rfl rfl rfl rfl rfl)

end Sys2Proof.Machine
end

