-- ==== Sys2Proof/Laws/KeepBatches.lean ====
section
/-! SUPPORT. What the operations of Machine/Batches.lean keep, one lemma for each. -/

namespace Sys2Proof.Machine

set_option linter.unusedTactic false
set_option linter.unreachableTactic false
set_option linter.unusedVariables false
set_option linter.unusedSimpArgs false

/-- What `State.setStream` keeps. -/
theorem State.setStream_keeps {a s : State} (h : Keeps a s) (sid : Nat) (f : Stream → Stream) :
    Keeps a (State.setStream s sid f) := by
  unfold State.setStream
  repeat'
    first
    | with_reducible assumption
    | (extract_lets +onlyGivenNames x; refine (fun (hx : Keeps a x) => ?_) ?_; clear_value x; rotate_left; simp only [x])
    | (extract_lets +onlyGivenNames x; refine (fun (hx : Keeps a x) => ?_) ?_; rotate_left; simp only [x])
    | (extract_lets +onlyGivenNames x; clear_value x)
    | extract_lets +onlyGivenNames x
    | (simp only [keeps_mk]; refine KeepsMk.same rfl ?_ rfl rfl rfl rfl rfl rfl rfl rfl rfl rfl rfl)

/-- What `State.setPic` keeps. -/
theorem State.setPic_keeps {a s : State} (h : Keeps a s) (sid : Nat) (d : Nat) (f : Pic → Pic) :
    Keeps a (State.setPic s sid d f) := by
  unfold State.setPic
  repeat'
    first
    | with_reducible assumption
    | with_reducible refine State.setStream_keeps ?_ _ _
    | (extract_lets +onlyGivenNames x; refine (fun (hx : Keeps a x) => ?_) ?_; clear_value x; rotate_left; simp only [x])
    | (extract_lets +onlyGivenNames x; refine (fun (hx : Keeps a x) => ?_) ?_; rotate_left; simp only [x])
    | (extract_lets +onlyGivenNames x; clear_value x)
    | extract_lets +onlyGivenNames x
    | split
    | (simp only [keeps_mk]; refine KeepsMk.same rfl ?_ rfl rfl rfl rfl rfl rfl rfl rfl rfl rfl rfl)

/-- What `State.setPage` keeps. -/
theorem State.setPage_keeps {a s : State} (h : Keeps a s) (n : Nat) (f : Page → Page) :
    Keeps a (State.setPage s n f) := by
  unfold State.setPage
  repeat'
    first
    | with_reducible assumption
    | (extract_lets +onlyGivenNames x; refine (fun (hx : Keeps a x) => ?_) ?_; clear_value x; rotate_left; simp only [x])
    | (extract_lets +onlyGivenNames x; refine (fun (hx : Keeps a x) => ?_) ?_; rotate_left; simp only [x])
    | (extract_lets +onlyGivenNames x; clear_value x)
    | extract_lets +onlyGivenNames x
    | (simp only [keeps_mk]; refine KeepsMk.same rfl ?_ rfl rfl rfl rfl rfl rfl rfl rfl rfl rfl rfl)

/-- What `State.setBatch` keeps. -/
theorem State.setBatch_keeps {a s : State} (h : Keeps a s) (n : Nat) (f : Batch → Batch) :
    Keeps a (State.setBatch s n f) := by
  unfold State.setBatch
  repeat'
    first
    | with_reducible assumption
    | (extract_lets +onlyGivenNames x; refine (fun (hx : Keeps a x) => ?_) ?_; clear_value x; rotate_left; simp only [x])
    | (extract_lets +onlyGivenNames x; refine (fun (hx : Keeps a x) => ?_) ?_; rotate_left; simp only [x])
    | (extract_lets +onlyGivenNames x; clear_value x)
    | extract_lets +onlyGivenNames x
    | (simp only [keeps_mk]; refine KeepsMk.same rfl ?_ rfl rfl rfl rfl rfl rfl rfl rfl rfl rfl rfl)

/-- What `State.setPipe` keeps. -/
theorem State.setPipe_keeps {a s : State} (h0 : Keeps a s) (p : Nat) (h : Nat) (f : Pipeline → Pipeline) :
    Keeps a (State.setPipe s p h f) := by
  unfold State.setPipe
  repeat'
    first
    | with_reducible assumption
    | (extract_lets +onlyGivenNames x; refine (fun (hx : Keeps a x) => ?_) ?_; clear_value x; rotate_left; simp only [x])
    | (extract_lets +onlyGivenNames x; refine (fun (hx : Keeps a x) => ?_) ?_; rotate_left; simp only [x])
    | (extract_lets +onlyGivenNames x; clear_value x)
    | extract_lets +onlyGivenNames x
    | split
    | (simp only [keeps_mk]; refine KeepsMk.same rfl ?_ rfl rfl rfl rfl rfl rfl rfl rfl rfl rfl rfl)

/-- What `State.pushWindow` keeps. -/
theorem State.pushWindow_keeps {a s : State} (h : Keeps a s) (page : Bool) (obj : Nat) (folio : Nat) (tid : Nat) (key : Nat) (st : Int × Int) :
    Keeps a (State.pushWindow s page obj folio tid key st) := by
  unfold State.pushWindow
  repeat'
    first
    | with_reducible assumption
    | (extract_lets +onlyGivenNames x; refine (fun (hx : Keeps a x) => ?_) ?_; clear_value x; rotate_left; simp only [x])
    | (extract_lets +onlyGivenNames x; refine (fun (hx : Keeps a x) => ?_) ?_; rotate_left; simp only [x])
    | (extract_lets +onlyGivenNames x; refine (fun (hx : Keeps a x.1) => ?_) ?_; clear_value x; rotate_left; simp only [x])
    | (extract_lets +onlyGivenNames x; refine (fun (hx : Keeps a x.1) => ?_) ?_; rotate_left; simp only [x])
    | (extract_lets +onlyGivenNames x; clear_value x)
    | extract_lets +onlyGivenNames x
    | split
    | (simp only [keeps_mk]; refine KeepsMk.same rfl ?_ rfl rfl rfl rfl rfl rfl rfl rfl rfl rfl rfl)

/-- What `State.dropWindows` keeps. -/
theorem State.dropWindows_keeps {a s : State} (h : Keeps a s) (page : Bool) (obj : Nat) :
    Keeps a (State.dropWindows s page obj) := by
  unfold State.dropWindows
  repeat'
    first
    | with_reducible assumption
    | (extract_lets +onlyGivenNames x; refine (fun (hx : Keeps a x) => ?_) ?_; clear_value x; rotate_left; simp only [x])
    | (extract_lets +onlyGivenNames x; refine (fun (hx : Keeps a x) => ?_) ?_; rotate_left; simp only [x])
    | (extract_lets +onlyGivenNames x; clear_value x)
    | extract_lets +onlyGivenNames x
    | split
    | (simp only [keeps_mk]; refine KeepsMk.same rfl ?_ rfl rfl rfl rfl rfl rfl rfl rfl rfl rfl rfl)

/-- What `State.inputHome` keeps. -/
theorem State.inputHome_keeps {a0 s : State} (h0 : Keeps a0 s) (p : Nat) (d : TDecl) :
    ∀ u y, State.inputHome s p d = (u, y) → Keeps a0 u := by
  have key : Keeps a0 (State.inputHome s p d).1 := by
    unfold State.inputHome
    repeat'
      first
      | with_reducible assumption
      | with_reducible refine Keeps.of_eq (by assumption) ?_
      | with_reducible refine State.takeCellar_keeps ?_ _ _ _ _ _ (by assumption)
      | with_reducible refine State.takeCellar_keeps ?_ _ _ _ _ _ Prod.mk.eta.symm
      | (extract_lets +onlyGivenNames x; refine (fun (hx : Keeps a0 x) => ?_) ?_; clear_value x; rotate_left; simp only [x])
      | (extract_lets +onlyGivenNames x; refine (fun (hx : Keeps a0 x) => ?_) ?_; rotate_left; simp only [x])
      | (extract_lets +onlyGivenNames x; refine (fun (hx : Keeps a0 x.1) => ?_) ?_; clear_value x; rotate_left; simp only [x])
      | (extract_lets +onlyGivenNames x; refine (fun (hx : Keeps a0 x.1) => ?_) ?_; rotate_left; simp only [x])
      | (extract_lets +onlyGivenNames x; clear_value x)
      | extract_lets +onlyGivenNames x
      | split
      | dsimp only
      | (simp only [keeps_mk]; refine KeepsMk.same rfl ?_ rfl rfl rfl rfl rfl rfl rfl rfl rfl rfl rfl)
  intro u y hu
  rw [hu] at key
  exact key

/-- What `State.placeInput` keeps. -/
theorem State.placeInput_keeps {a0 s : State} (h0 : Keeps a0 s) (p : Nat) (folio : Nat) (r : Nat) (tid : Nat) (inst : Nat) (e : Nat) (codes : List (List Int)) :
    KeepsOpt a0 (State.placeInput s p folio r tid inst e codes) := by
  unfold State.placeInput
  repeat'
    first
    | with_reducible assumption
    | with_reducible refine Keeps.of_eq (by assumption) ?_
    | with_reducible refine State.inputHome_keeps ?_ _ _ _ _ (by assumption)
    | with_reducible refine State.inputHome_keeps ?_ _ _ _ _ Prod.mk.eta.symm
    | with_reducible refine State.newTensor_keeps ?_ _
    | with_reducible refine State.writeMem_keeps ?_ _ _
    | with_reducible exact KeepsOpt.none
    | refine KeepsOpt.some ?_
    | with_reducible refine KeepsOpt.map _ _ (fun _ => ?_)
    | with_reducible refine KeepsOpt.bind ?_ _ (fun _ _ => ?_)
    | (extract_lets +onlyGivenNames x; refine (fun (hx : Keeps a0 x) => ?_) ?_; clear_value x; rotate_left; simp only [x])
    | (extract_lets +onlyGivenNames x; refine (fun (hx : Keeps a0 x) => ?_) ?_; rotate_left; simp only [x])
    | (extract_lets +onlyGivenNames x; refine (fun (hx : Keeps a0 x.1) => ?_) ?_; clear_value x; rotate_left; simp only [x])
    | (extract_lets +onlyGivenNames x; refine (fun (hx : Keeps a0 x.1) => ?_) ?_; rotate_left; simp only [x])
    | (extract_lets +onlyGivenNames x; have _g : Mem := x)
    | (extract_lets +onlyGivenNames x; clear_value x)
    | extract_lets +onlyGivenNames x
    | split
    | dsimp only
    | (simp only [keeps_mk]; refine KeepsMk.same rfl ?_ rfl rfl rfl rfl rfl rfl rfl rfl rfl rfl rfl)

/-- What `State.placeTokens` keeps. -/
theorem State.placeTokens_keeps {a0 s : State} (h0 : Keeps a0 s) (p : Nat) (folio : Nat) (r : Nat) :
    KeepsOpt a0 (State.placeTokens s p folio r) := by
  unfold State.placeTokens
  repeat'
    first
    | with_reducible assumption
    | with_reducible refine Keeps.of_eq (by assumption) ?_
    | with_reducible refine State.inputHome_keeps ?_ _ _ _ _ (by assumption)
    | with_reducible refine State.inputHome_keeps ?_ _ _ _ _ Prod.mk.eta.symm
    | with_reducible refine State.newTensor_keeps ?_ _
    | with_reducible refine State.writeMem_keeps ?_ _ _
    | with_reducible exact KeepsOpt.none
    | refine KeepsOpt.some ?_
    | with_reducible refine KeepsOpt.map _ _ (fun _ => ?_)
    | with_reducible refine KeepsOpt.bind ?_ _ (fun _ _ => ?_)
    | (extract_lets +onlyGivenNames x; refine (fun (hx : Keeps a0 x) => ?_) ?_; clear_value x; rotate_left; simp only [x])
    | (extract_lets +onlyGivenNames x; refine (fun (hx : Keeps a0 x) => ?_) ?_; rotate_left; simp only [x])
    | (extract_lets +onlyGivenNames x; refine (fun (hx : Keeps a0 x.1) => ?_) ?_; clear_value x; rotate_left; simp only [x])
    | (extract_lets +onlyGivenNames x; refine (fun (hx : Keeps a0 x.1) => ?_) ?_; rotate_left; simp only [x])
    | (extract_lets +onlyGivenNames x; clear_value x)
    | extract_lets +onlyGivenNames x
    | split
    | dsimp only
    | (simp only [keeps_mk]; refine KeepsMk.same rfl ?_ rfl rfl rfl rfl rfl rfl rfl rfl rfl rfl rfl)

/-- What `State.startRun` keeps. -/
theorem State.startRun_keeps {a s : State} (h : Keeps a s) (p : Nat) (folio : Nat) (prio : Nat) (purpose : Nat) (ins : List (Instance × Nat × List (List Int))) :
    KeepsOpt a (State.startRun s p folio prio purpose ins) := by
  unfold State.startRun
  repeat'
    first
    | with_reducible assumption
    | with_reducible refine KeepsOpt.none
    | with_reducible refine KeepsOpt.some ?_
    | with_reducible refine KeepsOpt.map _ _ (fun _ => ?_)
    | with_reducible refine KeepsOpt.bind ?_ _ (fun _ _ => ?_)
    | with_reducible refine KeepsOpt.fold ?_ _ (fun _ _ _ => ?_) _
    | with_reducible refine Keeps.fold ?_ _ (fun _ _ _ => ?_) _
    | with_reducible refine State.placeInput_keeps ?_ _ _ _ _ _ _ _
    | with_reducible refine State.placeInput_keeps ?_ _ _ _ _ _ _ _ _ (by assumption)
    | with_reducible refine State.placeTokens_keeps ?_ _ _ _
    | with_reducible refine State.placeTokens_keeps ?_ _ _ _ _ (by assumption)
    | with_reducible exact hff _
    | (extract_lets +onlyGivenNames ff; refine (fun (hff : ∀ c, Keeps a (ff c)) => ?_) (fun c => ?_); clear_value ff; rotate_left; simp only [ff])
    | (extract_lets +onlyGivenNames x; refine (fun (hx : Keeps a x) => ?_) ?_; clear_value x; rotate_left; simp only [x])
    | (extract_lets +onlyGivenNames x; refine (fun (hx : Keeps a x) => ?_) ?_; rotate_left; simp only [x])
    | (extract_lets +onlyGivenNames x; refine (fun (hx : Keeps a x.1) => ?_) ?_; clear_value x; rotate_left; simp only [x])
    | (extract_lets +onlyGivenNames x; refine (fun (hx : Keeps a x.1) => ?_) ?_; rotate_left; simp only [x])
    | extract_lets +onlyGivenNames x
    | (extract_lets +onlyGivenNames x; refine (fun (hx : KeepsOpt a x) => ?_) ?_; clear_value x; rotate_left; simp only [x])
    | split
    | (simp only [keeps_mk]; refine KeepsMk.same rfl ?_ rfl rfl rfl rfl rfl rfl rfl rfl rfl rfl rfl)

/-- What `State.endRun` keeps. -/
theorem State.endRun_keeps {a s : State} (h : Keeps a s) (r : Nat) :
    Keeps a (State.endRun s r) := by
  unfold State.endRun
  repeat'
    first
    | with_reducible assumption
    | with_reducible refine State.freeTensors_keeps ?_ _
    | (extract_lets +onlyGivenNames x; refine (fun (hx : Keeps a x) => ?_) ?_; clear_value x; rotate_left; simp only [x])
    | (extract_lets +onlyGivenNames x; refine (fun (hx : Keeps a x) => ?_) ?_; rotate_left; simp only [x])
    | (extract_lets +onlyGivenNames x; clear_value x)
    | extract_lets +onlyGivenNames x
    | split
    | (simp only [keeps_mk]; refine KeepsMk.same rfl ?_ rfl rfl rfl rfl rfl rfl rfl rfl rfl rfl rfl)

/-- What `State.alarmUpdate` keeps. -/
theorem State.alarmUpdate_keeps {a s : State} (h0 : Keeps a s) (p : Nat) (h : Nat) :
    Keeps a (State.alarmUpdate s p h) := by
  unfold State.alarmUpdate
  repeat'
    first
    | with_reducible assumption
    | with_reducible refine State.celEvent_keeps ?_ _ _ _ _ _
    | with_reducible refine State.setPipe_keeps ?_ _ _ _
    | (extract_lets +onlyGivenNames x; refine (fun (hx : Keeps a x) => ?_) ?_; clear_value x; rotate_left; simp only [x])
    | (extract_lets +onlyGivenNames x; refine (fun (hx : Keeps a x) => ?_) ?_; rotate_left; simp only [x])
    | (extract_lets +onlyGivenNames x; clear_value x)
    | extract_lets +onlyGivenNames x
    | split
    | (simp only [keeps_mk]; refine KeepsMk.same rfl ?_ rfl rfl rfl rfl rfl rfl rfl rfl rfl rfl rfl)

/-- What `State.tryIssue` keeps. -/
theorem State.tryIssue_keeps {a0 s : State} (h0 : Keeps a0 s) (n : Nat) :
    Keeps a0 (State.tryIssue s n) := by
  unfold State.tryIssue
  repeat'
    first
    | with_reducible assumption
    | with_reducible refine Keeps.of_eq (by assumption) ?_
    | with_reducible refine State.startRun_keeps ?_ _ _ _ _ _
    | with_reducible refine State.startRun_keeps ?_ _ _ _ _ _ _ (by assumption)
    | with_reducible refine State.setBatch_keeps ?_ _ _
    | with_reducible refine State.setPipe_keeps ?_ _ _ _
    | with_reducible refine State.alarmUpdate_keeps ?_ _ _
    | (extract_lets +onlyGivenNames x; refine (fun (hx : Keeps a0 x) => ?_) ?_; clear_value x; rotate_left; simp only [x])
    | (extract_lets +onlyGivenNames x; refine (fun (hx : Keeps a0 x) => ?_) ?_; rotate_left; simp only [x])
    | (extract_lets +onlyGivenNames x; refine (fun (hx : Keeps a0 x.1) => ?_) ?_; clear_value x; rotate_left; simp only [x])
    | (extract_lets +onlyGivenNames x; refine (fun (hx : Keeps a0 x.1) => ?_) ?_; rotate_left; simp only [x])
    | (extract_lets +onlyGivenNames x; clear_value x)
    | extract_lets +onlyGivenNames x
    | split
    | dsimp only
    | (simp only [keeps_mk]; refine KeepsMk.same rfl ?_ rfl rfl rfl rfl rfl rfl rfl rfl rfl rfl rfl)

/-- What `State.issueReady` keeps. -/
theorem State.issueReady_keeps {a s : State} (h0 : Keeps a s) (p : Nat) (h : Nat) :
    Keeps a (State.issueReady s p h) := by
  unfold State.issueReady
  repeat'
    first
    | with_reducible assumption
    | with_reducible refine Keeps.fold ?_ _ (fun _ _ _ => ?_) _
    | with_reducible refine State.tryIssue_keeps ?_ _
    | split

/-- What `State.joinBatch` keeps. -/
theorem State.joinBatch_keeps {a s : State} (h : Keeps a s) (x : Pipeline) (kind : Nat) (prio : Nat) (e : Nat × Nat) :
    ∀ u y, State.joinBatch s x kind prio e = (u, y) → Keeps a u := by
  have key : Keeps a (State.joinBatch s x kind prio e).1 := by
    unfold State.joinBatch
    repeat'
      first
      | with_reducible assumption
      | with_reducible refine State.setBatch_keeps ?_ _ _
      | with_reducible exact hff _
      | (extract_lets +onlyGivenNames ff; refine (fun (hff : ∀ c, Keeps a (ff c)) => ?_) (fun c => ?_); clear_value ff; rotate_left; simp only [ff])
      | (extract_lets +onlyGivenNames x; refine (fun (hx : Keeps a x) => ?_) ?_; clear_value x; rotate_left; simp only [x])
      | (extract_lets +onlyGivenNames x; refine (fun (hx : Keeps a x) => ?_) ?_; rotate_left; simp only [x])
      | (extract_lets +onlyGivenNames x; refine (fun (hx : Keeps a x.1) => ?_) ?_; clear_value x; rotate_left; simp only [x])
      | (extract_lets +onlyGivenNames x; refine (fun (hx : Keeps a x.1) => ?_) ?_; rotate_left; simp only [x])
      | extract_lets +onlyGivenNames x
      | split
      | dsimp only
      | (simp only [keeps_mk]; refine KeepsMk.same rfl ?_ rfl rfl rfl rfl rfl rfl rfl rfl rfl rfl rfl)
  intro u y hu
  rw [hu] at key
  exact key

/-- What `State.flushBatches` keeps. -/
theorem State.flushBatches_keeps {a s : State} (h0 : Keeps a s) (p : Nat) (h : Nat) (sid : Nat) :
    Keeps a (State.flushBatches s p h sid) := by
  unfold State.flushBatches
  repeat'
    first
    | with_reducible assumption
    | with_reducible refine State.issueReady_keeps ?_ _ _
    | (extract_lets +onlyGivenNames x; refine (fun (hx : Keeps a x) => ?_) ?_; clear_value x; rotate_left; simp only [x])
    | (extract_lets +onlyGivenNames x; refine (fun (hx : Keeps a x) => ?_) ?_; rotate_left; simp only [x])
    | (extract_lets +onlyGivenNames x; refine (fun (hx : Keeps a x.1) => ?_) ?_; clear_value x; rotate_left; simp only [x])
    | (extract_lets +onlyGivenNames x; refine (fun (hx : Keeps a x.1) => ?_) ?_; rotate_left; simp only [x])
    | (extract_lets +onlyGivenNames x; clear_value x)
    | extract_lets +onlyGivenNames x
    | split
    | (simp only [keeps_mk]; refine KeepsMk.same rfl ?_ rfl rfl rfl rfl rfl rfl rfl rfl rfl rfl rfl)

/-- What `State.dropEntries` keeps. -/
theorem State.dropEntries_keeps {a s : State} (h : Keeps a s) (pick : Batch → Nat × Nat → Bool) :
    Keeps a (State.dropEntries s pick) := by
  unfold State.dropEntries
  repeat'
    first
    | with_reducible assumption
    | with_reducible exact hff _
    | (extract_lets +onlyGivenNames ff; refine (fun (hff : ∀ c, Keeps a (ff c)) => ?_) (fun c => ?_); clear_value ff; rotate_left; simp only [ff])
    | (extract_lets +onlyGivenNames x; refine (fun (hx : Keeps a x) => ?_) ?_; clear_value x; rotate_left; simp only [x])
    | (extract_lets +onlyGivenNames x; refine (fun (hx : Keeps a x) => ?_) ?_; rotate_left; simp only [x])
    | (extract_lets +onlyGivenNames x; refine (fun (hx : Keeps a x.1) => ?_) ?_; clear_value x; rotate_left; simp only [x])
    | (extract_lets +onlyGivenNames x; refine (fun (hx : Keeps a x.1) => ?_) ?_; rotate_left; simp only [x])
    | extract_lets +onlyGivenNames x
    | split
    | (simp only [keeps_mk]; refine KeepsMk.same rfl ?_ rfl rfl rfl rfl rfl rfl rfl rfl rfl rfl rfl)

/-- What `State.retireBatch` keeps. -/
theorem State.retireBatch_keeps {a s : State} (h : Keeps a s) (n : Nat) :
    Keeps a (State.retireBatch s n) := by
  unfold State.retireBatch
  repeat'
    first
    | with_reducible assumption
    | with_reducible refine State.endRun_keeps ?_ _
    | (extract_lets +onlyGivenNames x; refine (fun (hx : Keeps a x) => ?_) ?_; clear_value x; rotate_left; simp only [x])
    | (extract_lets +onlyGivenNames x; refine (fun (hx : Keeps a x) => ?_) ?_; rotate_left; simp only [x])
    | (extract_lets +onlyGivenNames x; clear_value x)
    | extract_lets +onlyGivenNames x
    | split
    | (simp only [keeps_mk]; refine KeepsMk.same rfl ?_ rfl rfl rfl rfl rfl rfl rfl rfl rfl rfl rfl)

/-- What `State.sweepBatches` keeps. -/
theorem State.sweepBatches_keeps {a s : State} (h : Keeps a s) :
    Keeps a (State.sweepBatches s) := by
  unfold State.sweepBatches
  repeat'
    first
    | with_reducible assumption
    | with_reducible refine Keeps.fold ?_ _ (fun _ _ _ => ?_) _
    | with_reducible refine State.retireBatch_keeps ?_ _
    | split

/-- What `State.chargeFree` keeps. -/
theorem State.chargeFree_keeps {a s : State} (h : Keeps a s) (p : Nat) (client : Nat) (c : Nat) :
    Keeps a (State.chargeFree s p client c) := by
  unfold State.chargeFree
  repeat'
    first
    | with_reducible assumption
    | with_reducible refine State.chargeWork_keeps ?_ _ _ _ _

end Sys2Proof.Machine
end

