-- ==== Sys2Proof/Laws/KeepFirmware.lean ====
section
/-! SUPPORT. What the operations of Machine/Firmware.lean keep, one lemma for each. -/

namespace Sys2Proof.Machine

set_option linter.unusedTactic false
set_option linter.unreachableTactic false
set_option linter.unusedVariables false
set_option linter.unusedSimpArgs false

/-- What `State.setSlot` keeps. -/
theorem State.setSlot_keeps {a s : State} (h : Keeps a s) (k : Nat) (f : FwSlot → FwSlot) :
    Keeps a (State.setSlot s k f) := by
  unfold State.setSlot
  repeat'
    first
    | with_reducible assumption
    | (extract_lets +onlyGivenNames x; refine (fun (hx : Keeps a x) => ?_) ?_; clear_value x; rotate_left; simp only [x])
    | (extract_lets +onlyGivenNames x; refine (fun (hx : Keeps a x) => ?_) ?_; rotate_left; simp only [x])
    | (extract_lets +onlyGivenNames x; have _g : Mgt := x)
    | (extract_lets +onlyGivenNames x; clear_value x)
    | extract_lets +onlyGivenNames x
    | split
    | (simp only [keeps_mk]; refine KeepsMk.same rfl ?_ rfl rfl rfl rfl rfl rfl rfl rfl rfl rfl rfl)

/-- What `State.chooseSlot` keeps. -/
theorem State.chooseSlot_keeps {a s : State} (h : Keeps a s) :
    ∀ u y, State.chooseSlot s = (u, y) → Keeps a u := by
  have key : Keeps a (State.chooseSlot s).1 := by
    unfold State.chooseSlot
    repeat'
      first
      | with_reducible assumption
      | with_reducible refine State.setSlot_keeps ?_ _ _
      | (extract_lets +onlyGivenNames x; refine (fun (hx : Keeps a x) => ?_) ?_; clear_value x; rotate_left; simp only [x])
      | (extract_lets +onlyGivenNames x; refine (fun (hx : Keeps a x) => ?_) ?_; rotate_left; simp only [x])
      | (extract_lets +onlyGivenNames x; clear_value x)
      | extract_lets +onlyGivenNames x
      | split
      | dsimp only
      | (simp only [keeps_mk]; refine KeepsMk.same rfl ?_ rfl rfl rfl rfl rfl rfl rfl rfl rfl rfl rfl)
  intro u y hu
  rw [hu] at key
  exact key

/-- What `State.bootSlots` keeps. -/
theorem State.bootSlots_keeps {a s : State} (h : Keeps a s) (n : Nat) :
    ∀ u y, State.bootSlots n s = (u, y) → Keeps a u := by
  induction n generalizing s with
  | zero =>
    intro u y hu
    cases hu
    exact h
  | succ n ih =>
    intro u y hu
    unfold State.bootSlots at hu
    split at hu
    · cases hu
      exact State.chooseSlot_keeps h _ _ (by assumption)
    · have hs := State.chooseSlot_keeps h _ _ (by assumption)
      split at hu
      · cases hu
        exact hs
      · exact ih (State.log_keeps (State.setSlot_keeps hs _ _) _ _ _ _ _) u y hu

/-- What `State.bootMp` keeps. -/
theorem State.bootMp_keeps {a s : State} (h : Keeps a s) :
    Keeps a (State.bootMp s) := by
  have hr := State.bootSlots_keeps h 2 _ _ rfl
  exact hr.same rfl rfl rfl rfl rfl rfl rfl rfl rfl rfl rfl rfl

end Sys2Proof.Machine
end

