-- ==== Sys2Proof/Laws/KeepStreamBody.lean ====
section
/-! SUPPORT. What the operations of Machine/StreamBody.lean keep, one lemma for each. -/

namespace Sys2Proof.Machine

set_option linter.unusedTactic false
set_option linter.unreachableTactic false
set_option linter.unusedVariables false
set_option linter.unusedSimpArgs false

/-- What `State.commitSnap` keeps. -/
theorem State.commitSnap_keeps {a s : State} (h : Keeps a s) (x : Stream) (sid : Nat) (q : Snap) (status : Nat) (buffer : Nat) (bytes : Nat) :
    Keeps a (State.commitSnap s x sid q status buffer bytes) := by
  unfold State.commitSnap
  repeat'
    first
    | with_reducible assumption
    | with_reducible refine State.commit_keeps ?_ _ _
    | (simp only [keeps_mk]; refine KeepsMk.same rfl ?_ rfl rfl rfl rfl rfl rfl rfl rfl rfl rfl rfl)

/-- What `State.endChunk` keeps. -/
theorem State.endChunk_keeps {a0 s : State} (h0 : Keeps a0 s) (c : Nat) (last : Bool) :
    Keeps a0 (State.endChunk s c last) := by
  unfold State.endChunk
  repeat'
    first
    | with_reducible assumption
    | with_reducible refine Keeps.of_eq (by assumption) ?_
    | with_reducible refine State.commit_keeps ?_ _ _
    | with_reducible refine State.handBuf_keeps ?_ _
    | with_reducible refine State.writeOutside_keeps ?_ _ _
    | with_reducible refine State.countEmpty_keeps ?_
    | with_reducible refine hff _ _ _ _ ?_
    | (extract_lets +onlyGivenNames ff; refine (fun (hff : ∀ i j k t, Keeps a0 t → Keeps a0 (ff i j k t)) => ?_) (fun _ _ _ _ _ => ?_); clear_value ff; rotate_left; simp only [ff])
    | (extract_lets +onlyGivenNames x; refine (fun (hx : Keeps a0 x) => ?_) ?_; clear_value x; rotate_left; simp only [x])
    | (extract_lets +onlyGivenNames x; refine (fun (hx : Keeps a0 x) => ?_) ?_; rotate_left; simp only [x])
    | (extract_lets +onlyGivenNames x; refine (fun (hx : Keeps a0 x.1) => ?_) ?_; clear_value x; rotate_left; simp only [x])
    | (extract_lets +onlyGivenNames x; refine (fun (hx : Keeps a0 x.1) => ?_) ?_; rotate_left; simp only [x])
    | (extract_lets +onlyGivenNames x; clear_value x)
    | extract_lets +onlyGivenNames x
    | split
    | dsimp only
    | (simp only [keeps_mk]; refine KeepsMk.same rfl ?_ rfl rfl rfl rfl rfl rfl rfl rfl rfl rfl rfl)

/-- What `State.endClip` keeps. -/
theorem State.endClip_keeps {a s : State} (h : Keeps a s) (c : Nat) :
    Keeps a (State.endClip s c) := by
  unfold State.endClip
  repeat'
    first
    | with_reducible assumption
    | with_reducible refine State.endChunk_keeps ?_ _ _
    | (extract_lets +onlyGivenNames x; refine (fun (hx : Keeps a x) => ?_) ?_; clear_value x; rotate_left; simp only [x])
    | (extract_lets +onlyGivenNames x; refine (fun (hx : Keeps a x) => ?_) ?_; rotate_left; simp only [x])
    | (extract_lets +onlyGivenNames x; clear_value x)
    | extract_lets +onlyGivenNames x
    | split
    | (simp only [keeps_mk]; refine KeepsMk.same rfl ?_ rfl rfl rfl rfl rfl rfl rfl rfl rfl rfl rfl)

/-- What `State.freeEncoder` keeps. -/
theorem State.freeEncoder_keeps {a0 s : State} (h0 : Keeps a0 s) (e : Nat) :
    Keeps a0 (State.freeEncoder s e) := by
  unfold State.freeEncoder
  repeat'
    first
    | with_reducible assumption
    | with_reducible refine Keeps.of_eq (by assumption) ?_
    | (extract_lets +onlyGivenNames x; refine (fun (hx : Keeps a0 x) => ?_) ?_; clear_value x; rotate_left; simp only [x])
    | (extract_lets +onlyGivenNames x; refine (fun (hx : Keeps a0 x) => ?_) ?_; rotate_left; simp only [x])
    | (extract_lets +onlyGivenNames x; refine (fun (hx : Keeps a0 x.1) => ?_) ?_; clear_value x; rotate_left; simp only [x])
    | (extract_lets +onlyGivenNames x; refine (fun (hx : Keeps a0 x.1) => ?_) ?_; rotate_left; simp only [x])
    | (extract_lets +onlyGivenNames x; clear_value x)
    | extract_lets +onlyGivenNames x
    | split
    | dsimp only
    | (simp only [keeps_mk]; refine KeepsMk.same rfl ?_ rfl rfl rfl rfl rfl rfl rfl rfl rfl rfl rfl)

/-- What `State.addStream` keeps. -/
theorem State.addStream_keeps {a0 s : State} (h0 : Keeps a0 s) (pk : Packet) (k : Nat) (t : Nat) (a : Nat) :
    Keeps a0 (State.addStream s pk k t a) := by
  unfold State.addStream
  repeat'
    first
    | with_reducible assumption
    | with_reducible refine Keeps.of_eq (by assumption) ?_
    | with_reducible refine State.takeClient_keeps ?_ _ _ _ _ _ (by assumption)
    | with_reducible refine State.takeClient_keeps ?_ _ _ _ _ _ Prod.mk.eta.symm
    | (extract_lets +onlyGivenNames x; refine (fun (hx : Keeps a0 x) => ?_) ?_; clear_value x; rotate_left; simp only [x])
    | (extract_lets +onlyGivenNames x; refine (fun (hx : Keeps a0 x) => ?_) ?_; rotate_left; simp only [x])
    | (extract_lets +onlyGivenNames x; refine (fun (hx : Keeps a0 x.1) => ?_) ?_; clear_value x; rotate_left; simp only [x])
    | (extract_lets +onlyGivenNames x; refine (fun (hx : Keeps a0 x.1) => ?_) ?_; rotate_left; simp only [x])
    | (extract_lets +onlyGivenNames x; clear_value x)
    | extract_lets +onlyGivenNames x
    | split
    | dsimp only
    | (simp only [keeps_mk]; refine KeepsMk.same rfl ?_ rfl rfl rfl rfl rfl rfl rfl rfl rfl rfl rfl)

/-- What `bodyStreamOpen` keeps. -/
theorem bodyStreamOpen_keeps {a0 s : State} (h0 : Keeps a0 s) (fl : Flight) :
    Keeps a0 (bodyStreamOpen s fl) := by
  unfold bodyStreamOpen
  repeat'
    first
    | with_reducible assumption
    | with_reducible refine Keeps.of_eq (by assumption) ?_
    | with_reducible refine State.endWith_keeps ?_ _ _ _
    | with_reducible refine State.addStream_keeps ?_ _ _ _ _
    | with_reducible refine State.endPacket_keeps ?_ _ _
    | (extract_lets +onlyGivenNames x; refine (fun (hx : Keeps a0 x) => ?_) ?_; clear_value x; rotate_left; simp only [x])
    | (extract_lets +onlyGivenNames x; refine (fun (hx : Keeps a0 x) => ?_) ?_; rotate_left; simp only [x])
    | (extract_lets +onlyGivenNames x; refine (fun (hx : Keeps a0 x.1) => ?_) ?_; clear_value x; rotate_left; simp only [x])
    | (extract_lets +onlyGivenNames x; refine (fun (hx : Keeps a0 x.1) => ?_) ?_; rotate_left; simp only [x])
    | (extract_lets +onlyGivenNames x; clear_value x)
    | extract_lets +onlyGivenNames x
    | split
    | dsimp only
    | (simp only [keeps_mk]; refine KeepsMk.same rfl ?_ rfl rfl rfl rfl rfl rfl rfl rfl rfl rfl rfl)

/-- What `startFeed` keeps. -/
theorem startFeed_keeps {a s : State} (h : Keeps a s) (fl : Flight) :
    Keeps a (startFeed s fl) := by
  unfold startFeed
  repeat'
    first
    | with_reducible assumption
    | with_reducible refine State.endWith_keeps ?_ _ _ _
    | with_reducible refine State.countEmpty_keeps ?_
    | with_reducible refine State.setStream_keeps ?_ _ _
    | with_reducible refine State.takeDevice_keeps ?_ _
    | with_reducible refine State.dmaRead_keeps ?_ _ _ _ _ _
    | (extract_lets +onlyGivenNames x; refine (fun (hx : Keeps a x) => ?_) ?_; clear_value x; rotate_left; simp only [x])
    | (extract_lets +onlyGivenNames x; refine (fun (hx : Keeps a x) => ?_) ?_; rotate_left; simp only [x])
    | (extract_lets +onlyGivenNames x; clear_value x)
    | extract_lets +onlyGivenNames x
    | split
    | (simp only [keeps_mk]; refine KeepsMk.same rfl ?_ rfl rfl rfl rfl rfl rfl rfl rfl rfl rfl rfl)

/-- What `bodyFeed` keeps. -/
theorem bodyFeed_keeps {a s : State} (h : Keeps a s) (fl : Flight) :
    Keeps a (bodyFeed s fl) := by
  unfold bodyFeed
  repeat'
    first
    | with_reducible assumption
    | with_reducible refine State.endWith_keeps ?_ _ _ _
    | with_reducible refine State.setWait_keeps ?_ _ _
    | with_reducible refine startFeed_keeps ?_ _
    | (extract_lets +onlyGivenNames x; refine (fun (hx : Keeps a x) => ?_) ?_; clear_value x; rotate_left; simp only [x])
    | (extract_lets +onlyGivenNames x; refine (fun (hx : Keeps a x) => ?_) ?_; rotate_left; simp only [x])
    | (extract_lets +onlyGivenNames x; clear_value x)
    | extract_lets +onlyGivenNames x
    | split
    | (simp only [keeps_mk]; refine KeepsMk.same rfl ?_ rfl rfl rfl rfl rfl rfl rfl rfl rfl rfl rfl)

/-- What `doneFeed` keeps. -/
theorem doneFeed_keeps {a0 s : State} (h0 : Keeps a0 s) (fl : Flight) (data : List Byte) :
    Keeps a0 (doneFeed s fl data) := by
  unfold doneFeed
  repeat'
    first
    | with_reducible assumption
    | with_reducible refine Keeps.of_eq (by assumption) ?_
    | with_reducible refine State.returnBuf_keeps ?_ _
    | with_reducible refine State.endWith_keeps ?_ _ _ _
    | with_reducible refine State.writeOutside_keeps ?_ _ _
    | with_reducible refine State.chargeWork_keeps ?_ _ _ _ _
    | with_reducible refine State.dramTraffic_keeps ?_ _ _ _ _ _ _
    | with_reducible refine State.setStream_keeps ?_ _ _
    | with_reducible refine State.alarmUpdate_keeps ?_ _ _
    | with_reducible refine State.endPacket_keeps ?_ _ _
    | (extract_lets +onlyGivenNames x; refine (fun (hx : Keeps a0 x) => ?_) ?_; clear_value x; rotate_left; simp only [x])
    | (extract_lets +onlyGivenNames x; refine (fun (hx : Keeps a0 x) => ?_) ?_; rotate_left; simp only [x])
    | (extract_lets +onlyGivenNames x; refine (fun (hx : Keeps a0 x.1) => ?_) ?_; clear_value x; rotate_left; simp only [x])
    | (extract_lets +onlyGivenNames x; refine (fun (hx : Keeps a0 x.1) => ?_) ?_; rotate_left; simp only [x])
    | (extract_lets +onlyGivenNames x; clear_value x)
    | extract_lets +onlyGivenNames x
    | split
    | dsimp only
    | (simp only [keeps_mk]; refine KeepsMk.same rfl ?_ rfl rfl rfl rfl rfl rfl rfl rfl rfl rfl rfl)

/-- What `failFeed` keeps. -/
theorem failFeed_keeps {a s : State} (h : Keeps a s) (fl : Flight) :
    Keeps a (failFeed s fl) := by
  unfold failFeed
  repeat'
    first
    | with_reducible assumption
    | with_reducible refine State.returnBuf_keeps ?_ _
    | with_reducible refine State.endWith_keeps ?_ _ _ _
    | with_reducible refine State.setStream_keeps ?_ _ _
    | (extract_lets +onlyGivenNames x; refine (fun (hx : Keeps a x) => ?_) ?_; clear_value x; rotate_left; simp only [x])
    | (extract_lets +onlyGivenNames x; refine (fun (hx : Keeps a x) => ?_) ?_; rotate_left; simp only [x])
    | (extract_lets +onlyGivenNames x; clear_value x)
    | extract_lets +onlyGivenNames x
    | split
    | (simp only [keeps_mk]; refine KeepsMk.same rfl ?_ rfl rfl rfl rfl rfl rfl rfl rfl rfl rfl rfl)

/-- What `State.endTracks` keeps. -/
theorem State.endTracks_keeps {a s : State} (h : Keeps a s) (sid : Nat) (reason : Nat) :
    Keeps a (State.endTracks s sid reason) := by
  unfold State.endTracks
  repeat'
    first
    | with_reducible assumption
    | with_reducible refine Keeps.fold ?_ _ (fun _ _ _ => ?_) _
    | with_reducible refine State.commit_keeps ?_ _ _
    | with_reducible refine State.setStream_keeps ?_ _ _
    | (extract_lets +onlyGivenNames x; refine (fun (hx : Keeps a x) => ?_) ?_; clear_value x; rotate_left; simp only [x])
    | (extract_lets +onlyGivenNames x; refine (fun (hx : Keeps a x) => ?_) ?_; rotate_left; simp only [x])
    | (extract_lets +onlyGivenNames x; clear_value x)
    | extract_lets +onlyGivenNames x
    | split
    | (simp only [keeps_mk]; refine KeepsMk.same rfl ?_ rfl rfl rfl rfl rfl rfl rfl rfl rfl rfl rfl)

/-- What `State.reportSnaps` keeps. -/
theorem State.reportSnaps_keeps {a0 s : State} (h0 : Keeps a0 s) (sid : Nat) (gone : Snap → Bool) :
    Keeps a0 (State.reportSnaps s sid gone) := by
  unfold State.reportSnaps
  repeat'
    first
    | with_reducible assumption
    | with_reducible refine Keeps.fold ?_ _ (fun _ _ _ => ?_) _
    | with_reducible refine Keeps.foldPair ?_ _ (fun _ _ _ => ?_) _
    | with_reducible refine Keeps.of_eq (by assumption) ?_
    | with_reducible refine State.commitSnap_keeps ?_ _ _ _ _ _ _
    | with_reducible refine State.setStream_keeps ?_ _ _
    | (extract_lets +onlyGivenNames x; refine (fun (hx : Keeps a0 x) => ?_) ?_; clear_value x; rotate_left; simp only [x])
    | (extract_lets +onlyGivenNames x; refine (fun (hx : Keeps a0 x) => ?_) ?_; rotate_left; simp only [x])
    | (extract_lets +onlyGivenNames x; refine (fun (hx : Keeps a0 x.1) => ?_) ?_; clear_value x; rotate_left; simp only [x])
    | (extract_lets +onlyGivenNames x; refine (fun (hx : Keeps a0 x.1) => ?_) ?_; rotate_left; simp only [x])
    | (extract_lets +onlyGivenNames x; clear_value x)
    | extract_lets +onlyGivenNames x
    | split
    | dsimp only
    | (simp only [keeps_mk]; refine KeepsMk.same rfl ?_ rfl rfl rfl rfl rfl rfl rfl rfl rfl rfl rfl)

/-- What `State.resetStream` keeps. -/
theorem State.resetStream_keeps {a0 s : State} (h0 : Keeps a0 s) (sid : Nat) (reason : Nat) :
    Keeps a0 (State.resetStream s sid reason) := by
  unfold State.resetStream
  repeat'
    first
    | with_reducible assumption
    | with_reducible refine Keeps.fold ?_ _ (fun _ _ _ => ?_) _
    | with_reducible refine Keeps.foldPair ?_ _ (fun _ _ _ => ?_) _
    | with_reducible refine Keeps.of_eq (by assumption) ?_
    | with_reducible refine State.setCluster_keeps ?_ _ _
    | with_reducible refine State.returnBuf_keeps ?_ _
    | with_reducible refine State.reportSnaps_keeps ?_ _ _
    | with_reducible refine State.endTracks_keeps ?_ _ _
    | with_reducible refine State.freeEncoder_keeps ?_ _
    | with_reducible refine State.dropEntries_keeps ?_ _
    | with_reducible refine State.dropWindows_keeps ?_ _ _
    | with_reducible refine State.setStream_keeps ?_ _ _
    | (extract_lets +onlyGivenNames x; refine (fun (hx : Keeps a0 x) => ?_) ?_; clear_value x; rotate_left; simp only [x])
    | (extract_lets +onlyGivenNames x; refine (fun (hx : Keeps a0 x) => ?_) ?_; rotate_left; simp only [x])
    | (extract_lets +onlyGivenNames x; refine (fun (hx : Keeps a0 x.1) => ?_) ?_; clear_value x; rotate_left; simp only [x])
    | (extract_lets +onlyGivenNames x; refine (fun (hx : Keeps a0 x.1) => ?_) ?_; rotate_left; simp only [x])
    | (extract_lets +onlyGivenNames x; clear_value x)
    | extract_lets +onlyGivenNames x
    | split
    | dsimp only
    | (simp only [keeps_mk]; refine KeepsMk.same rfl ?_ rfl rfl rfl rfl rfl rfl rfl rfl rfl rfl rfl)

/-- What `State.closeStream` keeps. -/
theorem State.closeStream_keeps {a s : State} (h : Keeps a s) (sid : Nat) :
    Keeps a (State.closeStream s sid) := by
  unfold State.closeStream
  repeat'
    first
    | with_reducible assumption
    | with_reducible refine Keeps.fold ?_ _ (fun _ _ _ => ?_) _
    | with_reducible refine State.endClip_keeps ?_ _
    | with_reducible refine State.reportSnaps_keeps ?_ _ _
    | with_reducible refine State.dropClient_keeps ?_ _
    | with_reducible refine State.dropWindows_keeps ?_ _ _
    | (extract_lets +onlyGivenNames x; refine (fun (hx : Keeps a x) => ?_) ?_; clear_value x; rotate_left; simp only [x])
    | (extract_lets +onlyGivenNames x; refine (fun (hx : Keeps a x) => ?_) ?_; rotate_left; simp only [x])
    | (extract_lets +onlyGivenNames x; clear_value x)
    | extract_lets +onlyGivenNames x
    | split
    | (simp only [keeps_mk]; refine KeepsMk.same rfl ?_ rfl rfl rfl rfl rfl rfl rfl rfl rfl rfl rfl)

/-- What `startReset` keeps. -/
theorem startReset_keeps {a s : State} (h : Keeps a s) (fl : Flight) :
    Keeps a (startReset s fl) := by
  unfold startReset
  repeat'
    first
    | with_reducible assumption
    | with_reducible refine State.endWith_keeps ?_ _ _ _
    | with_reducible refine State.closeStream_keeps ?_ _
    | with_reducible refine State.resetStream_keeps ?_ _ _
    | with_reducible refine State.endPacket_keeps ?_ _ _
    | (extract_lets +onlyGivenNames x; refine (fun (hx : Keeps a x) => ?_) ?_; clear_value x; rotate_left; simp only [x])
    | (extract_lets +onlyGivenNames x; refine (fun (hx : Keeps a x) => ?_) ?_; rotate_left; simp only [x])
    | (extract_lets +onlyGivenNames x; clear_value x)
    | extract_lets +onlyGivenNames x
    | split
    | (simp only [keeps_mk]; refine KeepsMk.same rfl ?_ rfl rfl rfl rfl rfl rfl rfl rfl rfl rfl rfl)

/-- What `startFlush` keeps. -/
theorem startFlush_keeps {a s : State} (h : Keeps a s) (fl : Flight) :
    Keeps a (startFlush s fl) := by
  unfold startFlush
  repeat'
    first
    | with_reducible assumption
    | with_reducible refine State.endWith_keeps ?_ _ _ _
    | with_reducible refine State.setStream_keeps ?_ _ _
    | with_reducible refine State.setWait_keeps ?_ _ _
    | with_reducible refine State.flushBatches_keeps ?_ _ _ _
    | (extract_lets +onlyGivenNames x; refine (fun (hx : Keeps a x) => ?_) ?_; clear_value x; rotate_left; simp only [x])
    | (extract_lets +onlyGivenNames x; refine (fun (hx : Keeps a x) => ?_) ?_; rotate_left; simp only [x])
    | (extract_lets +onlyGivenNames x; clear_value x)
    | extract_lets +onlyGivenNames x
    | split
    | (simp only [keeps_mk]; refine KeepsMk.same rfl ?_ rfl rfl rfl rfl rfl rfl rfl rfl rfl rfl rfl)

/-- What `bodyStreamEnd` keeps. -/
theorem bodyStreamEnd_keeps {a s : State} (h : Keeps a s) (fl : Flight) :
    Keeps a (bodyStreamEnd s fl) := by
  unfold bodyStreamEnd
  repeat'
    first
    | with_reducible assumption
    | with_reducible refine State.endWith_keeps ?_ _ _ _
    | with_reducible refine State.setWait_keeps ?_ _ _
    | with_reducible refine startFlush_keeps ?_ _
    | with_reducible refine startReset_keeps ?_ _
    | (extract_lets +onlyGivenNames x; refine (fun (hx : Keeps a x) => ?_) ?_; clear_value x; rotate_left; simp only [x])
    | (extract_lets +onlyGivenNames x; refine (fun (hx : Keeps a x) => ?_) ?_; rotate_left; simp only [x])
    | (extract_lets +onlyGivenNames x; clear_value x)
    | extract_lets +onlyGivenNames x
    | split
    | (simp only [keeps_mk]; refine KeepsMk.same rfl ?_ rfl rfl rfl rfl rfl rfl rfl rfl rfl rfl rfl)

/-- What `bodyStreamFlush` keeps. -/
theorem bodyStreamFlush_keeps {a s : State} (h : Keeps a s) (fl : Flight) :
    Keeps a (bodyStreamFlush s fl) := by
  unfold bodyStreamFlush
  repeat'
    first
    | with_reducible assumption
    | with_reducible refine bodyStreamEnd_keeps ?_ _

/-- What `bodyStreamReset` keeps. -/
theorem bodyStreamReset_keeps {a s : State} (h : Keeps a s) (fl : Flight) :
    Keeps a (bodyStreamReset s fl) := by
  unfold bodyStreamReset
  repeat'
    first
    | with_reducible assumption
    | with_reducible refine bodyStreamEnd_keeps ?_ _

/-- What `bodyStreamClose` keeps. -/
theorem bodyStreamClose_keeps {a s : State} (h : Keeps a s) (fl : Flight) :
    Keeps a (bodyStreamClose s fl) := by
  unfold bodyStreamClose
  repeat'
    first
    | with_reducible assumption
    | with_reducible refine bodyStreamEnd_keeps ?_ _

/-- What `flushEmptied` keeps. -/
theorem flushEmptied_keeps {a s : State} (h : Keeps a s) (fl : Flight) (x : Stream) :
    Keeps a (flushEmptied s fl x) := by
  unfold flushEmptied
  repeat'
    first
    | with_reducible assumption
    | with_reducible refine State.endTracks_keeps ?_ _ _
    | with_reducible refine State.setWait_keeps ?_ _ _
    | (extract_lets +onlyGivenNames x; refine (fun (hx : Keeps a x) => ?_) ?_; clear_value x; rotate_left; simp only [x])
    | (extract_lets +onlyGivenNames x; refine (fun (hx : Keeps a x) => ?_) ?_; rotate_left; simp only [x])
    | (extract_lets +onlyGivenNames x; clear_value x)
    | extract_lets +onlyGivenNames x
    | split
    | (simp only [keeps_mk]; refine KeepsMk.same rfl ?_ rfl rfl rfl rfl rfl rfl rfl rfl rfl rfl rfl)

/-- What `finishFlush` keeps. -/
theorem finishFlush_keeps {a s : State} (h : Keeps a s) (fl : Flight) (n : Nat) :
    Keeps a (finishFlush s fl n) := by
  unfold finishFlush
  repeat'
    first
    | with_reducible assumption
    | with_reducible refine State.closeStream_keeps ?_ _
    | with_reducible refine State.setStream_keeps ?_ _ _
    | with_reducible refine State.endPacket_keeps ?_ _ _
    | (extract_lets +onlyGivenNames x; refine (fun (hx : Keeps a x) => ?_) ?_; clear_value x; rotate_left; simp only [x])
    | (extract_lets +onlyGivenNames x; refine (fun (hx : Keeps a x) => ?_) ?_; rotate_left; simp only [x])
    | (extract_lets +onlyGivenNames x; clear_value x)
    | extract_lets +onlyGivenNames x
    | split
    | (simp only [keeps_mk]; refine KeepsMk.same rfl ?_ rfl rfl rfl rfl rfl rfl rfl rfl rfl rfl rfl)

/-- What `bodySnapshot` keeps. -/
theorem bodySnapshot_keeps {a s : State} (h : Keeps a s) (fl : Flight) :
    Keeps a (bodySnapshot s fl) := by
  unfold bodySnapshot
  repeat'
    first
    | with_reducible assumption
    | with_reducible refine State.endWith_keeps ?_ _ _ _
    | with_reducible refine State.endPacket_keeps ?_ _ _
    | with_reducible refine State.setStream_keeps ?_ _ _
    | (extract_lets +onlyGivenNames x; refine (fun (hx : Keeps a x) => ?_) ?_; clear_value x; rotate_left; simp only [x])
    | (extract_lets +onlyGivenNames x; refine (fun (hx : Keeps a x) => ?_) ?_; rotate_left; simp only [x])
    | (extract_lets +onlyGivenNames x; clear_value x)
    | extract_lets +onlyGivenNames x
    | split
    | (simp only [keeps_mk]; refine KeepsMk.same rfl ?_ rfl rfl rfl rfl rfl rfl rfl rfl rfl rfl rfl)

/-- What `bodyClipStart` keeps. -/
theorem bodyClipStart_keeps {a s : State} (h : Keeps a s) (fl : Flight) :
    Keeps a (bodyClipStart s fl) := by
  unfold bodyClipStart
  repeat'
    first
    | with_reducible assumption
    | with_reducible refine State.endWith_keeps ?_ _ _ _
    | with_reducible refine State.endPacket_keeps ?_ _ _
    | (extract_lets +onlyGivenNames x; refine (fun (hx : Keeps a x) => ?_) ?_; clear_value x; rotate_left; simp only [x])
    | (extract_lets +onlyGivenNames x; refine (fun (hx : Keeps a x) => ?_) ?_; rotate_left; simp only [x])
    | (extract_lets +onlyGivenNames x; clear_value x)
    | extract_lets +onlyGivenNames x
    | split
    | (simp only [keeps_mk]; refine KeepsMk.same rfl ?_ rfl rfl rfl rfl rfl rfl rfl rfl rfl rfl rfl)

/-- What `bodyClipStop` keeps. -/
theorem bodyClipStop_keeps {a s : State} (h : Keeps a s) (fl : Flight) :
    Keeps a (bodyClipStop s fl) := by
  unfold bodyClipStop
  repeat'
    first
    | with_reducible assumption
    | with_reducible refine State.endWith_keeps ?_ _ _ _
    | with_reducible refine State.setWait_keeps ?_ _ _
    | with_reducible refine State.endClip_keeps ?_ _
    | (extract_lets +onlyGivenNames x; refine (fun (hx : Keeps a x) => ?_) ?_; clear_value x; rotate_left; simp only [x])
    | (extract_lets +onlyGivenNames x; refine (fun (hx : Keeps a x) => ?_) ?_; rotate_left; simp only [x])
    | (extract_lets +onlyGivenNames x; clear_value x)
    | extract_lets +onlyGivenNames x
    | split
    | (simp only [keeps_mk]; refine KeepsMk.same rfl ?_ rfl rfl rfl rfl rfl rfl rfl rfl rfl rfl rfl)

/-- What `bodyEncodeKey` keeps. -/
theorem bodyEncodeKey_keeps {a s : State} (h : Keeps a s) (fl : Flight) :
    Keeps a (bodyEncodeKey s fl) := by
  unfold bodyEncodeKey
  repeat'
    first
    | with_reducible assumption
    | with_reducible refine State.endWith_keeps ?_ _ _ _
    | (extract_lets +onlyGivenNames x; refine (fun (hx : Keeps a x) => ?_) ?_; clear_value x; rotate_left; simp only [x])
    | (extract_lets +onlyGivenNames x; refine (fun (hx : Keeps a x) => ?_) ?_; rotate_left; simp only [x])
    | (extract_lets +onlyGivenNames x; clear_value x)
    | extract_lets +onlyGivenNames x
    | split
    | (simp only [keeps_mk]; refine KeepsMk.same rfl ?_ rfl rfl rfl rfl rfl rfl rfl rfl rfl rfl rfl)

end Sys2Proof.Machine
end

