-- ==== Sys2Proof/Laws/KeepPageBody.lean ====
section
/-! SUPPORT. What the operations of Machine/PageBody.lean keep, one lemma for each. -/

namespace Sys2Proof.Machine

set_option linter.unusedTactic false
set_option linter.unreachableTactic false
set_option linter.unusedVariables false
set_option linter.unusedSimpArgs false

/-- What `State.setLane` keeps. -/
theorem State.setLane_keeps {a s : State} (h : Keeps a s) (l : Nat) :
    Keeps a (State.setLane s l) := by
  unfold State.setLane
  repeat'
    first
    | with_reducible assumption
    | (extract_lets +onlyGivenNames x; refine (fun (hx : Keeps a x) => ?_) ?_; clear_value x; rotate_left; simp only [x])
    | (extract_lets +onlyGivenNames x; refine (fun (hx : Keeps a x) => ?_) ?_; rotate_left; simp only [x])
    | (extract_lets +onlyGivenNames x; clear_value x)
    | extract_lets +onlyGivenNames x
    | (simp only [keeps_mk]; refine KeepsMk.same rfl ?_ rfl rfl rfl rfl rfl rfl rfl rfl rfl rfl rfl)

/-- What `State.freeLane` keeps. -/
theorem State.freeLane_keeps {a s : State} (h : Keeps a s) (g : Page) :
    Keeps a (State.freeLane s g) := by
  unfold State.freeLane
  repeat'
    first
    | with_reducible assumption
    | (extract_lets +onlyGivenNames x; refine (fun (hx : Keeps a x) => ?_) ?_; clear_value x; rotate_left; simp only [x])
    | (extract_lets +onlyGivenNames x; refine (fun (hx : Keeps a x) => ?_) ?_; rotate_left; simp only [x])
    | (extract_lets +onlyGivenNames x; clear_value x)
    | extract_lets +onlyGivenNames x
    | split
    | (simp only [keeps_mk]; refine KeepsMk.same rfl ?_ rfl rfl rfl rfl rfl rfl rfl rfl rfl rfl rfl)

/-- What `State.returnOpt` keeps. -/
theorem State.returnOpt_keeps {a s : State} (h : Keeps a s) (z1 : Option Nat) :
    Keeps a (State.returnOpt s z1) := by
  unfold State.returnOpt
  repeat'
    first
    | with_reducible assumption
    | with_reducible refine State.returnBuf_keeps ?_ _
    | split

/-- What `State.freePageInput` keeps. -/
theorem State.freePageInput_keeps {a s : State} (h : Keeps a s) (g : Page) :
    Keeps a (State.freePageInput s g) := by
  unfold State.freePageInput
  repeat'
    first
    | with_reducible assumption
    | with_reducible refine State.returnOpt_keeps ?_ _

/-- What `State.endPage` keeps. -/
theorem State.endPage_keeps {a0 s : State} (h0 : Keeps a0 s) (n : Nat) (status : Nat) (whole : Bool) :
    Keeps a0 (State.endPage s n status whole) := by
  unfold State.endPage
  repeat'
    first
    | with_reducible assumption
    | with_reducible refine Keeps.fold ?_ _ (fun _ _ _ => ?_) _
    | with_reducible refine Keeps.foldPair ?_ _ (fun _ _ _ => ?_) _
    | with_reducible refine Keeps.of_eq (by assumption) ?_
    | with_reducible refine State.freePageInput_keeps ?_ _
    | with_reducible refine State.returnOpt_keeps ?_ _
    | with_reducible refine State.freeLane_keeps ?_ _
    | with_reducible refine State.dropEntries_keeps ?_ _
    | with_reducible refine State.chargeWork_keeps ?_ _ _ _ _
    | with_reducible refine State.commit_keeps ?_ _ _
    | (extract_lets +onlyGivenNames x; refine (fun (hx : Keeps a0 x) => ?_) ?_; clear_value x; rotate_left; simp only [x])
    | (extract_lets +onlyGivenNames x; refine (fun (hx : Keeps a0 x) => ?_) ?_; rotate_left; simp only [x])
    | (extract_lets +onlyGivenNames x; refine (fun (hx : Keeps a0 x.1) => ?_) ?_; clear_value x; rotate_left; simp only [x])
    | (extract_lets +onlyGivenNames x; refine (fun (hx : Keeps a0 x.1) => ?_) ?_; rotate_left; simp only [x])
    | (extract_lets +onlyGivenNames x; clear_value x)
    | extract_lets +onlyGivenNames x
    | split
    | dsimp only
    | (simp only [keeps_mk]; refine KeepsMk.same rfl ?_ rfl rfl rfl rfl rfl rfl rfl rfl rfl rfl rfl)

/-- What `State.quantisePage` keeps. -/
theorem State.quantisePage_keeps {a s : State} (h : Keeps a s) (n : Nat) (g : Page) (x : Pipeline) :
    Keeps a (State.quantisePage s n g x) := by
  unfold State.quantisePage
  repeat'
    first
    | with_reducible assumption
    | with_reducible refine State.chargeWork_keeps ?_ _ _ _ _
    | with_reducible refine State.joinBatch_keeps ?_ _ _ _ _ _ _ (by assumption)
    | with_reducible refine State.joinBatch_keeps ?_ _ _ _ _ _ _ rfl
    | with_reducible refine State.setPage_keeps ?_ _ _
    | with_reducible refine State.sweepBatches_keeps ?_
    | with_reducible refine State.alarmUpdate_keeps ?_ _ _
    | with_reducible refine State.issueReady_keeps ?_ _ _
    | (extract_lets +onlyGivenNames x; refine (fun (hx : Keeps a x) => ?_) ?_; clear_value x; rotate_left; simp only [x])
    | (extract_lets +onlyGivenNames x; refine (fun (hx : Keeps a x) => ?_) ?_; rotate_left; simp only [x])
    | (extract_lets +onlyGivenNames x; refine (fun (hx : Keeps a x.1) => ?_) ?_; clear_value x; rotate_left; simp only [x])
    | (extract_lets +onlyGivenNames x; refine (fun (hx : Keeps a x.1) => ?_) ?_; rotate_left; simp only [x])
    | (extract_lets +onlyGivenNames x; clear_value x)
    | extract_lets +onlyGivenNames x
    | split
    | (simp only [keeps_mk]; refine KeepsMk.same rfl ?_ rfl rfl rfl rfl rfl rfl rfl rfl rfl rfl rfl)

/-- What `State.tryQuantise` keeps. -/
theorem State.tryQuantise_keeps {a s : State} (h : Keeps a s) (n : Nat) :
    Keeps a (State.tryQuantise s n) := by
  unfold State.tryQuantise
  repeat'
    first
    | with_reducible assumption
    | with_reducible refine State.quantisePage_keeps ?_ _ _ _
    | (extract_lets +onlyGivenNames x; refine (fun (hx : Keeps a x) => ?_) ?_; clear_value x; rotate_left; simp only [x])
    | (extract_lets +onlyGivenNames x; refine (fun (hx : Keeps a x) => ?_) ?_; rotate_left; simp only [x])
    | (extract_lets +onlyGivenNames x; clear_value x)
    | extract_lets +onlyGivenNames x
    | split
    | (simp only [keeps_mk]; refine KeepsMk.same rfl ?_ rfl rfl rfl rfl rfl rfl rfl rfl rfl rfl rfl)

/-- What `State.quantisePages` keeps. -/
theorem State.quantisePages_keeps {a s : State} (h : Keeps a s) :
    Keeps a (State.quantisePages s) := by
  unfold State.quantisePages
  repeat'
    first
    | with_reducible assumption
    | with_reducible refine Keeps.fold ?_ _ (fun _ _ _ => ?_) _
    | with_reducible refine State.tryQuantise_keeps ?_ _
    | split

/-- What `State.beginReads` keeps. -/
theorem State.beginReads_keeps {a s : State} (h : Keeps a s) (n : Nat) :
    Keeps a (State.beginReads s n) := by
  unfold State.beginReads
  repeat'
    first
    | with_reducible assumption
    | (extract_lets +onlyGivenNames x; refine (fun (hx : Keeps a x) => ?_) ?_; clear_value x; rotate_left; simp only [x])
    | (extract_lets +onlyGivenNames x; refine (fun (hx : Keeps a x) => ?_) ?_; rotate_left; simp only [x])
    | (extract_lets +onlyGivenNames x; refine (fun (hx : Keeps a x.1) => ?_) ?_; clear_value x; rotate_left; simp only [x])
    | (extract_lets +onlyGivenNames x; refine (fun (hx : Keeps a x.1) => ?_) ?_; rotate_left; simp only [x])
    | (extract_lets +onlyGivenNames x; clear_value x)
    | extract_lets +onlyGivenNames x
    | split
    | (simp only [keeps_mk]; refine KeepsMk.same rfl ?_ rfl rfl rfl rfl rfl rfl rfl rfl rfl rfl rfl)

/-- What `State.setRead` keeps. -/
theorem State.setRead_keeps {a s : State} (h : Keeps a s) (k : Nat) (f : Read → Read) :
    Keeps a (State.setRead s k f) := by
  unfold State.setRead
  repeat'
    first
    | with_reducible assumption
    | (extract_lets +onlyGivenNames x; refine (fun (hx : Keeps a x) => ?_) ?_; clear_value x; rotate_left; simp only [x])
    | (extract_lets +onlyGivenNames x; refine (fun (hx : Keeps a x) => ?_) ?_; rotate_left; simp only [x])
    | (extract_lets +onlyGivenNames x; clear_value x)
    | extract_lets +onlyGivenNames x
    | (simp only [keeps_mk]; refine KeepsMk.same rfl ?_ rfl rfl rfl rfl rfl rfl rfl rfl rfl rfl rfl)

/-- What `State.pageRead` keeps. -/
theorem State.pageRead_keeps {a0 s : State} (h0 : Keeps a0 s) (n : Nat) :
    Keeps a0 (State.pageRead s n) := by
  unfold State.pageRead
  repeat'
    first
    | with_reducible assumption
    | with_reducible refine Keeps.of_eq (by assumption) ?_
    | with_reducible refine State.endPage_keeps ?_ _ _ _
    | (extract_lets +onlyGivenNames x; refine (fun (hx : Keeps a0 x) => ?_) ?_; clear_value x; rotate_left; simp only [x])
    | (extract_lets +onlyGivenNames x; refine (fun (hx : Keeps a0 x) => ?_) ?_; rotate_left; simp only [x])
    | (extract_lets +onlyGivenNames x; refine (fun (hx : Keeps a0 x.1) => ?_) ?_; clear_value x; rotate_left; simp only [x])
    | (extract_lets +onlyGivenNames x; refine (fun (hx : Keeps a0 x.1) => ?_) ?_; rotate_left; simp only [x])
    | (extract_lets +onlyGivenNames x; clear_value x)
    | extract_lets +onlyGivenNames x
    | split
    | dsimp only
    | (simp only [keeps_mk]; refine KeepsMk.same rfl ?_ rfl rfl rfl rfl rfl rfl rfl rfl rfl rfl rfl)

/-- What `State.readOver` keeps. -/
theorem State.readOver_keeps {a s : State} (h : Keeps a s) (r : Nat) (i : Nat) (x : Read) :
    Keeps a (State.readOver s r i x) := by
  unfold State.readOver
  repeat'
    first
    | with_reducible assumption
    | with_reducible refine State.pageRead_keeps ?_ _
    | with_reducible refine State.setPage_keeps ?_ _ _
    | (extract_lets +onlyGivenNames x; refine (fun (hx : Keeps a x) => ?_) ?_; clear_value x; rotate_left; simp only [x])
    | (extract_lets +onlyGivenNames x; refine (fun (hx : Keeps a x) => ?_) ?_; rotate_left; simp only [x])
    | (extract_lets +onlyGivenNames x; clear_value x)
    | extract_lets +onlyGivenNames x
    | split
    | (simp only [keeps_mk]; refine KeepsMk.same rfl ?_ rfl rfl rfl rfl rfl rfl rfl rfl rfl rfl rfl)

/-- What `State.failReads` keeps. -/
theorem State.failReads_keeps {a0 s : State} (h0 : Keeps a0 s) (r : Nat) :
    Keeps a0 (State.failReads s r) := by
  unfold State.failReads
  repeat'
    first
    | with_reducible assumption
    | with_reducible refine Keeps.fold ?_ _ (fun _ _ _ => ?_) _
    | with_reducible refine Keeps.foldPair ?_ _ (fun _ _ _ => ?_) _
    | with_reducible refine Keeps.of_eq (by assumption) ?_
    | with_reducible refine State.beginReads_keeps ?_ _
    | with_reducible refine State.setRead_keeps ?_ _ _
    | with_reducible refine State.readOver_keeps ?_ _ _ _
    | (extract_lets +onlyGivenNames x; refine (fun (hx : Keeps a0 x) => ?_) ?_; clear_value x; rotate_left; simp only [x])
    | (extract_lets +onlyGivenNames x; refine (fun (hx : Keeps a0 x) => ?_) ?_; rotate_left; simp only [x])
    | (extract_lets +onlyGivenNames x; refine (fun (hx : Keeps a0 x.1) => ?_) ?_; clear_value x; rotate_left; simp only [x])
    | (extract_lets +onlyGivenNames x; refine (fun (hx : Keeps a0 x.1) => ?_) ?_; rotate_left; simp only [x])
    | (extract_lets +onlyGivenNames x; clear_value x)
    | extract_lets +onlyGivenNames x
    | split
    | dsimp only
    | (simp only [keeps_mk]; refine KeepsMk.same rfl ?_ rfl rfl rfl rfl rfl rfl rfl rfl rfl rfl rfl)

/-- What `State.addSource` keeps. -/
theorem State.addSource_keeps {a s : State} (h : Keeps a s) (pk : Packet) :
    Keeps a (State.addSource s pk) := by
  unfold State.addSource
  repeat'
    first
    | with_reducible assumption
    | with_reducible refine State.takeClient_keeps ?_ _ _ _ _ _ (by assumption)
    | with_reducible refine State.takeClient_keeps ?_ _ _ _ _ _ rfl
    | (extract_lets +onlyGivenNames x; refine (fun (hx : Keeps a x) => ?_) ?_; clear_value x; rotate_left; simp only [x])
    | (extract_lets +onlyGivenNames x; refine (fun (hx : Keeps a x) => ?_) ?_; rotate_left; simp only [x])
    | (extract_lets +onlyGivenNames x; refine (fun (hx : Keeps a x.1) => ?_) ?_; clear_value x; rotate_left; simp only [x])
    | (extract_lets +onlyGivenNames x; refine (fun (hx : Keeps a x.1) => ?_) ?_; rotate_left; simp only [x])
    | (extract_lets +onlyGivenNames x; clear_value x)
    | extract_lets +onlyGivenNames x
    | split
    | (simp only [keeps_mk]; refine KeepsMk.same rfl ?_ rfl rfl rfl rfl rfl rfl rfl rfl rfl rfl rfl)

/-- What `bodyPageSourceOpen` keeps. -/
theorem bodyPageSourceOpen_keeps {a s : State} (h : Keeps a s) (fl : Flight) :
    Keeps a (bodyPageSourceOpen s fl) := by
  unfold bodyPageSourceOpen
  repeat'
    first
    | with_reducible assumption
    | with_reducible refine State.endWith_keeps ?_ _ _ _
    | with_reducible refine State.endPacket_keeps ?_ _ _
    | with_reducible refine State.addSource_keeps ?_ _
    | (extract_lets +onlyGivenNames x; refine (fun (hx : Keeps a x) => ?_) ?_; clear_value x; rotate_left; simp only [x])
    | (extract_lets +onlyGivenNames x; refine (fun (hx : Keeps a x) => ?_) ?_; rotate_left; simp only [x])
    | (extract_lets +onlyGivenNames x; clear_value x)
    | extract_lets +onlyGivenNames x
    | split
    | (simp only [keeps_mk]; refine KeepsMk.same rfl ?_ rfl rfl rfl rfl rfl rfl rfl rfl rfl rfl rfl)

/-- What `bodySubmitPage` keeps. -/
theorem bodySubmitPage_keeps {a s : State} (h : Keeps a s) (fl : Flight) :
    Keeps a (bodySubmitPage s fl) := by
  unfold bodySubmitPage
  repeat'
    first
    | with_reducible assumption
    | with_reducible refine State.endWith_keeps ?_ _ _ _
    | with_reducible refine State.endPacket_keeps ?_ _ _
    | with_reducible refine State.countEmpty_keeps ?_
    | with_reducible refine State.takeDevice_keeps ?_ _
    | with_reducible refine State.dmaRead_keeps ?_ _ _ _ _ _
    | (extract_lets +onlyGivenNames x; refine (fun (hx : Keeps a x) => ?_) ?_; clear_value x; rotate_left; simp only [x])
    | (extract_lets +onlyGivenNames x; refine (fun (hx : Keeps a x) => ?_) ?_; rotate_left; simp only [x])
    | (extract_lets +onlyGivenNames x; clear_value x)
    | extract_lets +onlyGivenNames x
    | split
    | (simp only [keeps_mk]; refine KeepsMk.same rfl ?_ rfl rfl rfl rfl rfl rfl rfl rfl rfl rfl rfl)

/-- What `donePage` keeps. -/
theorem donePage_keeps {a0 s : State} (h0 : Keeps a0 s) (fl : Flight) (data : List Byte) :
    Keeps a0 (donePage s fl data) := by
  unfold donePage
  repeat'
    first
    | with_reducible assumption
    | with_reducible refine Keeps.of_eq (by assumption) ?_
    | with_reducible refine State.endWith_keeps ?_ _ _ _
    | with_reducible refine State.writeOutside_keeps ?_ _ _
    | with_reducible refine State.chargeWork_keeps ?_ _ _ _ _
    | with_reducible refine State.dramTraffic_keeps ?_ _ _ _ _ _ _
    | with_reducible refine State.setPage_keeps ?_ _ _
    | with_reducible refine State.alarmUpdate_keeps ?_ _ _
    | with_reducible refine State.endPacket_keeps ?_ _ _
    | (extract_lets +onlyGivenNames x; refine (fun (hx : Keeps a0 x) => ?_) ?_; clear_value x; rotate_left; simp only [x])
    | (extract_lets +onlyGivenNames x; refine (fun (hx : Keeps a0 x) => ?_) ?_; rotate_left; simp only [x])
    | (extract_lets +onlyGivenNames x; refine (fun (hx : Keeps a0 x.1) => ?_) ?_; clear_value x; rotate_left; simp only [x])
    | (extract_lets +onlyGivenNames x; refine (fun (hx : Keeps a0 x.1) => ?_) ?_; rotate_left; simp only [x])
    | (extract_lets +onlyGivenNames x; clear_value x)
    | extract_lets +onlyGivenNames x
    | split
    | dsimp only
    | (simp only [keeps_mk]; refine KeepsMk.same rfl ?_ rfl rfl rfl rfl rfl rfl rfl rfl rfl rfl rfl)

/-- What `failPage` keeps. -/
theorem failPage_keeps {a s : State} (h : Keeps a s) (fl : Flight) :
    Keeps a (failPage s fl) := by
  unfold failPage
  repeat'
    first
    | with_reducible assumption
    | with_reducible refine State.endWith_keeps ?_ _ _ _
    | with_reducible refine State.returnOpt_keeps ?_ _
    | (extract_lets +onlyGivenNames x; refine (fun (hx : Keeps a x) => ?_) ?_; clear_value x; rotate_left; simp only [x])
    | (extract_lets +onlyGivenNames x; refine (fun (hx : Keeps a x) => ?_) ?_; rotate_left; simp only [x])
    | (extract_lets +onlyGivenNames x; clear_value x)
    | extract_lets +onlyGivenNames x
    | split
    | (simp only [keeps_mk]; refine KeepsMk.same rfl ?_ rfl rfl rfl rfl rfl rfl rfl rfl rfl rfl rfl)

/-- What `bodyPageSourceClose` keeps. -/
theorem bodyPageSourceClose_keeps {a s : State} (h : Keeps a s) (fl : Flight) :
    Keeps a (bodyPageSourceClose s fl) := by
  unfold bodyPageSourceClose
  repeat'
    first
    | with_reducible assumption
    | with_reducible refine State.endWith_keeps ?_ _ _ _
    | with_reducible refine State.setWait_keeps ?_ _ _
    | (extract_lets +onlyGivenNames x; refine (fun (hx : Keeps a x) => ?_) ?_; clear_value x; rotate_left; simp only [x])
    | (extract_lets +onlyGivenNames x; refine (fun (hx : Keeps a x) => ?_) ?_; rotate_left; simp only [x])
    | (extract_lets +onlyGivenNames x; clear_value x)
    | extract_lets +onlyGivenNames x
    | split
    | (simp only [keeps_mk]; refine KeepsMk.same rfl ?_ rfl rfl rfl rfl rfl rfl rfl rfl rfl rfl rfl)

/-- What `finishSource` keeps. -/
theorem finishSource_keeps {a s : State} (h : Keeps a s) (fl : Flight) (n : Nat) :
    Keeps a (finishSource s fl n) := by
  unfold finishSource
  repeat'
    first
    | with_reducible assumption
    | with_reducible refine State.dropClient_keeps ?_ _
    | with_reducible refine State.dropWindows_keeps ?_ _ _
    | with_reducible refine State.endPacket_keeps ?_ _ _
    | (extract_lets +onlyGivenNames x; refine (fun (hx : Keeps a x) => ?_) ?_; clear_value x; rotate_left; simp only [x])
    | (extract_lets +onlyGivenNames x; refine (fun (hx : Keeps a x) => ?_) ?_; rotate_left; simp only [x])
    | (extract_lets +onlyGivenNames x; clear_value x)
    | extract_lets +onlyGivenNames x
    | (simp only [keeps_mk]; refine KeepsMk.same rfl ?_ rfl rfl rfl rfl rfl rfl rfl rfl rfl rfl rfl)

end Sys2Proof.Machine
end

