-- ==== Sys2Proof/Laws/KeepReset.lean ====
section
/-! SUPPORT. What the operations of Machine/Reset.lean keep, one lemma for each. -/

namespace Sys2Proof.Machine

set_option linter.unusedTactic false
set_option linter.unreachableTactic false
set_option linter.unusedVariables false
set_option linter.unusedSimpArgs false

/-- What `State.abortFlight` keeps. -/
theorem State.abortFlight_keeps {a s : State} (h : Keeps a s) (fl : Flight) :
    Keeps a (State.abortFlight s fl) := by
  unfold State.abortFlight
  repeat'
    first
    | with_reducible assumption
    | with_reducible refine State.dropFlight_keeps ?_ _
    | with_reducible refine State.emit_keeps ?_ _
    | with_reducible refine State.msix_keeps ?_ _ _
    | with_reducible refine State.setRing_keeps ?_ _ _ _
    | (extract_lets +onlyGivenNames x; refine (fun (hx : Keeps a x) => ?_) ?_; clear_value x; rotate_left; simp only [x])
    | (extract_lets +onlyGivenNames x; refine (fun (hx : Keeps a x) => ?_) ?_; rotate_left; simp only [x])
    | (extract_lets +onlyGivenNames x; clear_value x)
    | extract_lets +onlyGivenNames x
    | split
    | (simp only [keeps_mk]; refine KeepsMk.same rfl ?_ rfl rfl rfl rfl rfl rfl rfl rfl rfl rfl rfl)

/-- What `State.endFlights` keeps. -/
theorem State.endFlights_keeps {a s : State} (h : Keeps a s) (pick : Nat → Bool) (reply : Bool) :
    Keeps a (State.endFlights s pick reply) := by
  unfold State.endFlights
  repeat'
    first
    | with_reducible assumption
    | with_reducible refine Keeps.fold ?_ _ (fun _ _ _ => ?_) _
    | with_reducible refine State.abortFlight_keeps ?_ _
    | with_reducible refine State.dropFlight_keeps ?_ _
    | split

/-- What `State.resetFunction` keeps. -/
theorem State.resetFunction_keeps {a s : State} (h : Keeps a s) (f : Nat) :
    Keeps a (State.resetFunction s f) := by
  unfold State.resetFunction
  repeat'
    first
    | with_reducible assumption
    | with_reducible refine State.clearSync_keeps ?_ _
    | (extract_lets +onlyGivenNames x; refine (fun (hx : Keeps a x) => ?_) ?_; clear_value x; rotate_left; simp only [x])
    | (extract_lets +onlyGivenNames x; refine (fun (hx : Keeps a x) => ?_) ?_; rotate_left; simp only [x])
    | (extract_lets +onlyGivenNames x; refine (fun (hx : Keeps a x.1) => ?_) ?_; clear_value x; rotate_left; simp only [x])
    | (extract_lets +onlyGivenNames x; refine (fun (hx : Keeps a x.1) => ?_) ?_; rotate_left; simp only [x])
    | (extract_lets +onlyGivenNames x; clear_value x)
    | extract_lets +onlyGivenNames x
    | split
    | (simp only [keeps_mk]; refine KeepsMk.same rfl ?_ rfl rfl rfl rfl rfl rfl rfl rfl rfl rfl rfl)

/-- What `State.resetVf` keeps. -/
theorem State.resetVf_keeps {a s : State} (h : Keeps a s) (p : Nat) (reply : Bool) :
    Keeps a (State.resetVf s p reply) := by
  unfold State.resetVf
  repeat'
    first
    | with_reducible assumption
    | with_reducible refine State.log_keeps ?_ _ _ _ _ _
    | with_reducible refine State.resetFunction_keeps ?_ _
    | with_reducible refine State.endFlights_keeps ?_ _ _
    | with_reducible refine State.releaseBins_keeps ?_ _
    | with_reducible refine State.dropRuns_keeps ?_ _
    | with_reducible refine State.dropMedia_keeps ?_ _
    | with_reducible refine State.dropFolios_keeps ?_ _
    | with_reducible refine State.setPart_keeps ?_ _ _
    | (extract_lets +onlyGivenNames x; refine (fun (hx : Keeps a x) => ?_) ?_; clear_value x; rotate_left; simp only [x])
    | (extract_lets +onlyGivenNames x; refine (fun (hx : Keeps a x) => ?_) ?_; rotate_left; simp only [x])
    | (extract_lets +onlyGivenNames x; clear_value x)
    | extract_lets +onlyGivenNames x
    | split
    | (simp only [keeps_mk]; refine KeepsMk.same rfl ?_ rfl rfl rfl rfl rfl rfl rfl rfl rfl rfl rfl)

/-- What `State.setVfs` keeps. -/
theorem State.setVfs_keeps {a s : State} (h : Keeps a s) (enable : Bool) (n : Nat) :
    Keeps a (State.setVfs s enable n) := by
  unfold State.setVfs
  repeat'
    first
    | with_reducible assumption
    | with_reducible refine Keeps.fold ?_ _ (fun _ _ _ => ?_) _
    | with_reducible refine State.resetVf_keeps ?_ _ _
    | (extract_lets +onlyGivenNames x; refine (fun (hx : Keeps a x) => ?_) ?_; clear_value x; rotate_left; simp only [x])
    | (extract_lets +onlyGivenNames x; refine (fun (hx : Keeps a x) => ?_) ?_; rotate_left; simp only [x])
    | (extract_lets +onlyGivenNames x; clear_value x)
    | extract_lets +onlyGivenNames x
    | split
    | (simp only [keeps_mk]; refine KeepsMk.same rfl ?_ rfl rfl rfl rfl rfl rfl rfl rfl rfl rfl rfl)

/-- What `State.setInterleave` keeps. -/
theorem State.setInterleave_keeps {a s : State} (h : Keeps a s) :
    Keeps a (State.setInterleave s) := by
  unfold State.setInterleave
  repeat'
    first
    | with_reducible assumption
    | (extract_lets +onlyGivenNames x; refine (fun (hx : Keeps a x) => ?_) ?_; clear_value x; rotate_left; simp only [x])
    | (extract_lets +onlyGivenNames x; refine (fun (hx : Keeps a x) => ?_) ?_; rotate_left; simp only [x])
    | (extract_lets +onlyGivenNames x; have _g : Dev := x)
    | (extract_lets +onlyGivenNames x; clear_value x)
    | extract_lets +onlyGivenNames x
    | split
    | (simp only [keeps_mk]; refine KeepsMk.same rfl ?_ rfl rfl rfl rfl rfl rfl rfl rfl rfl rfl rfl)

/-- What `State.loseTables` keeps. -/
theorem State.loseTables_keeps {a s : State} (h : Keeps a s) :
    Keeps a (State.loseTables s) := by
  unfold State.loseTables
  repeat'
    first
    | with_reducible assumption
    | with_reducible refine Keeps.fold ?_ _ (fun _ _ _ => ?_) _
    | with_reducible refine State.dropTables_keeps ?_ _
    | with_reducible refine State.dropFolios_keeps ?_ _
    | split

/-- What `State.rehouse` keeps. -/
theorem State.rehouse_keeps {a s : State} (h : Keeps a s) :
    Keeps a (State.rehouse s) := by
  unfold State.rehouse
  repeat'
    first
    | with_reducible assumption
    | with_reducible refine Keeps.fold ?_ _ (fun _ _ _ => ?_) _
    | with_reducible refine State.setPart_keeps ?_ _ _
    | with_reducible refine State.log_keeps ?_ _ _ _ _ _
    | with_reducible refine State.freePart_keeps ?_ _
    | (extract_lets +onlyGivenNames x; refine (fun (hx : Keeps a x) => ?_) ?_; clear_value x; rotate_left; simp only [x])
    | (extract_lets +onlyGivenNames x; refine (fun (hx : Keeps a x) => ?_) ?_; rotate_left; simp only [x])
    | (extract_lets +onlyGivenNames x; clear_value x)
    | extract_lets +onlyGivenNames x
    | split
    | (simp only [keeps_mk]; refine KeepsMk.same rfl ?_ rfl rfl rfl rfl rfl rfl rfl rfl rfl rfl rfl)

/-- What `State.keepPart` keeps. -/
theorem State.keepPart_keeps {a0 s : State} (h0 : Keeps a0 s) (p : Nat) :
    Keeps a0 (State.keepPart s p) := by
  unfold State.keepPart
  repeat'
    first
    | with_reducible assumption
    | with_reducible refine Keeps.fold ?_ _ (fun _ _ _ => ?_) _
    | with_reducible refine Keeps.foldPair ?_ _ (fun _ _ _ => ?_) _
    | with_reducible refine Keeps.of_eq (by assumption) ?_
    | with_reducible refine State.newTensor_keeps ?_ _
    | with_reducible refine State.setPart_keeps ?_ _ _
    | (extract_lets +onlyGivenNames x; refine (fun (hx : Keeps a0 x) => ?_) ?_; clear_value x; rotate_left; simp only [x])
    | (extract_lets +onlyGivenNames x; refine (fun (hx : Keeps a0 x) => ?_) ?_; rotate_left; simp only [x])
    | (extract_lets +onlyGivenNames x; refine (fun (hx : Keeps a0 x.1) => ?_) ?_; clear_value x; rotate_left; simp only [x])
    | (extract_lets +onlyGivenNames x; refine (fun (hx : Keeps a0 x.1) => ?_) ?_; rotate_left; simp only [x])
    | (extract_lets +onlyGivenNames x; clear_value x)
    | extract_lets +onlyGivenNames x
    | split
    | dsimp only
    | (simp only [keeps_mk]; refine KeepsMk.same rfl ?_ rfl rfl rfl rfl rfl rfl rfl rfl rfl rfl rfl)

/-- What `State.applyPolicy` keeps. -/
theorem State.applyPolicy_keeps {a s : State} (h : Keeps a s) :
    Keeps a (State.applyPolicy s) := by
  unfold State.applyPolicy
  repeat'
    first
    | with_reducible assumption
    | with_reducible refine Keeps.fold ?_ _ (fun _ _ _ => ?_) _
    | with_reducible refine State.freePart_keeps ?_ _
    | with_reducible refine State.loseTables_keeps ?_
    | with_reducible refine State.keepPart_keeps ?_ _
    | (extract_lets +onlyGivenNames x; refine (fun (hx : Keeps a x) => ?_) ?_; clear_value x; rotate_left; simp only [x])
    | (extract_lets +onlyGivenNames x; refine (fun (hx : Keeps a x) => ?_) ?_; rotate_left; simp only [x])
    | (extract_lets +onlyGivenNames x; clear_value x)
    | extract_lets +onlyGivenNames x
    | split

/-- What `State.dropWork` keeps. -/
theorem State.dropWork_keeps {a0 s : State} (h0 : Keeps a0 s) :
    Keeps a0 (State.dropWork s) := by
  unfold State.dropWork
  repeat'
    first
    | with_reducible assumption
    | with_reducible refine Keeps.fold ?_ _ (fun _ _ _ => ?_) _
    | with_reducible refine Keeps.foldPair ?_ _ (fun _ _ _ => ?_) _
    | with_reducible refine Keeps.of_eq (by assumption) ?_
    | with_reducible refine State.dropMedia_keeps ?_ _
    | with_reducible refine State.dropRuns_keeps ?_ _
    | with_reducible refine State.releaseBins_keeps ?_ _
    | with_reducible refine State.setCore_keeps ?_ _ _
    | with_reducible refine State.setCluster_keeps ?_ _ _
    | (extract_lets +onlyGivenNames x; refine (fun (hx : Keeps a0 x) => ?_) ?_; clear_value x; rotate_left; simp only [x])
    | (extract_lets +onlyGivenNames x; refine (fun (hx : Keeps a0 x) => ?_) ?_; rotate_left; simp only [x])
    | (extract_lets +onlyGivenNames x; refine (fun (hx : Keeps a0 x.1) => ?_) ?_; clear_value x; rotate_left; simp only [x])
    | (extract_lets +onlyGivenNames x; refine (fun (hx : Keeps a0 x.1) => ?_) ?_; rotate_left; simp only [x])
    | (extract_lets +onlyGivenNames x; have _g : Mem := x)
    | (extract_lets +onlyGivenNames x; have _g : Mgt := x)
    | (extract_lets +onlyGivenNames x; clear_value x)
    | extract_lets +onlyGivenNames x
    | split
    | dsimp only
    | (simp only [keeps_mk]; refine KeepsMk.same rfl ?_ rfl rfl rfl rfl rfl rfl rfl rfl rfl rfl rfl)

/-- What `State.quiesce` keeps. -/
theorem State.quiesce_keeps {a s : State} (h : Keeps a s) :
    Keeps a (State.quiesce s) := by
  unfold State.quiesce
  repeat'
    first
    | with_reducible assumption
    | with_reducible refine Keeps.fold ?_ _ (fun _ _ _ => ?_) _
    | with_reducible refine State.setPoison_keeps ?_ _ _
    | with_reducible refine State.writeRaw_keeps ?_ _ _
    | with_reducible refine State.setChan_keeps ?_ _ _
    | with_reducible refine State.setDom_keeps ?_ _ _
    | with_reducible refine State.lose_keeps ?_ _ _
    | with_reducible refine State.sleepLoss_keeps ?_ _
    | (extract_lets +onlyGivenNames x; refine (fun (hx : Keeps a x) => ?_) ?_; clear_value x; rotate_left; simp only [x])
    | (extract_lets +onlyGivenNames x; refine (fun (hx : Keeps a x) => ?_) ?_; rotate_left; simp only [x])
    | (extract_lets +onlyGivenNames x; clear_value x)
    | extract_lets +onlyGivenNames x
    | split
    | (simp only [keeps_mk]; refine KeepsMk.same rfl ?_ rfl rfl rfl rfl rfl rfl rfl rfl rfl rfl rfl)

/-- What `State.stopNow` keeps. -/
theorem State.stopNow_keeps {a s : State} (h : Keeps a s) (reply : Bool) :
    Keeps a (State.stopNow s reply) := by
  unfold State.stopNow
  repeat'
    first
    | with_reducible assumption
    | with_reducible refine Keeps.fold ?_ _ (fun _ _ _ => ?_) _
    | with_reducible refine State.stopQuire_keeps ?_ _ _
    | with_reducible refine State.endFlights_keeps ?_ _ _
    | with_reducible refine State.dropWork_keeps ?_
    | (extract_lets +onlyGivenNames x; refine (fun (hx : Keeps a x) => ?_) ?_; clear_value x; rotate_left; simp only [x])
    | (extract_lets +onlyGivenNames x; refine (fun (hx : Keeps a x) => ?_) ?_; rotate_left; simp only [x])
    | (extract_lets +onlyGivenNames x; clear_value x)
    | extract_lets +onlyGivenNames x
    | split

/-- What `State.finishStop` keeps. -/
theorem State.finishStop_keeps {a s : State} (h : Keeps a s) :
    Keeps a (State.finishStop s) := by
  unfold State.finishStop
  repeat'
    first
    | with_reducible assumption
    | with_reducible refine State.quiesce_keeps ?_
    | (extract_lets +onlyGivenNames x; refine (fun (hx : Keeps a x) => ?_) ?_; clear_value x; rotate_left; simp only [x])
    | (extract_lets +onlyGivenNames x; refine (fun (hx : Keeps a x) => ?_) ?_; rotate_left; simp only [x])
    | (extract_lets +onlyGivenNames x; clear_value x)
    | extract_lets +onlyGivenNames x
    | split
    | (simp only [keeps_mk]; refine KeepsMk.same rfl ?_ rfl rfl rfl rfl rfl rfl rfl rfl rfl rfl rfl)

/-- What `State.resetHi` keeps. -/
theorem State.resetHi_keeps {a s : State} (h : Keeps a s) :
    Keeps a (State.resetHi s) := by
  unfold State.resetHi
  repeat'
    first
    | with_reducible assumption
    | (extract_lets +onlyGivenNames x; refine (fun (hx : Keeps a x) => ?_) ?_; clear_value x; rotate_left; simp only [x])
    | (extract_lets +onlyGivenNames x; refine (fun (hx : Keeps a x) => ?_) ?_; rotate_left; simp only [x])
    | (extract_lets +onlyGivenNames x; have _g : Dev := x)
    | (extract_lets +onlyGivenNames x; clear_value x)
    | extract_lets +onlyGivenNames x
    | (simp only [keeps_mk]; refine KeepsMk.same rfl ?_ rfl rfl rfl rfl rfl rfl rfl rfl rfl rfl rfl)

/-- What `State.beginReset` keeps. -/
theorem State.beginReset_keeps {a s : State} (h : Keeps a s) (cause : ResetCause) (full : Bool) (link : Bool) (mp : Bool) :
    Keeps a (State.beginReset s cause full link mp) := by
  unfold State.beginReset
  repeat'
    first
    | with_reducible assumption
    | with_reducible refine State.resetHi_keeps ?_
    | with_reducible refine State.log_keeps ?_ _ _ _ _ _
    | with_reducible refine State.dropImages_keeps ?_ _
    | with_reducible refine State.finishStop_keeps ?_
    | with_reducible refine State.stopNow_keeps ?_ _
    | (extract_lets +onlyGivenNames x; refine (fun (hx : Keeps a x) => ?_) ?_; clear_value x; rotate_left; simp only [x])
    | (extract_lets +onlyGivenNames x; refine (fun (hx : Keeps a x) => ?_) ?_; rotate_left; simp only [x])
    | (extract_lets +onlyGivenNames x; have _g : Dev := x)
    | (extract_lets +onlyGivenNames x; clear_value x)
    | extract_lets +onlyGivenNames x
    | split
    | (simp only [keeps_mk]; refine KeepsMk.same rfl ?_ rfl rfl rfl rfl rfl rfl rfl rfl rfl rfl rfl)

/-- What `State.thermalShutdown` keeps. -/
theorem State.thermalShutdown_keeps {a s : State} (h : Keeps a s) :
    Keeps a (State.thermalShutdown s) := by
  unfold State.thermalShutdown
  repeat'
    first
    | with_reducible assumption
    | with_reducible refine Keeps.fold ?_ _ (fun _ _ _ => ?_) _
    | with_reducible refine State.endFlights_keeps ?_ _ _
    | with_reducible refine State.stopNow_keeps ?_ _
    | with_reducible refine State.quiesce_keeps ?_
    | with_reducible refine State.syncUp_keeps ?_
    | with_reducible refine State.setDom_keeps ?_ _ _
    | with_reducible refine State.dropImages_keeps ?_ _
    | (extract_lets +onlyGivenNames x; refine (fun (hx : Keeps a x) => ?_) ?_; clear_value x; rotate_left; simp only [x])
    | (extract_lets +onlyGivenNames x; refine (fun (hx : Keeps a x) => ?_) ?_; rotate_left; simp only [x])
    | (extract_lets +onlyGivenNames x; have _g : Dev := x)
    | (extract_lets +onlyGivenNames x; clear_value x)
    | extract_lets +onlyGivenNames x
    | split
    | (simp only [keeps_mk]; refine KeepsMk.same rfl ?_ rfl rfl rfl rfl rfl rfl rfl rfl rfl rfl rfl)

/-- What `State.restartDomains` keeps. -/
theorem State.restartDomains_keeps {a s : State} (h : Keeps a s) :
    Keeps a (State.restartDomains s) := by
  unfold State.restartDomains
  repeat'
    first
    | with_reducible assumption
    | with_reducible refine Keeps.fold ?_ _ (fun _ _ _ => ?_) _
    | with_reducible refine State.wake_keeps ?_ _
    | with_reducible refine State.setDom_keeps ?_ _ _
    | (extract_lets +onlyGivenNames x; refine (fun (hx : Keeps a x) => ?_) ?_; clear_value x; rotate_left; simp only [x])
    | (extract_lets +onlyGivenNames x; refine (fun (hx : Keeps a x) => ?_) ?_; rotate_left; simp only [x])
    | (extract_lets +onlyGivenNames x; clear_value x)
    | extract_lets +onlyGivenNames x
    | split
    | (simp only [keeps_mk]; refine KeepsMk.same rfl ?_ rfl rfl rfl rfl rfl rfl rfl rfl rfl rfl rfl)

/-- What `State.retrainFailed` keeps. -/
theorem State.retrainFailed_keeps {a s : State} (h : Keeps a s) :
    Keeps a (State.retrainFailed s) := by
  unfold State.retrainFailed
  repeat'
    first
    | with_reducible assumption
    | with_reducible refine Keeps.fold ?_ _ (fun _ _ _ => ?_) _
    | with_reducible refine State.setChan_keeps ?_ _ _
    | (extract_lets +onlyGivenNames x; refine (fun (hx : Keeps a x) => ?_) ?_; clear_value x; rotate_left; simp only [x])
    | (extract_lets +onlyGivenNames x; refine (fun (hx : Keeps a x) => ?_) ?_; rotate_left; simp only [x])
    | (extract_lets +onlyGivenNames x; clear_value x)
    | extract_lets +onlyGivenNames x
    | split
    | (simp only [keeps_mk]; refine KeepsMk.same rfl ?_ rfl rfl rfl rfl rfl rfl rfl rfl rfl rfl rfl)

/-- What `State.rebootMp` keeps. -/
theorem State.rebootMp_keeps {a s : State} (h : Keeps a s) :
    Keeps a (State.rebootMp s) := by
  unfold State.rebootMp
  repeat'
    first
    | with_reducible assumption
    | with_reducible refine State.dropImages_keeps ?_ _
    | with_reducible refine State.bootMp_keeps ?_
    | (extract_lets +onlyGivenNames x; refine (fun (hx : Keeps a x) => ?_) ?_; clear_value x; rotate_left; simp only [x])
    | (extract_lets +onlyGivenNames x; refine (fun (hx : Keeps a x) => ?_) ?_; rotate_left; simp only [x])
    | (extract_lets +onlyGivenNames x; have _g : Mgt := x)
    | (extract_lets +onlyGivenNames x; clear_value x)
    | extract_lets +onlyGivenNames x
    | (simp only [keeps_mk]; refine KeepsMk.same rfl ?_ rfl rfl rfl rfl rfl rfl rfl rfl rfl rfl rfl)

/-- What `State.restart` keeps. -/
theorem State.restart_keeps {a s : State} (h : Keeps a s) :
    Keeps a (State.restart s) := by
  unfold State.restart
  split
  · exact h
  · rename_i r _
    have h1 : Keeps a { s with dev := s.dev.restarting r } := h.same rfl rfl rfl rfl rfl rfl rfl rfl rfl rfl rfl rfl
    extract_lets x
    have h2 : Keeps a x := State.applyPolicy_keeps (State.retrainFailed_keeps (State.restartDomains_keeps h1))
    clear_value x
    split
    · exact State.rebootMp_keeps h2
    · exact h2

/-- What `State.scrubDram` keeps. -/
theorem State.scrubDram_keeps {a s : State} (h : Keeps a s) :
    Keeps a (State.scrubDram s) := by
  unfold State.scrubDram
  repeat'
    first
    | with_reducible assumption
    | with_reducible refine Keeps.fold ?_ _ (fun _ _ _ => ?_) _
    | with_reducible refine State.scrub_keeps ?_ _ _
    | (extract_lets +onlyGivenNames x; refine (fun (hx : Keeps a x) => ?_) ?_; clear_value x; rotate_left; simp only [x])
    | (extract_lets +onlyGivenNames x; refine (fun (hx : Keeps a x) => ?_) ?_; rotate_left; simp only [x])
    | (extract_lets +onlyGivenNames x; clear_value x)
    | extract_lets +onlyGivenNames x
    | split

/-- What `State.receiverFailed` keeps. -/
theorem State.receiverFailed_keeps {a s : State} (h : Keeps a s) (r : Nat) :
    Keeps a (State.receiverFailed s r) := by
  unfold State.receiverFailed
  repeat'
    first
    | with_reducible assumption
    | with_reducible refine State.log_keeps ?_ _ _ _ _ _
    | with_reducible refine State.syncUp_keeps ?_
    | with_reducible refine State.mgtEvent_keeps ?_ _ _ _ _ _
    | with_reducible refine State.leaveCluster_keeps ?_ _
    | with_reducible refine State.removeCore_keeps ?_ _ _ _
    | with_reducible refine State.recount_keeps ?_
    | (extract_lets +onlyGivenNames x; refine (fun (hx : Keeps a x) => ?_) ?_; clear_value x; rotate_left; simp only [x])
    | (extract_lets +onlyGivenNames x; refine (fun (hx : Keeps a x) => ?_) ?_; rotate_left; simp only [x])
    | (extract_lets +onlyGivenNames x; have _g : Mgt := x)
    | (extract_lets +onlyGivenNames x; clear_value x)
    | extract_lets +onlyGivenNames x
    | split
    | (simp only [keeps_mk]; refine KeepsMk.same rfl ?_ rfl rfl rfl rfl rfl rfl rfl rfl rfl rfl rfl)

/-- What `State.deviceReady` keeps. -/
theorem State.deviceReady_keeps {a s : State} (h : Keeps a s) :
    Keeps a (State.deviceReady s) := by
  unfold State.deviceReady
  repeat'
    first
    | with_reducible assumption
    | with_reducible refine Keeps.fold ?_ _ (fun _ _ _ => ?_) _
    | with_reducible refine State.receiverFailed_keeps ?_ _
    | with_reducible refine State.syncUp_keeps ?_
    | with_reducible refine State.setCore_keeps ?_ _ _
    | with_reducible refine State.recount_keeps ?_
    | with_reducible refine State.refillAll_keeps ?_
    | with_reducible refine State.setSlot_keeps ?_ _ _
    | with_reducible refine State.log_keeps ?_ _ _ _ _ _
    | (extract_lets +onlyGivenNames x; refine (fun (hx : Keeps a x) => ?_) ?_; clear_value x; rotate_left; simp only [x])
    | (extract_lets +onlyGivenNames x; refine (fun (hx : Keeps a x) => ?_) ?_; rotate_left; simp only [x])
    | (extract_lets +onlyGivenNames x; have _g : Mgt := x)
    | (extract_lets +onlyGivenNames x; have _g : Dev := x)
    | (extract_lets +onlyGivenNames x; clear_value x)
    | extract_lets +onlyGivenNames x
    | split
    | (simp only [keeps_mk]; refine KeepsMk.same rfl ?_ rfl rfl rfl rfl rfl rfl rfl rfl rfl rfl rfl)

/-- What `State.tryReady` keeps. -/
theorem State.tryReady_keeps {a s : State} (h : Keeps a s) :
    Keeps a (State.tryReady s) := by
  unfold State.tryReady
  repeat'
    first
    | with_reducible assumption
    | with_reducible refine State.deviceReady_keeps ?_
    | split

end Sys2Proof.Machine
end

