-- ==== Sys2Proof/Laws/KeepMgmt.lean ====
section
/-! SUPPORT. What the operations of Machine/Mgmt.lean keep, one lemma for each. -/

namespace Sys2Proof.Machine

set_option linter.unusedTactic false
set_option linter.unreachableTactic false
set_option linter.unusedVariables false
set_option linter.unusedSimpArgs false

/-- What `opIdentity` keeps. -/
theorem opIdentity_keeps {a s : State} (h : Keeps a s) (z1 : MgmtOp) :
    ∀ u y, opIdentity s z1 = (u, y) → Keeps a u := by
  have key : Keeps a (opIdentity s z1).1 := by
    unfold opIdentity
    repeat'
      first
      | with_reducible assumption
      | (extract_lets +onlyGivenNames x; refine (fun (hx : Keeps a x) => ?_) ?_; clear_value x; rotate_left; simp only [x])
      | (extract_lets +onlyGivenNames x; refine (fun (hx : Keeps a x) => ?_) ?_; rotate_left; simp only [x])
      | (extract_lets +onlyGivenNames x; clear_value x)
      | extract_lets +onlyGivenNames x
      | split
      | dsimp only
      | (simp only [keeps_mk]; refine KeepsMk.same rfl ?_ rfl rfl rfl rfl rfl rfl rfl rfl rfl rfl rfl)
  intro u y hu
  rw [hu] at key
  exact key

/-- What `opLogRead` keeps. -/
theorem opLogRead_keeps {a s : State} (h : Keeps a s) (o : MgmtOp) :
    ∀ u y, opLogRead s o = (u, y) → Keeps a u := by
  have key : Keeps a (opLogRead s o).1 := by
    unfold opLogRead
    repeat'
      first
      | with_reducible assumption
      | (extract_lets +onlyGivenNames x; refine (fun (hx : Keeps a x) => ?_) ?_; clear_value x; rotate_left; simp only [x])
      | (extract_lets +onlyGivenNames x; refine (fun (hx : Keeps a x) => ?_) ?_; rotate_left; simp only [x])
      | (extract_lets +onlyGivenNames x; clear_value x)
      | extract_lets +onlyGivenNames x
      | split
      | dsimp only
      | (simp only [keeps_mk]; refine KeepsMk.same rfl ?_ rfl rfl rfl rfl rfl rfl rfl rfl rfl rfl rfl)
  intro u y hu
  rw [hu] at key
  exact key

/-- What `opSensorRead` keeps. -/
theorem opSensorRead_keeps {a s : State} (h : Keeps a s) (z1 : MgmtOp) :
    ∀ u y, opSensorRead s z1 = (u, y) → Keeps a u := by
  have key : Keeps a (opSensorRead s z1).1 := by
    unfold opSensorRead
    repeat'
      first
      | with_reducible assumption
      | split
      | dsimp only
      | (simp only [keeps_mk]; refine KeepsMk.same rfl ?_ rfl rfl rfl rfl rfl rfl rfl rfl rfl rfl rfl)
  intro u y hu
  rw [hu] at key
  exact key

/-- What `opDefectRead` keeps. -/
theorem opDefectRead_keeps {a s : State} (h : Keeps a s) (o : MgmtOp) :
    ∀ u y, opDefectRead s o = (u, y) → Keeps a u := by
  have key : Keeps a (opDefectRead s o).1 := by
    unfold opDefectRead
    repeat'
      first
      | with_reducible assumption
      | (extract_lets +onlyGivenNames x; refine (fun (hx : Keeps a x) => ?_) ?_; clear_value x; rotate_left; simp only [x])
      | (extract_lets +onlyGivenNames x; refine (fun (hx : Keeps a x) => ?_) ?_; rotate_left; simp only [x])
      | (extract_lets +onlyGivenNames x; clear_value x)
      | extract_lets +onlyGivenNames x
      | split
      | dsimp only
      | (simp only [keeps_mk]; refine KeepsMk.same rfl ?_ rfl rfl rfl rfl rfl rfl rfl rfl rfl rfl rfl)
  intro u y hu
  rw [hu] at key
  exact key

/-- What `opResetPolicy` keeps. -/
theorem opResetPolicy_keeps {a s : State} (h : Keeps a s) (o : MgmtOp) :
    ∀ u y, opResetPolicy s o = (u, y) → Keeps a u := by
  have key : Keeps a (opResetPolicy s o).1 := by
    unfold opResetPolicy
    repeat'
      first
      | with_reducible assumption
      | with_reducible refine State.scrub_keeps ?_ _ _
      | (extract_lets +onlyGivenNames x; refine (fun (hx : Keeps a x) => ?_) ?_; clear_value x; rotate_left; simp only [x])
      | (extract_lets +onlyGivenNames x; refine (fun (hx : Keeps a x) => ?_) ?_; rotate_left; simp only [x])
      | (extract_lets +onlyGivenNames x; have _g : Mgt := x)
      | (extract_lets +onlyGivenNames x; clear_value x)
      | extract_lets +onlyGivenNames x
      | split
      | dsimp only
      | (simp only [keeps_mk]; refine KeepsMk.same rfl ?_ rfl rfl rfl rfl rfl rfl rfl rfl rfl rfl rfl)
  intro u y hu
  rw [hu] at key
  exact key

/-- What `State.askReset` keeps. -/
theorem State.askReset_keeps {a s : State} (h : Keeps a s) (p : Nat) (full : Bool) :
    ∀ u y, State.askReset s p full = (u, y) → Keeps a u := by
  have key : Keeps a (State.askReset s p full).1 := by
    unfold State.askReset
    repeat'
      first
      | with_reducible assumption
      | with_reducible refine State.beginReset_keeps ?_ _ _ _ _
      | (extract_lets +onlyGivenNames x; refine (fun (hx : Keeps a x) => ?_) ?_; clear_value x; rotate_left; simp only [x])
      | (extract_lets +onlyGivenNames x; refine (fun (hx : Keeps a x) => ?_) ?_; rotate_left; simp only [x])
      | (extract_lets +onlyGivenNames x; clear_value x)
      | extract_lets +onlyGivenNames x
      | split
      | dsimp only
      | (simp only [keeps_mk]; refine KeepsMk.same rfl ?_ rfl rfl rfl rfl rfl rfl rfl rfl rfl rfl rfl)
  intro u y hu
  rw [hu] at key
  exact key

/-- What `opComputeReset` keeps. -/
theorem opComputeReset_keeps {a s : State} (h : Keeps a s) (o : MgmtOp) :
    ∀ u y, opComputeReset s o = (u, y) → Keeps a u := by
  have key : Keeps a (opComputeReset s o).1 := by
    unfold opComputeReset
    repeat'
      first
      | with_reducible assumption
      | with_reducible refine State.askReset_keeps ?_ _ _ _ _ (by assumption)
      | with_reducible refine State.askReset_keeps ?_ _ _ _ _ rfl
      | split
      | dsimp only
      | (simp only [keeps_mk]; refine KeepsMk.same rfl ?_ rfl rfl rfl rfl rfl rfl rfl rfl rfl rfl rfl)
  intro u y hu
  rw [hu] at key
  exact key

/-- What `opFunctionReset` keeps. -/
theorem opFunctionReset_keeps {a s : State} (h : Keeps a s) (o : MgmtOp) :
    ∀ u y, opFunctionReset s o = (u, y) → Keeps a u := by
  have key : Keeps a (opFunctionReset s o).1 := by
    unfold opFunctionReset
    repeat'
      first
      | with_reducible assumption
      | with_reducible refine State.askReset_keeps ?_ _ _ _ _ (by assumption)
      | with_reducible refine State.askReset_keeps ?_ _ _ _ _ rfl
      | with_reducible refine State.resetVf_keeps ?_ _ _
      | (extract_lets +onlyGivenNames x; refine (fun (hx : Keeps a x) => ?_) ?_; clear_value x; rotate_left; simp only [x])
      | (extract_lets +onlyGivenNames x; refine (fun (hx : Keeps a x) => ?_) ?_; rotate_left; simp only [x])
      | (extract_lets +onlyGivenNames x; clear_value x)
      | extract_lets +onlyGivenNames x
      | split
      | dsimp only
      | (simp only [keeps_mk]; refine KeepsMk.same rfl ?_ rfl rfl rfl rfl rfl rfl rfl rfl rfl rfl rfl)
  intro u y hu
  rw [hu] at key
  exact key

/-- What `opDomainPower` keeps. -/
theorem opDomainPower_keeps {a s : State} (h : Keeps a s) (o : MgmtOp) :
    ∀ u y, opDomainPower s o = (u, y) → Keeps a u := by
  have key : Keeps a (opDomainPower s o).1 := by
    unfold opDomainPower
    repeat'
      first
      | with_reducible assumption
      | with_reducible refine State.thermalShutdown_keeps ?_
      | with_reducible refine State.switchOff_keeps ?_ _
      | with_reducible refine State.switchOn_keeps ?_ _
      | (extract_lets +onlyGivenNames x; refine (fun (hx : Keeps a x) => ?_) ?_; clear_value x; rotate_left; simp only [x])
      | (extract_lets +onlyGivenNames x; refine (fun (hx : Keeps a x) => ?_) ?_; rotate_left; simp only [x])
      | (extract_lets +onlyGivenNames x; clear_value x)
      | extract_lets +onlyGivenNames x
      | split
      | dsimp only
      | (simp only [keeps_mk]; refine KeepsMk.same rfl ?_ rfl rfl rfl rfl rfl rfl rfl rfl rfl rfl rfl)
  intro u y hu
  rw [hu] at key
  exact key

/-- What `opStage` keeps. -/
theorem opStage_keeps {a s : State} (h : Keeps a s) (o : MgmtOp) :
    ∀ u y, opStage s o = (u, y) → Keeps a u := by
  have key : Keeps a (opStage s o).1 := by
    unfold opStage
    repeat'
      first
      | with_reducible assumption
      | with_reducible refine State.mgtEvent_keeps ?_ _ _ _ _ _
      | with_reducible refine State.setSlot_keeps ?_ _ _
      | (extract_lets +onlyGivenNames x; refine (fun (hx : Keeps a x) => ?_) ?_; clear_value x; rotate_left; simp only [x])
      | (extract_lets +onlyGivenNames x; refine (fun (hx : Keeps a x) => ?_) ?_; rotate_left; simp only [x])
      | (extract_lets +onlyGivenNames x; clear_value x)
      | extract_lets +onlyGivenNames x
      | split
      | dsimp only
      | (simp only [keeps_mk]; refine KeepsMk.same rfl ?_ rfl rfl rfl rfl rfl rfl rfl rfl rfl rfl rfl)
  intro u y hu
  rw [hu] at key
  exact key

/-- What `State.restartMp` keeps. -/
theorem State.restartMp_keeps {a s : State} (h : Keeps a s) :
    Keeps a (State.restartMp s) := by
  unfold State.restartMp
  repeat'
    first
    | with_reducible assumption
    | with_reducible refine State.beginReset_keeps ?_ _ _ _ _
    | (extract_lets +onlyGivenNames x; refine (fun (hx : Keeps a x) => ?_) ?_; clear_value x; rotate_left; simp only [x])
    | (extract_lets +onlyGivenNames x; refine (fun (hx : Keeps a x) => ?_) ?_; rotate_left; simp only [x])
    | (extract_lets +onlyGivenNames x; have _g : Mgt := x)
    | (extract_lets +onlyGivenNames x; clear_value x)
    | extract_lets +onlyGivenNames x
    | (simp only [keeps_mk]; refine KeepsMk.same rfl ?_ rfl rfl rfl rfl rfl rfl rfl rfl rfl rfl rfl)

/-- What `opActivate` keeps. -/
theorem opActivate_keeps {a s : State} (h : Keeps a s) (o : MgmtOp) :
    ∀ u y, opActivate s o = (u, y) → Keeps a u := by
  have key : Keeps a (opActivate s o).1 := by
    unfold opActivate
    repeat'
      first
      | with_reducible assumption
      | with_reducible refine State.setSlot_keeps ?_ _ _
      | with_reducible refine State.restartMp_keeps ?_
      | (extract_lets +onlyGivenNames x; refine (fun (hx : Keeps a x) => ?_) ?_; clear_value x; rotate_left; simp only [x])
      | (extract_lets +onlyGivenNames x; refine (fun (hx : Keeps a x) => ?_) ?_; rotate_left; simp only [x])
      | (extract_lets +onlyGivenNames x; clear_value x)
      | extract_lets +onlyGivenNames x
      | split
      | dsimp only
      | (simp only [keeps_mk]; refine KeepsMk.same rfl ?_ rfl rfl rfl rfl rfl rfl rfl rfl rfl rfl rfl)
  intro u y hu
  rw [hu] at key
  exact key

/-- What `opCommitSvn` keeps. -/
theorem opCommitSvn_keeps {a s : State} (h : Keeps a s) (o : MgmtOp) :
    ∀ u y, opCommitSvn s o = (u, y) → Keeps a u := by
  intro u y hu
  unfold opCommitSvn at hu
  split at hu
  · cases hu
    exact h
  · split at hu
    · cases hu
      refine h.trans ⟨rfl, ⟨[], by simp⟩, rfl, fun _ h => h, fun h => ?_, id, rfl, rfl, fun h => ⟨Nat.le_refl _, h⟩, id⟩
      constructor
      · show s.mgt.fuseSvn ≤ min 64 (max s.mgt.fuseSvn _)
        omega
      · exact Nat.min_le_left _ _
    · cases hu
      exact h

/-- What `opBoardRecord` keeps. -/
theorem opBoardRecord_keeps {a s : State} (h : Keeps a s) (o : MgmtOp) :
    ∀ u y, opBoardRecord s o = (u, y) → Keeps a u := by
  have key : Keeps a (opBoardRecord s o).1 := by
    unfold opBoardRecord
    repeat'
      first
      | with_reducible assumption
      | (extract_lets +onlyGivenNames x; refine (fun (hx : Keeps a x) => ?_) ?_; clear_value x; rotate_left; simp only [x])
      | (extract_lets +onlyGivenNames x; refine (fun (hx : Keeps a x) => ?_) ?_; rotate_left; simp only [x])
      | (extract_lets +onlyGivenNames x; have _g : Mgt := x)
      | (extract_lets +onlyGivenNames x; clear_value x)
      | extract_lets +onlyGivenNames x
      | split
      | dsimp only
      | (simp only [keeps_mk]; refine KeepsMk.same rfl ?_ rfl rfl rfl rfl rfl rfl rfl rfl rfl rfl rfl)
  intro u y hu
  rw [hu] at key
  exact key

/-- What `opKeyEnroll` keeps. -/
theorem opKeyEnroll_keeps {a s : State} (h : Keeps a s) (o : MgmtOp) :
    ∀ u y, opKeyEnroll s o = (u, y) → Keeps a u := by
  have key : Keeps a (opKeyEnroll s o).1 := by
    unfold opKeyEnroll
    repeat'
      first
      | with_reducible assumption
      | (extract_lets +onlyGivenNames x; refine (fun (hx : Keeps a x) => ?_) ?_; clear_value x; rotate_left; simp only [x])
      | (extract_lets +onlyGivenNames x; refine (fun (hx : Keeps a x) => ?_) ?_; rotate_left; simp only [x])
      | (extract_lets +onlyGivenNames x; have _g : Mgt := x)
      | (extract_lets +onlyGivenNames x; clear_value x)
      | extract_lets +onlyGivenNames x
      | split
      | dsimp only
      | (simp only [keeps_mk]; refine KeepsMk.same rfl ?_ rfl rfl rfl rfl rfl rfl rfl rfl rfl rfl rfl)
  intro u y hu
  rw [hu] at key
  exact key

/-- What `opKeyRemove` keeps. -/
theorem opKeyRemove_keeps {a s : State} (h : Keeps a s) (o : MgmtOp) :
    ∀ u y, opKeyRemove s o = (u, y) → Keeps a u := by
  have key : Keeps a (opKeyRemove s o).1 := by
    unfold opKeyRemove
    repeat'
      first
      | with_reducible assumption
      | (extract_lets +onlyGivenNames x; refine (fun (hx : Keeps a x) => ?_) ?_; clear_value x; rotate_left; simp only [x])
      | (extract_lets +onlyGivenNames x; refine (fun (hx : Keeps a x) => ?_) ?_; rotate_left; simp only [x])
      | (extract_lets +onlyGivenNames x; have _g : Mgt := x)
      | (extract_lets +onlyGivenNames x; clear_value x)
      | extract_lets +onlyGivenNames x
      | split
      | dsimp only
      | (simp only [keeps_mk]; refine KeepsMk.same rfl ?_ rfl rfl rfl rfl rfl rfl rfl rfl rfl rfl rfl)
  intro u y hu
  rw [hu] at key
  exact key

/-- What `State.reserveLeaves` keeps. -/
theorem State.log_leaf (s : State) (code severity source unit arg : Nat) :
    (s.log code severity source unit arg).mgt.leafNext = s.mgt.leafNext ∧
      (s.log code severity source unit arg).mgt.leafReserved = s.mgt.leafReserved := by
  unfold State.log State.flushLog
  dsimp only
  repeat' split
  all_goals exact ⟨rfl, rfl⟩

/-- What reserving leaf indices keeps. -/
theorem State.reserveLeaves_keeps {a s : State} (h : Keeps a s) : Keeps a s.reserveLeaves := by
  unfold State.reserveLeaves
  split
  · rename_i hc
    refine State.log_keeps (s := { s with mgt := { s.mgt with leafReserved := s.mgt.leafNext + 1024 } }) ?_ _ _ _ _ _
    refine h.trans ⟨rfl, ⟨[], by simp⟩, rfl, fun _ h => h, fun h => ⟨Nat.le_refl _, h⟩, id, rfl, rfl, fun _ => ?_, id⟩
    exact ⟨Nat.le_refl _, Nat.le_add_right _ _⟩
  · exact h

/-- What `State.takeLeaf` keeps. -/
theorem State.takeLeaf_keeps {a s : State} (h : Keeps a s) :
    ∀ u y, State.takeLeaf s = some (u, y) → Keeps a u := by
  intro u y hu
  have hr := State.reserveLeaves_keeps (Keeps.refl s)
  have hl : s.reserveLeaves.mgt.leafNext = s.mgt.leafNext ∧ s.mgt.leafNext < s.reserveLeaves.mgt.leafReserved := by
    unfold State.reserveLeaves
    split
    · rw [(State.log_leaf _ _ _ _ _ _).1, (State.log_leaf _ _ _ _ _ _).2]
      exact ⟨rfl, Nat.lt_add_of_pos_right (by decide)⟩
    · exact ⟨rfl, by omega⟩
  unfold State.takeLeaf at hu
  split at hu
  · cases hu
  · cases hu
    refine h.trans ⟨hr.pending, hr.outbox, hr.fuses, hr.defects, hr.svn, hr.revoked, hr.hash0, hr.hash1, fun _ => ?_, hr.mem⟩
    exact ⟨Nat.le_succ _, hl.2⟩

/-- What `opAttest` keeps. -/
theorem opAttest_keeps {a s : State} (h : Keeps a s) (o : MgmtOp) :
    ∀ u y, opAttest s o = (u, y) → Keeps a u := by
  have key : Keeps a (opAttest s o).1 := by
    unfold opAttest
    repeat'
      first
      | with_reducible assumption
      | with_reducible refine State.takeLeaf_keeps ?_ _ _ (by assumption)
      | (extract_lets +onlyGivenNames x; refine (fun (hx : Keeps a x) => ?_) ?_; clear_value x; rotate_left; simp only [x])
      | (extract_lets +onlyGivenNames x; refine (fun (hx : Keeps a x) => ?_) ?_; rotate_left; simp only [x])
      | (extract_lets +onlyGivenNames x; have _g : Mgt := x)
      | (extract_lets +onlyGivenNames x; clear_value x)
      | extract_lets +onlyGivenNames x
      | split
      | dsimp only
      | (simp only [keeps_mk]; refine KeepsMk.same rfl ?_ rfl rfl rfl rfl rfl rfl rfl rfl rfl rfl rfl)
  intro u y hu
  rw [hu] at key
  exact key

/-- What `State.caskLifeUpdate` keeps. -/
theorem State.caskLifeUpdate_keeps {a s : State} (h : Keeps a s) :
    Keeps a (State.caskLifeUpdate s) := by
  unfold State.caskLifeUpdate
  repeat'
    first
    | with_reducible assumption
    | with_reducible refine State.mgtEvent_keeps ?_ _ _ _ _ _
    | (extract_lets +onlyGivenNames x; refine (fun (hx : Keeps a x) => ?_) ?_; clear_value x; rotate_left; simp only [x])
    | (extract_lets +onlyGivenNames x; refine (fun (hx : Keeps a x) => ?_) ?_; rotate_left; simp only [x])
    | (extract_lets +onlyGivenNames x; clear_value x)
    | extract_lets +onlyGivenNames x
    | split
    | (simp only [keeps_mk]; refine KeepsMk.same rfl ?_ rfl rfl rfl rfl rfl rfl rfl rfl rfl rfl rfl)

/-- What `State.ledgerAdd` keeps. -/
theorem State.ledgerAdd_keeps {a s : State} (h : Keeps a s) (sectors : Nat) :
    Keeps a (State.ledgerAdd s sectors) := by
  unfold State.ledgerAdd
  repeat'
    first
    | with_reducible assumption
    | with_reducible refine State.caskLifeUpdate_keeps ?_
    | (extract_lets +onlyGivenNames x; refine (fun (hx : Keeps a x) => ?_) ?_; clear_value x; rotate_left; simp only [x])
    | (extract_lets +onlyGivenNames x; refine (fun (hx : Keeps a x) => ?_) ?_; rotate_left; simp only [x])
    | (extract_lets +onlyGivenNames x; clear_value x)
    | extract_lets +onlyGivenNames x
    | split
    | (simp only [keeps_mk]; refine KeepsMk.same rfl ?_ rfl rfl rfl rfl rfl rfl rfl rfl rfl rfl rfl)

/-- What `opCaskStatus` keeps. -/
theorem opCaskStatus_keeps {a s : State} (h : Keeps a s) (z1 : MgmtOp) :
    ∀ u y, opCaskStatus s z1 = (u, y) → Keeps a u := by
  have key : Keeps a (opCaskStatus s z1).1 := by
    unfold opCaskStatus
    repeat'
      first
      | with_reducible assumption
      | (extract_lets +onlyGivenNames x; refine (fun (hx : Keeps a x) => ?_) ?_; clear_value x; rotate_left; simp only [x])
      | (extract_lets +onlyGivenNames x; refine (fun (hx : Keeps a x) => ?_) ?_; rotate_left; simp only [x])
      | (extract_lets +onlyGivenNames x; clear_value x)
      | extract_lets +onlyGivenNames x
      | split
      | dsimp only
      | (simp only [keeps_mk]; refine KeepsMk.same rfl ?_ rfl rfl rfl rfl rfl rfl rfl rfl rfl rfl rfl)
  intro u y hu
  rw [hu] at key
  exact key

/-- What `opCaskList` keeps. -/
theorem opCaskList_keeps {a s : State} (h : Keeps a s) (o : MgmtOp) :
    ∀ u y, opCaskList s o = (u, y) → Keeps a u := by
  have key : Keeps a (opCaskList s o).1 := by
    unfold opCaskList
    repeat'
      first
      | with_reducible assumption
      | (extract_lets +onlyGivenNames x; refine (fun (hx : Keeps a x) => ?_) ?_; clear_value x; rotate_left; simp only [x])
      | (extract_lets +onlyGivenNames x; refine (fun (hx : Keeps a x) => ?_) ?_; rotate_left; simp only [x])
      | (extract_lets +onlyGivenNames x; clear_value x)
      | extract_lets +onlyGivenNames x
      | split
      | dsimp only
      | (simp only [keeps_mk]; refine KeepsMk.same rfl ?_ rfl rfl rfl rfl rfl rfl rfl rfl rfl rfl rfl)
  intro u y hu
  rw [hu] at key
  exact key

/-- What `opCaskWrite` keeps. -/
theorem opCaskWrite_keeps {a s : State} (h : Keeps a s) (o : MgmtOp) :
    ∀ u y, opCaskWrite s o = (u, y) → Keeps a u := by
  have key : Keeps a (opCaskWrite s o).1 := by
    unfold opCaskWrite
    repeat'
      first
      | with_reducible assumption
      | with_reducible refine State.ledgerAdd_keeps ?_ _
      | (extract_lets +onlyGivenNames x; refine (fun (hx : Keeps a x) => ?_) ?_; clear_value x; rotate_left; simp only [x])
      | (extract_lets +onlyGivenNames x; refine (fun (hx : Keeps a x) => ?_) ?_; rotate_left; simp only [x])
      | (extract_lets +onlyGivenNames x; clear_value x)
      | extract_lets +onlyGivenNames x
      | split
      | dsimp only
      | (simp only [keeps_mk]; refine KeepsMk.same rfl ?_ rfl rfl rfl rfl rfl rfl rfl rfl rfl rfl rfl)
  intro u y hu
  rw [hu] at key
  exact key

/-- What `opCaskDelete` keeps. -/
theorem opCaskDelete_keeps {a s : State} (h : Keeps a s) (o : MgmtOp) :
    ∀ u y, opCaskDelete s o = (u, y) → Keeps a u := by
  have key : Keeps a (opCaskDelete s o).1 := by
    unfold opCaskDelete
    repeat'
      first
      | with_reducible assumption
      | with_reducible refine State.ledgerAdd_keeps ?_ _
      | (extract_lets +onlyGivenNames x; refine (fun (hx : Keeps a x) => ?_) ?_; clear_value x; rotate_left; simp only [x])
      | (extract_lets +onlyGivenNames x; refine (fun (hx : Keeps a x) => ?_) ?_; rotate_left; simp only [x])
      | (extract_lets +onlyGivenNames x; clear_value x)
      | extract_lets +onlyGivenNames x
      | split
      | dsimp only
      | (simp only [keeps_mk]; refine KeepsMk.same rfl ?_ rfl rfl rfl rfl rfl rfl rfl rfl rfl rfl rfl)
  intro u y hu
  rw [hu] at key
  exact key

/-- What `opPair` keeps. -/
theorem opPair_keeps {a s : State} (h : Keeps a s) (z1 : MgmtOp) :
    ∀ u y, opPair s z1 = (u, y) → Keeps a u := by
  have key : Keeps a (opPair s z1).1 := by
    unfold opPair
    repeat'
      first
      | with_reducible assumption
      | with_reducible refine State.takeLeaf_keeps ?_ _ _ (by assumption)
      | with_reducible refine State.ledgerAdd_keeps ?_ _
      | (extract_lets +onlyGivenNames x; refine (fun (hx : Keeps a x) => ?_) ?_; clear_value x; rotate_left; simp only [x])
      | (extract_lets +onlyGivenNames x; refine (fun (hx : Keeps a x) => ?_) ?_; rotate_left; simp only [x])
      | (extract_lets +onlyGivenNames x; clear_value x)
      | extract_lets +onlyGivenNames x
      | split
      | dsimp only
      | (simp only [keeps_mk]; refine KeepsMk.same rfl ?_ rfl rfl rfl rfl rfl rfl rfl rfl rfl rfl rfl)
  intro u y hu
  rw [hu] at key
  exact key

/-- What `opUnpair` keeps. -/
theorem opUnpair_keeps {a s : State} (h : Keeps a s) (z1 : MgmtOp) :
    ∀ u y, opUnpair s z1 = (u, y) → Keeps a u := by
  have key : Keeps a (opUnpair s z1).1 := by
    unfold opUnpair
    repeat'
      first
      | with_reducible assumption
      | with_reducible refine State.ledgerAdd_keeps ?_ _
      | (extract_lets +onlyGivenNames x; refine (fun (hx : Keeps a x) => ?_) ?_; clear_value x; rotate_left; simp only [x])
      | (extract_lets +onlyGivenNames x; refine (fun (hx : Keeps a x) => ?_) ?_; rotate_left; simp only [x])
      | (extract_lets +onlyGivenNames x; clear_value x)
      | extract_lets +onlyGivenNames x
      | split
      | dsimp only
      | (simp only [keeps_mk]; refine KeepsMk.same rfl ?_ rfl rfl rfl rfl rfl rfl rfl rfl rfl rfl rfl)
  intro u y hu
  rw [hu] at key
  exact key

/-- What `opUpdate` keeps. -/
theorem opUpdate_keeps {a s : State} (h : Keeps a s) (o : MgmtOp) :
    ∀ u y, opUpdate s o = (u, y) → Keeps a u := by
  have key : Keeps a (opUpdate s o).1 := by
    unfold opUpdate
    repeat'
      first
      | with_reducible assumption
      | with_reducible refine opStage_keeps ?_ _ _ _ (by assumption)
      | with_reducible refine opStage_keeps ?_ _ _ _ rfl
      | with_reducible refine opActivate_keeps ?_ _ _ _ (by assumption)
      | with_reducible refine opActivate_keeps ?_ _ _ _ rfl
      | with_reducible refine opCommitSvn_keeps ?_ _ _ _ (by assumption)
      | with_reducible refine opCommitSvn_keeps ?_ _ _ _ rfl
      | with_reducible refine opBoardRecord_keeps ?_ _ _ _ (by assumption)
      | with_reducible refine opBoardRecord_keeps ?_ _ _ _ rfl
      | with_reducible refine opKeyEnroll_keeps ?_ _ _ _ (by assumption)
      | with_reducible refine opKeyEnroll_keeps ?_ _ _ _ rfl
      | with_reducible refine opKeyRemove_keeps ?_ _ _ _ (by assumption)
      | with_reducible refine opKeyRemove_keeps ?_ _ _ _ rfl
      | (extract_lets +onlyGivenNames x; refine (fun (hx : Keeps a x) => ?_) ?_; clear_value x; rotate_left; simp only [x])
      | (extract_lets +onlyGivenNames x; refine (fun (hx : Keeps a x) => ?_) ?_; rotate_left; simp only [x])
      | (extract_lets +onlyGivenNames x; clear_value x)
      | extract_lets +onlyGivenNames x
      | split
      | dsimp only
      | (simp only [keeps_mk]; refine KeepsMk.same rfl ?_ rfl rfl rfl rfl rfl rfl rfl rfl rfl rfl rfl)
  intro u y hu
  rw [hu] at key
  exact key

/-- What `opCask` keeps. -/
theorem opCask_keeps {a s : State} (h : Keeps a s) (o : MgmtOp) :
    ∀ u y, opCask s o = (u, y) → Keeps a u := by
  have key : Keeps a (opCask s o).1 := by
    unfold opCask
    repeat'
      first
      | with_reducible assumption
      | with_reducible refine opCaskStatus_keeps ?_ _ _ _ (by assumption)
      | with_reducible refine opCaskStatus_keeps ?_ _ _ _ rfl
      | with_reducible refine opCaskList_keeps ?_ _ _ _ (by assumption)
      | with_reducible refine opCaskList_keeps ?_ _ _ _ rfl
      | with_reducible refine opCaskWrite_keeps ?_ _ _ _ (by assumption)
      | with_reducible refine opCaskWrite_keeps ?_ _ _ _ rfl
      | with_reducible refine opCaskDelete_keeps ?_ _ _ _ (by assumption)
      | with_reducible refine opCaskDelete_keeps ?_ _ _ _ rfl
      | with_reducible refine opPair_keeps ?_ _ _ _ (by assumption)
      | with_reducible refine opPair_keeps ?_ _ _ _ rfl
      | with_reducible refine opUnpair_keeps ?_ _ _ _ (by assumption)
      | with_reducible refine opUnpair_keeps ?_ _ _ _ rfl
      | (extract_lets +onlyGivenNames x; refine (fun (hx : Keeps a x) => ?_) ?_; clear_value x; rotate_left; simp only [x])
      | (extract_lets +onlyGivenNames x; refine (fun (hx : Keeps a x) => ?_) ?_; rotate_left; simp only [x])
      | (extract_lets +onlyGivenNames x; clear_value x)
      | extract_lets +onlyGivenNames x
      | split
      | dsimp only
      | (simp only [keeps_mk]; refine KeepsMk.same rfl ?_ rfl rfl rfl rfl rfl rfl rfl rfl rfl rfl rfl)
  intro u y hu
  rw [hu] at key
  exact key

/-- What `opByCode` keeps. -/
theorem opByCode_keeps {a s : State} (h : Keeps a s) (o : MgmtOp) :
    ∀ u y, opByCode s o = (u, y) → Keeps a u := by
  have key : Keeps a (opByCode s o).1 := by
    unfold opByCode
    repeat'
      first
      | with_reducible assumption
      | with_reducible refine opIdentity_keeps ?_ _ _ _ (by assumption)
      | with_reducible refine opIdentity_keeps ?_ _ _ _ rfl
      | with_reducible refine opLogRead_keeps ?_ _ _ _ (by assumption)
      | with_reducible refine opLogRead_keeps ?_ _ _ _ rfl
      | with_reducible refine opSensorRead_keeps ?_ _ _ _ (by assumption)
      | with_reducible refine opSensorRead_keeps ?_ _ _ _ rfl
      | with_reducible refine opFunctionReset_keeps ?_ _ _ _ (by assumption)
      | with_reducible refine opFunctionReset_keeps ?_ _ _ _ rfl
      | with_reducible refine opComputeReset_keeps ?_ _ _ _ (by assumption)
      | with_reducible refine opComputeReset_keeps ?_ _ _ _ rfl
      | with_reducible refine opDomainPower_keeps ?_ _ _ _ (by assumption)
      | with_reducible refine opDomainPower_keeps ?_ _ _ _ rfl
      | with_reducible refine opResetPolicy_keeps ?_ _ _ _ (by assumption)
      | with_reducible refine opResetPolicy_keeps ?_ _ _ _ rfl
      | with_reducible refine opDefectRead_keeps ?_ _ _ _ (by assumption)
      | with_reducible refine opDefectRead_keeps ?_ _ _ _ rfl
      | with_reducible refine opUpdate_keeps ?_ _ _ _ (by assumption)
      | with_reducible refine opUpdate_keeps ?_ _ _ _ rfl
      | with_reducible refine opAttest_keeps ?_ _ _ _ (by assumption)
      | with_reducible refine opAttest_keeps ?_ _ _ _ rfl
      | with_reducible refine opCask_keeps ?_ _ _ _ (by assumption)
      | with_reducible refine opCask_keeps ?_ _ _ _ rfl
      | (extract_lets +onlyGivenNames x; refine (fun (hx : Keeps a x) => ?_) ?_; clear_value x; rotate_left; simp only [x])
      | (extract_lets +onlyGivenNames x; refine (fun (hx : Keeps a x) => ?_) ?_; rotate_left; simp only [x])
      | (extract_lets +onlyGivenNames x; clear_value x)
      | extract_lets +onlyGivenNames x
      | split
      | dsimp only
      | (simp only [keeps_mk]; refine KeepsMk.same rfl ?_ rfl rfl rfl rfl rfl rfl rfl rfl rfl rfl rfl)
  intro u y hu
  rw [hu] at key
  exact key

/-- What `opRun` keeps. -/
theorem opRun_keeps {a s : State} (h : Keeps a s) (o : MgmtOp) :
    ∀ u y, opRun s o = (u, y) → Keeps a u := by
  have key : Keeps a (opRun s o).1 := by
    unfold opRun
    repeat'
      first
      | with_reducible assumption
      | with_reducible refine opByCode_keeps ?_ _ _ _ (by assumption)
      | with_reducible refine opByCode_keeps ?_ _ _ _ rfl
      | (extract_lets +onlyGivenNames x; refine (fun (hx : Keeps a x) => ?_) ?_; clear_value x; rotate_left; simp only [x])
      | (extract_lets +onlyGivenNames x; refine (fun (hx : Keeps a x) => ?_) ?_; rotate_left; simp only [x])
      | (extract_lets +onlyGivenNames x; clear_value x)
      | extract_lets +onlyGivenNames x
      | split
      | dsimp only
      | (simp only [keeps_mk]; refine KeepsMk.same rfl ?_ rfl rfl rfl rfl rfl rfl rfl rfl rfl rfl rfl)
  intro u y hu
  rw [hu] at key
  exact key

/-- What `State.opAnswer` keeps. -/
theorem State.opAnswer_keeps {a0 s : State} (h : Keeps a0 s) (o : MgmtOp) (a : MAns) :
    Keeps a0 (State.opAnswer s o a) := by
  unfold State.opAnswer
  repeat'
    first
    | with_reducible assumption
    | with_reducible refine State.emit_keeps ?_ _
    | with_reducible refine State.endPacket_keeps ?_ _ _
    | with_reducible exact hff _
    | (extract_lets +onlyGivenNames ff; refine (fun (hff : ∀ c, Keeps a0 (ff c)) => ?_) (fun c => ?_); clear_value ff; rotate_left; simp only [ff])
    | (extract_lets +onlyGivenNames x; refine (fun (hx : Keeps a0 x) => ?_) ?_; clear_value x; rotate_left; simp only [x])
    | (extract_lets +onlyGivenNames x; refine (fun (hx : Keeps a0 x) => ?_) ?_; rotate_left; simp only [x])
    | (extract_lets +onlyGivenNames x; have _g : Mgt := x)
    | extract_lets +onlyGivenNames x
    | split
    | (simp only [keeps_mk]; refine KeepsMk.same rfl ?_ rfl rfl rfl rfl rfl rfl rfl rfl rfl rfl rfl)

/-- What `State.syncUpdate` keeps. -/
theorem State.syncUpdate_keeps {a s : State} (h : Keeps a s) :
    Keeps a (State.syncUpdate s) := by
  unfold State.syncUpdate
  repeat'
    first
    | with_reducible assumption
    | (extract_lets +onlyGivenNames x; refine (fun (hx : Keeps a x) => ?_) ?_; clear_value x; rotate_left; simp only [x])
    | (extract_lets +onlyGivenNames x; refine (fun (hx : Keeps a x) => ?_) ?_; rotate_left; simp only [x])
    | (extract_lets +onlyGivenNames x; have _g : Mgt := x)
    | (extract_lets +onlyGivenNames x; clear_value x)
    | extract_lets +onlyGivenNames x
    | split
    | (simp only [keeps_mk]; refine KeepsMk.same rfl ?_ rfl rfl rfl rfl rfl rfl rfl rfl rfl rfl rfl)

/-- What `State.opBegin` keeps. -/
theorem State.opBegin_keeps {a s : State} (h : Keeps a s) (o : MgmtOp) :
    Keeps a (State.opBegin s o) := by
  unfold State.opBegin
  refine State.syncUpdate_keeps ?_
  by_cases hc : o.op = 8
  · simp only [if_pos hc]
    exact (State.setSlot_keeps h _ _).same rfl rfl rfl rfl rfl rfl rfl rfl rfl rfl rfl rfl
  · simp only [if_neg hc]
    exact h.same rfl rfl rfl rfl rfl rfl rfl rfl rfl rfl rfl rfl

/-- What `State.opStep` keeps. -/
theorem State.opStep_keeps {a s : State} (h : Keeps a s) (o : MgmtOp) :
    Keeps a (State.opStep s o) := by
  unfold State.opStep
  repeat'
    first
    | with_reducible assumption
    | with_reducible refine State.opAnswer_keeps ?_ _ _
    | with_reducible refine State.opBegin_keeps ?_ _
    | with_reducible refine State.syncUpdate_keeps ?_
    | with_reducible refine opRun_keeps ?_ _ _ _ (by assumption)
    | with_reducible refine opRun_keeps ?_ _ _ _ rfl
    | (extract_lets +onlyGivenNames x; refine (fun (hx : Keeps a x) => ?_) ?_; clear_value x; rotate_left; simp only [x])
    | (extract_lets +onlyGivenNames x; refine (fun (hx : Keeps a x) => ?_) ?_; rotate_left; simp only [x])
    | (extract_lets +onlyGivenNames x; refine (fun (hx : Keeps a x.1) => ?_) ?_; clear_value x; rotate_left; simp only [x])
    | (extract_lets +onlyGivenNames x; refine (fun (hx : Keeps a x.1) => ?_) ?_; rotate_left; simp only [x])
    | (extract_lets +onlyGivenNames x; clear_value x)
    | extract_lets +onlyGivenNames x
    | split
    | (simp only [keeps_mk]; refine KeepsMk.same rfl ?_ rfl rfl rfl rfl rfl rfl rfl rfl rfl rfl rfl)

/-- What `State.abortOps` keeps. -/
theorem State.abortOps_keeps {a s : State} (h : Keeps a s) :
    Keeps a (State.abortOps s) := by
  unfold State.abortOps
  repeat'
    first
    | with_reducible assumption
    | with_reducible refine Keeps.fold ?_ _ (fun _ _ _ => ?_) _
    | with_reducible refine State.syncUpdate_keeps ?_
    | with_reducible refine State.opAnswer_keeps ?_ _ _
    | (extract_lets +onlyGivenNames x; refine (fun (hx : Keeps a x) => ?_) ?_; clear_value x; rotate_left; simp only [x])
    | (extract_lets +onlyGivenNames x; refine (fun (hx : Keeps a x) => ?_) ?_; rotate_left; simp only [x])
    | (extract_lets +onlyGivenNames x; have _g : Mgt := x)
    | (extract_lets +onlyGivenNames x; clear_value x)
    | extract_lets +onlyGivenNames x
    | split
    | (simp only [keeps_mk]; refine KeepsMk.same rfl ?_ rfl rfl rfl rfl rfl rfl rfl rfl rfl rfl rfl)

/-- What `State.opMark` keeps. -/
theorem State.opMark_keeps {a s : State} (h : Keeps a s) (o : MgmtOp) :
    Keeps a (State.opMark s o) := by
  unfold State.opMark
  repeat'
    first
    | with_reducible assumption
    | with_reducible refine State.setWait_keeps ?_ _ _
    | with_reducible exact hff _
    | (extract_lets +onlyGivenNames ff; refine (fun (hff : ∀ c, Keeps a (ff c)) => ?_) (fun c => ?_); clear_value ff; rotate_left; simp only [ff])
    | (extract_lets +onlyGivenNames x; refine (fun (hx : Keeps a x) => ?_) ?_; clear_value x; rotate_left; simp only [x])
    | (extract_lets +onlyGivenNames x; refine (fun (hx : Keeps a x) => ?_) ?_; rotate_left; simp only [x])
    | (extract_lets +onlyGivenNames x; have _g : Mgt := x)
    | extract_lets +onlyGivenNames x
    | split
    | (simp only [keeps_mk]; refine KeepsMk.same rfl ?_ rfl rfl rfl rfl rfl rfl rfl rfl rfl rfl rfl)

/-- What `State.opAccept` keeps. -/
theorem State.opAccept_keeps {a s : State} (h : Keeps a s) (o : MgmtOp) :
    Keeps a (State.opAccept s o) := by
  unfold State.opAccept
  repeat'
    first
    | with_reducible assumption
    | with_reducible refine State.opMark_keeps ?_ _
    | with_reducible refine State.opStep_keeps ?_ _
    | with_reducible refine State.abortOps_keeps ?_
    | (extract_lets +onlyGivenNames x; refine (fun (hx : Keeps a x) => ?_) ?_; clear_value x; rotate_left; simp only [x])
    | (extract_lets +onlyGivenNames x; refine (fun (hx : Keeps a x) => ?_) ?_; rotate_left; simp only [x])
    | (extract_lets +onlyGivenNames x; have _g : Mgt := x)
    | (extract_lets +onlyGivenNames x; clear_value x)
    | extract_lets +onlyGivenNames x
    | split
    | (simp only [keeps_mk]; refine KeepsMk.same rfl ?_ rfl rfl rfl rfl rfl rfl rfl rfl rfl rfl rfl)

/-- What `State.mailboxGo` keeps. -/
theorem State.mailboxGo_keeps {a s : State} (h : Keeps a s) (op : Nat) (data : List Byte) :
    Keeps a (State.mailboxGo s op data) := by
  unfold State.mailboxGo
  repeat'
    first
    | with_reducible assumption
    | with_reducible refine State.opAccept_keeps ?_ _
    | (extract_lets +onlyGivenNames x; refine (fun (hx : Keeps a x) => ?_) ?_; clear_value x; rotate_left; simp only [x])
    | (extract_lets +onlyGivenNames x; refine (fun (hx : Keeps a x) => ?_) ?_; rotate_left; simp only [x])
    | (extract_lets +onlyGivenNames x; have _g : Mgt := x)
    | (extract_lets +onlyGivenNames x; clear_value x)
    | extract_lets +onlyGivenNames x
    | split
    | (simp only [keeps_mk]; refine KeepsMk.same rfl ?_ rfl rfl rfl rfl rfl rfl rfl rfl rfl rfl rfl)

/-- What `State.sidebandGo` keeps. -/
theorem State.sidebandGo_keeps {a s : State} (h : Keeps a s) (op : Nat) :
    Keeps a (State.sidebandGo s op) := by
  unfold State.sidebandGo
  repeat'
    first
    | with_reducible assumption
    | with_reducible refine State.opAccept_keeps ?_ _
    | (extract_lets +onlyGivenNames x; refine (fun (hx : Keeps a x) => ?_) ?_; clear_value x; rotate_left; simp only [x])
    | (extract_lets +onlyGivenNames x; refine (fun (hx : Keeps a x) => ?_) ?_; rotate_left; simp only [x])
    | (extract_lets +onlyGivenNames x; have _g : Mgt := x)
    | (extract_lets +onlyGivenNames x; clear_value x)
    | extract_lets +onlyGivenNames x
    | split
    | (simp only [keeps_mk]; refine KeepsMk.same rfl ?_ rfl rfl rfl rfl rfl rfl rfl rfl rfl rfl rfl)

/-- What `bodyMgmt` keeps. -/
theorem bodyMgmt_keeps {a s : State} (h : Keeps a s) (fl : Flight) :
    Keeps a (bodyMgmt s fl) := by
  unfold bodyMgmt
  repeat'
    first
    | with_reducible assumption
    | with_reducible refine State.opAccept_keeps ?_ _
    | (simp only [keeps_mk]; refine KeepsMk.same rfl ?_ rfl rfl rfl rfl rfl rfl rfl rfl rfl rfl rfl)

/-- What `State.opTurn` keeps. -/
theorem State.opTurn_keeps {a s : State} (h : Keeps a s) :
    Keeps a (State.opTurn s) := by
  unfold State.opTurn
  repeat'
    first
    | with_reducible assumption
    | with_reducible refine State.opStep_keeps ?_ _
    | (extract_lets +onlyGivenNames x; refine (fun (hx : Keeps a x) => ?_) ?_; clear_value x; rotate_left; simp only [x])
    | (extract_lets +onlyGivenNames x; refine (fun (hx : Keeps a x) => ?_) ?_; rotate_left; simp only [x])
    | (extract_lets +onlyGivenNames x; have _g : Mgt := x)
    | (extract_lets +onlyGivenNames x; clear_value x)
    | extract_lets +onlyGivenNames x
    | split
    | (simp only [keeps_mk]; refine KeepsMk.same rfl ?_ rfl rfl rfl rfl rfl rfl rfl rfl rfl rfl rfl)

/-- What `State.mpBack` keeps. -/
theorem State.mpBack_keeps {a s : State} (h : Keeps a s) :
    Keeps a (State.mpBack s) := by
  unfold State.mpBack
  repeat'
    first
    | with_reducible assumption
    | with_reducible refine State.opAccept_keeps ?_ _
    | (extract_lets +onlyGivenNames x; refine (fun (hx : Keeps a x) => ?_) ?_; clear_value x; rotate_left; simp only [x])
    | (extract_lets +onlyGivenNames x; refine (fun (hx : Keeps a x) => ?_) ?_; rotate_left; simp only [x])
    | (extract_lets +onlyGivenNames x; have _g : Mgt := x)
    | (extract_lets +onlyGivenNames x; clear_value x)
    | extract_lets +onlyGivenNames x
    | split
    | (simp only [keeps_mk]; refine KeepsMk.same rfl ?_ rfl rfl rfl rfl rfl rfl rfl rfl rfl rfl rfl)

end Sys2Proof.Machine
end

