-- ==== Sys2Proof/Laws/KeepSettle.lean ====
section
/-! SUPPORT. What the operations of Machine/Settle.lean keep, one lemma for each. -/

namespace Sys2Proof.Machine

set_option linter.unusedTactic false
set_option linter.unreachableTactic false
set_option linter.unusedVariables false
set_option linter.unusedSimpArgs false

/-- What `State.packetBody` keeps. -/
theorem State.packetBody_keeps {a s : State} (h : Keeps a s) (fl : Flight) :
    Keeps a (State.packetBody s fl) := by
  unfold State.packetBody
  repeat'
    first
    | with_reducible assumption
    | with_reducible refine bodyNop_keeps ?_ _
    | with_reducible refine bodyFunctionInfo_keeps ?_ _
    | with_reducible refine bodyPartitionCreate_keeps ?_ _
    | with_reducible refine bodyPartitionResize_keeps ?_ _
    | with_reducible refine bodyPartitionDestroy_keeps ?_ _
    | with_reducible refine bodyFolioLoad_keeps ?_ _
    | with_reducible refine bodyFolioUnload_keeps ?_ _
    | with_reducible refine bodyPipelineCreate_keeps ?_ _
    | with_reducible refine bodyPipelineDestroy_keeps ?_ _
    | with_reducible refine bodyAccountRead_keeps ?_ _
    | with_reducible refine bodyStreamOpen_keeps ?_ _
    | with_reducible refine bodyFeed_keeps ?_ _
    | with_reducible refine bodyStreamFlush_keeps ?_ _
    | with_reducible refine bodyStreamReset_keeps ?_ _
    | with_reducible refine bodyStreamClose_keeps ?_ _
    | with_reducible refine bodySnapshot_keeps ?_ _
    | with_reducible refine bodyClipStart_keeps ?_ _
    | with_reducible refine bodyClipStop_keeps ?_ _
    | with_reducible refine bodyEncodeKey_keeps ?_ _
    | with_reducible refine bodyPageSourceOpen_keeps ?_ _
    | with_reducible refine bodySubmitPage_keeps ?_ _
    | with_reducible refine bodyPageSourceClose_keeps ?_ _
    | with_reducible refine bodyTextTableLoad_keeps ?_ _
    | with_reducible refine bodyTextTableUnload_keeps ?_ _
    | with_reducible refine bodyTokenizeOpen_keeps ?_ _
    | with_reducible refine bodyTokenizeFeed_keeps ?_ _
    | with_reducible refine bodyTokenizeClose_keeps ?_ _
    | with_reducible refine bodySyncSignal_keeps ?_ _
    | with_reducible refine bodySyncWait_keeps ?_ _
    | with_reducible refine bodySyncRead_keeps ?_ _
    | with_reducible refine bodyBinFree_keeps ?_ _
    | with_reducible refine bodyBinShare_keeps ?_ _
    | with_reducible refine bodyBinCount_keeps ?_ _
    | with_reducible refine bodyBinTake_keeps ?_ _
    | with_reducible refine bodyDmaIn_keeps ?_ _
    | with_reducible refine bodyDmaOut_keeps ?_ _
    | with_reducible refine bodyMgmt_keeps ?_ _
    | (extract_lets +onlyGivenNames x; refine (fun (hx : Keeps a x) => ?_) ?_; clear_value x; rotate_left; simp only [x])
    | (extract_lets +onlyGivenNames x; refine (fun (hx : Keeps a x) => ?_) ?_; rotate_left; simp only [x])
    | (extract_lets +onlyGivenNames x; clear_value x)
    | extract_lets +onlyGivenNames x
    | split
    | (simp only [keeps_mk]; refine KeepsMk.same rfl ?_ rfl rfl rfl rfl rfl rfl rfl rfl rfl rfl rfl)

/-- What `State.packetDone` keeps. -/
theorem State.packetDone_keeps {a s : State} (h : Keeps a s) (fl : Flight) (data : List Byte) :
    Keeps a (State.packetDone s fl data) := by
  unfold State.packetDone
  repeat'
    first
    | with_reducible assumption
    | with_reducible refine finishFolio_keeps ?_ _ _
    | with_reducible refine doneFeed_keeps ?_ _ _
    | with_reducible refine donePage_keeps ?_ _ _
    | with_reducible refine finishTable_keeps ?_ _ _
    | with_reducible refine doneTokenize_keeps ?_ _ _
    | with_reducible refine doneDmaIn_keeps ?_ _ _
    | with_reducible refine doneDmaOut_keeps ?_ _
    | with_reducible refine State.endWith_keeps ?_ _ _ _
    | (extract_lets +onlyGivenNames x; refine (fun (hx : Keeps a x) => ?_) ?_; clear_value x; rotate_left; simp only [x])
    | (extract_lets +onlyGivenNames x; refine (fun (hx : Keeps a x) => ?_) ?_; rotate_left; simp only [x])
    | (extract_lets +onlyGivenNames x; clear_value x)
    | extract_lets +onlyGivenNames x
    | split
    | (simp only [keeps_mk]; refine KeepsMk.same rfl ?_ rfl rfl rfl rfl rfl rfl rfl rfl rfl rfl rfl)

/-- What `State.packetFailed` keeps. -/
theorem State.packetFailed_keeps {a s : State} (h : Keeps a s) (fl : Flight) :
    Keeps a (State.packetFailed s fl) := by
  unfold State.packetFailed
  repeat'
    first
    | with_reducible assumption
    | with_reducible refine failFeed_keeps ?_ _
    | with_reducible refine failPage_keeps ?_ _
    | with_reducible refine State.endWith_keeps ?_ _ _ _
    | (extract_lets +onlyGivenNames x; refine (fun (hx : Keeps a x) => ?_) ?_; clear_value x; rotate_left; simp only [x])
    | (extract_lets +onlyGivenNames x; refine (fun (hx : Keeps a x) => ?_) ?_; rotate_left; simp only [x])
    | (extract_lets +onlyGivenNames x; clear_value x)
    | extract_lets +onlyGivenNames x
    | split
    | (simp only [keeps_mk]; refine KeepsMk.same rfl ?_ rfl rfl rfl rfl rfl rfl rfl rfl rfl rfl rfl)

/-- What `State.startPacket` keeps. -/
theorem State.startPacket_keeps {a0 s : State} (h0 : Keeps a0 s) (fl : Flight) :
    Keeps a0 (State.startPacket s fl) := by
  unfold State.startPacket
  repeat'
    first
    | with_reducible assumption
    | with_reducible refine Keeps.of_eq (by assumption) ?_
    | with_reducible refine State.endPacket_keeps ?_ _ _
    | with_reducible refine State.packetBody_keeps ?_ _
    | (extract_lets +onlyGivenNames x; refine (fun (hx : Keeps a0 x) => ?_) ?_; clear_value x; rotate_left; simp only [x])
    | (extract_lets +onlyGivenNames x; refine (fun (hx : Keeps a0 x) => ?_) ?_; rotate_left; simp only [x])
    | (extract_lets +onlyGivenNames x; refine (fun (hx : Keeps a0 x.1) => ?_) ?_; clear_value x; rotate_left; simp only [x])
    | (extract_lets +onlyGivenNames x; refine (fun (hx : Keeps a0 x.1) => ?_) ?_; rotate_left; simp only [x])
    | (extract_lets +onlyGivenNames x; clear_value x)
    | extract_lets +onlyGivenNames x
    | split
    | dsimp only
    | (simp only [keeps_mk]; refine KeepsMk.same rfl ?_ rfl rfl rfl rfl rfl rfl rfl rfl rfl rfl rfl)

/-- What `State.drainTurn` keeps. -/
theorem State.drainTurn_keeps {a s : State} (h : Keeps a s) (fl : Flight) :
    Keeps a (State.drainTurn s fl) := by
  unfold State.drainTurn
  repeat'
    first
    | with_reducible assumption
    | with_reducible refine Keeps.ite ?_ ?_
    | with_reducible refine startFeed_keeps ?_ _
    | with_reducible refine State.endWith_keeps ?_ _ _ _
    | with_reducible refine flushEmptied_keeps ?_ _ _
    | with_reducible refine startFlush_keeps ?_ _
    | with_reducible refine startReset_keeps ?_ _
    | with_reducible refine State.endClip_keeps ?_ _
    | with_reducible refine State.setWait_keeps ?_ _ _
    | with_reducible refine startTokenize_keeps ?_ _
    | with_reducible refine startTokenizeClose_keeps ?_ _
    | (extract_lets +onlyGivenNames x; refine (fun (hx : Keeps a x) => ?_) ?_; clear_value x; rotate_left; simp only [x])
    | (extract_lets +onlyGivenNames x; refine (fun (hx : Keeps a x) => ?_) ?_; rotate_left; simp only [x])
    | (extract_lets +onlyGivenNames x; clear_value x)
    | extract_lets +onlyGivenNames x
    | split
    | (simp only [keeps_mk]; refine KeepsMk.same rfl ?_ rfl rfl rfl rfl rfl rfl rfl rfl rfl rfl rfl)

/-- What `State.recordsWritten` keeps. -/
theorem State.recordsWritten_keeps {a s : State} (h : Keeps a s) (fl : Flight) (n : Nat) :
    Keeps a (State.recordsWritten s fl n) := by
  unfold State.recordsWritten
  repeat'
    first
    | with_reducible assumption
    | with_reducible refine State.endPacket_keeps ?_ _ _
    | with_reducible refine finishSource_keeps ?_ _ _
    | with_reducible refine finishFlush_keeps ?_ _ _
    | (extract_lets +onlyGivenNames x; refine (fun (hx : Keeps a x) => ?_) ?_; clear_value x; rotate_left; simp only [x])
    | (extract_lets +onlyGivenNames x; refine (fun (hx : Keeps a x) => ?_) ?_; rotate_left; simp only [x])
    | (extract_lets +onlyGivenNames x; clear_value x)
    | extract_lets +onlyGivenNames x
    | split
    | (simp only [keeps_mk]; refine KeepsMk.same rfl ?_ rfl rfl rfl rfl rfl rfl rfl rfl rfl rfl rfl)

/-- What `State.nudge` keeps. -/
theorem State.nudge_keeps {a0 s : State} (h0 : Keeps a0 s) (fl : Flight) :
    Keeps a0 (State.nudge s fl) := by
  unfold State.nudge
  repeat'
    first
    | with_reducible assumption
    | with_reducible refine Keeps.of_eq (by assumption) ?_
    | with_reducible refine State.startPacket_keeps ?_ _
    | with_reducible refine State.drainTurn_keeps ?_ _
    | with_reducible refine State.recordsWritten_keeps ?_ _ _
    | with_reducible refine State.endWith_keeps ?_ _ _ _
    | with_reducible refine State.freePart_keeps ?_ _
    | with_reducible refine State.refillAll_keeps ?_
    | (extract_lets +onlyGivenNames x; refine (fun (hx : Keeps a0 x) => ?_) ?_; clear_value x; rotate_left; simp only [x])
    | (extract_lets +onlyGivenNames x; refine (fun (hx : Keeps a0 x) => ?_) ?_; rotate_left; simp only [x])
    | (extract_lets +onlyGivenNames x; refine (fun (hx : Keeps a0 x.1) => ?_) ?_; clear_value x; rotate_left; simp only [x])
    | (extract_lets +onlyGivenNames x; refine (fun (hx : Keeps a0 x.1) => ?_) ?_; rotate_left; simp only [x])
    | (extract_lets +onlyGivenNames x; clear_value x)
    | extract_lets +onlyGivenNames x
    | split
    | dsimp only
    | (simp only [keeps_mk]; refine KeepsMk.same rfl ?_ rfl rfl rfl rfl rfl rfl rfl rfl rfl rfl rfl)

/-- What `State.settleOnce` keeps. -/
theorem State.settleOnce_keeps {a s : State} (h : Keeps a s) :
    Keeps a (State.settleOnce s) := by
  unfold State.settleOnce
  repeat'
    first
    | with_reducible assumption
    | with_reducible refine Keeps.fold ?_ _ (fun _ _ _ => ?_) _
    | with_reducible refine State.nudge_keeps ?_ _
    | with_reducible refine State.replySatisfied_keeps ?_
    | (extract_lets +onlyGivenNames x; refine (fun (hx : Keeps a x) => ?_) ?_; clear_value x; rotate_left; simp only [x])
    | (extract_lets +onlyGivenNames x; refine (fun (hx : Keeps a x) => ?_) ?_; rotate_left; simp only [x])
    | (extract_lets +onlyGivenNames x; clear_value x)
    | extract_lets +onlyGivenNames x
    | split
    | (simp only [keeps_mk]; refine KeepsMk.same rfl ?_ rfl rfl rfl rfl rfl rfl rfl rfl rfl rfl rfl)

/-- What `State.settleN` keeps. -/
theorem State.settleN_keeps {a s : State} (h : Keeps a s) (n : Nat) :
    Keeps a (State.settleN n s) := by
  induction n generalizing s with
  | zero => exact h
  | succ n ih =>
    unfold State.settleN
    split
    · exact h
    · extract_lets t
      have ht : Keeps a t := State.settleOnce_keeps h
      clear_value t
      split
      · exact ht
      · exact ih ht

/-- What `State.settle` keeps. -/
theorem State.settle_keeps {a s : State} (h : Keeps a s) :
    Keeps a (State.settle s) := by
  unfold State.settle
  repeat'
    first
    | with_reducible assumption
    | with_reducible refine State.quantisePages_keeps ?_
    | with_reducible refine State.settleN_keeps ?_ _

/-- What `State.runPacket` keeps. -/
theorem State.runPacket_keeps {a s : State} (h : Keeps a s) (op : Nat) (pk : Packet) (data : List Byte) :
    Keeps a (State.runPacket s op pk data) := by
  unfold State.runPacket
  repeat'
    first
    | with_reducible assumption
    | with_reducible refine State.settle_keeps ?_
    | with_reducible refine State.endPacket_keeps ?_ _ _
    | with_reducible refine State.fetched_keeps ?_ _ _
    | with_reducible refine State.startPacket_keeps ?_ _
    | (extract_lets +onlyGivenNames x; refine (fun (hx : Keeps a x) => ?_) ?_; clear_value x; rotate_left; simp only [x])
    | (extract_lets +onlyGivenNames x; refine (fun (hx : Keeps a x) => ?_) ?_; rotate_left; simp only [x])
    | (extract_lets +onlyGivenNames x; clear_value x)
    | extract_lets +onlyGivenNames x
    | split
    | (simp only [keeps_mk]; refine KeepsMk.same rfl ?_ rfl rfl rfl rfl rfl rfl rfl rfl rfl rfl rfl)

/-- What `State.runUndefined` keeps. -/
theorem State.runUndefined_keeps {a s : State} (h : Keeps a s) (pk : Packet) :
    Keeps a (State.runUndefined s pk) := by
  unfold State.runUndefined
  repeat'
    first
    | with_reducible assumption
    | with_reducible refine State.settle_keeps ?_
    | with_reducible refine State.endPacket_keeps ?_ _ _
    | with_reducible refine State.fetched_keeps ?_ _ _
    | split
    | (simp only [keeps_mk]; refine KeepsMk.same rfl ?_ rfl rfl rfl rfl rfl rfl rfl rfl rfl rfl rfl)

end Sys2Proof.Machine
end

