-- ==== Sys2Proof/Laws/KeepPackets.lean ====
section
/-! SUPPORT. What the operations of Machine/Packets.lean keep, one lemma for each. -/

namespace Sys2Proof.Machine

set_option linter.unusedTactic false
set_option linter.unreachableTactic false
set_option linter.unusedVariables false
set_option linter.unusedSimpArgs false

/-- What `State.chargeHost` keeps. -/
theorem State.chargeHost_keeps {a s : State} (h : Keeps a s) (fl : Flight) :
    Keeps a (State.chargeHost s fl) := by
  unfold State.chargeHost
  repeat'
    first
    | with_reducible assumption
    | with_reducible refine State.charge_keeps ?_ _ _ _
    | split

/-- What `State.readOwed` keeps. -/
theorem State.readOwed_keeps {a s : State} (h : Keeps a s) (id : Nat) :
    Keeps a (State.readOwed s id) := by
  unfold State.readOwed
  repeat'
    first
    | with_reducible assumption
    | with_reducible refine State.finishStop_keeps ?_
    | (extract_lets +onlyGivenNames x; refine (fun (hx : Keeps a x) => ?_) ?_; clear_value x; rotate_left; simp only [x])
    | (extract_lets +onlyGivenNames x; refine (fun (hx : Keeps a x) => ?_) ?_; rotate_left; simp only [x])
    | (extract_lets +onlyGivenNames x; have _g : Dev := x)
    | (extract_lets +onlyGivenNames x; clear_value x)
    | extract_lets +onlyGivenNames x
    | split
    | (simp only [keeps_mk]; refine KeepsMk.same rfl ?_ rfl rfl rfl rfl rfl rfl rfl rfl rfl rfl rfl)

/-- What `State.dmaFault` keeps. -/
theorem State.dmaFault_keeps {a s : State} (h : Keeps a s) (z1 : DmaTarget) :
    Keeps a (State.dmaFault s z1) := by
  unfold State.dmaFault
  repeat'
    first
    | with_reducible assumption
    | with_reducible refine State.ringFault_keeps ?_ _ _ _
    | with_reducible refine State.setRing_keeps ?_ _ _ _
    | with_reducible refine State.setRes_keeps ?_ _ _
    | with_reducible refine State.settle_keeps ?_
    | with_reducible refine State.packetFailed_keeps ?_ _
    | (extract_lets +onlyGivenNames x; refine (fun (hx : Keeps a x) => ?_) ?_; clear_value x; rotate_left; simp only [x])
    | (extract_lets +onlyGivenNames x; refine (fun (hx : Keeps a x) => ?_) ?_; rotate_left; simp only [x])
    | (extract_lets +onlyGivenNames x; clear_value x)
    | extract_lets +onlyGivenNames x
    | split
    | (simp only [keeps_mk]; refine KeepsMk.same rfl ?_ rfl rfl rfl rfl rfl rfl rfl rfl rfl rfl rfl)

/-- What `State.laterSignals` keeps. -/
theorem State.laterSignals_keeps {a s : State} (h : Keeps a s) (l : List Signal) :
    Keeps a (State.laterSignals s l) := by
  unfold State.laterSignals
  repeat'
    first
    | with_reducible assumption
    | with_reducible refine Keeps.fold ?_ _ (fun _ _ _ => ?_) _
    | with_reducible refine State.settle_keeps ?_
    | with_reducible refine State.applySignal_keeps ?_ _
    | split

/-- What `State.expire` keeps. -/
theorem State.expire_keeps {a0 s : State} (h : Keeps a0 s) (fl : Flight) (signals : List Signal) (met : State → Bool) (a : State → Ans) :
    Keeps a0 (State.expire s fl signals met a) := by
  unfold State.expire
  repeat'
    first
    | with_reducible assumption
    | with_reducible refine Keeps.fold ?_ _ (fun _ _ _ => ?_) _
    | with_reducible refine State.applySignal_keeps ?_ _
    | with_reducible refine State.replySatisfied_keeps ?_
    | with_reducible refine State.laterSignals_keeps ?_ _
    | with_reducible refine State.settle_keeps ?_
    | with_reducible refine State.endPacket_keeps ?_ _ _
    | (extract_lets +onlyGivenNames x; refine (fun (hx : Keeps a0 x) => ?_) ?_; clear_value x; rotate_left; simp only [x])
    | (extract_lets +onlyGivenNames x; refine (fun (hx : Keeps a0 x) => ?_) ?_; rotate_left; simp only [x])
    | (extract_lets +onlyGivenNames x; refine (fun (hx : Keeps a0 x.1) => ?_) ?_; clear_value x; rotate_left; simp only [x])
    | (extract_lets +onlyGivenNames x; refine (fun (hx : Keeps a0 x.1) => ?_) ?_; rotate_left; simp only [x])
    | (extract_lets +onlyGivenNames x; clear_value x)
    | extract_lets +onlyGivenNames x
    | split

end Sys2Proof.Machine
end

