-- ==== Sys2Proof/Laws/KeepWindows.lean ====
section
/-! SUPPORT. What the operations of Machine/Windows.lean keep, one lemma for each. -/

namespace Sys2Proof.Machine

set_option linter.unusedTactic false
set_option linter.unreachableTactic false
set_option linter.unusedVariables false
set_option linter.unusedSimpArgs false

/-- What `State.chargeAccess` keeps. -/
theorem State.chargeAccess_keeps {a0 s : State} (h0 : Keeps a0 s) (f : Nat) (a : Nat) (n : Nat) (write : Bool) :
    Keeps a0 (State.chargeAccess s f a n write) := by
  unfold State.chargeAccess
  repeat'
    first
    | with_reducible assumption
    | with_reducible refine Keeps.of_eq (by assumption) ?_
    | with_reducible refine State.dramTraffic_keeps ?_ _ _ _ _ _ _
    | with_reducible refine State.charge_keeps ?_ _ _ _
    | with_reducible refine State.spendAll_keeps ?_ _ _ _ _ (by assumption)
    | with_reducible refine State.spendAll_keeps ?_ _ _ _ _ Prod.mk.eta.symm
    | (extract_lets +onlyGivenNames x; refine (fun (hx : Keeps a0 x) => ?_) ?_; clear_value x; rotate_left; simp only [x])
    | (extract_lets +onlyGivenNames x; refine (fun (hx : Keeps a0 x) => ?_) ?_; rotate_left; simp only [x])
    | (extract_lets +onlyGivenNames x; refine (fun (hx : Keeps a0 x.1) => ?_) ?_; clear_value x; rotate_left; simp only [x])
    | (extract_lets +onlyGivenNames x; refine (fun (hx : Keeps a0 x.1) => ?_) ?_; rotate_left; simp only [x])
    | (extract_lets +onlyGivenNames x; clear_value x)
    | extract_lets +onlyGivenNames x
    | split
    | dsimp only
    | (simp only [keeps_mk]; refine KeepsMk.same rfl ?_ rfl rfl rfl rfl rfl rfl rfl rfl rfl rfl rfl)

/-- What `State.serveRead` keeps. -/
theorem State.serveRead_keeps {a0 s : State} (h : Keeps a0 s) (f : Nat) (a : Nat) (n : Nat) :
    Keeps a0 (State.serveRead s f a n) := by
  unfold State.serveRead
  repeat'
    first
    | with_reducible assumption
    | with_reducible refine State.emit_keeps ?_ _
    | with_reducible refine State.chargeAccess_keeps ?_ _ _ _ _
    | (extract_lets +onlyGivenNames x; refine (fun (hx : Keeps a0 x) => ?_) ?_; clear_value x; rotate_left; simp only [x])
    | (extract_lets +onlyGivenNames x; refine (fun (hx : Keeps a0 x) => ?_) ?_; rotate_left; simp only [x])
    | (extract_lets +onlyGivenNames x; clear_value x)
    | extract_lets +onlyGivenNames x
    | split

/-- What `State.serveWrite` keeps. -/
theorem State.serveWrite_keeps {a0 s : State} (h : Keeps a0 s) (f : Nat) (a : Nat) (bs : List Byte) :
    Keeps a0 (State.serveWrite s f a bs) := by
  unfold State.serveWrite
  repeat'
    first
    | with_reducible assumption
    | with_reducible refine State.writeOutside_keeps ?_ _ _
    | with_reducible refine State.chargeAccess_keeps ?_ _ _ _ _

/-- What `State.failHeld` keeps. -/
theorem State.failHeld_keeps {a s : State} (h0 : Keeps a s) (h : Held) (wakeFailed : Bool) :
    Keeps a (State.failHeld s h wakeFailed) := by
  unfold State.failHeld
  repeat'
    first
    | with_reducible assumption
    | with_reducible refine State.emit_keeps ?_ _
    | (extract_lets +onlyGivenNames x; refine (fun (hx : Keeps a x) => ?_) ?_; clear_value x; rotate_left; simp only [x])
    | (extract_lets +onlyGivenNames x; refine (fun (hx : Keeps a x) => ?_) ?_; rotate_left; simp only [x])
    | (extract_lets +onlyGivenNames x; clear_value x)
    | extract_lets +onlyGivenNames x
    | split

/-- What `State.failRead` keeps. -/
theorem State.failRead_keeps {a s : State} (h : Keeps a s) (f : Nat) (ofs : Nat) (c : Completion) : Keeps a (State.failRead s f ofs c) := by
  unfold State.failRead
  repeat'
    first
    | with_reducible assumption
    | with_reducible refine State.emit_keeps ?_ _
    | split

/-- What `State.windowAccess` keeps. -/
theorem State.windowAccess_keeps {a s : State} (h : Keeps a s) (f : Nat) (ofs : Nat) (len : Nat) (data : List Byte) (write : Bool) :
    Keeps a (State.windowAccess s f ofs len data write) := by
  unfold State.windowAccess
  repeat'
    first
    | with_reducible assumption
    | with_reducible refine State.emit_keeps ?_ _
    | with_reducible refine State.failRead_keeps ?_ _ _ _
    | with_reducible refine State.serveWrite_keeps ?_ _ _ _
    | with_reducible refine State.serveRead_keeps ?_ _ _ _
    | with_reducible refine State.wake_keeps ?_ _
    | with_reducible exact hff _
    | (extract_lets +onlyGivenNames ff; refine (fun (hff : ∀ c, Keeps a (ff c)) => ?_) (fun c => ?_); clear_value ff; rotate_left; simp only [ff])
    | (extract_lets +onlyGivenNames x; refine (fun (hx : Keeps a x) => ?_) ?_; clear_value x; rotate_left; simp only [x])
    | (extract_lets +onlyGivenNames x; refine (fun (hx : Keeps a x) => ?_) ?_; rotate_left; simp only [x])
    | extract_lets +onlyGivenNames x
    | split
    | (simp only [keeps_mk]; refine KeepsMk.same rfl ?_ rfl rfl rfl rfl rfl rfl rfl rfl rfl rfl rfl)

end Sys2Proof.Machine
end

