-- ==== Sys2Proof/Laws/KeepRegisters.lean ====
section
/-! SUPPORT. What the operations of Machine/Registers.lean keep, one lemma for each. -/

namespace Sys2Proof.Machine

set_option linter.unusedTactic false
set_option linter.unreachableTactic false
set_option linter.unusedVariables false
set_option linter.unusedSimpArgs false

/-- What `State.clearRc` keeps. -/
theorem State.clearRc_keeps {a s : State} (h : Keeps a s) (host : Bool) (b : Block) (ofs : Nat) :
    Keeps a (State.clearRc s host b ofs) := by
  unfold State.clearRc
  repeat'
    first
    | with_reducible assumption
    | with_reducible refine State.setPart_keeps ?_ _ _
    | with_reducible refine State.setCore_keeps ?_ _ _
    | with_reducible refine State.setCluster_keeps ?_ _ _
    | with_reducible refine State.setChan_keeps ?_ _ _
    | (extract_lets +onlyGivenNames x; refine (fun (hx : Keeps a x) => ?_) ?_; clear_value x; rotate_left; simp only [x])
    | (extract_lets +onlyGivenNames x; refine (fun (hx : Keeps a x) => ?_) ?_; rotate_left; simp only [x])
    | (extract_lets +onlyGivenNames x; clear_value x)
    | extract_lets +onlyGivenNames x
    | split
    | (simp only [keeps_mk]; refine KeepsMk.same rfl ?_ rfl rfl rfl rfl rfl rfl rfl rfl rfl rfl rfl)

/-- What `State.writePwr` keeps. -/
theorem State.writePwr_keeps {a s : State} (h : Keeps a s) (spine : Bool) (ofs : Nat) (v : BitVec 32) :
    Keeps a (State.writePwr s spine ofs v) := by
  unfold State.writePwr
  repeat'
    first
    | with_reducible assumption
    | with_reducible refine State.thermWarn_keeps ?_
    | (extract_lets +onlyGivenNames x; refine (fun (hx : Keeps a x) => ?_) ?_; clear_value x; rotate_left; simp only [x])
    | (extract_lets +onlyGivenNames x; refine (fun (hx : Keeps a x) => ?_) ?_; rotate_left; simp only [x])
    | (extract_lets +onlyGivenNames x; clear_value x)
    | extract_lets +onlyGivenNames x
    | split
    | (simp only [keeps_mk]; refine KeepsMk.same rfl ?_ rfl rfl rfl rfl rfl rfl rfl rfl rfl rfl rfl)

/-- What `State.writeWord` keeps. -/
theorem State.writeWord_keeps {a s : State} (h : Keeps a s) (spine : Bool) (b : Block) (ofs : Nat) (v : BitVec 32) :
    Keeps a (State.writeWord s spine b ofs v) := by
  unfold State.writeWord
  repeat'
    first
    | with_reducible assumption
    | with_reducible refine State.setCore_keeps ?_ _ _
    | with_reducible refine State.writePwr_keeps ?_ _ _ _
    | with_reducible refine State.setChan_keeps ?_ _ _
    | with_reducible exact hff _
    | (extract_lets +onlyGivenNames ff; refine (fun (hff : ∀ c, Keeps a (ff c)) => ?_) (fun c => ?_); clear_value ff; rotate_left; simp only [ff])
    | (extract_lets +onlyGivenNames x; refine (fun (hx : Keeps a x) => ?_) ?_; clear_value x; rotate_left; simp only [x])
    | (extract_lets +onlyGivenNames x; refine (fun (hx : Keeps a x) => ?_) ?_; rotate_left; simp only [x])
    | extract_lets +onlyGivenNames x
    | split
    | (simp only [keeps_mk]; refine KeepsMk.same rfl ?_ rfl rfl rfl rfl rfl rfl rfl rfl rfl rfl rfl)

/-- What `State.serveReg` keeps. -/
theorem State.serveReg_keeps {a0 s : State} (h : Keeps a0 s) (a : Nat) (data : List Byte) :
    Keeps a0 (State.serveReg s a data) := by
  unfold State.serveReg
  repeat'
    first
    | with_reducible assumption
    | with_reducible refine State.emit_keeps ?_ _
    | with_reducible refine State.clearRc_keeps ?_ _ _ _
    | with_reducible refine State.writeWord_keeps ?_ _ _ _ _
    | (extract_lets +onlyGivenNames x; refine (fun (hx : Keeps a0 x) => ?_) ?_; clear_value x; rotate_left; simp only [x])
    | (extract_lets +onlyGivenNames x; refine (fun (hx : Keeps a0 x) => ?_) ?_; rotate_left; simp only [x])
    | (extract_lets +onlyGivenNames x; clear_value x)
    | extract_lets +onlyGivenNames x
    | split
    | (simp only [keeps_mk]; refine KeepsMk.same rfl ?_ rfl rfl rfl rfl rfl rfl rfl rfl rfl rfl rfl)

/-- What `State.bar4Access` keeps. -/
theorem State.bar4Access_keeps {a0 s : State} (h : Keeps a0 s) (a : Nat) (data : List Byte) :
    Keeps a0 (State.bar4Access s a data) := by
  unfold State.bar4Access
  repeat'
    first
    | with_reducible assumption
    | with_reducible refine State.emit_keeps ?_ _
    | with_reducible refine State.serveReg_keeps ?_ _ _
    | with_reducible refine State.wake_keeps ?_ _
    | with_reducible exact hff _
    | (extract_lets +onlyGivenNames ff; refine (fun (hff : ∀ c, Keeps a0 (ff c)) => ?_) (fun c => ?_); clear_value ff; rotate_left; simp only [ff])
    | (extract_lets +onlyGivenNames x; refine (fun (hx : Keeps a0 x) => ?_) ?_; clear_value x; rotate_left; simp only [x])
    | (extract_lets +onlyGivenNames x; refine (fun (hx : Keeps a0 x) => ?_) ?_; rotate_left; simp only [x])
    | extract_lets +onlyGivenNames x
    | split
    | (simp only [keeps_mk]; refine KeepsMk.same rfl ?_ rfl rfl rfl rfl rfl rfl rfl rfl rfl rfl rfl)

/-- What `State.writeMsix` keeps. -/
theorem State.writeMsix_keeps {a s : State} (h : Keeps a s) (f : Nat) (i : Nat) (high : Bool) (v : BitVec 64) :
    Keeps a (State.writeMsix s f i high v) := by
  unfold State.writeMsix
  repeat'
    first
    | with_reducible assumption
    | with_reducible refine State.emit_keeps ?_ _
    | (extract_lets +onlyGivenNames x; refine (fun (hx : Keeps a x) => ?_) ?_; clear_value x; rotate_left; simp only [x])
    | (extract_lets +onlyGivenNames x; refine (fun (hx : Keeps a x) => ?_) ?_; rotate_left; simp only [x])
    | (extract_lets +onlyGivenNames x; clear_value x)
    | extract_lets +onlyGivenNames x
    | split
    | (simp only [keeps_mk]; refine KeepsMk.same rfl ?_ rfl rfl rfl rfl rfl rfl rfl rfl rfl rfl rfl)

/-- What `State.releaseHeld` keeps. -/
theorem State.releaseHeld_keeps {a s : State} (h : Keeps a s) (d : Nat) (ok : Bool) :
    Keeps a (State.releaseHeld s d ok) := by
  unfold State.releaseHeld
  repeat'
    first
    | with_reducible assumption
    | with_reducible refine Keeps.fold ?_ _ (fun _ _ _ => ?_) _
    | with_reducible refine State.failHeld_keeps ?_ _ _
    | with_reducible refine State.serveReg_keeps ?_ _ _
    | with_reducible refine State.serveRead_keeps ?_ _ _ _
    | with_reducible refine State.serveWrite_keeps ?_ _ _ _
    | (extract_lets +onlyGivenNames x; refine (fun (hx : Keeps a x) => ?_) ?_; clear_value x; rotate_left; simp only [x])
    | (extract_lets +onlyGivenNames x; refine (fun (hx : Keeps a x) => ?_) ?_; rotate_left; simp only [x])
    | (extract_lets +onlyGivenNames x; clear_value x)
    | extract_lets +onlyGivenNames x
    | split
    | (simp only [keeps_mk]; refine KeepsMk.same rfl ?_ rfl rfl rfl rfl rfl rfl rfl rfl rfl rfl rfl)

/-- What `State.clearPage` keeps. -/
theorem State.clearPage_keeps {a0 s : State} (h0 : Keeps a0 s) (f : Nat) (ofs : Nat) :
    Keeps a0 (State.clearPage s f ofs) := by
  unfold State.clearPage
  repeat'
    first
    | with_reducible assumption
    | with_reducible refine Keeps.of_eq (by assumption) ?_
    | with_reducible refine State.setRes_keeps ?_ _ _
    | (extract_lets +onlyGivenNames x; refine (fun (hx : Keeps a0 x) => ?_) ?_; clear_value x; rotate_left; simp only [x])
    | (extract_lets +onlyGivenNames x; refine (fun (hx : Keeps a0 x) => ?_) ?_; rotate_left; simp only [x])
    | (extract_lets +onlyGivenNames x; refine (fun (hx : Keeps a0 x.1) => ?_) ?_; clear_value x; rotate_left; simp only [x])
    | (extract_lets +onlyGivenNames x; refine (fun (hx : Keeps a0 x.1) => ?_) ?_; rotate_left; simp only [x])
    | (extract_lets +onlyGivenNames x; clear_value x)
    | extract_lets +onlyGivenNames x
    | split
    | dsimp only
    | (simp only [keeps_mk]; refine KeepsMk.same rfl ?_ rfl rfl rfl rfl rfl rfl rfl rfl rfl rfl rfl)

/-- What `State.readWord` keeps. -/
theorem State.readWord_keeps {a0 s : State} (h0 : Keeps a0 s) (f : Nat) (word : Nat) :
    Keeps a0 (State.readWord s f word) := by
  unfold State.readWord
  repeat'
    first
    | with_reducible assumption
    | with_reducible refine Keeps.of_eq (by assumption) ?_
    | with_reducible refine State.emit_keeps ?_ _
    | (extract_lets +onlyGivenNames x; refine (fun (hx : Keeps a0 x) => ?_) ?_; clear_value x; rotate_left; simp only [x])
    | (extract_lets +onlyGivenNames x; refine (fun (hx : Keeps a0 x) => ?_) ?_; rotate_left; simp only [x])
    | (extract_lets +onlyGivenNames x; refine (fun (hx : Keeps a0 x.1) => ?_) ?_; clear_value x; rotate_left; simp only [x])
    | (extract_lets +onlyGivenNames x; refine (fun (hx : Keeps a0 x.1) => ?_) ?_; rotate_left; simp only [x])
    | (extract_lets +onlyGivenNames x; clear_value x)
    | extract_lets +onlyGivenNames x
    | split
    | dsimp only
    | (simp only [keeps_mk]; refine KeepsMk.same rfl ?_ rfl rfl rfl rfl rfl rfl rfl rfl rfl rfl rfl)

end Sys2Proof.Machine
end

