-- ==== Sys2Proof/Laws/KeepMgmtCmd.lean ====
section
/-! SUPPORT. What the operations of Machine/MgmtCmd.lean keep, one lemma for each. -/

namespace Sys2Proof.Machine

set_option linter.unusedTactic false
set_option linter.unreachableTactic false
set_option linter.unusedVariables false
set_option linter.unusedSimpArgs false

/-- What `State.askOp` keeps. -/
theorem State.askOp_keeps {a s : State} (h : Keeps a s) (op : Nat) (act : Option (Nat × Nat)) (req : MgmtReq) :
    Keeps a (State.askOp s op act req) := by
  unfold State.askOp
  repeat'
    first
    | with_reducible assumption
    | with_reducible refine State.settle_keeps ?_
    | with_reducible refine State.mailboxGo_keeps ?_ _ _
    | with_reducible refine State.tlp_keeps ?_
    | with_reducible refine State.sidebandGo_keeps ?_ _
    | with_reducible refine State.runUndefined_keeps ?_ _
    | with_reducible refine State.runPacket_keeps ?_ _ _ _
    | (extract_lets +onlyGivenNames x; refine (fun (hx : Keeps a x) => ?_) ?_; clear_value x; rotate_left; simp only [x])
    | (extract_lets +onlyGivenNames x; refine (fun (hx : Keeps a x) => ?_) ?_; rotate_left; simp only [x])
    | (extract_lets +onlyGivenNames x; clear_value x)
    | extract_lets +onlyGivenNames x
    | split
    | (simp only [keeps_mk]; refine KeepsMk.same rfl ?_ rfl rfl rfl rfl rfl rfl rfl rfl rfl rfl rfl)

/-- What `State.sbCommand` keeps. -/
theorem State.sbCommand_keeps {a s : State} (h : Keeps a s) (pecOk : Bool) (effect : State) (he : Keeps a effect) :
    Keeps a (State.sbCommand s pecOk effect) := by
  unfold State.sbCommand
  repeat' split
  · exact h
  · exact he
  · exact State.emit_keeps h _

/-- What `State.sbParam` keeps. -/
theorem State.sbParam_keeps {a s : State} (h : Keeps a s) (high : Bool) (data : List Byte) :
    Keeps a (State.sbParam s high data) := by
  unfold State.sbParam
  repeat'
    first
    | with_reducible assumption
    | (extract_lets +onlyGivenNames x; refine (fun (hx : Keeps a x) => ?_) ?_; clear_value x; rotate_left; simp only [x])
    | (extract_lets +onlyGivenNames x; refine (fun (hx : Keeps a x) => ?_) ?_; rotate_left; simp only [x])
    | (extract_lets +onlyGivenNames x; have _g : Mgt := x)
    | (extract_lets +onlyGivenNames x; clear_value x)
    | extract_lets +onlyGivenNames x
    | split
    | (simp only [keeps_mk]; refine KeepsMk.same rfl ?_ rfl rfl rfl rfl rfl rfl rfl rfl rfl rfl rfl)

end Sys2Proof.Machine
end

