-- ==== Sys2Proof/Laws/KeepBringup.lean ====
section
/-! SUPPORT. What the operations of Machine/Bringup.lean keep, one lemma for each. -/

namespace Sys2Proof.Machine

set_option linter.unusedTactic false
set_option linter.unreachableTactic false
set_option linter.unusedVariables false
set_option linter.unusedSimpArgs false

/-- What `State.powerFall` keeps. -/
theorem State.powerFall_keeps {a s : State} (h : Keeps a s) :
    Keeps a (State.powerFall s) :=
  h.trans ⟨rfl, ⟨[], by simp [State.powerFall]⟩, rfl, fun _ h => h, fun h => ⟨Nat.le_refl _, h⟩, id, rfl, rfl,
    fun h => ⟨h, Nat.le_refl _⟩, fun _ => rfl⟩

/-- What `State.caskArrives` keeps. -/
theorem State.caskArrives_keeps {a s : State} (h : Keeps a s) (m : CaskMedia) :
    Keeps a (State.caskArrives s m) := by
  unfold State.caskArrives
  repeat'
    first
    | with_reducible assumption
    | with_reducible refine State.caskLifeUpdate_keeps ?_
    | (extract_lets +onlyGivenNames x; refine (fun (hx : Keeps a x) => ?_) ?_; clear_value x; rotate_left; simp only [x])
    | (extract_lets +onlyGivenNames x; refine (fun (hx : Keeps a x) => ?_) ?_; rotate_left; simp only [x])
    | (extract_lets +onlyGivenNames x; have _g : Mgt := x)
    | (extract_lets +onlyGivenNames x; clear_value x)
    | extract_lets +onlyGivenNames x
    | split
    | (simp only [keeps_mk]; refine KeepsMk.same rfl ?_ rfl rfl rfl rfl rfl rfl rfl rfl rfl rfl rfl)

/-- What `State.logFenced` keeps. -/
theorem State.logFenced_keeps {a s : State} (h : Keeps a s) (c : Nat) :
    Keeps a (State.logFenced s c) := by
  unfold State.logFenced
  repeat'
    first
    | with_reducible assumption
    | with_reducible refine State.log_keeps ?_ _ _ _ _ _

/-- What `State.bootChannels` keeps. -/
theorem State.bootChannels_keeps {a s : State} (h : Keeps a s) :
    Keeps a (State.bootChannels s) := by
  unfold State.bootChannels
  repeat'
    first
    | with_reducible assumption
    | with_reducible refine Keeps.fold ?_ _ (fun _ _ _ => ?_) _
    | with_reducible refine State.setChan_keeps ?_ _ _
    | split

/-- What `State.logBoard` keeps. -/
theorem State.logBoard_keeps {a s : State} (h : Keeps a s) :
    Keeps a (State.logBoard s) := by
  unfold State.logBoard
  repeat'
    first
    | with_reducible assumption
    | with_reducible refine Keeps.fold ?_ _ (fun _ _ _ => ?_) _
    | with_reducible refine State.logFenced_keeps ?_ _
    | split

/-- What `State.powerBoot` keeps. -/
theorem State.powerBoot_keeps {a s : State} (h : Keeps a s) (st : Straps) :
    Keeps a (State.powerBoot s st) := by
  unfold State.powerBoot
  repeat'
    first
    | with_reducible assumption
    | with_reducible refine State.bootMp_keeps ?_
    | with_reducible refine State.log_keeps ?_ _ _ _ _ _
    | (extract_lets +onlyGivenNames x; refine (fun (hx : Keeps a x) => ?_) ?_; clear_value x; rotate_left; simp only [x])
    | (extract_lets +onlyGivenNames x; refine (fun (hx : Keeps a x) => ?_) ?_; rotate_left; simp only [x])
    | (extract_lets +onlyGivenNames x; have _g : Mgt := x)
    | (extract_lets +onlyGivenNames x; have _g : Dev := x)
    | (extract_lets +onlyGivenNames x; clear_value x)
    | extract_lets +onlyGivenNames x
    | split
    | (simp only [keeps_mk]; refine KeepsMk.same rfl ?_ rfl rfl rfl rfl rfl rfl rfl rfl rfl rfl rfl)

/-- What `State.powerCask` keeps. -/
theorem State.powerCask_keeps {a s : State} (h : Keeps a s) (absent : Bool) :
    Keeps a (State.powerCask s absent) := by
  unfold State.powerCask
  repeat'
    first
    | with_reducible assumption
    | with_reducible refine State.caskArrives_keeps ?_ _
    | (extract_lets +onlyGivenNames x; refine (fun (hx : Keeps a x) => ?_) ?_; clear_value x; rotate_left; simp only [x])
    | (extract_lets +onlyGivenNames x; refine (fun (hx : Keeps a x) => ?_) ?_; rotate_left; simp only [x])
    | (extract_lets +onlyGivenNames x; have _g : Mgt := x)
    | (extract_lets +onlyGivenNames x; clear_value x)
    | extract_lets +onlyGivenNames x
    | split
    | (simp only [keeps_mk]; refine KeepsMk.same rfl ?_ rfl rfl rfl rfl rfl rfl rfl rfl rfl rfl rfl)

/-- What `State.powerHi` keeps. -/
theorem State.powerHi_keeps {a0 s : State} (h0 : Keeps a0 s) (perstN : Bool) :
    Keeps a0 (State.powerHi s perstN) := by
  unfold State.powerHi
  repeat'
    first
    | with_reducible assumption
    | with_reducible refine Keeps.of_eq (by assumption) ?_
    | (extract_lets +onlyGivenNames x; refine (fun (hx : Keeps a0 x) => ?_) ?_; clear_value x; rotate_left; simp only [x])
    | (extract_lets +onlyGivenNames x; refine (fun (hx : Keeps a0 x) => ?_) ?_; rotate_left; simp only [x])
    | (extract_lets +onlyGivenNames x; refine (fun (hx : Keeps a0 x.1) => ?_) ?_; clear_value x; rotate_left; simp only [x])
    | (extract_lets +onlyGivenNames x; refine (fun (hx : Keeps a0 x.1) => ?_) ?_; rotate_left; simp only [x])
    | (extract_lets +onlyGivenNames x; have _g : Dev := x)
    | (extract_lets +onlyGivenNames x; clear_value x)
    | extract_lets +onlyGivenNames x
    | split
    | dsimp only
    | (simp only [keeps_mk]; refine KeepsMk.same rfl ?_ rfl rfl rfl rfl rfl rfl rfl rfl rfl rfl rfl)

/-- What `State.powerUp` keeps. -/
theorem State.powerUp_keeps {a s : State} (h : Keeps a s) (st : Straps) :
    Keeps a (State.powerUp s st) := by
  unfold State.powerUp
  repeat'
    first
    | with_reducible assumption
    | with_reducible refine Keeps.fold ?_ _ (fun _ _ _ => ?_) _
    | with_reducible refine State.powerHi_keeps ?_ _
    | with_reducible refine State.powerCask_keeps ?_ _
    | with_reducible refine State.powerBoot_keeps ?_ _
    | with_reducible refine State.wake_keeps ?_ _
    | with_reducible refine State.logBoard_keeps ?_
    | with_reducible refine State.bootChannels_keeps ?_
    | (extract_lets +onlyGivenNames x; refine (fun (hx : Keeps a x) => ?_) ?_; clear_value x; rotate_left; simp only [x])
    | (extract_lets +onlyGivenNames x; refine (fun (hx : Keeps a x) => ?_) ?_; rotate_left; simp only [x])
    | (extract_lets +onlyGivenNames x; clear_value x)
    | extract_lets +onlyGivenNames x
    | split

/-- What `State.trainingEnd` keeps. -/
theorem State.trainingEnd_keeps {a s : State} (h : Keeps a s) :
    Keeps a (State.trainingEnd s) := by
  unfold State.trainingEnd
  repeat'
    first
    | with_reducible assumption
    | with_reducible refine State.setInterleave_keeps ?_
    | with_reducible refine State.tryReady_keeps ?_
    | with_reducible refine State.loseTables_keeps ?_
    | with_reducible refine State.rehouse_keeps ?_
    | with_reducible refine State.scrub_keeps ?_ _ _
    | (extract_lets +onlyGivenNames x; refine (fun (hx : Keeps a x) => ?_) ?_; clear_value x; rotate_left; simp only [x])
    | (extract_lets +onlyGivenNames x; refine (fun (hx : Keeps a x) => ?_) ?_; rotate_left; simp only [x])
    | (extract_lets +onlyGivenNames x; have _g : Dev := x)
    | (extract_lets +onlyGivenNames x; clear_value x)
    | extract_lets +onlyGivenNames x
    | split
    | (simp only [keeps_mk]; refine KeepsMk.same rfl ?_ rfl rfl rfl rfl rfl rfl rfl rfl rfl rfl rfl)

/-- What `State.fenceChannel` keeps. -/
theorem State.fenceChannel_keeps {a s : State} (h : Keeps a s) (c : Nat) :
    Keeps a (State.fenceChannel s c) := by
  unfold State.fenceChannel
  repeat'
    first
    | with_reducible assumption
    | with_reducible refine State.logFenced_keeps ?_ _
    | with_reducible refine State.setChan_keeps ?_ _ _
    | (extract_lets +onlyGivenNames x; refine (fun (hx : Keeps a x) => ?_) ?_; clear_value x; rotate_left; simp only [x])
    | (extract_lets +onlyGivenNames x; refine (fun (hx : Keeps a x) => ?_) ?_; rotate_left; simp only [x])
    | (extract_lets +onlyGivenNames x; clear_value x)
    | extract_lets +onlyGivenNames x
    | split
    | (simp only [keeps_mk]; refine KeepsMk.same rfl ?_ rfl rfl rfl rfl rfl rfl rfl rfl rfl rfl rfl)

/-- What `State.tastedCounts` keeps. -/
theorem State.tastedCounts_keeps {a s : State} (h : Keeps a s) :
    Keeps a (State.tastedCounts s) := by
  unfold State.tastedCounts
  repeat'
    first
    | with_reducible assumption
    | (extract_lets +onlyGivenNames x; refine (fun (hx : Keeps a x) => ?_) ?_; clear_value x; rotate_left; simp only [x])
    | (extract_lets +onlyGivenNames x; refine (fun (hx : Keeps a x) => ?_) ?_; rotate_left; simp only [x])
    | (extract_lets +onlyGivenNames x; have _g : Dev := x)
    | (extract_lets +onlyGivenNames x; clear_value x)
    | extract_lets +onlyGivenNames x
    | split
    | (simp only [keeps_mk]; refine KeepsMk.same rfl ?_ rfl rfl rfl rfl rfl rfl rfl rfl rfl rfl rfl)

/-- What `State.logOnce` keeps. -/
theorem State.logOnce_keeps {a s : State} (h : Keeps a s) (failures : List TestFailure) :
    Keeps a (State.logOnce s failures) := by
  unfold State.logOnce
  repeat'
    first
    | with_reducible assumption
    | with_reducible refine Keeps.fold ?_ _ (fun _ _ _ => ?_) _
    | with_reducible refine State.log_keeps ?_ _ _ _ _ _
    | split

/-- What `State.addDefects` keeps. -/
theorem defectAdd_mem (l : List (Nat × Nat × Nat × Nat × Nat × Nat)) (d e : Nat × Nat × Nat × Nat × Nat × Nat) (h : e ∈ l) :
    e ∈ defectAdd l d := by
  unfold defectAdd
  split
  · exact h
  · rw [← List.takeWhile_append_dropWhile (p := fun x => decide (defectKey x < defectKey d)) (l := l)] at h
    rcases List.mem_append.mp h with h | h
    · exact List.mem_append_left _ h
    · exact List.mem_append_right _ (List.mem_cons_of_mem _ h)

/-- What appending defect-list entries keeps. -/
theorem State.addDefects_keeps {a s : State} (h : Keeps a s) (es : List (Nat × Nat × Nat × Nat × Nat × Nat)) :
    Keeps a (State.addDefects s es) := by
  refine h.trans ⟨rfl, ⟨[], by simp [State.addDefects]⟩, rfl, fun e he => ?_, fun h => ⟨Nat.le_refl _, h⟩, id, rfl, rfl, fun h => ⟨Nat.le_refl _, h⟩, id⟩
  show e ∈ es.foldl defectAdd s.dev.defects
  generalize s.dev.defects = l at he
  induction es generalizing l with
  | nil => exact he
  | cons d t ih => exact ih _ (defectAdd_mem l d e he)

/-- What `State.showDegraded` keeps. -/
theorem State.showDegraded_keeps {a s : State} (h : Keeps a s) :
    Keeps a (State.showDegraded s) := by
  unfold State.showDegraded
  repeat'
    first
    | with_reducible assumption
    | (extract_lets +onlyGivenNames x; refine (fun (hx : Keeps a x) => ?_) ?_; clear_value x; rotate_left; simp only [x])
    | (extract_lets +onlyGivenNames x; refine (fun (hx : Keeps a x) => ?_) ?_; rotate_left; simp only [x])
    | (extract_lets +onlyGivenNames x; have _g : Dev := x)
    | (extract_lets +onlyGivenNames x; clear_value x)
    | extract_lets +onlyGivenNames x
    | (simp only [keeps_mk]; refine KeepsMk.same rfl ?_ rfl rfl rfl rfl rfl rfl rfl rfl rfl rfl rfl)

/-- What `State.taste` keeps. -/
theorem State.taste_keeps {a s : State} (h : Keeps a s) (failures : List TestFailure) :
    Keeps a (State.taste s failures) := by
  unfold State.taste
  repeat'
    first
    | with_reducible assumption
    | with_reducible refine State.logOnce_keeps ?_ _
    | with_reducible refine State.tastedCounts_keeps ?_
    | with_reducible refine State.showDegraded_keeps ?_
    | with_reducible refine State.syncUp_keeps ?_
    | with_reducible refine State.unitsServing_keeps ?_
    | with_reducible refine State.addDefects_keeps ?_ _
    | (extract_lets +onlyGivenNames x; refine (fun (hx : Keeps a x) => ?_) ?_; clear_value x; rotate_left; simp only [x])
    | (extract_lets +onlyGivenNames x; refine (fun (hx : Keeps a x) => ?_) ?_; rotate_left; simp only [x])
    | (extract_lets +onlyGivenNames x; clear_value x)
    | extract_lets +onlyGivenNames x

/-- What `State.setReceiver` keeps. -/
theorem State.setReceiver_keeps {a s : State} (h : Keeps a s) (r : Nat) (f : Receiver → Receiver) :
    Keeps a (State.setReceiver s r f) := by
  unfold State.setReceiver
  repeat'
    first
    | with_reducible assumption
    | (extract_lets +onlyGivenNames x; refine (fun (hx : Keeps a x) => ?_) ?_; clear_value x; rotate_left; simp only [x])
    | (extract_lets +onlyGivenNames x; refine (fun (hx : Keeps a x) => ?_) ?_; rotate_left; simp only [x])
    | (extract_lets +onlyGivenNames x; have _g : Mgt := x)
    | (extract_lets +onlyGivenNames x; clear_value x)
    | extract_lets +onlyGivenNames x
    | (simp only [keeps_mk]; refine KeepsMk.same rfl ?_ rfl rfl rfl rfl rfl rfl rfl rfl rfl rfl rfl)

/-- What `State.broadcast` keeps. -/
theorem State.broadcast_keeps {a s : State} (h : Keeps a s) (rs : List Nat) (comp : Nat) :
    Keeps a (State.broadcast s rs comp) := by
  unfold State.broadcast
  repeat'
    first
    | with_reducible assumption
    | with_reducible refine Keeps.fold ?_ _ (fun _ _ _ => ?_) _
    | with_reducible refine State.emit_keeps ?_ _
    | (extract_lets +onlyGivenNames x; refine (fun (hx : Keeps a x) => ?_) ?_; clear_value x; rotate_left; simp only [x])
    | (extract_lets +onlyGivenNames x; refine (fun (hx : Keeps a x) => ?_) ?_; rotate_left; simp only [x])
    | (extract_lets +onlyGivenNames x; clear_value x)
    | extract_lets +onlyGivenNames x
    | split

/-- What `State.receiverRuns` keeps. -/
theorem State.receiverRuns_keeps {a s : State} (h : Keeps a s) (r : Nat) :
    Keeps a (State.receiverRuns s r) := by
  unfold State.receiverRuns
  repeat'
    first
    | with_reducible assumption
    | with_reducible refine State.setReceiver_keeps ?_ _ _
    | with_reducible refine State.syncUp_keeps ?_
    | (extract_lets +onlyGivenNames x; refine (fun (hx : Keeps a x) => ?_) ?_; clear_value x; rotate_left; simp only [x])
    | (extract_lets +onlyGivenNames x; refine (fun (hx : Keeps a x) => ?_) ?_; rotate_left; simp only [x])
    | (extract_lets +onlyGivenNames x; have _g : Mgt := x)
    | (extract_lets +onlyGivenNames x; clear_value x)
    | extract_lets +onlyGivenNames x
    | split
    | (simp only [keeps_mk]; refine KeepsMk.same rfl ?_ rfl rfl rfl rfl rfl rfl rfl rfl rfl rfl rfl)

/-- What `State.receiverUp` keeps. -/
theorem State.receiverUp_keeps {a s : State} (h : Keeps a s) (r : Nat) :
    Keeps a (State.receiverUp s r) := by
  unfold State.receiverUp
  repeat'
    first
    | with_reducible assumption
    | with_reducible refine State.receiverRuns_keeps ?_ _
    | with_reducible refine State.recount_keeps ?_
    | with_reducible refine State.returnCore_keeps ?_ _
    | (extract_lets +onlyGivenNames x; refine (fun (hx : Keeps a x) => ?_) ?_; clear_value x; rotate_left; simp only [x])
    | (extract_lets +onlyGivenNames x; refine (fun (hx : Keeps a x) => ?_) ?_; rotate_left; simp only [x])
    | (extract_lets +onlyGivenNames x; clear_value x)
    | extract_lets +onlyGivenNames x
    | split

/-- What `State.mpRestarts` keeps. -/
theorem State.mpRestarts_keeps {a s : State} (h : Keeps a s) :
    Keeps a (State.mpRestarts s) := by
  unfold State.mpRestarts
  repeat'
    first
    | with_reducible assumption
    | with_reducible refine State.abortOps_keeps ?_
    | with_reducible refine State.mpBack_keeps ?_
    | with_reducible refine State.bootMp_keeps ?_
    | with_reducible refine State.settle_keeps ?_
    | with_reducible refine State.restartMp_keeps ?_
    | (extract_lets +onlyGivenNames x; refine (fun (hx : Keeps a x) => ?_) ?_; clear_value x; rotate_left; simp only [x])
    | (extract_lets +onlyGivenNames x; refine (fun (hx : Keeps a x) => ?_) ?_; rotate_left; simp only [x])
    | (extract_lets +onlyGivenNames x; have _g : Mgt := x)
    | (extract_lets +onlyGivenNames x; clear_value x)
    | extract_lets +onlyGivenNames x
    | split
    | (simp only [keeps_mk]; refine KeepsMk.same rfl ?_ rfl rfl rfl rfl rfl rfl rfl rfl rfl rfl rfl)

end Sys2Proof.Machine
end

