-- ==== Sys2Proof/Laws/KeepDram.lean ====
section
/-! SUPPORT. What the operations of Machine/Dram.lean keep, one lemma for each. -/

namespace Sys2Proof.Machine

set_option linter.unusedTactic false
set_option linter.unreachableTactic false
set_option linter.unusedVariables false
set_option linter.unusedSimpArgs false

/-- What `State.touchRank` keeps. -/
theorem State.touchRank_keeps {a0 s : State} (h : Keeps a0 s) (a : Nat) :
    Keeps a0 (State.touchRank s a) := by
  unfold State.touchRank
  repeat'
    first
    | with_reducible assumption
    | with_reducible refine State.setChan_keeps ?_ _ _
    | (extract_lets +onlyGivenNames x; refine (fun (hx : Keeps a0 x) => ?_) ?_; clear_value x; rotate_left; simp only [x])
    | (extract_lets +onlyGivenNames x; refine (fun (hx : Keeps a0 x) => ?_) ?_; rotate_left; simp only [x])
    | (extract_lets +onlyGivenNames x; refine (fun (hx : Keeps a0 x.1) => ?_) ?_; clear_value x; rotate_left; simp only [x])
    | (extract_lets +onlyGivenNames x; refine (fun (hx : Keeps a0 x.1) => ?_) ?_; rotate_left; simp only [x])
    | (extract_lets +onlyGivenNames x; clear_value x)
    | extract_lets +onlyGivenNames x
    | split
    | (simp only [keeps_mk]; refine KeepsMk.same rfl ?_ rfl rfl rfl rfl rfl rfl rfl rfl rfl rfl rfl)

/-- What `State.countUe` keeps. -/
theorem State.countUe_keeps {a s : State} (h : Keeps a s) (c : Nat) (line : Nat) :
    Keeps a (State.countUe s c line) := by
  unfold State.countUe
  repeat'
    first
    | with_reducible assumption
    | with_reducible refine State.setChan_keeps ?_ _ _
    | (extract_lets +onlyGivenNames x; refine (fun (hx : Keeps a x) => ?_) ?_; clear_value x; rotate_left; simp only [x])
    | (extract_lets +onlyGivenNames x; refine (fun (hx : Keeps a x) => ?_) ?_; rotate_left; simp only [x])
    | (extract_lets +onlyGivenNames x; clear_value x)
    | extract_lets +onlyGivenNames x
    | split
    | (simp only [keeps_mk]; refine KeepsMk.same rfl ?_ rfl rfl rfl rfl rfl rfl rfl rfl rfl rfl rfl)

/-- What `State.eccRead` keeps. -/
theorem State.eccRead_keeps {a s : State} (h : Keeps a s) (line : Nat) (ecc : EccFind) :
    Keeps a (State.eccRead s line ecc) := by
  unfold State.eccRead
  repeat'
    first
    | with_reducible assumption
    | with_reducible refine State.countUe_keeps ?_ _ _
    | with_reducible refine State.setPoison_keeps ?_ _ _
    | with_reducible refine State.setChan_keeps ?_ _ _
    | (extract_lets +onlyGivenNames x; refine (fun (hx : Keeps a x) => ?_) ?_; clear_value x; rotate_left; simp only [x])
    | (extract_lets +onlyGivenNames x; refine (fun (hx : Keeps a x) => ?_) ?_; rotate_left; simp only [x])
    | (extract_lets +onlyGivenNames x; clear_value x)
    | extract_lets +onlyGivenNames x
    | split
    | (simp only [keeps_mk]; refine KeepsMk.same rfl ?_ rfl rfl rfl rfl rfl rfl rfl rfl rfl rfl rfl)

/-- What `State.lineWrite` keeps. -/
theorem State.lineWrite_keeps {a s : State} (h : Keeps a s) (line : Nat) (data : List Byte) (poison : Bool) :
    Keeps a (State.lineWrite s line data poison) := by
  unfold State.lineWrite
  repeat'
    first
    | with_reducible assumption
    | with_reducible refine State.writeRaw_keeps ?_ _ _
    | with_reducible refine State.setPoison_keeps ?_ _ _
    | (extract_lets +onlyGivenNames x; refine (fun (hx : Keeps a x) => ?_) ?_; clear_value x; rotate_left; simp only [x])
    | (extract_lets +onlyGivenNames x; refine (fun (hx : Keeps a x) => ?_) ?_; rotate_left; simp only [x])
    | (extract_lets +onlyGivenNames x; clear_value x)
    | extract_lets +onlyGivenNames x
    | split

/-- What `State.serveReq` keeps. -/
theorem State.serveReq_keeps {a s : State} (h : Keeps a s) (r : MemReq) :
    Keeps a (State.serveReq s r) := by
  unfold State.serveReq
  repeat'
    first
    | with_reducible assumption
    | with_reducible refine State.touchRank_keeps ?_ _
    | with_reducible refine State.eccRead_keeps ?_ _ _
    | with_reducible refine State.lineWrite_keeps ?_ _ _ _
    | (extract_lets +onlyGivenNames x; refine (fun (hx : Keeps a x) => ?_) ?_; clear_value x; rotate_left; simp only [x])
    | (extract_lets +onlyGivenNames x; refine (fun (hx : Keeps a x) => ?_) ?_; rotate_left; simp only [x])
    | (extract_lets +onlyGivenNames x; clear_value x)
    | extract_lets +onlyGivenNames x
    | split
    | (simp only [keeps_mk]; refine KeepsMk.same rfl ?_ rfl rfl rfl rfl rfl rfl rfl rfl rfl rfl rfl)

/-- What `State.memRequest` keeps. -/
theorem State.memRequest_keeps {a0 s : State} (h0 : Keeps a0 s) (r : MemReq) (rackOut : Bool) :
    Keeps a0 (State.memRequest s r rackOut) := by
  unfold State.memRequest
  repeat'
    first
    | with_reducible assumption
    | with_reducible refine Keeps.of_eq (by assumption) ?_
    | with_reducible refine State.emit_keeps ?_ _
    | with_reducible refine State.setChan_keeps ?_ _ _
    | with_reducible refine State.rackOut_keeps ?_ _ _ _
    | with_reducible refine State.wake_keeps ?_ _
    | with_reducible refine State.serveReq_keeps ?_ _
    | (extract_lets +onlyGivenNames x; refine (fun (hx : Keeps a0 x) => ?_) ?_; clear_value x; rotate_left; simp only [x])
    | (extract_lets +onlyGivenNames x; refine (fun (hx : Keeps a0 x) => ?_) ?_; rotate_left; simp only [x])
    | (extract_lets +onlyGivenNames x; refine (fun (hx : Keeps a0 x.1) => ?_) ?_; clear_value x; rotate_left; simp only [x])
    | (extract_lets +onlyGivenNames x; refine (fun (hx : Keeps a0 x.1) => ?_) ?_; rotate_left; simp only [x])
    | (extract_lets +onlyGivenNames x; clear_value x)
    | extract_lets +onlyGivenNames x
    | split
    | dsimp only
    | (simp only [keeps_mk]; refine KeepsMk.same rfl ?_ rfl rfl rfl rfl rfl rfl rfl rfl rfl rfl rfl)

/-- What `State.patrolNext` keeps. -/
theorem State.patrolNext_keeps {a0 s : State} (h : Keeps a0 s) (a : Nat) :
    Keeps a0 (State.patrolNext s a) := by
  unfold State.patrolNext
  repeat'
    first
    | with_reducible assumption
    | (extract_lets +onlyGivenNames x; refine (fun (hx : Keeps a0 x) => ?_) ?_; clear_value x; rotate_left; simp only [x])
    | (extract_lets +onlyGivenNames x; refine (fun (hx : Keeps a0 x) => ?_) ?_; rotate_left; simp only [x])
    | (extract_lets +onlyGivenNames x; clear_value x)
    | extract_lets +onlyGivenNames x
    | (simp only [keeps_mk]; refine KeepsMk.same rfl ?_ rfl rfl rfl rfl rfl rfl rfl rfl rfl rfl rfl)

/-- What `State.patrolRead` keeps. -/
theorem State.patrolRead_keeps {a0 s : State} (h : Keeps a0 s) (a : Nat) (ecc : EccFind) :
    Keeps a0 (State.patrolRead s a ecc) := by
  unfold State.patrolRead
  repeat'
    first
    | with_reducible assumption
    | with_reducible refine State.eccRead_keeps ?_ _ _
    | with_reducible refine State.touchRank_keeps ?_ _
    | with_reducible refine State.log_keeps ?_ _ _ _ _ _
    | (extract_lets +onlyGivenNames x; refine (fun (hx : Keeps a0 x) => ?_) ?_; clear_value x; rotate_left; simp only [x])
    | (extract_lets +onlyGivenNames x; refine (fun (hx : Keeps a0 x) => ?_) ?_; rotate_left; simp only [x])
    | (extract_lets +onlyGivenNames x; clear_value x)
    | extract_lets +onlyGivenNames x
    | split

/-- What `State.loseBursts` keeps. -/
theorem State.loseBursts_keeps {a s : State} (h : Keeps a s) (c : Nat) (first : Nat) (n : Nat) :
    Keeps a (State.loseBursts s c first n) := by
  unfold State.loseBursts
  repeat'
    first
    | with_reducible assumption
    | with_reducible refine Keeps.fold ?_ _ (fun _ _ _ => ?_) _
    | with_reducible refine State.lose_keeps ?_ _ _
    | (extract_lets +onlyGivenNames x; refine (fun (hx : Keeps a x) => ?_) ?_; clear_value x; rotate_left; simp only [x])
    | (extract_lets +onlyGivenNames x; refine (fun (hx : Keeps a x) => ?_) ?_; rotate_left; simp only [x])
    | (extract_lets +onlyGivenNames x; clear_value x)
    | extract_lets +onlyGivenNames x
    | split
    | (simp only [keeps_mk]; refine KeepsMk.same rfl ?_ rfl rfl rfl rfl rfl rfl rfl rfl rfl rfl rfl)

end Sys2Proof.Machine
end

