-- ==== Sys2Proof/Laws/KeepVideo.lean ====
section
/-! SUPPORT. What the operations of Machine/Video.lean keep, one lemma for each. -/

namespace Sys2Proof.Machine

set_option linter.unusedTactic false
set_option linter.unreachableTactic false
set_option linter.unusedVariables false
set_option linter.unusedSimpArgs false

/-- What `State.releaseFeed` keeps. -/
theorem State.releaseFeed_keeps {a s : State} (h : Keeps a s) (sid : Nat) :
    Keeps a (State.releaseFeed s sid) := by
  unfold State.releaseFeed
  repeat'
    first
    | with_reducible assumption
    | with_reducible refine State.setStream_keeps ?_ _ _
    | with_reducible refine State.returnBuf_keeps ?_ _
    | (extract_lets +onlyGivenNames x; refine (fun (hx : Keeps a x) => ?_) ?_; clear_value x; rotate_left; simp only [x])
    | (extract_lets +onlyGivenNames x; refine (fun (hx : Keeps a x) => ?_) ?_; rotate_left; simp only [x])
    | (extract_lets +onlyGivenNames x; clear_value x)
    | extract_lets +onlyGivenNames x
    | split
    | (simp only [keeps_mk]; refine KeepsMk.same rfl ?_ rfl rfl rfl rfl rfl rfl rfl rfl rfl rfl rfl)

/-- What `State.releaseFeeds` keeps. -/
theorem State.releaseFeeds_keeps {a s : State} (h : Keeps a s) (sid : Nat) :
    Keeps a (State.releaseFeeds s sid) := by
  unfold State.releaseFeeds
  repeat'
    first
    | with_reducible assumption
    | with_reducible refine Keeps.fold ?_ _ (fun _ _ _ => ?_) _
    | with_reducible refine State.settle_keeps ?_
    | with_reducible refine State.releaseFeed_keeps ?_ _
    | split

/-- What `State.missSnaps` keeps. -/
theorem State.missSnaps_keeps {a s : State} (h : Keeps a s) (sid : Nat) (dec : Nat) :
    Keeps a (State.missSnaps s sid dec) := by
  unfold State.missSnaps
  repeat'
    first
    | with_reducible assumption
    | with_reducible refine State.reportSnaps_keeps ?_ _ _
    | split

/-- What `State.takePicture` keeps. -/
theorem State.takePicture_keeps {a0 s : State} (h0 : Keeps a0 s) (sid : Nat) (x : Stream) (p : ParsedPicture) (set : SeqSet) :
    Keeps a0 (State.takePicture s sid x p set) := by
  unfold State.takePicture
  repeat'
    first
    | with_reducible assumption
    | with_reducible refine Keeps.of_eq (by assumption) ?_
    | with_reducible refine State.setStream_keeps ?_ _ _
    | with_reducible refine State.missSnaps_keeps ?_ _ _
    | with_reducible refine State.hpEvent_keeps ?_ _ _ _ _ _
    | (extract_lets +onlyGivenNames x; refine (fun (hx : Keeps a0 x) => ?_) ?_; clear_value x; rotate_left; simp only [x])
    | (extract_lets +onlyGivenNames x; refine (fun (hx : Keeps a0 x) => ?_) ?_; rotate_left; simp only [x])
    | (extract_lets +onlyGivenNames x; refine (fun (hx : Keeps a0 x.1) => ?_) ?_; clear_value x; rotate_left; simp only [x])
    | (extract_lets +onlyGivenNames x; refine (fun (hx : Keeps a0 x.1) => ?_) ?_; rotate_left; simp only [x])
    | (extract_lets +onlyGivenNames x; clear_value x)
    | extract_lets +onlyGivenNames x
    | split
    | dsimp only
    | (simp only [keeps_mk]; refine KeepsMk.same rfl ?_ rfl rfl rfl rfl rfl rfl rfl rfl rfl rfl rfl)

/-- What `State.takeUnit` keeps. -/
theorem State.takeUnit_keeps {a0 s : State} (h0 : Keeps a0 s) (sid : Nat) (p : ParsedPicture) :
    Keeps a0 (State.takeUnit s sid p) := by
  unfold State.takeUnit
  repeat'
    first
    | with_reducible assumption
    | with_reducible refine Keeps.fold ?_ _ (fun _ _ _ => ?_) _
    | with_reducible refine Keeps.foldPair ?_ _ (fun _ _ _ => ?_) _
    | with_reducible refine Keeps.of_eq (by assumption) ?_
    | with_reducible refine State.setStream_keeps ?_ _ _
    | with_reducible refine State.takeHeader_keeps ?_ _ _ _
    | with_reducible refine State.takePicture_keeps ?_ _ _ _ _
    | (extract_lets +onlyGivenNames x; refine (fun (hx : Keeps a0 x) => ?_) ?_; clear_value x; rotate_left; simp only [x])
    | (extract_lets +onlyGivenNames x; refine (fun (hx : Keeps a0 x) => ?_) ?_; rotate_left; simp only [x])
    | (extract_lets +onlyGivenNames x; refine (fun (hx : Keeps a0 x.1) => ?_) ?_; clear_value x; rotate_left; simp only [x])
    | (extract_lets +onlyGivenNames x; refine (fun (hx : Keeps a0 x.1) => ?_) ?_; rotate_left; simp only [x])
    | (extract_lets +onlyGivenNames x; clear_value x)
    | extract_lets +onlyGivenNames x
    | split
    | dsimp only
    | (simp only [keeps_mk]; refine KeepsMk.same rfl ?_ rfl rfl rfl rfl rfl rfl rfl rfl rfl rfl rfl)

/-- What `State.dispatch` keeps. -/
theorem State.dispatch_keeps {a0 s : State} (h0 : Keeps a0 s) (sid : Nat) (x : Stream) (p : Pic) (engine : Nat) :
    Keeps a0 (State.dispatch s sid x p engine) := by
  unfold State.dispatch
  repeat'
    first
    | with_reducible assumption
    | with_reducible refine Keeps.fold ?_ _ (fun _ _ _ => ?_) _
    | with_reducible refine Keeps.foldPair ?_ _ (fun _ _ _ => ?_) _
    | with_reducible refine Keeps.of_eq (by assumption) ?_
    | with_reducible refine State.setCluster_keeps ?_ _ _
    | with_reducible refine State.setStream_keeps ?_ _ _
    | with_reducible refine State.setPic_keeps ?_ _ _ _
    | (extract_lets +onlyGivenNames x; refine (fun (hx : Keeps a0 x) => ?_) ?_; clear_value x; rotate_left; simp only [x])
    | (extract_lets +onlyGivenNames x; refine (fun (hx : Keeps a0 x) => ?_) ?_; rotate_left; simp only [x])
    | (extract_lets +onlyGivenNames x; refine (fun (hx : Keeps a0 x.1) => ?_) ?_; clear_value x; rotate_left; simp only [x])
    | (extract_lets +onlyGivenNames x; refine (fun (hx : Keeps a0 x.1) => ?_) ?_; rotate_left; simp only [x])
    | (extract_lets +onlyGivenNames x; clear_value x)
    | extract_lets +onlyGivenNames x
    | split
    | dsimp only
    | (simp only [keeps_mk]; refine KeepsMk.same rfl ?_ rfl rfl rfl rfl rfl rfl rfl rfl rfl rfl rfl)

/-- What `State.feedEncoders` keeps. -/
theorem State.feedEncoders_keeps {a0 s : State} (h0 : Keeps a0 s) (sid : Nat) (p : Pic) (pl : Planes) :
    Keeps a0 (State.feedEncoders s sid p pl) := by
  unfold State.feedEncoders
  repeat'
    first
    | with_reducible assumption
    | with_reducible refine Keeps.of_eq (by assumption) ?_
    | (extract_lets +onlyGivenNames x; refine (fun (hx : Keeps a0 x) => ?_) ?_; clear_value x; rotate_left; simp only [x])
    | (extract_lets +onlyGivenNames x; refine (fun (hx : Keeps a0 x) => ?_) ?_; rotate_left; simp only [x])
    | (extract_lets +onlyGivenNames x; refine (fun (hx : Keeps a0 x.1) => ?_) ?_; clear_value x; rotate_left; simp only [x])
    | (extract_lets +onlyGivenNames x; refine (fun (hx : Keeps a0 x.1) => ?_) ?_; rotate_left; simp only [x])
    | (extract_lets +onlyGivenNames x; clear_value x)
    | extract_lets +onlyGivenNames x
    | split
    | dsimp only
    | (simp only [keeps_mk]; refine KeepsMk.same rfl ?_ rfl rfl rfl rfl rfl rfl rfl rfl rfl rfl rfl)

/-- What `State.leaveEngine` keeps. -/
theorem State.leaveEngine_keeps {a0 s : State} (h0 : Keeps a0 s) (sid : Nat) (x : Stream) (p : Pic) (engine : Nat) (cycles : Nat) (causes : Nat) (units : List Nat) (planes : Planes) :
    Keeps a0 (State.leaveEngine s sid x p engine cycles causes units planes) := by
  unfold State.leaveEngine
  repeat'
    first
    | with_reducible assumption
    | with_reducible refine Keeps.of_eq (by assumption) ?_
    | with_reducible refine State.setCluster_keeps ?_ _ _
    | with_reducible refine State.chargeWork_keeps ?_ _ _ _ _
    | with_reducible refine State.busyBatch_keeps ?_ _ _ _ _
    | with_reducible refine State.feedEncoders_keeps ?_ _ _ _
    | with_reducible refine State.setPic_keeps ?_ _ _ _
    | with_reducible refine State.setStream_keeps ?_ _ _
    | with_reducible refine State.alarmUpdate_keeps ?_ _ _
    | with_reducible refine State.releaseFeeds_keeps ?_ _
    | (extract_lets +onlyGivenNames x; refine (fun (hx : Keeps a0 x) => ?_) ?_; clear_value x; rotate_left; simp only [x])
    | (extract_lets +onlyGivenNames x; refine (fun (hx : Keeps a0 x) => ?_) ?_; rotate_left; simp only [x])
    | (extract_lets +onlyGivenNames x; refine (fun (hx : Keeps a0 x.1) => ?_) ?_; clear_value x; rotate_left; simp only [x])
    | (extract_lets +onlyGivenNames x; refine (fun (hx : Keeps a0 x.1) => ?_) ?_; rotate_left; simp only [x])
    | (extract_lets +onlyGivenNames x; clear_value x)
    | extract_lets +onlyGivenNames x
    | split
    | dsimp only
    | (simp only [keeps_mk]; refine KeepsMk.same rfl ?_ rfl rfl rfl rfl rfl rfl rfl rfl rfl rfl rfl)

end Sys2Proof.Machine
end

