-- ==== Sys2Proof/Laws/KeepPrepCmd.lean ====
section
/-! SUPPORT. What the operations of Machine/PrepCmd.lean keep, one lemma for each. -/

namespace Sys2Proof.Machine

set_option linter.unusedTactic false
set_option linter.unreachableTactic false
set_option linter.unusedVariables false
set_option linter.unusedSimpArgs false

/-- What `State.prepPixels` keeps. -/
theorem State.prepPixels_keeps {a s : State} (h : Keeps a s) (u : Nat) (n : Nat) :
    Keeps a (State.prepPixels s u n) := by
  unfold State.prepPixels
  repeat'
    first
    | with_reducible assumption
    | (extract_lets +onlyGivenNames x; refine (fun (hx : Keeps a x) => ?_) ?_; clear_value x; rotate_left; simp only [x])
    | (extract_lets +onlyGivenNames x; refine (fun (hx : Keeps a x) => ?_) ?_; rotate_left; simp only [x])
    | (extract_lets +onlyGivenNames x; clear_value x)
    | extract_lets +onlyGivenNames x
    | split
    | (simp only [keeps_mk]; refine KeepsMk.same rfl ?_ rfl rfl rfl rfl rfl rfl rfl rfl rfl rfl rfl)

/-- What `State.tkCount` keeps. -/
theorem State.tkCount_keeps {a s : State} (h : Keeps a s) (k : Nat) (n : Nat) :
    Keeps a (State.tkCount s k n) := by
  unfold State.tkCount
  repeat'
    first
    | with_reducible assumption
    | (extract_lets +onlyGivenNames x; refine (fun (hx : Keeps a x) => ?_) ?_; clear_value x; rotate_left; simp only [x])
    | (extract_lets +onlyGivenNames x; refine (fun (hx : Keeps a x) => ?_) ?_; rotate_left; simp only [x])
    | (extract_lets +onlyGivenNames x; clear_value x)
    | extract_lets +onlyGivenNames x
    | split
    | (simp only [keeps_mk]; refine KeepsMk.same rfl ?_ rfl rfl rfl rfl rfl rfl rfl rfl rfl rfl rfl)

/-- What `State.quantise` keeps. -/
theorem State.quantise_keeps {a s : State} (h : Keeps a s) (sid : Nat) (x : Stream) (pipe : Pipeline) (p : Pic) :
    Keeps a (State.quantise s sid x pipe p) := by
  unfold State.quantise
  repeat'
    first
    | with_reducible assumption
    | with_reducible refine State.chargeWork_keeps ?_ _ _ _ _
    | with_reducible refine State.joinBatch_keeps ?_ _ _ _ _ _ _ (by assumption)
    | with_reducible refine State.joinBatch_keeps ?_ _ _ _ _ _ _ rfl
    | with_reducible refine State.setPic_keeps ?_ _ _ _
    | with_reducible refine State.sweepBatches_keeps ?_
    | with_reducible refine State.alarmUpdate_keeps ?_ _ _
    | with_reducible refine State.issueReady_keeps ?_ _ _
    | (extract_lets +onlyGivenNames x; refine (fun (hx : Keeps a x) => ?_) ?_; clear_value x; rotate_left; simp only [x])
    | (extract_lets +onlyGivenNames x; refine (fun (hx : Keeps a x) => ?_) ?_; rotate_left; simp only [x])
    | (extract_lets +onlyGivenNames x; refine (fun (hx : Keeps a x.1) => ?_) ?_; clear_value x; rotate_left; simp only [x])
    | (extract_lets +onlyGivenNames x; refine (fun (hx : Keeps a x.1) => ?_) ?_; rotate_left; simp only [x])
    | (extract_lets +onlyGivenNames x; clear_value x)
    | extract_lets +onlyGivenNames x
    | split
    | (simp only [keeps_mk]; refine KeepsMk.same rfl ?_ rfl rfl rfl rfl rfl rfl rfl rfl rfl rfl rfl)

/-- What `State.takePrepared` keeps. -/
theorem State.takePrepared_keeps {a0 s : State} (h0 : Keeps a0 s) (stream : Nat) (x : Stream) (pipe : Pipeline) (q : Pic) (unit : Nat) :
    Keeps a0 (State.takePrepared s stream x pipe q unit) := by
  unfold State.takePrepared
  repeat'
    first
    | with_reducible assumption
    | with_reducible refine Keeps.of_eq (by assumption) ?_
    | with_reducible refine State.setPic_keeps ?_ _ _ _
    | with_reducible refine State.takeGrant_keeps ?_ _ _ _
    | with_reducible refine State.prepPixels_keeps ?_ _ _
    | with_reducible refine State.chargeFree_keeps ?_ _ _ _
    | with_reducible refine State.chargeWork_keeps ?_ _ _ _ _
    | with_reducible refine State.pushWindow_keeps ?_ _ _ _ _ _ _
    | (extract_lets +onlyGivenNames x; refine (fun (hx : Keeps a0 x) => ?_) ?_; clear_value x; rotate_left; simp only [x])
    | (extract_lets +onlyGivenNames x; refine (fun (hx : Keeps a0 x) => ?_) ?_; rotate_left; simp only [x])
    | (extract_lets +onlyGivenNames x; refine (fun (hx : Keeps a0 x.1) => ?_) ?_; clear_value x; rotate_left; simp only [x])
    | (extract_lets +onlyGivenNames x; refine (fun (hx : Keeps a0 x.1) => ?_) ?_; rotate_left; simp only [x])
    | (extract_lets +onlyGivenNames x; clear_value x)
    | extract_lets +onlyGivenNames x
    | split
    | dsimp only
    | (simp only [keeps_mk]; refine KeepsMk.same rfl ?_ rfl rfl rfl rfl rfl rfl rfl rfl rfl rfl rfl)

/-- What `State.countHold` keeps. -/
theorem State.countHold_keeps {a s : State} (h : Keeps a s) (unit : Nat) :
    Keeps a (State.countHold s unit) := by
  unfold State.countHold
  repeat'
    first
    | with_reducible assumption
    | (extract_lets +onlyGivenNames x; refine (fun (hx : Keeps a x) => ?_) ?_; clear_value x; rotate_left; simp only [x])
    | (extract_lets +onlyGivenNames x; refine (fun (hx : Keeps a x) => ?_) ?_; rotate_left; simp only [x])
    | (extract_lets +onlyGivenNames x; clear_value x)
    | extract_lets +onlyGivenNames x
    | split
    | (simp only [keeps_mk]; refine KeepsMk.same rfl ?_ rfl rfl rfl rfl rfl rfl rfl rfl rfl rfl rfl)

/-- What `State.preparePage` keeps. -/
theorem State.preparePage_keeps {a0 s : State} (h0 : Keeps a0 s) (n : Nat) (g : Page) (x : Pipeline) (unit : Nat) :
    Keeps a0 (State.preparePage s n g x unit) := by
  unfold State.preparePage
  repeat'
    first
    | with_reducible assumption
    | with_reducible refine Keeps.of_eq (by assumption) ?_
    | with_reducible refine State.takeGrant_keeps ?_ _ _ _
    | with_reducible refine State.prepPixels_keeps ?_ _ _
    | with_reducible refine State.chargeFree_keeps ?_ _ _ _
    | with_reducible refine State.pushWindow_keeps ?_ _ _ _ _ _ _
    | with_reducible refine State.setPage_keeps ?_ _ _
    | (extract_lets +onlyGivenNames x; refine (fun (hx : Keeps a0 x) => ?_) ?_; clear_value x; rotate_left; simp only [x])
    | (extract_lets +onlyGivenNames x; refine (fun (hx : Keeps a0 x) => ?_) ?_; rotate_left; simp only [x])
    | (extract_lets +onlyGivenNames x; refine (fun (hx : Keeps a0 x.1) => ?_) ?_; clear_value x; rotate_left; simp only [x])
    | (extract_lets +onlyGivenNames x; refine (fun (hx : Keeps a0 x.1) => ?_) ?_; rotate_left; simp only [x])
    | (extract_lets +onlyGivenNames x; clear_value x)
    | extract_lets +onlyGivenNames x
    | split
    | dsimp only
    | (simp only [keeps_mk]; refine KeepsMk.same rfl ?_ rfl rfl rfl rfl rfl rfl rfl rfl rfl rfl rfl)

/-- What `State.prepPicture` keeps. -/
theorem State.prepPicture_keeps {a0 s : State} (h0 : Keeps a0 s) (stream : Nat) (decSeq : Nat) (unit : Nat) :
    Keeps a0 (State.prepPicture s stream decSeq unit) := by
  unfold State.prepPicture
  repeat'
    first
    | with_reducible assumption
    | with_reducible refine Keeps.of_eq (by assumption) ?_
    | with_reducible refine State.wake_keeps ?_ _
    | with_reducible refine State.takePrepared_keeps ?_ _ _ _ _ _
    | with_reducible refine State.countHold_keeps ?_ _
    | with_reducible refine State.quantise_keeps ?_ _ _ _ _
    | (extract_lets +onlyGivenNames x; refine (fun (hx : Keeps a0 x) => ?_) ?_; clear_value x; rotate_left; simp only [x])
    | (extract_lets +onlyGivenNames x; refine (fun (hx : Keeps a0 x) => ?_) ?_; rotate_left; simp only [x])
    | (extract_lets +onlyGivenNames x; refine (fun (hx : Keeps a0 x.1) => ?_) ?_; clear_value x; rotate_left; simp only [x])
    | (extract_lets +onlyGivenNames x; refine (fun (hx : Keeps a0 x.1) => ?_) ?_; rotate_left; simp only [x])
    | (extract_lets +onlyGivenNames x; clear_value x)
    | extract_lets +onlyGivenNames x
    | split
    | dsimp only
    | (simp only [keeps_mk]; refine KeepsMk.same rfl ?_ rfl rfl rfl rfl rfl rfl rfl rfl rfl rfl rfl)

/-- What `State.prepPage` keeps. -/
theorem State.prepPage_keeps {a0 s : State} (h0 : Keeps a0 s) (page : Nat) (unit : Nat) :
    Keeps a0 (State.prepPage s page unit) := by
  unfold State.prepPage
  repeat'
    first
    | with_reducible assumption
    | with_reducible refine Keeps.of_eq (by assumption) ?_
    | with_reducible refine State.wake_keeps ?_ _
    | with_reducible refine State.preparePage_keeps ?_ _ _ _ _
    | with_reducible refine State.settle_keeps ?_
    | (extract_lets +onlyGivenNames x; refine (fun (hx : Keeps a0 x) => ?_) ?_; clear_value x; rotate_left; simp only [x])
    | (extract_lets +onlyGivenNames x; refine (fun (hx : Keeps a0 x) => ?_) ?_; rotate_left; simp only [x])
    | (extract_lets +onlyGivenNames x; refine (fun (hx : Keeps a0 x.1) => ?_) ?_; clear_value x; rotate_left; simp only [x])
    | (extract_lets +onlyGivenNames x; refine (fun (hx : Keeps a0 x.1) => ?_) ?_; rotate_left; simp only [x])
    | (extract_lets +onlyGivenNames x; clear_value x)
    | extract_lets +onlyGivenNames x
    | split
    | dsimp only
    | (simp only [keeps_mk]; refine KeepsMk.same rfl ?_ rfl rfl rfl rfl rfl rfl rfl rfl rfl rfl rfl)

/-- What `State.addCrop` keeps. -/
theorem State.addCrop_keeps {a0 s : State} (h0 : Keeps a0 s) (j : CropJob) :
    Keeps a0 (State.addCrop s j) := by
  unfold State.addCrop
  repeat'
    first
    | with_reducible assumption
    | with_reducible refine Keeps.of_eq (by assumption) ?_
    | (extract_lets +onlyGivenNames x; refine (fun (hx : Keeps a0 x) => ?_) ?_; clear_value x; rotate_left; simp only [x])
    | (extract_lets +onlyGivenNames x; refine (fun (hx : Keeps a0 x) => ?_) ?_; rotate_left; simp only [x])
    | (extract_lets +onlyGivenNames x; refine (fun (hx : Keeps a0 x.1) => ?_) ?_; clear_value x; rotate_left; simp only [x])
    | (extract_lets +onlyGivenNames x; refine (fun (hx : Keeps a0 x.1) => ?_) ?_; rotate_left; simp only [x])
    | (extract_lets +onlyGivenNames x; clear_value x)
    | extract_lets +onlyGivenNames x
    | split
    | dsimp only
    | (simp only [keeps_mk]; refine KeepsMk.same rfl ?_ rfl rfl rfl rfl rfl rfl rfl rfl rfl rfl rfl)

/-- What `State.startReid` keeps. -/
theorem State.startReid_keeps {a0 s : State} (h0 : Keeps a0 s) (x : Stream) (folio : Nat) (j : CropJob) (maxW : Nat) :
    KeepsOpt a0 (State.startReid s x folio j maxW) := by
  unfold State.startReid
  repeat'
    first
    | with_reducible assumption
    | with_reducible refine Keeps.fold ?_ _ (fun _ _ _ => ?_) _
    | with_reducible refine Keeps.foldPair ?_ _ (fun _ _ _ => ?_) _
    | with_reducible refine KeepsOpt.fold ?_ _ (fun _ _ _ => ?_) _
    | with_reducible refine Keeps.of_eq (by assumption) ?_
    | with_reducible refine State.pushWindow_keeps ?_ _ _ _ _ _ _
    | with_reducible refine State.startRun_keeps ?_ _ _ _ _ _
    | with_reducible refine State.startRun_keeps ?_ _ _ _ _ _ _ (by assumption)
    | with_reducible exact KeepsOpt.none
    | refine KeepsOpt.some ?_
    | with_reducible refine KeepsOpt.map _ _ (fun _ => ?_)
    | with_reducible refine KeepsOpt.bind ?_ _ (fun _ _ => ?_)
    | (extract_lets +onlyGivenNames x; refine (fun (hx : Keeps a0 x) => ?_) ?_; clear_value x; rotate_left; simp only [x])
    | (extract_lets +onlyGivenNames x; refine (fun (hx : Keeps a0 x) => ?_) ?_; rotate_left; simp only [x])
    | (extract_lets +onlyGivenNames x; refine (fun (hx : Keeps a0 x.1) => ?_) ?_; clear_value x; rotate_left; simp only [x])
    | (extract_lets +onlyGivenNames x; refine (fun (hx : Keeps a0 x.1) => ?_) ?_; rotate_left; simp only [x])
    | (extract_lets +onlyGivenNames x; clear_value x)
    | extract_lets +onlyGivenNames x
    | split
    | dsimp only
    | (simp only [keeps_mk]; refine KeepsMk.same rfl ?_ rfl rfl rfl rfl rfl rfl rfl rfl rfl rfl rfl)

/-- What `State.endCrop` keeps. -/
theorem State.endCrop_keeps {a0 s : State} (h0 : Keeps a0 s) (job : Nat) (j : CropJob) (client : Nat) :
    Keeps a0 (State.endCrop s job j client) := by
  unfold State.endCrop
  repeat'
    first
    | with_reducible assumption
    | with_reducible refine Keeps.fold ?_ _ (fun _ _ _ => ?_) _
    | with_reducible refine Keeps.foldPair ?_ _ (fun _ _ _ => ?_) _
    | with_reducible refine Keeps.of_eq (by assumption) ?_
    | with_reducible refine State.prepPixels_keeps ?_ _ _
    | with_reducible refine State.chargeWork_keeps ?_ _ _ _ _
    | (extract_lets +onlyGivenNames x; refine (fun (hx : Keeps a0 x) => ?_) ?_; clear_value x; rotate_left; simp only [x])
    | (extract_lets +onlyGivenNames x; refine (fun (hx : Keeps a0 x) => ?_) ?_; rotate_left; simp only [x])
    | (extract_lets +onlyGivenNames x; refine (fun (hx : Keeps a0 x.1) => ?_) ?_; clear_value x; rotate_left; simp only [x])
    | (extract_lets +onlyGivenNames x; refine (fun (hx : Keeps a0 x.1) => ?_) ?_; rotate_left; simp only [x])
    | (extract_lets +onlyGivenNames x; clear_value x)
    | extract_lets +onlyGivenNames x
    | split
    | dsimp only
    | (simp only [keeps_mk]; refine KeepsMk.same rfl ?_ rfl rfl rfl rfl rfl rfl rfl rfl rfl rfl rfl)

/-- What `State.finishLines` keeps. -/
theorem State.finishLines_keeps {a s : State} (h : Keeps a s) (n : Nat) (g : Page) (x : Pipeline) (j : CropJob) :
    Keeps a (State.finishLines s n g x j) := by
  unfold State.finishLines
  repeat'
    first
    | with_reducible assumption
    | with_reducible refine Keeps.fold ?_ _ (fun _ _ _ => ?_) _
    | with_reducible refine State.pushWindow_keeps ?_ _ _ _ _ _ _
    | with_reducible refine State.returnOpt_keeps ?_ _
    | with_reducible refine State.setPage_keeps ?_ _ _
    | with_reducible refine State.commit_keeps ?_ _ _
    | with_reducible refine State.tkCount_keeps ?_ _ _
    | with_reducible refine State.joinBatch_keeps ?_ _ _ _ _ _ _ (by assumption)
    | with_reducible refine State.joinBatch_keeps ?_ _ _ _ _ _ _ rfl
    | with_reducible refine State.issueReady_keeps ?_ _ _
    | (extract_lets +onlyGivenNames x; refine (fun (hx : Keeps a x) => ?_) ?_; clear_value x; rotate_left; simp only [x])
    | (extract_lets +onlyGivenNames x; refine (fun (hx : Keeps a x) => ?_) ?_; rotate_left; simp only [x])
    | (extract_lets +onlyGivenNames x; refine (fun (hx : Keeps a x.1) => ?_) ?_; clear_value x; rotate_left; simp only [x])
    | (extract_lets +onlyGivenNames x; refine (fun (hx : Keeps a x.1) => ?_) ?_; rotate_left; simp only [x])
    | (extract_lets +onlyGivenNames x; clear_value x)
    | extract_lets +onlyGivenNames x
    | split
    | (simp only [keeps_mk]; refine KeepsMk.same rfl ?_ rfl rfl rfl rfl rfl rfl rfl rfl rfl rfl rfl)

end Sys2Proof.Machine
end

