-- ==== Sys2Proof/Laws/KeepTracking.lean ====
section
/-! SUPPORT. What the operations of Machine/Tracking.lean keep, one lemma for each. -/

namespace Sys2Proof.Machine

set_option linter.unusedTactic false
set_option linter.unreachableTactic false
set_option linter.unusedVariables false
set_option linter.unusedSimpArgs false

/-- What `State.reidJob` keeps. -/
theorem State.reidJob_keeps {a0 s : State} (h0 : Keeps a0 s) (sid : Nat) (x : Stream) (pipe : Pipeline) (p : Pic) (l : List Det) :
    Keeps a0 (State.reidJob s sid x pipe p l) := by
  unfold State.reidJob
  repeat'
    first
    | with_reducible assumption
    | with_reducible refine Keeps.of_eq (by assumption) ?_
    | with_reducible refine State.addCrop_keeps ?_ _
    | (extract_lets +onlyGivenNames x; refine (fun (hx : Keeps a0 x) => ?_) ?_; clear_value x; rotate_left; simp only [x])
    | (extract_lets +onlyGivenNames x; refine (fun (hx : Keeps a0 x) => ?_) ?_; rotate_left; simp only [x])
    | (extract_lets +onlyGivenNames x; refine (fun (hx : Keeps a0 x.1) => ?_) ?_; clear_value x; rotate_left; simp only [x])
    | (extract_lets +onlyGivenNames x; refine (fun (hx : Keeps a0 x.1) => ?_) ?_; rotate_left; simp only [x])
    | (extract_lets +onlyGivenNames x; clear_value x)
    | extract_lets +onlyGivenNames x
    | split
    | dsimp only
    | (simp only [keeps_mk]; refine KeepsMk.same rfl ?_ rfl rfl rfl rfl rfl rfl rfl rfl rfl rfl rfl)

/-- What `State.takeDetections` keeps. -/
theorem State.takeDetections_keeps {a s : State} (h : Keeps a s) (stream : Nat) (x : Stream) (pipe : Pipeline) (p : Pic) (b : Batch) (i : Nat) :
    Keeps a (State.takeDetections s stream x pipe p b i) := by
  unfold State.takeDetections
  repeat'
    first
    | with_reducible assumption
    | with_reducible refine State.chargeFree_keeps ?_ _ _ _
    | with_reducible refine State.takeGrant_keeps ?_ _ _ _
    | with_reducible refine State.setPic_keeps ?_ _ _ _
    | with_reducible refine State.reidJob_keeps ?_ _ _ _ _ _
    | (extract_lets +onlyGivenNames x; refine (fun (hx : Keeps a x) => ?_) ?_; clear_value x; rotate_left; simp only [x])
    | (extract_lets +onlyGivenNames x; refine (fun (hx : Keeps a x) => ?_) ?_; rotate_left; simp only [x])
    | (extract_lets +onlyGivenNames x; refine (fun (hx : Keeps a x.1) => ?_) ?_; clear_value x; rotate_left; simp only [x])
    | (extract_lets +onlyGivenNames x; refine (fun (hx : Keeps a x.1) => ?_) ?_; rotate_left; simp only [x])
    | (extract_lets +onlyGivenNames x; clear_value x)
    | extract_lets +onlyGivenNames x
    | split
    | (simp only [keeps_mk]; refine KeepsMk.same rfl ?_ rfl rfl rfl rfl rfl rfl rfl rfl rfl rfl rfl)

/-- What `State.releaseSnaps` keeps. -/
theorem State.releaseSnaps_keeps {a s : State} (h : Keeps a s) (sid : Nat) (dec : Nat) :
    Keeps a (State.releaseSnaps s sid dec) := by
  unfold State.releaseSnaps
  repeat'
    first
    | with_reducible assumption
    | with_reducible refine State.reportSnaps_keeps ?_ _ _
    | split

/-- What `State.dropOutput` keeps. -/
theorem State.dropOutput_keeps {a s : State} (h : Keeps a s) (sid : Nat) (dec : Nat) :
    Keeps a (State.dropOutput s sid dec) := by
  unfold State.dropOutput
  repeat'
    first
    | with_reducible assumption
    | with_reducible refine State.setStream_keeps ?_ _ _
    | (extract_lets +onlyGivenNames x; refine (fun (hx : Keeps a x) => ?_) ?_; clear_value x; rotate_left; simp only [x])
    | (extract_lets +onlyGivenNames x; refine (fun (hx : Keeps a x) => ?_) ?_; rotate_left; simp only [x])
    | (extract_lets +onlyGivenNames x; clear_value x)
    | extract_lets +onlyGivenNames x
    | split
    | (simp only [keeps_mk]; refine KeepsMk.same rfl ?_ rfl rfl rfl rfl rfl rfl rfl rfl rfl rfl rfl)

/-- What `State.takeTracks` keeps. -/
theorem State.takeTracks_keeps {a0 s : State} (h0 : Keeps a0 s) (stream : Nat) (x : Stream) (pipe : Pipeline) (p : Pic) :
    Keeps a0 (State.takeTracks s stream x pipe p) := by
  unfold State.takeTracks
  repeat'
    first
    | with_reducible assumption
    | with_reducible refine Keeps.fold ?_ _ (fun _ _ _ => ?_) _
    | with_reducible refine Keeps.foldPair ?_ _ (fun _ _ _ => ?_) _
    | with_reducible refine Keeps.of_eq (by assumption) ?_
    | with_reducible refine State.takeGrant_keeps ?_ _ _ _
    | with_reducible refine State.chargeFree_keeps ?_ _ _ _
    | with_reducible refine State.commit_keeps ?_ _ _
    | with_reducible refine State.tkCount_keeps ?_ _ _
    | with_reducible refine State.setStream_keeps ?_ _ _
    | with_reducible refine State.setCluster_keeps ?_ _ _
    | with_reducible refine State.chargeWork_keeps ?_ _ _ _ _
    | with_reducible refine State.setPic_keeps ?_ _ _ _
    | (extract_lets +onlyGivenNames x; refine (fun (hx : Keeps a0 x) => ?_) ?_; clear_value x; rotate_left; simp only [x])
    | (extract_lets +onlyGivenNames x; refine (fun (hx : Keeps a0 x) => ?_) ?_; rotate_left; simp only [x])
    | (extract_lets +onlyGivenNames x; refine (fun (hx : Keeps a0 x.1) => ?_) ?_; clear_value x; rotate_left; simp only [x])
    | (extract_lets +onlyGivenNames x; refine (fun (hx : Keeps a0 x.1) => ?_) ?_; rotate_left; simp only [x])
    | (extract_lets +onlyGivenNames x; clear_value x)
    | extract_lets +onlyGivenNames x
    | split
    | dsimp only
    | (simp only [keeps_mk]; refine KeepsMk.same rfl ?_ rfl rfl rfl rfl rfl rfl rfl rfl rfl rfl rfl)

end Sys2Proof.Machine
end

