-- ==== Sys2Proof/Laws/KeepEncode.lean ====
section
/-! SUPPORT. What the operations of Machine/Encode.lean keep, one lemma for each. -/

namespace Sys2Proof.Machine

set_option linter.unusedTactic false
set_option linter.unreachableTactic false
set_option linter.unusedVariables false
set_option linter.unusedSimpArgs false

/-- What `State.countEncoded` keeps. -/
theorem State.countEncoded_keeps {a s : State} (h : Keeps a s) (x : Stream) (cycles : Nat) :
    Keeps a (State.countEncoded s x cycles) := by
  unfold State.countEncoded
  repeat'
    first
    | with_reducible assumption
    | with_reducible refine State.chargeWork_keeps ?_ _ _ _ _
    | (extract_lets +onlyGivenNames x; refine (fun (hx : Keeps a x) => ?_) ?_; clear_value x; rotate_left; simp only [x])
    | (extract_lets +onlyGivenNames x; refine (fun (hx : Keeps a x) => ?_) ?_; rotate_left; simp only [x])
    | (extract_lets +onlyGivenNames x; clear_value x)
    | extract_lets +onlyGivenNames x
    | (simp only [keeps_mk]; refine KeepsMk.same rfl ?_ rfl rfl rfl rfl rfl rfl rfl rfl rfl rfl rfl)

/-- What `State.setSnap` keeps. -/
theorem State.setSnap_keeps {a s : State} (h : Keeps a s) (sid : Nat) (q : Snap) (r : Option Snap) :
    Keeps a (State.setSnap s sid q r) := by
  unfold State.setSnap
  repeat'
    first
    | with_reducible assumption
    | with_reducible refine State.setStream_keeps ?_ _ _
    | (extract_lets +onlyGivenNames x; refine (fun (hx : Keeps a x) => ?_) ?_; clear_value x; rotate_left; simp only [x])
    | (extract_lets +onlyGivenNames x; refine (fun (hx : Keeps a x) => ?_) ?_; rotate_left; simp only [x])
    | (extract_lets +onlyGivenNames x; clear_value x)
    | extract_lets +onlyGivenNames x
    | split
    | (simp only [keeps_mk]; refine KeepsMk.same rfl ?_ rfl rfl rfl rfl rfl rfl rfl rfl rfl rfl rfl)

/-- What `State.keepJpeg` keeps. -/
theorem State.keepJpeg_keeps {a s : State} (h : Keeps a s) (x : Stream) (bytes : List Byte) :
    ∀ u y, State.keepJpeg s x bytes = (u, y) → Keeps a u := by
  have key : Keeps a (State.keepJpeg s x bytes).1 := by
    unfold State.keepJpeg
    repeat'
      first
      | with_reducible assumption
      | with_reducible refine State.writeOutside_keeps ?_ _ _
      | with_reducible refine State.handBuf_keeps ?_ _
      | with_reducible refine State.countEmpty_keeps ?_
      | (extract_lets +onlyGivenNames x; refine (fun (hx : Keeps a x) => ?_) ?_; clear_value x; rotate_left; simp only [x])
      | (extract_lets +onlyGivenNames x; refine (fun (hx : Keeps a x) => ?_) ?_; rotate_left; simp only [x])
      | (extract_lets +onlyGivenNames x; clear_value x)
      | extract_lets +onlyGivenNames x
      | split
      | dsimp only
      | (simp only [keeps_mk]; refine KeepsMk.same rfl ?_ rfl rfl rfl rfl rfl rfl rfl rfl rfl rfl rfl)
  intro u y hu
  rw [hu] at key
  exact key

/-- What `State.returnJpeg` keeps. -/
theorem State.returnJpeg_keeps {a s : State} (h0 : Keeps a s) (x : Stream) (sid : Nat) (q : Snap) (st : Nat) (h : Nat) (n : Nat) :
    Keeps a (State.returnJpeg s x sid q st h n) := by
  unfold State.returnJpeg
  repeat'
    first
    | with_reducible assumption
    | with_reducible refine State.commitSnap_keeps ?_ _ _ _ _ _ _
    | with_reducible refine State.setSnap_keeps ?_ _ _ _
    | (extract_lets +onlyGivenNames x; refine (fun (hx : Keeps a x) => ?_) ?_; clear_value x; rotate_left; simp only [x])
    | (extract_lets +onlyGivenNames x; refine (fun (hx : Keeps a x) => ?_) ?_; rotate_left; simp only [x])
    | (extract_lets +onlyGivenNames x; clear_value x)
    | extract_lets +onlyGivenNames x
    | split
    | (simp only [keeps_mk]; refine KeepsMk.same rfl ?_ rfl rfl rfl rfl rfl rfl rfl rfl rfl rfl rfl)

/-- What `State.freeSnapshot` keeps. -/
theorem State.freeSnapshot_keeps {a s : State} (h : Keeps a s) :
    Keeps a (State.freeSnapshot s) := by
  unfold State.freeSnapshot
  repeat'
    first
    | with_reducible assumption
    | with_reducible refine State.freeEncoder_keeps ?_ _
    | split

/-- What `State.appendClip` keeps. -/
theorem State.appendClip_keeps {a s : State} (h : Keeps a s) (c : Nat) (dec : Nat) (order : Nat) (bytes : List Byte) (endChunk : Bool) :
    Keeps a (State.appendClip s c dec order bytes endChunk) := by
  unfold State.appendClip
  repeat'
    first
    | with_reducible assumption
    | with_reducible refine State.endChunk_keeps ?_ _ _
    | with_reducible refine State.endClip_keeps ?_ _
    | (extract_lets +onlyGivenNames x; refine (fun (hx : Keeps a x) => ?_) ?_; clear_value x; rotate_left; simp only [x])
    | (extract_lets +onlyGivenNames x; refine (fun (hx : Keeps a x) => ?_) ?_; rotate_left; simp only [x])
    | (extract_lets +onlyGivenNames x; clear_value x)
    | extract_lets +onlyGivenNames x
    | split
    | (simp only [keeps_mk]; refine KeepsMk.same rfl ?_ rfl rfl rfl rfl rfl rfl rfl rfl rfl rfl rfl)

/-- What `State.freeIfDone` keeps. -/
theorem State.freeIfDone_keeps {a s : State} (h : Keeps a s) (e : Nat) :
    Keeps a (State.freeIfDone s e) := by
  unfold State.freeIfDone
  repeat'
    first
    | with_reducible assumption
    | with_reducible refine State.freeEncoder_keeps ?_ _
    | split

end Sys2Proof.Machine
end

