-- ==== Sys2Proof/Laws/KeepLane.lean ====
section
/-! SUPPORT. What the operations of Machine/Lane.lean keep, one lemma for each. -/

namespace Sys2Proof.Machine

set_option linter.unusedTactic false
set_option linter.unreachableTactic false
set_option linter.unusedVariables false
set_option linter.unusedSimpArgs false

/-- What `State.laneOp` keeps. -/
theorem State.laneOp_keeps {a0 s : State} (h : Keeps a0 s) (lop : Nat) (a : LaneArgs) (cycles : Nat) (f : Core → Core) :
    KeepsOut a0 (State.laneOp s lop a cycles f) := by
  unfold State.laneOp
  repeat'
    first
    | with_reducible assumption
    | with_reducible refine State.tick_keeps ?_ _ _
    | with_reducible refine State.setCore_keeps ?_ _ _
    | refine KeepsOut.next ?_
    | split

/-- What `State.laneMem` keeps. -/
theorem State.laneMem_keeps {a s : State} (h : Keeps a s) (n : Nat) (ecc : List StoreError) (cycles : Nat) (waits reads : List (Nat × Nat))
    (segs : List (Nat × List Byte)) (zero : List (Nat × Nat × Nat × Nat)) (f : State → State) (hf : ∀ t, Keeps a t → Keeps a (f t)) :
    KeepsOut a (State.laneMem s n ecc cycles waits reads segs zero f) := by
  unfold State.laneMem
  have he := State.eccFound_keeps h n reads ecc
  split
  · exact .next h
  · extract_lets s1 s2
    split
    · exact .next (State.stopQuire_keeps he _ _)
    · refine .next (State.tick_keeps (hf _ ?_) _ _)
      simp only [s2]
      split
      · exact he
      · exact State.dropStaged_keeps (State.setCore_keeps he _ _) _ _

/-- What `State.takeStats` keeps. -/
theorem State.takeStats_keeps {a0 s : State} (h0 : Keeps a0 s) (n : Nat) (img : List Byte) (b : Binding) (vals : List Int) :
    Keeps a0 (State.takeStats s n img b vals) := by
  unfold State.takeStats
  repeat'
    first
    | with_reducible assumption
    | with_reducible refine Keeps.fold ?_ _ (fun _ _ _ => ?_) _
    | with_reducible refine Keeps.foldPair ?_ _ (fun _ _ _ => ?_) _
    | with_reducible refine Keeps.of_eq (by assumption) ?_
    | with_reducible refine State.setActive_keeps ?_ _ _
    | (extract_lets +onlyGivenNames x; refine (fun (hx : Keeps a0 x) => ?_) ?_; clear_value x; rotate_left; simp only [x])
    | (extract_lets +onlyGivenNames x; refine (fun (hx : Keeps a0 x) => ?_) ?_; rotate_left; simp only [x])
    | (extract_lets +onlyGivenNames x; refine (fun (hx : Keeps a0 x.1) => ?_) ?_; clear_value x; rotate_left; simp only [x])
    | (extract_lets +onlyGivenNames x; refine (fun (hx : Keeps a0 x.1) => ?_) ?_; rotate_left; simp only [x])
    | (extract_lets +onlyGivenNames x; clear_value x)
    | extract_lets +onlyGivenNames x
    | split
    | dsimp only
    | (simp only [keeps_mk]; refine KeepsMk.same rfl ?_ rfl rfl rfl rfl rfl rfl rfl rfl rfl rfl rfl)

end Sys2Proof.Machine
end

