-- ==== Sys2Proof/Laws/KeepTextEngine.lean ====
section
/-! SUPPORT. What the operations of Machine/TextEngine.lean keep, one lemma for each. -/

namespace Sys2Proof.Machine

set_option linter.unusedTactic false
set_option linter.unreachableTactic false
set_option linter.unusedVariables false
set_option linter.unusedSimpArgs false

/-- What `State.endRead` keeps. -/
theorem State.endRead_keeps {a s : State} (h : Keeps a s) (k : Nat) (g : Page) (e : Read × List (List Byte) × List (List Byte)) :
    Keeps a (State.endRead s k g e) := by
  unfold State.endRead
  repeat'
    first
    | with_reducible assumption
    | with_reducible refine Keeps.fold ?_ _ (fun _ _ _ => ?_) _
    | with_reducible refine State.commit_keeps ?_ _ _
    | with_reducible refine State.setRead_keeps ?_ _ _
    | with_reducible refine State.setPage_keeps ?_ _ _
    | with_reducible refine State.pageRead_keeps ?_ _
    | with_reducible refine State.readOver_keeps ?_ _ _ _
    | with_reducible exact hff _
    | (extract_lets +onlyGivenNames ff; refine (fun (hff : ∀ c, Keeps a (ff c)) => ?_) (fun c => ?_); clear_value ff; rotate_left; simp only [ff])
    | (extract_lets +onlyGivenNames x; refine (fun (hx : Keeps a x) => ?_) ?_; clear_value x; rotate_left; simp only [x])
    | (extract_lets +onlyGivenNames x; refine (fun (hx : Keeps a x) => ?_) ?_; rotate_left; simp only [x])
    | (extract_lets +onlyGivenNames x; refine (fun (hx : Keeps a x.1) => ?_) ?_; clear_value x; rotate_left; simp only [x])
    | (extract_lets +onlyGivenNames x; refine (fun (hx : Keeps a x.1) => ?_) ?_; rotate_left; simp only [x])
    | extract_lets +onlyGivenNames x
    | split
    | (simp only [keeps_mk]; refine KeepsMk.same rfl ?_ rfl rfl rfl rfl rfl rfl rfl rfl rfl rfl rfl)

/-- What `State.keepRead` keeps. -/
theorem State.keepRead_keeps {a s : State} (h : Keeps a s) (k : Nat) (g : Page) (r : Read) (recs : List (List Byte)) :
    Keeps a (State.keepRead s k g r recs) := by
  unfold State.keepRead
  repeat'
    first
    | with_reducible assumption
    | with_reducible refine Keeps.fold ?_ _ (fun _ _ _ => ?_) _
    | with_reducible refine State.commit_keeps ?_ _ _
    | with_reducible refine State.setPage_keeps ?_ _ _
    | with_reducible refine State.setRead_keeps ?_ _ _
    | (extract_lets +onlyGivenNames x; refine (fun (hx : Keeps a x) => ?_) ?_; clear_value x; rotate_left; simp only [x])
    | (extract_lets +onlyGivenNames x; refine (fun (hx : Keeps a x) => ?_) ?_; rotate_left; simp only [x])
    | (extract_lets +onlyGivenNames x; clear_value x)
    | extract_lets +onlyGivenNames x
    | split
    | (simp only [keeps_mk]; refine KeepsMk.same rfl ?_ rfl rfl rfl rfl rfl rfl rfl rfl rfl rfl rfl)

/-- What `State.poisonRead` keeps. -/
theorem State.poisonRead_keeps {a s : State} (h : Keeps a s) (k : Nat) (r : Read) (g : Page) (x : Pipeline) :
    Keeps a (State.poisonRead s k r g x) := by
  unfold State.poisonRead
  repeat'
    first
    | with_reducible assumption
    | with_reducible refine State.endRead_keeps ?_ _ _ _
    | (extract_lets +onlyGivenNames x; refine (fun (hx : Keeps a x) => ?_) ?_; clear_value x; rotate_left; simp only [x])
    | (extract_lets +onlyGivenNames x; refine (fun (hx : Keeps a x) => ?_) ?_; rotate_left; simp only [x])
    | (extract_lets +onlyGivenNames x; clear_value x)
    | extract_lets +onlyGivenNames x
    | (simp only [keeps_mk]; refine KeepsMk.same rfl ?_ rfl rfl rfl rfl rfl rfl rfl rfl rfl rfl rfl)

/-- What `State.restep` keeps. -/
theorem State.restep_keeps {a0 s : State} (h0 : Keeps a0 s) (r : Nat) :
    Keeps a0 (State.restep s r) := by
  unfold State.restep
  repeat'
    first
    | with_reducible assumption
    | with_reducible refine Keeps.fold ?_ _ (fun _ _ _ => ?_) _
    | with_reducible refine Keeps.foldPair ?_ _ (fun _ _ _ => ?_) _
    | with_reducible refine Keeps.of_eq (by assumption) ?_
    | with_reducible refine State.setRun_keeps ?_ _ _
    | (extract_lets +onlyGivenNames x; refine (fun (hx : Keeps a0 x) => ?_) ?_; clear_value x; rotate_left; simp only [x])
    | (extract_lets +onlyGivenNames x; refine (fun (hx : Keeps a0 x) => ?_) ?_; rotate_left; simp only [x])
    | (extract_lets +onlyGivenNames x; refine (fun (hx : Keeps a0 x.1) => ?_) ?_; clear_value x; rotate_left; simp only [x])
    | (extract_lets +onlyGivenNames x; refine (fun (hx : Keeps a0 x.1) => ?_) ?_; rotate_left; simp only [x])
    | (extract_lets +onlyGivenNames x; clear_value x)
    | extract_lets +onlyGivenNames x
    | split
    | dsimp only
    | (simp only [keeps_mk]; refine KeepsMk.same rfl ?_ rfl rfl rfl rfl rfl rfl rfl rfl rfl rfl rfl)

/-- What `State.putToken` keeps. -/
theorem State.putToken_keeps {a0 s : State} (h0 : Keeps a0 s) (run : Nat) (i : Nat) (tok : Nat) :
    Keeps a0 (State.putToken s run i tok) := by
  unfold State.putToken
  repeat'
    first
    | with_reducible assumption
    | with_reducible refine Keeps.of_eq (by assumption) ?_
    | with_reducible refine State.inputHome_keeps ?_ _ _ _ _ (by assumption)
    | with_reducible refine State.inputHome_keeps ?_ _ _ _ _ Prod.mk.eta.symm
    | with_reducible refine State.setTensor_keeps ?_ _ _
    | with_reducible refine State.landMove_keeps ?_ _
    | with_reducible refine State.dropStale_keeps ?_ _
    | with_reducible refine State.writeMem_keeps ?_ _ _
    | (extract_lets +onlyGivenNames x; refine (fun (hx : Keeps a0 x) => ?_) ?_; clear_value x; rotate_left; simp only [x])
    | (extract_lets +onlyGivenNames x; refine (fun (hx : Keeps a0 x) => ?_) ?_; rotate_left; simp only [x])
    | (extract_lets +onlyGivenNames x; refine (fun (hx : Keeps a0 x.1) => ?_) ?_; clear_value x; rotate_left; simp only [x])
    | (extract_lets +onlyGivenNames x; refine (fun (hx : Keeps a0 x.1) => ?_) ?_; rotate_left; simp only [x])
    | (extract_lets +onlyGivenNames x; clear_value x)
    | extract_lets +onlyGivenNames x
    | split
    | dsimp only
    | (simp only [keeps_mk]; refine KeepsMk.same rfl ?_ rfl rfl rfl rfl rfl rfl rfl rfl rfl rfl rfl)

/-- What `State.selectToken` keeps. -/
theorem State.selectToken_keeps {a s : State} (h : Keeps a s) (k : Nat) (r : Read) (g : Page) (x : Pipeline) :
    Keeps a (State.selectToken s k r g x) := by
  unfold State.selectToken
  repeat'
    first
    | with_reducible assumption
    | with_reducible refine State.chargeFree_keeps ?_ _ _ _
    | with_reducible refine State.putToken_keeps ?_ _ _ _
    | with_reducible refine State.poisonRead_keeps ?_ _ _ _ _
    | with_reducible refine State.endRead_keeps ?_ _ _ _
    | with_reducible refine State.keepRead_keeps ?_ _ _ _ _
    | (extract_lets +onlyGivenNames x; refine (fun (hx : Keeps a x) => ?_) ?_; clear_value x; rotate_left; simp only [x])
    | (extract_lets +onlyGivenNames x; refine (fun (hx : Keeps a x) => ?_) ?_; rotate_left; simp only [x])
    | (extract_lets +onlyGivenNames x; clear_value x)
    | extract_lets +onlyGivenNames x
    | split
    | (simp only [keeps_mk]; refine KeepsMk.same rfl ?_ rfl rfl rfl rfl rfl rfl rfl rfl rfl rfl rfl)

/-- What `State.maskDone` keeps. -/
theorem State.maskDone_keeps {a s : State} (h : Keeps a s) (read : Nat) (r : Read) (g : Page) (x : Pipeline) :
    Keeps a (State.maskDone s read r g x) := by
  unfold State.maskDone
  repeat'
    first
    | with_reducible assumption
    | with_reducible refine State.setRead_keeps ?_ _ _
    | with_reducible refine State.settle_keeps ?_
    | with_reducible refine State.sweepBatches_keeps ?_
    | with_reducible refine State.selectToken_keeps ?_ _ _ _ _
    | (extract_lets +onlyGivenNames x; refine (fun (hx : Keeps a x) => ?_) ?_; clear_value x; rotate_left; simp only [x])
    | (extract_lets +onlyGivenNames x; refine (fun (hx : Keeps a x) => ?_) ?_; rotate_left; simp only [x])
    | (extract_lets +onlyGivenNames x; clear_value x)
    | extract_lets +onlyGivenNames x
    | split
    | (simp only [keeps_mk]; refine KeepsMk.same rfl ?_ rfl rfl rfl rfl rfl rfl rfl rfl rfl rfl rfl)

end Sys2Proof.Machine
end

