-- ==== Sys2Proof/Laws/KeepPowerCmd.lean ====
section
/-! SUPPORT. What the operations of Machine/PowerCmd.lean keep, one lemma for each. -/

namespace Sys2Proof.Machine

set_option linter.unusedTactic false
set_option linter.unreachableTactic false
set_option linter.unusedVariables false
set_option linter.unusedSimpArgs false

/-- What `State.allOff` keeps. -/
theorem State.allOff_keeps {a s : State} (h : Keeps a s) :
    Keeps a (State.allOff s) := by
  unfold State.allOff
  repeat'
    first
    | with_reducible assumption
    | with_reducible refine Keeps.fold ?_ _ (fun _ _ _ => ?_) _
    | with_reducible refine State.offLoss_keeps ?_ _
    | with_reducible refine State.setDom_keeps ?_ _ _
    | split
    | (simp only [keeps_mk]; refine KeepsMk.same rfl ?_ rfl rfl rfl rfl rfl rfl rfl rfl rfl rfl rfl)

/-- What `State.logTrip` keeps. -/
theorem State.logTrip_keeps {a s : State} (h : Keeps a s) :
    Keeps a (State.logTrip s) := by
  unfold State.logTrip
  repeat'
    first
    | with_reducible assumption
    | (extract_lets +onlyGivenNames x; refine (fun (hx : Keeps a x) => ?_) ?_; clear_value x; rotate_left; simp only [x])
    | (extract_lets +onlyGivenNames x; refine (fun (hx : Keeps a x) => ?_) ?_; rotate_left; simp only [x])
    | (extract_lets +onlyGivenNames x; have _g : Mgt := x)
    | (extract_lets +onlyGivenNames x; clear_value x)
    | extract_lets +onlyGivenNames x
    | (simp only [keeps_mk]; refine KeepsMk.same rfl ?_ rfl rfl rfl rfl rfl rfl rfl rfl rfl rfl rfl)

/-- What `State.logSensors` keeps. -/
theorem State.logSensors_keeps {a s : State} (h : Keeps a s) (old : List SensorReading) (new : List SensorReading) :
    Keeps a (State.logSensors s old new) := by
  unfold State.logSensors
  repeat'
    first
    | with_reducible assumption
    | with_reducible refine Keeps.fold ?_ _ (fun _ _ _ => ?_) _
    | with_reducible refine State.log_keeps ?_ _ _ _ _ _
    | split

/-- What `State.halveClock` keeps. -/
theorem State.halveClock_keeps {a s : State} (h : Keeps a s) :
    Keeps a (State.halveClock s) := by
  unfold State.halveClock
  repeat'
    first
    | with_reducible assumption
    | (extract_lets +onlyGivenNames x; refine (fun (hx : Keeps a x) => ?_) ?_; clear_value x; rotate_left; simp only [x])
    | (extract_lets +onlyGivenNames x; refine (fun (hx : Keeps a x) => ?_) ?_; rotate_left; simp only [x])
    | (extract_lets +onlyGivenNames x; clear_value x)
    | extract_lets +onlyGivenNames x
    | split
    | (simp only [keeps_mk]; refine KeepsMk.same rfl ?_ rfl rfl rfl rfl rfl rfl rfl rfl rfl rfl rfl)

/-- What `State.countSamples` keeps. -/
theorem State.countSamples_keeps {a s : State} (h : Keeps a s) :
    Keeps a (State.countSamples s) := by
  unfold State.countSamples
  repeat'
    first
    | with_reducible assumption
    | (extract_lets +onlyGivenNames x; refine (fun (hx : Keeps a x) => ?_) ?_; clear_value x; rotate_left; simp only [x])
    | (extract_lets +onlyGivenNames x; refine (fun (hx : Keeps a x) => ?_) ?_; rotate_left; simp only [x])
    | (extract_lets +onlyGivenNames x; clear_value x)
    | extract_lets +onlyGivenNames x
    | split
    | (simp only [keeps_mk]; refine KeepsMk.same rfl ?_ rfl rfl rfl rfl rfl rfl rfl rfl rfl rfl rfl)

/-- What `State.formTj` keeps. -/
theorem State.formTj_keeps {a s : State} (h : Keeps a s) (readings : List SensorReading) :
    Keeps a (State.formTj s readings) := by
  unfold State.formTj
  repeat'
    first
    | with_reducible assumption
    | (extract_lets +onlyGivenNames x; refine (fun (hx : Keeps a x) => ?_) ?_; clear_value x; rotate_left; simp only [x])
    | (extract_lets +onlyGivenNames x; refine (fun (hx : Keeps a x) => ?_) ?_; rotate_left; simp only [x])
    | (extract_lets +onlyGivenNames x; clear_value x)
    | extract_lets +onlyGivenNames x
    | (simp only [keeps_mk]; refine KeepsMk.same rfl ?_ rfl rfl rfl rfl rfl rfl rfl rfl rfl rfl rfl)

/-- What `State.sampled` keeps. -/
theorem State.sampled_keeps {a s : State} (h : Keeps a s) (readings : List SensorReading) :
    Keeps a (State.sampled s readings) := by
  unfold State.sampled
  repeat'
    first
    | with_reducible assumption
    | with_reducible refine State.countSamples_keeps ?_
    | with_reducible refine State.halveClock_keeps ?_
    | with_reducible refine State.thermWarn_keeps ?_
    | with_reducible refine State.formTj_keeps ?_ _
    | with_reducible refine State.logSensors_keeps ?_ _ _

/-- What `State.setReleased` keeps. -/
theorem State.setReleased_keeps {a s : State} (h : Keeps a s) (l : List Nat) :
    Keeps a (State.setReleased s l) := by
  unfold State.setReleased
  repeat'
    first
    | with_reducible assumption
    | (extract_lets +onlyGivenNames x; refine (fun (hx : Keeps a x) => ?_) ?_; clear_value x; rotate_left; simp only [x])
    | (extract_lets +onlyGivenNames x; refine (fun (hx : Keeps a x) => ?_) ?_; rotate_left; simp only [x])
    | (extract_lets +onlyGivenNames x; clear_value x)
    | extract_lets +onlyGivenNames x
    | (simp only [keeps_mk]; refine KeepsMk.same rfl ?_ rfl rfl rfl rfl rfl rfl rfl rfl rfl rfl rfl)

/-- What `State.returnReleased` keeps. -/
theorem State.returnReleased_keeps {a s : State} (h : Keeps a s) (n : Nat) (rest : List Nat) :
    Keeps a (State.returnReleased s n rest) := by
  unfold State.returnReleased
  repeat'
    first
    | with_reducible assumption
    | with_reducible refine State.settle_keeps ?_
    | with_reducible refine State.returnCore_keeps ?_ _
    | with_reducible refine State.setReleased_keeps ?_ _
    | split

/-- What `State.splitEnergy` keeps. -/
theorem State.splitEnergy_keeps {a s : State} (h : Keeps a s) (d : Nat) (e : Nat) (busy : List (Nat × Nat)) :
    Keeps a (State.splitEnergy s d e busy) := by
  unfold State.splitEnergy
  repeat'
    first
    | with_reducible assumption
    | with_reducible refine Keeps.fold ?_ _ (fun _ _ _ => ?_) _
    | with_reducible refine State.charge_keeps ?_ _ _ _
    | (extract_lets +onlyGivenNames x; refine (fun (hx : Keeps a x) => ?_) ?_; clear_value x; rotate_left; simp only [x])
    | (extract_lets +onlyGivenNames x; refine (fun (hx : Keeps a x) => ?_) ?_; rotate_left; simp only [x])
    | (extract_lets +onlyGivenNames x; refine (fun (hx : Keeps a x.1) => ?_) ?_; clear_value x; rotate_left; simp only [x])
    | (extract_lets +onlyGivenNames x; refine (fun (hx : Keeps a x.1) => ?_) ?_; rotate_left; simp only [x])
    | (extract_lets +onlyGivenNames x; clear_value x)
    | extract_lets +onlyGivenNames x
    | split

/-- What `State.addEnergy` keeps. -/
theorem State.addEnergy_keeps {a s : State} (h : Keeps a s) (energy : List Nat) :
    Keeps a (State.addEnergy s energy) := by
  unfold State.addEnergy
  repeat'
    first
    | with_reducible assumption
    | with_reducible refine Keeps.fold ?_ _ (fun _ _ _ => ?_) _
    | (extract_lets +onlyGivenNames x; refine (fun (hx : Keeps a x) => ?_) ?_; clear_value x; rotate_left; simp only [x])
    | (extract_lets +onlyGivenNames x; refine (fun (hx : Keeps a x) => ?_) ?_; rotate_left; simp only [x])
    | (extract_lets +onlyGivenNames x; clear_value x)
    | extract_lets +onlyGivenNames x
    | split
    | (simp only [keeps_mk]; refine KeepsMk.same rfl ?_ rfl rfl rfl rfl rfl rfl rfl rfl rfl rfl rfl)

/-- What `State.powerLimit` keeps. -/
theorem State.powerLimit_keeps {a s : State} (h : Keeps a s) (total : Nat) :
    Keeps a (State.powerLimit s total) := by
  unfold State.powerLimit
  repeat'
    first
    | with_reducible assumption
    | (extract_lets +onlyGivenNames x; refine (fun (hx : Keeps a x) => ?_) ?_; clear_value x; rotate_left; simp only [x])
    | (extract_lets +onlyGivenNames x; refine (fun (hx : Keeps a x) => ?_) ?_; rotate_left; simp only [x])
    | (extract_lets +onlyGivenNames x; clear_value x)
    | extract_lets +onlyGivenNames x
    | (simp only [keeps_mk]; refine KeepsMk.same rfl ?_ rfl rfl rfl rfl rfl rfl rfl rfl rfl rfl rfl)

/-- What `State.tickInterval` keeps. -/
theorem State.tickInterval_keeps {a s : State} (h : Keeps a s) :
    Keeps a (State.tickInterval s) := by
  unfold State.tickInterval
  repeat'
    first
    | with_reducible assumption
    | (extract_lets +onlyGivenNames x; refine (fun (hx : Keeps a x) => ?_) ?_; clear_value x; rotate_left; simp only [x])
    | (extract_lets +onlyGivenNames x; refine (fun (hx : Keeps a x) => ?_) ?_; rotate_left; simp only [x])
    | (extract_lets +onlyGivenNames x; have _g : Mgt := x)
    | (extract_lets +onlyGivenNames x; clear_value x)
    | extract_lets +onlyGivenNames x
    | split
    | (simp only [keeps_mk]; refine KeepsMk.same rfl ?_ rfl rfl rfl rfl rfl rfl rfl rfl rfl rfl rfl)

/-- What `State.fallAsleep` keeps. -/
theorem State.fallAsleep_keeps {a s : State} (h : Keeps a s) (d : Nat) :
    Keeps a (State.fallAsleep s d) := by
  unfold State.fallAsleep
  repeat'
    first
    | with_reducible assumption
    | with_reducible refine State.offLoss_keeps ?_ _
    | with_reducible refine State.setDom_keeps ?_ _ _
    | with_reducible refine State.sleepLoss_keeps ?_ _
    | (extract_lets +onlyGivenNames x; refine (fun (hx : Keeps a x) => ?_) ?_; clear_value x; rotate_left; simp only [x])
    | (extract_lets +onlyGivenNames x; refine (fun (hx : Keeps a x) => ?_) ?_; rotate_left; simp only [x])
    | (extract_lets +onlyGivenNames x; clear_value x)
    | extract_lets +onlyGivenNames x
    | split
    | (simp only [keeps_mk]; refine KeepsMk.same rfl ?_ rfl rfl rfl rfl rfl rfl rfl rfl rfl rfl rfl)

/-- What `State.regsReset` keeps. -/
theorem State.regsReset_keeps {a s : State} (h : Keeps a s) (d : Nat) :
    Keeps a (State.regsReset s d) := by
  unfold State.regsReset
  repeat'
    first
    | with_reducible assumption
    | with_reducible refine Keeps.fold ?_ _ (fun _ _ _ => ?_) _
    | with_reducible refine Keeps.ite ?_ ?_
    | with_reducible refine State.setChan_keeps ?_ _ _
    | with_reducible refine State.setCore_keeps ?_ _ _
    | with_reducible refine State.setCluster_keeps ?_ _ _
    | (extract_lets +onlyGivenNames x; refine (fun (hx : Keeps a x) => ?_) ?_; clear_value x; rotate_left; simp only [x])
    | (extract_lets +onlyGivenNames x; refine (fun (hx : Keeps a x) => ?_) ?_; rotate_left; simp only [x])
    | (extract_lets +onlyGivenNames x; clear_value x)
    | extract_lets +onlyGivenNames x
    | split
    | (simp only [keeps_mk]; refine KeepsMk.same rfl ?_ rfl rfl rfl rfl rfl rfl rfl rfl rfl rfl rfl)

/-- What `State.comeOn` keeps. -/
theorem State.comeOn_keeps {a s : State} (h : Keeps a s) (d : Nat) :
    Keeps a (State.comeOn s d) := by
  unfold State.comeOn
  repeat'
    first
    | with_reducible assumption
    | with_reducible refine Keeps.fold ?_ _ (fun _ _ _ => ?_) _
    | with_reducible refine State.regsReset_keeps ?_ _
    | with_reducible refine State.setDom_keeps ?_ _ _
    | with_reducible refine State.setChan_keeps ?_ _ _
    | with_reducible refine State.returnCore_keeps ?_ _
    | (extract_lets +onlyGivenNames x; refine (fun (hx : Keeps a x) => ?_) ?_; clear_value x; rotate_left; simp only [x])
    | (extract_lets +onlyGivenNames x; refine (fun (hx : Keeps a x) => ?_) ?_; rotate_left; simp only [x])
    | (extract_lets +onlyGivenNames x; clear_value x)
    | extract_lets +onlyGivenNames x
    | split
    | (simp only [keeps_mk]; refine KeepsMk.same rfl ?_ rfl rfl rfl rfl rfl rfl rfl rfl rfl rfl rfl)

/-- What `State.failWake` keeps. -/
theorem State.failWake_keeps {a0 s : State} (h0 : Keeps a0 s) (d : Nat) :
    Keeps a0 (State.failWake s d) := by
  unfold State.failWake
  repeat'
    first
    | with_reducible assumption
    | with_reducible refine Keeps.of_eq (by assumption) ?_
    | with_reducible refine State.setDom_keeps ?_ _ _
    | with_reducible refine State.releaseHeld_keeps ?_ _ _
    | (extract_lets +onlyGivenNames x; refine (fun (hx : Keeps a0 x) => ?_) ?_; clear_value x; rotate_left; simp only [x])
    | (extract_lets +onlyGivenNames x; refine (fun (hx : Keeps a0 x) => ?_) ?_; rotate_left; simp only [x])
    | (extract_lets +onlyGivenNames x; refine (fun (hx : Keeps a0 x.1) => ?_) ?_; clear_value x; rotate_left; simp only [x])
    | (extract_lets +onlyGivenNames x; refine (fun (hx : Keeps a0 x.1) => ?_) ?_; rotate_left; simp only [x])
    | (extract_lets +onlyGivenNames x; clear_value x)
    | extract_lets +onlyGivenNames x
    | split
    | dsimp only
    | (simp only [keeps_mk]; refine KeepsMk.same rfl ?_ rfl rfl rfl rfl rfl rfl rfl rfl rfl rfl rfl)

end Sys2Proof.Machine
end

