-- ==== Sys2Proof/Laws/KeepArbiter.lean ====
section
/-! SUPPORT. What the operations of Machine/Arbiter.lean keep, one lemma for each. -/

namespace Sys2Proof.Machine

set_option linter.unusedTactic false
set_option linter.unreachableTactic false
set_option linter.unusedVariables false
set_option linter.unusedSimpArgs false


/-- What `State.startBand` keeps. -/
theorem State.startBand_keeps {a s : State} (h : Keeps a s) (n : Nat) (l : Nat) :
    Keeps a (State.startBand s n l) := by
  unfold State.startBand
  repeat'
    first
    | with_reducible assumption
    | with_reducible refine State.setLane_keeps ?_ _
    | with_reducible refine State.setPage_keeps ?_ _ _
    | (extract_lets +onlyGivenNames x; refine (fun (hx : Keeps a x) => ?_) ?_; clear_value x; rotate_left; simp only [x])
    | (extract_lets +onlyGivenNames x; refine (fun (hx : Keeps a x) => ?_) ?_; rotate_left; simp only [x])
    | (extract_lets +onlyGivenNames x; clear_value x)
    | extract_lets +onlyGivenNames x
    | split
    | (simp only [keeps_mk]; refine KeepsMk.same rfl ?_ rfl rfl rfl rfl rfl rfl rfl rfl rfl rfl rfl)

/-- What `State.grant` keeps. -/
theorem State.grant_keeps {a0 s : State} (h0 : Keeps a0 s) (pool : Pool) (after : PoolState) (c : Nat × Nat) :
    Keeps a0 (State.grant s pool after c) := by
  unfold State.grant
  repeat'
    first
    | with_reducible assumption
    | with_reducible refine Keeps.of_eq (by assumption) ?_
    | with_reducible refine State.setPool_keeps ?_ _ _
    | with_reducible refine State.setCore_keeps ?_ _ _
    | with_reducible refine State.startBand_keeps ?_ _ _
    | (extract_lets +onlyGivenNames x; refine (fun (hx : Keeps a0 x) => ?_) ?_; clear_value x; rotate_left; simp only [x])
    | (extract_lets +onlyGivenNames x; refine (fun (hx : Keeps a0 x) => ?_) ?_; rotate_left; simp only [x])
    | (extract_lets +onlyGivenNames x; refine (fun (hx : Keeps a0 x.1) => ?_) ?_; clear_value x; rotate_left; simp only [x])
    | (extract_lets +onlyGivenNames x; refine (fun (hx : Keeps a0 x.1) => ?_) ?_; rotate_left; simp only [x])
    | (extract_lets +onlyGivenNames x; clear_value x)
    | extract_lets +onlyGivenNames x
    | split
    | dsimp only
    | (simp only [keeps_mk]; refine KeepsMk.same rfl ?_ rfl rfl rfl rfl rfl rfl rfl rfl rfl rfl rfl)

end Sys2Proof.Machine
end

