-- ==== Sys2Proof/Laws/KeepExec.lean ====
section
/-! SUPPORT. What each command keeps: one lemma a command, for the invariants of every step. -/

namespace Sys2Proof.Machine

set_option linter.unusedTactic false
set_option linter.unreachableTactic false
set_option linter.unusedVariables false
set_option linter.unusedSimpArgs false

/-- What `execUndefinedOpcode` keeps. -/
theorem execUndefinedOpcode_keeps {a s : State} (h : Keeps a s) (pk : Packet) :
    KeepsOut a (execUndefinedOpcode pk s) := by
  unfold execUndefinedOpcode
  repeat'
    first
    | with_reducible assumption
    | with_reducible refine State.runUndefined_keeps ?_ _
    | refine KeepsOut.next ?_

/-- What `execNop` keeps. -/
theorem execNop_keeps {a s : State} (h : Keeps a s) (pk : Packet) :
    KeepsOut a (execNop pk s) := by
  unfold execNop
  repeat'
    first
    | with_reducible assumption
    | with_reducible refine State.runPacket_keeps ?_ _ _ _
    | refine KeepsOut.next ?_

/-- What `execFunctionInfo` keeps. -/
theorem execFunctionInfo_keeps {a s : State} (h : Keeps a s) (pk : Packet) :
    KeepsOut a (execFunctionInfo pk s) := by
  unfold execFunctionInfo
  repeat'
    first
    | with_reducible assumption
    | with_reducible refine State.runPacket_keeps ?_ _ _ _
    | refine KeepsOut.next ?_

/-- What `execPartitionCreate` keeps. -/
theorem execPartitionCreate_keeps {a s : State} (h : Keeps a s) (pk : Packet) :
    KeepsOut a (execPartitionCreate pk s) := by
  unfold execPartitionCreate
  repeat'
    first
    | with_reducible assumption
    | with_reducible refine State.runPacket_keeps ?_ _ _ _
    | refine KeepsOut.next ?_

/-- What `execPartitionResize` keeps. -/
theorem execPartitionResize_keeps {a s : State} (h : Keeps a s) (pk : Packet) :
    KeepsOut a (execPartitionResize pk s) := by
  unfold execPartitionResize
  repeat'
    first
    | with_reducible assumption
    | with_reducible refine State.runPacket_keeps ?_ _ _ _
    | refine KeepsOut.next ?_

/-- What `execPartitionDestroy` keeps. -/
theorem execPartitionDestroy_keeps {a s : State} (h : Keeps a s) (pk : Packet) :
    KeepsOut a (execPartitionDestroy pk s) := by
  unfold execPartitionDestroy
  repeat'
    first
    | with_reducible assumption
    | with_reducible refine State.runPacket_keeps ?_ _ _ _
    | refine KeepsOut.next ?_

/-- What `execFolioLoad` keeps. -/
theorem execFolioLoad_keeps {a s : State} (h : Keeps a s) (pk : Packet) :
    KeepsOut a (execFolioLoad pk s) := by
  unfold execFolioLoad
  repeat'
    first
    | with_reducible assumption
    | with_reducible refine State.runPacket_keeps ?_ _ _ _
    | refine KeepsOut.next ?_

/-- What `execFolioUnload` keeps. -/
theorem execFolioUnload_keeps {a s : State} (h : Keeps a s) (pk : Packet) :
    KeepsOut a (execFolioUnload pk s) := by
  unfold execFolioUnload
  repeat'
    first
    | with_reducible assumption
    | with_reducible refine State.runPacket_keeps ?_ _ _ _
    | refine KeepsOut.next ?_

/-- What `execPipelineCreate` keeps. -/
theorem execPipelineCreate_keeps {a s : State} (h : Keeps a s) (pk : Packet) :
    KeepsOut a (execPipelineCreate pk s) := by
  unfold execPipelineCreate
  repeat'
    first
    | with_reducible assumption
    | with_reducible refine State.runPacket_keeps ?_ _ _ _
    | refine KeepsOut.next ?_

/-- What `execPipelineDestroy` keeps. -/
theorem execPipelineDestroy_keeps {a s : State} (h : Keeps a s) (pk : Packet) :
    KeepsOut a (execPipelineDestroy pk s) := by
  unfold execPipelineDestroy
  repeat'
    first
    | with_reducible assumption
    | with_reducible refine State.runPacket_keeps ?_ _ _ _
    | refine KeepsOut.next ?_

/-- What `execAccountRead` keeps. -/
theorem execAccountRead_keeps {a s : State} (h : Keeps a s) (pk : Packet) :
    KeepsOut a (execAccountRead pk s) := by
  unfold execAccountRead
  repeat'
    first
    | with_reducible assumption
    | with_reducible refine State.runPacket_keeps ?_ _ _ _
    | refine KeepsOut.next ?_

/-- What `execStreamOpen` keeps. -/
theorem execStreamOpen_keeps {a s : State} (h : Keeps a s) (pk : Packet) :
    KeepsOut a (execStreamOpen pk s) := by
  unfold execStreamOpen
  repeat'
    first
    | with_reducible assumption
    | with_reducible refine State.runPacket_keeps ?_ _ _ _
    | refine KeepsOut.next ?_

/-- What `execFeed` keeps. -/
theorem execFeed_keeps {a s : State} (h : Keeps a s) (pk : Packet) :
    KeepsOut a (execFeed pk s) := by
  unfold execFeed
  repeat'
    first
    | with_reducible assumption
    | with_reducible refine State.runPacket_keeps ?_ _ _ _
    | refine KeepsOut.next ?_

/-- What `execStreamFlush` keeps. -/
theorem execStreamFlush_keeps {a s : State} (h : Keeps a s) (pk : Packet) :
    KeepsOut a (execStreamFlush pk s) := by
  unfold execStreamFlush
  repeat'
    first
    | with_reducible assumption
    | with_reducible refine State.runPacket_keeps ?_ _ _ _
    | refine KeepsOut.next ?_

/-- What `execStreamReset` keeps. -/
theorem execStreamReset_keeps {a s : State} (h : Keeps a s) (pk : Packet) :
    KeepsOut a (execStreamReset pk s) := by
  unfold execStreamReset
  repeat'
    first
    | with_reducible assumption
    | with_reducible refine State.runPacket_keeps ?_ _ _ _
    | refine KeepsOut.next ?_

/-- What `execStreamClose` keeps. -/
theorem execStreamClose_keeps {a s : State} (h : Keeps a s) (pk : Packet) :
    KeepsOut a (execStreamClose pk s) := by
  unfold execStreamClose
  repeat'
    first
    | with_reducible assumption
    | with_reducible refine State.runPacket_keeps ?_ _ _ _
    | refine KeepsOut.next ?_

/-- What `execSnapshot` keeps. -/
theorem execSnapshot_keeps {a s : State} (h : Keeps a s) (pk : Packet) :
    KeepsOut a (execSnapshot pk s) := by
  unfold execSnapshot
  repeat'
    first
    | with_reducible assumption
    | with_reducible refine State.runPacket_keeps ?_ _ _ _
    | refine KeepsOut.next ?_

/-- What `execClipStart` keeps. -/
theorem execClipStart_keeps {a s : State} (h : Keeps a s) (pk : Packet) :
    KeepsOut a (execClipStart pk s) := by
  unfold execClipStart
  repeat'
    first
    | with_reducible assumption
    | with_reducible refine State.runPacket_keeps ?_ _ _ _
    | refine KeepsOut.next ?_

/-- What `execClipStop` keeps. -/
theorem execClipStop_keeps {a s : State} (h : Keeps a s) (pk : Packet) :
    KeepsOut a (execClipStop pk s) := by
  unfold execClipStop
  repeat'
    first
    | with_reducible assumption
    | with_reducible refine State.runPacket_keeps ?_ _ _ _
    | refine KeepsOut.next ?_

/-- What `execEncodeKey` keeps. -/
theorem execEncodeKey_keeps {a s : State} (h : Keeps a s) (pk : Packet) :
    KeepsOut a (execEncodeKey pk s) := by
  unfold execEncodeKey
  repeat'
    first
    | with_reducible assumption
    | with_reducible refine State.runPacket_keeps ?_ _ _ _
    | refine KeepsOut.next ?_

/-- What `execPageSourceOpen` keeps. -/
theorem execPageSourceOpen_keeps {a s : State} (h : Keeps a s) (pk : Packet) :
    KeepsOut a (execPageSourceOpen pk s) := by
  unfold execPageSourceOpen
  repeat'
    first
    | with_reducible assumption
    | with_reducible refine State.runPacket_keeps ?_ _ _ _
    | refine KeepsOut.next ?_

/-- What `execSubmitPage` keeps. -/
theorem execSubmitPage_keeps {a s : State} (h : Keeps a s) (pk : Packet) :
    KeepsOut a (execSubmitPage pk s) := by
  unfold execSubmitPage
  repeat'
    first
    | with_reducible assumption
    | with_reducible refine State.runPacket_keeps ?_ _ _ _
    | refine KeepsOut.next ?_

/-- What `execPageSourceClose` keeps. -/
theorem execPageSourceClose_keeps {a s : State} (h : Keeps a s) (pk : Packet) :
    KeepsOut a (execPageSourceClose pk s) := by
  unfold execPageSourceClose
  repeat'
    first
    | with_reducible assumption
    | with_reducible refine State.runPacket_keeps ?_ _ _ _
    | refine KeepsOut.next ?_

/-- What `execTextTableLoad` keeps. -/
theorem execTextTableLoad_keeps {a s : State} (h : Keeps a s) (pk : Packet) :
    KeepsOut a (execTextTableLoad pk s) := by
  unfold execTextTableLoad
  repeat'
    first
    | with_reducible assumption
    | with_reducible refine State.runPacket_keeps ?_ _ _ _
    | refine KeepsOut.next ?_

/-- What `execTextTableUnload` keeps. -/
theorem execTextTableUnload_keeps {a s : State} (h : Keeps a s) (pk : Packet) :
    KeepsOut a (execTextTableUnload pk s) := by
  unfold execTextTableUnload
  repeat'
    first
    | with_reducible assumption
    | with_reducible refine State.runPacket_keeps ?_ _ _ _
    | refine KeepsOut.next ?_

/-- What `execTokenizeOpen` keeps. -/
theorem execTokenizeOpen_keeps {a s : State} (h : Keeps a s) (pk : Packet) :
    KeepsOut a (execTokenizeOpen pk s) := by
  unfold execTokenizeOpen
  repeat'
    first
    | with_reducible assumption
    | with_reducible refine State.runPacket_keeps ?_ _ _ _
    | refine KeepsOut.next ?_

/-- What `execTokenizeFeed` keeps. -/
theorem execTokenizeFeed_keeps {a s : State} (h : Keeps a s) (pk : Packet) :
    KeepsOut a (execTokenizeFeed pk s) := by
  unfold execTokenizeFeed
  repeat'
    first
    | with_reducible assumption
    | with_reducible refine State.runPacket_keeps ?_ _ _ _
    | refine KeepsOut.next ?_

/-- What `execTokenizeClose` keeps. -/
theorem execTokenizeClose_keeps {a s : State} (h : Keeps a s) (pk : Packet) :
    KeepsOut a (execTokenizeClose pk s) := by
  unfold execTokenizeClose
  repeat'
    first
    | with_reducible assumption
    | with_reducible refine State.runPacket_keeps ?_ _ _ _
    | refine KeepsOut.next ?_

/-- What `execSyncSignal` keeps. -/
theorem execSyncSignal_keeps {a s : State} (h : Keeps a s) (pk : Packet) :
    KeepsOut a (execSyncSignal pk s) := by
  unfold execSyncSignal
  repeat'
    first
    | with_reducible assumption
    | with_reducible refine State.runPacket_keeps ?_ _ _ _
    | refine KeepsOut.next ?_

/-- What `execSyncWait` keeps. -/
theorem execSyncWait_keeps {a s : State} (h : Keeps a s) (pk : Packet) :
    KeepsOut a (execSyncWait pk s) := by
  unfold execSyncWait
  repeat'
    first
    | with_reducible assumption
    | with_reducible refine State.runPacket_keeps ?_ _ _ _
    | refine KeepsOut.next ?_

/-- What `execSyncRead` keeps. -/
theorem execSyncRead_keeps {a s : State} (h : Keeps a s) (pk : Packet) :
    KeepsOut a (execSyncRead pk s) := by
  unfold execSyncRead
  repeat'
    first
    | with_reducible assumption
    | with_reducible refine State.runPacket_keeps ?_ _ _ _
    | refine KeepsOut.next ?_

/-- What `execBinFree` keeps. -/
theorem execBinFree_keeps {a s : State} (h : Keeps a s) (pk : Packet) :
    KeepsOut a (execBinFree pk s) := by
  unfold execBinFree
  repeat'
    first
    | with_reducible assumption
    | with_reducible refine State.runPacket_keeps ?_ _ _ _
    | refine KeepsOut.next ?_

/-- What `execBinShare` keeps. -/
theorem execBinShare_keeps {a s : State} (h : Keeps a s) (pk : Packet) :
    KeepsOut a (execBinShare pk s) := by
  unfold execBinShare
  repeat'
    first
    | with_reducible assumption
    | with_reducible refine State.runPacket_keeps ?_ _ _ _
    | refine KeepsOut.next ?_

/-- What `execBinCount` keeps. -/
theorem execBinCount_keeps {a s : State} (h : Keeps a s) (pk : Packet) :
    KeepsOut a (execBinCount pk s) := by
  unfold execBinCount
  repeat'
    first
    | with_reducible assumption
    | with_reducible refine State.runPacket_keeps ?_ _ _ _
    | refine KeepsOut.next ?_

/-- What `execBinTake` keeps. -/
theorem execBinTake_keeps {a s : State} (h : Keeps a s) (pk : Packet) :
    KeepsOut a (execBinTake pk s) := by
  unfold execBinTake
  repeat'
    first
    | with_reducible assumption
    | with_reducible refine State.runPacket_keeps ?_ _ _ _
    | refine KeepsOut.next ?_

/-- What `execDmaIn` keeps. -/
theorem execDmaIn_keeps {a s : State} (h : Keeps a s) (pk : Packet) :
    KeepsOut a (execDmaIn pk s) := by
  unfold execDmaIn
  repeat'
    first
    | with_reducible assumption
    | with_reducible refine State.runPacket_keeps ?_ _ _ _
    | refine KeepsOut.next ?_

/-- What `execDmaOut` keeps. -/
theorem execDmaOut_keeps {a s : State} (h : Keeps a s) (pk : Packet) :
    KeepsOut a (execDmaOut pk s) := by
  unfold execDmaOut
  repeat'
    first
    | with_reducible assumption
    | with_reducible refine State.runPacket_keeps ?_ _ _ _
    | refine KeepsOut.next ?_

/-- What `execHostDmaDone` keeps. -/
theorem execHostDmaDone_keeps {a s : State} (h : Keeps a s) (id : Nat) (data : List Byte) :
    KeepsOut a (execHostDmaDone id data s) := by
  unfold execHostDmaDone
  repeat'
    first
    | with_reducible assumption
    | with_reducible refine State.readOwed_keeps ?_ _
    | with_reducible refine State.settle_keeps ?_
    | with_reducible refine State.packetDone_keeps ?_ _ _
    | with_reducible refine State.chargeHost_keeps ?_ _
    | refine KeepsOut.next ?_
    | (extract_lets +onlyGivenNames x; refine (fun (hx : Keeps a x) => ?_) ?_; clear_value x; rotate_left; simp only [x])
    | (extract_lets +onlyGivenNames x; refine (fun (hx : Keeps a x) => ?_) ?_; rotate_left; simp only [x])
    | (extract_lets +onlyGivenNames x; clear_value x)
    | extract_lets +onlyGivenNames x
    | split
    | (simp only [keeps_mk]; refine KeepsMk.same rfl ?_ rfl rfl rfl rfl rfl rfl rfl rfl rfl rfl rfl)

/-- What `execHostDmaError` keeps. -/
theorem execHostDmaError_keeps {a s : State} (h : Keeps a s) (target : DmaTarget) :
    KeepsOut a (execHostDmaError target s) := by
  unfold execHostDmaError
  repeat'
    first
    | with_reducible assumption
    | with_reducible refine State.readOwed_keeps ?_ _
    | with_reducible refine State.dmaFault_keeps ?_ _
    | refine KeepsOut.next ?_
    | (extract_lets +onlyGivenNames x; refine (fun (hx : Keeps a x) => ?_) ?_; clear_value x; rotate_left; simp only [x])
    | (extract_lets +onlyGivenNames x; refine (fun (hx : Keeps a x) => ?_) ?_; rotate_left; simp only [x])
    | (extract_lets +onlyGivenNames x; clear_value x)
    | extract_lets +onlyGivenNames x
    | split
    | (simp only [keeps_mk]; refine KeepsMk.same rfl ?_ rfl rfl rfl rfl rfl rfl rfl rfl rfl rfl rfl)

/-- What `execHeaderWaitTimeout` keeps. -/
theorem execHeaderWaitTimeout_keeps {a s : State} (h : Keeps a s) (fn : Fin 9) (ring : Fin 64) (signals : List Signal) :
    KeepsOut a (execHeaderWaitTimeout fn ring signals s) := by
  unfold execHeaderWaitTimeout
  repeat'
    first
    | with_reducible assumption
    | with_reducible refine State.expire_keeps ?_ _ _ _ _
    | refine KeepsOut.next ?_
    | (extract_lets +onlyGivenNames x; refine (fun (hx : Keeps a x) => ?_) ?_; clear_value x; rotate_left; simp only [x])
    | (extract_lets +onlyGivenNames x; refine (fun (hx : Keeps a x) => ?_) ?_; rotate_left; simp only [x])
    | (extract_lets +onlyGivenNames x; clear_value x)
    | extract_lets +onlyGivenNames x
    | split
    | (simp only [keeps_mk]; refine KeepsMk.same rfl ?_ rfl rfl rfl rfl rfl rfl rfl rfl rfl rfl rfl)

/-- What `execSyncWaitTimeout` keeps. -/
theorem execSyncWaitTimeout_keeps {a s : State} (h : Keeps a s) (id : Nat) (signals : List Signal) :
    KeepsOut a (execSyncWaitTimeout id signals s) := by
  unfold execSyncWaitTimeout
  repeat'
    first
    | with_reducible assumption
    | with_reducible refine State.expire_keeps ?_ _ _ _ _
    | refine KeepsOut.next ?_
    | (extract_lets +onlyGivenNames x; refine (fun (hx : Keeps a x) => ?_) ?_; clear_value x; rotate_left; simp only [x])
    | (extract_lets +onlyGivenNames x; refine (fun (hx : Keeps a x) => ?_) ?_; rotate_left; simp only [x])
    | (extract_lets +onlyGivenNames x; clear_value x)
    | extract_lets +onlyGivenNames x
    | split
    | (simp only [keeps_mk]; refine KeepsMk.same rfl ?_ rfl rfl rfl rfl rfl rfl rfl rfl rfl rfl rfl)

/-- What `execDoorbell` keeps. -/
theorem execDoorbell_keeps {a s : State} (h : Keeps a s) (fn : Fin 9) (ring : Fin 64) (tail : BitVec 32) :
    KeepsOut a (execDoorbell fn ring tail s) := by
  unfold execDoorbell
  repeat'
    first
    | with_reducible assumption
    | with_reducible refine State.tlp_keeps ?_
    | with_reducible refine State.setRing_keeps ?_ _ _ _
    | with_reducible refine State.wake_keeps ?_ _
    | with_reducible refine State.ringFault_keeps ?_ _ _ _
    | refine KeepsOut.next ?_
    | (extract_lets +onlyGivenNames x; refine (fun (hx : Keeps a x) => ?_) ?_; clear_value x; rotate_left; simp only [x])
    | (extract_lets +onlyGivenNames x; refine (fun (hx : Keeps a x) => ?_) ?_; rotate_left; simp only [x])
    | (extract_lets +onlyGivenNames x; clear_value x)
    | extract_lets +onlyGivenNames x
    | split
    | (simp only [keeps_mk]; refine KeepsMk.same rfl ?_ rfl rfl rfl rfl rfl rfl rfl rfl rfl rfl rfl)

/-- What `execRingEnable` keeps. -/
theorem execRingEnable_keeps {a s : State} (h : Keeps a s) (fn : Fin 9) (ring : Fin 64) (ctrl : BitVec 32) :
    KeepsOut a (execRingEnable fn ring ctrl s) := by
  unfold execRingEnable
  repeat'
    first
    | with_reducible assumption
    | with_reducible refine State.tlp_keeps ?_
    | with_reducible refine State.ringFault_keeps ?_ _ _ _
    | with_reducible refine State.setRing_keeps ?_ _ _ _
    | refine KeepsOut.next ?_
    | (extract_lets +onlyGivenNames x; refine (fun (hx : Keeps a x) => ?_) ?_; clear_value x; rotate_left; simp only [x])
    | (extract_lets +onlyGivenNames x; refine (fun (hx : Keeps a x) => ?_) ?_; rotate_left; simp only [x])
    | (extract_lets +onlyGivenNames x; clear_value x)
    | extract_lets +onlyGivenNames x
    | split
    | (simp only [keeps_mk]; refine KeepsMk.same rfl ?_ rfl rfl rfl rfl rfl rfl rfl rfl rfl rfl rfl)

/-- What `execRingDisable` keeps. -/
theorem execRingDisable_keeps {a s : State} (h : Keeps a s) (fn : Fin 9) (ring : Fin 64) (ctrl : BitVec 32) :
    KeepsOut a (execRingDisable fn ring ctrl s) := by
  unfold execRingDisable
  repeat'
    first
    | with_reducible assumption
    | with_reducible refine State.tlp_keeps ?_
    | with_reducible refine State.setRing_keeps ?_ _ _ _
    | refine KeepsOut.next ?_
    | (extract_lets +onlyGivenNames x; refine (fun (hx : Keeps a x) => ?_) ?_; clear_value x; rotate_left; simp only [x])
    | (extract_lets +onlyGivenNames x; refine (fun (hx : Keeps a x) => ?_) ?_; rotate_left; simp only [x])
    | (extract_lets +onlyGivenNames x; clear_value x)
    | extract_lets +onlyGivenNames x
    | split
    | (simp only [keeps_mk]; refine KeepsMk.same rfl ?_ rfl rfl rfl rfl rfl rfl rfl rfl rfl rfl rfl)

/-- What `execReplyHeadWrite` keeps. -/
theorem execReplyHeadWrite_keeps {a s : State} (h : Keeps a s) (fn : Fin 9) (ring : Fin 64) (head : BitVec 32) :
    KeepsOut a (execReplyHeadWrite fn ring head s) := by
  unfold execReplyHeadWrite
  repeat'
    first
    | with_reducible assumption
    | with_reducible refine State.tlp_keeps ?_
    | with_reducible refine State.setRing_keeps ?_ _ _ _
    | refine KeepsOut.next ?_
    | (extract_lets +onlyGivenNames x; refine (fun (hx : Keeps a x) => ?_) ?_; clear_value x; rotate_left; simp only [x])
    | (extract_lets +onlyGivenNames x; refine (fun (hx : Keeps a x) => ?_) ?_; rotate_left; simp only [x])
    | (extract_lets +onlyGivenNames x; clear_value x)
    | extract_lets +onlyGivenNames x
    | split
    | (simp only [keeps_mk]; refine KeepsMk.same rfl ?_ rfl rfl rfl rfl rfl rfl rfl rfl rfl rfl rfl)

/-- What `execResultRingEnable` keeps. -/
theorem execResultRingEnable_keeps {a s : State} (h : Keeps a s) (fn : Fin 9) (ctrl : BitVec 32) :
    KeepsOut a (execResultRingEnable fn ctrl s) := by
  unfold execResultRingEnable
  repeat'
    first
    | with_reducible assumption
    | with_reducible refine State.tlp_keeps ?_
    | with_reducible refine State.setRes_keeps ?_ _ _
    | with_reducible refine State.ringFault_keeps ?_ _ _ _
    | refine KeepsOut.next ?_
    | (extract_lets +onlyGivenNames x; refine (fun (hx : Keeps a x) => ?_) ?_; clear_value x; rotate_left; simp only [x])
    | (extract_lets +onlyGivenNames x; refine (fun (hx : Keeps a x) => ?_) ?_; rotate_left; simp only [x])
    | (extract_lets +onlyGivenNames x; clear_value x)
    | extract_lets +onlyGivenNames x
    | split
    | (simp only [keeps_mk]; refine KeepsMk.same rfl ?_ rfl rfl rfl rfl rfl rfl rfl rfl rfl rfl rfl)

/-- What `execResultRingDisable` keeps. -/
theorem execResultRingDisable_keeps {a0 s : State} (h0 : Keeps a0 s) (fn : Fin 9) (ctrl : BitVec 32) :
    KeepsOut a0 (execResultRingDisable fn ctrl s) := by
  unfold execResultRingDisable
  repeat'
    first
    | with_reducible assumption
    | with_reducible refine Keeps.of_eq (by assumption) ?_
    | with_reducible refine State.tlp_keeps ?_
    | with_reducible refine State.setRes_keeps ?_ _ _
    | refine KeepsOut.next ?_
    | (extract_lets +onlyGivenNames x; refine (fun (hx : Keeps a0 x) => ?_) ?_; clear_value x; rotate_left; simp only [x])
    | (extract_lets +onlyGivenNames x; refine (fun (hx : Keeps a0 x) => ?_) ?_; rotate_left; simp only [x])
    | (extract_lets +onlyGivenNames x; refine (fun (hx : Keeps a0 x.1) => ?_) ?_; clear_value x; rotate_left; simp only [x])
    | (extract_lets +onlyGivenNames x; refine (fun (hx : Keeps a0 x.1) => ?_) ?_; rotate_left; simp only [x])
    | (extract_lets +onlyGivenNames x; clear_value x)
    | extract_lets +onlyGivenNames x
    | split
    | dsimp only
    | (simp only [keeps_mk]; refine KeepsMk.same rfl ?_ rfl rfl rfl rfl rfl rfl rfl rfl rfl rfl rfl)

/-- What `execResultHeadWrite` keeps. -/
theorem execResultHeadWrite_keeps {a s : State} (h : Keeps a s) (fn : Fin 9) (head : BitVec 32) :
    KeepsOut a (execResultHeadWrite fn head s) := by
  unfold execResultHeadWrite
  repeat'
    first
    | with_reducible assumption
    | with_reducible refine State.tlp_keeps ?_
    | with_reducible refine State.setRes_keeps ?_ _ _
    | with_reducible refine State.ringFault_keeps ?_ _ _ _
    | refine KeepsOut.next ?_
    | (extract_lets +onlyGivenNames x; refine (fun (hx : Keeps a x) => ?_) ?_; clear_value x; rotate_left; simp only [x])
    | (extract_lets +onlyGivenNames x; refine (fun (hx : Keeps a x) => ?_) ?_; rotate_left; simp only [x])
    | (extract_lets +onlyGivenNames x; clear_value x)
    | extract_lets +onlyGivenNames x
    | split
    | (simp only [keeps_mk]; refine KeepsMk.same rfl ?_ rfl rfl rfl rfl rfl rfl rfl rfl rfl rfl rfl)

/-- What `execRecordCommit` keeps. -/
theorem execRecordCommit_keeps {a0 s : State} (h0 : Keeps a0 s) (fn : Fin 9) (producer : Producer) (type : Byte) (prio : Fin 4) (body : List Byte) :
    KeepsOut a0 (execRecordCommit fn producer type prio body s) := by
  unfold execRecordCommit
  repeat'
    first
    | with_reducible assumption
    | with_reducible refine Keeps.of_eq (by assumption) ?_
    | with_reducible refine State.commit_keeps ?_ _ _
    | refine KeepsOut.next ?_
    | (extract_lets +onlyGivenNames x; refine (fun (hx : Keeps a0 x) => ?_) ?_; clear_value x; rotate_left; simp only [x])
    | (extract_lets +onlyGivenNames x; refine (fun (hx : Keeps a0 x) => ?_) ?_; rotate_left; simp only [x])
    | (extract_lets +onlyGivenNames x; refine (fun (hx : Keeps a0 x.1) => ?_) ?_; clear_value x; rotate_left; simp only [x])
    | (extract_lets +onlyGivenNames x; refine (fun (hx : Keeps a0 x.1) => ?_) ?_; rotate_left; simp only [x])
    | (extract_lets +onlyGivenNames x; clear_value x)
    | extract_lets +onlyGivenNames x
    | split
    | dsimp only
    | (simp only [keeps_mk]; refine KeepsMk.same rfl ?_ rfl rfl rfl rfl rfl rfl rfl rfl rfl rfl rfl)

/-- What `execRecordDrain` keeps. -/
theorem execRecordDrain_keeps {a s : State} (h : Keeps a s) (fn : Fin 9) (badWord : Option (Fin 136)) (descriptorBad : Bool) :
    KeepsOut a (execRecordDrain fn badWord descriptorBad s) := by
  unfold execRecordDrain
  repeat'
    first
    | with_reducible assumption
    | with_reducible refine State.settle_keeps ?_
    | with_reducible refine State.setRes_keeps ?_ _ _
    | with_reducible refine State.drainFront_keeps ?_ _ _
    | refine KeepsOut.next ?_
    | (extract_lets +onlyGivenNames x; refine (fun (hx : Keeps a x) => ?_) ?_; clear_value x; rotate_left; simp only [x])
    | (extract_lets +onlyGivenNames x; refine (fun (hx : Keeps a x) => ?_) ?_; rotate_left; simp only [x])
    | (extract_lets +onlyGivenNames x; clear_value x)
    | extract_lets +onlyGivenNames x
    | split
    | (simp only [keeps_mk]; refine KeepsMk.same rfl ?_ rfl rfl rfl rfl rfl rfl rfl rfl rfl rfl rfl)

/-- What `execResultIrqDelay` keeps. -/
theorem execResultIrqDelay_keeps {a s : State} (h : Keeps a s) (fn : Fin 9) :
    KeepsOut a (execResultIrqDelay fn s) := by
  unfold execResultIrqDelay
  repeat'
    first
    | with_reducible assumption
    | with_reducible refine State.msix_keeps ?_ _ _
    | with_reducible refine State.setRes_keeps ?_ _ _
    | refine KeepsOut.next ?_
    | (extract_lets +onlyGivenNames x; refine (fun (hx : Keeps a x) => ?_) ?_; clear_value x; rotate_left; simp only [x])
    | (extract_lets +onlyGivenNames x; refine (fun (hx : Keeps a x) => ?_) ?_; rotate_left; simp only [x])
    | (extract_lets +onlyGivenNames x; clear_value x)
    | extract_lets +onlyGivenNames x
    | split
    | (simp only [keeps_mk]; refine KeepsMk.same rfl ?_ rfl rfl rfl rfl rfl rfl rfl rfl rfl rfl rfl)

/-- What `execWindowEntryWrite` keeps. -/
theorem execWindowEntryWrite_keeps {a s : State} (h : Keeps a s) (fn : Fin 9) (index : Fin 256) (access : WindowAccess) :
    KeepsOut a (execWindowEntryWrite fn index access s) := by
  unfold execWindowEntryWrite
  repeat'
    first
    | with_reducible assumption
    | with_reducible refine State.tlp_keeps ?_
    | refine KeepsOut.next ?_
    | (extract_lets +onlyGivenNames x; refine (fun (hx : Keeps a x) => ?_) ?_; clear_value x; rotate_left; simp only [x])
    | (extract_lets +onlyGivenNames x; refine (fun (hx : Keeps a x) => ?_) ?_; rotate_left; simp only [x])
    | (extract_lets +onlyGivenNames x; clear_value x)
    | extract_lets +onlyGivenNames x
    | split
    | (simp only [keeps_mk]; refine KeepsMk.same rfl ?_ rfl rfl rfl rfl rfl rfl rfl rfl rfl rfl rfl)

/-- What `execWindowRead` keeps. -/
theorem execWindowRead_keeps {a s : State} (h : Keeps a s) (fn : Fin 9) (offset : Nat) (len : Nat) :
    KeepsOut a (execWindowRead fn offset len s) := by
  unfold execWindowRead
  repeat'
    first
    | with_reducible assumption
    | with_reducible refine State.windowAccess_keeps ?_ _ _ _ _ _
    | with_reducible refine State.tlp_keeps ?_
    | refine KeepsOut.next ?_

/-- What `execWindowWrite` keeps. -/
theorem execWindowWrite_keeps {a s : State} (h : Keeps a s) (fn : Fin 9) (offset : Nat) (data : List Byte) :
    KeepsOut a (execWindowWrite fn offset data s) := by
  unfold execWindowWrite
  repeat'
    first
    | with_reducible assumption
    | with_reducible refine State.windowAccess_keeps ?_ _ _ _ _ _
    | with_reducible refine State.tlp_keeps ?_
    | refine KeepsOut.next ?_

/-- What `execAccessHoldTimeout` keeps. -/
theorem execAccessHoldTimeout_keeps {a s : State} (h : Keeps a s) :
    KeepsOut a (execAccessHoldTimeout s) := by
  unfold execAccessHoldTimeout
  repeat'
    first
    | with_reducible assumption
    | with_reducible refine State.failHeld_keeps ?_ _ _
    | refine KeepsOut.next ?_
    | (extract_lets +onlyGivenNames x; refine (fun (hx : Keeps a x) => ?_) ?_; clear_value x; rotate_left; simp only [x])
    | (extract_lets +onlyGivenNames x; refine (fun (hx : Keeps a x) => ?_) ?_; rotate_left; simp only [x])
    | (extract_lets +onlyGivenNames x; clear_value x)
    | extract_lets +onlyGivenNames x
    | split
    | (simp only [keeps_mk]; refine KeepsMk.same rfl ?_ rfl rfl rfl rfl rfl rfl rfl rfl rfl rfl rfl)

/-- What `execLatchedCounterRead` keeps. -/
theorem execLatchedCounterRead_keeps {a s : State} (h : Keeps a s) (addr : Nat) (high : Bool) :
    KeepsOut a (execLatchedCounterRead addr high s) := by
  unfold execLatchedCounterRead
  repeat'
    first
    | with_reducible assumption
    | with_reducible refine State.emit_keeps ?_ _
    | refine KeepsOut.next ?_
    | (extract_lets +onlyGivenNames x; refine (fun (hx : Keeps a x) => ?_) ?_; clear_value x; rotate_left; simp only [x])
    | (extract_lets +onlyGivenNames x; refine (fun (hx : Keeps a x) => ?_) ?_; rotate_left; simp only [x])
    | (extract_lets +onlyGivenNames x; clear_value x)
    | extract_lets +onlyGivenNames x
    | split
    | (simp only [keeps_mk]; refine KeepsMk.same rfl ?_ rfl rfl rfl rfl rfl rfl rfl rfl rfl rfl rfl)

/-- What `execRegisterWrite` keeps. -/
theorem execRegisterWrite_keeps {a s : State} (h : Keeps a s) (target : RegTarget) (value : BitVec 64) :
    KeepsOut a (execRegisterWrite target value s) := by
  unfold execRegisterWrite
  repeat'
    first
    | with_reducible assumption
    | with_reducible refine State.tlp_keeps ?_
    | with_reducible refine State.bar4Access_keeps ?_ _ _
    | with_reducible refine State.writeWord_keeps ?_ _ _ _ _
    | with_reducible refine State.setRing_keeps ?_ _ _ _
    | with_reducible refine State.setRes_keeps ?_ _ _
    | with_reducible refine State.settle_keeps ?_
    | with_reducible refine State.mailboxGo_keeps ?_ _ _
    | with_reducible refine State.writeMsix_keeps ?_ _ _ _ _
    | refine KeepsOut.next ?_
    | (extract_lets +onlyGivenNames x; refine (fun (hx : Keeps a x) => ?_) ?_; clear_value x; rotate_left; simp only [x])
    | (extract_lets +onlyGivenNames x; refine (fun (hx : Keeps a x) => ?_) ?_; rotate_left; simp only [x])
    | (extract_lets +onlyGivenNames x; have _g : Mgt := x)
    | (extract_lets +onlyGivenNames x; clear_value x)
    | extract_lets +onlyGivenNames x
    | split
    | (simp only [keeps_mk]; refine KeepsMk.same rfl ?_ rfl rfl rfl rfl rfl rfl rfl rfl rfl rfl rfl)

/-- What `execRcRegisterRead` keeps. -/
theorem execRcRegisterRead_keeps {a0 s : State} (h0 : Keeps a0 s) (path : ReadPath) (addr : Nat) :
    KeepsOut a0 (execRcRegisterRead path addr s) := by
  unfold execRcRegisterRead
  repeat'
    first
    | with_reducible assumption
    | with_reducible refine Keeps.of_eq (by assumption) ?_
    | with_reducible refine State.emit_keeps ?_ _
    | with_reducible refine State.clearRc_keeps ?_ _ _ _
    | with_reducible refine State.tlp_keeps ?_
    | with_reducible refine State.bar4Access_keeps ?_ _ _
    | with_reducible refine State.readWord_keeps ?_ _ _
    | with_reducible refine State.clearPage_keeps ?_ _ _
    | refine KeepsOut.next ?_
    | (extract_lets +onlyGivenNames x; refine (fun (hx : Keeps a0 x) => ?_) ?_; clear_value x; rotate_left; simp only [x])
    | (extract_lets +onlyGivenNames x; refine (fun (hx : Keeps a0 x) => ?_) ?_; rotate_left; simp only [x])
    | (extract_lets +onlyGivenNames x; refine (fun (hx : Keeps a0 x.1) => ?_) ?_; clear_value x; rotate_left; simp only [x])
    | (extract_lets +onlyGivenNames x; refine (fun (hx : Keeps a0 x.1) => ?_) ?_; rotate_left; simp only [x])
    | (extract_lets +onlyGivenNames x; clear_value x)
    | extract_lets +onlyGivenNames x
    | split
    | dsimp only
    | (simp only [keeps_mk]; refine KeepsMk.same rfl ?_ rfl rfl rfl rfl rfl rfl rfl rfl rfl rfl rfl)

/-- What `execIdentityStatus` keeps. -/
theorem execIdentityStatus_keeps {a s : State} (h : Keeps a s) (req : MgmtReq) :
    KeepsOut a (execIdentityStatus req s) := by
  unfold execIdentityStatus
  repeat'
    first
    | with_reducible assumption
    | with_reducible refine State.askOp_keeps ?_ _ _ _
    | refine KeepsOut.next ?_

/-- What `execLogRead` keeps. -/
theorem execLogRead_keeps {a s : State} (h : Keeps a s) (req : MgmtReq) :
    KeepsOut a (execLogRead req s) := by
  unfold execLogRead
  repeat'
    first
    | with_reducible assumption
    | with_reducible refine State.askOp_keeps ?_ _ _ _
    | refine KeepsOut.next ?_

/-- What `execSensorRead` keeps. -/
theorem execSensorRead_keeps {a s : State} (h : Keeps a s) (req : MgmtReq) :
    KeepsOut a (execSensorRead req s) := by
  unfold execSensorRead
  repeat'
    first
    | with_reducible assumption
    | with_reducible refine State.askOp_keeps ?_ _ _ _
    | refine KeepsOut.next ?_

/-- What `execFunctionReset` keeps. -/
theorem execFunctionReset_keeps {a s : State} (h : Keeps a s) (req : MgmtReq) :
    KeepsOut a (execFunctionReset req s) := by
  unfold execFunctionReset
  repeat'
    first
    | with_reducible assumption
    | with_reducible refine State.askOp_keeps ?_ _ _ _
    | refine KeepsOut.next ?_

/-- What `execComputeReset` keeps. -/
theorem execComputeReset_keeps {a s : State} (h : Keeps a s) (req : MgmtReq) :
    KeepsOut a (execComputeReset req s) := by
  unfold execComputeReset
  repeat'
    first
    | with_reducible assumption
    | with_reducible refine State.askOp_keeps ?_ _ _ _
    | refine KeepsOut.next ?_

/-- What `execDomainPowerOff` keeps. -/
theorem execDomainPowerOff_keeps {a s : State} (h : Keeps a s) (req : MgmtReq) :
    KeepsOut a (execDomainPowerOff req s) := by
  unfold execDomainPowerOff
  repeat'
    first
    | with_reducible assumption
    | with_reducible refine State.askOp_keeps ?_ _ _ _
    | refine KeepsOut.next ?_

/-- What `execDomainPowerOn` keeps. -/
theorem execDomainPowerOn_keeps {a s : State} (h : Keeps a s) (req : MgmtReq) :
    KeepsOut a (execDomainPowerOn req s) := by
  unfold execDomainPowerOn
  repeat'
    first
    | with_reducible assumption
    | with_reducible refine State.askOp_keeps ?_ _ _ _
    | refine KeepsOut.next ?_

/-- What `execForcedShutdown` keeps. -/
theorem execForcedShutdown_keeps {a s : State} (h : Keeps a s) (req : MgmtReq) :
    KeepsOut a (execForcedShutdown req s) := by
  unfold execForcedShutdown
  repeat'
    first
    | with_reducible assumption
    | with_reducible refine State.askOp_keeps ?_ _ _ _
    | refine KeepsOut.next ?_

/-- What `execResetPolicy` keeps. -/
theorem execResetPolicy_keeps {a s : State} (h : Keeps a s) (req : MgmtReq) :
    KeepsOut a (execResetPolicy req s) := by
  unfold execResetPolicy
  repeat'
    first
    | with_reducible assumption
    | with_reducible refine State.askOp_keeps ?_ _ _ _
    | refine KeepsOut.next ?_

/-- What `execDefectRead` keeps. -/
theorem execDefectRead_keeps {a s : State} (h : Keeps a s) (req : MgmtReq) :
    KeepsOut a (execDefectRead req s) := by
  unfold execDefectRead
  repeat'
    first
    | with_reducible assumption
    | with_reducible refine State.askOp_keeps ?_ _ _ _
    | refine KeepsOut.next ?_

/-- What `execStage` keeps. -/
theorem execStage_keeps {a s : State} (h : Keeps a s) (req : MgmtReq) :
    KeepsOut a (execStage req s) := by
  unfold execStage
  repeat'
    first
    | with_reducible assumption
    | with_reducible refine State.askOp_keeps ?_ _ _ _
    | refine KeepsOut.next ?_

/-- What `execActivate` keeps. -/
theorem execActivate_keeps {a s : State} (h : Keeps a s) (req : MgmtReq) :
    KeepsOut a (execActivate req s) := by
  unfold execActivate
  repeat'
    first
    | with_reducible assumption
    | with_reducible refine State.askOp_keeps ?_ _ _ _
    | refine KeepsOut.next ?_

/-- What `execCommitSvn` keeps. -/
theorem execCommitSvn_keeps {a s : State} (h : Keeps a s) (req : MgmtReq) :
    KeepsOut a (execCommitSvn req s) := by
  unfold execCommitSvn
  repeat'
    first
    | with_reducible assumption
    | with_reducible refine State.askOp_keeps ?_ _ _ _
    | refine KeepsOut.next ?_

/-- What `execBoardRecord` keeps. -/
theorem execBoardRecord_keeps {a s : State} (h : Keeps a s) (req : MgmtReq) :
    KeepsOut a (execBoardRecord req s) := by
  unfold execBoardRecord
  repeat'
    first
    | with_reducible assumption
    | with_reducible refine State.askOp_keeps ?_ _ _ _
    | refine KeepsOut.next ?_

/-- What `execKeyEnroll` keeps. -/
theorem execKeyEnroll_keeps {a s : State} (h : Keeps a s) (req : MgmtReq) :
    KeepsOut a (execKeyEnroll req s) := by
  unfold execKeyEnroll
  repeat'
    first
    | with_reducible assumption
    | with_reducible refine State.askOp_keeps ?_ _ _ _
    | refine KeepsOut.next ?_

/-- What `execKeyRemove` keeps. -/
theorem execKeyRemove_keeps {a s : State} (h : Keeps a s) (req : MgmtReq) :
    KeepsOut a (execKeyRemove req s) := by
  unfold execKeyRemove
  repeat'
    first
    | with_reducible assumption
    | with_reducible refine State.askOp_keeps ?_ _ _ _
    | refine KeepsOut.next ?_

/-- What `execAttest` keeps. -/
theorem execAttest_keeps {a s : State} (h : Keeps a s) (req : MgmtReq) :
    KeepsOut a (execAttest req s) := by
  unfold execAttest
  repeat'
    first
    | with_reducible assumption
    | with_reducible refine State.askOp_keeps ?_ _ _ _
    | refine KeepsOut.next ?_

/-- What `execCaskStatus` keeps. -/
theorem execCaskStatus_keeps {a s : State} (h : Keeps a s) (req : MgmtReq) :
    KeepsOut a (execCaskStatus req s) := by
  unfold execCaskStatus
  repeat'
    first
    | with_reducible assumption
    | with_reducible refine State.askOp_keeps ?_ _ _ _
    | refine KeepsOut.next ?_

/-- What `execCaskList` keeps. -/
theorem execCaskList_keeps {a s : State} (h : Keeps a s) (req : MgmtReq) :
    KeepsOut a (execCaskList req s) := by
  unfold execCaskList
  repeat'
    first
    | with_reducible assumption
    | with_reducible refine State.askOp_keeps ?_ _ _ _
    | refine KeepsOut.next ?_

/-- What `execCaskWrite` keeps. -/
theorem execCaskWrite_keeps {a s : State} (h : Keeps a s) (req : MgmtReq) :
    KeepsOut a (execCaskWrite req s) := by
  unfold execCaskWrite
  repeat'
    first
    | with_reducible assumption
    | with_reducible refine State.askOp_keeps ?_ _ _ _
    | refine KeepsOut.next ?_

/-- What `execCaskDelete` keeps. -/
theorem execCaskDelete_keeps {a s : State} (h : Keeps a s) (req : MgmtReq) :
    KeepsOut a (execCaskDelete req s) := by
  unfold execCaskDelete
  repeat'
    first
    | with_reducible assumption
    | with_reducible refine State.askOp_keeps ?_ _ _ _
    | refine KeepsOut.next ?_

/-- What `execPair` keeps. -/
theorem execPair_keeps {a s : State} (h : Keeps a s) (req : MgmtReq) :
    KeepsOut a (execPair req s) := by
  unfold execPair
  repeat'
    first
    | with_reducible assumption
    | with_reducible refine State.askOp_keeps ?_ _ _ _
    | refine KeepsOut.next ?_

/-- What `execUnpair` keeps. -/
theorem execUnpair_keeps {a s : State} (h : Keeps a s) (req : MgmtReq) :
    KeepsOut a (execUnpair req s) := by
  unfold execUnpair
  repeat'
    first
    | with_reducible assumption
    | with_reducible refine State.askOp_keeps ?_ _ _ _
    | refine KeepsOut.next ?_

/-- What `execMpOperationStep` keeps. -/
theorem execMpOperationStep_keeps {a s : State} (h : Keeps a s) :
    KeepsOut a (execMpOperationStep s) := by
  unfold execMpOperationStep
  repeat'
    first
    | with_reducible assumption
    | with_reducible refine State.settle_keeps ?_
    | with_reducible refine State.opTurn_keeps ?_
    | refine KeepsOut.next ?_

/-- What `execParamLo` keeps. -/
theorem execParamLo_keeps {a s : State} (h : Keeps a s) (pecOk : Bool) (data : List Byte) :
    KeepsOut a (execParamLo pecOk data s) := by
  unfold execParamLo
  repeat'
    first
    | with_reducible assumption
    | with_reducible refine State.sbCommand_keeps ?_ _ _ ?_
    | with_reducible refine State.sbParam_keeps ?_ _ _
    | refine KeepsOut.next ?_

/-- What `execParamHi` keeps. -/
theorem execParamHi_keeps {a s : State} (h : Keeps a s) (pecOk : Bool) (data : List Byte) :
    KeepsOut a (execParamHi pecOk data s) := by
  unfold execParamHi
  repeat'
    first
    | with_reducible assumption
    | with_reducible refine State.sbCommand_keeps ?_ _ _ ?_
    | with_reducible refine State.sbParam_keeps ?_ _ _
    | refine KeepsOut.next ?_

/-- What `execStatus` keeps. -/
theorem execStatus_keeps {a s : State} (h : Keeps a s) (pecOk : Bool) :
    KeepsOut a (execStatus pecOk s) := by
  unfold execStatus
  repeat'
    first
    | with_reducible assumption
    | with_reducible refine State.sbCommand_keeps ?_ _ _ ?_
    | with_reducible refine State.emit_keeps ?_ _
    | refine KeepsOut.next ?_

/-- What `execRespLo` keeps. -/
theorem execRespLo_keeps {a s : State} (h : Keeps a s) (pecOk : Bool) :
    KeepsOut a (execRespLo pecOk s) := by
  unfold execRespLo
  repeat'
    first
    | with_reducible assumption
    | with_reducible refine State.sbCommand_keeps ?_ _ _ ?_
    | with_reducible refine State.emit_keeps ?_ _
    | refine KeepsOut.next ?_

/-- What `execRespHi` keeps. -/
theorem execRespHi_keeps {a s : State} (h : Keeps a s) (pecOk : Bool) :
    KeepsOut a (execRespHi pecOk s) := by
  unfold execRespHi
  repeat'
    first
    | with_reducible assumption
    | with_reducible refine State.sbCommand_keeps ?_ _ _ ?_
    | with_reducible refine State.emit_keeps ?_ _
    | refine KeepsOut.next ?_

/-- What `execAlertAck` keeps. -/
theorem execAlertAck_keeps {a s : State} (h : Keeps a s) (pecOk : Bool) (value : Byte) :
    KeepsOut a (execAlertAck pecOk value s) := by
  unfold execAlertAck
  repeat'
    first
    | with_reducible assumption
    | with_reducible refine State.sbCommand_keeps ?_ _ _ ?_
    | refine KeepsOut.next ?_
    | (extract_lets +onlyGivenNames x; refine (fun (hx : Keeps a x) => ?_) ?_; clear_value x; rotate_left; simp only [x])
    | (extract_lets +onlyGivenNames x; refine (fun (hx : Keeps a x) => ?_) ?_; rotate_left; simp only [x])
    | (extract_lets +onlyGivenNames x; have _g : Mgt := x)
    | (extract_lets +onlyGivenNames x; clear_value x)
    | extract_lets +onlyGivenNames x
    | split
    | (simp only [keeps_mk]; refine KeepsMk.same rfl ?_ rfl rfl rfl rfl rfl rfl rfl rfl rfl rfl rfl)

/-- What `execPlacementDecision` keeps. -/
theorem execPlacementDecision_keeps {a0 s : State} (h0 : Keeps a0 s) (run : Nat) (quire : Nat) :
    KeepsOut a0 (execPlacementDecision run quire s) := by
  unfold execPlacementDecision
  repeat'
    first
    | with_reducible assumption
    | with_reducible refine Keeps.of_eq (by assumption) ?_
    | with_reducible refine State.failQuire_keeps ?_ _ _ _
    | with_reducible refine State.returnEmptied_keeps ?_
    | with_reducible refine State.runMoved_keeps ?_ _
    | with_reducible refine State.settle_keeps ?_
    | with_reducible refine State.place_keeps ?_ _ _ _ _
    | refine KeepsOut.next ?_
    | (extract_lets +onlyGivenNames x; refine (fun (hx : Keeps a0 x) => ?_) ?_; clear_value x; rotate_left; simp only [x])
    | (extract_lets +onlyGivenNames x; refine (fun (hx : Keeps a0 x) => ?_) ?_; rotate_left; simp only [x])
    | (extract_lets +onlyGivenNames x; refine (fun (hx : Keeps a0 x.1) => ?_) ?_; clear_value x; rotate_left; simp only [x])
    | (extract_lets +onlyGivenNames x; refine (fun (hx : Keeps a0 x.1) => ?_) ?_; rotate_left; simp only [x])
    | (extract_lets +onlyGivenNames x; clear_value x)
    | extract_lets +onlyGivenNames x
    | split
    | dsimp only
    | (simp only [keeps_mk]; refine KeepsMk.same rfl ?_ rfl rfl rfl rfl rfl rfl rfl rfl rfl rfl rfl)

/-- What `execQuireIssue` keeps. -/
theorem execQuireIssue_keeps {a0 s : State} (h0 : Keeps a0 s) (core : Fin 8) :
    KeepsOut a0 (execQuireIssue core s) := by
  unfold execQuireIssue
  repeat'
    first
    | with_reducible assumption
    | with_reducible refine Keeps.of_eq (by assumption) ?_
    | with_reducible refine State.wake_keeps ?_ _
    | with_reducible refine State.startQuire_keeps ?_ _
    | with_reducible refine State.settle_keeps ?_
    | with_reducible refine State.failQuire_keeps ?_ _ _ _
    | with_reducible refine State.returnEmptied_keeps ?_
    | with_reducible refine State.runMoved_keeps ?_ _
    | with_reducible refine State.homeBindings_keeps ?_ _ _ _ _
    | with_reducible refine State.setQuire_keeps ?_ _ _ _
    | with_reducible refine State.setCore_keeps ?_ _ _
    | refine KeepsOut.next ?_
    | (extract_lets +onlyGivenNames x; refine (fun (hx : Keeps a0 x) => ?_) ?_; clear_value x; rotate_left; simp only [x])
    | (extract_lets +onlyGivenNames x; refine (fun (hx : Keeps a0 x) => ?_) ?_; rotate_left; simp only [x])
    | (extract_lets +onlyGivenNames x; refine (fun (hx : Keeps a0 x.1) => ?_) ?_; clear_value x; rotate_left; simp only [x])
    | (extract_lets +onlyGivenNames x; refine (fun (hx : Keeps a0 x.1) => ?_) ?_; rotate_left; simp only [x])
    | (extract_lets +onlyGivenNames x; clear_value x)
    | extract_lets +onlyGivenNames x
    | split
    | dsimp only
    | (simp only [keeps_mk]; refine KeepsMk.same rfl ?_ rfl rfl rfl rfl rfl rfl rfl rfl rfl rfl rfl)

/-- What `execQuireComplete` keeps. -/
theorem execQuireComplete_keeps {a s : State} (h : Keeps a s) (core : Fin 8) :
    KeepsOut a (execQuireComplete core s) := by
  unfold execQuireComplete
  repeat'
    first
    | with_reducible assumption
    | with_reducible refine State.setCore_keeps ?_ _ _
    | with_reducible refine State.showWrites_keeps ?_ _
    | refine KeepsOut.next ?_
    | (extract_lets +onlyGivenNames x; refine (fun (hx : Keeps a x) => ?_) ?_; clear_value x; rotate_left; simp only [x])
    | (extract_lets +onlyGivenNames x; refine (fun (hx : Keeps a x) => ?_) ?_; rotate_left; simp only [x])
    | (extract_lets +onlyGivenNames x; clear_value x)
    | extract_lets +onlyGivenNames x
    | split
    | (simp only [keeps_mk]; refine KeepsMk.same rfl ?_ rfl rfl rfl rfl rfl rfl rfl rfl rfl rfl rfl)

/-- What `execQuireOutcome` keeps. -/
theorem execQuireOutcome_keeps {a0 s : State} (h0 : Keeps a0 s) (core : Fin 8) :
    KeepsOut a0 (execQuireOutcome core s) := by
  unfold execQuireOutcome
  repeat'
    first
    | with_reducible assumption
    | with_reducible refine Keeps.of_eq (by assumption) ?_
    | with_reducible refine State.setCore_keeps ?_ _ _
    | with_reducible refine State.actOutcome_keeps ?_ _ _ _
    | with_reducible refine State.afterQuire_keeps ?_ _
    | with_reducible refine State.returnEmptied_keeps ?_
    | with_reducible refine State.runMoved_keeps ?_ _
    | with_reducible refine State.settle_keeps ?_
    | refine KeepsOut.next ?_
    | (extract_lets +onlyGivenNames x; refine (fun (hx : Keeps a0 x) => ?_) ?_; clear_value x; rotate_left; simp only [x])
    | (extract_lets +onlyGivenNames x; refine (fun (hx : Keeps a0 x) => ?_) ?_; rotate_left; simp only [x])
    | (extract_lets +onlyGivenNames x; refine (fun (hx : Keeps a0 x.1) => ?_) ?_; clear_value x; rotate_left; simp only [x])
    | (extract_lets +onlyGivenNames x; refine (fun (hx : Keeps a0 x.1) => ?_) ?_; rotate_left; simp only [x])
    | (extract_lets +onlyGivenNames x; clear_value x)
    | extract_lets +onlyGivenNames x
    | split
    | dsimp only
    | (simp only [keeps_mk]; refine KeepsMk.same rfl ?_ rfl rfl rfl rfl rfl rfl rfl rfl rfl rfl rfl)

/-- What `execQuireLong` keeps. -/
theorem execQuireLong_keeps {a0 s : State} (h0 : Keeps a0 s) (core : Fin 8) :
    KeepsOut a0 (execQuireLong core s) := by
  unfold execQuireLong
  repeat'
    first
    | with_reducible assumption
    | with_reducible refine Keeps.of_eq (by assumption) ?_
    | with_reducible refine State.setCore_keeps ?_ _ _
    | with_reducible refine State.abandonQuire_keeps ?_ _
    | refine KeepsOut.next ?_
    | (extract_lets +onlyGivenNames x; refine (fun (hx : Keeps a0 x) => ?_) ?_; clear_value x; rotate_left; simp only [x])
    | (extract_lets +onlyGivenNames x; refine (fun (hx : Keeps a0 x) => ?_) ?_; rotate_left; simp only [x])
    | (extract_lets +onlyGivenNames x; refine (fun (hx : Keeps a0 x.1) => ?_) ?_; clear_value x; rotate_left; simp only [x])
    | (extract_lets +onlyGivenNames x; refine (fun (hx : Keeps a0 x.1) => ?_) ?_; rotate_left; simp only [x])
    | (extract_lets +onlyGivenNames x; clear_value x)
    | extract_lets +onlyGivenNames x
    | split
    | dsimp only
    | (simp only [keeps_mk]; refine KeepsMk.same rfl ?_ rfl rfl rfl rfl rfl rfl rfl rfl rfl rfl rfl)

/-- What `execQuireWatchdog` keeps. -/
theorem execQuireWatchdog_keeps {a s : State} (h : Keeps a s) (core : Fin 8) :
    KeepsOut a (execQuireWatchdog core s) := by
  unfold execQuireWatchdog
  repeat'
    first
    | with_reducible assumption
    | with_reducible refine State.stopQuire_keeps ?_ _ _
    | with_reducible refine State.setCore_keeps ?_ _ _
    | refine KeepsOut.next ?_
    | (extract_lets +onlyGivenNames x; refine (fun (hx : Keeps a x) => ?_) ?_; clear_value x; rotate_left; simp only [x])
    | (extract_lets +onlyGivenNames x; refine (fun (hx : Keeps a x) => ?_) ?_; rotate_left; simp only [x])
    | (extract_lets +onlyGivenNames x; clear_value x)
    | extract_lets +onlyGivenNames x
    | split
    | (simp only [keeps_mk]; refine KeepsMk.same rfl ?_ rfl rfl rfl rfl rfl rfl rfl rfl rfl rfl rfl)

/-- What `execPreemptionRequest` keeps. -/
theorem execPreemptionRequest_keeps {a0 s : State} (h0 : Keeps a0 s) (run : Nat) (quire : Nat) :
    KeepsOut a0 (execPreemptionRequest run quire s) := by
  unfold execPreemptionRequest
  repeat'
    first
    | with_reducible assumption
    | with_reducible refine Keeps.of_eq (by assumption) ?_
    | with_reducible refine State.markPreempt_keeps ?_ _ _ _ _
    | with_reducible refine State.abandonQuire_keeps ?_ _
    | refine KeepsOut.next ?_
    | (extract_lets +onlyGivenNames x; refine (fun (hx : Keeps a0 x) => ?_) ?_; clear_value x; rotate_left; simp only [x])
    | (extract_lets +onlyGivenNames x; refine (fun (hx : Keeps a0 x) => ?_) ?_; rotate_left; simp only [x])
    | (extract_lets +onlyGivenNames x; refine (fun (hx : Keeps a0 x.1) => ?_) ?_; clear_value x; rotate_left; simp only [x])
    | (extract_lets +onlyGivenNames x; refine (fun (hx : Keeps a0 x.1) => ?_) ?_; rotate_left; simp only [x])
    | (extract_lets +onlyGivenNames x; clear_value x)
    | extract_lets +onlyGivenNames x
    | split
    | dsimp only
    | (simp only [keeps_mk]; refine KeepsMk.same rfl ?_ rfl rfl rfl rfl rfl rfl rfl rfl rfl rfl rfl)

/-- What `execPreemptionRackOutDone` keeps. -/
theorem execPreemptionRackOutDone_keeps {a s : State} (h : Keeps a s) (core : Fin 8) :
    KeepsOut a (execPreemptionRackOutDone core s) := by
  unfold execPreemptionRackOutDone
  repeat'
    first
    | with_reducible assumption
    | with_reducible refine Keeps.fold ?_ _ (fun _ _ _ => ?_) _
    | with_reducible refine State.settle_keeps ?_
    | with_reducible refine State.restReleased_keeps ?_ _
    | with_reducible refine State.coreLeft_keeps ?_ _
    | with_reducible refine State.rackOut_keeps ?_ _ _ _
    | with_reducible refine State.setCore_keeps ?_ _ _
    | with_reducible refine State.rackOutOne_keeps ?_ _ _
    | with_reducible refine State.countPreempt_keeps ?_ _ _ _
    | with_reducible refine State.placeWinner_keeps ?_ _ _
    | refine KeepsOut.next ?_
    | (extract_lets +onlyGivenNames x; refine (fun (hx : Keeps a x) => ?_) ?_; clear_value x; rotate_left; simp only [x])
    | (extract_lets +onlyGivenNames x; refine (fun (hx : Keeps a x) => ?_) ?_; rotate_left; simp only [x])
    | (extract_lets +onlyGivenNames x; clear_value x)
    | extract_lets +onlyGivenNames x
    | split
    | (simp only [keeps_mk]; refine KeepsMk.same rfl ?_ rfl rfl rfl rfl rfl rfl rfl rfl rfl rfl rfl)

/-- What `execPreemptionTransferDone` keeps. -/
theorem execPreemptionTransferDone_keeps {a0 s : State} (h0 : Keeps a0 s) (core : Fin 8) (duration : Nat) :
    KeepsOut a0 (execPreemptionTransferDone core duration s) := by
  unfold execPreemptionTransferDone
  repeat'
    first
    | with_reducible assumption
    | with_reducible refine Keeps.of_eq (by assumption) ?_
    | with_reducible refine State.freeTensors_keeps ?_ _
    | with_reducible refine State.setCore_keeps ?_ _ _
    | with_reducible refine State.dropZero_keeps ?_ _
    | with_reducible refine State.scrubForeign_keeps ?_ _ _
    | with_reducible refine State.countPreempt_keeps ?_ _ _ _
    | with_reducible refine State.placeWinner_keeps ?_ _ _
    | with_reducible refine State.settle_keeps ?_
    | refine KeepsOut.next ?_
    | (extract_lets +onlyGivenNames x; refine (fun (hx : Keeps a0 x) => ?_) ?_; clear_value x; rotate_left; simp only [x])
    | (extract_lets +onlyGivenNames x; refine (fun (hx : Keeps a0 x) => ?_) ?_; rotate_left; simp only [x])
    | (extract_lets +onlyGivenNames x; refine (fun (hx : Keeps a0 x.1) => ?_) ?_; clear_value x; rotate_left; simp only [x])
    | (extract_lets +onlyGivenNames x; refine (fun (hx : Keeps a0 x.1) => ?_) ?_; rotate_left; simp only [x])
    | (extract_lets +onlyGivenNames x; clear_value x)
    | extract_lets +onlyGivenNames x
    | split
    | dsimp only
    | (simp only [keeps_mk]; refine KeepsMk.same rfl ?_ rfl rfl rfl rfl rfl rfl rfl rfl rfl rfl rfl)

/-- What `execRackMove` keeps. -/
theorem execRackMove_keeps {a0 s : State} (h0 : Keeps a0 s) (tensor : Nat) (dest : HomeKind) (destAddr : Nat) :
    KeepsOut a0 (execRackMove tensor dest destAddr s) := by
  unfold execRackMove
  repeat'
    first
    | with_reducible assumption
    | with_reducible refine Keeps.of_eq (by assumption) ?_
    | with_reducible refine State.moveRoom_keeps ?_ _ _ _ _ _ (by assumption)
    | with_reducible refine State.moveRoom_keeps ?_ _ _ _ _ _ Prod.mk.eta.symm
    | with_reducible refine State.regulate_keeps ?_ _ _ _ _ _ _ (by assumption)
    | with_reducible refine State.regulate_keeps ?_ _ _ _ _ _ _ Prod.mk.eta.symm
    | with_reducible refine State.newTensor_keeps ?_ _
    | with_reducible refine State.setTensor_keeps ?_ _ _
    | refine KeepsOut.next ?_
    | (extract_lets +onlyGivenNames x; refine (fun (hx : Keeps a0 x) => ?_) ?_; clear_value x; rotate_left; simp only [x])
    | (extract_lets +onlyGivenNames x; refine (fun (hx : Keeps a0 x) => ?_) ?_; rotate_left; simp only [x])
    | (extract_lets +onlyGivenNames x; refine (fun (hx : Keeps a0 x.1) => ?_) ?_; clear_value x; rotate_left; simp only [x])
    | (extract_lets +onlyGivenNames x; refine (fun (hx : Keeps a0 x.1) => ?_) ?_; rotate_left; simp only [x])
    | (extract_lets +onlyGivenNames x; clear_value x)
    | extract_lets +onlyGivenNames x
    | split
    | dsimp only
    | (simp only [keeps_mk]; refine KeepsMk.same rfl ?_ rfl rfl rfl rfl rfl rfl rfl rfl rfl rfl rfl)

/-- What `execRackMoveDone` keeps. -/
theorem execRackMoveDone_keeps {a0 s : State} (h0 : Keeps a0 s) (tensor : Nat) (ecc : List StoreError) :
    KeepsOut a0 (execRackMoveDone tensor ecc s) := by
  unfold execRackMoveDone
  repeat'
    first
    | with_reducible assumption
    | with_reducible refine Keeps.of_eq (by assumption) ?_
    | with_reducible refine State.sourceErrors_keeps ?_ _ _
    | with_reducible refine State.landMove_keeps ?_ _
    | refine KeepsOut.next ?_
    | (extract_lets +onlyGivenNames x; refine (fun (hx : Keeps a0 x) => ?_) ?_; clear_value x; rotate_left; simp only [x])
    | (extract_lets +onlyGivenNames x; refine (fun (hx : Keeps a0 x) => ?_) ?_; rotate_left; simp only [x])
    | (extract_lets +onlyGivenNames x; refine (fun (hx : Keeps a0 x.1) => ?_) ?_; clear_value x; rotate_left; simp only [x])
    | (extract_lets +onlyGivenNames x; refine (fun (hx : Keeps a0 x.1) => ?_) ?_; rotate_left; simp only [x])
    | (extract_lets +onlyGivenNames x; clear_value x)
    | extract_lets +onlyGivenNames x
    | split
    | dsimp only
    | (simp only [keeps_mk]; refine KeepsMk.same rfl ?_ rfl rfl rfl rfl rfl rfl rfl rfl rfl rfl rfl)

/-- What `execRegulatorRefill` keeps. -/
theorem execRegulatorRefill_keeps {a0 s : State} (h0 : Keeps a0 s) (part : Fin 8) (bucket : Fin 27) :
    KeepsOut a0 (execRegulatorRefill part bucket s) := by
  unfold execRegulatorRefill
  repeat'
    first
    | with_reducible assumption
    | with_reducible refine Keeps.of_eq (by assumption) ?_
    | with_reducible refine State.payWaiting_keeps ?_ _ _ _
    | refine KeepsOut.next ?_
    | (extract_lets +onlyGivenNames x; refine (fun (hx : Keeps a0 x) => ?_) ?_; clear_value x; rotate_left; simp only [x])
    | (extract_lets +onlyGivenNames x; refine (fun (hx : Keeps a0 x) => ?_) ?_; rotate_left; simp only [x])
    | (extract_lets +onlyGivenNames x; refine (fun (hx : Keeps a0 x.1) => ?_) ?_; clear_value x; rotate_left; simp only [x])
    | (extract_lets +onlyGivenNames x; refine (fun (hx : Keeps a0 x.1) => ?_) ?_; rotate_left; simp only [x])
    | (extract_lets +onlyGivenNames x; clear_value x)
    | extract_lets +onlyGivenNames x
    | split
    | dsimp only
    | (simp only [keeps_mk]; refine KeepsMk.same rfl ?_ rfl rfl rfl rfl rfl rfl rfl rfl rfl rfl rfl)

/-- What `execPictureParse` keeps. -/
theorem execPictureParse_keeps {a0 s : State} (h0 : Keeps a0 s) (stream : Nat) (pic : ParsedPicture) :
    KeepsOut a0 (execPictureParse stream pic s) := by
  unfold execPictureParse
  repeat'
    first
    | with_reducible assumption
    | with_reducible refine Keeps.of_eq (by assumption) ?_
    | with_reducible refine State.wake_keeps ?_ _
    | with_reducible refine State.takeUnit_keeps ?_ _ _
    | with_reducible refine State.setStream_keeps ?_ _ _
    | with_reducible refine State.alarmUpdate_keeps ?_ _ _
    | with_reducible refine State.releaseFeeds_keeps ?_ _
    | refine KeepsOut.next ?_
    | (extract_lets +onlyGivenNames x; refine (fun (hx : Keeps a0 x) => ?_) ?_; clear_value x; rotate_left; simp only [x])
    | (extract_lets +onlyGivenNames x; refine (fun (hx : Keeps a0 x) => ?_) ?_; rotate_left; simp only [x])
    | (extract_lets +onlyGivenNames x; refine (fun (hx : Keeps a0 x.1) => ?_) ?_; clear_value x; rotate_left; simp only [x])
    | (extract_lets +onlyGivenNames x; refine (fun (hx : Keeps a0 x.1) => ?_) ?_; rotate_left; simp only [x])
    | (extract_lets +onlyGivenNames x; clear_value x)
    | extract_lets +onlyGivenNames x
    | split
    | dsimp only
    | (simp only [keeps_mk]; refine KeepsMk.same rfl ?_ rfl rfl rfl rfl rfl rfl rfl rfl rfl rfl rfl)

/-- What `execPictureDispatch` keeps. -/
theorem execPictureDispatch_keeps {a0 s : State} (h0 : Keeps a0 s) (stream : Nat) (decSeq : Nat) (engine : Fin 10) :
    KeepsOut a0 (execPictureDispatch stream decSeq engine s) := by
  unfold execPictureDispatch
  repeat'
    first
    | with_reducible assumption
    | with_reducible refine Keeps.fold ?_ _ (fun _ _ _ => ?_) _
    | with_reducible refine Keeps.foldPair ?_ _ (fun _ _ _ => ?_) _
    | with_reducible refine Keeps.of_eq (by assumption) ?_
    | with_reducible refine State.wake_keeps ?_ _
    | with_reducible refine State.dispatch_keeps ?_ _ _ _ _
    | with_reducible refine State.takeGrant_keeps ?_ _ _ _
    | refine KeepsOut.next ?_
    | (extract_lets +onlyGivenNames x; refine (fun (hx : Keeps a0 x) => ?_) ?_; clear_value x; rotate_left; simp only [x])
    | (extract_lets +onlyGivenNames x; refine (fun (hx : Keeps a0 x) => ?_) ?_; rotate_left; simp only [x])
    | (extract_lets +onlyGivenNames x; refine (fun (hx : Keeps a0 x.1) => ?_) ?_; clear_value x; rotate_left; simp only [x])
    | (extract_lets +onlyGivenNames x; refine (fun (hx : Keeps a0 x.1) => ?_) ?_; rotate_left; simp only [x])
    | (extract_lets +onlyGivenNames x; clear_value x)
    | extract_lets +onlyGivenNames x
    | split
    | dsimp only
    | (simp only [keeps_mk]; refine KeepsMk.same rfl ?_ rfl rfl rfl rfl rfl rfl rfl rfl rfl rfl rfl)

/-- What `execPictureDecoded` keeps. -/
theorem execPictureDecoded_keeps {a0 s : State} (h0 : Keeps a0 s) (stream : Nat) (decSeq : Nat) (cycles : Nat) (report : DecodeReport) :
    KeepsOut a0 (execPictureDecoded stream decSeq cycles report s) := by
  unfold execPictureDecoded
  repeat'
    first
    | with_reducible assumption
    | with_reducible refine Keeps.of_eq (by assumption) ?_
    | with_reducible refine State.leaveEngine_keeps ?_ _ _ _ _ _ _ _ _
    | refine KeepsOut.next ?_
    | (extract_lets +onlyGivenNames x; refine (fun (hx : Keeps a0 x) => ?_) ?_; clear_value x; rotate_left; simp only [x])
    | (extract_lets +onlyGivenNames x; refine (fun (hx : Keeps a0 x) => ?_) ?_; rotate_left; simp only [x])
    | (extract_lets +onlyGivenNames x; refine (fun (hx : Keeps a0 x.1) => ?_) ?_; clear_value x; rotate_left; simp only [x])
    | (extract_lets +onlyGivenNames x; refine (fun (hx : Keeps a0 x.1) => ?_) ?_; rotate_left; simp only [x])
    | (extract_lets +onlyGivenNames x; clear_value x)
    | extract_lets +onlyGivenNames x
    | split
    | dsimp only
    | (simp only [keeps_mk]; refine KeepsMk.same rfl ?_ rfl rfl rfl rfl rfl rfl rfl rfl rfl rfl rfl)

/-- What `execDecodeBudgetExpiry` keeps. -/
theorem execDecodeBudgetExpiry_keeps {a0 s : State} (h0 : Keeps a0 s) (stream : Nat) (decSeq : Nat) (inUnit : Nat) (report : DecodeReport) :
    KeepsOut a0 (execDecodeBudgetExpiry stream decSeq inUnit report s) := by
  unfold execDecodeBudgetExpiry
  repeat'
    first
    | with_reducible assumption
    | with_reducible refine Keeps.of_eq (by assumption) ?_
    | with_reducible refine State.setCluster_keeps ?_ _ _
    | with_reducible refine State.leaveEngine_keeps ?_ _ _ _ _ _ _ _ _
    | refine KeepsOut.next ?_
    | (extract_lets +onlyGivenNames x; refine (fun (hx : Keeps a0 x) => ?_) ?_; clear_value x; rotate_left; simp only [x])
    | (extract_lets +onlyGivenNames x; refine (fun (hx : Keeps a0 x) => ?_) ?_; rotate_left; simp only [x])
    | (extract_lets +onlyGivenNames x; refine (fun (hx : Keeps a0 x.1) => ?_) ?_; clear_value x; rotate_left; simp only [x])
    | (extract_lets +onlyGivenNames x; refine (fun (hx : Keeps a0 x.1) => ?_) ?_; rotate_left; simp only [x])
    | (extract_lets +onlyGivenNames x; clear_value x)
    | extract_lets +onlyGivenNames x
    | split
    | dsimp only
    | (simp only [keeps_mk]; refine KeepsMk.same rfl ?_ rfl rfl rfl rfl rfl rfl rfl rfl rfl rfl rfl)

/-- What `execPrepPictureDone` keeps. -/
theorem execPrepPictureDone_keeps {a0 s : State} (h0 : Keeps a0 s) (job : PrepJob) (unit : Fin 8) :
    KeepsOut a0 (execPrepPictureDone job unit s) := by
  unfold execPrepPictureDone
  repeat'
    first
    | with_reducible assumption
    | with_reducible refine Keeps.of_eq (by assumption) ?_
    | with_reducible refine State.prepPicture_keeps ?_ _ _ _
    | with_reducible refine State.prepPage_keeps ?_ _ _
    | refine KeepsOut.next ?_
    | (extract_lets +onlyGivenNames x; refine (fun (hx : Keeps a0 x) => ?_) ?_; clear_value x; rotate_left; simp only [x])
    | (extract_lets +onlyGivenNames x; refine (fun (hx : Keeps a0 x) => ?_) ?_; rotate_left; simp only [x])
    | (extract_lets +onlyGivenNames x; refine (fun (hx : Keeps a0 x.1) => ?_) ?_; clear_value x; rotate_left; simp only [x])
    | (extract_lets +onlyGivenNames x; refine (fun (hx : Keeps a0 x.1) => ?_) ?_; rotate_left; simp only [x])
    | (extract_lets +onlyGivenNames x; clear_value x)
    | extract_lets +onlyGivenNames x
    | split
    | dsimp only
    | (simp only [keeps_mk]; refine KeepsMk.same rfl ?_ rfl rfl rfl rfl rfl rfl rfl rfl rfl rfl rfl)

/-- What `execPrepQuantise` keeps. -/
theorem execPrepQuantise_keeps {a s : State} (h : Keeps a s) (stream : Nat) (decSeq : Nat) (unit : Fin 8) :
    KeepsOut a (execPrepQuantise stream decSeq unit s) := by
  unfold execPrepQuantise
  repeat'
    first
    | with_reducible assumption
    | with_reducible refine State.wake_keeps ?_ _
    | with_reducible refine State.quantise_keeps ?_ _ _ _ _
    | refine KeepsOut.next ?_
    | (extract_lets +onlyGivenNames x; refine (fun (hx : Keeps a x) => ?_) ?_; clear_value x; rotate_left; simp only [x])
    | (extract_lets +onlyGivenNames x; refine (fun (hx : Keeps a x) => ?_) ?_; rotate_left; simp only [x])
    | (extract_lets +onlyGivenNames x; clear_value x)
    | extract_lets +onlyGivenNames x
    | split
    | (simp only [keeps_mk]; refine KeepsMk.same rfl ?_ rfl rfl rfl rfl rfl rfl rfl rfl rfl rfl rfl)

/-- What `execBatchWaitExpiry` keeps. -/
theorem execBatchWaitExpiry_keeps {a s : State} (h : Keeps a s) (batch : Nat) :
    KeepsOut a (execBatchWaitExpiry batch s) := by
  unfold execBatchWaitExpiry
  repeat'
    first
    | with_reducible assumption
    | with_reducible refine State.alarmUpdate_keeps ?_ _ _
    | with_reducible refine State.issueReady_keeps ?_ _ _
    | with_reducible refine State.setBatch_keeps ?_ _ _
    | refine KeepsOut.next ?_
    | (extract_lets +onlyGivenNames x; refine (fun (hx : Keeps a x) => ?_) ?_; clear_value x; rotate_left; simp only [x])
    | (extract_lets +onlyGivenNames x; refine (fun (hx : Keeps a x) => ?_) ?_; rotate_left; simp only [x])
    | (extract_lets +onlyGivenNames x; clear_value x)
    | extract_lets +onlyGivenNames x
    | split
    | (simp only [keeps_mk]; refine KeepsMk.same rfl ?_ rfl rfl rfl rfl rfl rfl rfl rfl rfl rfl rfl)

/-- What `execCropJob` keeps. -/
theorem execCropJob_keeps {a0 s : State} (h0 : Keeps a0 s) (job : Nat) (unit : Fin 8) :
    KeepsOut a0 (execCropJob job unit s) := by
  unfold execCropJob
  repeat'
    first
    | with_reducible assumption
    | with_reducible refine Keeps.of_eq (by assumption) ?_
    | with_reducible refine State.wake_keeps ?_ _
    | with_reducible refine State.endPage_keeps ?_ _ _ _
    | with_reducible refine State.settle_keeps ?_
    | with_reducible refine State.takeGrant_keeps ?_ _ _ _
    | refine KeepsOut.next ?_
    | (extract_lets +onlyGivenNames x; refine (fun (hx : Keeps a0 x) => ?_) ?_; clear_value x; rotate_left; simp only [x])
    | (extract_lets +onlyGivenNames x; refine (fun (hx : Keeps a0 x) => ?_) ?_; rotate_left; simp only [x])
    | (extract_lets +onlyGivenNames x; refine (fun (hx : Keeps a0 x.1) => ?_) ?_; clear_value x; rotate_left; simp only [x])
    | (extract_lets +onlyGivenNames x; refine (fun (hx : Keeps a0 x.1) => ?_) ?_; rotate_left; simp only [x])
    | (extract_lets +onlyGivenNames x; clear_value x)
    | extract_lets +onlyGivenNames x
    | split
    | dsimp only
    | (simp only [keeps_mk]; refine KeepsMk.same rfl ?_ rfl rfl rfl rfl rfl rfl rfl rfl rfl rfl rfl)

/-- What `execCropJobDone` keeps. -/
theorem execCropJobDone_keeps {a0 s : State} (h0 : Keeps a0 s) (job : Nat) :
    KeepsOut a0 (execCropJobDone job s) := by
  unfold execCropJobDone
  repeat'
    first
    | with_reducible assumption
    | with_reducible refine Keeps.of_eq (by assumption) ?_
    | with_reducible refine State.endCrop_keeps ?_ _ _ _
    | with_reducible refine State.finishLines_keeps ?_ _ _ _ _
    | with_reducible refine State.settle_keeps ?_
    | with_reducible refine State.startReid_keeps ?_ _ _ _ _
    | with_reducible refine State.startReid_keeps ?_ _ _ _ _ _ (by assumption)
    | with_reducible refine State.setPic_keeps ?_ _ _ _
    | refine KeepsOut.next ?_
    | (extract_lets +onlyGivenNames x; refine (fun (hx : Keeps a0 x) => ?_) ?_; clear_value x; rotate_left; simp only [x])
    | (extract_lets +onlyGivenNames x; refine (fun (hx : Keeps a0 x) => ?_) ?_; rotate_left; simp only [x])
    | (extract_lets +onlyGivenNames x; refine (fun (hx : Keeps a0 x.1) => ?_) ?_; clear_value x; rotate_left; simp only [x])
    | (extract_lets +onlyGivenNames x; refine (fun (hx : Keeps a0 x.1) => ?_) ?_; rotate_left; simp only [x])
    | (extract_lets +onlyGivenNames x; clear_value x)
    | extract_lets +onlyGivenNames x
    | split
    | dsimp only
    | (simp only [keeps_mk]; refine KeepsMk.same rfl ?_ rfl rfl rfl rfl rfl rfl rfl rfl rfl rfl rfl)

/-- What `execDetectionFinish` keeps. -/
theorem execDetectionFinish_keeps {a0 s : State} (h0 : Keeps a0 s) (stream : Nat) (decSeq : Nat) :
    KeepsOut a0 (execDetectionFinish stream decSeq s) := by
  unfold execDetectionFinish
  repeat'
    first
    | with_reducible assumption
    | with_reducible refine Keeps.of_eq (by assumption) ?_
    | with_reducible refine State.wake_keeps ?_ _
    | with_reducible refine State.takeDetections_keeps ?_ _ _ _ _ _ _
    | with_reducible refine State.sweepBatches_keeps ?_
    | with_reducible refine State.alarmUpdate_keeps ?_ _ _
    | refine KeepsOut.next ?_
    | (extract_lets +onlyGivenNames x; refine (fun (hx : Keeps a0 x) => ?_) ?_; clear_value x; rotate_left; simp only [x])
    | (extract_lets +onlyGivenNames x; refine (fun (hx : Keeps a0 x) => ?_) ?_; rotate_left; simp only [x])
    | (extract_lets +onlyGivenNames x; refine (fun (hx : Keeps a0 x.1) => ?_) ?_; clear_value x; rotate_left; simp only [x])
    | (extract_lets +onlyGivenNames x; refine (fun (hx : Keeps a0 x.1) => ?_) ?_; rotate_left; simp only [x])
    | (extract_lets +onlyGivenNames x; clear_value x)
    | extract_lets +onlyGivenNames x
    | split
    | dsimp only
    | (simp only [keeps_mk]; refine KeepsMk.same rfl ?_ rfl rfl rfl rfl rfl rfl rfl rfl rfl rfl rfl)

/-- What `execTrackUpdate` keeps. -/
theorem execTrackUpdate_keeps {a0 s : State} (h0 : Keeps a0 s) (stream : Nat) :
    KeepsOut a0 (execTrackUpdate stream s) := by
  unfold execTrackUpdate
  repeat'
    first
    | with_reducible assumption
    | with_reducible refine Keeps.of_eq (by assumption) ?_
    | with_reducible refine State.wake_keeps ?_ _
    | with_reducible refine State.takeTracks_keeps ?_ _ _ _ _
    | with_reducible refine State.releaseSnaps_keeps ?_ _ _
    | with_reducible refine State.dropOutput_keeps ?_ _ _
    | with_reducible refine State.settle_keeps ?_
    | refine KeepsOut.next ?_
    | (extract_lets +onlyGivenNames x; refine (fun (hx : Keeps a0 x) => ?_) ?_; clear_value x; rotate_left; simp only [x])
    | (extract_lets +onlyGivenNames x; refine (fun (hx : Keeps a0 x) => ?_) ?_; rotate_left; simp only [x])
    | (extract_lets +onlyGivenNames x; refine (fun (hx : Keeps a0 x.1) => ?_) ?_; clear_value x; rotate_left; simp only [x])
    | (extract_lets +onlyGivenNames x; refine (fun (hx : Keeps a0 x.1) => ?_) ?_; rotate_left; simp only [x])
    | (extract_lets +onlyGivenNames x; clear_value x)
    | extract_lets +onlyGivenNames x
    | split
    | dsimp only
    | (simp only [keeps_mk]; refine KeepsMk.same rfl ?_ rfl rfl rfl rfl rfl rfl rfl rfl rfl rfl rfl)

/-- What `execSnapshotDone` keeps. -/
theorem execSnapshotDone_keeps {a0 s : State} (h0 : Keeps a0 s) (scan : List Byte) (cycles : Nat) :
    KeepsOut a0 (execSnapshotDone scan cycles s) := by
  unfold execSnapshotDone
  repeat'
    first
    | with_reducible assumption
    | with_reducible refine Keeps.of_eq (by assumption) ?_
    | with_reducible refine State.wake_keeps ?_ _
    | with_reducible refine State.keepJpeg_keeps ?_ _ _ _ _ (by assumption)
    | with_reducible refine State.keepJpeg_keeps ?_ _ _ _ _ Prod.mk.eta.symm
    | with_reducible refine State.returnJpeg_keeps ?_ _ _ _ _ _ _
    | with_reducible refine State.countEncoded_keeps ?_ _ _
    | with_reducible refine State.freeSnapshot_keeps ?_
    | with_reducible refine State.dropOutput_keeps ?_ _ _
    | with_reducible refine State.settle_keeps ?_
    | refine KeepsOut.next ?_
    | (extract_lets +onlyGivenNames x; refine (fun (hx : Keeps a0 x) => ?_) ?_; clear_value x; rotate_left; simp only [x])
    | (extract_lets +onlyGivenNames x; refine (fun (hx : Keeps a0 x) => ?_) ?_; rotate_left; simp only [x])
    | (extract_lets +onlyGivenNames x; refine (fun (hx : Keeps a0 x.1) => ?_) ?_; clear_value x; rotate_left; simp only [x])
    | (extract_lets +onlyGivenNames x; refine (fun (hx : Keeps a0 x.1) => ?_) ?_; rotate_left; simp only [x])
    | (extract_lets +onlyGivenNames x; clear_value x)
    | extract_lets +onlyGivenNames x
    | split
    | dsimp only
    | (simp only [keeps_mk]; refine KeepsMk.same rfl ?_ rfl rfl rfl rfl rfl rfl rfl rfl rfl rfl rfl)

/-- What `execEncodePictureDone` keeps. -/
theorem execEncodePictureDone_keeps {a0 s : State} (h0 : Keeps a0 s) (encoder : Fin 2) (session : Fin 16) (decSeq : Nat) (bytes : List Byte) (cycles : Nat) (endChunk : Bool) :
    KeepsOut a0 (execEncodePictureDone encoder session decSeq bytes cycles endChunk s) := by
  unfold execEncodePictureDone
  repeat'
    first
    | with_reducible assumption
    | with_reducible refine Keeps.of_eq (by assumption) ?_
    | with_reducible refine State.wake_keeps ?_ _
    | with_reducible refine State.appendClip_keeps ?_ _ _ _ _ _
    | with_reducible refine State.countEncoded_keeps ?_ _ _
    | with_reducible refine State.freeIfDone_keeps ?_ _
    | with_reducible refine State.settle_keeps ?_
    | refine KeepsOut.next ?_
    | (extract_lets +onlyGivenNames x; refine (fun (hx : Keeps a0 x) => ?_) ?_; clear_value x; rotate_left; simp only [x])
    | (extract_lets +onlyGivenNames x; refine (fun (hx : Keeps a0 x) => ?_) ?_; rotate_left; simp only [x])
    | (extract_lets +onlyGivenNames x; refine (fun (hx : Keeps a0 x.1) => ?_) ?_; clear_value x; rotate_left; simp only [x])
    | (extract_lets +onlyGivenNames x; refine (fun (hx : Keeps a0 x.1) => ?_) ?_; rotate_left; simp only [x])
    | (extract_lets +onlyGivenNames x; clear_value x)
    | extract_lets +onlyGivenNames x
    | split
    | dsimp only
    | (simp only [keeps_mk]; refine KeepsMk.same rfl ?_ rfl rfl rfl rfl rfl rfl rfl rfl rfl rfl rfl)

/-- What `execPageHeaderParsed` keeps. -/
theorem execPageHeaderParsed_keeps {a s : State} (h : Keeps a s) (page : Nat) (hdr : ParsedPage) :
    KeepsOut a (execPageHeaderParsed page hdr s) := by
  unfold execPageHeaderParsed
  repeat'
    first
    | with_reducible assumption
    | with_reducible refine State.wake_keeps ?_ _
    | with_reducible refine State.settle_keeps ?_
    | with_reducible refine State.takeHeader_keeps ?_ _ _ _
    | refine KeepsOut.next ?_
    | (extract_lets +onlyGivenNames x; refine (fun (hx : Keeps a x) => ?_) ?_; clear_value x; rotate_left; simp only [x])
    | (extract_lets +onlyGivenNames x; refine (fun (hx : Keeps a x) => ?_) ?_; rotate_left; simp only [x])
    | (extract_lets +onlyGivenNames x; clear_value x)
    | extract_lets +onlyGivenNames x
    | split
    | (simp only [keeps_mk]; refine KeepsMk.same rfl ?_ rfl rfl rfl rfl rfl rfl rfl rfl rfl rfl rfl)

/-- What `execBandDone` keeps. -/
theorem execBandDone_keeps {a0 s : State} (h0 : Keeps a0 s) (page : Nat) (result : BandResult) :
    KeepsOut a0 (execBandDone page result s) := by
  unfold execBandDone
  repeat'
    first
    | with_reducible assumption
    | with_reducible refine Keeps.of_eq (by assumption) ?_
    | with_reducible refine State.wake_keeps ?_ _
    | with_reducible refine State.bandOver_keeps ?_ _ _ _ _
    | with_reducible refine State.countPage_keeps ?_
    | with_reducible refine State.endPage_keeps ?_ _ _ _
    | with_reducible refine State.endDecoding_keeps ?_ _ _
    | with_reducible refine State.alarmUpdate_keeps ?_ _ _
    | with_reducible refine State.settle_keeps ?_
    | refine KeepsOut.next ?_
    | (extract_lets +onlyGivenNames x; refine (fun (hx : Keeps a0 x) => ?_) ?_; clear_value x; rotate_left; simp only [x])
    | (extract_lets +onlyGivenNames x; refine (fun (hx : Keeps a0 x) => ?_) ?_; rotate_left; simp only [x])
    | (extract_lets +onlyGivenNames x; refine (fun (hx : Keeps a0 x.1) => ?_) ?_; clear_value x; rotate_left; simp only [x])
    | (extract_lets +onlyGivenNames x; refine (fun (hx : Keeps a0 x.1) => ?_) ?_; rotate_left; simp only [x])
    | (extract_lets +onlyGivenNames x; clear_value x)
    | extract_lets +onlyGivenNames x
    | split
    | dsimp only
    | (simp only [keeps_mk]; refine KeepsMk.same rfl ?_ rfl rfl rfl rfl rfl rfl rfl rfl rfl rfl rfl)

/-- What `execPageBudgetExpiry` keeps. -/
theorem execPageBudgetExpiry_keeps {a s : State} (h : Keeps a s) (page : Nat) (rows : Nat) (dataBytes : Nat) :
    KeepsOut a (execPageBudgetExpiry page rows dataBytes s) := by
  unfold execPageBudgetExpiry
  repeat'
    first
    | with_reducible assumption
    | with_reducible refine State.wake_keeps ?_ _
    | with_reducible refine State.chargeWork_keeps ?_ _ _ _ _
    | with_reducible refine State.setPage_keeps ?_ _ _
    | with_reducible refine State.endPage_keeps ?_ _ _ _
    | with_reducible refine State.countPage_keeps ?_
    | with_reducible refine State.settle_keeps ?_
    | with_reducible refine State.alarmUpdate_keeps ?_ _ _
    | refine KeepsOut.next ?_
    | (extract_lets +onlyGivenNames x; refine (fun (hx : Keeps a x) => ?_) ?_; clear_value x; rotate_left; simp only [x])
    | (extract_lets +onlyGivenNames x; refine (fun (hx : Keeps a x) => ?_) ?_; rotate_left; simp only [x])
    | (extract_lets +onlyGivenNames x; clear_value x)
    | extract_lets +onlyGivenNames x
    | split
    | (simp only [keeps_mk]; refine KeepsMk.same rfl ?_ rfl rfl rfl rfl rfl rfl rfl rfl rfl rfl rfl)

/-- What `execLineFinish` keeps. -/
theorem execLineFinish_keeps {a0 s : State} (h0 : Keeps a0 s) (page : Nat) :
    KeepsOut a0 (execLineFinish page s) := by
  unfold execLineFinish
  repeat'
    first
    | with_reducible assumption
    | with_reducible refine Keeps.of_eq (by assumption) ?_
    | with_reducible refine State.wake_keeps ?_ _
    | with_reducible refine State.takeLines_keeps ?_ _ _ _ _ _
    | with_reducible refine State.sweepBatches_keeps ?_
    | with_reducible refine State.alarmUpdate_keeps ?_ _ _
    | with_reducible refine State.settle_keeps ?_
    | refine KeepsOut.next ?_
    | (extract_lets +onlyGivenNames x; refine (fun (hx : Keeps a0 x) => ?_) ?_; clear_value x; rotate_left; simp only [x])
    | (extract_lets +onlyGivenNames x; refine (fun (hx : Keeps a0 x) => ?_) ?_; rotate_left; simp only [x])
    | (extract_lets +onlyGivenNames x; refine (fun (hx : Keeps a0 x.1) => ?_) ?_; clear_value x; rotate_left; simp only [x])
    | (extract_lets +onlyGivenNames x; refine (fun (hx : Keeps a0 x.1) => ?_) ?_; rotate_left; simp only [x])
    | (extract_lets +onlyGivenNames x; clear_value x)
    | extract_lets +onlyGivenNames x
    | split
    | dsimp only
    | (simp only [keeps_mk]; refine KeepsMk.same rfl ?_ rfl rfl rfl rfl rfl rfl rfl rfl rfl rfl rfl)

/-- What `execStepRelease` keeps. -/
theorem execStepRelease_keeps {a s : State} (h : Keeps a s) (read : Nat) :
    KeepsOut a (execStepRelease read s) := by
  unfold execStepRelease
  repeat'
    first
    | with_reducible assumption
    | with_reducible refine State.wake_keeps ?_ _
    | with_reducible refine State.setRead_keeps ?_ _ _
    | refine KeepsOut.next ?_
    | (extract_lets +onlyGivenNames x; refine (fun (hx : Keeps a x) => ?_) ?_; clear_value x; rotate_left; simp only [x])
    | (extract_lets +onlyGivenNames x; refine (fun (hx : Keeps a x) => ?_) ?_; rotate_left; simp only [x])
    | (extract_lets +onlyGivenNames x; clear_value x)
    | extract_lets +onlyGivenNames x
    | split
    | (simp only [keeps_mk]; refine KeepsMk.same rfl ?_ rfl rfl rfl rfl rfl rfl rfl rfl rfl rfl rfl)

/-- What `execDecodeStep` keeps. -/
theorem execDecodeStep_keeps {a0 s : State} (h0 : Keeps a0 s) (batch : Nat) :
    KeepsOut a0 (execDecodeStep batch s) := by
  unfold execDecodeStep
  repeat'
    first
    | with_reducible assumption
    | with_reducible refine Keeps.fold ?_ _ (fun _ _ _ => ?_) _
    | with_reducible refine Keeps.foldPair ?_ _ (fun _ _ _ => ?_) _
    | with_reducible refine Keeps.of_eq (by assumption) ?_
    | with_reducible refine State.wake_keeps ?_ _
    | with_reducible refine State.beginReads_keeps ?_ _
    | with_reducible refine State.setRead_keeps ?_ _ _
    | with_reducible refine State.takeGrant_keeps ?_ _ _ _
    | with_reducible refine State.restep_keeps ?_ _
    | with_reducible refine State.chargeFree_keeps ?_ _ _ _
    | refine KeepsOut.next ?_
    | (extract_lets +onlyGivenNames x; refine (fun (hx : Keeps a0 x) => ?_) ?_; clear_value x; rotate_left; simp only [x])
    | (extract_lets +onlyGivenNames x; refine (fun (hx : Keeps a0 x) => ?_) ?_; rotate_left; simp only [x])
    | (extract_lets +onlyGivenNames x; refine (fun (hx : Keeps a0 x.1) => ?_) ?_; clear_value x; rotate_left; simp only [x])
    | (extract_lets +onlyGivenNames x; refine (fun (hx : Keeps a0 x.1) => ?_) ?_; rotate_left; simp only [x])
    | (extract_lets +onlyGivenNames x; clear_value x)
    | extract_lets +onlyGivenNames x
    | split
    | dsimp only
    | (simp only [keeps_mk]; refine KeepsMk.same rfl ?_ rfl rfl rfl rfl rfl rfl rfl rfl rfl rfl rfl)

/-- What `execMaskUpdate` keeps. -/
theorem execMaskUpdate_keeps {a s : State} (h : Keeps a s) (read : Nat) :
    KeepsOut a (execMaskUpdate read s) := by
  unfold execMaskUpdate
  repeat'
    first
    | with_reducible assumption
    | with_reducible refine State.wake_keeps ?_ _
    | with_reducible refine State.chargeFree_keeps ?_ _ _ _
    | with_reducible refine State.settle_keeps ?_
    | with_reducible refine State.sweepBatches_keeps ?_
    | with_reducible refine State.poisonRead_keeps ?_ _ _ _ _
    | with_reducible refine State.setRead_keeps ?_ _ _
    | refine KeepsOut.next ?_
    | (extract_lets +onlyGivenNames x; refine (fun (hx : Keeps a x) => ?_) ?_; clear_value x; rotate_left; simp only [x])
    | (extract_lets +onlyGivenNames x; refine (fun (hx : Keeps a x) => ?_) ?_; rotate_left; simp only [x])
    | (extract_lets +onlyGivenNames x; clear_value x)
    | extract_lets +onlyGivenNames x
    | split
    | (simp only [keeps_mk]; refine KeepsMk.same rfl ?_ rfl rfl rfl rfl rfl rfl rfl rfl rfl rfl rfl)

/-- What `execTokenSelect` keeps. -/
theorem execTokenSelect_keeps {a s : State} (h : Keeps a s) (read : Nat) :
    KeepsOut a (execTokenSelect read s) := by
  unfold execTokenSelect
  repeat'
    first
    | with_reducible assumption
    | with_reducible refine State.wake_keeps ?_ _
    | with_reducible refine State.setRead_keeps ?_ _ _
    | with_reducible refine State.settle_keeps ?_
    | with_reducible refine State.sweepBatches_keeps ?_
    | with_reducible refine State.selectToken_keeps ?_ _ _ _ _
    | refine KeepsOut.next ?_
    | (extract_lets +onlyGivenNames x; refine (fun (hx : Keeps a x) => ?_) ?_; clear_value x; rotate_left; simp only [x])
    | (extract_lets +onlyGivenNames x; refine (fun (hx : Keeps a x) => ?_) ?_; rotate_left; simp only [x])
    | (extract_lets +onlyGivenNames x; clear_value x)
    | extract_lets +onlyGivenNames x
    | split
    | (simp only [keeps_mk]; refine KeepsMk.same rfl ?_ rfl rfl rfl rfl rfl rfl rfl rfl rfl rfl rfl)

/-- What `execMaskReady` keeps. -/
theorem execMaskReady_keeps {a s : State} (h : Keeps a s) (read : Nat) :
    KeepsOut a (execMaskReady read s) := by
  unfold execMaskReady
  repeat'
    first
    | with_reducible assumption
    | with_reducible refine State.wake_keeps ?_ _
    | with_reducible refine State.maskDone_keeps ?_ _ _ _ _
    | refine KeepsOut.next ?_
    | (extract_lets +onlyGivenNames x; refine (fun (hx : Keeps a x) => ?_) ?_; clear_value x; rotate_left; simp only [x])
    | (extract_lets +onlyGivenNames x; refine (fun (hx : Keeps a x) => ?_) ?_; rotate_left; simp only [x])
    | (extract_lets +onlyGivenNames x; clear_value x)
    | extract_lets +onlyGivenNames x
    | split
    | (simp only [keeps_mk]; refine KeepsMk.same rfl ?_ rfl rfl rfl rfl rfl rfl rfl rfl rfl rfl rfl)

/-- What `execDrrGrant` keeps. -/
theorem execDrrGrant_keeps {a0 s : State} (h0 : Keeps a0 s) (pool : Pool) :
    KeepsOut a0 (execDrrGrant pool s) := by
  unfold execDrrGrant
  repeat'
    first
    | with_reducible assumption
    | with_reducible refine Keeps.of_eq (by assumption) ?_
    | with_reducible refine State.grant_keeps ?_ _ _ _
    | refine KeepsOut.next ?_
    | (extract_lets +onlyGivenNames x; refine (fun (hx : Keeps a0 x) => ?_) ?_; clear_value x; rotate_left; simp only [x])
    | (extract_lets +onlyGivenNames x; refine (fun (hx : Keeps a0 x) => ?_) ?_; rotate_left; simp only [x])
    | (extract_lets +onlyGivenNames x; refine (fun (hx : Keeps a0 x.1) => ?_) ?_; clear_value x; rotate_left; simp only [x])
    | (extract_lets +onlyGivenNames x; refine (fun (hx : Keeps a0 x.1) => ?_) ?_; rotate_left; simp only [x])
    | (extract_lets +onlyGivenNames x; clear_value x)
    | extract_lets +onlyGivenNames x
    | split
    | dsimp only
    | (simp only [keeps_mk]; refine KeepsMk.same rfl ?_ rfl rfl rfl rfl rfl rfl rfl rfl rfl rfl rfl)

/-- What `execPowerOn` keeps. -/
theorem execPowerOn_keeps {a s : State} (h : Keeps a s) (straps : Straps) :
    KeepsOut a (execPowerOn straps s) := by
  unfold execPowerOn
  repeat'
    first
    | with_reducible assumption
    | with_reducible refine State.powerUp_keeps ?_ _
    | refine KeepsOut.next ?_
    | (extract_lets +onlyGivenNames x; refine (fun (hx : Keeps a x) => ?_) ?_; clear_value x; rotate_left; simp only [x])
    | (extract_lets +onlyGivenNames x; refine (fun (hx : Keeps a x) => ?_) ?_; rotate_left; simp only [x])
    | (extract_lets +onlyGivenNames x; have _g : Dev := x)
    | (extract_lets +onlyGivenNames x; clear_value x)
    | extract_lets +onlyGivenNames x
    | split
    | (simp only [keeps_mk]; refine KeepsMk.same rfl ?_ rfl rfl rfl rfl rfl rfl rfl rfl rfl rfl rfl)

/-- What `execPowerLoss` keeps. -/
theorem execPowerLoss_keeps {a s : State} (h : Keeps a s) :
    KeepsOut a (execPowerLoss s) := by
  unfold execPowerLoss
  repeat'
    first
    | with_reducible assumption
    | with_reducible refine State.powerFall_keeps ?_
    | refine KeepsOut.next ?_

/-- What `execSysReset` keeps. -/
theorem execSysReset_keeps {a s : State} (h : Keeps a s) (straps : Straps) :
    KeepsOut a (execSysReset straps s) := by
  unfold execSysReset
  repeat'
    first
    | with_reducible assumption
    | with_reducible refine State.powerUp_keeps ?_ _
    | with_reducible refine State.powerFall_keeps ?_
    | refine KeepsOut.next ?_
    | (extract_lets +onlyGivenNames x; refine (fun (hx : Keeps a x) => ?_) ?_; clear_value x; rotate_left; simp only [x])
    | (extract_lets +onlyGivenNames x; refine (fun (hx : Keeps a x) => ?_) ?_; rotate_left; simp only [x])
    | (extract_lets +onlyGivenNames x; have _g : Dev := x)
    | (extract_lets +onlyGivenNames x; clear_value x)
    | extract_lets +onlyGivenNames x
    | split
    | (simp only [keeps_mk]; refine KeepsMk.same rfl ?_ rfl rfl rfl rfl rfl rfl rfl rfl rfl rfl rfl)

/-- What `execSlowClockTimeout` keeps. -/
theorem execSlowClockTimeout_keeps {a s : State} (h : Keeps a s) :
    KeepsOut a (execSlowClockTimeout s) := by
  unfold execSlowClockTimeout
  repeat'
    first
    | with_reducible assumption
    | refine KeepsOut.next ?_
    | (extract_lets +onlyGivenNames x; refine (fun (hx : Keeps a x) => ?_) ?_; clear_value x; rotate_left; simp only [x])
    | (extract_lets +onlyGivenNames x; refine (fun (hx : Keeps a x) => ?_) ?_; rotate_left; simp only [x])
    | (extract_lets +onlyGivenNames x; have _g : Mgt := x)
    | (extract_lets +onlyGivenNames x; have _g : Dev := x)
    | (extract_lets +onlyGivenNames x; clear_value x)
    | extract_lets +onlyGivenNames x
    | split
    | (simp only [keeps_mk]; refine KeepsMk.same rfl ?_ rfl rfl rfl rfl rfl rfl rfl rfl rfl rfl rfl)

/-- What `execPerstNRising` keeps. -/
theorem execPerstNRising_keeps {a s : State} (h : Keeps a s) :
    KeepsOut a (execPerstNRising s) := by
  unfold execPerstNRising
  repeat'
    first
    | with_reducible assumption
    | with_reducible refine State.tryReady_keeps ?_
    | refine KeepsOut.next ?_
    | (extract_lets +onlyGivenNames x; refine (fun (hx : Keeps a x) => ?_) ?_; clear_value x; rotate_left; simp only [x])
    | (extract_lets +onlyGivenNames x; refine (fun (hx : Keeps a x) => ?_) ?_; rotate_left; simp only [x])
    | (extract_lets +onlyGivenNames x; have _g : Dev := x)
    | (extract_lets +onlyGivenNames x; clear_value x)
    | extract_lets +onlyGivenNames x
    | split
    | (simp only [keeps_mk]; refine KeepsMk.same rfl ?_ rfl rfl rfl rfl rfl rfl rfl rfl rfl rfl rfl)

/-- What `execHwTrainingDone` keeps. -/
theorem execHwTrainingDone_keeps {a s : State} (h : Keeps a s) (trained : BitVec 12) (prbsOk : BitVec 12) (readMargin : Fin 65) (writeMargin : Fin 65) :
    KeepsOut a (execHwTrainingDone trained prbsOk readMargin writeMargin s) := by
  unfold execHwTrainingDone
  repeat'
    first
    | with_reducible assumption
    | with_reducible refine Keeps.fold ?_ _ (fun _ _ _ => ?_) _
    | with_reducible refine State.setChan_keeps ?_ _ _
    | with_reducible refine State.trainingEnd_keeps ?_
    | refine KeepsOut.next ?_
    | (extract_lets +onlyGivenNames x; refine (fun (hx : Keeps a x) => ?_) ?_; clear_value x; rotate_left; simp only [x])
    | (extract_lets +onlyGivenNames x; refine (fun (hx : Keeps a x) => ?_) ?_; rotate_left; simp only [x])
    | (extract_lets +onlyGivenNames x; clear_value x)
    | extract_lets +onlyGivenNames x
    | split
    | (simp only [keeps_mk]; refine KeepsMk.same rfl ?_ rfl rfl rfl rfl rfl rfl rfl rfl rfl rfl rfl)

/-- What `execTrainingFallbackDone` keeps. -/
theorem execTrainingFallbackDone_keeps {a s : State} (h : Keeps a s) (ch : Fin 12) (readRun : Nat) (writeRun : Nat) (prbsOk : Bool) :
    KeepsOut a (execTrainingFallbackDone ch readRun writeRun prbsOk s) := by
  unfold execTrainingFallbackDone
  repeat'
    first
    | with_reducible assumption
    | with_reducible refine State.trainingEnd_keeps ?_
    | with_reducible refine State.fenceChannel_keeps ?_ _
    | with_reducible refine State.setChan_keeps ?_ _ _
    | refine KeepsOut.next ?_
    | (extract_lets +onlyGivenNames x; refine (fun (hx : Keeps a x) => ?_) ?_; clear_value x; rotate_left; simp only [x])
    | (extract_lets +onlyGivenNames x; refine (fun (hx : Keeps a x) => ?_) ?_; rotate_left; simp only [x])
    | (extract_lets +onlyGivenNames x; clear_value x)
    | extract_lets +onlyGivenNames x
    | split
    | (simp only [keeps_mk]; refine KeepsMk.same rfl ?_ rfl rfl rfl rfl rfl rfl rfl rfl rfl rfl rfl)

/-- What `execTastingDone` keeps. -/
theorem execTastingDone_keeps {a s : State} (h : Keeps a s) (failures : List TestFailure) :
    KeepsOut a (execTastingDone failures s) := by
  unfold execTastingDone
  repeat'
    first
    | with_reducible assumption
    | with_reducible refine State.taste_keeps ?_ _
    | with_reducible refine State.tryReady_keeps ?_
    | refine KeepsOut.next ?_
    | (extract_lets +onlyGivenNames x; refine (fun (hx : Keeps a x) => ?_) ?_; clear_value x; rotate_left; simp only [x])
    | (extract_lets +onlyGivenNames x; refine (fun (hx : Keeps a x) => ?_) ?_; rotate_left; simp only [x])
    | (extract_lets +onlyGivenNames x; refine (fun (hx : Keeps a x.1) => ?_) ?_; clear_value x; rotate_left; simp only [x])
    | (extract_lets +onlyGivenNames x; refine (fun (hx : Keeps a x.1) => ?_) ?_; rotate_left; simp only [x])
    | (extract_lets +onlyGivenNames x; have _g : Dev := x)
    | (extract_lets +onlyGivenNames x; clear_value x)
    | extract_lets +onlyGivenNames x
    | split
    | (simp only [keeps_mk]; refine KeepsMk.same rfl ?_ rfl rfl rfl rfl rfl rfl rfl rfl rfl rfl rfl)

/-- What `execDramScrubDone` keeps. -/
theorem execDramScrubDone_keeps {a s : State} (h : Keeps a s) :
    KeepsOut a (execDramScrubDone s) := by
  unfold execDramScrubDone
  repeat'
    first
    | with_reducible assumption
    | with_reducible refine State.scrubDram_keeps ?_
    | with_reducible refine State.tryReady_keeps ?_
    | refine KeepsOut.next ?_
    | (extract_lets +onlyGivenNames x; refine (fun (hx : Keeps a x) => ?_) ?_; clear_value x; rotate_left; simp only [x])
    | (extract_lets +onlyGivenNames x; refine (fun (hx : Keeps a x) => ?_) ?_; rotate_left; simp only [x])
    | (extract_lets +onlyGivenNames x; have _g : Dev := x)
    | (extract_lets +onlyGivenNames x; clear_value x)
    | extract_lets +onlyGivenNames x
    | split
    | (simp only [keeps_mk]; refine KeepsMk.same rfl ?_ rfl rfl rfl rfl rfl rfl rfl rfl rfl rfl rfl)

/-- What `execFirmwareDelivery` keeps. -/
theorem execFirmwareDelivery_keeps {a s : State} (h : Keeps a s) (receivers : BitVec 59) :
    KeepsOut a (execFirmwareDelivery receivers s) := by
  unfold execFirmwareDelivery
  repeat'
    first
    | with_reducible assumption
    | with_reducible refine Keeps.fold ?_ _ (fun _ _ _ => ?_) _
    | with_reducible refine State.setReceiver_keeps ?_ _ _
    | with_reducible refine State.syncUp_keeps ?_
    | with_reducible refine State.broadcast_keeps ?_ _ _
    | refine KeepsOut.next ?_
    | (extract_lets +onlyGivenNames x; refine (fun (hx : Keeps a x) => ?_) ?_; clear_value x; rotate_left; simp only [x])
    | (extract_lets +onlyGivenNames x; refine (fun (hx : Keeps a x) => ?_) ?_; rotate_left; simp only [x])
    | (extract_lets +onlyGivenNames x; have _g : Mgt := x)
    | (extract_lets +onlyGivenNames x; clear_value x)
    | extract_lets +onlyGivenNames x
    | split
    | (simp only [keeps_mk]; refine KeepsMk.same rfl ?_ rfl rfl rfl rfl rfl rfl rfl rfl rfl rfl rfl)

/-- What `execFirmwareChunk` keeps. -/
theorem execFirmwareChunk_keeps {a s : State} (h : Keeps a s) (receiver : Fin 59) (component : Nat) (index : Nat) (data : List Byte) (crc : Nat) :
    KeepsOut a (execFirmwareChunk receiver component index data crc s) := by
  unfold execFirmwareChunk
  repeat'
    first
    | with_reducible assumption
    | with_reducible refine State.setReceiver_keeps ?_ _ _
    | refine KeepsOut.next ?_
    | (extract_lets +onlyGivenNames x; refine (fun (hx : Keeps a x) => ?_) ?_; clear_value x; rotate_left; simp only [x])
    | (extract_lets +onlyGivenNames x; refine (fun (hx : Keeps a x) => ?_) ?_; rotate_left; simp only [x])
    | (extract_lets +onlyGivenNames x; refine (fun (hx : Keeps a x.1) => ?_) ?_; clear_value x; rotate_left; simp only [x])
    | (extract_lets +onlyGivenNames x; refine (fun (hx : Keeps a x.1) => ?_) ?_; rotate_left; simp only [x])
    | (extract_lets +onlyGivenNames x; clear_value x)
    | extract_lets +onlyGivenNames x
    | split
    | (simp only [keeps_mk]; refine KeepsMk.same rfl ?_ rfl rfl rfl rfl rfl rfl rfl rfl rfl rfl rfl)

/-- What `execFirmwareResendRound` keeps. -/
theorem execFirmwareResendRound_keeps {a s : State} (h : Keeps a s) :
    KeepsOut a (execFirmwareResendRound s) := by
  unfold execFirmwareResendRound
  repeat'
    first
    | with_reducible assumption
    | with_reducible refine Keeps.fold ?_ _ (fun _ _ _ => ?_) _
    | with_reducible refine State.emit_keeps ?_ _
    | with_reducible refine State.settle_keeps ?_
    | with_reducible refine State.tryReady_keeps ?_
    | with_reducible refine State.receiverFailed_keeps ?_ _
    | refine KeepsOut.next ?_
    | (extract_lets +onlyGivenNames x; refine (fun (hx : Keeps a x) => ?_) ?_; clear_value x; rotate_left; simp only [x])
    | (extract_lets +onlyGivenNames x; refine (fun (hx : Keeps a x) => ?_) ?_; rotate_left; simp only [x])
    | (extract_lets +onlyGivenNames x; refine (fun (hx : Keeps a x.1) => ?_) ?_; clear_value x; rotate_left; simp only [x])
    | (extract_lets +onlyGivenNames x; refine (fun (hx : Keeps a x.1) => ?_) ?_; rotate_left; simp only [x])
    | (extract_lets +onlyGivenNames x; have _g : Mgt := x)
    | (extract_lets +onlyGivenNames x; clear_value x)
    | extract_lets +onlyGivenNames x
    | split
    | (simp only [keeps_mk]; refine KeepsMk.same rfl ?_ rfl rfl rfl rfl rfl rfl rfl rfl rfl rfl rfl)

/-- What `execReceiverRelease` keeps. -/
theorem execReceiverRelease_keeps {a s : State} (h : Keeps a s) (receiver : Fin 59) :
    KeepsOut a (execReceiverRelease receiver s) := by
  unfold execReceiverRelease
  repeat'
    first
    | with_reducible assumption
    | with_reducible refine State.settle_keeps ?_
    | with_reducible refine State.tryReady_keeps ?_
    | with_reducible refine State.receiverUp_keeps ?_ _
    | with_reducible refine State.receiverFailed_keeps ?_ _
    | refine KeepsOut.next ?_
    | (extract_lets +onlyGivenNames x; refine (fun (hx : Keeps a x) => ?_) ?_; clear_value x; rotate_left; simp only [x])
    | (extract_lets +onlyGivenNames x; refine (fun (hx : Keeps a x) => ?_) ?_; rotate_left; simp only [x])
    | (extract_lets +onlyGivenNames x; clear_value x)
    | extract_lets +onlyGivenNames x
    | split

/-- What `execLinkReset` keeps. -/
theorem execLinkReset_keeps {a s : State} (h : Keeps a s) (cause : LinkResetCause) :
    KeepsOut a (execLinkReset cause s) := by
  unfold execLinkReset
  repeat'
    first
    | with_reducible assumption
    | with_reducible refine State.resetHi_keeps ?_
    | with_reducible refine State.settle_keeps ?_
    | with_reducible refine State.beginReset_keeps ?_ _ _ _ _
    | refine KeepsOut.next ?_
    | (extract_lets +onlyGivenNames x; refine (fun (hx : Keeps a x) => ?_) ?_; clear_value x; rotate_left; simp only [x])
    | (extract_lets +onlyGivenNames x; refine (fun (hx : Keeps a x) => ?_) ?_; rotate_left; simp only [x])
    | (extract_lets +onlyGivenNames x; have _g : Dev := x)
    | (extract_lets +onlyGivenNames x; clear_value x)
    | extract_lets +onlyGivenNames x
    | split
    | (simp only [keeps_mk]; refine KeepsMk.same rfl ?_ rfl rfl rfl rfl rfl rfl rfl rfl rfl rfl rfl)

/-- What `execPf0Flr` keeps. -/
theorem execPf0Flr_keeps {a s : State} (h : Keeps a s) :
    KeepsOut a (execPf0Flr s) := by
  unfold execPf0Flr
  repeat'
    first
    | with_reducible assumption
    | with_reducible refine State.tlp_keeps ?_
    | with_reducible refine State.settle_keeps ?_
    | with_reducible refine State.beginReset_keeps ?_ _ _ _ _
    | refine KeepsOut.next ?_
    | (extract_lets +onlyGivenNames x; refine (fun (hx : Keeps a x) => ?_) ?_; clear_value x; rotate_left; simp only [x])
    | (extract_lets +onlyGivenNames x; refine (fun (hx : Keeps a x) => ?_) ?_; rotate_left; simp only [x])
    | (extract_lets +onlyGivenNames x; clear_value x)
    | extract_lets +onlyGivenNames x
    | split
    | (simp only [keeps_mk]; refine KeepsMk.same rfl ?_ rfl rfl rfl rfl rfl rfl rfl rfl rfl rfl rfl)

/-- What `execFlr` keeps. -/
theorem execFlr_keeps {a s : State} (h : Keeps a s) (vf : Fin 8) :
    KeepsOut a (execFlr vf s) := by
  unfold execFlr
  repeat'
    first
    | with_reducible assumption
    | with_reducible refine State.settle_keeps ?_
    | with_reducible refine State.resetVf_keeps ?_ _ _
    | with_reducible refine State.tlp_keeps ?_
    | refine KeepsOut.next ?_
    | split

/-- What `execVfResetDone` keeps. -/
theorem execVfResetDone_keeps {a0 s : State} (h0 : Keeps a0 s) (vf : Fin 8) :
    KeepsOut a0 (execVfResetDone vf s) := by
  unfold execVfResetDone
  repeat'
    first
    | with_reducible assumption
    | with_reducible refine Keeps.of_eq (by assumption) ?_
    | with_reducible refine State.scrubBins_keeps ?_ _
    | with_reducible refine State.returnCores_keeps ?_ _
    | with_reducible refine State.freePart_keeps ?_ _
    | with_reducible refine State.refillAll_keeps ?_
    | with_reducible refine State.settle_keeps ?_
    | with_reducible refine State.setPart_keeps ?_ _ _
    | refine KeepsOut.next ?_
    | (extract_lets +onlyGivenNames x; refine (fun (hx : Keeps a0 x) => ?_) ?_; clear_value x; rotate_left; simp only [x])
    | (extract_lets +onlyGivenNames x; refine (fun (hx : Keeps a0 x) => ?_) ?_; rotate_left; simp only [x])
    | (extract_lets +onlyGivenNames x; refine (fun (hx : Keeps a0 x.1) => ?_) ?_; clear_value x; rotate_left; simp only [x])
    | (extract_lets +onlyGivenNames x; refine (fun (hx : Keeps a0 x.1) => ?_) ?_; rotate_left; simp only [x])
    | (extract_lets +onlyGivenNames x; clear_value x)
    | extract_lets +onlyGivenNames x
    | split
    | dsimp only
    | (simp only [keeps_mk]; refine KeepsMk.same rfl ?_ rfl rfl rfl rfl rfl rfl rfl rfl rfl rfl rfl)

/-- What `execVfEnableChange` keeps. -/
theorem execVfEnableChange_keeps {a s : State} (h : Keeps a s) (enable : Bool) (numVFs : Fin 9) :
    KeepsOut a (execVfEnableChange enable numVFs s) := by
  unfold execVfEnableChange
  repeat'
    first
    | with_reducible assumption
    | with_reducible refine State.settle_keeps ?_
    | with_reducible refine State.setVfs_keeps ?_ _ _
    | with_reducible refine State.tlp_keeps ?_
    | refine KeepsOut.next ?_
    | split

/-- What `execSlotTrialTimeout` keeps. -/
theorem execSlotTrialTimeout_keeps {a s : State} (h : Keeps a s) :
    KeepsOut a (execSlotTrialTimeout s) := by
  unfold execSlotTrialTimeout
  repeat'
    first
    | with_reducible assumption
    | with_reducible refine State.mpRestarts_keeps ?_
    | refine KeepsOut.next ?_
    | (extract_lets +onlyGivenNames x; refine (fun (hx : Keeps a x) => ?_) ?_; clear_value x; rotate_left; simp only [x])
    | (extract_lets +onlyGivenNames x; refine (fun (hx : Keeps a x) => ?_) ?_; rotate_left; simp only [x])
    | (extract_lets +onlyGivenNames x; clear_value x)
    | extract_lets +onlyGivenNames x
    | split
    | (simp only [keeps_mk]; refine KeepsMk.same rfl ?_ rfl rfl rfl rfl rfl rfl rfl rfl rfl rfl rfl)

/-- What `execMpRestart` keeps. -/
theorem execMpRestart_keeps {a s : State} (h : Keeps a s) :
    KeepsOut a (execMpRestart s) := by
  unfold execMpRestart
  repeat'
    first
    | with_reducible assumption
    | with_reducible refine State.mpRestarts_keeps ?_
    | refine KeepsOut.next ?_
    | split

/-- What `execCpAbortReplyTimeout` keeps. -/
theorem execCpAbortReplyTimeout_keeps {a s : State} (h : Keeps a s) :
    KeepsOut a (execCpAbortReplyTimeout s) := by
  unfold execCpAbortReplyTimeout
  repeat'
    first
    | with_reducible assumption
    | with_reducible refine State.dropWork_keeps ?_
    | with_reducible refine State.endFlights_keeps ?_ _ _
    | with_reducible refine State.finishStop_keeps ?_
    | refine KeepsOut.next ?_
    | (extract_lets +onlyGivenNames x; refine (fun (hx : Keeps a x) => ?_) ?_; clear_value x; rotate_left; simp only [x])
    | (extract_lets +onlyGivenNames x; refine (fun (hx : Keeps a x) => ?_) ?_; rotate_left; simp only [x])
    | (extract_lets +onlyGivenNames x; have _g : Dev := x)
    | (extract_lets +onlyGivenNames x; clear_value x)
    | extract_lets +onlyGivenNames x
    | split
    | (simp only [keeps_mk]; refine KeepsMk.same rfl ?_ rfl rfl rfl rfl rfl rfl rfl rfl rfl rfl rfl)

/-- What `execReadCompletionDrop` keeps. -/
theorem execReadCompletionDrop_keeps {a s : State} (h : Keeps a s) :
    KeepsOut a (execReadCompletionDrop s) := by
  unfold execReadCompletionDrop
  repeat'
    first
    | with_reducible assumption
    | with_reducible refine State.finishStop_keeps ?_
    | refine KeepsOut.next ?_
    | (extract_lets +onlyGivenNames x; refine (fun (hx : Keeps a x) => ?_) ?_; clear_value x; rotate_left; simp only [x])
    | (extract_lets +onlyGivenNames x; refine (fun (hx : Keeps a x) => ?_) ?_; rotate_left; simp only [x])
    | (extract_lets +onlyGivenNames x; have _g : Dev := x)
    | (extract_lets +onlyGivenNames x; clear_value x)
    | extract_lets +onlyGivenNames x
    | split
    | (simp only [keeps_mk]; refine KeepsMk.same rfl ?_ rfl rfl rfl rfl rfl rfl rfl rfl rfl rfl rfl)

/-- What `execComputeResetRestart` keeps. -/
theorem execComputeResetRestart_keeps {a s : State} (h : Keeps a s) :
    KeepsOut a (execComputeResetRestart s) := by
  unfold execComputeResetRestart
  repeat'
    first
    | with_reducible assumption
    | with_reducible refine State.restart_keeps ?_
    | with_reducible refine State.mpBack_keeps ?_
    | refine KeepsOut.next ?_
    | (extract_lets +onlyGivenNames x; refine (fun (hx : Keeps a x) => ?_) ?_; clear_value x; rotate_left; simp only [x])
    | (extract_lets +onlyGivenNames x; refine (fun (hx : Keeps a x) => ?_) ?_; rotate_left; simp only [x])
    | (extract_lets +onlyGivenNames x; have _g : Dev := x)
    | (extract_lets +onlyGivenNames x; clear_value x)
    | extract_lets +onlyGivenNames x
    | split
    | (simp only [keeps_mk]; refine KeepsMk.same rfl ?_ rfl rfl rfl rfl rfl rfl rfl rfl rfl rfl rfl)

/-- What `execCaskInserted` keeps. -/
theorem execCaskInserted_keeps {a s : State} (h : Keeps a s) (media : CaskMedia) :
    KeepsOut a (execCaskInserted media s) := by
  unfold execCaskInserted
  repeat'
    first
    | with_reducible assumption
    | with_reducible refine State.caskArrives_keeps ?_ _
    | with_reducible refine State.mgtEvent_keeps ?_ _ _ _ _ _
    | refine KeepsOut.next ?_
    | (extract_lets +onlyGivenNames x; refine (fun (hx : Keeps a x) => ?_) ?_; clear_value x; rotate_left; simp only [x])
    | (extract_lets +onlyGivenNames x; refine (fun (hx : Keeps a x) => ?_) ?_; rotate_left; simp only [x])
    | (extract_lets +onlyGivenNames x; have _g : Dev := x)
    | (extract_lets +onlyGivenNames x; clear_value x)
    | extract_lets +onlyGivenNames x
    | split
    | (simp only [keeps_mk]; refine KeepsMk.same rfl ?_ rfl rfl rfl rfl rfl rfl rfl rfl rfl rfl rfl)

/-- What `execCaskRemoved` keeps. -/
theorem execCaskRemoved_keeps {a s : State} (h : Keeps a s) :
    KeepsOut a (execCaskRemoved s) := by
  unfold execCaskRemoved
  repeat'
    first
    | with_reducible assumption
    | with_reducible refine Keeps.fold ?_ _ (fun _ _ _ => ?_) _
    | with_reducible refine State.opAnswer_keeps ?_ _ _
    | with_reducible refine State.settle_keeps ?_
    | with_reducible refine State.mgtEvent_keeps ?_ _ _ _ _ _
    | with_reducible refine State.syncUpdate_keeps ?_
    | refine KeepsOut.next ?_
    | (extract_lets +onlyGivenNames x; refine (fun (hx : Keeps a x) => ?_) ?_; clear_value x; rotate_left; simp only [x])
    | (extract_lets +onlyGivenNames x; refine (fun (hx : Keeps a x) => ?_) ?_; rotate_left; simp only [x])
    | (extract_lets +onlyGivenNames x; have _g : Mgt := x)
    | (extract_lets +onlyGivenNames x; have _g : Dev := x)
    | (extract_lets +onlyGivenNames x; clear_value x)
    | extract_lets +onlyGivenNames x
    | split
    | (simp only [keeps_mk]; refine KeepsMk.same rfl ?_ rfl rfl rfl rfl rfl rfl rfl rfl rfl rfl rfl)

/-- What `execTraceClaim` keeps. -/
theorem execTraceClaim_keeps {a s : State} (h : Keeps a s) (resource : Fin 16) :
    KeepsOut a (execTraceClaim resource s) := by
  unfold execTraceClaim
  repeat'
    first
    | with_reducible assumption
    | with_reducible refine State.emit_keeps ?_ _
    | refine KeepsOut.next ?_
    | (extract_lets +onlyGivenNames x; refine (fun (hx : Keeps a x) => ?_) ?_; clear_value x; rotate_left; simp only [x])
    | (extract_lets +onlyGivenNames x; refine (fun (hx : Keeps a x) => ?_) ?_; rotate_left; simp only [x])
    | (extract_lets +onlyGivenNames x; have _g : Mgt := x)
    | (extract_lets +onlyGivenNames x; clear_value x)
    | extract_lets +onlyGivenNames x
    | split
    | (simp only [keeps_mk]; refine KeepsMk.same rfl ?_ rfl rfl rfl rfl rfl rfl rfl rfl rfl rfl rfl)

/-- What `execTraceRelease` keeps. -/
theorem execTraceRelease_keeps {a s : State} (h : Keeps a s) (resource : Fin 16) :
    KeepsOut a (execTraceRelease resource s) := by
  unfold execTraceRelease
  repeat'
    first
    | with_reducible assumption
    | refine KeepsOut.next ?_
    | (extract_lets +onlyGivenNames x; refine (fun (hx : Keeps a x) => ?_) ?_; clear_value x; rotate_left; simp only [x])
    | (extract_lets +onlyGivenNames x; refine (fun (hx : Keeps a x) => ?_) ?_; rotate_left; simp only [x])
    | (extract_lets +onlyGivenNames x; have _g : Mgt := x)
    | (extract_lets +onlyGivenNames x; clear_value x)
    | extract_lets +onlyGivenNames x
    | split
    | (simp only [keeps_mk]; refine KeepsMk.same rfl ?_ rfl rfl rfl rfl rfl rfl rfl rfl rfl rfl rfl)

/-- What `execLinkChange` keeps. -/
theorem execLinkChange_keeps {a s : State} (h : Keeps a s) (up : Bool) (width : Fin 6) (speed : Fin 6) :
    KeepsOut a (execLinkChange up width speed s) := by
  unfold execLinkChange
  repeat'
    first
    | with_reducible assumption
    | with_reducible refine State.log_keeps ?_ _ _ _ _ _
    | refine KeepsOut.next ?_
    | (extract_lets +onlyGivenNames x; refine (fun (hx : Keeps a x) => ?_) ?_; clear_value x; rotate_left; simp only [x])
    | (extract_lets +onlyGivenNames x; refine (fun (hx : Keeps a x) => ?_) ?_; rotate_left; simp only [x])
    | (extract_lets +onlyGivenNames x; have _g : Dev := x)
    | (extract_lets +onlyGivenNames x; clear_value x)
    | extract_lets +onlyGivenNames x
    | split
    | (simp only [keeps_mk]; refine KeepsMk.same rfl ?_ rfl rfl rfl rfl rfl rfl rfl rfl rfl rfl rfl)

/-- What `execL0sEntry` keeps. -/
theorem execL0sEntry_keeps {a s : State} (h : Keeps a s) :
    KeepsOut a (execL0sEntry s) := by
  unfold execL0sEntry
  repeat'
    first
    | with_reducible assumption
    | refine KeepsOut.next ?_
    | (extract_lets +onlyGivenNames x; refine (fun (hx : Keeps a x) => ?_) ?_; clear_value x; rotate_left; simp only [x])
    | (extract_lets +onlyGivenNames x; refine (fun (hx : Keeps a x) => ?_) ?_; rotate_left; simp only [x])
    | (extract_lets +onlyGivenNames x; clear_value x)
    | extract_lets +onlyGivenNames x
    | split
    | (simp only [keeps_mk]; refine KeepsMk.same rfl ?_ rfl rfl rfl rfl rfl rfl rfl rfl rfl rfl rfl)

/-- What `execL1Entry` keeps. -/
theorem execL1Entry_keeps {a s : State} (h : Keeps a s) (clkreqReleased : Bool) (ltrThresholdNs : Nat) :
    KeepsOut a (execL1Entry clkreqReleased ltrThresholdNs s) := by
  unfold execL1Entry
  repeat'
    first
    | with_reducible assumption
    | refine KeepsOut.next ?_
    | (extract_lets +onlyGivenNames x; refine (fun (hx : Keeps a x) => ?_) ?_; clear_value x; rotate_left; simp only [x])
    | (extract_lets +onlyGivenNames x; refine (fun (hx : Keeps a x) => ?_) ?_; rotate_left; simp only [x])
    | (extract_lets +onlyGivenNames x; clear_value x)
    | extract_lets +onlyGivenNames x
    | split
    | (simp only [keeps_mk]; refine KeepsMk.same rfl ?_ rfl rfl rfl rfl rfl rfl rfl rfl rfl rfl rfl)

/-- What `execLogFlush` keeps. -/
theorem execLogFlush_keeps {a s : State} (h : Keeps a s) :
    KeepsOut a (execLogFlush s) := by
  unfold execLogFlush
  repeat'
    first
    | with_reducible assumption
    | with_reducible refine State.flushLog_keeps ?_
    | refine KeepsOut.next ?_
    | split

/-- What `execHeartbeat` keeps. -/
theorem execHeartbeat_keeps {a s : State} (h : Keeps a s) (cpAnswers : Bool) (celAnswers : Bool) :
    KeepsOut a (execHeartbeat cpAnswers celAnswers s) := by
  unfold execHeartbeat
  repeat'
    first
    | with_reducible assumption
    | with_reducible refine State.deviceFault_keeps ?_ _ _ _
    | refine KeepsOut.next ?_
    | (extract_lets +onlyGivenNames x; refine (fun (hx : Keeps a x) => ?_) ?_; clear_value x; rotate_left; simp only [x])
    | (extract_lets +onlyGivenNames x; refine (fun (hx : Keeps a x) => ?_) ?_; rotate_left; simp only [x])
    | (extract_lets +onlyGivenNames x; refine (fun (hx : Keeps a x.1) => ?_) ?_; clear_value x; rotate_left; simp only [x])
    | (extract_lets +onlyGivenNames x; refine (fun (hx : Keeps a x.1) => ?_) ?_; rotate_left; simp only [x])
    | (extract_lets +onlyGivenNames x; have _g : Dev := x)
    | (extract_lets +onlyGivenNames x; clear_value x)
    | extract_lets +onlyGivenNames x
    | split
    | (simp only [keeps_mk]; refine KeepsMk.same rfl ?_ rfl rfl rfl rfl rfl rfl rfl rfl rfl rfl rfl)

/-- What `execEntdaa` keeps. -/
theorem execEntdaa_keeps {a s : State} (h : Keeps a s) (address : Fin 128) :
    KeepsOut a (execEntdaa address s) := by
  unfold execEntdaa
  repeat'
    first
    | with_reducible assumption
    | refine KeepsOut.next ?_
    | (extract_lets +onlyGivenNames x; refine (fun (hx : Keeps a x) => ?_) ?_; clear_value x; rotate_left; simp only [x])
    | (extract_lets +onlyGivenNames x; refine (fun (hx : Keeps a x) => ?_) ?_; rotate_left; simp only [x])
    | (extract_lets +onlyGivenNames x; have _g : Mgt := x)
    | (extract_lets +onlyGivenNames x; clear_value x)
    | extract_lets +onlyGivenNames x
    | split
    | (simp only [keeps_mk]; refine KeepsMk.same rfl ?_ rfl rfl rfl rfl rfl rfl rfl rfl rfl rfl rfl)

/-- What `execSidebandReset` keeps. -/
theorem execSidebandReset_keeps {a s : State} (h : Keeps a s) :
    KeepsOut a (execSidebandReset s) := by
  unfold execSidebandReset
  repeat'
    first
    | with_reducible assumption
    | refine KeepsOut.next ?_
    | (extract_lets +onlyGivenNames x; refine (fun (hx : Keeps a x) => ?_) ?_; clear_value x; rotate_left; simp only [x])
    | (extract_lets +onlyGivenNames x; refine (fun (hx : Keeps a x) => ?_) ?_; rotate_left; simp only [x])
    | (extract_lets +onlyGivenNames x; have _g : Mgt := x)
    | (extract_lets +onlyGivenNames x; clear_value x)
    | extract_lets +onlyGivenNames x
    | split
    | (simp only [keeps_mk]; refine KeepsMk.same rfl ?_ rfl rfl rfl rfl rfl rfl rfl rfl rfl rfl rfl)

/-- What `execDramRead` keeps. -/
theorem execDramRead_keeps {a s : State} (h : Keeps a s) (line : Nat) (ecc : EccFind) :
    KeepsOut a (execDramRead line ecc s) := by
  unfold execDramRead
  repeat'
    first
    | with_reducible assumption
    | with_reducible refine State.memRequest_keeps ?_ _ _
    | refine KeepsOut.next ?_
    | (simp only [keeps_mk]; refine KeepsMk.same rfl ?_ rfl rfl rfl rfl rfl rfl rfl rfl rfl rfl rfl)

/-- What `execDramWrite` keeps. -/
theorem execDramWrite_keeps {a s : State} (h : Keeps a s) (line : Nat) (data : List Byte) (poison : Bool) (cls : WriteClass) :
    KeepsOut a (execDramWrite line data poison cls s) := by
  unfold execDramWrite
  repeat'
    first
    | with_reducible assumption
    | with_reducible refine State.memRequest_keeps ?_ _ _
    | refine KeepsOut.next ?_
    | (simp only [keeps_mk]; refine KeepsMk.same rfl ?_ rfl rfl rfl rfl rfl rfl rfl rfl rfl rfl rfl)

/-- What `execRefresh` keeps. -/
theorem execRefresh_keeps {a s : State} (h : Keeps a s) (ch : Fin 12) (rank : Fin 2) (readMargin : Nat) (writeMargin : Nat) (moved : Bool) :
    KeepsOut a (execRefresh ch rank readMargin writeMargin moved s) := by
  unfold execRefresh
  repeat'
    first
    | with_reducible assumption
    | with_reducible refine State.setChan_keeps ?_ _ _
    | refine KeepsOut.next ?_
    | (extract_lets +onlyGivenNames x; refine (fun (hx : Keeps a x) => ?_) ?_; clear_value x; rotate_left; simp only [x])
    | (extract_lets +onlyGivenNames x; refine (fun (hx : Keeps a x) => ?_) ?_; rotate_left; simp only [x])
    | (extract_lets +onlyGivenNames x; refine (fun (hx : Keeps a x.1) => ?_) ?_; clear_value x; rotate_left; simp only [x])
    | (extract_lets +onlyGivenNames x; refine (fun (hx : Keeps a x.1) => ?_) ?_; rotate_left; simp only [x])
    | (extract_lets +onlyGivenNames x; clear_value x)
    | extract_lets +onlyGivenNames x
    | split
    | (simp only [keeps_mk]; refine KeepsMk.same rfl ?_ rfl rfl rfl rfl rfl rfl rfl rfl rfl rfl rfl)

/-- What `execRetrainHoldDone` keeps. -/
theorem execRetrainHoldDone_keeps {a s : State} (h : Keeps a s) (ch : Fin 12) (readMargin : Nat) (writeMargin : Nat) :
    KeepsOut a (execRetrainHoldDone ch readMargin writeMargin s) := by
  unfold execRetrainHoldDone
  repeat'
    first
    | with_reducible assumption
    | with_reducible refine Keeps.fold ?_ _ (fun _ _ _ => ?_) _
    | with_reducible refine State.setChan_keeps ?_ _ _
    | with_reducible refine State.failChannel_keeps ?_ _
    | with_reducible refine State.serveReq_keeps ?_ _
    | refine KeepsOut.next ?_
    | (extract_lets +onlyGivenNames x; refine (fun (hx : Keeps a x) => ?_) ?_; clear_value x; rotate_left; simp only [x])
    | (extract_lets +onlyGivenNames x; refine (fun (hx : Keeps a x) => ?_) ?_; rotate_left; simp only [x])
    | (extract_lets +onlyGivenNames x; clear_value x)
    | extract_lets +onlyGivenNames x
    | split
    | (simp only [keeps_mk]; refine KeepsMk.same rfl ?_ rfl rfl rfl rfl rfl rfl rfl rfl rfl rfl rfl)

/-- What `execDramTempPoll` keeps. -/
theorem execDramTempPoll_keeps {a s : State} (h : Keeps a s) (ch : Fin 12) (ranges : List (Fin 3)) :
    KeepsOut a (execDramTempPoll ch ranges s) := by
  unfold execDramTempPoll
  repeat'
    first
    | with_reducible assumption
    | with_reducible refine State.setChan_keeps ?_ _ _
    | refine KeepsOut.next ?_
    | (extract_lets +onlyGivenNames x; refine (fun (hx : Keeps a x) => ?_) ?_; clear_value x; rotate_left; simp only [x])
    | (extract_lets +onlyGivenNames x; refine (fun (hx : Keeps a x) => ?_) ?_; rotate_left; simp only [x])
    | (extract_lets +onlyGivenNames x; clear_value x)
    | extract_lets +onlyGivenNames x
    | split
    | (simp only [keeps_mk]; refine KeepsMk.same rfl ?_ rfl rfl rfl rfl rfl rfl rfl rfl rfl rfl rfl)

/-- What `execCaParityAlert` keeps. -/
theorem execCaParityAlert_keeps {a s : State} (h : Keeps a s) (ch : Fin 12) :
    KeepsOut a (execCaParityAlert ch s) := by
  unfold execCaParityAlert
  repeat'
    first
    | with_reducible assumption
    | with_reducible refine State.setChan_keeps ?_ _ _
    | refine KeepsOut.next ?_
    | (extract_lets +onlyGivenNames x; refine (fun (hx : Keeps a x) => ?_) ?_; clear_value x; rotate_left; simp only [x])
    | (extract_lets +onlyGivenNames x; refine (fun (hx : Keeps a x) => ?_) ?_; rotate_left; simp only [x])
    | (extract_lets +onlyGivenNames x; clear_value x)
    | extract_lets +onlyGivenNames x
    | split
    | (simp only [keeps_mk]; refine KeepsMk.same rfl ?_ rfl rfl rfl rfl rfl rfl rfl rfl rfl rfl rfl)

/-- What `execWriteCrcAlert` keeps. -/
theorem execWriteCrcAlert_keeps {a s : State} (h : Keeps a s) (ch : Fin 12) :
    KeepsOut a (execWriteCrcAlert ch s) := by
  unfold execWriteCrcAlert
  repeat'
    first
    | with_reducible assumption
    | with_reducible refine State.setChan_keeps ?_ _ _
    | refine KeepsOut.next ?_
    | (extract_lets +onlyGivenNames x; refine (fun (hx : Keeps a x) => ?_) ?_; clear_value x; rotate_left; simp only [x])
    | (extract_lets +onlyGivenNames x; refine (fun (hx : Keeps a x) => ?_) ?_; rotate_left; simp only [x])
    | (extract_lets +onlyGivenNames x; clear_value x)
    | extract_lets +onlyGivenNames x
    | split
    | (simp only [keeps_mk]; refine KeepsMk.same rfl ?_ rfl rfl rfl rfl rfl rfl rfl rfl rfl rfl rfl)

/-- What `execWriteCrcIntervalStart` keeps. -/
theorem execWriteCrcIntervalStart_keeps {a s : State} (h : Keeps a s) (ch : Fin 12) :
    KeepsOut a (execWriteCrcIntervalStart ch s) := by
  unfold execWriteCrcIntervalStart
  repeat'
    first
    | with_reducible assumption
    | with_reducible refine State.setChan_keeps ?_ _ _
    | refine KeepsOut.next ?_
    | (extract_lets +onlyGivenNames x; refine (fun (hx : Keeps a x) => ?_) ?_; clear_value x; rotate_left; simp only [x])
    | (extract_lets +onlyGivenNames x; refine (fun (hx : Keeps a x) => ?_) ?_; rotate_left; simp only [x])
    | (extract_lets +onlyGivenNames x; clear_value x)
    | extract_lets +onlyGivenNames x
    | split
    | (simp only [keeps_mk]; refine KeepsMk.same rfl ?_ rfl rfl rfl rfl rfl rfl rfl rfl rfl rfl rfl)

/-- What `execWriteCrcIntervalEnd` keeps. -/
theorem execWriteCrcIntervalEnd_keeps {a s : State} (h : Keeps a s) (ch : Fin 12) :
    KeepsOut a (execWriteCrcIntervalEnd ch s) := by
  unfold execWriteCrcIntervalEnd
  repeat'
    first
    | with_reducible assumption
    | with_reducible refine State.setChan_keeps ?_ _ _
    | refine KeepsOut.next ?_
    | (extract_lets +onlyGivenNames x; refine (fun (hx : Keeps a x) => ?_) ?_; clear_value x; rotate_left; simp only [x])
    | (extract_lets +onlyGivenNames x; refine (fun (hx : Keeps a x) => ?_) ?_; rotate_left; simp only [x])
    | (extract_lets +onlyGivenNames x; clear_value x)
    | extract_lets +onlyGivenNames x
    | split
    | (simp only [keeps_mk]; refine KeepsMk.same rfl ?_ rfl rfl rfl rfl rfl rfl rfl rfl rfl rfl rfl)

/-- What `execPatrolScrubLine` keeps. -/
theorem execPatrolScrubLine_keeps {a s : State} (h : Keeps a s) (ecc : EccFind) :
    KeepsOut a (execPatrolScrubLine ecc s) := by
  unfold execPatrolScrubLine
  repeat'
    first
    | with_reducible assumption
    | with_reducible refine State.patrolNext_keeps ?_ _
    | with_reducible refine State.patrolRead_keeps ?_ _ _
    | refine KeepsOut.next ?_
    | (extract_lets +onlyGivenNames x; refine (fun (hx : Keeps a x) => ?_) ?_; clear_value x; rotate_left; simp only [x])
    | (extract_lets +onlyGivenNames x; refine (fun (hx : Keeps a x) => ?_) ?_; rotate_left; simp only [x])
    | (extract_lets +onlyGivenNames x; clear_value x)
    | extract_lets +onlyGivenNames x
    | split

/-- What `execPrechargePowerDown` keeps. -/
theorem execPrechargePowerDown_keeps {a s : State} (h : Keeps a s) (ch : Fin 12) (rank : Fin 2) :
    KeepsOut a (execPrechargePowerDown ch rank s) := by
  unfold execPrechargePowerDown
  repeat'
    first
    | with_reducible assumption
    | with_reducible refine State.setChan_keeps ?_ _ _
    | refine KeepsOut.next ?_
    | (extract_lets +onlyGivenNames x; refine (fun (hx : Keeps a x) => ?_) ?_; clear_value x; rotate_left; simp only [x])
    | (extract_lets +onlyGivenNames x; refine (fun (hx : Keeps a x) => ?_) ?_; rotate_left; simp only [x])
    | (extract_lets +onlyGivenNames x; clear_value x)
    | extract_lets +onlyGivenNames x
    | split
    | (simp only [keeps_mk]; refine KeepsMk.same rfl ?_ rfl rfl rfl rfl rfl rfl rfl rfl rfl rfl rfl)

/-- What `execPatgenGo` keeps. -/
theorem execPatgenGo_keeps {a s : State} (h : Keeps a s) (ch : Fin 12) (value : BitVec 32) :
    KeepsOut a (execPatgenGo ch value s) := by
  unfold execPatgenGo
  repeat'
    first
    | with_reducible assumption
    | with_reducible refine State.setChan_keeps ?_ _ _
    | with_reducible refine State.loseBursts_keeps ?_ _ _ _
    | refine KeepsOut.next ?_
    | (extract_lets +onlyGivenNames x; refine (fun (hx : Keeps a x) => ?_) ?_; clear_value x; rotate_left; simp only [x])
    | (extract_lets +onlyGivenNames x; refine (fun (hx : Keeps a x) => ?_) ?_; rotate_left; simp only [x])
    | (extract_lets +onlyGivenNames x; clear_value x)
    | extract_lets +onlyGivenNames x
    | split
    | (simp only [keeps_mk]; refine KeepsMk.same rfl ?_ rfl rfl rfl rfl rfl rfl rfl rfl rfl rfl rfl)

/-- What `execPatgenDone` keeps. -/
theorem execPatgenDone_keeps {a s : State} (h : Keeps a s) (ch : Fin 12) (errors : Nat) (firstLane : Fin 72) :
    KeepsOut a (execPatgenDone ch errors firstLane s) := by
  unfold execPatgenDone
  repeat'
    first
    | with_reducible assumption
    | with_reducible refine State.setChan_keeps ?_ _ _
    | refine KeepsOut.next ?_
    | (extract_lets +onlyGivenNames x; refine (fun (hx : Keeps a x) => ?_) ?_; clear_value x; rotate_left; simp only [x])
    | (extract_lets +onlyGivenNames x; refine (fun (hx : Keeps a x) => ?_) ?_; rotate_left; simp only [x])
    | (extract_lets +onlyGivenNames x; clear_value x)
    | extract_lets +onlyGivenNames x
    | split
    | (simp only [keeps_mk]; refine KeepsMk.same rfl ?_ rfl rfl rfl rfl rfl rfl rfl rfl rfl rfl rfl)

/-- What `execCtrlNop` keeps. -/
theorem execCtrlNop_keeps {a s : State} (h : Keeps a s) (core : Fin 8) :
    KeepsOut a (execCtrlNop core s) := by
  unfold execCtrlNop
  repeat'
    first
    | with_reducible assumption
    | with_reducible refine State.tick_keeps ?_ _ _
    | refine KeepsOut.next ?_
    | split

/-- What `execFence` keeps. -/
theorem execFence_keeps {a s : State} (h : Keeps a s) (core : Fin 8) :
    KeepsOut a (execFence core s) := by
  unfold execFence
  repeat'
    first
    | with_reducible assumption
    | with_reducible refine State.tick_keeps ?_ _ _
    | refine KeepsOut.next ?_
    | split

/-- What `execMark` keeps. -/
theorem execMark_keeps {a s : State} (h : Keeps a s) (core : Fin 8) (value : BitVec 32) :
    KeepsOut a (execMark core value s) := by
  unfold execMark
  repeat'
    first
    | with_reducible assumption
    | with_reducible refine State.setActive_keeps ?_ _ _
    | with_reducible refine State.tick_keeps ?_ _ _
    | refine KeepsOut.next ?_
    | (extract_lets +onlyGivenNames x; refine (fun (hx : Keeps a x) => ?_) ?_; clear_value x; rotate_left; simp only [x])
    | (extract_lets +onlyGivenNames x; refine (fun (hx : Keeps a x) => ?_) ?_; rotate_left; simp only [x])
    | (extract_lets +onlyGivenNames x; clear_value x)
    | extract_lets +onlyGivenNames x
    | split
    | (simp only [keeps_mk]; refine KeepsMk.same rfl ?_ rfl rfl rfl rfl rfl rfl rfl rfl rfl rfl rfl)

/-- What `execGeom` keeps. -/
theorem execGeom_keeps {a0 s : State} (h0 : Keeps a0 s) (core : Fin 8) (slotMask : BitVec 4) (index : Fin 4096) (window : Bool) :
    KeepsOut a0 (execGeom core slotMask index window s) := by
  unfold execGeom
  repeat'
    first
    | with_reducible assumption
    | with_reducible refine Keeps.fold ?_ _ (fun _ _ _ => ?_) _
    | with_reducible refine Keeps.foldPair ?_ _ (fun _ _ _ => ?_) _
    | with_reducible refine Keeps.of_eq (by assumption) ?_
    | with_reducible refine State.tick_keeps ?_ _ _
    | with_reducible refine State.setActive_keeps ?_ _ _
    | refine KeepsOut.next ?_
    | (extract_lets +onlyGivenNames x; refine (fun (hx : Keeps a0 x) => ?_) ?_; clear_value x; rotate_left; simp only [x])
    | (extract_lets +onlyGivenNames x; refine (fun (hx : Keeps a0 x) => ?_) ?_; rotate_left; simp only [x])
    | (extract_lets +onlyGivenNames x; refine (fun (hx : Keeps a0 x.1) => ?_) ?_; clear_value x; rotate_left; simp only [x])
    | (extract_lets +onlyGivenNames x; refine (fun (hx : Keeps a0 x.1) => ?_) ?_; rotate_left; simp only [x])
    | (extract_lets +onlyGivenNames x; clear_value x)
    | extract_lets +onlyGivenNames x
    | split
    | dsimp only
    | (simp only [keeps_mk]; refine KeepsMk.same rfl ?_ rfl rfl rfl rfl rfl rfl rfl rfl rfl rfl rfl)

/-- What `execWload` keeps. -/
theorem execWload_keeps {a0 s : State} (h0 : Keeps a0 s) (core : Fin 8) (binding : Fin 256) (plane : Fin 4) (diag : Fin 8) (s2 : Bool) (offset : Fin 16777216) (ecc : List StoreError) :
    KeepsOut a0 (execWload core binding plane diag s2 offset ecc s) := by
  unfold execWload
  repeat'
    first
    | with_reducible assumption
    | with_reducible refine Keeps.of_eq (by assumption) ?_
    | with_reducible refine State.eccFound_keeps ?_ _ _ _
    | with_reducible refine State.tick_keeps ?_ _ _
    | with_reducible refine State.setActive_keeps ?_ _ _
    | refine KeepsOut.next ?_
    | (extract_lets +onlyGivenNames x; refine (fun (hx : Keeps a0 x) => ?_) ?_; clear_value x; rotate_left; simp only [x])
    | (extract_lets +onlyGivenNames x; refine (fun (hx : Keeps a0 x) => ?_) ?_; rotate_left; simp only [x])
    | (extract_lets +onlyGivenNames x; refine (fun (hx : Keeps a0 x.1) => ?_) ?_; clear_value x; rotate_left; simp only [x])
    | (extract_lets +onlyGivenNames x; refine (fun (hx : Keeps a0 x.1) => ?_) ?_; rotate_left; simp only [x])
    | (extract_lets +onlyGivenNames x; clear_value x)
    | extract_lets +onlyGivenNames x
    | split
    | dsimp only
    | (simp only [keeps_mk]; refine KeepsMk.same rfl ?_ rfl rfl rfl rfl rfl rfl rfl rfl rfl rfl rfl)

/-- What `execWeightShadowLoaded` keeps. -/
theorem execWeightShadowLoaded_keeps {a s : State} (h : Keeps a s) (core : Fin 8) :
    KeepsOut a (execWeightShadowLoaded core s) := by
  unfold execWeightShadowLoaded
  repeat'
    first
    | with_reducible assumption
    | with_reducible refine State.setActive_keeps ?_ _ _
    | refine KeepsOut.next ?_
    | (extract_lets +onlyGivenNames x; refine (fun (hx : Keeps a x) => ?_) ?_; clear_value x; rotate_left; simp only [x])
    | (extract_lets +onlyGivenNames x; refine (fun (hx : Keeps a x) => ?_) ?_; rotate_left; simp only [x])
    | (extract_lets +onlyGivenNames x; clear_value x)
    | extract_lets +onlyGivenNames x
    | split
    | (simp only [keeps_mk]; refine KeepsMk.same rfl ?_ rfl rfl rfl rfl rfl rfl rfl rfl rfl rfl rfl)

/-- What `execSlot` keeps. -/
theorem execSlot_keeps {a0 s : State} (h0 : Keeps a0 s) (core : Fin 8) (slot : Fin 4) (binding : Fin 256) (plane : Fin 4) (p : Fin 64) (chain : Fin 256) (p0 : BitVec 32) :
    KeepsOut a0 (execSlot core slot binding plane p chain p0 s) := by
  unfold execSlot
  repeat'
    first
    | with_reducible assumption
    | with_reducible refine Keeps.of_eq (by assumption) ?_
    | with_reducible refine State.tick_keeps ?_ _ _
    | with_reducible refine State.setActive_keeps ?_ _ _
    | refine KeepsOut.next ?_
    | (extract_lets +onlyGivenNames x; refine (fun (hx : Keeps a0 x) => ?_) ?_; clear_value x; rotate_left; simp only [x])
    | (extract_lets +onlyGivenNames x; refine (fun (hx : Keeps a0 x) => ?_) ?_; rotate_left; simp only [x])
    | (extract_lets +onlyGivenNames x; refine (fun (hx : Keeps a0 x.1) => ?_) ?_; clear_value x; rotate_left; simp only [x])
    | (extract_lets +onlyGivenNames x; refine (fun (hx : Keeps a0 x.1) => ?_) ?_; rotate_left; simp only [x])
    | (extract_lets +onlyGivenNames x; clear_value x)
    | extract_lets +onlyGivenNames x
    | split
    | dsimp only
    | (simp only [keeps_mk]; refine KeepsMk.same rfl ?_ rfl rfl rfl rfl rfl rfl rfl rfl rfl rfl rfl)

/-- What `execPass` keeps. -/
theorem execPass_keeps {a0 s : State} (h0 : Keeps a0 s) (core : Fin 8) (slotMask : BitVec 4) (neww : Bool) (bank : Bool) (opening : Bool) (block : Fin 512) (faults : List CellFault) (ecc : List StoreError) :
    KeepsOut a0 (execPass core slotMask neww bank opening block faults ecc s) := by
  unfold execPass
  repeat'
    first
    | with_reducible assumption
    | with_reducible refine Keeps.of_eq (by assumption) ?_
    | with_reducible refine State.beginPass_keeps ?_ _ _ _ _ _
    | with_reducible refine State.eccFound_keeps ?_ _ _ _
    | with_reducible refine State.tick_keeps ?_ _ _
    | with_reducible refine State.recordCheck_keeps ?_ _ _
    | with_reducible refine State.stopQuire_keeps ?_ _ _
    | with_reducible refine State.stageTiles_keeps ?_ _ _ _ _ _ _
    | with_reducible refine State.runPass_keeps ?_ _ _ _ _ _ _ _ _ _ _ _
    | refine KeepsOut.next ?_
    | (extract_lets +onlyGivenNames x; refine (fun (hx : Keeps a0 x) => ?_) ?_; clear_value x; rotate_left; simp only [x])
    | (extract_lets +onlyGivenNames x; refine (fun (hx : Keeps a0 x) => ?_) ?_; rotate_left; simp only [x])
    | (extract_lets +onlyGivenNames x; refine (fun (hx : Keeps a0 x.1) => ?_) ?_; clear_value x; rotate_left; simp only [x])
    | (extract_lets +onlyGivenNames x; refine (fun (hx : Keeps a0 x.1) => ?_) ?_; rotate_left; simp only [x])
    | (extract_lets +onlyGivenNames x; clear_value x)
    | extract_lets +onlyGivenNames x
    | split
    | dsimp only
    | (simp only [keeps_mk]; refine KeepsMk.same rfl ?_ rfl rfl rfl rfl rfl rfl rfl rfl rfl rfl rfl)

/-- What `execFlush` keeps. -/
theorem execFlush_keeps {a0 s : State} (h0 : Keeps a0 s) (core : Fin 8) (slotMask : BitVec 4) (bank : Bool) (shift : Fin 8) (convert : Bool) (chain : Fin 256) (outBinding : Fin 256) (colTile : Fin 256) (accSet : Bool) (ecc : List StoreError) :
    KeepsOut a0 (execFlush core slotMask bank shift convert chain outBinding colTile accSet ecc s) := by
  unfold execFlush
  repeat'
    first
    | with_reducible assumption
    | with_reducible refine Keeps.fold ?_ _ (fun _ _ _ => ?_) _
    | with_reducible refine Keeps.foldPair ?_ _ (fun _ _ _ => ?_) _
    | with_reducible refine Keeps.of_eq (by assumption) ?_
    | with_reducible refine State.eccFound_keeps ?_ _ _ _
    | with_reducible refine State.stopQuire_keeps ?_ _ _
    | with_reducible refine State.drainBank_keeps ?_ _ _ _ _ _
    | with_reducible refine State.setActive_keeps ?_ _ _
    | with_reducible refine State.convertFlush_keeps ?_ _ _ _ _ _ _ _ _ _
    | with_reducible refine State.tick_keeps ?_ _ _
    | refine KeepsOut.next ?_
    | (extract_lets +onlyGivenNames x; refine (fun (hx : Keeps a0 x) => ?_) ?_; clear_value x; rotate_left; simp only [x])
    | (extract_lets +onlyGivenNames x; refine (fun (hx : Keeps a0 x) => ?_) ?_; rotate_left; simp only [x])
    | (extract_lets +onlyGivenNames x; refine (fun (hx : Keeps a0 x.1) => ?_) ?_; clear_value x; rotate_left; simp only [x])
    | (extract_lets +onlyGivenNames x; refine (fun (hx : Keeps a0 x.1) => ?_) ?_; rotate_left; simp only [x])
    | (extract_lets +onlyGivenNames x; clear_value x)
    | extract_lets +onlyGivenNames x
    | split
    | dsimp only
    | (simp only [keeps_mk]; refine KeepsMk.same rfl ?_ rfl rfl rfl rfl rfl rfl rfl rfl rfl rfl rfl)

/-- What `execEpilogueWriteDone` keeps. -/
theorem execEpilogueWriteDone_keeps {a0 s : State} (h0 : Keeps a0 s) (core : Fin 8) :
    KeepsOut a0 (execEpilogueWriteDone core s) := by
  unfold execEpilogueWriteDone
  repeat'
    first
    | with_reducible assumption
    | with_reducible refine Keeps.fold ?_ _ (fun _ _ _ => ?_) _
    | with_reducible refine Keeps.foldPair ?_ _ (fun _ _ _ => ?_) _
    | with_reducible refine Keeps.of_eq (by assumption) ?_
    | with_reducible refine State.setCore_keeps ?_ _ _
    | with_reducible refine State.cleanLines_keeps ?_ _ _
    | with_reducible refine State.landWrite_keeps ?_ _ _
    | with_reducible refine State.clearTouched_keeps ?_ _ _ _
    | with_reducible refine State.decideZero_keeps ?_ _ _ _ _
    | with_reducible refine State.decideFine_keeps ?_ _
    | refine KeepsOut.next ?_
    | (extract_lets +onlyGivenNames x; refine (fun (hx : Keeps a0 x) => ?_) ?_; clear_value x; rotate_left; simp only [x])
    | (extract_lets +onlyGivenNames x; refine (fun (hx : Keeps a0 x) => ?_) ?_; rotate_left; simp only [x])
    | (extract_lets +onlyGivenNames x; refine (fun (hx : Keeps a0 x.1) => ?_) ?_; clear_value x; rotate_left; simp only [x])
    | (extract_lets +onlyGivenNames x; refine (fun (hx : Keeps a0 x.1) => ?_) ?_; rotate_left; simp only [x])
    | (extract_lets +onlyGivenNames x; clear_value x)
    | extract_lets +onlyGivenNames x
    | split
    | dsimp only
    | (simp only [keeps_mk]; refine KeepsMk.same rfl ?_ rfl rfl rfl rfl rfl rfl rfl rfl rfl rfl rfl)

/-- What `execEndQuire` keeps. -/
theorem execEndQuire_keeps {a0 s : State} (h0 : Keeps a0 s) (core : Fin 8) :
    KeepsOut a0 (execEndQuire core s) := by
  unfold execEndQuire
  repeat'
    first
    | with_reducible assumption
    | with_reducible refine Keeps.of_eq (by assumption) ?_
    | with_reducible refine State.tick_keeps ?_ _ _
    | with_reducible refine State.setActive_keeps ?_ _ _
    | with_reducible refine State.decideFine_keeps ?_ _
    | refine KeepsOut.next ?_
    | (extract_lets +onlyGivenNames x; refine (fun (hx : Keeps a0 x) => ?_) ?_; clear_value x; rotate_left; simp only [x])
    | (extract_lets +onlyGivenNames x; refine (fun (hx : Keeps a0 x) => ?_) ?_; rotate_left; simp only [x])
    | (extract_lets +onlyGivenNames x; refine (fun (hx : Keeps a0 x.1) => ?_) ?_; clear_value x; rotate_left; simp only [x])
    | (extract_lets +onlyGivenNames x; refine (fun (hx : Keeps a0 x.1) => ?_) ?_; rotate_left; simp only [x])
    | (extract_lets +onlyGivenNames x; clear_value x)
    | extract_lets +onlyGivenNames x
    | split
    | dsimp only
    | (simp only [keeps_mk]; refine KeepsMk.same rfl ?_ rfl rfl rfl rfl rfl rfl rfl rfl rfl rfl rfl)

/-- What `execLaneAdd` keeps. -/
theorem execLaneAdd_keeps {a0 s : State} (h : Keeps a0 s) (a : LaneArgs) :
    KeepsOut a0 (execLaneAdd a s) := by
  unfold execLaneAdd
  repeat'
    first
    | with_reducible assumption
    | with_reducible refine State.laneOp_keeps ?_ _ _ _ _
    | refine KeepsOut.next ?_
    | split

/-- What `execLaneSub` keeps. -/
theorem execLaneSub_keeps {a0 s : State} (h : Keeps a0 s) (a : LaneArgs) :
    KeepsOut a0 (execLaneSub a s) := by
  unfold execLaneSub
  repeat'
    first
    | with_reducible assumption
    | with_reducible refine State.laneOp_keeps ?_ _ _ _ _
    | refine KeepsOut.next ?_
    | split

/-- What `execLaneAdds` keeps. -/
theorem execLaneAdds_keeps {a0 s : State} (h : Keeps a0 s) (a : LaneArgs) :
    KeepsOut a0 (execLaneAdds a s) := by
  unfold execLaneAdds
  repeat'
    first
    | with_reducible assumption
    | with_reducible refine State.laneOp_keeps ?_ _ _ _ _
    | refine KeepsOut.next ?_
    | split

/-- What `execLaneSubs` keeps. -/
theorem execLaneSubs_keeps {a0 s : State} (h : Keeps a0 s) (a : LaneArgs) :
    KeepsOut a0 (execLaneSubs a s) := by
  unfold execLaneSubs
  repeat'
    first
    | with_reducible assumption
    | with_reducible refine State.laneOp_keeps ?_ _ _ _ _
    | refine KeepsOut.next ?_
    | split

/-- What `execLaneMin` keeps. -/
theorem execLaneMin_keeps {a0 s : State} (h : Keeps a0 s) (a : LaneArgs) :
    KeepsOut a0 (execLaneMin a s) := by
  unfold execLaneMin
  repeat'
    first
    | with_reducible assumption
    | with_reducible refine State.laneOp_keeps ?_ _ _ _ _
    | refine KeepsOut.next ?_
    | split

/-- What `execLaneMax` keeps. -/
theorem execLaneMax_keeps {a0 s : State} (h : Keeps a0 s) (a : LaneArgs) :
    KeepsOut a0 (execLaneMax a s) := by
  unfold execLaneMax
  repeat'
    first
    | with_reducible assumption
    | with_reducible refine State.laneOp_keeps ?_ _ _ _ _
    | refine KeepsOut.next ?_
    | split

/-- What `execLaneCmpeq` keeps. -/
theorem execLaneCmpeq_keeps {a0 s : State} (h : Keeps a0 s) (a : LaneArgs) :
    KeepsOut a0 (execLaneCmpeq a s) := by
  unfold execLaneCmpeq
  repeat'
    first
    | with_reducible assumption
    | with_reducible refine State.laneOp_keeps ?_ _ _ _ _
    | refine KeepsOut.next ?_
    | split

/-- What `execLaneCmplt` keeps. -/
theorem execLaneCmplt_keeps {a0 s : State} (h : Keeps a0 s) (a : LaneArgs) :
    KeepsOut a0 (execLaneCmplt a s) := by
  unfold execLaneCmplt
  repeat'
    first
    | with_reducible assumption
    | with_reducible refine State.laneOp_keeps ?_ _ _ _ _
    | refine KeepsOut.next ?_
    | split

/-- What `execLaneSel` keeps. -/
theorem execLaneSel_keeps {a0 s : State} (h : Keeps a0 s) (a : LaneArgs) :
    KeepsOut a0 (execLaneSel a s) := by
  unfold execLaneSel
  repeat'
    first
    | with_reducible assumption
    | with_reducible refine State.laneOp_keeps ?_ _ _ _ _
    | refine KeepsOut.next ?_
    | split

/-- What `execLaneAnd` keeps. -/
theorem execLaneAnd_keeps {a0 s : State} (h : Keeps a0 s) (a : LaneArgs) :
    KeepsOut a0 (execLaneAnd a s) := by
  unfold execLaneAnd
  repeat'
    first
    | with_reducible assumption
    | with_reducible refine State.laneOp_keeps ?_ _ _ _ _
    | refine KeepsOut.next ?_
    | split

/-- What `execLaneOr` keeps. -/
theorem execLaneOr_keeps {a0 s : State} (h : Keeps a0 s) (a : LaneArgs) :
    KeepsOut a0 (execLaneOr a s) := by
  unfold execLaneOr
  repeat'
    first
    | with_reducible assumption
    | with_reducible refine State.laneOp_keeps ?_ _ _ _ _
    | refine KeepsOut.next ?_
    | split

/-- What `execLaneXor` keeps. -/
theorem execLaneXor_keeps {a0 s : State} (h : Keeps a0 s) (a : LaneArgs) :
    KeepsOut a0 (execLaneXor a s) := by
  unfold execLaneXor
  repeat'
    first
    | with_reducible assumption
    | with_reducible refine State.laneOp_keeps ?_ _ _ _ _
    | refine KeepsOut.next ?_
    | split

/-- What `execLaneShl` keeps. -/
theorem execLaneShl_keeps {a0 s : State} (h : Keeps a0 s) (a : LaneArgs) :
    KeepsOut a0 (execLaneShl a s) := by
  unfold execLaneShl
  repeat'
    first
    | with_reducible assumption
    | with_reducible refine State.laneOp_keeps ?_ _ _ _ _
    | refine KeepsOut.next ?_
    | split

/-- What `execLaneShr` keeps. -/
theorem execLaneShr_keeps {a0 s : State} (h : Keeps a0 s) (a : LaneArgs) :
    KeepsOut a0 (execLaneShr a s) := by
  unfold execLaneShr
  repeat'
    first
    | with_reducible assumption
    | with_reducible refine State.laneOp_keeps ?_ _ _ _ _
    | refine KeepsOut.next ?_
    | split

/-- What `execLaneShrt` keeps. -/
theorem execLaneShrt_keeps {a0 s : State} (h : Keeps a0 s) (a : LaneArgs) :
    KeepsOut a0 (execLaneShrt a s) := by
  unfold execLaneShrt
  repeat'
    first
    | with_reducible assumption
    | with_reducible refine State.laneOp_keeps ?_ _ _ _ _
    | refine KeepsOut.next ?_
    | split

/-- What `execLaneAdd32` keeps. -/
theorem execLaneAdd32_keeps {a0 s : State} (h : Keeps a0 s) (a : LaneArgs) :
    KeepsOut a0 (execLaneAdd32 a s) := by
  unfold execLaneAdd32
  repeat'
    first
    | with_reducible assumption
    | with_reducible refine State.laneOp_keeps ?_ _ _ _ _
    | refine KeepsOut.next ?_
    | split

/-- What `execLaneSub32` keeps. -/
theorem execLaneSub32_keeps {a0 s : State} (h : Keeps a0 s) (a : LaneArgs) :
    KeepsOut a0 (execLaneSub32 a s) := by
  unfold execLaneSub32
  repeat'
    first
    | with_reducible assumption
    | with_reducible refine State.laneOp_keeps ?_ _ _ _ _
    | refine KeepsOut.next ?_
    | split

/-- What `execLaneMul` keeps. -/
theorem execLaneMul_keeps {a0 s : State} (h : Keeps a0 s) (a : LaneArgs) :
    KeepsOut a0 (execLaneMul a s) := by
  unfold execLaneMul
  repeat'
    first
    | with_reducible assumption
    | with_reducible refine State.laneOp_keeps ?_ _ _ _ _
    | refine KeepsOut.next ?_
    | split

/-- What `execLaneMac32` keeps. -/
theorem execLaneMac32_keeps {a0 s : State} (h : Keeps a0 s) (a : LaneArgs) :
    KeepsOut a0 (execLaneMac32 a s) := by
  unfold execLaneMac32
  repeat'
    first
    | with_reducible assumption
    | with_reducible refine State.laneOp_keeps ?_ _ _ _ _
    | refine KeepsOut.next ?_
    | split

/-- What `execLaneExp2n` keeps. -/
theorem execLaneExp2n_keeps {a0 s : State} (h : Keeps a0 s) (a : LaneArgs) :
    KeepsOut a0 (execLaneExp2n a s) := by
  unfold execLaneExp2n
  repeat'
    first
    | with_reducible assumption
    | with_reducible refine State.laneOp_keeps ?_ _ _ _ _
    | refine KeepsOut.next ?_
    | split

/-- What `execLaneRecip` keeps. -/
theorem execLaneRecip_keeps {a0 s : State} (h : Keeps a0 s) (a : LaneArgs) :
    KeepsOut a0 (execLaneRecip a s) := by
  unfold execLaneRecip
  repeat'
    first
    | with_reducible assumption
    | with_reducible refine State.laneOp_keeps ?_ _ _ _ _
    | refine KeepsOut.next ?_

/-- What `execLaneSum32` keeps. -/
theorem execLaneSum32_keeps {a0 s : State} (h : Keeps a0 s) (a : LaneArgs) :
    KeepsOut a0 (execLaneSum32 a s) := by
  unfold execLaneSum32
  repeat'
    first
    | with_reducible assumption
    | with_reducible refine State.laneOp_keeps ?_ _ _ _ _
    | refine KeepsOut.next ?_
    | (extract_lets +onlyGivenNames x; refine (fun (hx : Keeps a0 x) => ?_) ?_; clear_value x; rotate_left; simp only [x])
    | (extract_lets +onlyGivenNames x; refine (fun (hx : Keeps a0 x) => ?_) ?_; rotate_left; simp only [x])
    | (extract_lets +onlyGivenNames x; clear_value x)
    | extract_lets +onlyGivenNames x
    | split

/-- What `execLaneMaxReduction` keeps. -/
theorem execLaneMaxReduction_keeps {a0 s : State} (h : Keeps a0 s) (a : LaneArgs) :
    KeepsOut a0 (execLaneMaxReduction a s) := by
  unfold execLaneMaxReduction
  repeat'
    first
    | with_reducible assumption
    | with_reducible refine Keeps.fold ?_ _ (fun _ _ _ => ?_) _
    | with_reducible refine State.laneOp_keeps ?_ _ _ _ _
    | refine KeepsOut.next ?_
    | split

/-- What `execLaneMinReduction` keeps. -/
theorem execLaneMinReduction_keeps {a0 s : State} (h : Keeps a0 s) (a : LaneArgs) :
    KeepsOut a0 (execLaneMinReduction a s) := by
  unfold execLaneMinReduction
  repeat'
    first
    | with_reducible assumption
    | with_reducible refine Keeps.fold ?_ _ (fun _ _ _ => ?_) _
    | with_reducible refine State.laneOp_keeps ?_ _ _ _ _
    | refine KeepsOut.next ?_
    | split

/-- What `execLaneSort32` keeps. -/
theorem execLaneSort32_keeps {a0 s : State} (h : Keeps a0 s) (a : LaneArgs) :
    KeepsOut a0 (execLaneSort32 a s) := by
  unfold execLaneSort32
  repeat'
    first
    | with_reducible assumption
    | with_reducible refine State.laneOp_keeps ?_ _ _ _ _
    | refine KeepsOut.next ?_

/-- What `execLaneMerge` keeps. -/
theorem execLaneMerge_keeps {a0 s : State} (h : Keeps a0 s) (a : LaneArgs) :
    KeepsOut a0 (execLaneMerge a s) := by
  unfold execLaneMerge
  repeat'
    first
    | with_reducible assumption
    | with_reducible refine State.tick_keeps ?_ _ _
    | with_reducible refine State.laneMem_keeps ?_ _ _ _ _ _ _ _ _ (fun _ _ => ?_)
    | refine KeepsOut.next ?_
    | (extract_lets +onlyGivenNames x; refine (fun (hx : Keeps a0 x) => ?_) ?_; clear_value x; rotate_left; simp only [x])
    | (extract_lets +onlyGivenNames x; refine (fun (hx : Keeps a0 x) => ?_) ?_; rotate_left; simp only [x])
    | (extract_lets +onlyGivenNames x; clear_value x)
    | extract_lets +onlyGivenNames x
    | split
    | (simp only [keeps_mk]; refine KeepsMk.same rfl ?_ rfl rfl rfl rfl rfl rfl rfl rfl rfl rfl rfl)

/-- What `execLaneLoad` keeps. -/
theorem execLaneLoad_keeps {a0 s : State} (h : Keeps a0 s) (a : LaneArgs) :
    KeepsOut a0 (execLaneLoad a s) := by
  unfold execLaneLoad
  repeat'
    first
    | with_reducible assumption
    | with_reducible refine State.laneMem_keeps ?_ _ _ _ _ _ _ _ _ (fun _ _ => ?_)
    | with_reducible refine State.setCore_keeps ?_ _ _
    | refine KeepsOut.next ?_
    | (extract_lets +onlyGivenNames x; refine (fun (hx : Keeps a0 x) => ?_) ?_; clear_value x; rotate_left; simp only [x])
    | (extract_lets +onlyGivenNames x; refine (fun (hx : Keeps a0 x) => ?_) ?_; rotate_left; simp only [x])
    | (extract_lets +onlyGivenNames x; clear_value x)
    | extract_lets +onlyGivenNames x
    | split
    | (simp only [keeps_mk]; refine KeepsMk.same rfl ?_ rfl rfl rfl rfl rfl rfl rfl rfl rfl rfl rfl)

/-- What `execLaneStore` keeps. -/
theorem execLaneStore_keeps {a0 s : State} (h : Keeps a0 s) (a : LaneArgs) :
    KeepsOut a0 (execLaneStore a s) := by
  unfold execLaneStore
  repeat'
    first
    | with_reducible assumption
    | with_reducible refine State.laneMem_keeps ?_ _ _ _ _ _ _ _ _ (fun _ _ => ?_)
    | refine KeepsOut.next ?_
    | (extract_lets +onlyGivenNames x; refine (fun (hx : Keeps a0 x) => ?_) ?_; clear_value x; rotate_left; simp only [x])
    | (extract_lets +onlyGivenNames x; refine (fun (hx : Keeps a0 x) => ?_) ?_; rotate_left; simp only [x])
    | (extract_lets +onlyGivenNames x; clear_value x)
    | extract_lets +onlyGivenNames x
    | split
    | (simp only [keeps_mk]; refine KeepsMk.same rfl ?_ rfl rfl rfl rfl rfl rfl rfl rfl rfl rfl rfl)

/-- What `execLaneGather` keeps. -/
theorem execLaneGather_keeps {a0 s : State} (h : Keeps a0 s) (a : LaneArgs) :
    KeepsOut a0 (execLaneGather a s) := by
  unfold execLaneGather
  repeat'
    first
    | with_reducible assumption
    | with_reducible refine State.laneMem_keeps ?_ _ _ _ _ _ _ _ _ (fun _ _ => ?_)
    | with_reducible refine State.setCore_keeps ?_ _ _
    | refine KeepsOut.next ?_
    | with_reducible exact hff _
    | (extract_lets +onlyGivenNames ff; refine (fun (hff : ∀ c, Keeps a0 (ff c)) => ?_) (fun c => ?_); clear_value ff; rotate_left; simp only [ff])
    | (extract_lets +onlyGivenNames x; refine (fun (hx : Keeps a0 x) => ?_) ?_; clear_value x; rotate_left; simp only [x])
    | (extract_lets +onlyGivenNames x; refine (fun (hx : Keeps a0 x) => ?_) ?_; rotate_left; simp only [x])
    | extract_lets +onlyGivenNames x
    | split
    | (simp only [keeps_mk]; refine KeepsMk.same rfl ?_ rfl rfl rfl rfl rfl rfl rfl rfl rfl rfl rfl)

/-- What `execLaneScatter` keeps. -/
theorem execLaneScatter_keeps {a0 s : State} (h : Keeps a0 s) (a : LaneArgs) :
    KeepsOut a0 (execLaneScatter a s) := by
  unfold execLaneScatter
  repeat'
    first
    | with_reducible assumption
    | with_reducible refine State.laneMem_keeps ?_ _ _ _ _ _ _ _ _ (fun _ _ => ?_)
    | refine KeepsOut.next ?_
    | (extract_lets +onlyGivenNames x; refine (fun (hx : Keeps a0 x) => ?_) ?_; clear_value x; rotate_left; simp only [x])
    | (extract_lets +onlyGivenNames x; refine (fun (hx : Keeps a0 x) => ?_) ?_; rotate_left; simp only [x])
    | (extract_lets +onlyGivenNames x; clear_value x)
    | extract_lets +onlyGivenNames x
    | split
    | (simp only [keeps_mk]; refine KeepsMk.same rfl ?_ rfl rfl rfl rfl rfl rfl rfl rfl rfl rfl rfl)

/-- What `execLanePerm` keeps. -/
theorem execLanePerm_keeps {a0 s : State} (h : Keeps a0 s) (a : LaneArgs) :
    KeepsOut a0 (execLanePerm a s) := by
  unfold execLanePerm
  repeat'
    first
    | with_reducible assumption
    | with_reducible refine State.laneOp_keeps ?_ _ _ _ _
    | refine KeepsOut.next ?_
    | split

/-- What `execLaneStats` keeps. -/
theorem execLaneStats_keeps {a0 s : State} (h : Keeps a0 s) (a : LaneArgs) :
    KeepsOut a0 (execLaneStats a s) := by
  unfold execLaneStats
  repeat'
    first
    | with_reducible assumption
    | with_reducible refine State.laneMem_keeps ?_ _ _ _ _ _ _ _ _ (fun _ _ => ?_)
    | with_reducible refine State.takeStats_keeps ?_ _ _ _ _
    | refine KeepsOut.next ?_
    | (extract_lets +onlyGivenNames x; refine (fun (hx : Keeps a0 x) => ?_) ?_; clear_value x; rotate_left; simp only [x])
    | (extract_lets +onlyGivenNames x; refine (fun (hx : Keeps a0 x) => ?_) ?_; rotate_left; simp only [x])
    | (extract_lets +onlyGivenNames x; clear_value x)
    | extract_lets +onlyGivenNames x
    | split
    | (simp only [keeps_mk]; refine KeepsMk.same rfl ?_ rfl rfl rfl rfl rfl rfl rfl rfl rfl rfl rfl)

/-- What `execLaneConvert` keeps. -/
theorem execLaneConvert_keeps {a0 s : State} (h : Keeps a0 s) (a : LaneArgs) :
    KeepsOut a0 (execLaneConvert a s) := by
  unfold execLaneConvert
  repeat'
    first
    | with_reducible assumption
    | with_reducible refine State.laneMem_keeps ?_ _ _ _ _ _ _ _ _ (fun _ _ => ?_)
    | with_reducible refine State.setActive_keeps ?_ _ _
    | refine KeepsOut.next ?_
    | (extract_lets +onlyGivenNames x; refine (fun (hx : Keeps a0 x) => ?_) ?_; clear_value x; rotate_left; simp only [x])
    | (extract_lets +onlyGivenNames x; refine (fun (hx : Keeps a0 x) => ?_) ?_; rotate_left; simp only [x])
    | (extract_lets +onlyGivenNames x; refine (fun (hx : Keeps a0 x.1) => ?_) ?_; clear_value x; rotate_left; simp only [x])
    | (extract_lets +onlyGivenNames x; refine (fun (hx : Keeps a0 x.1) => ?_) ?_; rotate_left; simp only [x])
    | (extract_lets +onlyGivenNames x; clear_value x)
    | extract_lets +onlyGivenNames x
    | split
    | (simp only [keeps_mk]; refine KeepsMk.same rfl ?_ rfl rfl rfl rfl rfl rfl rfl rfl rfl rfl rfl)

/-- What `execLaneSplit` keeps. -/
theorem execLaneSplit_keeps {a0 s : State} (h : Keeps a0 s) (a : LaneArgs) :
    KeepsOut a0 (execLaneSplit a s) := by
  unfold execLaneSplit
  repeat'
    first
    | with_reducible assumption
    | with_reducible refine State.laneMem_keeps ?_ _ _ _ _ _ _ _ _ (fun _ _ => ?_)
    | refine KeepsOut.next ?_
    | (extract_lets +onlyGivenNames x; refine (fun (hx : Keeps a0 x) => ?_) ?_; clear_value x; rotate_left; simp only [x])
    | (extract_lets +onlyGivenNames x; refine (fun (hx : Keeps a0 x) => ?_) ?_; rotate_left; simp only [x])
    | (extract_lets +onlyGivenNames x; clear_value x)
    | extract_lets +onlyGivenNames x
    | split
    | (simp only [keeps_mk]; refine KeepsMk.same rfl ?_ rfl rfl rfl rfl rfl rfl rfl rfl rfl rfl rfl)

/-- What `execLaneRecompose` keeps. -/
theorem execLaneRecompose_keeps {a0 s : State} (h : Keeps a0 s) (a : LaneArgs) :
    KeepsOut a0 (execLaneRecompose a s) := by
  unfold execLaneRecompose
  repeat'
    first
    | with_reducible assumption
    | with_reducible refine Keeps.fold ?_ _ (fun _ _ _ => ?_) _
    | with_reducible refine State.laneMem_keeps ?_ _ _ _ _ _ _ _ _ (fun _ _ => ?_)
    | with_reducible refine State.setCore_keeps ?_ _ _
    | refine KeepsOut.next ?_
    | (extract_lets +onlyGivenNames x; refine (fun (hx : Keeps a0 x) => ?_) ?_; clear_value x; rotate_left; simp only [x])
    | (extract_lets +onlyGivenNames x; refine (fun (hx : Keeps a0 x) => ?_) ?_; rotate_left; simp only [x])
    | (extract_lets +onlyGivenNames x; refine (fun (hx : Keeps a0 x.1) => ?_) ?_; clear_value x; rotate_left; simp only [x])
    | (extract_lets +onlyGivenNames x; refine (fun (hx : Keeps a0 x.1) => ?_) ?_; rotate_left; simp only [x])
    | (extract_lets +onlyGivenNames x; clear_value x)
    | extract_lets +onlyGivenNames x
    | split
    | (simp only [keeps_mk]; refine KeepsMk.same rfl ?_ rfl rfl rfl rfl rfl rfl rfl rfl rfl rfl rfl)

/-- What `execLaneSetcnt` keeps. -/
theorem execLaneSetcnt_keeps {a0 s : State} (h : Keeps a0 s) (a : LaneArgs) :
    KeepsOut a0 (execLaneSetcnt a s) := by
  unfold execLaneSetcnt
  repeat'
    first
    | with_reducible assumption
    | with_reducible refine State.tick_keeps ?_ _ _
    | with_reducible refine State.setActive_keeps ?_ _ _
    | refine KeepsOut.next ?_
    | (extract_lets +onlyGivenNames x; refine (fun (hx : Keeps a0 x) => ?_) ?_; clear_value x; rotate_left; simp only [x])
    | (extract_lets +onlyGivenNames x; refine (fun (hx : Keeps a0 x) => ?_) ?_; rotate_left; simp only [x])
    | (extract_lets +onlyGivenNames x; clear_value x)
    | extract_lets +onlyGivenNames x
    | split
    | (simp only [keeps_mk]; refine KeepsMk.same rfl ?_ rfl rfl rfl rfl rfl rfl rfl rfl rfl rfl rfl)

/-- What `execLaneSetmask` keeps. -/
theorem execLaneSetmask_keeps {a0 s : State} (h : Keeps a0 s) (a : LaneArgs) :
    KeepsOut a0 (execLaneSetmask a s) := by
  unfold execLaneSetmask
  repeat'
    first
    | with_reducible assumption
    | with_reducible refine State.laneOp_keeps ?_ _ _ _ _
    | refine KeepsOut.next ?_
    | (extract_lets +onlyGivenNames x; refine (fun (hx : Keeps a0 x) => ?_) ?_; clear_value x; rotate_left; simp only [x])
    | (extract_lets +onlyGivenNames x; refine (fun (hx : Keeps a0 x) => ?_) ?_; rotate_left; simp only [x])
    | (extract_lets +onlyGivenNames x; clear_value x)
    | extract_lets +onlyGivenNames x
    | split
    | (simp only [keeps_mk]; refine KeepsMk.same rfl ?_ rfl rfl rfl rfl rfl rfl rfl rfl rfl rfl rfl)

/-- What `execThermtrip` keeps. -/
theorem execThermtrip_keeps {a s : State} (h : Keeps a s) :
    KeepsOut a (execThermtrip s) := by
  unfold execThermtrip
  repeat'
    first
    | with_reducible assumption
    | with_reducible refine State.allOff_keeps ?_
    | with_reducible refine State.dropWork_keeps ?_
    | with_reducible refine State.endFlights_keeps ?_ _ _
    | with_reducible refine State.logTrip_keeps ?_
    | with_reducible refine State.emit_keeps ?_ _
    | refine KeepsOut.next ?_
    | (extract_lets +onlyGivenNames x; refine (fun (hx : Keeps a x) => ?_) ?_; clear_value x; rotate_left; simp only [x])
    | (extract_lets +onlyGivenNames x; refine (fun (hx : Keeps a x) => ?_) ?_; rotate_left; simp only [x])
    | (extract_lets +onlyGivenNames x; have _g : Dev := x)
    | (extract_lets +onlyGivenNames x; clear_value x)
    | extract_lets +onlyGivenNames x
    | split
    | (simp only [keeps_mk]; refine KeepsMk.same rfl ?_ rfl rfl rfl rfl rfl rfl rfl rfl rfl rfl rfl)

/-- What `execSensorSample` keeps. -/
theorem execSensorSample_keeps {a s : State} (h : Keeps a s) (readings : List SensorReading) :
    KeepsOut a (execSensorSample readings s) := by
  unfold execSensorSample
  repeat'
    first
    | with_reducible assumption
    | with_reducible refine State.sampled_keeps ?_ _
    | with_reducible refine State.settle_keeps ?_
    | with_reducible refine State.thermalShutdown_keeps ?_
    | refine KeepsOut.next ?_
    | split

/-- What `execThermalReleaseTick` keeps. -/
theorem execThermalReleaseTick_keeps {a s : State} (h : Keeps a s) :
    KeepsOut a (execThermalReleaseTick s) := by
  unfold execThermalReleaseTick
  repeat'
    first
    | with_reducible assumption
    | with_reducible refine State.settle_keeps ?_
    | with_reducible refine State.restReleased_keeps ?_ _
    | with_reducible refine State.removeCore_keeps ?_ _ _ _
    | refine KeepsOut.next ?_
    | (extract_lets +onlyGivenNames x; refine (fun (hx : Keeps a x) => ?_) ?_; clear_value x; rotate_left; simp only [x])
    | (extract_lets +onlyGivenNames x; refine (fun (hx : Keeps a x) => ?_) ?_; rotate_left; simp only [x])
    | (extract_lets +onlyGivenNames x; clear_value x)
    | extract_lets +onlyGivenNames x
    | split
    | (simp only [keeps_mk]; refine KeepsMk.same rfl ?_ rfl rfl rfl rfl rfl rfl rfl rfl rfl rfl rfl)

/-- What `execThermalReturnTick` keeps. -/
theorem execThermalReturnTick_keeps {a s : State} (h : Keeps a s) :
    KeepsOut a (execThermalReturnTick s) := by
  unfold execThermalReturnTick
  repeat'
    first
    | with_reducible assumption
    | with_reducible refine State.returnReleased_keeps ?_ _ _
    | refine KeepsOut.next ?_
    | (extract_lets +onlyGivenNames x; refine (fun (hx : Keeps a x) => ?_) ?_; clear_value x; rotate_left; simp only [x])
    | (extract_lets +onlyGivenNames x; refine (fun (hx : Keeps a x) => ?_) ?_; rotate_left; simp only [x])
    | (extract_lets +onlyGivenNames x; clear_value x)
    | extract_lets +onlyGivenNames x
    | split
    | (simp only [keeps_mk]; refine KeepsMk.same rfl ?_ rfl rfl rfl rfl rfl rfl rfl rfl rfl rfl rfl)

/-- What `execAccountingInterval` keeps. -/
theorem execAccountingInterval_keeps {a0 s : State} (h0 : Keeps a0 s) (energy : List Nat) :
    KeepsOut a0 (execAccountingInterval energy s) := by
  unfold execAccountingInterval
  repeat'
    first
    | with_reducible assumption
    | with_reducible refine Keeps.fold ?_ _ (fun _ _ _ => ?_) _
    | with_reducible refine Keeps.foldPair ?_ _ (fun _ _ _ => ?_) _
    | with_reducible refine Keeps.of_eq (by assumption) ?_
    | with_reducible refine State.addEnergy_keeps ?_ _
    | with_reducible refine State.tickInterval_keeps ?_
    | with_reducible refine State.splitEnergy_keeps ?_ _ _ _
    | with_reducible refine State.charge_keeps ?_ _ _ _
    | with_reducible refine State.powerLimit_keeps ?_ _
    | refine KeepsOut.next ?_
    | (extract_lets +onlyGivenNames x; refine (fun (hx : Keeps a0 x) => ?_) ?_; clear_value x; rotate_left; simp only [x])
    | (extract_lets +onlyGivenNames x; refine (fun (hx : Keeps a0 x) => ?_) ?_; rotate_left; simp only [x])
    | (extract_lets +onlyGivenNames x; refine (fun (hx : Keeps a0 x.1) => ?_) ?_; clear_value x; rotate_left; simp only [x])
    | (extract_lets +onlyGivenNames x; refine (fun (hx : Keeps a0 x.1) => ?_) ?_; rotate_left; simp only [x])
    | (extract_lets +onlyGivenNames x; clear_value x)
    | extract_lets +onlyGivenNames x
    | split
    | dsimp only
    | (simp only [keeps_mk]; refine KeepsMk.same rfl ?_ rfl rfl rfl rfl rfl rfl rfl rfl rfl rfl rfl)

/-- What `execDomainIdleExpiry` keeps. -/
theorem execDomainIdleExpiry_keeps {a s : State} (h : Keeps a s) (domain : Fin 30) :
    KeepsOut a (execDomainIdleExpiry domain s) := by
  unfold execDomainIdleExpiry
  repeat'
    first
    | with_reducible assumption
    | with_reducible refine Keeps.fold ?_ _ (fun _ _ _ => ?_) _
    | with_reducible refine State.setDom_keeps ?_ _ _
    | refine KeepsOut.next ?_
    | (extract_lets +onlyGivenNames x; refine (fun (hx : Keeps a x) => ?_) ?_; clear_value x; rotate_left; simp only [x])
    | (extract_lets +onlyGivenNames x; refine (fun (hx : Keeps a x) => ?_) ?_; rotate_left; simp only [x])
    | (extract_lets +onlyGivenNames x; clear_value x)
    | extract_lets +onlyGivenNames x
    | split
    | (simp only [keeps_mk]; refine KeepsMk.same rfl ?_ rfl rfl rfl rfl rfl rfl rfl rfl rfl rfl rfl)

/-- What `execDomainSleepDone` keeps. -/
theorem execDomainSleepDone_keeps {a s : State} (h : Keeps a s) (domain : Fin 30) :
    KeepsOut a (execDomainSleepDone domain s) := by
  unfold execDomainSleepDone
  repeat'
    first
    | with_reducible assumption
    | with_reducible refine State.fallAsleep_keeps ?_ _
    | refine KeepsOut.next ?_
    | split

/-- What `execDomainWakeDone` keeps. -/
theorem execDomainWakeDone_keeps {a0 s : State} (h0 : Keeps a0 s) (domain : Fin 30) (ok : Bool) :
    KeepsOut a0 (execDomainWakeDone domain ok s) := by
  unfold execDomainWakeDone
  repeat'
    first
    | with_reducible assumption
    | with_reducible refine Keeps.fold ?_ _ (fun _ _ _ => ?_) _
    | with_reducible refine Keeps.foldPair ?_ _ (fun _ _ _ => ?_) _
    | with_reducible refine Keeps.of_eq (by assumption) ?_
    | with_reducible refine State.comeOn_keeps ?_ _
    | with_reducible refine State.beginWakes_keeps ?_
    | with_reducible refine State.releaseHeld_keeps ?_ _ _
    | with_reducible refine State.settle_keeps ?_
    | with_reducible refine State.failWake_keeps ?_ _
    | refine KeepsOut.next ?_
    | (extract_lets +onlyGivenNames x; refine (fun (hx : Keeps a0 x) => ?_) ?_; clear_value x; rotate_left; simp only [x])
    | (extract_lets +onlyGivenNames x; refine (fun (hx : Keeps a0 x) => ?_) ?_; rotate_left; simp only [x])
    | (extract_lets +onlyGivenNames x; refine (fun (hx : Keeps a0 x.1) => ?_) ?_; clear_value x; rotate_left; simp only [x])
    | (extract_lets +onlyGivenNames x; refine (fun (hx : Keeps a0 x.1) => ?_) ?_; rotate_left; simp only [x])
    | (extract_lets +onlyGivenNames x; clear_value x)
    | extract_lets +onlyGivenNames x
    | split
    | dsimp only
    | (simp only [keeps_mk]; refine KeepsMk.same rfl ?_ rfl rfl rfl rfl rfl rfl rfl rfl rfl rfl rfl)

/-- What `execPllLocked` keeps. -/
theorem execPllLocked_keeps {a s : State} (h : Keeps a s) (pll : Fin 6) :
    KeepsOut a (execPllLocked pll s) := by
  unfold execPllLocked
  repeat'
    first
    | with_reducible assumption
    | with_reducible refine State.beginWakes_keeps ?_
    | refine KeepsOut.next ?_
    | (extract_lets +onlyGivenNames x; refine (fun (hx : Keeps a x) => ?_) ?_; clear_value x; rotate_left; simp only [x])
    | (extract_lets +onlyGivenNames x; refine (fun (hx : Keeps a x) => ?_) ?_; rotate_left; simp only [x])
    | (extract_lets +onlyGivenNames x; clear_value x)
    | extract_lets +onlyGivenNames x
    | split
    | (simp only [keeps_mk]; refine KeepsMk.same rfl ?_ rfl rfl rfl rfl rfl rfl rfl rfl rfl rfl rfl)

/-- What `execPllStop` keeps. -/
theorem execPllStop_keeps {a s : State} (h : Keeps a s) (pll : Fin 6) :
    KeepsOut a (execPllStop pll s) := by
  unfold execPllStop
  repeat'
    first
    | with_reducible assumption
    | refine KeepsOut.next ?_
    | (extract_lets +onlyGivenNames x; refine (fun (hx : Keeps a x) => ?_) ?_; clear_value x; rotate_left; simp only [x])
    | (extract_lets +onlyGivenNames x; refine (fun (hx : Keeps a x) => ?_) ?_; rotate_left; simp only [x])
    | (extract_lets +onlyGivenNames x; clear_value x)
    | extract_lets +onlyGivenNames x
    | split
    | (simp only [keeps_mk]; refine KeepsMk.same rfl ?_ rfl rfl rfl rfl rfl rfl rfl rfl rfl rfl rfl)

end Sys2Proof.Machine
end

