-- ==== Sys2Proof/Laws/State.lean ====
section
/-! SUPPORT. What each update of State leaves as it was, field by field, and what reading an entry gives after it is changed. -/

namespace Sys2Proof.Machine

theorem reset_mem_wf : State.reset.mem.wf = true := rfl

/-! ### setDom -/

@[simp] theorem State.setDom_dev (s : State) (d : Nat) (g : Dom → Dom) : (s.setDom d g).dev = s.dev := rfl
@[simp] theorem State.setDom_hi (s : State) (d : Nat) (g : Dom → Dom) : (s.setDom d g).hi = s.hi := rfl
@[simp] theorem State.setDom_mgt (s : State) (d : Nat) (g : Dom → Dom) : (s.setDom d g).mgt = s.mgt := rfl
@[simp] theorem State.setDom_cask (s : State) (d : Nat) (g : Dom → Dom) : (s.setDom d g).cask = s.cask := rfl
@[simp] theorem State.setDom_ddr (s : State) (d : Nat) (g : Dom → Dom) : (s.setDom d g).ddr = s.ddr := rfl
@[simp] theorem State.setDom_mem (s : State) (d : Nat) (g : Dom → Dom) : (s.setDom d g).mem = s.mem := rfl
@[simp] theorem State.setDom_cp (s : State) (d : Nat) (g : Dom → Dom) : (s.setDom d g).cp = s.cp := rfl
@[simp] theorem State.setDom_cel (s : State) (d : Nat) (g : Dom → Dom) : (s.setDom d g).cel = s.cel := rfl
@[simp] theorem State.setDom_core (s : State) (d : Nat) (g : Dom → Dom) : (s.setDom d g).core = s.core := rfl
@[simp] theorem State.setDom_media (s : State) (d : Nat) (g : Dom → Dom) : (s.setDom d g).media = s.media := rfl
@[simp] theorem State.setDom_text (s : State) (d : Nat) (g : Dom → Dom) : (s.setDom d g).text = s.text := rfl
@[simp] theorem State.setDom_latch (s : State) (d : Nat) (g : Dom → Dom) : (s.setDom d g).latch = s.latch := rfl
@[simp] theorem State.setDom_outbox (s : State) (d : Nat) (g : Dom → Dom) : (s.setDom d g).outbox = s.outbox := rfl
@[simp] theorem State.setDom_pending (s : State) (d : Nat) (g : Dom → Dom) : (s.setDom d g).pending = s.pending := rfl

/-! ### setChan -/

@[simp] theorem State.setChan_dev (s : State) (c : Nat) (g : Chan → Chan) : (s.setChan c g).dev = s.dev := rfl
@[simp] theorem State.setChan_hi (s : State) (c : Nat) (g : Chan → Chan) : (s.setChan c g).hi = s.hi := rfl
@[simp] theorem State.setChan_pwr (s : State) (c : Nat) (g : Chan → Chan) : (s.setChan c g).pwr = s.pwr := rfl
@[simp] theorem State.setChan_mgt (s : State) (c : Nat) (g : Chan → Chan) : (s.setChan c g).mgt = s.mgt := rfl
@[simp] theorem State.setChan_cask (s : State) (c : Nat) (g : Chan → Chan) : (s.setChan c g).cask = s.cask := rfl
@[simp] theorem State.setChan_mem (s : State) (c : Nat) (g : Chan → Chan) : (s.setChan c g).mem = s.mem := rfl
@[simp] theorem State.setChan_cp (s : State) (c : Nat) (g : Chan → Chan) : (s.setChan c g).cp = s.cp := rfl
@[simp] theorem State.setChan_cel (s : State) (c : Nat) (g : Chan → Chan) : (s.setChan c g).cel = s.cel := rfl
@[simp] theorem State.setChan_core (s : State) (c : Nat) (g : Chan → Chan) : (s.setChan c g).core = s.core := rfl
@[simp] theorem State.setChan_media (s : State) (c : Nat) (g : Chan → Chan) : (s.setChan c g).media = s.media := rfl
@[simp] theorem State.setChan_text (s : State) (c : Nat) (g : Chan → Chan) : (s.setChan c g).text = s.text := rfl
@[simp] theorem State.setChan_latch (s : State) (c : Nat) (g : Chan → Chan) : (s.setChan c g).latch = s.latch := rfl
@[simp] theorem State.setChan_outbox (s : State) (c : Nat) (g : Chan → Chan) : (s.setChan c g).outbox = s.outbox := rfl
@[simp] theorem State.setChan_pending (s : State) (c : Nat) (g : Chan → Chan) : (s.setChan c g).pending = s.pending := rfl

/-! ### setRes -/

@[simp] theorem State.setRes_dev (s : State) (f : Nat) (g : Res → Res) : (s.setRes f g).dev = s.dev := rfl
@[simp] theorem State.setRes_hi (s : State) (f : Nat) (g : Res → Res) : (s.setRes f g).hi = s.hi := rfl
@[simp] theorem State.setRes_pwr (s : State) (f : Nat) (g : Res → Res) : (s.setRes f g).pwr = s.pwr := rfl
@[simp] theorem State.setRes_mgt (s : State) (f : Nat) (g : Res → Res) : (s.setRes f g).mgt = s.mgt := rfl
@[simp] theorem State.setRes_cask (s : State) (f : Nat) (g : Res → Res) : (s.setRes f g).cask = s.cask := rfl
@[simp] theorem State.setRes_ddr (s : State) (f : Nat) (g : Res → Res) : (s.setRes f g).ddr = s.ddr := rfl
@[simp] theorem State.setRes_mem (s : State) (f : Nat) (g : Res → Res) : (s.setRes f g).mem = s.mem := rfl
@[simp] theorem State.setRes_cel (s : State) (f : Nat) (g : Res → Res) : (s.setRes f g).cel = s.cel := rfl
@[simp] theorem State.setRes_core (s : State) (f : Nat) (g : Res → Res) : (s.setRes f g).core = s.core := rfl
@[simp] theorem State.setRes_media (s : State) (f : Nat) (g : Res → Res) : (s.setRes f g).media = s.media := rfl
@[simp] theorem State.setRes_text (s : State) (f : Nat) (g : Res → Res) : (s.setRes f g).text = s.text := rfl
@[simp] theorem State.setRes_latch (s : State) (f : Nat) (g : Res → Res) : (s.setRes f g).latch = s.latch := rfl
@[simp] theorem State.setRes_outbox (s : State) (f : Nat) (g : Res → Res) : (s.setRes f g).outbox = s.outbox := rfl
@[simp] theorem State.setRes_pending (s : State) (f : Nat) (g : Res → Res) : (s.setRes f g).pending = s.pending := rfl

/-! ### setPart -/

@[simp] theorem State.setPart_dev (s : State) (p : Nat) (g : Part → Part) : (s.setPart p g).dev = s.dev := rfl
@[simp] theorem State.setPart_hi (s : State) (p : Nat) (g : Part → Part) : (s.setPart p g).hi = s.hi := rfl
@[simp] theorem State.setPart_pwr (s : State) (p : Nat) (g : Part → Part) : (s.setPart p g).pwr = s.pwr := rfl
@[simp] theorem State.setPart_mgt (s : State) (p : Nat) (g : Part → Part) : (s.setPart p g).mgt = s.mgt := rfl
@[simp] theorem State.setPart_cask (s : State) (p : Nat) (g : Part → Part) : (s.setPart p g).cask = s.cask := rfl
@[simp] theorem State.setPart_ddr (s : State) (p : Nat) (g : Part → Part) : (s.setPart p g).ddr = s.ddr := rfl
@[simp] theorem State.setPart_mem (s : State) (p : Nat) (g : Part → Part) : (s.setPart p g).mem = s.mem := rfl
@[simp] theorem State.setPart_cp (s : State) (p : Nat) (g : Part → Part) : (s.setPart p g).cp = s.cp := rfl
@[simp] theorem State.setPart_core (s : State) (p : Nat) (g : Part → Part) : (s.setPart p g).core = s.core := rfl
@[simp] theorem State.setPart_media (s : State) (p : Nat) (g : Part → Part) : (s.setPart p g).media = s.media := rfl
@[simp] theorem State.setPart_text (s : State) (p : Nat) (g : Part → Part) : (s.setPart p g).text = s.text := rfl
@[simp] theorem State.setPart_latch (s : State) (p : Nat) (g : Part → Part) : (s.setPart p g).latch = s.latch := rfl
@[simp] theorem State.setPart_outbox (s : State) (p : Nat) (g : Part → Part) : (s.setPart p g).outbox = s.outbox := rfl
@[simp] theorem State.setPart_pending (s : State) (p : Nat) (g : Part → Part) : (s.setPart p g).pending = s.pending := rfl

/-! ### setCore -/

@[simp] theorem State.setCore_dev (s : State) (n : Nat) (g : Core → Core) : (s.setCore n g).dev = s.dev := rfl
@[simp] theorem State.setCore_hi (s : State) (n : Nat) (g : Core → Core) : (s.setCore n g).hi = s.hi := rfl
@[simp] theorem State.setCore_pwr (s : State) (n : Nat) (g : Core → Core) : (s.setCore n g).pwr = s.pwr := rfl
@[simp] theorem State.setCore_mgt (s : State) (n : Nat) (g : Core → Core) : (s.setCore n g).mgt = s.mgt := rfl
@[simp] theorem State.setCore_cask (s : State) (n : Nat) (g : Core → Core) : (s.setCore n g).cask = s.cask := rfl
@[simp] theorem State.setCore_ddr (s : State) (n : Nat) (g : Core → Core) : (s.setCore n g).ddr = s.ddr := rfl
@[simp] theorem State.setCore_mem (s : State) (n : Nat) (g : Core → Core) : (s.setCore n g).mem = s.mem := rfl
@[simp] theorem State.setCore_cp (s : State) (n : Nat) (g : Core → Core) : (s.setCore n g).cp = s.cp := rfl
@[simp] theorem State.setCore_cel (s : State) (n : Nat) (g : Core → Core) : (s.setCore n g).cel = s.cel := rfl
@[simp] theorem State.setCore_media (s : State) (n : Nat) (g : Core → Core) : (s.setCore n g).media = s.media := rfl
@[simp] theorem State.setCore_text (s : State) (n : Nat) (g : Core → Core) : (s.setCore n g).text = s.text := rfl
@[simp] theorem State.setCore_latch (s : State) (n : Nat) (g : Core → Core) : (s.setCore n g).latch = s.latch := rfl
@[simp] theorem State.setCore_outbox (s : State) (n : Nat) (g : Core → Core) : (s.setCore n g).outbox = s.outbox := rfl
@[simp] theorem State.setCore_pending (s : State) (n : Nat) (g : Core → Core) : (s.setCore n g).pending = s.pending := rfl

/-! ### setCluster -/

@[simp] theorem State.setCluster_dev (s : State) (k : Nat) (g : Cluster → Cluster) : (s.setCluster k g).dev = s.dev := rfl
@[simp] theorem State.setCluster_hi (s : State) (k : Nat) (g : Cluster → Cluster) : (s.setCluster k g).hi = s.hi := rfl
@[simp] theorem State.setCluster_pwr (s : State) (k : Nat) (g : Cluster → Cluster) : (s.setCluster k g).pwr = s.pwr := rfl
@[simp] theorem State.setCluster_mgt (s : State) (k : Nat) (g : Cluster → Cluster) : (s.setCluster k g).mgt = s.mgt := rfl
@[simp] theorem State.setCluster_cask (s : State) (k : Nat) (g : Cluster → Cluster) : (s.setCluster k g).cask = s.cask := rfl
@[simp] theorem State.setCluster_ddr (s : State) (k : Nat) (g : Cluster → Cluster) : (s.setCluster k g).ddr = s.ddr := rfl
@[simp] theorem State.setCluster_mem (s : State) (k : Nat) (g : Cluster → Cluster) : (s.setCluster k g).mem = s.mem := rfl
@[simp] theorem State.setCluster_cp (s : State) (k : Nat) (g : Cluster → Cluster) : (s.setCluster k g).cp = s.cp := rfl
@[simp] theorem State.setCluster_cel (s : State) (k : Nat) (g : Cluster → Cluster) : (s.setCluster k g).cel = s.cel := rfl
@[simp] theorem State.setCluster_core (s : State) (k : Nat) (g : Cluster → Cluster) : (s.setCluster k g).core = s.core := rfl
@[simp] theorem State.setCluster_text (s : State) (k : Nat) (g : Cluster → Cluster) : (s.setCluster k g).text = s.text := rfl
@[simp] theorem State.setCluster_latch (s : State) (k : Nat) (g : Cluster → Cluster) : (s.setCluster k g).latch = s.latch := rfl
@[simp] theorem State.setCluster_outbox (s : State) (k : Nat) (g : Cluster → Cluster) : (s.setCluster k g).outbox = s.outbox := rfl
@[simp] theorem State.setCluster_pending (s : State) (k : Nat) (g : Cluster → Cluster) : (s.setCluster k g).pending = s.pending := rfl

/-! ### setPool -/

@[simp] theorem State.setPool_dev (s : State) (k : Nat) (g : PoolState → PoolState) : (s.setPool k g).dev = s.dev := rfl
@[simp] theorem State.setPool_hi (s : State) (k : Nat) (g : PoolState → PoolState) : (s.setPool k g).hi = s.hi := rfl
@[simp] theorem State.setPool_pwr (s : State) (k : Nat) (g : PoolState → PoolState) : (s.setPool k g).pwr = s.pwr := rfl
@[simp] theorem State.setPool_mgt (s : State) (k : Nat) (g : PoolState → PoolState) : (s.setPool k g).mgt = s.mgt := rfl
@[simp] theorem State.setPool_cask (s : State) (k : Nat) (g : PoolState → PoolState) : (s.setPool k g).cask = s.cask := rfl
@[simp] theorem State.setPool_ddr (s : State) (k : Nat) (g : PoolState → PoolState) : (s.setPool k g).ddr = s.ddr := rfl
@[simp] theorem State.setPool_mem (s : State) (k : Nat) (g : PoolState → PoolState) : (s.setPool k g).mem = s.mem := rfl
@[simp] theorem State.setPool_cp (s : State) (k : Nat) (g : PoolState → PoolState) : (s.setPool k g).cp = s.cp := rfl
@[simp] theorem State.setPool_core (s : State) (k : Nat) (g : PoolState → PoolState) : (s.setPool k g).core = s.core := rfl
@[simp] theorem State.setPool_media (s : State) (k : Nat) (g : PoolState → PoolState) : (s.setPool k g).media = s.media := rfl
@[simp] theorem State.setPool_text (s : State) (k : Nat) (g : PoolState → PoolState) : (s.setPool k g).text = s.text := rfl
@[simp] theorem State.setPool_latch (s : State) (k : Nat) (g : PoolState → PoolState) : (s.setPool k g).latch = s.latch := rfl
@[simp] theorem State.setPool_outbox (s : State) (k : Nat) (g : PoolState → PoolState) : (s.setPool k g).outbox = s.outbox := rfl
@[simp] theorem State.setPool_pending (s : State) (k : Nat) (g : PoolState → PoolState) : (s.setPool k g).pending = s.pending := rfl

/-! ### setBuf -/

@[simp] theorem State.setBuf_dev (s : State) (k : Nat) (g : Buf → Buf) : (s.setBuf k g).dev = s.dev := rfl
@[simp] theorem State.setBuf_hi (s : State) (k : Nat) (g : Buf → Buf) : (s.setBuf k g).hi = s.hi := rfl
@[simp] theorem State.setBuf_pwr (s : State) (k : Nat) (g : Buf → Buf) : (s.setBuf k g).pwr = s.pwr := rfl
@[simp] theorem State.setBuf_mgt (s : State) (k : Nat) (g : Buf → Buf) : (s.setBuf k g).mgt = s.mgt := rfl
@[simp] theorem State.setBuf_cask (s : State) (k : Nat) (g : Buf → Buf) : (s.setBuf k g).cask = s.cask := rfl
@[simp] theorem State.setBuf_ddr (s : State) (k : Nat) (g : Buf → Buf) : (s.setBuf k g).ddr = s.ddr := rfl
@[simp] theorem State.setBuf_mem (s : State) (k : Nat) (g : Buf → Buf) : (s.setBuf k g).mem = s.mem := rfl
@[simp] theorem State.setBuf_cel (s : State) (k : Nat) (g : Buf → Buf) : (s.setBuf k g).cel = s.cel := rfl
@[simp] theorem State.setBuf_core (s : State) (k : Nat) (g : Buf → Buf) : (s.setBuf k g).core = s.core := rfl
@[simp] theorem State.setBuf_media (s : State) (k : Nat) (g : Buf → Buf) : (s.setBuf k g).media = s.media := rfl
@[simp] theorem State.setBuf_text (s : State) (k : Nat) (g : Buf → Buf) : (s.setBuf k g).text = s.text := rfl
@[simp] theorem State.setBuf_latch (s : State) (k : Nat) (g : Buf → Buf) : (s.setBuf k g).latch = s.latch := rfl
@[simp] theorem State.setBuf_outbox (s : State) (k : Nat) (g : Buf → Buf) : (s.setBuf k g).outbox = s.outbox := rfl
@[simp] theorem State.setBuf_pending (s : State) (k : Nat) (g : Buf → Buf) : (s.setBuf k g).pending = s.pending := rfl

/-! ### setReceiver -/

@[simp] theorem State.setReceiver_dev (s : State) (r : Nat) (g : Receiver → Receiver) : (s.setReceiver r g).dev = s.dev := rfl
@[simp] theorem State.setReceiver_hi (s : State) (r : Nat) (g : Receiver → Receiver) : (s.setReceiver r g).hi = s.hi := rfl
@[simp] theorem State.setReceiver_pwr (s : State) (r : Nat) (g : Receiver → Receiver) : (s.setReceiver r g).pwr = s.pwr := rfl
@[simp] theorem State.setReceiver_cask (s : State) (r : Nat) (g : Receiver → Receiver) : (s.setReceiver r g).cask = s.cask := rfl
@[simp] theorem State.setReceiver_ddr (s : State) (r : Nat) (g : Receiver → Receiver) : (s.setReceiver r g).ddr = s.ddr := rfl
@[simp] theorem State.setReceiver_mem (s : State) (r : Nat) (g : Receiver → Receiver) : (s.setReceiver r g).mem = s.mem := rfl
@[simp] theorem State.setReceiver_cp (s : State) (r : Nat) (g : Receiver → Receiver) : (s.setReceiver r g).cp = s.cp := rfl
@[simp] theorem State.setReceiver_cel (s : State) (r : Nat) (g : Receiver → Receiver) : (s.setReceiver r g).cel = s.cel := rfl
@[simp] theorem State.setReceiver_core (s : State) (r : Nat) (g : Receiver → Receiver) : (s.setReceiver r g).core = s.core := rfl
@[simp] theorem State.setReceiver_media (s : State) (r : Nat) (g : Receiver → Receiver) : (s.setReceiver r g).media = s.media := rfl
@[simp] theorem State.setReceiver_text (s : State) (r : Nat) (g : Receiver → Receiver) : (s.setReceiver r g).text = s.text := rfl
@[simp] theorem State.setReceiver_latch (s : State) (r : Nat) (g : Receiver → Receiver) : (s.setReceiver r g).latch = s.latch := rfl
@[simp] theorem State.setReceiver_outbox (s : State) (r : Nat) (g : Receiver → Receiver) : (s.setReceiver r g).outbox = s.outbox := rfl
@[simp] theorem State.setReceiver_pending (s : State) (r : Nat) (g : Receiver → Receiver) : (s.setReceiver r g).pending = s.pending := rfl

/-! ### setTensor -/

@[simp] theorem State.setTensor_dev (s : State) (k : Nat) (g : Tensor → Tensor) : (s.setTensor k g).dev = s.dev := rfl
@[simp] theorem State.setTensor_hi (s : State) (k : Nat) (g : Tensor → Tensor) : (s.setTensor k g).hi = s.hi := rfl
@[simp] theorem State.setTensor_pwr (s : State) (k : Nat) (g : Tensor → Tensor) : (s.setTensor k g).pwr = s.pwr := rfl
@[simp] theorem State.setTensor_mgt (s : State) (k : Nat) (g : Tensor → Tensor) : (s.setTensor k g).mgt = s.mgt := rfl
@[simp] theorem State.setTensor_cask (s : State) (k : Nat) (g : Tensor → Tensor) : (s.setTensor k g).cask = s.cask := rfl
@[simp] theorem State.setTensor_ddr (s : State) (k : Nat) (g : Tensor → Tensor) : (s.setTensor k g).ddr = s.ddr := rfl
@[simp] theorem State.setTensor_mem (s : State) (k : Nat) (g : Tensor → Tensor) : (s.setTensor k g).mem = s.mem := rfl
@[simp] theorem State.setTensor_cp (s : State) (k : Nat) (g : Tensor → Tensor) : (s.setTensor k g).cp = s.cp := rfl
@[simp] theorem State.setTensor_core (s : State) (k : Nat) (g : Tensor → Tensor) : (s.setTensor k g).core = s.core := rfl
@[simp] theorem State.setTensor_media (s : State) (k : Nat) (g : Tensor → Tensor) : (s.setTensor k g).media = s.media := rfl
@[simp] theorem State.setTensor_text (s : State) (k : Nat) (g : Tensor → Tensor) : (s.setTensor k g).text = s.text := rfl
@[simp] theorem State.setTensor_latch (s : State) (k : Nat) (g : Tensor → Tensor) : (s.setTensor k g).latch = s.latch := rfl
@[simp] theorem State.setTensor_outbox (s : State) (k : Nat) (g : Tensor → Tensor) : (s.setTensor k g).outbox = s.outbox := rfl
@[simp] theorem State.setTensor_pending (s : State) (k : Nat) (g : Tensor → Tensor) : (s.setTensor k g).pending = s.pending := rfl

/-! ### setRun -/

@[simp] theorem State.setRun_dev (s : State) (r : Nat) (g : Run → Run) : (s.setRun r g).dev = s.dev := rfl
@[simp] theorem State.setRun_hi (s : State) (r : Nat) (g : Run → Run) : (s.setRun r g).hi = s.hi := rfl
@[simp] theorem State.setRun_pwr (s : State) (r : Nat) (g : Run → Run) : (s.setRun r g).pwr = s.pwr := rfl
@[simp] theorem State.setRun_mgt (s : State) (r : Nat) (g : Run → Run) : (s.setRun r g).mgt = s.mgt := rfl
@[simp] theorem State.setRun_cask (s : State) (r : Nat) (g : Run → Run) : (s.setRun r g).cask = s.cask := rfl
@[simp] theorem State.setRun_ddr (s : State) (r : Nat) (g : Run → Run) : (s.setRun r g).ddr = s.ddr := rfl
@[simp] theorem State.setRun_mem (s : State) (r : Nat) (g : Run → Run) : (s.setRun r g).mem = s.mem := rfl
@[simp] theorem State.setRun_cp (s : State) (r : Nat) (g : Run → Run) : (s.setRun r g).cp = s.cp := rfl
@[simp] theorem State.setRun_core (s : State) (r : Nat) (g : Run → Run) : (s.setRun r g).core = s.core := rfl
@[simp] theorem State.setRun_media (s : State) (r : Nat) (g : Run → Run) : (s.setRun r g).media = s.media := rfl
@[simp] theorem State.setRun_text (s : State) (r : Nat) (g : Run → Run) : (s.setRun r g).text = s.text := rfl
@[simp] theorem State.setRun_latch (s : State) (r : Nat) (g : Run → Run) : (s.setRun r g).latch = s.latch := rfl
@[simp] theorem State.setRun_outbox (s : State) (r : Nat) (g : Run → Run) : (s.setRun r g).outbox = s.outbox := rfl
@[simp] theorem State.setRun_pending (s : State) (r : Nat) (g : Run → Run) : (s.setRun r g).pending = s.pending := rfl

/-! ### setStream -/

@[simp] theorem State.setStream_dev (s : State) (sid : Nat) (g : Stream → Stream) : (s.setStream sid g).dev = s.dev := rfl
@[simp] theorem State.setStream_hi (s : State) (sid : Nat) (g : Stream → Stream) : (s.setStream sid g).hi = s.hi := rfl
@[simp] theorem State.setStream_pwr (s : State) (sid : Nat) (g : Stream → Stream) : (s.setStream sid g).pwr = s.pwr := rfl
@[simp] theorem State.setStream_mgt (s : State) (sid : Nat) (g : Stream → Stream) : (s.setStream sid g).mgt = s.mgt := rfl
@[simp] theorem State.setStream_cask (s : State) (sid : Nat) (g : Stream → Stream) : (s.setStream sid g).cask = s.cask := rfl
@[simp] theorem State.setStream_ddr (s : State) (sid : Nat) (g : Stream → Stream) : (s.setStream sid g).ddr = s.ddr := rfl
@[simp] theorem State.setStream_mem (s : State) (sid : Nat) (g : Stream → Stream) : (s.setStream sid g).mem = s.mem := rfl
@[simp] theorem State.setStream_cp (s : State) (sid : Nat) (g : Stream → Stream) : (s.setStream sid g).cp = s.cp := rfl
@[simp] theorem State.setStream_cel (s : State) (sid : Nat) (g : Stream → Stream) : (s.setStream sid g).cel = s.cel := rfl
@[simp] theorem State.setStream_core (s : State) (sid : Nat) (g : Stream → Stream) : (s.setStream sid g).core = s.core := rfl
@[simp] theorem State.setStream_text (s : State) (sid : Nat) (g : Stream → Stream) : (s.setStream sid g).text = s.text := rfl
@[simp] theorem State.setStream_latch (s : State) (sid : Nat) (g : Stream → Stream) : (s.setStream sid g).latch = s.latch := rfl
@[simp] theorem State.setStream_outbox (s : State) (sid : Nat) (g : Stream → Stream) : (s.setStream sid g).outbox = s.outbox := rfl
@[simp] theorem State.setStream_pending (s : State) (sid : Nat) (g : Stream → Stream) : (s.setStream sid g).pending = s.pending := rfl

/-! ### setPage -/

@[simp] theorem State.setPage_dev (s : State) (n : Nat) (g : Page → Page) : (s.setPage n g).dev = s.dev := rfl
@[simp] theorem State.setPage_hi (s : State) (n : Nat) (g : Page → Page) : (s.setPage n g).hi = s.hi := rfl
@[simp] theorem State.setPage_pwr (s : State) (n : Nat) (g : Page → Page) : (s.setPage n g).pwr = s.pwr := rfl
@[simp] theorem State.setPage_mgt (s : State) (n : Nat) (g : Page → Page) : (s.setPage n g).mgt = s.mgt := rfl
@[simp] theorem State.setPage_cask (s : State) (n : Nat) (g : Page → Page) : (s.setPage n g).cask = s.cask := rfl
@[simp] theorem State.setPage_ddr (s : State) (n : Nat) (g : Page → Page) : (s.setPage n g).ddr = s.ddr := rfl
@[simp] theorem State.setPage_mem (s : State) (n : Nat) (g : Page → Page) : (s.setPage n g).mem = s.mem := rfl
@[simp] theorem State.setPage_cp (s : State) (n : Nat) (g : Page → Page) : (s.setPage n g).cp = s.cp := rfl
@[simp] theorem State.setPage_cel (s : State) (n : Nat) (g : Page → Page) : (s.setPage n g).cel = s.cel := rfl
@[simp] theorem State.setPage_core (s : State) (n : Nat) (g : Page → Page) : (s.setPage n g).core = s.core := rfl
@[simp] theorem State.setPage_text (s : State) (n : Nat) (g : Page → Page) : (s.setPage n g).text = s.text := rfl
@[simp] theorem State.setPage_latch (s : State) (n : Nat) (g : Page → Page) : (s.setPage n g).latch = s.latch := rfl
@[simp] theorem State.setPage_outbox (s : State) (n : Nat) (g : Page → Page) : (s.setPage n g).outbox = s.outbox := rfl
@[simp] theorem State.setPage_pending (s : State) (n : Nat) (g : Page → Page) : (s.setPage n g).pending = s.pending := rfl

/-! ### setBatch -/

@[simp] theorem State.setBatch_dev (s : State) (n : Nat) (g : Batch → Batch) : (s.setBatch n g).dev = s.dev := rfl
@[simp] theorem State.setBatch_hi (s : State) (n : Nat) (g : Batch → Batch) : (s.setBatch n g).hi = s.hi := rfl
@[simp] theorem State.setBatch_pwr (s : State) (n : Nat) (g : Batch → Batch) : (s.setBatch n g).pwr = s.pwr := rfl
@[simp] theorem State.setBatch_mgt (s : State) (n : Nat) (g : Batch → Batch) : (s.setBatch n g).mgt = s.mgt := rfl
@[simp] theorem State.setBatch_cask (s : State) (n : Nat) (g : Batch → Batch) : (s.setBatch n g).cask = s.cask := rfl
@[simp] theorem State.setBatch_ddr (s : State) (n : Nat) (g : Batch → Batch) : (s.setBatch n g).ddr = s.ddr := rfl
@[simp] theorem State.setBatch_mem (s : State) (n : Nat) (g : Batch → Batch) : (s.setBatch n g).mem = s.mem := rfl
@[simp] theorem State.setBatch_cp (s : State) (n : Nat) (g : Batch → Batch) : (s.setBatch n g).cp = s.cp := rfl
@[simp] theorem State.setBatch_cel (s : State) (n : Nat) (g : Batch → Batch) : (s.setBatch n g).cel = s.cel := rfl
@[simp] theorem State.setBatch_core (s : State) (n : Nat) (g : Batch → Batch) : (s.setBatch n g).core = s.core := rfl
@[simp] theorem State.setBatch_text (s : State) (n : Nat) (g : Batch → Batch) : (s.setBatch n g).text = s.text := rfl
@[simp] theorem State.setBatch_latch (s : State) (n : Nat) (g : Batch → Batch) : (s.setBatch n g).latch = s.latch := rfl
@[simp] theorem State.setBatch_outbox (s : State) (n : Nat) (g : Batch → Batch) : (s.setBatch n g).outbox = s.outbox := rfl
@[simp] theorem State.setBatch_pending (s : State) (n : Nat) (g : Batch → Batch) : (s.setBatch n g).pending = s.pending := rfl

/-! ### setRead -/

@[simp] theorem State.setRead_dev (s : State) (k : Nat) (g : Read → Read) : (s.setRead k g).dev = s.dev := rfl
@[simp] theorem State.setRead_hi (s : State) (k : Nat) (g : Read → Read) : (s.setRead k g).hi = s.hi := rfl
@[simp] theorem State.setRead_pwr (s : State) (k : Nat) (g : Read → Read) : (s.setRead k g).pwr = s.pwr := rfl
@[simp] theorem State.setRead_mgt (s : State) (k : Nat) (g : Read → Read) : (s.setRead k g).mgt = s.mgt := rfl
@[simp] theorem State.setRead_cask (s : State) (k : Nat) (g : Read → Read) : (s.setRead k g).cask = s.cask := rfl
@[simp] theorem State.setRead_ddr (s : State) (k : Nat) (g : Read → Read) : (s.setRead k g).ddr = s.ddr := rfl
@[simp] theorem State.setRead_mem (s : State) (k : Nat) (g : Read → Read) : (s.setRead k g).mem = s.mem := rfl
@[simp] theorem State.setRead_cp (s : State) (k : Nat) (g : Read → Read) : (s.setRead k g).cp = s.cp := rfl
@[simp] theorem State.setRead_cel (s : State) (k : Nat) (g : Read → Read) : (s.setRead k g).cel = s.cel := rfl
@[simp] theorem State.setRead_core (s : State) (k : Nat) (g : Read → Read) : (s.setRead k g).core = s.core := rfl
@[simp] theorem State.setRead_media (s : State) (k : Nat) (g : Read → Read) : (s.setRead k g).media = s.media := rfl
@[simp] theorem State.setRead_latch (s : State) (k : Nat) (g : Read → Read) : (s.setRead k g).latch = s.latch := rfl
@[simp] theorem State.setRead_outbox (s : State) (k : Nat) (g : Read → Read) : (s.setRead k g).outbox = s.outbox := rfl
@[simp] theorem State.setRead_pending (s : State) (k : Nat) (g : Read → Read) : (s.setRead k g).pending = s.pending := rfl

/-! ### setRing -/

@[simp] theorem State.setRing_dev (s : State) (f r : Nat) (g : Ring → Ring) : (s.setRing f r g).dev = s.dev := rfl
@[simp] theorem State.setRing_hi (s : State) (f r : Nat) (g : Ring → Ring) : (s.setRing f r g).hi = s.hi := rfl
@[simp] theorem State.setRing_pwr (s : State) (f r : Nat) (g : Ring → Ring) : (s.setRing f r g).pwr = s.pwr := rfl
@[simp] theorem State.setRing_mgt (s : State) (f r : Nat) (g : Ring → Ring) : (s.setRing f r g).mgt = s.mgt := rfl
@[simp] theorem State.setRing_cask (s : State) (f r : Nat) (g : Ring → Ring) : (s.setRing f r g).cask = s.cask := rfl
@[simp] theorem State.setRing_ddr (s : State) (f r : Nat) (g : Ring → Ring) : (s.setRing f r g).ddr = s.ddr := rfl
@[simp] theorem State.setRing_mem (s : State) (f r : Nat) (g : Ring → Ring) : (s.setRing f r g).mem = s.mem := rfl
@[simp] theorem State.setRing_cel (s : State) (f r : Nat) (g : Ring → Ring) : (s.setRing f r g).cel = s.cel := rfl
@[simp] theorem State.setRing_core (s : State) (f r : Nat) (g : Ring → Ring) : (s.setRing f r g).core = s.core := rfl
@[simp] theorem State.setRing_media (s : State) (f r : Nat) (g : Ring → Ring) : (s.setRing f r g).media = s.media := rfl
@[simp] theorem State.setRing_text (s : State) (f r : Nat) (g : Ring → Ring) : (s.setRing f r g).text = s.text := rfl
@[simp] theorem State.setRing_latch (s : State) (f r : Nat) (g : Ring → Ring) : (s.setRing f r g).latch = s.latch := rfl
@[simp] theorem State.setRing_outbox (s : State) (f r : Nat) (g : Ring → Ring) : (s.setRing f r g).outbox = s.outbox := rfl
@[simp] theorem State.setRing_pending (s : State) (f r : Nat) (g : Ring → Ring) : (s.setRing f r g).pending = s.pending := rfl

/-! ### setPipe -/

@[simp] theorem State.setPipe_dev (s : State) (p h : Nat) (g : Pipeline → Pipeline) : (s.setPipe p h g).dev = s.dev := rfl
@[simp] theorem State.setPipe_hi (s : State) (p h : Nat) (g : Pipeline → Pipeline) : (s.setPipe p h g).hi = s.hi := rfl
@[simp] theorem State.setPipe_pwr (s : State) (p h : Nat) (g : Pipeline → Pipeline) : (s.setPipe p h g).pwr = s.pwr := rfl
@[simp] theorem State.setPipe_mgt (s : State) (p h : Nat) (g : Pipeline → Pipeline) : (s.setPipe p h g).mgt = s.mgt := rfl
@[simp] theorem State.setPipe_cask (s : State) (p h : Nat) (g : Pipeline → Pipeline) : (s.setPipe p h g).cask = s.cask := rfl
@[simp] theorem State.setPipe_ddr (s : State) (p h : Nat) (g : Pipeline → Pipeline) : (s.setPipe p h g).ddr = s.ddr := rfl
@[simp] theorem State.setPipe_mem (s : State) (p h : Nat) (g : Pipeline → Pipeline) : (s.setPipe p h g).mem = s.mem := rfl
@[simp] theorem State.setPipe_cp (s : State) (p h : Nat) (g : Pipeline → Pipeline) : (s.setPipe p h g).cp = s.cp := rfl
@[simp] theorem State.setPipe_cel (s : State) (p h : Nat) (g : Pipeline → Pipeline) : (s.setPipe p h g).cel = s.cel := rfl
@[simp] theorem State.setPipe_core (s : State) (p h : Nat) (g : Pipeline → Pipeline) : (s.setPipe p h g).core = s.core := rfl
@[simp] theorem State.setPipe_text (s : State) (p h : Nat) (g : Pipeline → Pipeline) : (s.setPipe p h g).text = s.text := rfl
@[simp] theorem State.setPipe_latch (s : State) (p h : Nat) (g : Pipeline → Pipeline) : (s.setPipe p h g).latch = s.latch := rfl
@[simp] theorem State.setPipe_outbox (s : State) (p h : Nat) (g : Pipeline → Pipeline) : (s.setPipe p h g).outbox = s.outbox := rfl
@[simp] theorem State.setPipe_pending (s : State) (p h : Nat) (g : Pipeline → Pipeline) : (s.setPipe p h g).pending = s.pending := rfl

/-! ### setPic -/

@[simp] theorem State.setPic_dev (s : State) (sid d : Nat) (g : Pic → Pic) : (s.setPic sid d g).dev = s.dev := rfl
@[simp] theorem State.setPic_hi (s : State) (sid d : Nat) (g : Pic → Pic) : (s.setPic sid d g).hi = s.hi := rfl
@[simp] theorem State.setPic_pwr (s : State) (sid d : Nat) (g : Pic → Pic) : (s.setPic sid d g).pwr = s.pwr := rfl
@[simp] theorem State.setPic_mgt (s : State) (sid d : Nat) (g : Pic → Pic) : (s.setPic sid d g).mgt = s.mgt := rfl
@[simp] theorem State.setPic_cask (s : State) (sid d : Nat) (g : Pic → Pic) : (s.setPic sid d g).cask = s.cask := rfl
@[simp] theorem State.setPic_ddr (s : State) (sid d : Nat) (g : Pic → Pic) : (s.setPic sid d g).ddr = s.ddr := rfl
@[simp] theorem State.setPic_mem (s : State) (sid d : Nat) (g : Pic → Pic) : (s.setPic sid d g).mem = s.mem := rfl
@[simp] theorem State.setPic_cp (s : State) (sid d : Nat) (g : Pic → Pic) : (s.setPic sid d g).cp = s.cp := rfl
@[simp] theorem State.setPic_cel (s : State) (sid d : Nat) (g : Pic → Pic) : (s.setPic sid d g).cel = s.cel := rfl
@[simp] theorem State.setPic_core (s : State) (sid d : Nat) (g : Pic → Pic) : (s.setPic sid d g).core = s.core := rfl
@[simp] theorem State.setPic_text (s : State) (sid d : Nat) (g : Pic → Pic) : (s.setPic sid d g).text = s.text := rfl
@[simp] theorem State.setPic_latch (s : State) (sid d : Nat) (g : Pic → Pic) : (s.setPic sid d g).latch = s.latch := rfl
@[simp] theorem State.setPic_outbox (s : State) (sid d : Nat) (g : Pic → Pic) : (s.setPic sid d g).outbox = s.outbox := rfl
@[simp] theorem State.setPic_pending (s : State) (sid d : Nat) (g : Pic → Pic) : (s.setPic sid d g).pending = s.pending := rfl

/-! ### takeGrant -/

@[simp] theorem State.takeGrant_dev (s : State) (pool p k : Nat) : (s.takeGrant pool p k).dev = s.dev := rfl
@[simp] theorem State.takeGrant_hi (s : State) (pool p k : Nat) : (s.takeGrant pool p k).hi = s.hi := rfl
@[simp] theorem State.takeGrant_pwr (s : State) (pool p k : Nat) : (s.takeGrant pool p k).pwr = s.pwr := rfl
@[simp] theorem State.takeGrant_mgt (s : State) (pool p k : Nat) : (s.takeGrant pool p k).mgt = s.mgt := rfl
@[simp] theorem State.takeGrant_cask (s : State) (pool p k : Nat) : (s.takeGrant pool p k).cask = s.cask := rfl
@[simp] theorem State.takeGrant_ddr (s : State) (pool p k : Nat) : (s.takeGrant pool p k).ddr = s.ddr := rfl
@[simp] theorem State.takeGrant_mem (s : State) (pool p k : Nat) : (s.takeGrant pool p k).mem = s.mem := rfl
@[simp] theorem State.takeGrant_cp (s : State) (pool p k : Nat) : (s.takeGrant pool p k).cp = s.cp := rfl
@[simp] theorem State.takeGrant_core (s : State) (pool p k : Nat) : (s.takeGrant pool p k).core = s.core := rfl
@[simp] theorem State.takeGrant_media (s : State) (pool p k : Nat) : (s.takeGrant pool p k).media = s.media := rfl
@[simp] theorem State.takeGrant_text (s : State) (pool p k : Nat) : (s.takeGrant pool p k).text = s.text := rfl
@[simp] theorem State.takeGrant_latch (s : State) (pool p k : Nat) : (s.takeGrant pool p k).latch = s.latch := rfl
@[simp] theorem State.takeGrant_outbox (s : State) (pool p k : Nat) : (s.takeGrant pool p k).outbox = s.outbox := rfl
@[simp] theorem State.takeGrant_pending (s : State) (pool p k : Nat) : (s.takeGrant pool p k).pending = s.pending := rfl

/-! ### newTensor -/

@[simp] theorem State.newTensor_dev (s : State) (t : Tensor) : (s.newTensor t).dev = s.dev := rfl
@[simp] theorem State.newTensor_hi (s : State) (t : Tensor) : (s.newTensor t).hi = s.hi := rfl
@[simp] theorem State.newTensor_pwr (s : State) (t : Tensor) : (s.newTensor t).pwr = s.pwr := rfl
@[simp] theorem State.newTensor_mgt (s : State) (t : Tensor) : (s.newTensor t).mgt = s.mgt := rfl
@[simp] theorem State.newTensor_cask (s : State) (t : Tensor) : (s.newTensor t).cask = s.cask := rfl
@[simp] theorem State.newTensor_ddr (s : State) (t : Tensor) : (s.newTensor t).ddr = s.ddr := rfl
@[simp] theorem State.newTensor_mem (s : State) (t : Tensor) : (s.newTensor t).mem = s.mem := rfl
@[simp] theorem State.newTensor_cp (s : State) (t : Tensor) : (s.newTensor t).cp = s.cp := rfl
@[simp] theorem State.newTensor_core (s : State) (t : Tensor) : (s.newTensor t).core = s.core := rfl
@[simp] theorem State.newTensor_media (s : State) (t : Tensor) : (s.newTensor t).media = s.media := rfl
@[simp] theorem State.newTensor_text (s : State) (t : Tensor) : (s.newTensor t).text = s.text := rfl
@[simp] theorem State.newTensor_latch (s : State) (t : Tensor) : (s.newTensor t).latch = s.latch := rfl
@[simp] theorem State.newTensor_outbox (s : State) (t : Tensor) : (s.newTensor t).outbox = s.outbox := rfl
@[simp] theorem State.newTensor_pending (s : State) (t : Tensor) : (s.newTensor t).pending = s.pending := rfl

/-! ### setQuire -/

@[simp] theorem State.setQuire_dev (s : State) (r q : Nat) (x : QStat) : (s.setQuire r q x).dev = s.dev := rfl
@[simp] theorem State.setQuire_hi (s : State) (r q : Nat) (x : QStat) : (s.setQuire r q x).hi = s.hi := rfl
@[simp] theorem State.setQuire_pwr (s : State) (r q : Nat) (x : QStat) : (s.setQuire r q x).pwr = s.pwr := rfl
@[simp] theorem State.setQuire_mgt (s : State) (r q : Nat) (x : QStat) : (s.setQuire r q x).mgt = s.mgt := rfl
@[simp] theorem State.setQuire_cask (s : State) (r q : Nat) (x : QStat) : (s.setQuire r q x).cask = s.cask := rfl
@[simp] theorem State.setQuire_ddr (s : State) (r q : Nat) (x : QStat) : (s.setQuire r q x).ddr = s.ddr := rfl
@[simp] theorem State.setQuire_mem (s : State) (r q : Nat) (x : QStat) : (s.setQuire r q x).mem = s.mem := rfl
@[simp] theorem State.setQuire_cp (s : State) (r q : Nat) (x : QStat) : (s.setQuire r q x).cp = s.cp := rfl
@[simp] theorem State.setQuire_core (s : State) (r q : Nat) (x : QStat) : (s.setQuire r q x).core = s.core := rfl
@[simp] theorem State.setQuire_media (s : State) (r q : Nat) (x : QStat) : (s.setQuire r q x).media = s.media := rfl
@[simp] theorem State.setQuire_text (s : State) (r q : Nat) (x : QStat) : (s.setQuire r q x).text = s.text := rfl
@[simp] theorem State.setQuire_latch (s : State) (r q : Nat) (x : QStat) : (s.setQuire r q x).latch = s.latch := rfl
@[simp] theorem State.setQuire_outbox (s : State) (r q : Nat) (x : QStat) : (s.setQuire r q x).outbox = s.outbox := rfl
@[simp] theorem State.setQuire_pending (s : State) (r q : Nat) (x : QStat) : (s.setQuire r q x).pending = s.pending := rfl

/-! ### setLane -/

@[simp] theorem State.setLane_dev (s : State) (l : Nat) : (s.setLane l).dev = s.dev := rfl
@[simp] theorem State.setLane_hi (s : State) (l : Nat) : (s.setLane l).hi = s.hi := rfl
@[simp] theorem State.setLane_pwr (s : State) (l : Nat) : (s.setLane l).pwr = s.pwr := rfl
@[simp] theorem State.setLane_mgt (s : State) (l : Nat) : (s.setLane l).mgt = s.mgt := rfl
@[simp] theorem State.setLane_cask (s : State) (l : Nat) : (s.setLane l).cask = s.cask := rfl
@[simp] theorem State.setLane_ddr (s : State) (l : Nat) : (s.setLane l).ddr = s.ddr := rfl
@[simp] theorem State.setLane_mem (s : State) (l : Nat) : (s.setLane l).mem = s.mem := rfl
@[simp] theorem State.setLane_cp (s : State) (l : Nat) : (s.setLane l).cp = s.cp := rfl
@[simp] theorem State.setLane_cel (s : State) (l : Nat) : (s.setLane l).cel = s.cel := rfl
@[simp] theorem State.setLane_core (s : State) (l : Nat) : (s.setLane l).core = s.core := rfl
@[simp] theorem State.setLane_text (s : State) (l : Nat) : (s.setLane l).text = s.text := rfl
@[simp] theorem State.setLane_latch (s : State) (l : Nat) : (s.setLane l).latch = s.latch := rfl
@[simp] theorem State.setLane_outbox (s : State) (l : Nat) : (s.setLane l).outbox = s.outbox := rfl
@[simp] theorem State.setLane_pending (s : State) (l : Nat) : (s.setLane l).pending = s.pending := rfl

/-! ### setSnap -/

@[simp] theorem State.setSnap_dev (s : State) (sid : Nat) (q : Snap) (r : Option Snap) : (s.setSnap sid q r).dev = s.dev := rfl
@[simp] theorem State.setSnap_hi (s : State) (sid : Nat) (q : Snap) (r : Option Snap) : (s.setSnap sid q r).hi = s.hi := rfl
@[simp] theorem State.setSnap_pwr (s : State) (sid : Nat) (q : Snap) (r : Option Snap) : (s.setSnap sid q r).pwr = s.pwr := rfl
@[simp] theorem State.setSnap_mgt (s : State) (sid : Nat) (q : Snap) (r : Option Snap) : (s.setSnap sid q r).mgt = s.mgt := rfl
@[simp] theorem State.setSnap_cask (s : State) (sid : Nat) (q : Snap) (r : Option Snap) : (s.setSnap sid q r).cask = s.cask := rfl
@[simp] theorem State.setSnap_ddr (s : State) (sid : Nat) (q : Snap) (r : Option Snap) : (s.setSnap sid q r).ddr = s.ddr := rfl
@[simp] theorem State.setSnap_mem (s : State) (sid : Nat) (q : Snap) (r : Option Snap) : (s.setSnap sid q r).mem = s.mem := rfl
@[simp] theorem State.setSnap_cp (s : State) (sid : Nat) (q : Snap) (r : Option Snap) : (s.setSnap sid q r).cp = s.cp := rfl
@[simp] theorem State.setSnap_cel (s : State) (sid : Nat) (q : Snap) (r : Option Snap) : (s.setSnap sid q r).cel = s.cel := rfl
@[simp] theorem State.setSnap_core (s : State) (sid : Nat) (q : Snap) (r : Option Snap) : (s.setSnap sid q r).core = s.core := rfl
@[simp] theorem State.setSnap_text (s : State) (sid : Nat) (q : Snap) (r : Option Snap) : (s.setSnap sid q r).text = s.text := rfl
@[simp] theorem State.setSnap_latch (s : State) (sid : Nat) (q : Snap) (r : Option Snap) : (s.setSnap sid q r).latch = s.latch := rfl
@[simp] theorem State.setSnap_outbox (s : State) (sid : Nat) (q : Snap) (r : Option Snap) : (s.setSnap sid q r).outbox = s.outbox := rfl
@[simp] theorem State.setSnap_pending (s : State) (sid : Nat) (q : Snap) (r : Option Snap) : (s.setSnap sid q r).pending = s.pending := rfl

/-! ### setWait -/

@[simp] theorem State.setWait_dev (s : State) (fl : Flight) (g : Flight → Flight) : (s.setWait fl g).dev = s.dev := rfl
@[simp] theorem State.setWait_hi (s : State) (fl : Flight) (g : Flight → Flight) : (s.setWait fl g).hi = s.hi := rfl
@[simp] theorem State.setWait_pwr (s : State) (fl : Flight) (g : Flight → Flight) : (s.setWait fl g).pwr = s.pwr := rfl
@[simp] theorem State.setWait_mgt (s : State) (fl : Flight) (g : Flight → Flight) : (s.setWait fl g).mgt = s.mgt := rfl
@[simp] theorem State.setWait_cask (s : State) (fl : Flight) (g : Flight → Flight) : (s.setWait fl g).cask = s.cask := rfl
@[simp] theorem State.setWait_ddr (s : State) (fl : Flight) (g : Flight → Flight) : (s.setWait fl g).ddr = s.ddr := rfl
@[simp] theorem State.setWait_mem (s : State) (fl : Flight) (g : Flight → Flight) : (s.setWait fl g).mem = s.mem := rfl
@[simp] theorem State.setWait_cel (s : State) (fl : Flight) (g : Flight → Flight) : (s.setWait fl g).cel = s.cel := rfl
@[simp] theorem State.setWait_core (s : State) (fl : Flight) (g : Flight → Flight) : (s.setWait fl g).core = s.core := rfl
@[simp] theorem State.setWait_media (s : State) (fl : Flight) (g : Flight → Flight) : (s.setWait fl g).media = s.media := rfl
@[simp] theorem State.setWait_text (s : State) (fl : Flight) (g : Flight → Flight) : (s.setWait fl g).text = s.text := rfl
@[simp] theorem State.setWait_latch (s : State) (fl : Flight) (g : Flight → Flight) : (s.setWait fl g).latch = s.latch := rfl
@[simp] theorem State.setWait_outbox (s : State) (fl : Flight) (g : Flight → Flight) : (s.setWait fl g).outbox = s.outbox := rfl
@[simp] theorem State.setWait_pending (s : State) (fl : Flight) (g : Flight → Flight) : (s.setWait fl g).pending = s.pending := rfl

/-! ### setActive, setCounter -/

@[simp] theorem State.setActive_dev (s : State) (n : Nat) (g : Active → Active) : (s.setActive n g).dev = s.dev := rfl
@[simp] theorem State.setActive_hi (s : State) (n : Nat) (g : Active → Active) : (s.setActive n g).hi = s.hi := rfl
@[simp] theorem State.setActive_pwr (s : State) (n : Nat) (g : Active → Active) : (s.setActive n g).pwr = s.pwr := rfl
@[simp] theorem State.setActive_mgt (s : State) (n : Nat) (g : Active → Active) : (s.setActive n g).mgt = s.mgt := rfl
@[simp] theorem State.setActive_cask (s : State) (n : Nat) (g : Active → Active) : (s.setActive n g).cask = s.cask := rfl
@[simp] theorem State.setActive_ddr (s : State) (n : Nat) (g : Active → Active) : (s.setActive n g).ddr = s.ddr := rfl
@[simp] theorem State.setActive_mem (s : State) (n : Nat) (g : Active → Active) : (s.setActive n g).mem = s.mem := rfl
@[simp] theorem State.setActive_cp (s : State) (n : Nat) (g : Active → Active) : (s.setActive n g).cp = s.cp := rfl
@[simp] theorem State.setActive_cel (s : State) (n : Nat) (g : Active → Active) : (s.setActive n g).cel = s.cel := rfl
@[simp] theorem State.setActive_media (s : State) (n : Nat) (g : Active → Active) : (s.setActive n g).media = s.media := rfl
@[simp] theorem State.setActive_text (s : State) (n : Nat) (g : Active → Active) : (s.setActive n g).text = s.text := rfl
@[simp] theorem State.setActive_latch (s : State) (n : Nat) (g : Active → Active) : (s.setActive n g).latch = s.latch := rfl
@[simp] theorem State.setActive_outbox (s : State) (n : Nat) (g : Active → Active) : (s.setActive n g).outbox = s.outbox := rfl
@[simp] theorem State.setActive_pending (s : State) (n : Nat) (g : Active → Active) : (s.setActive n g).pending = s.pending := rfl
@[simp] theorem State.setCounter_dev (s : State) (f o v : Nat) : (s.setCounter f o v).dev = s.dev := rfl
@[simp] theorem State.setCounter_hi (s : State) (f o v : Nat) : (s.setCounter f o v).hi = s.hi := rfl
@[simp] theorem State.setCounter_pwr (s : State) (f o v : Nat) : (s.setCounter f o v).pwr = s.pwr := rfl
@[simp] theorem State.setCounter_mgt (s : State) (f o v : Nat) : (s.setCounter f o v).mgt = s.mgt := rfl
@[simp] theorem State.setCounter_cask (s : State) (f o v : Nat) : (s.setCounter f o v).cask = s.cask := rfl
@[simp] theorem State.setCounter_ddr (s : State) (f o v : Nat) : (s.setCounter f o v).ddr = s.ddr := rfl
@[simp] theorem State.setCounter_mem (s : State) (f o v : Nat) : (s.setCounter f o v).mem = s.mem := rfl
@[simp] theorem State.setCounter_cel (s : State) (f o v : Nat) : (s.setCounter f o v).cel = s.cel := rfl
@[simp] theorem State.setCounter_core (s : State) (f o v : Nat) : (s.setCounter f o v).core = s.core := rfl
@[simp] theorem State.setCounter_media (s : State) (f o v : Nat) : (s.setCounter f o v).media = s.media := rfl
@[simp] theorem State.setCounter_text (s : State) (f o v : Nat) : (s.setCounter f o v).text = s.text := rfl
@[simp] theorem State.setCounter_latch (s : State) (f o v : Nat) : (s.setCounter f o v).latch = s.latch := rfl
@[simp] theorem State.setCounter_outbox (s : State) (f o v : Nat) : (s.setCounter f o v).outbox = s.outbox := rfl
@[simp] theorem State.setCounter_pending (s : State) (f o v : Nat) : (s.setCounter f o v).pending = s.pending := rfl

/-! ### An entry read after an update -/

theorem State.domAt_setDom_same (s : State) (i : Nat) (g : Dom → Dom) (h : twf {} s.pwr.dom = true) : (s.setDom i g).domAt i = g (s.domAt i) :=
  tget_tput_same _ _ _ _ h
theorem State.domAt_setDom_other (s : State) (i j : Nat) (g : Dom → Dom) (h : j ≠ i) : (s.setDom i g).domAt j = s.domAt j :=
  tget_tput_other _ _ _ _ _ h
theorem State.chan_setChan_same (s : State) (i : Nat) (g : Chan → Chan) (h : twf {} s.ddr.ch = true) : (s.setChan i g).chan i = g (s.chan i) :=
  tget_tput_same _ _ _ _ h
theorem State.chan_setChan_other (s : State) (i j : Nat) (g : Chan → Chan) (h : j ≠ i) : (s.setChan i g).chan j = s.chan j :=
  tget_tput_other _ _ _ _ _ h
theorem State.resAt_setRes_same (s : State) (i : Nat) (g : Res → Res) (h : twf {} s.cp.res = true) : (s.setRes i g).resAt i = g (s.resAt i) :=
  tget_tput_same _ _ _ _ h
theorem State.resAt_setRes_other (s : State) (i j : Nat) (g : Res → Res) (h : j ≠ i) : (s.setRes i g).resAt j = s.resAt j :=
  tget_tput_other _ _ _ _ _ h
theorem State.partAt_setPart_same (s : State) (i : Nat) (g : Part → Part) (h : twf {} s.cel.part = true) : (s.setPart i g).partAt i = g (s.partAt i) :=
  tget_tput_same _ _ _ _ h
theorem State.partAt_setPart_other (s : State) (i j : Nat) (g : Part → Part) (h : j ≠ i) : (s.setPart i g).partAt j = s.partAt j :=
  tget_tput_other _ _ _ _ _ h
theorem State.coreAt_setCore_same (s : State) (i : Nat) (g : Core → Core) (h : twf {} s.core = true) : (s.setCore i g).coreAt i = g (s.coreAt i) :=
  tget_tput_same _ _ _ _ h
theorem State.coreAt_setCore_other (s : State) (i j : Nat) (g : Core → Core) (h : j ≠ i) : (s.setCore i g).coreAt j = s.coreAt j :=
  tget_tput_other _ _ _ _ _ h
theorem State.clusterAt_setCluster_same (s : State) (i : Nat) (g : Cluster → Cluster) (h : twf {} s.media.dc = true) : (s.setCluster i g).clusterAt i = g (s.clusterAt i) :=
  tget_tput_same _ _ _ _ h
theorem State.clusterAt_setCluster_other (s : State) (i j : Nat) (g : Cluster → Cluster) (h : j ≠ i) : (s.setCluster i g).clusterAt j = s.clusterAt j :=
  tget_tput_other _ _ _ _ _ h
theorem State.poolAt_setPool_same (s : State) (i : Nat) (g : PoolState → PoolState) (h : twf {} s.cel.pools = true) : (s.setPool i g).poolAt i = g (s.poolAt i) :=
  tget_tput_same _ _ _ _ h
theorem State.poolAt_setPool_other (s : State) (i j : Nat) (g : PoolState → PoolState) (h : j ≠ i) : (s.setPool i g).poolAt j = s.poolAt j :=
  tget_tput_other _ _ _ _ _ h
theorem State.ringAt_setRing_same (s : State) (f r : Nat) (g : Ring → Ring) (h : twf {} s.cp.ring = true) : (s.setRing f r g).ringAt f r = g (s.ringAt f r) :=
  tget_tput_same _ _ _ _ h
theorem State.ringAt_setRing_other (s : State) (f r e q : Nat) (g : Ring → Ring) (h : 64 * e + q ≠ 64 * f + r) : (s.setRing f r g).ringAt e q = s.ringAt e q :=
  tget_tput_other _ _ _ _ _ h

/-- An entry of a numbered list after its change. -/
theorem nget_nmod_same {α : Type} (l : List (Nat × α)) (i : Nat) (f : α → α) : nget (nmod l i f) i = (nget l i).map f := by
  induction l with
  | nil => rfl
  | cons e l ih =>
    by_cases h : e.1 = i
    · simp [nget, nmod, h]
    · simp only [nget, nmod, List.map_cons] at ih ⊢
      simpa [h] using ih

/-- Another entry of a numbered list after a change. -/
theorem nget_nmod_other {α : Type} (l : List (Nat × α)) (i j : Nat) (f : α → α) (h : j ≠ i) : nget (nmod l i f) j = nget l j := by
  induction l with
  | nil => rfl
  | cons e l ih =>
    simp only [nget, nmod, List.map_cons] at ih ⊢
    by_cases k : e.1 = i
    · have : ¬ e.1 = j := fun w => h (w ▸ k)
      have w : ¬ i = j := fun w => h w.symm
      simpa [List.find?_cons, k, w] using ih
    · by_cases w : e.1 = j
      · subst w
        simp [List.find?_cons, k]
      · simpa [List.find?_cons, k, w] using ih

@[simp] theorem State.runAt_setRun_same (s : State) (i : Nat) (g : Run → Run) : (s.setRun i g).runAt i = (s.runAt i).map g := nget_nmod_same _ _ _
theorem State.runAt_setRun_other (s : State) (i j : Nat) (g : Run → Run) (h : j ≠ i) : (s.setRun i g).runAt j = s.runAt j := nget_nmod_other _ _ _ _ h
@[simp] theorem State.tensorAt_setTensor_same (s : State) (i : Nat) (g : Tensor → Tensor) : (s.setTensor i g).tensorAt i = (s.tensorAt i).map g := nget_nmod_same _ _ _
theorem State.tensorAt_setTensor_other (s : State) (i j : Nat) (g : Tensor → Tensor) (h : j ≠ i) : (s.setTensor i g).tensorAt j = s.tensorAt j := nget_nmod_other _ _ _ _ h
@[simp] theorem State.streamAt_setStream_same (s : State) (i : Nat) (g : Stream → Stream) : (s.setStream i g).streamAt i = (s.streamAt i).map g := nget_nmod_same _ _ _
theorem State.streamAt_setStream_other (s : State) (i j : Nat) (g : Stream → Stream) (h : j ≠ i) : (s.setStream i g).streamAt j = s.streamAt j := nget_nmod_other _ _ _ _ h
@[simp] theorem State.pageAt_setPage_same (s : State) (i : Nat) (g : Page → Page) : (s.setPage i g).pageAt i = (s.pageAt i).map g := nget_nmod_same _ _ _
theorem State.pageAt_setPage_other (s : State) (i j : Nat) (g : Page → Page) (h : j ≠ i) : (s.setPage i g).pageAt j = s.pageAt j := nget_nmod_other _ _ _ _ h
@[simp] theorem State.batchAt_setBatch_same (s : State) (i : Nat) (g : Batch → Batch) : (s.setBatch i g).batchAt i = (s.batchAt i).map g := nget_nmod_same _ _ _
theorem State.batchAt_setBatch_other (s : State) (i j : Nat) (g : Batch → Batch) (h : j ≠ i) : (s.setBatch i g).batchAt j = s.batchAt j := nget_nmod_other _ _ _ _ h

end Sys2Proof.Machine
end

