-- ==== Sys2Proof/Tests/Slice0.lean ====
section
/-! SUPPORT. The model's own tests: ill-formed commands refused, single steps on small states against the spec's words, and for each statement states and operands that meet its hypotheses. -/

namespace Sys2Proof.Tests

open Sys2Proof Sys2Proof.Machine

/-! ### Small packets and states -/

/-- So many bytes with fields at byte offsets: offset, bytes, value. -/
def blob (n : Nat) (fields : List (Nat × Nat × Nat)) : List Byte :=
  (List.range n).map (fun i => match fields.find? (fun f => decide (f.1 ≤ i ∧ i < f.1 + f.2.1)) with
    | some f => BitVec.ofNat 8 (f.2.2 / 256 ^ (i - f.1))
    | none => 0)

/-- A packet of so many slots with fields in its body. -/
def mkPk (fn : Fin 9) (ring : Fin 64) (slots op : Nat) (fields : List (Nat × Nat × Nat)) : Packet :=
  { fn, ring, bytes := blob (64 * slots) ((0, 2, op) :: (2, 1, slots - 1) :: fields) }

/-- A ring that fetches: 64 slots, 32 submitted. -/
def ringUp : Ring := { enable := true, log2 := 6, tail := 32 }

/-- The clusters of a device in service. -/
def clustersUp : Tbl Cluster := (List.range 4).map (fun k => (k, { up := true, engines := 0x3FF }))

/-- A running partition of 1 GiB. -/
def part1 : Part :=
  { st := .running, syncCount := 16, coresMax := 8, dram := 4, cellar := 8, share := 1, subclients := 4, preemptLevel := 3, burst := 64,
    bins := [2, 0, 0, 0, 0, 0, 0, 1], chunks := (List.range 32).map (· + 16), save := List.range 8 }

/-- A device at READY: 384 GiB, every domain awake and every unit in service, two functions with a ring, and partition 1 running with 1 GiB of DRAM, two buffers of 4 KiB and one of 64 MiB. -/
def up : State := { State.reset with
  dev := { State.reset.dev with pwrgd := true, hiReady := true, stage := .ready, tasted := true, scrubbed := true }
  hi := { State.reset.hi with vfEnable := true, numVFs := 8 }
  pwr := { State.reset.pwr with dom := (List.range 30).map (fun d => (d, { st := .on })) }
  mgt := { State.reset.mgt with mpState := 1, receivers := (List.range 59).map (fun r => (r, { inReset := false })) }
  ddr := { State.reset.ddr with inService := List.range 12, cMin := 32, ch := (List.range 12).map (fun c => (c, { st := .ready, ranks := 1, gib := 32 })) }
  cp := { State.reset.cp with ring := [(0, ringUp), (64, ringUp)] }
  cel := { State.reset.cel with part := [(1, part1)] }
  core := (List.range 8).map (fun n => (n, { enabled := 15, out := false }))
  media := { State.reset.media with dc := clustersUp, tkUp := 15, tkService := 15, enService := 7, ppService := 255, pgService := 15 }
  text := { State.reset.text with binderUp := true, service := true } }

/-- A state in which every class of partition 1 holds a grant of every pool (R183). -/
def granted (s : State) : State :=
  { s with cel := { s.cel with pools := (List.range 18).map (fun k => (k, { granted := [(1, 3), (1, 2), (1, 1), (1, 0)] })) } }

/-! ### Witnesses of the statements -/

/-- Each packet of SyncPacketsAnswer at a state that meets its hypotheses: the highest object, both forms of a signal, a wait satisfied at its value and one below it. -/
theorem witness_SyncPacketsAnswer :
    up.runs 0x0101 (mkPk 0 0 1 0x0101 []) ∧
    (up.runs 0x0601 (mkPk 1 0 1 0x0601 [(16, 2, 15), (24, 8, 2 ^ 64 - 1)]) ∧
      pkF (mkPk 1 0 1 0x0601 [(16, 2, 15), (24, 8, 2 ^ 64 - 1)]) 16 2 < up.syncObjects 1) ∧
    (up.runs 0x0601 (mkPk 0 0 1 0x0601 [(16, 2, 255), (18, 1, 1)]) ∧
      pkF (mkPk 0 0 1 0x0601 [(16, 2, 255), (18, 1, 1)]) 16 2 < up.syncObjects 0 ∧ pkF (mkPk 0 0 1 0x0601 [(16, 2, 255), (18, 1, 1)]) 18 1 = 1) ∧
    (up.runs 0x0602 (mkPk 1 0 1 0x0602 [(16, 2, 15)]) ∧ pkF (mkPk 1 0 1 0x0602 [(16, 2, 15)]) 24 8 ≤ up.counter 1 15) ∧
    (up.runs 0x0602 (mkPk 1 0 1 0x0602 [(16, 2, 15), (24, 8, 1)]) ∧ up.counter 1 15 < pkF (mkPk 1 0 1 0x0602 [(16, 2, 15), (24, 8, 1)]) 24 8) ∧
    up.runs 0x0603 (mkPk 0 0 1 0x0603 [(16, 2, 255)]) := by
  simp only [State.runs]
  repeat' apply And.intro
  all_goals first | decide | rfl

/-- `up` with a 4 KiB buffer owned by the host side of partition 1. -/
def withBuf : State := up.setBuf (bufKey 1 0 1) (fun b => { b with hold := .host [1] 1 })

/-- Each bin packet at a state that meets its hypotheses: a buffer given back by its final owner, shared with two owners, counted, and the largest request taken. -/
theorem witness_BinPacketsAnswer :
    (withBuf.runs 0x0701 (mkPk 1 0 1 0x0701 [(16, 8, 0x101)]) ∧ withBuf.namedBuf 1 (pkF (mkPk 1 0 1 0x0701 [(16, 8, 0x101)]) 16 8) = .ok (bufKey 1 0 1) ∧
      withBuf.finalOwner (bufKey 1 0 1) = 1) ∧
    (withBuf.runs 0x0702 (mkPk 1 0 1 0x0702 [(16, 8, 0x101), (24, 1, 1)]) ∧ shareChecks (mkPk 1 0 1 0x0702 [(16, 8, 0x101), (24, 1, 1)]) = none ∧
      withBuf.namedBuf 1 (pkF (mkPk 1 0 1 0x0702 [(16, 8, 0x101), (24, 1, 1)]) 16 8) = .ok (bufKey 1 0 1) ∧
      withBuf.shareFree (mkPk 1 0 1 0x0702 [(16, 8, 0x101), (24, 1, 1)]) = none) ∧
    up.runs 0x0703 (mkPk 1 0 1 0x0703 []) ∧
    (up.runs 0x0704 (mkPk 1 0 1 0x0704 [(16, 4, 67108864)]) ∧ binFor 67108864 = 7 ∧ up.freeBuf 1 7 = some (bufKey 1 7 0)) := by
  simp only [State.runs]
  repeat' apply And.intro
  all_goals first | decide | rfl

/-- The DMA packet of a whole 4 KiB buffer. -/
def dmaPk (op : Nat) : Packet := mkPk 1 0 1 op [(16, 8, 0x1000), (24, 8, 0x101), (36, 4, 4096)]

/-- `withBuf` with a poisoned line inside that buffer. -/
def poisonBuf : State := withBuf.setPoison ((withBuf.bufAddr (bufKey 1 0 1) + 64) / 64) true

set_option maxRecDepth 8000 in
/-- Each transfer packet at a state that meets its hypotheses: a transfer of the whole buffer, clean and poisoned, an information block, and both accounting records. -/
theorem witness_HostTransferPacketsBegin :
    (withBuf.runs 0x0801 (dmaPk 0x0801) ∧ pkF (dmaPk 0x0801) 36 4 = 4096 ∧ withBuf.namedBuf 1 (pkF (dmaPk 0x0801) 24 8) = .ok (bufKey 1 0 1) ∧
      pkF (dmaPk 0x0801) 32 4 + pkF (dmaPk 0x0801) 36 4 ≤ binSize (keySize (bufKey 1 0 1))) ∧
    (withBuf.runs 0x0802 (dmaPk 0x0802) ∧ withBuf.namedBuf 1 (pkF (dmaPk 0x0802) 24 8) = .ok (bufKey 1 0 1) ∧
      withBuf.firstPoison (withBuf.bufAddr (bufKey 1 0 1) + pkF (dmaPk 0x0802) 32 4) (pkF (dmaPk 0x0802) 36 4) = none) ∧
    (poisonBuf.runs 0x0802 (dmaPk 0x0802) ∧
      poisonBuf.firstPoison (poisonBuf.bufAddr (bufKey 1 0 1) + pkF (dmaPk 0x0802) 32 4) (pkF (dmaPk 0x0802) 36 4) =
        some (poisonBuf.bufAddr (bufKey 1 0 1) + 64)) ∧
    up.runs 0x0102 (mkPk 0 0 1 0x0102 [(16, 8, 0x1000)]) ∧
    (up.runs 0x0208 (mkPk 1 0 1 0x0208 [(24, 8, 0x1000)]) ∧ pkF (mkPk 1 0 1 0x0208 [(24, 8, 0x1000)]) 16 1 = 0) ∧
    ((up.takeClient 1 3 7).1.runs 0x0208 (mkPk 1 0 1 0x0208 [(16, 1, 3), (20, 4, 7)]) ∧
      (up.takeClient 1 3 7).1.clientOf 1 3 7 = some (up.takeClient 1 3 7).2) := by
  simp only [State.runs]
  repeat' apply And.intro
  all_goals first | decide | rfl

/-- The fields of a partition of 1 GiB for VF n. -/
def partPk (op n : Nat) : Packet :=
  mkPk 0 0 1 op [(16, 1, n), (18, 1, 8), (20, 1, 1), (21, 1, 3), (22, 2, 4), (24, 2, 8), (26, 2, 4), (32, 2, 64), (34, 2, 16), (36, 2, 2), (50, 2, 1)]

/-- Each partition packet at a state that meets its hypotheses: the highest partition created, partition 1 resized and destroyed, and the lowest and highest free folio handle. -/
theorem witness_PartitionPacketsAct :
    (up.runs 0x0201 (partPk 0x0201 8) ∧ partChecks (partPk 0x0201 8) = none ∧ (up.partAt 8).st = .free ∧
      up.partRefused 8 { partFields (partPk 0x0201 8) {} with st := .opened } false = none) ∧
    (up.runs 0x0202 (partPk 0x0202 1) ∧ partChecks (partPk 0x0202 1) = none ∧ (up.partAt 1).st = .running ∧
      resizeChecks (partPk 0x0202 1) (up.partAt 1) = none ∧ up.partRefused 1 (partFields (partPk 0x0202 1) (up.partAt 1)) true = none) ∧
    up.runs 0x0203 (mkPk 0 0 1 0x0203 [(16, 1, 1)]) := by
  simp only [State.runs]
  repeat' apply And.intro
  all_goals first | decide | rfl

/-- `up` with a folio of no bytes under handle 0. -/
def withFolio : State := { up with cel := { up.cel with folios := [{ part := 1, handle := 0, image := [] }] } }

/-- A PIPELINE_CREATE of a video pipeline that uses folio 0. -/
def pipePk : Packet := mkPk 1 0 1 0x0206 [(18, 1, 0xFF), (20, 2, 64), (22, 2, 64), (24, 1, 64)]

/-- `withFolio` with that pipeline under handle 0. -/
def withPipe : State := { withFolio with media := { withFolio.media with pipelines := [pkPipeline pipePk 0] } }

/-- A Cask medium with one entry of a kind under number 0. -/
def mediumOf (kind : Nat) (bytes : List Byte) : CaskMedia :=
  { body := [], signerKey := [], signature := [], cid := [], capacityMiB := 4096, lifeA := 1, lifeB := 1, preEol := 1, generation := 1,
    entries := [(0, { kind, sha := [], name := [], startSector := 0, bytes })], ledger := [], pairing := [] }

/-- `up` with that Cask inserted. -/
def withCask (kind : Nat) (bytes : List Byte) : State :=
  { up with cask := { up.cask with present := true, identityValid := true, media := some (mediumOf kind bytes) } }

/-- Each folio packet at a state that meets its hypotheses, a folio that fits, and pipelines made and removed. -/
theorem witness_FolioPacketsAnswer :
    (up.runs 0x0204 (mkPk 1 0 1 0x0204 [(20, 4, 1)]) ∧ pkF (mkPk 1 0 1 0x0204 [(20, 4, 1)]) 20 4 = 1 ∧ up.folioAt 1 0 = none) ∧
    ((withCask 1 [7]).runs 0x0204 (mkPk 1 0 1 0x0204 [(16, 1, 1)]) ∧
      (withCask 1 [7]).caskBytes 1 (pkF (mkPk 1 0 1 0x0204 [(16, 1, 1)]) 18 2) = .ok [7] ∧ (withCask 1 [7]).folioAt 1 0 = none) ∧
    (withFolio.runs 0x0205 (mkPk 1 0 1 0x0205 []) ∧ (withFolio.folioAt 1 0).isSome = true ∧
      withFolio.media.pipelines.all (fun x => !(x.part == 1 && x.folios.contains 0)) = true) ∧
    (withFolio.folioOver 1 [] = false ∧ withFolio.folioAt 1 1 = none ∧ (withFolio.folioAt 1 0).isSome = true ∧ (withFolio.dramPlace 1 256).isSome = true) := by
  simp only [State.runs]
  repeat' apply And.intro
  all_goals first | decide | rfl

/-- A pipeline made under the lowest handle, and one removed that no stream and no source names. -/
theorem witness_PipelinePacketsAnswer :
    (withFolio.runs 0x0206 pipePk ∧ withFolio.trackers ≠ [] ∧ pkF pipePk 16 1 = 0 ∧ pipelineFields pipePk = none ∧
      withFolio.pipelineHandles pipePk = true ∧ withFolio.pipelineMismatch pipePk = false ∧ badStop (pkPipeline pipePk 0).stops = none ∧
      withFolio.pipeAt 1 0 = none) ∧
    (withPipe.runs 0x0207 (mkPk 1 0 1 0x0207 []) ∧ (withPipe.pipeAt 1 0).isSome = true ∧ withPipe.media.streams = [] ∧ withPipe.media.sources = []) := by
  simp only [State.runs]
  repeat' apply And.intro
  all_goals first | decide | rfl

/-- A STREAM_OPEN of the largest picture size on pipeline 0. -/
def streamPk : Packet := mkPk 1 0 2 0x0301 [(17, 1, 1), (20, 2, 4096), (22, 2, 2304), (24, 4, 48000)]

/-- `withPipe` with that stream open under number 0. -/
def withStream : State := { withPipe with media := { withPipe.media with streams := [(0, pkStream streamPk)], nextStream := 1 } }

/-- A packet that names stream 0. -/
def onStream (op : Nat) (fields : List (Nat × Nat × Nat)) : Packet := mkPk 1 0 1 op fields

/-- `withStream` while a flush of the stream waits. -/
def flushing : State :=
  { withStream.fetched (onStream 0x0303 []) [] with cp := { (withStream.fetched (onStream 0x0303 []) []).cp with
      flight := [{ id := 0, pk := onStream 0x0303 [], slot := 0, wait := .drain (streamKey 0), aux := [streamKey 0, 1] }] } }

set_option maxRecDepth 8000 in
/-- The packets of a stream at states that meet their hypotheses: an open at the limits, the largest FEED, a FEED behind a flush, and flush, reset and both closes of an idle stream. -/
theorem witness_StreamPacketsAnswer :
    (withPipe.runs 0x0301 streamPk ∧ (List.range 4).any withPipe.clusterServes = true ∧ withPipe.trackers ≠ [] ∧ pkF streamPk 31 1 < 64 ∧
      streamRanges (pkStream streamPk) = true ∧ (withPipe.pipeAt 1 0).isSome = true ∧ withPipe.pickCluster = some 0 ∧ withPipe.pickTracker = some 0 ∧
      withPipe.dramUse 1 + withPipe.reserved 1 4 + (pkStream streamPk).refBytes ≤ 2 ^ 28 * (withPipe.partAt 1).dram ∧
      (withPipe.dramPlace 1 (pkStream streamPk).refBytes).isSome = true ∧ (withPipe.pipeAt 1 0).any (fun x => !x.page) = true) ∧
    (withStream.openStream 1 0).isSome = true ∧
    (withStream.runs 0x0302 (onStream 0x0302 [(20, 4, 67108864)]) ∧ withStream.freeBuf 1 (binFor 67108864) = some (bufKey 1 7 0) ∧
      (withStream.fetched (onStream 0x0302 []) []).streamBusy (withStream.entry (onStream 0x0302 [])) (fun o => isReset o || isClose o) = false ∧
      (withStream.fetched (onStream 0x0302 []) []).streamBusy (withStream.entry (onStream 0x0302 [])) isFlush = false) ∧
    (flushing.runs 0x0302 (onStream 0x0302 [(20, 4, 1)]) ∧
      (flushing.fetched (onStream 0x0302 [(20, 4, 1)]) []).streamBusy (flushing.entry (onStream 0x0302 [(20, 4, 1)])) (fun o => isReset o || isClose o) = false ∧
      (flushing.fetched (onStream 0x0302 [(20, 4, 1)]) []).streamBusy (flushing.entry (onStream 0x0302 [(20, 4, 1)])) isFlush = true) ∧
    ((withStream.fetched (onStream 0x0303 []) []).streamBusy (withStream.entry (onStream 0x0303 [])) isClose = false ∧
      (withStream.fetched (onStream 0x0303 []) []).streamBusy (withStream.entry (onStream 0x0303 [])) (fun o => isFeed o || isFlush o || isReset o) = false) ∧
    withStream.runs 0x0303 (onStream 0x0303 []) ∧ withStream.runs 0x0304 (onStream 0x0304 []) ∧
    withStream.runs 0x0305 (onStream 0x0305 []) ∧ withStream.runs 0x0305 (onStream 0x0305 [(20, 1, 1)]) := by
  simp only [State.runs]
  repeat' apply And.intro
  all_goals first | decide | rfl

/-- A CLIP_START of stream 0. -/
def clipPk : Packet := onStream 0x0307 [(24, 4, 4096), (28, 2, 1024)]

/-- `withStream` with session 0 open, and a picture to encode or none. -/
def withClip (todo : Bool) : State :=
  { withStream with media := { withStream.media with clips := [(0, some { pkClip clipPk with todo := if todo then some (0, 0) else none })] } }

/-- The encoder packets of a stream at states that meet their hypotheses: a snapshot of the next picture at quality 100, a session at the limits, and its stop and key picture. -/
theorem witness_EncoderPacketsAnswer :
    (withStream.runs 0x0306 (onStream 0x0306 [(20, 4, noPic), (24, 1, 100)]) ∧ withStream.encoderServes 2 = true ∧
      pkF (onStream 0x0306 [(20, 4, noPic), (24, 1, 100)]) 20 4 = noPic) ∧
    (withStream.runs 0x0307 clipPk ∧ clipChecks clipPk = none ∧ withStream.lowestSession = some 0) ∧
    ((withClip false).runs 0x0308 (onStream 0x0308 []) ∧ ((withClip false).namedClip (onStream 0x0308 [])).isSome = true) ∧
    ((withClip true).runs 0x0308 (onStream 0x0308 []) ∧
      ((withClip true).namedClip (onStream 0x0308 [])).any (fun c => c.todo.isSome) = true) ∧
    (withClip false).runs 0x0309 (onStream 0x0309 []) := by
  simp only [State.runs]
  repeat' apply And.intro
  all_goals first | decide | rfl

/-- A PIPELINE_CREATE of a page pipeline that uses folio 0 twice and vocabulary 0. -/
def pagePipePk : Packet := mkPk 1 0 2 0x0206 [(16, 1, 1), (20, 2, 64), (22, 2, 64), (24, 1, 1), (64, 1, 0), (65, 1, 0xFF)]

/-- `withFolio` with a vocabulary and that pipeline under handle 0. -/
def withPagePipe : State := { withFolio with
  media := { withFolio.media with pipelines := [pkPipeline pagePipePk 0] }
  text := { withFolio.text with vocab := [(0, some { part := 1, image := [], dram := 0, cellar := 0, addr := 0 })] } }

/-- `withPagePipe` with a page source open under number 0. -/
def withSource : State := { withPagePipe with media := { withPagePipe.media with
  sources := [(0, { part := 1, pipeline := 0, window := 8, budgetMult := 16, client := 0, closing := false, completed := 0 })], nextSource := 1 } }

/-- A SUBMIT_PAGE of a file of 4 KiB with a page of 64 × 64. -/
def submitPk : Packet := mkPk 1 0 1 0x0402 [(20, 4, 4096), (36, 2, 64), (38, 2, 64)]

/-- The page packets at states that meet their hypotheses, a source opened at the limits of its fields among them. -/
theorem witness_PagePacketsAnswer :
    (withPagePipe.runs 0x0401 (mkPk 1 0 1 0x0401 [(17, 1, 32), (18, 1, 64), (19, 1, 1)]) ∧ withPagePipe.pageDown = false ∧
      (withPagePipe.pipeAt 1 0).any (·.page) = true ∧ dflt (pkF (mkPk 1 0 1 0x0401 [(17, 1, 32), (18, 1, 64), (19, 1, 1)]) 18 1) 16 = 64) ∧
    (withSource.runs 0x0402 submitPk ∧ withSource.pageChecks submitPk = none ∧ (withSource.openSource 1 0).isSome = true ∧
      withSource.pageBuffers 1 4096 (64 * 64) = .ok (bufKey 1 0 0, bufKey 1 0 1)) ∧
    withSource.runs 0x0403 (mkPk 1 0 1 0x0403 []) := by
  simp only [State.runs]
  repeat' apply And.intro
  all_goals first | decide | rfl

/-- `withPagePipe` with a tokenize session open under number 0. -/
def withSession : State := { withPagePipe with text := { withPagePipe.text with
  sessions := [(0, { part := 1, vocab := 0, reject := false, client := 0, failed := false, held := [], partialChar := [], consumed := 0 })], nextSession := 1 } }

/-- `withSession` while a TOKENIZE_FEED of the session runs. -/
def feeding : State :=
  { withSession.fetched (mkPk 1 0 1 0x0504 [(20, 4, 1), (40, 4, 260)]) [] with cp := { (withSession.fetched (mkPk 1 0 1 0x0504 []) []).cp with
      flight := [{ id := 0, pk := mkPk 1 0 1 0x0504 [(20, 4, 1), (40, 4, 260)], slot := 0, wait := .dma, aux := [0] }] } }

/-- The text packets at states that meet their hypotheses: a table from host memory and from the Cask, a slot emptied, a session opened, the longest and the empty feed, a close, and both behind an earlier feed. -/
theorem witness_TextPacketsAnswer :
    up.textDown = false ∧
    (up.runs 0x0501 (mkPk 1 0 1 0x0501 [(17, 1, 1), (20, 4, 1)]) ∧ (up.tableSlot 1).isSome = true ∧
      up.dramUse 1 + up.reserved 1 4 + up.masterBytes (mkPk 1 0 1 0x0501 [(17, 1, 1), (20, 4, 1)]) ≤ 2 ^ 28 * (up.partAt 1).dram) ∧
    ((withCask 2 [7]).runs 0x0501 (mkPk 1 0 1 0x0501 [(16, 1, 1)]) ∧ (withCask 2 [7]).caskBytes 2 0 = .ok [7] ∧ ((withCask 2 [7]).tableSlot 0).isSome = true) ∧
    (withSession.runs 0x0503 (mkPk 1 0 1 0x0503 [(17, 1, 1), (18, 1, 1)]) ∧ (withSession.tableAt 0 1 0).isSome = true) ∧
    (withSession.sessionAt 1 0).isSome = true ∧
    (withSession.runs 0x0504 (mkPk 1 0 1 0x0504 [(20, 4, 1048576), (40, 4, 1048835)]) ∧
      (withSession.fetched (mkPk 1 0 1 0x0504 [(20, 4, 1048576), (40, 4, 1048835)]) []).sessionBusy
        (withSession.entry (mkPk 1 0 1 0x0504 [(20, 4, 1048576), (40, 4, 1048835)])) = false) ∧
    withSession.runs 0x0504 (mkPk 1 0 1 0x0504 [(40, 4, 259)]) ∧ withSession.runs 0x0505 (mkPk 1 0 1 0x0505 []) ∧
    ((feeding.fetched (mkPk 1 0 1 0x0505 []) []).sessionBusy (feeding.entry (mkPk 1 0 1 0x0505 [])) = true ∧
      feeding.runs 0x0505 (mkPk 1 0 1 0x0505 []) ∧ feeding.runs 0x0504 (mkPk 1 0 1 0x0504 [(40, 4, 259)])) := by
  simp only [State.runs]
  repeat' apply And.intro
  all_goals first | decide | rfl

/-- A table that no pipeline and no session uses is unloaded. -/
theorem witness_TextPacketsAnswer_unload :
    ({ withPagePipe with media := up.media } : State).runs 0x0502 (mkPk 1 0 1 0x0502 []) ∧
    ({ withPagePipe with media := up.media } : State).tableUsed 0 1 0 = false ∧ (withPagePipe.tableAt 0 1 0).isSome = true := by
  simp only [State.runs]
  repeat' apply And.intro
  all_goals first | decide | rfl

/-- `up` with a packet of VF1 in flight that waits for its DMA. -/
def inDma (s : State) (pk : Packet) (aux : List Nat) : State :=
  { s.fetched pk [] with cp := { (s.fetched pk []).cp with flight := [{ id := 0, pk, slot := 0, wait := .dma, aux }] } }

/-- A packet of an undefined opcode and one that a VF may not send are fetched. -/
theorem witness_UndefinedOpcodeAnswersBadOpcode :
    maySend 0x0FFF 0 = false ∧ (mkPk 0 0 1 0x0FFF []).opcode = 0x0FFF ∧ up.fetchable (mkPk 0 0 1 0x0FFF []) = true ∧
    maySend 0x0201 1 = false ∧ up.fetchable (mkPk 1 0 1 0x0201 []) = true := by
  decide

/-- A packet of each opcode of HostDmaDoneCompletesPacket waits for its DMA. -/
theorem witness_HostDmaDoneCompletesPacket :
    ([0x0102, 0x0208, 0x0801, 0x0802].all (fun op => ((inDma withBuf (mkPk 1 0 1 op [(24, 8, 0x101), (36, 4, 1)]) [bufKey 1 0 1]).dmaFlight 0).any
      (fun fl => fl.pk.opcode == op))) = true ∧
    ((inDma withStream (onStream 0x0302 [(20, 4, 1)]) [bufKey 1 0 0]).dmaFlight 0).isSome = true ∧
    ((inDma withStream (onStream 0x0302 [(20, 4, 1)]) [bufKey 1 0 0]).streamAt 0).isSome = true ∧
    ([0x0204, 0x0501].all (fun op => ((inDma up (mkPk 1 0 1 op [(20, 4, 1)]) []).dmaFlight 0).any (fun fl => decide (1 ≤ pkF fl.pk 20 4)))) = true ∧
    (feeding.dmaFlight 0).any (fun fl => decide (fl.aux.headD 0 = 0) && decide (1 ≤ pkF fl.pk 20 4)) = true ∧
    ((inDma withSession (mkPk 1 0 1 0x0504 [(20, 4, 1), (40, 4, 260)]) [1, 0, 0, 1, 0]).dmaFlight 0).any (fun fl => fl.aux == [1, 0, 0, 1, 0]) = true ∧
    ((inDma { withSource with media := { withSource.media with pages := [(0, pkPage submitPk 0 (bufKey 1 0 0) (bufKey 1 0 1))] } } submitPk [0]).dmaFlight 0).isSome = true ∧
    (withSource.pagePipe (pkPage submitPk 0 (bufKey 1 0 0) (bufKey 1 0 1))).isSome = true ∧
    ({ withSource with media := { withSource.media with pipelines := [] } } : State).pagePipe (pkPage submitPk 0 (bufKey 1 0 0) (bufKey 1 0 1)) = none := by
  decide

/-- Each error of HostDmaErrorActs at a state it meets: a fetch, a record write, a reply and a packet's data. -/
theorem witness_HostDmaErrorActs :
    ((up.ringAt 1 0).enable = true ∧ (up.ringAt 1 0).stopped = false ∧ (up.ringAt 1 0).head ≠ (up.ringAt 1 0).tail) ∧
    (((up.setRes 1 (fun q => { q with enable := true, q := [lostEvent q] })).resAt 1).enable = true ∧
      ((up.setRes 1 (fun q => { q with enable := true, q := [lostEvent q] })).resAt 1).halted = false ∧
      ((up.setRes 1 (fun q => { q with enable := true, q := [lostEvent q] })).resAt 1).q ≠ []) ∧
    ((inDma withBuf (dmaPk 0x0801) [bufKey 1 0 1]).dmaFlight 0).isSome = true ∧
    ((inDma withStream (onStream 0x0302 [(20, 4, 1)]) [bufKey 1 0 0]).dmaFlight 0).isSome = true ∧
    ((inDma { withSource with media := { withSource.media with pages := [(0, pkPage submitPk 0 (bufKey 1 0 0) (bufKey 1 0 1))] } } submitPk [0]).pageAt 0).isSome = true := by
  decide

/-- A header wait on object 3 with a timeout of the ring, and a SYNC_WAIT on object 15 for the value 1. -/
def waiting : State :=
  { (up.setRing 1 0 (fun r => { r with timeout := 2000 })) with cp := { (up.setRing 1 0 (fun r => { r with timeout := 2000 })).cp with
      flight := [{ id := 0, pk := mkPk 1 0 1 0x0602 [(16, 2, 15), (20, 4, 1000), (24, 8, 1)], slot := 0, wait := .sync 15 1 },
        { id := 1, pk := mkPk 1 0 1 0x0101 [(3, 1, 1), (8, 8, 3 + 2 ^ 26)], slot := 1, wait := .header }] } }

/-- Both waits expire unsatisfied without a signal, and are satisfied by a signal of the same cycle. -/
theorem witness_ExpiredWaitsEndWithTimeout :
    ((waiting.ringAt 1 0).timeout ≠ 0 ∧ waiting.headerReady (mkPk 1 0 1 0x0101 [(3, 1, 1), (8, 8, 3 + 2 ^ 26)]) = false ∧
      (waiting.applySignal { fn := 1, obj := 3, isSet := false, value := 1 }).headerReady (mkPk 1 0 1 0x0101 [(3, 1, 1), (8, 8, 3 + 2 ^ 26)]) = true) ∧
    (pkF (mkPk 1 0 1 0x0602 [(16, 2, 15), (20, 4, 1000), (24, 8, 1)]) 20 4 ≠ 0 ∧ waiting.counter 1 15 < 1 ∧
      1 ≤ (waiting.applySignal { fn := 1, obj := 15, isSet := false, value := 1 }).counter 1 15) ∧
    (cycleSignals [{ fn := 1, obj := 15, isSet := false, value := 1 }, { fn := 1, obj := 15, isSet := false, value := 1 }]).1.length = 1 := by
  decide

/-- The states of a ring in PacketRingCommandsAct: enabled, disabled, and disabled with replies owed; control values at the ends of LOG2_SLOTS. -/
theorem witness_PacketRingCommandsAct :
    up.hostReaches 8 = true ∧ (up.ringAt 1 0).enable = true ∧ (64#32 - (up.ringAt 1 0).head).toNat ≤ 2 ^ (up.ringAt 1 0).log2 ∧
    2 ^ (up.ringAt 1 0).log2 < (65#32 - (up.ringAt 1 0).head).toNat ∧ (up.ringAt 1 63).enable = false ∧ (up.ringAt 1 63).inflight = 0 ∧
    bitsOf (0x80060000#32).toNat 16 5 = 6 ∧ bitsOf (0x80100000#32).toNat 16 5 = 16 ∧ bitsOf (0x80050000#32).toNat 16 5 = 5 ∧
    (0x80060000#32).getLsbD 31 = true ∧ (0#32).getLsbD 31 = false ∧
    ((up.setRing 1 63 (fun r => { r with inflight := 1 })).ringAt 1 63).inflight = 1 := by
  decide

/-- The states of a result ring in ResultRingCommandsAct, and control values at the ends of LOG2_ENTRIES. -/
theorem witness_ResultRingCommandsAct :
    up.hostReaches 8 = true ∧ (up.partAt 8).st = .free ∧ (up.partAt 1).st ≠ .free ∧ (up.resAt 1).enable = false ∧ bitsOf (0x80080000#32).toNat 16 5 = 8 ∧ bitsOf (0x80140000#32).toNat 16 5 = 20 ∧
    bitsOf (0x80150000#32).toNat 16 5 = 21 ∧ (0x80080000#32).getLsbD 31 = true ∧
    ((up.setRes 1 (fun q => { q with enable := true, log2 := 8 })).resAt 1).enable = true ∧
    2 ^ ((up.setRes 1 (fun q => { q with enable := true, log2 := 8 })).resAt 1).log2 <
      (((up.setRes 1 (fun q => { q with enable := true, log2 := 8 })).resAt 1).tail - 1#32).toNat ∧
    (((up.setRes 1 (fun q => { q with enable := true, log2 := 8 })).resAt 1).tail - 0xFFFFFF00#32).toNat = 2 ^ 8 := by
  decide

/-- A result queue of one function that holds some records. -/
def withRecords (rs : List Rec) : State :=
  up.setRes 1 (fun q => { q with enable := true, log2 := 8, q := rs })

/-- The record of 17 entries, the longest. -/
def longRec : Rec := { type := 2, prio := 0, body := List.replicate 1080 0, prod := .tp 0, obj := 0 }

set_option maxRecDepth 100000 in
/-- The records and the queue's states in RecordCommitQueuesStallsOrLoses: a record refused by its type and by its length, an event with and without room, and a record of a track processor with the queue FULL and not. -/
theorem witness_RecordCommitQueuesStallsOrLoses :
    mayWrite .mp 1 = false ∧ lengthOk 1 2 = false ∧ mayWrite .mp 9 = true ∧ lengthOk 9 ((56 + 71) / 64) = true ∧ prodUnstallable .mp = true ∧
    (lostEvent {}).len = 1 ∧ 1 ≤ (up.resAt 1).freeEntries ∧
    ((withRecords (List.replicate 60 longRec ++ List.replicate 4 (lostEvent {}))).resAt 1).freeEntries < 1 ∧
    longRec.len = 17 ∧ mayWrite (.tp 0) 2 = true ∧ lengthOk 2 ((1080 + 71) / 64) = true ∧ prodUnstallable (.tp 0) = false ∧
    ((withRecords (List.replicate 60 longRec)).resAt 1).full = true ∧ (up.resAt 1).full = false ∧ (up.resAt 1).stalled = [] := by
  decide

set_option maxRecDepth 100000 in
/-- The queue's states in RecordDrainWritesFront: a record that fits before the ring's end, one that crosses it, and a message due. -/
theorem witness_RecordDrainWritesFront :
    ((withRecords [longRec]).draining 1 = true ∧ ((withRecords [longRec]).resAt 1).front = some longRec ∧
      longRec.len ≤ 2 ^ 8 - ((withRecords [longRec]).resAt 1).tail.toNat % 2 ^ 8) ∧
    ((((withRecords [longRec]).setRes 1 (fun q => { q with tail := 240, head := 240 })).draining 1 = true) ∧
      2 ^ 8 - (240#32).toNat % 2 ^ 8 < longRec.len ∧ 16 + longRec.len ≤ 2 ^ 8 - (240#32 - 240#32).toNat) ∧
    ((withRecords [longRec]).resAt 1).q ≠ [] ∧
    ((up.setRes 1 (fun q => { q with delay := 10, sinceMsg := 1 })).resAt 1).sinceMsg ≠ 0 := by
  decide

/-- `up` with PF0's window 0 over DRAM from address 0 and window 1 of VF1 over its bin region, both read and written. -/
def withWin : State := { up with hi := { up.hi with win := [(0, 0xE1FFFE0000000000#64), (256, 0xE1FFFE0000000000#64)] } }

/-- `withWin` with PF0's window 0 over 0x60_0000_0000, an address outside every region. -/
def outside : State := { up with hi := { up.hi with win := [(0, 0xE1FFFE6000000000#64)] } }

/-- `withWin` with MEMG asleep. -/
def asleep : State := { withWin with pwr := { withWin.pwr with dom := (List.range 30).map (fun d => (d, { st := if 1 ≤ d ∧ d ≤ 3 then .sleep else .on })) } }

set_option maxRecDepth 8000 in
/-- The accesses of WindowCommandsAct at states they meet: the last byte of a page, clean, poisoned, asleep, one that does not translate, and one outside every region. -/
theorem witness_WindowCommandsAct :
    withWin.hostReaches 0 = true ∧ 255 < winCount 0 ∧ 15 < winCount 1 ∧
    tget none { withWin.hi with winLow := [(0, some 1#32)] }.winLow 0 = some 1#32 ∧
    withWin.fnResetting 0 = false ∧ withWin.translate 0 4095 1 false = .ok 4095 ∧ withWin.translate 0 4095 1 true = .ok 4095 ∧
    withWin.domOf 4095 = some 2 ∧ (withWin.domAt 2).st = .on ∧ withWin.firstPoison 4095 1 = none ∧
    ((withWin.setPoison 63 true).firstPoison 4095 1).isSome = true ∧
    (asleep.translate 0 4095 1 false = .ok 4095 ∧ (asleep.domAt 2).st ≠ .on ∧ (asleep.domAt 2).switchedOff = false) ∧
    up.translate 0 0 1 false = .error .unsupportedRequest ∧ up.translate 0 0 1 true = .error .unsupportedRequest ∧
    withWin.translate 1 0 1 true = .ok (2 ^ 25 * 16) ∧
    (outside.hostReaches 0 = true ∧ outside.fnResetting 0 = false ∧ outside.translate 0 4095 1 false = .error .completerAbort ∧
      outside.missesRegions 0 4095 = true ∧ up.missesRegions 0 0 = false) ∧
    ({ up with hi := { up.hi with held := [{ dom := 1, fn := 0, addr := 0, len := 1, data := [], isReg := false }] } } : State).hi.held.length = 1 := by
  repeat' apply And.intro
  all_goals first | decide | rfl

/-- `up` with partition 1 under reset. -/
def resetting1 : State := up.setPart 1 (fun q => { q with st := .resetting })

/-- Registers of RegisterReadsAnswer: a word and a 64-bit register of a core, served and awake; the pages of a function present, and of one under reset. -/
theorem witness_RegisterReadsAnswer :
    blockOf 0xFF04000030 = some (.mc 0, 0x30) ∧ wide (.mc 0) 0x30 = true ∧ up.blockServed (.mc 0) = true ∧ up.blockFused (.mc 0) = false ∧
    blockDomain (.mc 0) = some 5 ∧ (up.domAt 5).st = .on ∧ regBase ≤ 0xFF04000030 ∧ 0xFF04000030 < regBase + 0x10000000 ∧
    ({ up with hi := { up.hi with slice := 4 } } : State).hi.slice = (0xFF04000030 - regBase) / 2 ^ 24 ∧
    up.dev.hiReady = true ∧ up.fnExists 8 = true ∧ up.fnResetting 8 = false ∧ resetting1.fnExists 1 = true ∧ resetting1.fnResetting 1 = true := by
  decide

/-- Targets of RegisterWritesAct: a register of the management block, whose domain never sleeps. -/
theorem witness_RegisterWritesAct :
    blockOf (regBase + 0x0A000000) = some (.mgt, 0) ∧ up.dev.hiReady = true ∧ up.blockServed .mgt = true ∧ up.blockFused .mgt = false ∧
    blockDomain .mgt = none ∧ up.hostReaches 8 = true ∧ (0#64).getLsbD 31 = false := by
  decide

/-- `up` with channel 0 changed. -/
def chan0 (f : Chan → Chan) : State := up.setChan 0 f

/-- A DRAM line on a READY channel of an awake domain, and on one in RETRAIN_HOLD. -/
theorem witness_DramRequestsServedOrHeld :
    up.regionOf 0x6000000000 ≠ .dram ∧ up.regionOf 0 = .dram ∧ up.channelOf 0 = 0 ∧ (up.chan 0).st = .ready ∧ (up.domAt 1).st = .on ∧ tget false up.mem.poison 0 = false ∧
    (chan0 (fun x => { x with st := .hold })).regionOf 0 = .dram ∧ ((chan0 (fun x => { x with st := .hold })).chan 0).st = .hold ∧
    ((chan0 (fun x => { x with st := .hold })).chan 0).waiting false < 64 ∧ ((chan0 (fun x => { x with st := .hold })).chan 0).waiting true < 64 ∧
    (List.replicate 64 (0 : Byte)).length = 64 ∧ WriteClass.ordinary ≠ .rackOut := by
  decide

/-- Channel states of ChannelUpkeepActs: a refresh that ends an interval of 128 and one that does not, write CRC on, one and two ranks, three and four replays. -/
theorem witness_ChannelUpkeepActs :
    (up.chan 0).st = .ready ∧ (up.chan 0).selfRefresh = false ∧ (up.chan 0).ranks = 1 ∧ (up.chan 0).queue = [] ∧ (up.chan 0).rackOut = 0 ∧
    (up.chan 0).refreshed.1 + 1 = 1 ∧ ((chan0 (fun x => { x with refreshed := (127, 0) })).chan 0).refreshed.1 + 1 = 128 ∧
    ((chan0 (fun x => { x with refreshed := (127, 0), writeStep := true })).chan 0).writeStep = true ∧
    ((chan0 (fun x => { x with writeCrc := true })).chan 0).writeCrc = true ∧ ((chan0 (fun x => { x with ranks := 2 })).chan 0).ranks = 2 ∧
    4 ≤ ((chan0 (fun x => { x with replays := 4 })).chan 0).replays ∧ ((chan0 (fun x => { x with replays := 3 })).chan 0).replays < 4 := by
  decide

/-- Channel states of RetrainScrubAndPatternsAct: RETRAIN_HOLD, a patrol over a READY and over a FAILED channel, training, a pattern that runs in either mode. -/
theorem witness_RetrainScrubAndPatternsAct :
    ((chan0 (fun x => { x with st := .hold })).chan 0).st = .hold ∧ up.ddr.scrubEnable = true ∧ 0 < up.dramBytes ∧ up.dev.stage = .ready ∧
    up.channelOf (up.ddr.patrol % up.dramBytes) = 0 ∧ (up.chan 0).st = .ready ∧ (up.domAt 1).st = .on ∧
    ((chan0 (fun x => { x with st := .failed })).chan 0).st = .failed ∧ ((chan0 (fun x => { x with st := .training })).chan 0).st = .training ∧
    (0x80000000#32).getLsbD 31 = true ∧ bitsOf (0x81000000#32).toNat 24 2 = 1 ∧
    ((chan0 (fun x => { x with patRun := true })).chan 0).patRun = true ∧ bitsOf (up.chan 0).patgen.toNat 24 2 = 0 ∧
    bitsOf ((chan0 (fun x => { x with patRun := true, patgen := 0x1000000 })).chan 0).patgen.toNat 24 2 = 1 := by
  decide

/-- Straps with SYS_RESET_N at a level. -/
def strapsOf (r : Bool) : Straps := { sbMode := false, sbAddr := 0, sysResetN := r, perstN := true, caskPresentN := true }

/-- `up` at a stage of the start. -/
def atStage (g : Stage) : State := { up with dev := { up.dev with stage := g, tasted := false, scrubbed := false } }

/-- The states of PowerCommandsRestartDevice: before power, powered, at BOOT with AON up, and with the MP running. -/
theorem witness_PowerCommandsRestartDevice :
    State.reset.dev.pwrgd = false ∧ (strapsOf true).sysResetN = true ∧ (strapsOf false).sysResetN = false ∧ up.dev.pwrgd = true ∧
    (atStage .boot).aonUp = true ∧ (atStage .boot).dev.stage = .boot ∧ up.aonUp = true ∧ up.mgt.mpState ≠ 0 ∧ up.dev.slowClockDead = false := by
  decide

/-- A device in training with one channel left to train. -/
def inTraining (f : Chan → Chan) : State := { (chan0 f) with dev := { up.dev with stage := .training } }

/-- The states of TrainingSetsChannelsAndInterleave: the last channel trains by hardware, waits for the fallback before and after its retry, and all have trained. -/
theorem witness_TrainingSetsChannelsAndInterleave :
    ((inTraining (fun x => { x with st := .training })).chan 0).st = .training ∧ ((inTraining (fun x => { x with st := .training })).chan 0).needsFallback = false ∧
    (∀ d : Fin 12, d ≠ 0 → ((inTraining (fun x => { x with st := .training })).chan d).st ≠ .training) ∧
    ((inTraining (fun x => { x with st := .training })).domAt 1).st = .on ∧ (0xFFF#12).getLsbD 0 = true ∧ (0#12).getLsbD 0 = false ∧
    ((inTraining (fun x => { x with st := .training, needsFallback := true })).chan 0).needsFallback = true ∧
    ((inTraining (fun x => { x with st := .training, needsFallback := true })).chan 0).retried = false ∧
    ((inTraining (fun x => { x with st := .training, needsFallback := true, retried := true })).chan 0).retried = true ∧
    (inTraining id).dev.stage = .training ∧ (∀ c : Fin 12, ((inTraining id).chan c).st ≠ .training) := by
  decide

/-- The states of TastingAndScrubEndStart: a tasting that fails nothing and one that fails a unit the device cannot run without. -/
theorem witness_TastingAndScrubEndStart :
    (atStage .tasting).dev.stage = .tasting ∧ (atStage .tasting).dev.tasted = false ∧ (atStage .tasting).dev.scrubbed = false ∧
    ((atStage .tasting).taste []).dev.defects.any (fun d => d.1 == 10 || d.1 == 11) = false ∧
    ((atStage .tasting).taste [{ kind := 10, unit := 0, sub := 0, test := 4, detail := 0, failedAgain := true, repaired := false }]).dev.defects.any
      (fun d => d.1 == 10 || d.1 == 11) = true ∧
    (atStage .tasting).dev.reset = none ∧ 0 < (atStage .tasting).dramBytes ∧ (atStage .tasting).failedAt 0 = false := by
  decide

/-- `up` with receiver 0 held in reset while an image of so many bytes and some hash is delivered. -/
def receiving (len : Nat) (sha : List Byte) : State := up.setReceiver 0 (fun _ => { inReset := true, comp := 2, length := len, sha })

set_option maxRecDepth 100000 in
/-- The states of FirmwareReachesReceivers: a delivery, a chunk that is missing, the rounds before and after the third, an image with and without the header's hash, a slot on trial, an MP that runs. -/
theorem witness_FirmwareReachesReceivers :
    (up.mgt.mpState = 1 ∧ up.wantedReceiver 58 = true ∧ up.dev.stage = .ready) ∧
    (((receiving 4096 []).receiver 0).inReset = true ∧ 0 < ((receiving 4096 []).receiver 0).count ∧ (List.replicate 4096 (0 : Byte)).length = 4096 ∧
      ((receiving 4096 []).receiver 0).chunks.any (fun e => e.1 == 0) = false ∧ 3 ≠ ((receiving 4096 []).receiver 0).comp) ∧
    (((receiving 4096 []).mgt.receivers.filter (fun e => e.2.inReset && decide (0 < e.2.length) && !e.2.full)).map (·.1) = [0] ∧
      (receiving 4096 []).mgt.rounds < 3 ∧ 3 ≤ ({ (receiving 4096 []) with mgt := { (receiving 4096 []).mgt with rounds := 3 } } : State).mgt.rounds) ∧
    (((receiving 0 [1]).receiver 0).full = true ∧ ((receiving 0 [1]).receiver 0).comp ≠ 0) ∧
    (({ (atStage .tasting) with mgt := { up.mgt with booted := some 0, slotA := { up.mgt.slotA with st := .pending } } } : State).slotAt 0).st = .pending ∧
    (up.aonUp = true ∧ up.dev.slowClockDead = false ∧ up.dev.thermtrip = false) := by
  decide

set_option maxRecDepth 100000 in
/-- The hash of no bytes is 32 bytes long, so an image of no bytes has the header's hash or has not. -/
theorem witness_FirmwareReachesReceivers_hash : (sha256 []).length = 32 := by
  decide

/-- `up` with a compute reset in progress. -/
def resetting (r : ResetRun) : State := { up with dev := { up.dev with stage := .resetting, reset := some r } }

/-- A compute reset that waits for nothing any more. -/
def resetRun : ResetRun :=
  { cause := .mailbox, full := false, link := false, mp := false, awaitCp := false, owedReads := [], restarted := false }

/-- The states of HostResetsAct. -/
theorem witness_HostResetsAct :
    up.aonUp = true ∧ up.hostResetHeld = false ∧ (atStage .shutdown).dev.stage = .shutdown ∧ up.dev.hiReady = true ∧ up.hostReaches 8 = true ∧
    up.dev.reset = none ∧ (up.partAt 1).st = .running ∧ ((up.resetVf 1 false).partAt 1).st = .resetting ∧
    ((((up.resetVf 1 false).scrubBins 1).returnCores 1).partAt 1).thenFree = false ∧
    ((((up.setPart 1 (fun q => { q with st := .draining })).resetVf 1 false).partAt 1).thenFree) = true ∧
    (resetting { resetRun with awaitCp := true }).dev.reset = some { resetRun with awaitCp := true } ∧
    (resetting { resetRun with owedReads := [1] }).dev.reset = some { resetRun with owedReads := [1] } ∧
    (resetting { resetRun with mp := true }).dev.reset = some { resetRun with mp := true } ∧ resetRun.restarted = false := by
  decide

/-- The states of ComputeResetBegins: READY, already resetting, before READY. -/
theorem witness_ComputeResetBegins :
    up.dev.reset = none ∧ up.dev.stage = .ready ∧ (resetting resetRun).dev.reset = some resetRun ∧ (atStage .tasting).dev.reset = none ∧
    (atStage .tasting).dev.stage = .tasting := by
  decide

/-- The states of CaskAndTraceCommandsAct: no Cask and one, a free resource, one that is held and one that the trace port holds. -/
theorem witness_CaskAndTraceCommandsAct :
    up.aonUp = true ∧ up.cask.present = false ∧ up.mgt.mpState = 1 ∧ (withCask 1 []).cask.present = true ∧ (withCask 1 []).aonUp = true ∧
    tget 0 up.mgt.claims 1 = 0 ∧ tget 0 up.mgt.claims 3 = 0 ∧
    tget 0 ({ up.mgt with claims := [(3, 4)] } : Mgt).claims 3 = 4 ∧ tget 0 ({ up.mgt with claims := [(1, 2)] } : Mgt).claims 1 ≠ 0 := by
  decide

/-- The states of LinkLogHeartbeatAndAddressAct: a link that changes, an idle link with each ASPM enable, entries to flush, the ninth and tenth missed heartbeat, I3C with and without an address. -/
theorem witness_LinkLogHeartbeatAndAddressAct :
    up.aonUp = true ∧ up.dev.slowClockDead = false ∧ up.mgt.mpState ≠ 0 ∧ up.dev.straps.perstN = true ∧ up.hi.width ≠ 1 ∧
    ({ up.hi with linkUp := true, aspm := 15 } : Hi).aspm.getLsbD 0 = true ∧ ({ up.hi with linkUp := true, aspm := 15 } : Hi).aspm.getLsbD 3 = true ∧
    up.idle = true ∧ up.hi.pmState = 0 ∧ ((up.log logPowerOn 0 0 0 0).mgt.logBuf.length = 1) ∧ (up.log logPowerOn 0 0 0 0).mgt.logLost = 0 ∧
    up.dev.stage = .ready ∧ up.mgt.mpState = 1 ∧ up.dev.cpMisses = 0 ∧ ({ up.dev with cpMisses := 9 } : Dev).cpMisses = 9 ∧
    ({ up.dev with celMisses := 9 } : Dev).celMisses = 9 ∧ ({ strapsOf true with sbMode := true } : Straps).sbMode = true ∧ up.mgt.dynAddr = none := by
  decide

/-- Twenty valid readings of one temperature, in 1/4 °C. -/
def readings (t : Int) : List SensorReading := List.replicate 20 { valid := true, temp := t }

/-- `up` with a temperature. -/
def atTj (t : Int) (l : List Nat) (cool : Nat) : State := { up with pwr := { up.pwr with tj := t, released := l, coolSamples := cool } }

/-- The states of SensorsHeatAndEnergyAct: the first and the second sample at T_SHUTDOWN, the release threshold, a released core before and after its rest. -/
theorem witness_SensorsHeatAndEnergyAct :
    up.aonUp = true ∧ up.dev.thermtrip = false ∧ (up.sampled (readings 432)).pwr.hotSamples = 1 ∧
    ((up.sampled (readings 432)).sampled (readings 432)).pwr.hotSamples = 2 ∧ (up.sampled (readings 431)).pwr.hotSamples = 0 ∧
    (readings 432).length = 20 ∧ up.threshold 1 ≤ (atTj 380 [] 0).pwr.tj ∧ (atTj 380 [] 0).hottest = some 0 ∧ (atTj 380 [] 0).dev.stage = .ready ∧
    (atTj 0 [7] 100).pwr.released = [7] ∧ 100 ≤ (atTj 0 [7] 100).pwr.coolSamples ∧ (atTj 0 [7] 99).pwr.coolSamples < 100 ∧
    up.dev.pwrgd = true ∧ up.dev.slowClockDead = false ∧ up.pwr.halved = false ∧ ((up.sampled (readings 400)).pwr.halved = true) := by
  decide

/-- `up` with a domain's state. -/
def domUp (d : Nat) (m : Dom) : State := up.setDom d (fun _ => m)

/-- `up` with only the first domains awake: FB, or FB and MEMG0 to MEMG2. -/
def onlyMem (mem : Bool) : State :=
  { up with pwr := { up.pwr with dom := (List.range 30).map (fun d => (d, { st := if d = 0 ∨ (d ≤ 3 ∧ mem = true) then .on else .sleep })) } }

/-- The states of DomainsAndClocksAct: domains that may sleep alone and together, entries and wakes under way, the last MS domain in each case, clock generators that start, feed and stand idle. -/
theorem witness_DomainsAndClocksAct :
    (up.domIdle 29 = true ∧ up.maySleep 29 = true) ∧ ((onlyMem false).domIdle 0 = true ∧ (onlyMem false).maySleep 0 = true) ∧
    ((onlyMem true).domIdle 1 = true ∧ (onlyMem true).maySleep 1 = true ∧ (onlyMem true).maySleep 2 = true ∧ (onlyMem true).maySleep 3 = true) ∧
    ((domUp 20 { st := .on, move := .entering }).domAt 20).move = .entering ∧ (up.coreAt 7).owner = 0 ∧ up.storeUsed 7 = false ∧
    ((up.setCore 7 (fun c => { c with owner := 1 })).coreAt 7).owner ≠ 0 ∧ ((domUp 4 { move := .waking }).domAt 4).move = .waking ∧
    ({ up.pwr with pllStarting := 32 } : Pwr).pllStarting.getLsbD 5 = true ∧ up.pllNeeded 0 = true ∧ (onlyMem false).pllNeeded 1 = false := by
  decide

/-- A mailbox request. -/
def viaMailbox : MgmtReq := { path := .mailbox, data := [] }

/-- Every operation is taken at once from an idle mailbox of a device at READY. -/
theorem witness_ManagementOperationsRun :
    ∀ op : Fin 11, up.mpTakes op viaMailbox (up.tookIn viaMailbox (up.asked viaMailbox op)) (up.asked viaMailbox op) := by
  intro op
  unfold State.mpTakes State.accepts
  refine ⟨⟨by decide, by decide, by decide⟩, rfl, rfl, by decide, by decide, by decide, ?_, ?_⟩
  all_goals (revert op; decide)

/-- `up` with one mailbox byte written, its packet byte given. -/
def mailed (ofs v : Nat) : State :=
  { up with mgt := { up.mgt with mbx := { up.mgt.mbx with data := (List.range 64).map (fun i => if i + 16 = ofs then BitVec.ofNat 8 v else 0) } } }

/-- Each action of DOMAIN_POWER, UPDATE and CASK is spelt by its byte; a STAGE has a source and lacks one; the packet path asks for an operation. -/
theorem witness_ManagementOperationsRun_actions :
    ((mailed 17 2).asked viaMailbox 5).f 17 1 = 2 ∧ (up.asked viaMailbox 5).f 17 1 = 0 ∧
    (∀ k : Fin 6, ((mailed 16 k).asked viaMailbox 8).f 16 1 = k.val) ∧
    up.stageSource (up.asked viaMailbox 8) = .ok [] ∧ (mailed 17 1).stageSource ((mailed 17 1).asked viaMailbox 8) = .error { status := stCaskAbsent } ∧
    (withCask 1 []).caskHeld = none ∧ (withCask 1 []).cask.identityValid = true ∧ (withCask 1 []).cask.lifeState ≠ 2 ∧
    up.caskChecks true true = some { status := stCaskAbsent } ∧
    maySend 0x0900 0 = false ∧ up.fetchable (mkPk 0 0 1 0x0900 []) = true := by
  repeat' apply And.intro
  all_goals first | decide | rfl

/-- An operation with a body of two fields. -/
def opOf (op : Nat) (fs : List (Nat × Nat × Nat)) (data : List Byte) : MgmtOp :=
  { op, body := (mkPk 0 0 2 0 fs).bytes.drop 16, data, path := 0, id := 0, steps := 1 }

/-- An LMS public key of an accepted type. -/
def aKey : List Byte := [0, 0, 0, 6, 0, 0, 0, 3] ++ List.replicate 48 1

/-- `up` with a firmware slot A in a state. -/
def withSlot (st : SlotState) (booted : Option Nat) : State :=
  { up with mgt := { up.mgt with slotA := { up.mgt.slotA with st, svn := 64 }, booted } }

/-- `up` with counters of the signer. -/
def signer (leaf second : Nat) : State := { up with mgt := { up.mgt with leafNext := leaf, leafReserved := leaf, signedThisSecond := second } }

/-- The operands and states of ManagementOperationsAct, at the ends of their ranges. -/
theorem witness_ManagementOperationsAct :
    ((opOf 6 [(17, 1, 1)] []).f 17 1 ≤ 1 ∧ (opOf 6 [(18, 1, 1)] []).f 18 1 = 1 ∧ up.dev.reset = none) ∧
    ((opOf 3 [(16, 1, 8)] []).f 16 1 = 8 ∧ (up.partAt 8).st = .free ∧ (up.partAt 1).st ≠ .free ∧ 8 < (opOf 3 [(16, 1, 9)] []).f 16 1) ∧
    ((atTj 340 [] 0).pwr.tj = 340 ∧ ({ atTj 340 [] 0 with dev := { up.dev with stage := .shutdown } } : State).resetRefused = true) ∧
    ((withSlot .active (some 0)).slotIn .active = some 0 ∧ (withSlot .active none).mgt.booted ≠ some 0) ∧
    ((opOf 8 [(20, 4, 4096)] []).f 20 4 = 4096 ∧ (opOf 8 [(20, 4, 4096)] []).path ≠ 1) ∧
    ((opOf 8 [(32, 1, 7)] aKey).f 32 1 = 7 ∧ up.packKey 7 = [] ∧ (lmsSigLen (beNat (sliceB (padTo 56 (opOf 8 [(32, 1, 7)] aKey).data) 0 4))).isSome = true ∧
      beNat (sliceB (padTo 56 (opOf 8 [(32, 1, 7)] aKey).data) 4 4) = 3 ∧
      ({ up with mgt := { up.mgt with keys := [(7, aKey)] } } : State).packKey 7 ≠ []) ∧
    ((withSlot .staged none).slotIn .staged = some 0 ∧ up.slotIn .staged = none ∧ (opOf 8 [(16, 1, 1)] []).f 33 1 = 0) ∧
    (up.stageSource (opOf 8 [] []) = .ok []) ∧
    ((signer 0 100).mgt.signedThisSecond = 100 ∧ (signer (2 ^ 40) 99).mgt.leafNext = 2 ^ 40 ∧ (signer (2 ^ 40 - 1) 99).mgt.leafNext < 2 ^ 40 ∧ (opOf 9 [] []).f 20 4 = 0) ∧
    ((withCask 1 []).cask.present = true ∧ (withCask 1 []).caskHeld = none ∧ (withCask 1 []).cask.identityValid = true ∧ (withCask 1 []).cask.lifeState ≠ 2 ∧
      (withCask 1 []).cask.media = some (mediumOf 1 []) ∧ (opOf 10 [(18, 2, 8191)] []).f 18 2 = 8191) ∧
    ((withCask 1 []).caskChecks true false = none ∧ ((mediumOf 1 []).pairing.filter (·.valid)).length < 4) := by
  repeat' apply And.intro
  all_goals first | decide | rfl

/-- The states of SidebandCommandsAndMpTurnsAct: 32 bytes, a SMBus strap, an operation in front, and none. -/
theorem witness_SidebandCommandsAndMpTurnsAct :
    up.aonUp = true ∧ (List.replicate 32 (0 : Byte)).length = 32 ∧ (1 : Byte) ≠ 0 ∧ up.dev.straps.sbMode = false ∧
    ({ up with mgt := { up.mgt with ops := [opOf 1 [] []] } } : State).mgt.ops = [opOf 1 [] []] ∧ up.mgt.mpState = 1 ∧ up.mgt.ops = [] ∧
    ((opOf 8 [] []).op = 8 ∧ (opOf 8 [] []).f 16 1 = 0 ∧ (opOf 8 [] []).steps = 1 ∧ (opOf 8 [] []).path = 0 ∧ up.opServed (opOf 8 [] []) = true ∧
      (opOf 8 [] []).reserved = none) := by
  decide

/-- A folio image of one quire of one instruction and one tensor of 64 channels, with the quire's flags and the stages of chain 0. -/
def quireImgOf (select flags w : Nat) : List Byte :=
  blob 256 [(0, 4, select), (64, 2, flags), (0x14, 2, 1), (0x16, 2, 1), (0x20, 4, 128), (0x24, 4, 64), (66, 2, 1), (68, 4, 192), (73, 1, 0xFF), (130, 1, 7), (132, 4, 1), (136, 4, 64),
    (140, 4, 32), (144, 4, 32), (192, 8, w)]

/-- The same with a plain quire and chain. -/
def quireImg (w : Nat) : List Byte := quireImgOf 0 0 w

/-- A run of partition 1 at a priority. -/
def runOf (prio : Nat) : Run :=
  { part := 1, folio := 0, prio, purpose := 0, instances := [], quires := [], abandons := [], avoid := [], returned := [], status := 0 }

/-- `up` with a run of the one-quire folio, and cores 0 and 1 held by partition 1. -/
def withRun (w : Nat) : State :=
  { up with cel := { up.cel with folios := [{ part := 1, handle := 0, image := quireImg w }], runs := [(0, runOf 3)] },
            core := up.core.map (fun e => if e.1 < 2 then (e.1, { e.2 with owner := 1, user := 1 }) else e) }

/-- `withRun` with the quire active on core 0. -/
def running (w : Nat) : State := (withRun w).setCore 0 (fun c => { c with active := some { run := 0, quire := 0 } })

/-- A completion record of the quire with an outcome. -/
def completedWith (outcome : Nat) : Completed :=
  { run := 0, quire := 0, outcome, long := false, cycles := 1, slotPasses := 0, skipped := 0, satPro := 0, satEpi := 0, mark := 0, clamps := [], arrayCycles := 0 }

/-- The states of QuiresArePlacedIssuedAndCompleted, the quire taking every step from ready to acted on. -/
theorem witness_QuiresArePlacedIssuedAndCompleted :
    ((withRun 0).runAt 0 = some (runOf 3) ∧ (withRun 0).ready 0 0 = true ∧ (withRun 0).bindsLost 0 0 8 = false ∧
      (withRun 0).choosePlace 1 0 0 = some 0 ∧ (withRun 0).cel.runs.all (fun e => e.2.returned == []) = true ∧ (granted (withRun 0)).ready 0 0 = true ∧
      (granted (withRun 0)).bindsLost 0 0 8 = false ∧ (granted (withRun 0)).choosePlace 1 0 0 = some 0 ∧ (granted (withRun 0)).mayTake 0 1 3 = true) ∧
    ((withRun 0).unitFree (.core 0) = true ∧ ((withRun 0).poolWork (.core 0)).isEmpty = false ∧ ((withRun 0).drrTurn (.core 0)).2 = some (1, 3)) ∧
    ((((withRun 0).setDom 5 (fun m => { m with st := .sleep })).domAt 5).st ≠ .on ∧ (withRun 0).domAt 5 = { st := .on }) ∧
    ((((withRun 0).setCore 0 (fun c => { c with queue := [(0, 0)] })).coreAt 0).queue = [(0, 0)] ∧ ((withRun 0).coreAt 0).preempt = none ∧
      (withRun 0).bindsLost 0 0 0 = false ∧ (((withRun 0).setCore 0 (fun c => { c with queue := [(0, 0)] })).homeBindings 0 0 0 ((withRun 0).pointExp (runOf 3))).mayIssue 0 0 0 = true) ∧
    (((running 0).coreAt 0).active = some { run := 0, quire := 0 } ∧ ((running 0).coreAt 0).writes = [] ∧ ((running 0).coreAt 0).done = none) ∧
    ((((withRun 0).setCore 0 (fun c => { c with done := some (completedWith 0) })).coreAt 0).done = some (completedWith 0)) ∧
    ([0, 2, 3, 4, 5].all (fun k => (completedWith k).outcome == k) = true) := by
  decide

/-- `withRun` with both held cores busy, and core 0 with a lower run of the same partition. -/
def crowded (long : Bool) : State :=
  { (withRun 0) with
    cel := { (withRun 0).cel with runs := [(0, runOf 3), (1, { runOf 1 with quires := [(0, .issued 0)] })], part := [(1, { part1 with coresMax := 2 })] }
    core := (withRun 0).core.map (fun e => (e.1, { e.2 with active := some { run := 1, quire := 0, long }, out := decide (2 ≤ e.1) })) }

/-- A tensor of the run in the cellar store, with a move under way or none. -/
def tensorOf (move : Option (HomeKind × Nat)) : Tensor :=
  { part := 1, folio := 0, run := 1, tid := 0, inst := 0, bytes := 32, ps := 32, planeBytes := 32, home := .cellar, addr := cellarBase, move, charge := 0, e := 0,
    lost := false, used := 0 }

/-- `withRun` with that tensor under number 0. -/
def withTensor (move : Option (HomeKind × Nat)) : State := { (withRun 0) with cel := { (withRun 0).cel with tensors := [(0, tensorOf move)] } }

/-- `withTensor` with a constant in the cellar store, and a move that waits for tokens. -/
def withConst (owed : Tbl Nat) (move : Option (HomeKind × Nat)) : State :=
  { (withRun 0) with cel := { (withRun 0).cel with
    folios := [{ part := 1, handle := 0, image := (quireImg 0).take 168 ++ [64] ++ (quireImg 0).drop 169 }]
    tensors := [(0, { tensorOf move with run := 0, owed })] } }

/-- `crowded` with core 0 lent to partition 2 and idle, core 1 running at the same priority. -/
def lent : State :=
  { ((crowded true).setCore 0 (fun c => { c with user := 2, active := none })).setCore 1 (fun c => { c with active := some { run := 2, quire := 0 } }) with
    cel := { (crowded true).cel with
      runs := (crowded true).cel.runs ++ [(2, { runOf 3 with quires := [(0, .issued 1)] })], part := [(1, { part1 with coresMax := 2 }), (2, part1)] } }

/-- The tests a pre-emption request of quire 0 of run 0 is put to, and the core it chooses. -/
def preemptTest (s : State) : Bool × Option Nat :=
  (s.mayPreempt (runOf 3) 0 0, leastBy (s.victimCost 1 0 0) ((s.victims 1 3).filter (fun n => (s.coreAt n).user == 1 ||
    decide ((s.coresHeld 1).length < (s.partAt 1).coresMax))))

/-- `crowded` with the quires' END words run. -/
def crowdedEnded : State := { (crowded true) with core := (crowded true).core.map (fun e => (e.1, { e.2 with active := e.2.active.map (fun a => { a with ended := true }) })) }

/-- A core being handed over in a phase, to a partition or to none. -/
def handing (part phase : Nat) (transfer : Bool) : State :=
  (withRun 0).setCore 0 (fun c => { c with preempt := some { part, run := 0, quire := 0, phase, transfer, abandoned := false, victim := 1 } })

set_option maxRecDepth 8000 in
/-- The states of PreemptionAndRackingAct: a crowded partition whose victim is short, long and complete, long, or idle; cores in both phases of a hand-over; a tensor that may move, one that may be copied and one that moves, with tokens owed and not; buckets of both kinds. -/
theorem witness_PreemptionAndRackingAct :
    ((crowded true).runAt 0 = some (runOf 3) ∧ [crowded true, crowded false, crowdedEnded, lent].all (fun s => decide (preemptTest s = (true, some 0))) = true ∧
      ((lent.markPreempt 1 0 0 0).coreAt 0).active = none ∧
      (((crowded false).markPreempt 1 0 0 0).coreAt 0).active = some { run := 1, quire := 0, long := false } ∧
      ((crowdedEnded.markPreempt 1 0 0 0).coreAt 0).active = some { run := 1, quire := 0, long := true, ended := true } ∧
      ((crowdedEnded.markPreempt 1 0 0 0).coreAt 0).writes = [] ∧
      (((crowded true).markPreempt 1 0 0 0).coreAt 0).active = some { run := 1, quire := 0, long := true } ∧
      (((crowded true).markPreempt 1 0 0 0).coreAt 0).done = none ∧
      (((crowded true).markPreempt 1 0 0 0).runAt 1).any (fun y => decide (tget 0 y.abandons 0 < 2)) = true) ∧
    ((((handing 0 3 false).coreAt 0).preempt.map (·.phase)) = some 3 ∧ (((handing 1 3 true).coreAt 0).preempt.map (·.transfer)) = some true ∧
      (((handing 1 4 true).coreAt 0).preempt.map (·.phase)) = some 4) ∧
    ((withTensor none).tensorAt 0 = some (tensorOf none) ∧ (withTensor none).moveAllowed (tensorOf none) .dram = true ∧
      (withTensor none).copies (tensorOf none) = false ∧ (withTensor none).boundHere (tensorOf none) 0 = false ∧
      (((withTensor none).moveRoom (tensorOf none) .dram 0).2).isSome = true ∧ (tensorOf none).home ≠ .dram ∧ (tensorOf none).lost = false) ∧
    ((withConst [] none).tensorAt 0 = some { tensorOf none with run := 0 } ∧ (withConst [] none).moveAllowed { tensorOf none with run := 0 } (.core 0) = true ∧
      (withConst [] none).copies { tensorOf none with run := 0 } = true ∧
      (((withConst [] none).moveRoom { tensorOf none with run := 0 } (.core 0) 0).2).isSome = true) ∧
    ((withTensor (some (.dram, 0))).tensorAt 0 = some (tensorOf (some (.dram, 0))) ∧ (tensorOf (some (.dram, 0))).owed = [] ∧
      ((withConst [(32, 1)] (some (.core 0, coreBase 0))).tensorAt 0).any (fun t => decide (t.owed ≠ [])) = true) ∧
    ((up.partAt 1).st ≠ .free ∧ up.trainedIn 0 = 4 ∧ up.ddr.inService.length = 12) := by
  decide

/-- Each set-up word is the next of a running quire, with every operand at its largest value. -/
theorem witness_TileSetupInstructionsAct :
    ([wNop, wEnd, wFence, wMark (2 ^ 32 - 1), wGeom 15 4095 true, wWload 255 3 7 true 16777215, wSlot 3 255 3 63 255 (2 ^ 32 - 1)].all (fun w =>
      ((running w).atInst 0 w).isSome)) = true ∧
    ((running wEnd).atInst 0 wNop = none) ∧
    ((((running wFence).setCore 0 (fun c => { c with writes := [{ segs := [], zero := [] }] })).coreAt 0).writes ≠ []) ∧
    ((running 0).blocked 0 [(coreBase 0, 32768)] = false ∧
      ((running 0).setCore 0 (fun c => { c with writes := [{ segs := [(coreBase 0, [1])], zero := [] }] })).blocked 0 [(coreBase 0, 32768)] = true) ∧
    ((running 0).setActive 0 (fun a => { a with shadow := [{ binding := 255, plane := 3, diag := 7, s2 := true, offset := 16777215, loaded := false }] })).core ≠ (running 0).core := by
  decide

/-- A binding of tensor 0 in the core store. -/
def bound : Binding := { valid := true, decoded := false, tensor := 0, extent := 32, stride := 32, base := coreBase 0, dst := 0, e := 0, num := 0, zmap := 0 }

/-- A weight tile, loaded into the shadow registers or not, clean or poisoned. -/
def tileOf (loaded poisoned : Bool) : WTile := { binding := 1, plane := 0, diag := 0, s2 := false, offset := 0, loaded, poisoned }

/-- A core whose quire, of some flags and chain stages and one instruction, has a weight tile active, another in the shadow registers, and slot 0 set up on a bound tensor. -/
def passing (select flags w : Nat) (t : WTile) : State :=
  ({ (withRun 0) with cel := { (withRun 0).cel with folios := [{ part := 1, handle := 0, image := quireImgOf select flags w }] } } : State).setCore 0 (fun c => { c with
    active := some { run := 0, quire := 0, bindings := [bound], src := [(0, some { binding := 0, plane := 0, p := 1, chain := 0xFF, p0 := 0 })],
                     weight := some t, shadow := [t] } })

/-- With a line of core 0's store poisoned. -/
def spoiled (s : State) : State := { s with mem := { s.mem with poison := [(coreBase 0 / 64, true)] } }

/-- With a write to core 0's store outstanding. -/
def writing (s : State) : State := s.setCore 0 (fun c => { c with writes := [{ segs := [(coreBase 0, [1])], zero := [] }] })

/-- The tests a PASS is put to: whether it waits, and whether a line it reads or its tile is poisoned. -/
def passTest (s : State) (neww : Bool) (blk : Fin 512) : Option (Bool × Bool) :=
  (s.atInst 0 (wPass 1 neww true true blk)).bind (fun e => (e.1.shadow.head?).map (fun t =>
    let slots := maskSlots e.1 1
    let run := slots.filter (fun x => !s.slotSkips e.2.1 e.2.2 e.1 x.1 x.2 blk)
    let v := s.beginPass 0 neww true true slots
    (s.passWaits 0 e.2.1 e.2.2 e.1 neww blk slots run, v.anyPoison (v.readsNow e.2.1 e.2.2 e.1 slots run blk) || (!run.isEmpty && t.poisoned))))

/-- The tests a FLUSH through chain 0 is put to: whether it waits for a write, and whether a line it reads is poisoned. -/
def flushTest (s : State) (w : Nat) : Option (Bool × Bool) :=
  (s.atInst 0 w).map (fun e =>
    let r := s.flushRanges e.2.1 e.2.2 e.1 (chainD e.2.1 e.2.2.chainBase) 0 0 (maskSlots e.1 1)
    (s.blocked 0 r.1, s.anyPoison r.2))

set_option maxRecDepth 8000 in
/-- A pass runs against the active and against the new tile, waits for the shadow tile and for a write, reads a poisoned line, and has a poisoned tile. -/
theorem witness_PassesFlushesAndWritesAct :
    passTest (passing 0 0 (wPass 1 false true true 0) (tileOf true false)) false 0 = some (false, false) ∧
    passTest (passing 0 0 (wPass 1 true true true 0) (tileOf true false)) true 0 = some (false, false) ∧
    passTest (passing 0 0 (wPass 1 true true true 0) (tileOf false false)) true 0 = some (true, false) ∧
    passTest (writing (passing 0 0 (wPass 1 false true true 0) (tileOf true false))) false 0 = some (true, false) ∧
    passTest (spoiled (passing 0 0 (wPass 1 false true true 0) (tileOf true false))) false 0 = some (false, true) ∧
    passTest (passing 0 0 (wPass 1 false true true 0) (tileOf true true)) false 0 = some (false, true) := by
  decide

/-- A fault of array 0 in the operand that leaves column 254 for row 255. -/
def operandFault : CellFault := { slot := 0, operand := true, pos := 0, index := 255, error := 1 }

/-- The row check of a slot's first position fails where the sum of its operands and its check operand, with their faults, differ modulo 15. -/
theorem checkSlot_row (t : WTile) (slot : Nat) (x : List Int) (xs : List (List Int)) (faults : List CellFault)
    (h : (((x.take 255).zipIdx.map (fun y => y.1 + faultSum faults slot true 0 y.2)).sum - ((x.take 255).sum % 15 + faultSum faults slot true 0 255)) % 15 ≠ 0) :
    checkSlot t slot (x :: xs) faults ≠ [] := by
  simp only [checkSlot, List.zipIdx_cons, List.flatMap_cons, ne_eq, List.append_eq_nil_iff]
  rintro ⟨⟨-, h1⟩, -⟩
  rw [if_pos h] at h1
  cases h1

/-- The pass in checksum mode that meets the fault. -/
def checking : State := passing 0 1 (wPass 1 false true true 1) (tileOf true false)

set_option maxRecDepth 8000 in
/-- A pass in checksum mode that meets a fault waits for nothing, reads no poisoned line, and finds a mismatch. -/
theorem witness_PassesFlushesAndWritesAct_checksum :
    passTest checking false 1 = some (false, false) ∧ (∀ (v : State) l r, (v.recordCheck 0 l).anyPoison r = v.anyPoison r) ∧
    ∃ a img h run, checking.atInst 0 (wPass 1 false true true 1) = some (a, img, h) ∧
      run = (maskSlots a 1).filter (fun e => !checking.slotSkips img h a e.1 e.2 1) ∧
      (checking.beginPass 0 false true true (maskSlots a 1)).passChecks 0 img h a (tileOf true false) 1 run [operandFault] ≠ [] := by
  refine ⟨by decide, fun _ _ _ => rfl, ?_⟩
  have k : (checking.atInst 0 (wPass 1 false true true 1)).any (fun e => e.2.2.checksum &&
      ((maskSlots e.1 1).filter (fun x => !checking.slotSkips e.2.1 e.2.2 e.1 x.1 x.2 1)).any (fun x => decide (x.1 = 0) &&
        match (checking.beginPass 0 false true true (maskSlots e.1 1)).tileOperands e.2.1 e.2.2 e.1 x.1 x.2 1 with
        | [] => false
        | y :: _ => decide ((((y.take 255).zipIdx.map (fun z => z.1 + faultSum [operandFault] 0 true 0 z.2)).sum -
            ((y.take 255).sum % 15 + faultSum [operandFault] 0 true 0 255)) % 15 ≠ 0))) = true := by decide
  rw [Option.any_eq_true] at k
  obtain ⟨⟨a, img, h⟩, e1, e2⟩ := k
  refine ⟨a, img, h, _, e1, rfl, ?_⟩
  simp only [Bool.and_eq_true, List.any_eq_true] at e2
  obtain ⟨hc, x, hx, h0, hr⟩ := e2
  obtain ⟨i, src⟩ := x
  obtain rfl : i = 0 := by simpa using h0
  split at hr
  · cases hr
  · rename_i y ys hy
    simp only [State.passChecks, hc, Bool.not_true, Bool.false_eq_true, if_false]
    intro hn
    rw [List.flatMap_eq_nil_iff] at hn
    have := hn (0, src) (List.mem_filter.2 ⟨hx, rfl⟩)
    rw [hy, List.map_eq_nil_iff] at this
    exact checkSlot_row _ 0 y ys [operandFault] (of_decide_eq_true hr) this

set_option maxRecDepth 8000 in
/-- A flush without CONVERT, and one through a chain that writes and reads side vectors: clean, behind a write, and with a poisoned entry; a write that waits to land. -/
theorem witness_PassesFlushesAndWritesAct_flush :
    ((passing 0 0 (wFlush 15 true 7 false 255 255 255 true) (tileOf true false)).atInst 0 (wFlush 15 true 7 false 255 255 255 true)).isSome = true ∧
    flushTest (passing 24576 0 (wFlush 1 true 7 true 0 0 0 true) (tileOf true false)) (wFlush 1 true 7 true 0 0 0 true) = some (false, false) ∧
    flushTest (writing (passing 24576 0 (wFlush 1 true 7 true 0 0 0 true) (tileOf true false))) (wFlush 1 true 7 true 0 0 0 true) = some (true, false) ∧
    flushTest (spoiled (passing 24576 0 (wFlush 1 true 7 true 0 0 0 true) (tileOf true false))) (wFlush 1 true 7 true 0 0 0 true) = some (false, true) ∧
    ((passing 0 0 0 (tileOf true false)).coreAt 0).done = none ∧ ((passing 0 0 0 (tileOf true false)).coreAt 0).active.isSome = true ∧
    ((writing (passing 0 0 0 (tileOf true false))).coreAt 0).writes.length = 1 := by
  decide

/-- The stores of AccumulationIsExact are canonical, and hold a bank sum or none. -/
theorem witness_AccumulationIsExact :
    twf {} (running 0).core = true ∧ twf 0 ((running 0).coreAt 0).banks = true ∧ twf 0 ((running 0).coreAt 0).acc = true ∧
    tget 0 (((running 0).setCore 0 (fun c => { c with banks := [(bankKey 0 1 63 255, 7)] })).coreAt 0).banks (bankKey 0 1 63 255) ≠ 0 ∧
    twf 0 (((running 0).setCore 0 (fun c => { c with banks := [(bankKey 0 1 63 255, 7)] })).coreAt 0).banks = true := by
  decide

/-- A lane instruction's operands at their largest values. -/
def laneTop : LaneArgs := { core := 0, vd := 31, va := 31, vb := 31, binding := 0, mod := 31, offset := 0 }

/-- Its word. -/
def laneWord (lop : Nat) : Nat := wLane lop 31 31 31 0 31 0

/-- Each lane instruction on lanes and mask is next where its word is, and the core's lanes are canonical. -/
theorem witness_LaneInstructionsWriteUnderMask :
    ([0x00, 0x01, 0x02, 0x03, 0x08, 0x09, 0x10, 0x11, 0x12, 0x13, 0x14, 0x15, 0x20, 0x3C, 0x18, 0x19, 0x1A, 0x1B, 0x21, 0x0A, 0x0B, 0x49].all (fun lop =>
      ((running (laneWord lop)).atLane lop laneTop).isSome)) = true ∧
    twf 0 ((running 0).coreAt 0).v = true := by
  decide

/-- So are SEL, the reductions, SORT32 and SETCNT, the mask all ones. -/
theorem witness_LaneReductionsAndSortsAct :
    ([0x0C, 0x28, 0x29, 0x2A, 0x30, 0x48].all (fun lop => ((running (laneWord lop)).atLane lop laneTop).isSome)) = true ∧
    ((running 0).coreAt 0).mask = BitVec.allOnes 64 ∧ ((running 0).coreAt 0).masked ≠ [] := by
  decide

/-- The lane instructions that reach the core store, with 64 elements counted and no write outstanding. -/
def storing (lop : Nat) : State := (running (laneWord lop)).setActive 0 (fun a => { a with cnt := 64, bindings := [bound] })

/-- The elements of the tensor that they take. -/
def elems : List (Nat × Nat × Nat) := laneElems (tdecl (quireImg 0) 0) 0 64

set_option maxRecDepth 4000 in
/-- The states of LaneStoreInstructionsAct: each word next, the line clean and poisoned, and something to write. -/
theorem witness_LaneStoreInstructionsAct :
    ([0x38, 0x39, 0x3A, 0x3B, 0x31, 0x40, 0x41, 0x42, 0x43].all (fun lop =>
      ((storing lop).atLane lop laneTop).any (fun r => decide (r.1.cnt = 64 ∧ r.1.bind 0 = bound)))) = true ∧
    ((storing 0).coreAt 0).done = none ∧ ((storing 0).coreAt 0).writes = [] ∧ ((storing 0).coreAt 0).masked ≠ [] ∧ elems = [(0, 0, 64)] ∧
    (storing 0).anyPoison [(laneBase bound laneTop, 256)] = false ∧ (storing 0).anyPoison (laneRanges bound (tdecl (quireImg 0) 0) elems) = false ∧
    ({ (storing 0) with mem := { (storing 0).mem with poison := [(laneBase bound laneTop / 64, true)] } } : State).anyPoison [(laneBase bound laneTop, 128)] = true ∧
    laneElement bound laneTop 15 ≠ none ∧ laneElement bound laneTop 16 = none ∧
    ((storing 0).convertElems (quireImg 0) bound (tdecl (quireImg 0) 0) elems).1 ≠ [] ∧
    (storing 0).splitElems ((storing 0).coreAt 0) (quireImg 0) bound (tdecl (quireImg 0) 0) 31 elems ≠ [] := by
  decide

/-- A folio image of no quire and one tensor, the network input, in a scale mode. -/
def inputImg (mode : Nat) : List Byte :=
  blob 256 [(0x14, 2, 1), (0x20, 4, 128), (128, 1, 3), (130, 1, 7), (132, 4, 64), (136, 4, 3), (140, 4, 64), (144, 4, 4096), (154, 1, mode)]

/-- A sequence parameter set of 64 × 64 pictures. -/
def seqSet0 : SeqSet :=
  { id := 0, profile := .main, extended := false, frameOnly := true, chroma := 1, depth := 8, width := 64, height := 64, numRefs := 0, unit := 16, matrix := none,
    fullRange := false }

/-- What the header processor reads of an I picture with its parameter sets. -/
def parsed0 : ParsedPicture :=
  { layer := 0, headers := [.seqSet seqSet0, .picSet 0 0], set := 0, start := .idr, rasl := false, poc := 0, laterFirst := 0, isRef := true, refs := [], keeps := [],
    segments := 1, auBytes := 100, feedIndex := 0 }

/-- A video device on a network input of a scale mode, its pipeline using folio 0 twice: stream 0 with 100 bytes fed and some pictures, each changed from the one parsed. -/
def withPics (mode : Nat) (pics : List (Pic → Pic)) : State :=
  { up with
    cel := { up.cel with folios := [{ part := 1, handle := 0, image := inputImg mode }] }
    media := { up.media with
      pipelines := [pkPipeline (mkPk 1 0 1 0x0206 [(20, 2, 64), (22, 2, 64), (24, 1, 64)]) 0]
      streams := [(0, { pkStream streamPk with
        feeds := [{ id := 0, buf := bufKey 1 0 0, len := 100, pts := 0, here := true, taken := false }]
        pics := pics.map (fun f => f ((pkStream streamPk).newPic parsed0 seqSet0)) })], nextStream := 1 } }

/-- A picture decoded. -/
def decodedPic (q : Pic) : Pic := { q with stage := .decoded, analysed := true }

/-- `withPics` with the parameter sets of `parsed0` taken and a report of an engine. -/
def withSets : State := (withPics 0 []).setStream 0 (fun x => parsed0.headers.foldl Stream.takeHeader x)

/-- A snapshot request of picture 0. -/
def snap0 : Snap :=
  { tag := 0, target := some 0, quality := 100, whole := true, box := [0, 0, 64, 64], kind := 0, track := 0, prio := 0, taken := true, order := 0, ready := none }

/-- A picture to dispatch that a snapshot waits for, every class granted. -/
def asked : State :=
  granted { (withPics 0 [id]) with media := { (withPics 0 [id]).media with
    streams := (withPics 0 [id]).media.streams.map (fun e => (e.1, { e.2 with snaps := [{ snap0 with taken := false }] })) } }

/-- What an engine reports of a picture with unit 2 in error. -/
def report0 : DecodeReport := { syntaxErrors := [(2, 2)], missing := [], planes := { width := 64, height := 64, y := [], cb := [], cr := [] } }

set_option maxRecDepth 8000 in
/-- The states of PicturesAreParsedAndDecoded: a picture's bytes with the cluster awake and asleep, its sets stored, accepted, refused and missing, a picture before any starting point, one to dispatch without and with an encoder, and one with an engine. -/
theorem witness_PicturesAreParsedAndDecoded :
    (((withPics 0 []).streamAt 0).any (fun x => decide (x.st ≠ .closed ∧ 1 ≤ parsed0.auBytes ∧ parsed0.auBytes ≤ x.unparsed ∧ x.mode = .seeking) &&
      setAccepted x seqSet0 && !setAccepted x { seqSet0 with width := 4097 } && x.activates parsed0 && !startsAt { parsed0 with start := .none, headers := [] } &&
      (withPics 0 []).clusterServes x.cluster && (withPics 0 []).clusterAwake x.cluster) = true ∧
      ((withPics 0 []).setDom 21 (fun m => { m with st := .sleep })).clusterServes 0 = true ∧
      ((withPics 0 []).setDom 21 (fun m => { m with st := .sleep })).clusterAwake 0 = false) ∧
    ({ parsed0 with layer := 1 }.layer ≠ 0 ∧ parsed0.layer = 0 ∧ (withSets.streamAt 0).any (fun y => decide (y.setOf parsed0 = some seqSet0)) = true ∧
      ((withPics 0 []).streamAt 0).any (fun y => decide (y.setOf parsed0 = none)) = true ∧ parsed0.segments ≠ 0 ∧ { parsed0 with segments := 0 }.segments = 0) ∧
    (((granted (withPics 0 [id])).streamAt 0).any (fun x => (x.picAt 0).any (fun p => ((granted (withPics 0 [id])).pipeAt 1 0).any (fun pipe =>
      (granted (withPics 0 [id])).mayDispatch 0 x p pipe 9 && decide ((granted (withPics 0 [id])).encodersFor 0 x p = [])))) = true ∧ (withPics 0 [id]).awake 21 = true ∧
      (withPics 0 [id]).awake 27 = true ∧ (withPics 0 [id]).awake 25 = true) ∧
    ((asked.streamAt 0).any (fun x => (x.picAt 0).any (fun p => (asked.pipeAt 1 0).any (fun pipe =>
      asked.mayDispatch 0 x p pipe 9 && decide (asked.encodersFor 0 x p ≠ [])))) = true) ∧
    ((withPics 0 [fun q => { q with stage := .dispatched 9 }]).streamAt 0).any (fun x => (x.picAt 0).any (fun p => decide (p.stage = .dispatched 9) &&
        decide (1 ≤ x.budgetMult * nominalCost 64 64 8 ∧ 2 < p.totalUnits ∧ 2 ∈ p.concealed report0 (some 7) ∧ 3 ∉ p.concealed report0 (some 7) ∧
          8 ∈ p.concealed report0 (some 7)))) = true := by
  repeat' apply And.intro
  all_goals first | decide | rfl

/-- A crop job of one box of one pixel, waiting or with unit 7. -/
def cropOf (lines : Bool) (unit : Option Nat) : CropJob :=
  { part := 1, prio := 3, obj := 0, seq := 0, lines, srcW := 1, srcH := 1, chans := 3, wide := false, stride := 3, outH := 1, maxW := 1, defaultW := 1,
    entries := [boxEntry 0 0 256 256 0 1 0], ids := [0], units := unit.toList, out := [[[1], [2], [3]]], status := [0] }

/-- `withPics` with a crop job, every class granted. -/
def withCrop (unit : Option Nat) : State :=
  granted { (withPics 0 [decodedPic]) with media := { (withPics 0 [decodedPic]).media with crops := [(0, cropOf false unit)] } }

/-- A page in flight at a stage. -/
def pageOf (stage : PageStage) : Page := { pkPage submitPk 0 (bufKey 1 0 0) (bufKey 1 0 1) with stage }

/-- `withSource` with that page. -/
def withPage (g : Page) : State := { withSource with media := { withSource.media with pages := [(0, g)] } }

/-- A batch of one entry, issued as run 0 or not yet. -/
def batchOf (kind run : Nat) : Batch :=
  { part := 1, pipeline := 0, kind, entries := [(0, 0)], full := false, waited := false, run, prio := 0 }

/-- Two pictures decoded, the second held behind the first, which owes its statistic. -/
def heldPics : State := withPics 1 [decodedPic, fun q => { decodedPic q with decSeq := 1, order := 1 }]

set_option maxRecDepth 8000 in
/-- Pictures of PicturesAndCropsArePrepared: one prepared in either scale mode, one held behind another, one to quantise, a page's detector picture, and a batch that waits. -/
theorem witness_PicturesAndCropsArePrepared :
    ([0, 1].all (fun mode => ((granted (withPics mode [decodedPic])).streamAt 0).any (fun x => (x.picAt 0).any (fun p => decide (x.prepHeld 0 = false) &&
      ((granted (withPics mode [decodedPic])).pipeAt 1 0).any (fun pipe => (withPics mode [decodedPic]).picWaits p pipe && (withPics mode [decodedPic]).prepFree 7 &&
        (granted (withPics mode [decodedPic])).mayTake 9 1 (pipe.workPrio x.prio) &&
        ((withPics mode [decodedPic]).takePrepared 0 x pipe (p.prepare x pipe none) 7).inputMode 1 pipe.detFolio == mode)))) = true ∧ up.awake 27 = true ∧
      (heldPics.streamAt 0).any (fun x => x.prepHeld 1) = true ∧ heldPics.inputMode 1 0 = 1) ∧
    ((withPics 1 [fun q => { decodedPic q with prepared := true }]).streamAt 0).any (fun x => (x.picAt 0).any (fun p =>
      decide (p.prepared = true ∧ p.quantised = false ∧ x.prepHeld 0 = false))) = true ∧
    (((withPage (pageOf .decoded)).pagePipe (pageOf .decoded)).any (fun x => (granted (withPage (pageOf .decoded))).mayTake 9 1 (x.workPrio (pageOf .decoded).prio)) = true ∧
      (pageOf .decoded).picWaits = true ∧ (withPage (pageOf .decoded)).prepFree 7 = true) ∧
    (batchOf 0 0).full = false ∧ (batchOf 0 0).run = 0 := by
  decide

set_option maxRecDepth 8000 in
/-- Crop jobs of PicturesAndCropsArePrepared: one that takes a unit, one that another shares, a page's lines cropped, and a picture's crops that start re-identification. -/
theorem witness_PicturesAndCropsArePrepared_crops :
    (nget (withCrop none).media.crops 0 = some (cropOf false none) ∧ (cropOf false none).units = [] ∧ (cropOf false (some 7)).units = [7] ∧
      (withCrop none).prepFree 7 = true ∧ (withCrop none).mayTake 9 1 3 = true ∧ (withCrop none).awake 27 = true ∧ (withCrop none).cropPoison (cropOf false none) = false) ∧
    (((withPage (pageOf .lines)).pagePipe (pageOf .lines)).isSome = true ∧ (withPage (pageOf .lines)).inputMode 1 0 ≠ 1 ∧ (cropOf true (some 7)).lines = true ∧
      (withPage (pageOf .lines)).linesHeld 0 (pageOf .lines) = false) ∧
    (nget (withCrop (some 7)).media.crops 0 = some (cropOf false (some 7)) ∧ ((withCrop (some 7)).streamAt 0).any (fun x =>
      ((withCrop (some 7)).startReid x 0 (cropOf false (some 7)) 64).isSome && !(withCrop (some 7)).reidHeld x (cropOf false (some 7))) = true ∧
      (withCrop (some 7)).inputMode 1 0 ≠ 1) := by
  decide

/-- `withPics` with the pictures' batch issued as run 0, finished. -/
def detected : State :=
  granted { (withPics 0 [fun q => { decodedPic q with batch := 1 }]) with
    media := { (withPics 0 [fun q => { decodedPic q with batch := 1 }]).media with batches := [(0, batchOf 0 1)] }
    cel := { (withPics 0 []).cel with runs := [(0, runOf 0)] } }

/-- Stream 0 with a picture tracked next, and a snapshot the encoder serves. -/
def trackedNext : State := granted (withPics 0 [fun q => { decodedPic q with detDone := true }])

/-- A snapshot of picture 0 at the snapshot encoder. -/
def snapping : State :=
  { trackedNext with media := { trackedNext.media with
      enBusy := [(2, some (0, 0))], streams := trackedNext.media.streams.map (fun e => (e.1, { e.2 with snaps := [snap0] })) } }

set_option maxRecDepth 8000 in
/-- The states of PicturesAreTrackedAndEncoded: a finished batch, the picture next in output order, a clip's picture and a snapshot. -/
theorem witness_PicturesAreTrackedAndEncoded :
    ((detected.streamAt 0).any (fun x => (x.picAt 0).any (fun p => decide (p.batch = 1 ∧ p.detDone = false) && detected.trackers.contains x.tp &&
        detected.mayTake 16 x.part x.prio)) = true ∧ detected.batchAt 0 = some (batchOf 0 1) ∧ (batchOf 0 1).place (0, 0) = some 0 ∧
      detected.runFinished 0 = true ∧ detected.awake 28 = true) ∧
    (trackedNext.streamAt 0).any (fun x => (x.pics.find? (fun p => p.order == x.nextPic && !p.hidden x && !p.output)).any (·.complete) &&
      trackedNext.trackers.contains x.tp && trackedNext.mayTake 16 x.part x.prio && (trackedNext.pipeAt x.part x.pipeline).isSome) = true ∧
    ((tget none (withClip true).media.clips 0).any (fun k => decide (k.todo = some (0, 0) ∧ k.stream = 0)) = true ∧ (withClip true).encoderServes 0 = true ∧
      (withClip true).stillDecoding 0 0 = false ∧ (withClip true).awake 25 = true ∧
      (tget none (withClip true).media.clips 0).any (fun k => k.holdsRate [1]) = true) ∧
    (snapping.nextSnap.any (fun q => decide (q.1 = 0)) = true ∧ snapping.encoderServes 2 = true ∧ snapping.stillDecoding 0 0 = false) := by
  decide

/-- What a page's header says: a baseline JPEG of the size SUBMIT_PAGE gave it. -/
def pageHdr : ParsedPage := { parsed := true, width := 64, height := 64, format := .jpeg .baseline true 8 [(1, 1)] }

/-- A band of some rows. -/
def bandOf (rows : Nat) (fin poisoned : Bool) : BandResult :=
  { lane := 3, rows, comps := [], cycles := 1, dataBytes := 1, endOfData := fin, dataError := false, poisoned }

/-- A page that decodes on lane 3, of some rows. -/
def banded (h : Nat) : Page := { pageOf .decoding with h, lane := some 3, file := some (.jpeg .baseline true 8 [(1, 1)]) }

/-- A page in its detection batch, run 0 finished. -/
def detecting : State :=
  granted { withPage { pageOf .detecting with batch := 1 } with
    media := { (withPage { pageOf .detecting with batch := 1 }).media with batches := [(0, batchOf 1 1)] } }

set_option maxRecDepth 8000 in
/-- The states of PagesAreDecodedIntoLines: a header taken and each header refused, the last band and the first of more, a poisoned band, a budget spent, and a finished detection batch. -/
theorem witness_PagesAreDecodedIntoLines :
    ((withPage (pageOf .accepted)).pageAt 0 = some (pageOf .accepted) ∧ (withPage (pageOf .accepted)).pageServes = true ∧ up.awake 26 = true ∧ up.awake 27 = true ∧
      pageHdr.width = (pageOf .accepted).w ∧ pageHdr.height = (pageOf .accepted).h ∧ pageHdr.parsed = true ∧ formatCode pageHdr.format = (pageOf .accepted).format ∧
      formatRead pageHdr.format = true ∧ formatMultipass pageHdr.format = false ∧ formatRead (.jpeg .other true 8 [(1, 1)]) = false ∧
      formatCode (.png 0 8 0) ≠ (pageOf .accepted).format ∧ 65 ≠ (pageOf .accepted).h) ∧
    ([bandOf 64 false false, bandOf 0 true false, bandOf 0 false true].all (fun r => (withPage (banded 64)).bandReport (banded 64) r &&
      ((withPage (banded 64)).pagePipe (banded 64)).isSome && (banded 64).holdsLane r.lane)) = true ∧
    ((withPage (banded 1129)).bandReport (banded 1129) (bandOf (banded 1129).bandRows false false) = true ∧
      (banded 1129).rows + (banded 1129).bandRows ≠ (banded 1129).h) ∧
    ((pageOf .decoding).rows ≤ 64 ∧ 64 ≤ (pageOf .decoding).h) ∧
    (detecting.batchAt 0 = some (batchOf 1 1) ∧ (batchOf 1 1).place (0, 0) = some 0 ∧ detecting.runFinished 0 = true ∧ detecting.trackers ≠ [] ∧
      detecting.mayTake 16 1 0 = true ∧ up.awake 28 = true) := by
  decide

/-- A page being read whose recogniser batch has issued a step, with one read. -/
def reading (r : Read) : State :=
  { withPage (pageOf .reading) with
    media := { (withPage (pageOf .reading)).media with batches := [(0, batchOf 2 1)] }
    cel := { (granted withSource).cel with runs := [(0, runOf 0)] }
    text := { withSource.text with reads := [(0, r)], nextRead := 1 } }

/-- A read that has just begun. -/
def read0 : Read := newRead 1 0 0 0 0

/-- `reading` with a pipeline whose grammar is table 0. -/
def withGrammar (r : Read) : State :=
  { reading r with
    media := { (reading r).media with pipelines := [{ pkPipeline pagePipePk 0 with grammar := 0 }] }
    text := { (reading r).text with grammar := [(0, some { part := 1, image := [], dram := 0, cellar := 0, addr := cellarBase })] } }

set_option maxRecDepth 8000 in
/-- The states of ReadsTakeTokens: a step to release, a batch's step, masks asked for, poisoned and delivered, and a token selected with and without a grammar. -/
theorem witness_ReadsTakeTokens :
    (up.textDown = false ∧ up.awake 29 = true ∧ (reading read0).textDown = false ∧ (reading read0).awake 29 = true) ∧
    (nget (reading { read0 with stepped := false }).text.reads 0 = some read0 ∧ read0.ended = false ∧ read0.stepped = false) ∧
    ((reading read0).batchAt 0 = some (batchOf 2 1) ∧ (reading read0).runAt 0 = some (runOf 0) ∧ (reading read0).runFinished 0 = true ∧
      (reading read0).mayTake 17 1 0 = true ∧ (reading read0).stepsNow (batchOf 2 1) = true ∧ ((reading read0).beginReads 0).readsOf 0 = [(0, read0)] ∧
      stepReady (((reading read0).beginReads 0).liveReads 0) = true ∧ stepReady [] = false) ∧
    ((withGrammar read0).readAt 0).any (fun e => decide (e.1 = read0) && ((withGrammar read0).grammarOf e.2.2).any (fun y => !(withGrammar read0).maskPoison y read0.state)) = true ∧
    ((withGrammar read0).readAt 0).any (fun e => ((withGrammar read0).grammarOf e.2.2).any (fun y =>
      ({ (withGrammar read0) with mem := { (withGrammar read0).mem with poison := [(cellarBase / 64 + 1, true)] } } : State).maskPoison y read0.state)) = true ∧
    ((reading { read0 with maskAsked := true }).readAt 0).isSome = true ∧
    ((reading { read0 with stepped := true }).stepDone { read0 with stepped := true } = true ∧
      ((reading { read0 with stepped := true }).readAt 0).any (fun e => decide ((reading { read0 with stepped := true }).grammarOf e.2.2 = none)) = true) ∧
    ((withGrammar { read0 with stepped := true, late := true }).readAt 0).any (fun e => e.1.late && ((withGrammar read0).grammarOf e.2.2).isSome) = true ∧
    pickToken (fun i => decide (i ≠ 1)) [3, 9, 5, 5] = some (2, 0) ∧ pickToken (fun _ => false) [1] = none := by
  decide

/-- A state with a command at the front of its queue, and the idle block. -/
theorem witness_StepRunsFrontCommand : ({ up with pending := [Instr.powerLoss] } : State).pending = [.powerLoss] ∧ up.pending = [] := by decide

/-- A canonical memory of two bytes and a poisoned line, and a device with channel 0 FAILED. -/
def withBytes : State := { up with mem := { up.mem with cells := [(5, 1), (64, 7)], poison := [(1, true)] } }

/-- `up` with channel 0 FAILED. -/
def failedChan : State := { up with ddr := { up.ddr with ch := (List.range 12).map (fun c => (c, { st := if c = 0 then .failed else .ready, ranks := 1, gib := 32 })) } }

/-- The memories of WriteChangesOnlyItsBytes, a write that ends at a line's last byte, and a byte of a FAILED channel. -/
theorem witness_WriteChangesOnlyItsBytes :
    withBytes.mem.wf = true ∧ 0 ≤ 64 * 0 ∧ 64 * 0 + 64 ≤ 0 + (List.replicate 64 (3 : Byte)).length ∧ failedChan.failedAt 0 = true ∧
    (withBytes.writeOutside 62 [2, 2]).byteAt 63 = 2 ∧ (withBytes.writeOutside 62 [2, 2]).byteAt 64 = 7 ∧ (withBytes.writeOutside 64 [0]).mem.wf = true := by
  decide

/-- The packets' ends of PacketEndRepliesSignalsAndInterrupts: on a ring that answers and on one whose reply write has failed. -/
theorem witness_PacketEndRepliesSignalsAndInterrupts :
    ((up.ringAt 1 0).replyFault = false ∧ 0 ∉ up.cp.badReplies) ∧ ((up.setRing 1 0 (fun r => { r with replyFault := true })).ringAt 1 0).replyFault = true ∧
    up.signals (mkPk 1 0 1 0x0101 [(3, 1, 2), (8, 8, 5 * 2 ^ 13)]) = true ∧ up.signals (mkPk 1 0 1 0x0101 [(3, 1, 2), (8, 8, 8191 * 2 ^ 13)]) = false := by
  decide

/-- A step from a canonical memory that answers a next state. -/
theorem witness_EveryStepKeepsMemoryCanonical :
    withBytes.mem.wf = true ∧ ∃ t, step { withBytes with pending := [Instr.l0sEntry] } = .next t := ⟨by decide, _, rfl⟩

/-- A step, and the bounds of the fuse SVN and of the leaf counter. -/
theorem witness_FusesAndRecordsOnlyAdvance :
    (∃ t, step { up with pending := [Instr.l0sEntry] } = .next t) ∧ up.mgt.fuseSvn ≤ 64 ∧ up.mgt.leafNext ≤ up.mgt.leafReserved := ⟨⟨_, rfl⟩, by decide⟩

/-- RECIP is next on a core whose lane 0 holds 0 and whose lane 2 holds 3, all mask bits 1. -/
theorem witness_RecipReturnsFloor :
    ((((running (laneWord 0x21)).setCore 0 (fun c => c.setLanes 31 [(2, 3)])).atLane 0x21 laneTop).isSome = true ∧
      (((running (laneWord 0x21)).setCore 0 (fun c => c.setLanes 31 [(2, 3)])).coreAt 0).lane 31 0 = 0 ∧
      (((running (laneWord 0x21)).setCore 0 (fun c => c.setLanes 31 [(2, 3)])).coreAt 0).lane 31 2 = 3 ∧
      ((running (laneWord 0x21)).coreAt 0).mask.getLsbD 62 = true) := by
  decide

/-- A core with a quire active, one with a quire to start, and one without. -/
theorem witness_QuireCycleLimitsAct :
    (((running 0).coreAt 0).active.any (fun a => decide (a.long = false)) = true ∧ ((running 0).coreAt 0).preempt = none ∧ ((running 0).coreAt 0).done = none) ∧
    (((withRun 0).setCore 0 (fun c => { c with second := some (0, 0) })).coreAt 0).active = none ∧
    ((((withRun 0).setCore 0 (fun c => { c with second := some (0, 0) })).startQuire 0).coreAt 0).active.isSome = true := by
  decide

/-- Cores 0 and 7, with an array disabled by the fuses and none. -/
theorem witness_CoresRunFourOrTwoArrays :
    let s : State := { up with dev := { up.dev with fuses := { up.dev.fuses with arrayMask := 0x80000000 } } }
    (s.unitsServing.coreAt 7).arrays = 2 ∧ (s.unitsServing.coreAt 0).arrays = 4 ∧ bitOf s.dev.fuses.arrayMask (4 * 7 + 3) = true := by
  decide

/-- A resource held, its code the largest, and one free. -/
theorem witness_ClaimRegistersReportHolders :
    tget 0 ({ up with mgt := { up.mgt with claims := [(15, 0xFF)] } } : State).mgt.claims 15 = 0xFF ∧ tget 0 up.mgt.claims 1 = 0 := by decide

/-! ### Ill-formed commands -/

set_option maxRecDepth 16000 in
/-- WellFormed refuses a packet shorter than its slots, an opcode that is not the row's, accesses of no byte and beyond a 4 KiB page, and data of a length that is not the command's; and accepts the same commands put right. -/
theorem test_wellFormed_refuses :
    ([Instr.nop { fn := 0, ring := 0, bytes := blob 64 [(0, 2, 0x0101), (2, 1, 1)] }, .nop (mkPk 0 0 1 0x0102 []),
      .undefinedOpcode { fn := 0, ring := 0, bytes := [] }, .windowRead 1 0xFFF 2, .windowRead 1 0 0, .windowWrite 1 0xFFF [0, 0], .windowWrite 1 0 [],
      .paramLo true (List.replicate 31 0), .paramHi true (List.replicate 33 0), .dramWrite 0 (List.replicate 63 0) false .ordinary,
      .firmwareChunk 0 0 0 [0] 0, .sensorSample [], .accountingInterval []].all (fun i => i.wf == false)) = true ∧
    ([Instr.nop (mkPk 0 0 2 0x0101 []), .undefinedOpcode (mkPk 0 0 1 0x0FFF []), .windowRead 1 0xFFE 2, .windowWrite 1 0xFFF [0], .paramLo true (List.replicate 32 0),
      .paramHi true (List.replicate 32 0), .dramWrite 0 (List.replicate 64 0) false .ordinary, .sensorSample (List.replicate 20 { valid := false, temp := 0 }),
      .accountingInterval (List.replicate 32 0)].all Instr.wf) = true := by
  decide

/-! ### The spec's worked examples -/

/-- The header of the example's STREAM_CLOSE: WAIT on object 5 for the value 1,000 (11_iluolo_commands.md). -/
theorem test_header_waits :
    let pk : Packet := { fn := 1, ring := 4, bytes := [0x05, 0x03, 0x10, 0x01, 0x00, 0x09, 0x00, 0x00, 0x05, 0x00, 0x00, 0xA0, 0x0F, 0x00, 0x00, 0x00] ++ List.replicate 48 0 }
    pk.opcode = 0x0305 ∧ pkWait pk = true ∧ pkSignal pk = false ∧ pkTag pk = 0x900 ∧ pkWaitSync pk = 5 ∧ pkWaitValue pk = 1000 := by
  decide

/-- The header of the example's FEED: SIGNAL to object 5 (11_iluolo_commands.md). -/
theorem test_header_signals :
    let pk : Packet := { fn := 1, ring := 3, bytes := [0x02, 0x03, 0x10, 0x02, 0x02, 0x00, 0x00, 0x00, 0x00, 0xA0, 0x00, 0x00, 0x00, 0x00, 0x00, 0x00] ++ List.replicate 48 0 }
    pk.opcode = 0x0302 ∧ pkSignal pk = true ∧ pkWait pk = false ∧ pkTag pk = 2 ∧ pkSignalSync pk = 5 ∧ pkPriority pk = 2 := by
  decide

/-- The words of the example round (06_quires.md). -/
theorem test_quire_words :
    wPass 15 true false true 0 = 0x4FA0000000000000 ∧ wPass 15 true false false 1 = 0x4F80100000000000 ∧
    wFlush 15 false 0 true 3 2 0 false = 0x5F08181000000000 := by
  decide

/-- The activation 0xB7 splits into the digits 0xB and 0x7 (02_digit_arithmetic.md). -/
theorem test_split_digits : splitDigits 183 2 = [0xB, 0x7] ∧ recompose true [0xB, 0x7] = 183 := by decide

/-- The Northgate camera at dusk: e = 4 by day, 2 by night (02_digit_arithmetic.md). -/
theorem test_choose_exponent :
    chooseExp 3000 0 0 0 255 0 15 = 4 ∧ chooseExp 900 0 0 0 255 0 15 = 2 ∧ truncShift 3000 4 = 187 ∧ truncShift 900 4 = 56 ∧ truncShift 900 2 = 225 := by
  decide

set_option maxRecDepth 16000 in
set_option exponentiation.threshold 8192 in
/-- The table entries T[0] and T[128] (04_fused_chains.md). -/
theorem test_exp_table : expTable 0 = 65535 ∧ expTable 128 = 46340 ∧ exp2n 4096 = 0 := by decide

/-- RECIP of 3, 1 and 0 by R79. -/
theorem test_recip : recip 3 = 715827882 ∧ recip 1 = 2147483648 ∧ recip 0 = 0xFFFFFFFF := by decide

set_option maxRecDepth 16000 in
/-- The C3 block of the example: 24 bytes whose codes 3, 9 and 15 decode to 2, 10 and 14 (05_vision_operators.md). -/
theorem test_c3_block :
    let codes := List.replicate 16 3 ++ (List.range 16).map (fun i => 2 + i % 4) ++ List.range 16 ++ (List.range 16).map (fun i => 7 + i % 3)
    let blk := encodeBlock 1 codes
    blk.length = 24 ∧ decodeOne 1 1 blk 0 = 2 ∧ decodeOne 1 1 blk 50 = 10 ∧ decodeOne 1 1 blk 47 = 14 := by
  decide

/-- The Northgate analysis picture: content 640 × 360 at (0, 12), luma reduced by 3 (08_video_streams.md). -/
theorem test_content_box : contentBox true 640 384 1920 1080 = (640, 360, 0, 12) ∧ boxFactor 1920 640 = 3 ∧ boxFactor 960 640 = 1 := by decide

/-- The Northgate invoice line is 1,440 wide (09_page_input.md). -/
theorem test_line_width : lineWidth 32 2048 0 1800 0 40 = (1440, false) := by decide

/-- The decoder buffers of a Northgate stream: 5 × 3,162,112 bytes (08_video_streams.md). -/
theorem test_ref_bytes :
    (pkStream (mkPk 1 0 1 0x0301 [(16, 1, 1), (17, 1, 4), (20, 2, 1920), (22, 2, 1080), (24, 4, 52)])).refBytes = 5 * 3162112 := by
  decide

/-- Text released one character at a time into the stop window. -/
def stopRun : Reading :=
  ([[0x34], [0x35], [0x2E], [0x30], [0x30], [0x20], [0xE2, 0x82, 0xAC], [0x20], [0x74], [0x6F], [0x74], [0x61], [0x6C]] : List (List Byte)).foldl
    (fun o ch => o.push { tag := 0, source := 0, stops := [[0x23, 0x23], [0xE2, 0x82, 0xAC, 0x20, 0x74, 0x6F, 0x74, 0x61, 0x6C]], reject := false, maxTokens := 512, chunkBytes := 512 }
      { bytes := ch, field := 0, token := 0, margin := 0, repl := false }) (startReading read0)

set_option maxRecDepth 8000 in
/-- The example's stop strings "##" and "€ total": the read ends with STOP_MATCHED, STOP_INDEX 1 and the 6 bytes "45.00 " (10_text_engine.md). -/
theorem test_stop_string : stopRun.fin = some stStopMatched ∧ stopRun.stop = 1 ∧ stopRun.r.chunk = [0x34, 0x35, 0x2E, 0x30, 0x30, 0x20] := by decide

/-- The example's last character completes "é" of a FEED that ended in 0xC3 (10_text_engine.md). -/
theorem test_utf8_completes : utf8Front [0xC3] = .part ∧ utf8Front [0xC3, 0xA9, 0x73] = .whole 2 := by decide

/-- The two waiters of the example: at 1,000 wait A for 1,000 is satisfied and wait B for 1,001 is not (12_queues_sync_bins.md). -/
theorem test_two_waiters :
    let s : State := { up with cp := { up.cp with sync := [(8192 + 5, 999)] } }
    s.counter 1 5 = 999 ∧ (s.applySignal { fn := 1, obj := 5, isSet := false, value := 1 }).counter 1 5 = 1000 := by
  decide

/-! ### Single steps -/

/-- The state an outcome goes on in; a fault or a refusal gives the state after reset. -/
def after : Host.Outcome State Machine.Fault Machine.Refusal → State
  | .next t => t
  | _ => State.reset

/-- ADD is modulo 2^16: the source and the destination the same register (R518). -/
theorem test_lane_add_wraps :
    ((after (exec (.laneAdd laneTop) ((running (laneWord 0)).setCore 0 (fun c => c.setLanes 31 [(0, 0x8001), (63, 1)])))).coreAt 0).lane 31 0 = 2 ∧
    ((after (exec (.laneAdd laneTop) ((running (laneWord 0)).setCore 0 (fun c => c.setLanes 31 [(0, 0x8001), (63, 1)])))).coreAt 0).lane 31 63 = 2 := by
  decide

/-- A NOP with SIGNAL adds 1 to its counter and answers OK (R308, R309). -/
theorem test_nop_signals :
    (after (step { up with pending := [.nop (mkPk 1 0 1 0x0101 [(3, 1, 2), (4, 4, 7), (8, 8, 5 * 2 ^ 13)])] })).counter 1 5 = 1 ∧
    (after (step { up with pending := [.nop (mkPk 1 0 1 0x0101 [(3, 1, 2), (4, 4, 7), (8, 8, 5 * 2 ^ 13)])] })).outbox.length = 1 ∧
    (after (step { up with pending := [.nop (mkPk 1 0 1 0x0101 [(3, 1, 2), (4, 4, 7), (8, 8, 5 * 2 ^ 13)])] })).pending = [] := by
  decide

/-- A grant of a core goes to the class of its one ready quire, and only while a unit is free (R183). -/
theorem test_drr_grants :
    ((after (exec (.drrGrant (.core 0)) (withRun 0))).poolAt 0).granted = [(1, 3)] ∧
    ((after (exec (.drrGrant (.core 0)) (after (exec (.drrGrant (.core 0)) (withRun 0))))).poolAt 0).granted = [(1, 3)] ∧
    ((after (exec (.drrGrant .prep) (withCrop none))).poolAt 9).granted.length ≤ 4 := by
  decide

set_option maxRecDepth 8000 in
/-- A read of CP_RES_LOST clears it (R335), and PF0's first configuration word holds Vendor ID 0x1F3D (R384). -/
theorem test_page_reads :
    ((after (exec (.rcRegisterRead (.functionPage 1) 0x201C) (up.setRes 1 (fun q => { q with lost := 5 })))).resAt 1).lost = 0 ∧
    (after (exec (.rcRegisterRead (.config 0) 0) up)).outbox = [.completion 0 (.data [0x3D, 0x1F, BitVec.ofNat 8 up.dev.fuses.devId, BitVec.ofNat 8 (up.dev.fuses.devId / 256)])] := by
  decide

end Sys2Proof.Tests
end

section
/-! PROOFS. The arrays that the tasting leaves on a core (R3, R83, R465). -/

namespace Sys2Proof.Machine

/-! ### Bits of a packed list -/

/-- Bit `i` of a packed list is its entry `i`, and 0 beyond its end. -/
theorem bitOf_packBits (l : List Bool) (i : Nat) : bitOf (packBits l) i = l.getD i false := by
  induction l generalizing i with
  | nil => simp [packBits, bitOf]
  | cons b t ih =>
    have hb : b2n b < 2 := by cases b <;> decide
    cases i with
    | zero =>
      have hmod : (b2n b + 2 * packBits t) % 2 = b2n b := by omega
      simp only [packBits, bitOf, pow_zero, Nat.div_one, hmod, List.getD_cons_zero]
      cases b <;> rfl
    | succ i =>
      have hdiv : (b2n b + 2 * packBits t) / 2 ^ (i + 1) = packBits t / 2 ^ i := by
        rw [pow_succ', ← Nat.div_div_eq_div_mul]
        congr 1
        omega
      simpa only [packBits, bitOf, hdiv, List.getD_cons_succ] using ih i

/-! ### Pairs of arrays (R465) -/

/-- Whether the fuses or the defect list name array `i` of core `n` (R3). -/
def State.arrayDown (s : State) (n i : Nat) : Bool :=
  bitOf s.dev.fuses.arrayMask (4 * n + i) || s.defectSub 1 n i

/-- Whether both arrays of pair `k` of core `n` are good: A0 with A1, A2 with A3 (R465). -/
def State.pairGood (s : State) (n k : Nat) : Bool := !s.arrayDown n (2 * k) && !s.arrayDown n (2 * k + 1)

/-- Each pair of a core is left whole or not at all. -/
theorem State.arraysLeft_eq_pairs (s : State) (n : Nat) :
    s.arraysLeft n = packBits [s.pairGood n 0, s.pairGood n 0, s.pairGood n 1, s.pairGood n 1] := by
  have hself : s.arraysLeft n = packBits [s.pairGood n 0, !s.arrayDown n 1 && !s.arrayDown n 0,
      s.pairGood n 1, !s.arrayDown n 3 && !s.arrayDown n 2] := rfl
  rw [hself, Bool.and_comm (!s.arrayDown n 1), Bool.and_comm (!s.arrayDown n 3)]
  rfl

/-- An array is left exactly when its pair is good. -/
theorem State.bitOf_arraysLeft (s : State) (n : Nat) {i : Nat} (hi : i < 4) :
    bitOf (s.arraysLeft n) i = s.pairGood n (i / 2) := by
  rw [s.arraysLeft_eq_pairs, bitOf_packBits]
  interval_cases i <;> rfl

/-- A pair is lost exactly when one of its two arrays is named; `j` is the pair partner of `i`. -/
theorem State.pairGood_eq_false_iff (s : State) (n : Nat) {i j : Nat} (hj : j = if i % 2 = 0 then i + 1 else i - 1) :
    s.pairGood n (i / 2) = false ↔ s.arrayDown n i = true ∨ s.arrayDown n j = true := by
  have hlost : s.pairGood n (i / 2) = false ↔
      s.arrayDown n (2 * (i / 2)) = true ∨ s.arrayDown n (2 * (i / 2) + 1) = true := by
    simp only [State.pairGood, Bool.and_eq_false_iff, Bool.not_eq_false']
  split at hj
  next heven =>
    have hlow : 2 * (i / 2) = i := by omega
    rw [hlost, hlow, hj]
  next hodd =>
    have hlow : 2 * (i / 2) = j := by omega
    have hhigh : j + 1 = i := by omega
    rw [hlost, hlow, hhigh, or_comm]

/-- A core with its pairs left whole or not at all has 4 arrays, 2 or none. -/
theorem Core.arrays_of_pairs (c : Core) (p q : Bool) (h : c.enabled = packBits [p, p, q, q]) :
    c.arrays = 4 ∨ c.arrays = 2 ∨ c.enabled = 0 := by
  rw [Core.arrays, h]
  cases p <;> cases q <;> decide

/-! ### What the tasting writes to a core -/

/-- Core `n` as the tasting finds it: fuses, defects and the arrays left (R83). -/
def State.tasteCore (s : State) (n : Nat) : State :=
  s.setCore n (fun c => { c with
    fuse := (s.dev.fuses.arrayMask / 16 ^ n) % 16, defect := s.defectMask n, enabled := s.arraysLeft n, tasted := true })

theorem State.coreAt_unitsServing (s : State) (n : Nat) :
    s.unitsServing.coreAt n = ((List.range 8).foldl State.tasteCore s).coreAt n := rfl

@[simp] theorem State.tasteCore_dev (s : State) (n : Nat) : (s.tasteCore n).dev = s.dev := rfl

/-- The written core is read back in any store, canonical or not: its `tasted` tells it from an unlisted core. -/
theorem State.coreAt_tasteCore_same_enabled (s : State) (n : Nat) :
    ((s.tasteCore n).coreAt n).enabled = s.arraysLeft n := by
  have hread := tget_tput_ne ({} : Core) s.core n { s.coreAt n with
    fuse := (s.dev.fuses.arrayMask / 16 ^ n) % 16, defect := s.defectMask n, enabled := s.arraysLeft n, tasted := true }
    (fun h => Bool.noConfusion (congrArg Core.tasted h))
  exact congrArg Core.enabled hread

theorem State.coreAt_tasteCore_other (s : State) {n m : Nat} (h : m ≠ n) : (s.tasteCore n).coreAt m = s.coreAt m :=
  s.coreAt_setCore_other n m _ h

/-- The arrays left follow from the fuses and the defect list alone. -/
theorem State.arraysLeft_congr {s t : State} (h : t.dev = s.dev) (n : Nat) : t.arraysLeft n = s.arraysLeft n := by
  simp only [State.arraysLeft, State.defectSub, h]

theorem State.foldl_tasteCore_dev (s : State) (l : List Nat) : (l.foldl State.tasteCore s).dev = s.dev := by
  induction l generalizing s with
  | nil => rfl
  | cons n t ih => rw [List.foldl_cons, ih, State.tasteCore_dev]

/-- After the first `k` cores are judged, each of them has the arrays that the first state leaves it. -/
theorem State.foldl_tasteCore_enabled (s : State) {n k : Nat} (h : n < k) :
    (((List.range k).foldl State.tasteCore s).coreAt n).enabled = s.arraysLeft n := by
  induction k with
  | zero => omega
  | succ k ih =>
    rw [List.range_succ, List.foldl_append, List.foldl_cons, List.foldl_nil]
    by_cases hnk : n = k
    · rw [hnk, State.coreAt_tasteCore_same_enabled, State.arraysLeft_congr (s.foldl_tasteCore_dev _)]
    · rw [State.coreAt_tasteCore_other _ hnk, ih (by omega)]

/-- The tasting enables on each core the arrays left to it. -/
theorem State.unitsServing_enabled (s : State) {n : Nat} (hn : n < 8) :
    (s.unitsServing.coreAt n).enabled = s.arraysLeft n := by
  rw [State.coreAt_unitsServing, s.foldl_tasteCore_enabled hn]

/-- Settles O59: each pair (R465) is left whole or not at all, so a core has 4 arrays, 2 or none, and an array is lost exactly with its pair. -/
theorem coresRunFourOrTwoArrays : Obligations.CoresRunFourOrTwoArrays := by
  rintro s u n hn rfl
  have hleft := s.unitsServing_enabled hn
  constructor
  · exact Core.arrays_of_pairs _ _ _ (hleft.trans (s.arraysLeft_eq_pairs n))
  · intro i j hi hj
    rw [hleft, s.bitOf_arraysLeft n hi, s.pairGood_eq_false_iff n hj]
    simp only [State.arrayDown, Bool.or_eq_true]

end Sys2Proof.Machine
end

section
/-! PROOFS. The cycle limits of a quire (R162): its count of array cycles, QUIRE_LONG and QUIRE_WATCHDOG. -/

namespace Sys2Proof.Machine

/-! ### A core read after a write of it, in any store -/

/-- A core with a running quire is not what an unlisted core reads as, so it is read back in a store of any form. -/
theorem State.coreAt_setCore_of_active {s : State} {n : Nat} {g : Core → Core} {a : Active}
    (h : (g (s.coreAt n)).active = some a) : (s.setCore n g).coreAt n = g (s.coreAt n) :=
  tget_tput_ne _ _ _ _ fun hdef => Option.some_ne_none a (h.symm.trans (congrArg Core.active hdef))

/-- The same of a core with a completion record. -/
theorem State.coreAt_setCore_of_done {s : State} {n : Nat} {g : Core → Core} {d : Completed}
    (h : (g (s.coreAt n)).done = some d) : (s.setCore n g).coreAt n = g (s.coreAt n) :=
  tget_tput_ne _ _ _ _ fun hdef => Option.some_ne_none d (h.symm.trans (congrArg Core.done hdef))

theorem State.coreAt_congr {s t : State} (h : t.core = s.core) (n : Nat) : t.coreAt n = s.coreAt n := by
  rw [State.coreAt, h, State.coreAt]

/-! ### Writes of the memory leave the cores -/

/-- A fold of operations that leave the cores leaves them. -/
theorem State.foldl_core {α : Type} (f : State → α → State) (hf : ∀ s x, (f s x).core = s.core) (l : List α) (s : State) :
    (l.foldl f s).core = s.core := by
  induction l generalizing s with
  | nil => rfl
  | cons x t ih => rw [List.foldl_cons, ih, hf]

@[simp] theorem State.setPoison_core (s : State) (k : Nat) (p : Bool) : (s.setPoison k p).core = s.core := rfl

@[simp] theorem State.scrub_core (s : State) (lo hi : Nat) : (s.scrub lo hi).core = s.core := rfl

@[simp] theorem State.writeRaw_core (s : State) (a : Nat) (bs : List Byte) : (s.writeRaw a bs).core = s.core := by
  unfold State.writeRaw
  split <;> rfl

@[simp] theorem State.writeMem_core (s : State) (a : Nat) (bs : List Byte) : (s.writeMem a bs).core = s.core :=
  State.foldl_core _ (fun t (g : Nat × List Byte) => t.writeRaw_core g.1 g.2) _ s

@[simp] theorem State.copyData_core (s : State) (src n dst : Nat) : (s.copyData src n dst).core = s.core :=
  (State.foldl_core _ (fun t k => t.setPoison_core k true) _ _).trans (s.writeMem_core dst _)

/-! ### Stopping a quire (R155, R156) -/

/-- What is undone of a quire changes no other core. -/
theorem State.coreAt_undoQuire_other (s : State) {n m : Nat} (hm : m ≠ n) : (s.undoQuire n).coreAt m = s.coreAt m := by
  unfold State.undoQuire
  split
  next => rfl
  next a _ =>
    have hwritten := State.foldl_core _ (fun t (e : Nat × List Byte) => t.writeMem_core e.1 e.2) a.undo s
    have hpoison := State.foldl_core _ (fun t k => t.setPoison_core k true) a.undoPoison
      (a.undo.foldl (fun t e => t.writeMem e.1 e.2) s)
    rw [State.coreAt_setCore_other _ _ _ _ hm]
    refine State.coreAt_congr ?_ m
    exact (State.foldl_core _ (fun t (r : Nat × Nat) => t.scrub_core r.1 (r.1 + r.2)) _ _).trans (hpoison.trans hwritten)

/-- A stopped quire changes no other core. -/
theorem State.coreAt_stopQuire_other (s : State) {n m : Nat} (hm : m ≠ n) (o : Nat) :
    (s.stopQuire n o).coreAt m = s.coreAt m := by
  unfold State.stopQuire
  split
  next => rfl
  next => rw [State.coreAt_setCore_other _ _ _ _ hm, s.coreAt_undoQuire_other hm]

/-- A stopped quire runs no more, and its completion record is that of an ended one but for the OUTCOME. -/
theorem State.coreAt_stopQuire_same {s : State} {n : Nat} {a : Active} (h : (s.coreAt n).active = some a) (o : Nat) :
    ((s.stopQuire n o).coreAt n).active = none ∧ ((s.stopQuire n o).coreAt n).done = some { a.record with outcome := o } := by
  simp only [State.stopQuire, h]
  rw [State.coreAt_setCore_of_done rfl]
  exact ⟨rfl, rfl⟩

/-! ### The count of array cycles (R156, R162) -/

/-- A change of the running quire. -/
theorem State.setActive_active {s : State} {n : Nat} {a : Active} (f : Active → Active) (h : (s.coreAt n).active = some a) :
    ((s.setActive n f).coreAt n).active = some (f a) := by
  have hmap : ((s.coreAt n).active).map f = some (f a) := by rw [h]; rfl
  unfold State.setActive
  rw [State.coreAt_setCore_of_active hmap]
  exact hmap

/-- An instruction taken adds its cycles and those it waits, which are free values (log 13). -/
theorem State.tick_active {s : State} {n : Nat} {a : Active} (k : Nat) (h : (s.coreAt n).active = some a) :
    ((s.tick n k).coreAt n).active =
      some { a with pc := a.pc + 1, cycles := min 0xFFFFFFFF (a.cycles + k + Config.instrWaits n (s.coreAt n).instrs) } := by
  refine State.setActive_active _ ?_
  rw [State.coreAt_setCore_of_active h]
  exact h

/-- The UPDATE destinations filled at the start of a quire are memory alone (R153). -/
theorem State.fillDsts_core (tab : List Binding) (s : State) :
    (tab.foldl (fun s b => if b.dst = 0 then s else s.copyData b.base (s.boundBytes b) b.dst) s).core = s.core :=
  State.foldl_core _ (fun t b => by split <;> simp) tab s

/-- The start of a quire does nothing, or the core runs the quire from its first instruction with nothing counted, and then the check of its bindings stops it or its UPDATE destinations are filled (R153, R154). -/
theorem State.startQuire_cases (s : State) (n : Nat) :
    s.startQuire n = s ∨ ∃ (t : State) (r q : Nat) (tab : List Binding),
      (t.coreAt n).active = some { run := r, quire := q, bindings := tab } ∧
      (s.startQuire n = t.stopQuire n 3 ∨ (s.startQuire n).core = t.core) := by
  generalize hu : s.startQuire n = u
  simp only [State.startQuire] at hu
  split at hu
  next => exact .inl hu.symm
  next r q _ =>
    split at hu
    next => exact .inl hu.symm
    split at hu
    next => exact .inl hu.symm
    split at hu
    next => exact .inl hu.symm
    next tab _ =>
    split at hu
    next => exact .inr ⟨_, r, q, tab, by rw [State.coreAt_setCore_of_active rfl], .inl hu.symm⟩
    next => exact .inr ⟨_, r, q, tab, by rw [State.coreAt_setCore_of_active rfl], .inr (hu ▸ State.fillDsts_core tab _)⟩

/-- What runs on a core that was free, once the quire of its second buffer has started, is at its first instruction with nothing counted. -/
theorem State.startQuire_active {s : State} {n : Nat} {a : Active} (hfree : (s.coreAt n).active = none)
    (h : ((s.startQuire n).coreAt n).active = some a) : ∃ r q tab, a = { run := r, quire := q, bindings := tab } := by
  obtain hsame | ⟨t, r, q, tab, ht, hstop | hcore⟩ := s.startQuire_cases n
  · rw [hsame, hfree] at h
    cases h
  · rw [hstop, (State.coreAt_stopQuire_same ht 3).1] at h
    cases h
  · rw [State.coreAt_congr hcore, ht] at h
    exact ⟨r, q, tab, (Option.some.inj h).symm⟩

/-! ### QUIRE_LONG and QUIRE_WATCHDOG (R162) -/

/-- The first report of the LONG limit, with no pre-emption pending: the quire continues. -/
theorem exec_quireLong_of_active {s : State} {n : Fin 8} {a : Active} (h : (s.coreAt n).active = some a) (hlong : a.long = false)
    (hpre : (s.coreAt n).preempt = none) :
    exec (.quireLong n) s = .next (s.setCore n (fun c => { c with
      longCount := satAdd 32 c.longCount 1, active := some { a with long := true, cycles := max a.cycles 44800 } })) := by
  change execQuireLong n s = _
  simp [execQuireLong, h, hlong, hpre]

/-- The watchdog's limit stops a quire that has no completion record yet. -/
theorem exec_quireWatchdog_of_active {s : State} {n : Fin 8} {a : Active} (h : (s.coreAt n).active = some a)
    (hdone : (s.coreAt n).done = none) :
    exec (.quireWatchdog n) s = .next ((s.setActive n (fun a => { a with cycles := max a.cycles 1048576 })).stopQuire n 5) := by
  change execQuireWatchdog n s = _
  simp [execQuireWatchdog, h, hdone, State.setActive]

/-- Settles O58: `startQuire_cases` gives the count at the start, `tick_active` its growth, and at either limit the core is read back as written, its running quire or its completion record telling it from an unlisted one. -/
theorem quireCycleLimitsAct : Obligations.QuireCycleLimitsAct := by
  intro s n
  refine ⟨fun a hfree hrun => ?_, fun a ha => ⟨fun k => State.tick_active k ha, ⟨rfl, rfl⟩, fun hlong hpre => ?_, fun hdone => ?_⟩⟩
  case refine_1 =>
    obtain ⟨r, q, tab, rfl⟩ := State.startQuire_active hfree hrun
    exact ⟨rfl, rfl⟩
  case refine_2 =>
    refine ⟨_, exec_quireLong_of_active ha hlong hpre, ?_⟩
    rw [State.coreAt_setCore_of_active rfl]
    exact ⟨rfl, rfl, rfl, rfl, fun m hm => s.coreAt_setCore_other n m _ hm⟩
  case refine_3 =>
    obtain ⟨hfree, hrecord⟩ := State.coreAt_stopQuire_same
      (State.setActive_active (fun a => { a with cycles := max a.cycles 1048576 }) ha) 5
    refine ⟨_, _, exec_quireWatchdog_of_active ha hdone, hfree, hrecord, rfl, rfl, rfl, rfl, fun m hm => ?_⟩
    rw [State.coreAt_stopQuire_other _ hm]
    exact s.coreAt_setCore_other n m _ hm

end Sys2Proof.Machine
end

section
/-! PROOFS. The cycle in which a wait expires (R341 to R343): header waits and SYNC_WAITs. -/

namespace Sys2Proof.Machine

/-! ### The signals of a cycle -/

/-- A signal changes a counter and no packet in flight (R340). -/
@[simp] theorem State.applySignal_flight (s : State) (g : Signal) : (s.applySignal g).cp.flight = s.cp.flight := by
  unfold State.applySignal
  split <;> rfl

theorem State.foldl_applySignal_flight (s : State) (l : List Signal) : (l.foldl State.applySignal s).cp.flight = s.cp.flight :=
  l.foldlRecOn (motive := fun t => t.cp.flight = s.cp.flight) State.applySignal rfl
    fun t ht g _ => (t.applySignal_flight g).trans ht

/-! ### The waits that the counters satisfy (R341) -/

/-- An element put behind the longest front of a list that passes a test. -/
theorem mem_takeWhile_cons_dropWhile {α : Type} (p : α → Bool) (l : List α) (e x : α) :
    x ∈ l.takeWhile p ++ e :: l.dropWhile p ↔ x = e ∨ x ∈ l := by
  conv_rhs => rw [← l.takeWhile_append_dropWhile (p := p)]
  simp only [List.mem_append, List.mem_cons]
  exact or_left_comm

/-- A sort by insertion keeps what it sorts. -/
theorem mem_foldl_of_insert {α : Type} {ins : List α → α → List α} (hins : ∀ acc e x, x ∈ ins acc e ↔ x = e ∨ x ∈ acc)
    (l acc : List α) (x : α) : x ∈ l.foldl ins acc ↔ x ∈ l ∨ x ∈ acc := by
  induction l generalizing acc with
  | nil => simp
  | cons e t ih =>
    rw [List.foldl_cons, ih, hins, List.mem_cons]
    exact or_left_comm.trans or_assoc.symm

/-- A SYNC_WAIT in flight whose counter stands at or above its VALUE is among those that reply, with that counter. -/
theorem State.mem_satisfiedWaits {s : State} {fl : Flight} {o v : Nat} (hmem : fl ∈ s.cp.flight) (hwait : fl.wait = .sync o v)
    (hmet : v ≤ s.counter fl.pk.fn o) : (fl, s.counter fl.pk.fn o) ∈ s.satisfiedWaits := by
  refine List.mem_map.mpr ⟨(v, fl, s.counter fl.pk.fn o), ?_, rfl⟩
  refine (mem_foldl_of_insert (fun acc e x => mem_takeWhile_cons_dropWhile _ acc e x) _ _ _).mpr (.inl ?_)
  refine List.mem_filterMap.mpr ⟨fl, hmem, ?_⟩
  simp only [hwait, hmet, if_true]

/-! ### The two outcomes of an expiry (R343) -/

/-- The signal wins: a wait that the counters at the end of its expiry cycle satisfy does not time out. -/
theorem State.expire_of_met {s : State} {signals : List Signal} {met : State → Bool} (fl : Flight) (a : State → Ans)
    (h : met ((cycleSignals signals).1.foldl State.applySignal s) = true) :
    s.expire fl signals met a =
      ((cycleSignals signals).1.foldl State.applySignal s).replySatisfied.settle.laterSignals (cycleSignals signals).2 := by
  simp only [State.expire, h, if_true]

/-- A wait they leave unsatisfied ends with its answer before any later signal is applied. -/
theorem State.expire_of_unmet {s : State} {signals : List Signal} {met : State → Bool} (fl : Flight) (a : State → Ans)
    (h : met ((cycleSignals signals).1.foldl State.applySignal s) = false) :
    s.expire fl signals met a =
      (((cycleSignals signals).1.foldl State.applySignal s).replySatisfied.endPacket fl
        (a ((cycleSignals signals).1.foldl State.applySignal s))).settle.laterSignals (cycleSignals signals).2 := by
  simp only [State.expire, h, Bool.false_eq_true, if_false]

/-! ### HEADER_WAIT_TIMEOUT (R308) and SYNC_WAIT_TIMEOUT (R342) -/

/-- The header wait that a ring with a timeout holds expires. -/
theorem exec_headerWaitTimeout_of_find {s : State} {f : Fin 9} {r : Fin 64} {fl : Flight} (signals : List Signal)
    (hfind : s.cp.flight.find? (fun x => decide (x.pk.fn = f) && decide (x.pk.ring = r) && decide (x.wait = .header)) = some fl)
    (htimeout : (s.ringAt f r).timeout ≠ 0) :
    exec (.headerWaitTimeout f r signals) s =
      .next (s.expire fl signals (fun t => t.headerReady fl.pk) (fun _ => { status := stTimeout, detail := 1 })) := by
  change execHeaderWaitTimeout f r signals s = _
  simp only [execHeaderWaitTimeout, hfind, htimeout, if_false]

/-- A SYNC_WAIT in flight with a TIMEOUT expires. -/
theorem exec_syncWaitTimeout_of_find {s : State} {id o v : Nat} {fl : Flight} (signals : List Signal)
    (hfind : s.cp.flight.find? (fun x => x.id == id) = some fl) (hwait : fl.wait = .sync o v) (htimeout : pkF fl.pk 20 4 ≠ 0) :
    exec (.syncWaitTimeout id signals) s =
      .next (s.expire fl signals (fun t => decide (v ≤ t.counter fl.pk.fn o))
        (fun t => { status := stTimeout, detail := 2, c0 := t.counter fl.pk.fn o })) := by
  change execSyncWaitTimeout id signals s = _
  simp only [execSyncWaitTimeout, hfind, hwait, htimeout, if_false]

/-- Settles O14: both timeouts are the expiry of the wait found, judged by the counters at the end of its cycle; a satisfied SYNC_WAIT is still in flight there, since signals change counters alone, so it is among the waits that reply. -/
theorem expiredWaitsEndWithTimeout : Obligations.ExpiredWaitsEndWithTimeout := by
  intro s signals fl
  constructor
  case left =>
    intro f r hfind htimeout
    rw [exec_headerWaitTimeout_of_find signals hfind htimeout]
    exact ⟨fun hunmet => congrArg _ (State.expire_of_unmet fl _ hunmet), fun hmet => congrArg _ (State.expire_of_met fl _ hmet)⟩
  case right =>
    intro id o v hfind hwait htimeout
    rw [exec_syncWaitTimeout_of_find signals hfind hwait htimeout]
    refine ⟨fun hunmet => congrArg _ (State.expire_of_unmet fl _ (decide_eq_false hunmet.not_ge)),
      fun hmet => ⟨?_, fun u => rfl, congrArg _ (State.expire_of_met fl _ (decide_eq_true hmet))⟩⟩
    have hmem : fl ∈ ((cycleSignals signals).1.foldl State.applySignal s).cp.flight := by
      rw [s.foldl_applySignal_flight]
      exact List.mem_of_find?_eq_some hfind
    exact State.mem_satisfiedWaits hmem hwait hmet

end Sys2Proof.Machine
end

section
/-! PROOFS. What every step keeps: memory in its canonical form, the fuses, the records that only advance, the queue and what was sent. -/

namespace Sys2Proof.Machine

/-- Every command keeps what no command undoes: its operation's own lemma, command by command. -/
theorem exec_keeps {a s : State} (h : Keeps a s) (c : Instr) : KeepsOut a (exec c s) := by
  cases c with
  | powerOn straps => exact execPowerOn_keeps h straps
  | powerLoss => exact execPowerLoss_keeps h
  | sysReset straps => exact execSysReset_keeps h straps
  | linkReset cause => exact execLinkReset_keeps h cause
  | pf0Flr => exact execPf0Flr_keeps h
  | flr vf => exact execFlr_keeps h vf
  | vfResetDone vf => exact execVfResetDone_keeps h vf
  | vfEnableChange enable numVFs => exact execVfEnableChange_keeps h enable numVFs
  | linkChange up width speed => exact execLinkChange_keeps h up width speed
  | l0sEntry => exact execL0sEntry_keeps h
  | l1Entry clkreqReleased ltrThresholdNs => exact execL1Entry_keeps h clkreqReleased ltrThresholdNs
  | thermtrip => exact execThermtrip_keeps h
  | slowClockTimeout => exact execSlowClockTimeout_keeps h
  | caskInserted media => exact execCaskInserted_keeps h media
  | caskRemoved => exact execCaskRemoved_keeps h
  | traceClaim resource => exact execTraceClaim_keeps h resource
  | traceRelease resource => exact execTraceRelease_keeps h resource
  | hwTrainingDone trained prbsOk readMargin writeMargin => exact execHwTrainingDone_keeps h trained prbsOk readMargin writeMargin
  | trainingFallbackDone ch readRun writeRun prbsOk => exact execTrainingFallbackDone_keeps h ch readRun writeRun prbsOk
  | tastingDone failures => exact execTastingDone_keeps h failures
  | dramScrubDone => exact execDramScrubDone_keeps h
  | slotTrialTimeout => exact execSlotTrialTimeout_keeps h
  | mpRestart => exact execMpRestart_keeps h
  | firmwareDelivery receivers => exact execFirmwareDelivery_keeps h receivers
  | firmwareChunk receiver component index data crc => exact execFirmwareChunk_keeps h receiver component index data crc
  | firmwareResendRound => exact execFirmwareResendRound_keeps h
  | receiverRelease receiver => exact execReceiverRelease_keeps h receiver
  | computeReset req => exact execComputeReset_keeps h req
  | cpAbortReplyTimeout => exact execCpAbortReplyTimeout_keeps h
  | readCompletionDrop => exact execReadCompletionDrop_keeps h
  | computeResetRestart => exact execComputeResetRestart_keeps h
  | sensorSample readings => exact execSensorSample_keeps h readings
  | thermalReleaseTick => exact execThermalReleaseTick_keeps h
  | thermalReturnTick => exact execThermalReturnTick_keeps h
  | accountingInterval energy => exact execAccountingInterval_keeps h energy
  | heartbeat cpAnswers celAnswers => exact execHeartbeat_keeps h cpAnswers celAnswers
  | logFlush => exact execLogFlush_keeps h
  | domainIdleExpiry domain => exact execDomainIdleExpiry_keeps h domain
  | domainSleepDone domain => exact execDomainSleepDone_keeps h domain
  | domainWakeDone domain ok => exact execDomainWakeDone_keeps h domain ok
  | pllLocked pll => exact execPllLocked_keeps h pll
  | pllStop pll => exact execPllStop_keeps h pll
  | dramRead line ecc => exact execDramRead_keeps h line ecc
  | dramWrite line data poison cls => exact execDramWrite_keeps h line data poison cls
  | refresh ch rank readMargin writeMargin moved => exact execRefresh_keeps h ch rank readMargin writeMargin moved
  | retrainHoldDone ch readMargin writeMargin => exact execRetrainHoldDone_keeps h ch readMargin writeMargin
  | dramTempPoll ch ranges => exact execDramTempPoll_keeps h ch ranges
  | caParityAlert ch => exact execCaParityAlert_keeps h ch
  | writeCrcAlert ch => exact execWriteCrcAlert_keeps h ch
  | writeCrcIntervalStart ch => exact execWriteCrcIntervalStart_keeps h ch
  | writeCrcIntervalEnd ch => exact execWriteCrcIntervalEnd_keeps h ch
  | patrolScrubLine ecc => exact execPatrolScrubLine_keeps h ecc
  | prechargePowerDown ch rank => exact execPrechargePowerDown_keeps h ch rank
  | patgenGo ch value => exact execPatgenGo_keeps h ch value
  | patgenDone ch errors firstLane => exact execPatgenDone_keeps h ch errors firstLane
  | doorbell fn ring tail => exact execDoorbell_keeps h fn ring tail
  | ringEnable fn ring ctrl => exact execRingEnable_keeps h fn ring ctrl
  | ringDisable fn ring ctrl => exact execRingDisable_keeps h fn ring ctrl
  | replyHeadWrite fn ring head => exact execReplyHeadWrite_keeps h fn ring head
  | resultRingEnable fn ctrl => exact execResultRingEnable_keeps h fn ctrl
  | resultRingDisable fn ctrl => exact execResultRingDisable_keeps h fn ctrl
  | resultHeadWrite fn head => exact execResultHeadWrite_keeps h fn head
  | windowEntryWrite fn index access => exact execWindowEntryWrite_keeps h fn index access
  | windowRead fn offset len => exact execWindowRead_keeps h fn offset len
  | windowWrite fn offset data => exact execWindowWrite_keeps h fn offset data
  | accessHoldTimeout => exact execAccessHoldTimeout_keeps h
  | registerWrite target value => exact execRegisterWrite_keeps h target value
  | rcRegisterRead path addr => exact execRcRegisterRead_keeps h path addr
  | latchedCounterRead addr high => exact execLatchedCounterRead_keeps h addr high
  | hostDmaDone id data => exact execHostDmaDone_keeps h id data
  | hostDmaError target => exact execHostDmaError_keeps h target
  | undefinedOpcode pk => exact execUndefinedOpcode_keeps h pk
  | headerWaitTimeout fn ring signals => exact execHeaderWaitTimeout_keeps h fn ring signals
  | syncWaitTimeout id signals => exact execSyncWaitTimeout_keeps h id signals
  | nop pk => exact execNop_keeps h pk
  | functionInfo pk => exact execFunctionInfo_keeps h pk
  | partitionCreate pk => exact execPartitionCreate_keeps h pk
  | partitionResize pk => exact execPartitionResize_keeps h pk
  | partitionDestroy pk => exact execPartitionDestroy_keeps h pk
  | folioLoad pk => exact execFolioLoad_keeps h pk
  | folioUnload pk => exact execFolioUnload_keeps h pk
  | pipelineCreate pk => exact execPipelineCreate_keeps h pk
  | pipelineDestroy pk => exact execPipelineDestroy_keeps h pk
  | accountRead pk => exact execAccountRead_keeps h pk
  | streamOpen pk => exact execStreamOpen_keeps h pk
  | feed pk => exact execFeed_keeps h pk
  | streamFlush pk => exact execStreamFlush_keeps h pk
  | streamReset pk => exact execStreamReset_keeps h pk
  | streamClose pk => exact execStreamClose_keeps h pk
  | snapshot pk => exact execSnapshot_keeps h pk
  | clipStart pk => exact execClipStart_keeps h pk
  | clipStop pk => exact execClipStop_keeps h pk
  | encodeKey pk => exact execEncodeKey_keeps h pk
  | pageSourceOpen pk => exact execPageSourceOpen_keeps h pk
  | submitPage pk => exact execSubmitPage_keeps h pk
  | pageSourceClose pk => exact execPageSourceClose_keeps h pk
  | textTableLoad pk => exact execTextTableLoad_keeps h pk
  | textTableUnload pk => exact execTextTableUnload_keeps h pk
  | tokenizeOpen pk => exact execTokenizeOpen_keeps h pk
  | tokenizeFeed pk => exact execTokenizeFeed_keeps h pk
  | tokenizeClose pk => exact execTokenizeClose_keeps h pk
  | syncSignal pk => exact execSyncSignal_keeps h pk
  | syncWait pk => exact execSyncWait_keeps h pk
  | syncRead pk => exact execSyncRead_keeps h pk
  | binFree pk => exact execBinFree_keeps h pk
  | binShare pk => exact execBinShare_keeps h pk
  | binCount pk => exact execBinCount_keeps h pk
  | binTake pk => exact execBinTake_keeps h pk
  | dmaIn pk => exact execDmaIn_keeps h pk
  | dmaOut pk => exact execDmaOut_keeps h pk
  | identityStatus req => exact execIdentityStatus_keeps h req
  | logRead req => exact execLogRead_keeps h req
  | sensorRead req => exact execSensorRead_keeps h req
  | functionReset req => exact execFunctionReset_keeps h req
  | domainPowerOff req => exact execDomainPowerOff_keeps h req
  | domainPowerOn req => exact execDomainPowerOn_keeps h req
  | forcedShutdown req => exact execForcedShutdown_keeps h req
  | resetPolicy req => exact execResetPolicy_keeps h req
  | defectRead req => exact execDefectRead_keeps h req
  | stage req => exact execStage_keeps h req
  | activate req => exact execActivate_keeps h req
  | commitSvn req => exact execCommitSvn_keeps h req
  | boardRecord req => exact execBoardRecord_keeps h req
  | keyEnroll req => exact execKeyEnroll_keeps h req
  | keyRemove req => exact execKeyRemove_keeps h req
  | attest req => exact execAttest_keeps h req
  | caskStatus req => exact execCaskStatus_keeps h req
  | caskList req => exact execCaskList_keeps h req
  | caskWrite req => exact execCaskWrite_keeps h req
  | caskDelete req => exact execCaskDelete_keeps h req
  | pair req => exact execPair_keeps h req
  | unpair req => exact execUnpair_keeps h req
  | paramLo pecOk data => exact execParamLo_keeps h pecOk data
  | paramHi pecOk data => exact execParamHi_keeps h pecOk data
  | status pecOk => exact execStatus_keeps h pecOk
  | respLo pecOk => exact execRespLo_keeps h pecOk
  | respHi pecOk => exact execRespHi_keeps h pecOk
  | alertAck pecOk value => exact execAlertAck_keeps h pecOk value
  | sidebandReset => exact execSidebandReset_keeps h
  | recordCommit fn producer type prio body => exact execRecordCommit_keeps h fn producer type prio body
  | recordDrain fn badWord descriptorBad => exact execRecordDrain_keeps h fn badWord descriptorBad
  | resultIrqDelay fn => exact execResultIrqDelay_keeps h fn
  | placementDecision run quire => exact execPlacementDecision_keeps h run quire
  | drrGrant pool => exact execDrrGrant_keeps h pool
  | quireIssue core => exact execQuireIssue_keeps h core
  | quireComplete core => exact execQuireComplete_keeps h core
  | quireOutcome core => exact execQuireOutcome_keeps h core
  | quireLong core => exact execQuireLong_keeps h core
  | quireWatchdog core => exact execQuireWatchdog_keeps h core
  | preemptionRequest run quire => exact execPreemptionRequest_keeps h run quire
  | preemptionRackOutDone core => exact execPreemptionRackOutDone_keeps h core
  | preemptionTransferDone core duration => exact execPreemptionTransferDone_keeps h core duration
  | rackMove tensor dest destAddr => exact execRackMove_keeps h tensor dest destAddr
  | rackMoveDone tensor ecc => exact execRackMoveDone_keeps h tensor ecc
  | regulatorRefill part bucket => exact execRegulatorRefill_keeps h part bucket
  | ctrlNop core => exact execCtrlNop_keeps h core
  | endQuire core => exact execEndQuire_keeps h core
  | fence core => exact execFence_keeps h core
  | mark core value => exact execMark_keeps h core value
  | geom core slotMask index window => exact execGeom_keeps h core slotMask index window
  | wload core binding plane diag s2 offset ecc => exact execWload_keeps h core binding plane diag s2 offset ecc
  | weightShadowLoaded core => exact execWeightShadowLoaded_keeps h core
  | slot core slot binding plane p chain p0 => exact execSlot_keeps h core slot binding plane p chain p0
  | pass core slotMask neww bank opening block faults ecc => exact execPass_keeps h core slotMask neww bank opening block faults ecc
  | flush core slotMask bank shift convert chain outBinding colTile accSet ecc => exact execFlush_keeps h core slotMask bank shift convert chain outBinding colTile accSet ecc
  | epilogueWriteDone core => exact execEpilogueWriteDone_keeps h core
  | laneAdd a => exact execLaneAdd_keeps h a
  | laneSub a => exact execLaneSub_keeps h a
  | laneAdds a => exact execLaneAdds_keeps h a
  | laneSubs a => exact execLaneSubs_keeps h a
  | laneMin a => exact execLaneMin_keeps h a
  | laneMax a => exact execLaneMax_keeps h a
  | laneCmpeq a => exact execLaneCmpeq_keeps h a
  | laneCmplt a => exact execLaneCmplt_keeps h a
  | laneSel a => exact execLaneSel_keeps h a
  | laneAnd a => exact execLaneAnd_keeps h a
  | laneOr a => exact execLaneOr_keeps h a
  | laneXor a => exact execLaneXor_keeps h a
  | laneShl a => exact execLaneShl_keeps h a
  | laneShr a => exact execLaneShr_keeps h a
  | laneShrt a => exact execLaneShrt_keeps h a
  | laneAdd32 a => exact execLaneAdd32_keeps h a
  | laneSub32 a => exact execLaneSub32_keeps h a
  | laneMul a => exact execLaneMul_keeps h a
  | laneMac32 a => exact execLaneMac32_keeps h a
  | laneExp2n a => exact execLaneExp2n_keeps h a
  | laneRecip a => exact execLaneRecip_keeps h a
  | laneSum32 a => exact execLaneSum32_keeps h a
  | laneMaxReduction a => exact execLaneMaxReduction_keeps h a
  | laneMinReduction a => exact execLaneMinReduction_keeps h a
  | laneSort32 a => exact execLaneSort32_keeps h a
  | laneMerge a => exact execLaneMerge_keeps h a
  | laneLoad a => exact execLaneLoad_keeps h a
  | laneStore a => exact execLaneStore_keeps h a
  | laneGather a => exact execLaneGather_keeps h a
  | laneScatter a => exact execLaneScatter_keeps h a
  | lanePerm a => exact execLanePerm_keeps h a
  | laneStats a => exact execLaneStats_keeps h a
  | laneConvert a => exact execLaneConvert_keeps h a
  | laneSplit a => exact execLaneSplit_keeps h a
  | laneRecompose a => exact execLaneRecompose_keeps h a
  | laneSetcnt a => exact execLaneSetcnt_keeps h a
  | laneSetmask a => exact execLaneSetmask_keeps h a
  | pictureParse stream pic => exact execPictureParse_keeps h stream pic
  | pictureDispatch stream decSeq engine => exact execPictureDispatch_keeps h stream decSeq engine
  | pictureDecoded stream decSeq cycles report => exact execPictureDecoded_keeps h stream decSeq cycles report
  | decodeBudgetExpiry stream decSeq inUnit report => exact execDecodeBudgetExpiry_keeps h stream decSeq inUnit report
  | prepQuantise stream decSeq unit => exact execPrepQuantise_keeps h stream decSeq unit
  | prepPictureDone job unit => exact execPrepPictureDone_keeps h job unit
  | batchWaitExpiry batch => exact execBatchWaitExpiry_keeps h batch
  | detectionFinish stream decSeq => exact execDetectionFinish_keeps h stream decSeq
  | cropJob job unit => exact execCropJob_keeps h job unit
  | cropJobDone job => exact execCropJobDone_keeps h job
  | trackUpdate stream => exact execTrackUpdate_keeps h stream
  | encodePictureDone encoder session decSeq bytes cycles endChunk => exact execEncodePictureDone_keeps h encoder session decSeq bytes cycles endChunk
  | snapshotDone scan cycles => exact execSnapshotDone_keeps h scan cycles
  | pageHeaderParsed page hdr => exact execPageHeaderParsed_keeps h page hdr
  | bandDone page result => exact execBandDone_keeps h page result
  | pageBudgetExpiry page rows dataBytes => exact execPageBudgetExpiry_keeps h page rows dataBytes
  | lineFinish page => exact execLineFinish_keeps h page
  | stepRelease read => exact execStepRelease_keeps h read
  | decodeStep batch => exact execDecodeStep_keeps h batch
  | maskUpdate read => exact execMaskUpdate_keeps h read
  | maskReady read => exact execMaskReady_keeps h read
  | tokenSelect read => exact execTokenSelect_keeps h read
  | perstNRising => exact execPerstNRising_keeps h
  | mpOperationStep => exact execMpOperationStep_keeps h
  | entdaa address => exact execEntdaa_keeps h address

/-- Taking the front command off the queue touches nothing else that a step keeps. -/
theorem step_keeps {s t : State} (h : step s = .next t) :
    Keeps { s with pending := s.pending.tail } t := by
  cases hq : s.pending with
  | nil =>
    simp only [step, hq] at h
    cases h
    exact (Keeps.refl _).same hq rfl rfl rfl rfl rfl rfl rfl rfl rfl rfl rfl
  | cons c rest =>
    simp only [step, hq] at h
    exact exec_keeps (Keeps.refl _) c t h

/-- Settles O55: every command keeps the memory's form, and taking a command from the queue does not touch memory. -/
theorem everyStepKeepsMemoryCanonical : Obligations.EveryStepKeepsMemoryCanonical :=
  fun _ _ hwf hstep => (step_keeps hstep).mem hwf

/-- Settles O56: what a command keeps, read field by field from the state whose front command is taken. -/
theorem fusesAndRecordsOnlyAdvance : Obligations.FusesAndRecordsOnlyAdvance := by
  intro s t hstep
  have hkeeps := step_keeps hstep
  exact ⟨hkeeps.fuses, hkeeps.hash0, hkeeps.hash1, hkeeps.defects, hkeeps.svn, hkeeps.leaf, hkeeps.pending, hkeeps.outbox⟩

end Sys2Proof.Machine
end

section
/-! PROOFS. A packet fetched now whose checks pass runs its body at once (R304, R308, R310, R313), and the packets that answer from the sync unit, the bins and host memory (R316, R318, R322, R340 to R342, R350 to R352). -/

namespace Sys2Proof.Machine

variable {s : State} {pk : Packet}

/-! ### Running a packet -/

/-- A packet that runs is fetched and its body goes on, or ends, from there. -/
theorem State.runPacket_of_runs {op : Nat} (h : s.runs op pk) :
    s.runPacket op pk [] = ((s.fetched pk []).packetBody (s.entry pk)).settle := by
  obtain ⟨hop, hsend, hfetch, hchecks, hready, hstart⟩ := h
  simp [State.runPacket, State.startPacket, State.entry, hop, hsend, hfetch, hchecks, hready, hstart]

/-- The command of a packet that runs answers what the body of its opcode comes to: the two facts about the opcode hold by looking at `exec` and `State.packetBody`. -/
theorem exec_packet_of_runs {op : Nat} {i : Instr} {body : State → Flight → State} (h : s.runs op pk)
    (hexec : exec i s = .next (s.runPacket op pk []) := by rfl)
    (hbody : ∀ t fl, fl.pk.opcode = op → State.packetBody t fl = body t fl := by
      intro t fl hop; simp only [State.packetBody, hop]) :
    exec i s = goesOn (body (s.fetched pk []) (s.entry pk)) := by
  rw [hexec, State.runPacket_of_runs h, hbody _ _ h.1]
  rfl

/-- Settles O11: the opcode's sender is wrong, so the packet is fetched and ended at once. -/
theorem undefinedOpcodeAnswersBadOpcode : Obligations.UndefinedOpcodeAnswersBadOpcode := by
  intro s pk hsend hfetch
  change execUndefinedOpcode pk s = _
  simp only [execUndefinedOpcode, State.runUndefined, hsend, hfetch]
  rfl

/-! ### The bodies of the sync packets (R340 to R342) -/

section Bodies

variable {t : State} {fl : Flight}

theorem bodySyncSignal_add (hobj : pkF fl.pk 16 2 < t.syncObjects fl.pk.fn) (hmode : pkF fl.pk 18 1 = 0) :
    bodySyncSignal t fl =
      (t.setCounter fl.pk.fn (pkF fl.pk 16 2) (min (t.counter fl.pk.fn (pkF fl.pk 16 2) + pkF fl.pk 24 8) (2 ^ 64 - 1))).endPacket fl
        { status := stOk, detail := if 2 ^ 64 ≤ t.counter fl.pk.fn (pkF fl.pk 16 2) + pkF fl.pk 24 8 then 1 else 0,
          c0 := min (t.counter fl.pk.fn (pkF fl.pk 16 2) + pkF fl.pk 24 8) (2 ^ 64 - 1) } := by
  simp [bodySyncSignal, syncSum, b2n, hobj.not_ge, hmode]

theorem bodySyncSignal_set (hobj : pkF fl.pk 16 2 < t.syncObjects fl.pk.fn) (hmode : pkF fl.pk 18 1 = 1) :
    bodySyncSignal t fl =
      (t.setCounter fl.pk.fn (pkF fl.pk 16 2) (pkF fl.pk 24 8)).endPacket fl { status := stOk, c0 := pkF fl.pk 24 8 } := by
  simp [bodySyncSignal, hobj.not_ge, hmode]

theorem bodySyncWait_met (hobj : pkF fl.pk 16 2 < t.syncObjects fl.pk.fn) (hmet : pkF fl.pk 24 8 ≤ t.counter fl.pk.fn (pkF fl.pk 16 2)) :
    bodySyncWait t fl = t.endPacket fl { status := stOk, c0 := t.counter fl.pk.fn (pkF fl.pk 16 2) } := by
  simp [bodySyncWait, hobj.not_ge, hmet]

theorem bodySyncWait_unmet (hobj : pkF fl.pk 16 2 < t.syncObjects fl.pk.fn) (hmet : t.counter fl.pk.fn (pkF fl.pk 16 2) < pkF fl.pk 24 8) :
    bodySyncWait t fl = t.setWait fl (fun x => { x with wait := .sync (pkF fl.pk 16 2) (pkF fl.pk 24 8) }) := by
  simp [bodySyncWait, hobj.not_ge, hmet.not_ge]

theorem bodySyncRead_ok (hobj : pkF fl.pk 16 2 < t.syncObjects fl.pk.fn) :
    bodySyncRead t fl = t.endPacket fl { status := stOk, c0 := t.counter fl.pk.fn (pkF fl.pk 16 2) } := by
  simp [bodySyncRead, hobj.not_ge]

/-! ### The bodies of the bin packets (R350 to R352) -/

theorem bodyBinFree_ok {k : Nat} (hbuf : t.namedBuf fl.pk.fn (pkF fl.pk 16 8) = .ok k) (hown : t.finalOwner k = fl.pk.fn) :
    bodyBinFree t fl = (t.returnBuf k).endPacket fl { status := stOk } := by
  simp only [bodyBinFree, hbuf, hown, if_true, State.endWith]

theorem bodyBinShare_ok {k : Nat} (hfields : shareChecks fl.pk = none) (hbuf : t.namedBuf fl.pk.fn (pkF fl.pk 16 8) = .ok k)
    (hown : t.finalOwner k = fl.pk.fn) (hfree : t.shareFree fl.pk = none) :
    bodyBinShare t fl = (t.setBuf k (fun b => { b with
      hold := .host ((pkOwners fl.pk).filter (fun o => decide (o ≠ 0))) ((pkOwners fl.pk).getD (pkF fl.pk 28 1) 0) })).endPacket fl
        { status := stOk } := by
  simp only [bodyBinShare, hfields, hbuf, hown, hfree, ne_eq, not_true_eq_false, if_false, State.endWith]

theorem State.binPick_of_free {p b k : Nat} (hsmall : b ≤ 67108864) (hfree : t.freeBuf p (binFor b) = some k) : t.binPick p b = .ok k := by
  have hsize : binFor b < 8 := by
    have hfits : decide (b ≤ binSize 7) = true := decide_eq_true hsmall
    unfold binFor
    cases hfind : (List.range 8).find? (fun i => decide (b ≤ binSize i)) with
    | none => exact absurd hfits (List.find?_eq_none.mp hfind 7 (by decide))
    | some i => exact List.mem_range.mp (List.mem_of_find?_eq_some hfind)
  simp only [State.binPick, hfree, if_neg (Nat.not_le.mpr hsize)]

theorem bodyBinTake_ok {k : Nat} (hlow : 1 ≤ pkF fl.pk 16 4) (hhigh : pkF fl.pk 16 4 ≤ 67108864)
    (hfree : t.freeBuf fl.pk.fn (binFor (pkF fl.pk 16 4)) = some k) :
    bodyBinTake t fl = (t.handBuf k).endPacket fl { status := stOk, c0 := t.bufHandle k } := by
  have hrange : ¬(pkF fl.pk 16 4 = 0 ∨ 67108864 < pkF fl.pk 16 4) := by omega
  simp only [bodyBinTake, if_neg hrange, State.binPick_of_free hhigh hfree]

/-! ### DMA_IN and DMA_OUT (R322, R375) -/

theorem State.dmaChecks_ok {p : Packet} {k : Nat} (hlow : 1 ≤ pkF p 36 4) (hhigh : pkF p 36 4 ≤ 67108864)
    (hbuf : t.namedBuf p.fn (pkF p 24 8) = .ok k) (hfits : pkF p 32 4 + pkF p 36 4 ≤ binSize (keySize k)) : t.dmaChecks p = .ok k := by
  have hrange : ¬(pkF p 36 4 = 0 ∨ 67108864 < pkF p 36 4) := by omega
  simp only [State.dmaChecks, if_neg hrange, hbuf, if_neg hfits.not_gt]

theorem bodyDmaIn_ok {k : Nat} (hchecks : t.dmaChecks fl.pk = .ok k) :
    bodyDmaIn t fl = t.dmaRead fl (pkF fl.pk 16 8) (pkF fl.pk 36 4) true [k] := by
  simp only [bodyDmaIn, hchecks]

theorem bodyDmaOut_ok {k : Nat} (hchecks : t.dmaChecks fl.pk = .ok k) :
    bodyDmaOut t fl = t.dmaOutFrom fl (t.bufAddr k) (t.bufAddr k + pkF fl.pk 32 4) (pkF fl.pk 36 4) := by
  simp only [bodyDmaOut, hchecks]

theorem State.dmaOutFrom_clean {base a n : Nat} (h : t.firstPoison a n = none) :
    t.dmaOutFrom fl base a n = (t.dmaWrite fl (pkF fl.pk 16 8) (t.bytesAt a n)).setWait fl (fun x => { x with aux := [n] }) := by
  simp only [State.dmaOutFrom, h]

theorem State.dmaOutFrom_poisoned {base a n b : Nat} (h : t.firstPoison a n = some b) :
    t.dmaOutFrom fl base a n = (t.emit (.hostWrite fl.pk.fn (pkF fl.pk 16 8) (t.bytesAt a (b - a)))).endPacket fl
      { status := stDataPoisoned, c0 := b - a, c1 := b / 64 * 64 - base } := by
  simp only [State.dmaOutFrom, h]

end Bodies

/-- Settles O1: each body's case, read on the state that has fetched the packet, whose counters are those of the state before. -/
theorem syncPacketsAnswer : Obligations.SyncPacketsAnswer := by
  intro s pk
  refine ⟨fun h => ?nop, fun h hobj hmode => ?add, fun h hobj hmode => ?set, fun h hobj hmet => ?met, fun h hobj hmet => ?unmet, fun h hobj => ?read⟩
  case nop => exact exec_packet_of_runs (body := bodyNop) h
  case add => exact (exec_packet_of_runs h).trans (congrArg goesOn (bodySyncSignal_add hobj hmode))
  case set => exact (exec_packet_of_runs h).trans (congrArg goesOn (bodySyncSignal_set hobj hmode))
  case met => exact (exec_packet_of_runs h).trans (congrArg goesOn (bodySyncWait_met hobj hmet))
  case unmet => exact (exec_packet_of_runs h).trans (congrArg goesOn (bodySyncWait_unmet hobj hmet))
  case read => exact (exec_packet_of_runs h).trans (congrArg goesOn (bodySyncRead_ok hobj))

/-- Settles O2: each body's successful case on the state that has fetched the packet; `State.binPick_of_free` finds BIN_TAKE its buffer. -/
theorem binPacketsAnswer : Obligations.BinPacketsAnswer := by
  intro s pk
  refine ⟨fun k h hbuf hown => ?free, fun k h hfields hbuf hown hfree => ?share, fun h => ?count, fun k h hlow hhigh hfree => ?take⟩
  case free => exact (exec_packet_of_runs h).trans (congrArg goesOn (bodyBinFree_ok hbuf hown))
  case share => exact (exec_packet_of_runs h).trans (congrArg goesOn (bodyBinShare_ok hfields hbuf hown hfree))
  case count => exact exec_packet_of_runs (body := bodyBinCount) h
  case take => exact (exec_packet_of_runs h).trans (congrArg goesOn (bodyBinTake_ok hlow hhigh hfree))

/-! ### The blocks that FUNCTION_INFO and ACCOUNT_READ write to host memory (R318, R320) -/

theorem bodyAccountRead_self {t : State} {fl : Flight} (hkind : pkF fl.pk 16 1 = 0) :
    bodyAccountRead t fl = t.dmaWrite fl (pkF fl.pk 24 8) (t.acctBytes fl.pk.fn) := by
  simp only [bodyAccountRead, hkind, Nat.not_lt_zero, if_false, if_true]

theorem bodyAccountRead_client {t : State} {fl : Flight} {r : Nat} (hlow : 1 ≤ pkF fl.pk 16 1) (hhigh : pkF fl.pk 16 1 ≤ 3)
    (hclient : t.clientOf fl.pk.fn (pkF fl.pk 16 1) (pkF fl.pk 20 4) = some r) :
    bodyAccountRead t fl = t.dmaWrite fl (pkF fl.pk 24 8) (t.acctBytes r) := by
  have hkind : pkF fl.pk 16 1 ≠ 0 := by omega
  simp only [bodyAccountRead, if_neg hhigh.not_gt, if_neg hkind, hclient]

/-- Settles O3: a copy's checks pass, so its read or write begins; a poisoned line cuts DMA_OUT's write short. -/
theorem hostTransferPacketsBegin : Obligations.HostTransferPacketsBegin := by
  intro s pk
  refine ⟨fun k h hlow hhigh hbuf hfits => ?dmaIn, fun k h hlow hhigh hbuf hfits hclean => ?clean,
    fun k b h hlow hhigh hbuf hfits hpoison => ?poisoned, fun h => ?info, fun h hkind => ?self, fun r h hlow hhigh hclient => ?client⟩
  case dmaIn => exact (exec_packet_of_runs h).trans (congrArg goesOn (bodyDmaIn_ok (State.dmaChecks_ok hlow hhigh hbuf hfits)))
  case clean =>
    refine (exec_packet_of_runs (body := bodyDmaOut) h).trans (congrArg goesOn ?_)
    exact (bodyDmaOut_ok (State.dmaChecks_ok hlow hhigh hbuf hfits)).trans (State.dmaOutFrom_clean hclean)
  case poisoned =>
    refine (exec_packet_of_runs (body := bodyDmaOut) h).trans (congrArg goesOn ?_)
    exact (bodyDmaOut_ok (State.dmaChecks_ok hlow hhigh hbuf hfits)).trans (State.dmaOutFrom_poisoned hpoison)
  case info => exact exec_packet_of_runs (body := bodyFunctionInfo) h
  case self => exact (exec_packet_of_runs h).trans (congrArg goesOn (bodyAccountRead_self hkind))
  case client => exact (exec_packet_of_runs h).trans (congrArg goesOn (bodyAccountRead_client hlow hhigh hclient))

end Sys2Proof.Machine
end

section
/-! PROOFS. The step over the queue (log 1), the state at the power-on reset, and the claim registers (R484). -/

namespace Sys2Proof.Machine

theorem step_of_pending {s : State} {c : Instr} {rest : List Instr} (h : s.pending = c :: rest) :
    step s = exec c { s with pending := rest } := by
  simp only [step, h]

theorem step_of_idle {s : State} (h : s.pending = []) : step s = .next s := by
  simp only [step, h]

/-- Settles O51: the two cases of the queue; a command put in front is taken off again. -/
theorem stepRunsFrontCommand : Obligations.StepRunsFrontCommand :=
  fun s => ⟨fun _ _ h => step_of_pending h, step_of_idle, fun c => step_of_pending (s := { s with pending := c :: s.pending }) rfl⟩

/-- Settles O52: every register stands at its default, and a table with no entry reads as the default of its entries. -/
theorem powerOnResetState : Obligations.PowerOnResetState := by
  refine ⟨reset_mem_wf, by decide, by decide, rfl, rfl, rfl, rfl, fun _ _ => ⟨rfl, rfl⟩, fun _ => ⟨rfl, rfl, rfl⟩, fun _ => rfl, fun _ _ => rfl,
    rfl, rfl, rfl, rfl, rfl, rfl, rfl, fun _ => ⟨rfl, rfl, rfl⟩⟩

/-! ### The claim registers (R484) -/

/-- The word of resource n's claim register: HELD over the holder's code. -/
theorem State.blockWord_claim (s : State) (spine : Bool) {n : Nat} (hn : n < 16) :
    s.blockWord spine .mgt (0x100 + 4 * n) = atBit (decide (tget 0 s.mgt.claims n ≠ 0)) 31 + tget 0 s.mgt.claims n := by
  change s.mgtWord (0x100 + 4 * n) = _
  have hofs : 0x100 ≤ 0x100 + 4 * n ∧ 0x100 + 4 * n < 0x140 ∧ (0x100 + 4 * n) % 4 = 0 := by omega
  have hres : (0x100 + 4 * n - 0x100) / 4 = n := by omega
  unfold State.mgtWord
  split
  case h_17 => rw [if_pos hofs, hres]
  all_goals omega

/-- The host's write of a claim register finds no field (R494). -/
theorem State.writeWord_claim (s : State) (n : Nat) (v : BitVec 32) : s.writeWord false .mgt (0x100 + 4 * n) v = s := by
  unfold State.writeWord
  split <;> simp_all

/-- Settles O60: the register's word is HELD in bit 31 over a code below 2^8. -/
theorem claimRegistersReportHolders : Obligations.ClaimRegistersReportHolders := by
  rintro s spine n h hn rfl hcode
  rw [s.blockWord_claim spine hn]
  refine ⟨?_, ?_, ?_, s.writeWord_claim n⟩
  all_goals
    by_cases hfree : tget 0 s.mgt.claims n = 0
    · simp [hfree, atBit, bitsOf, bitOf, b2n]
    · simp only [atBit, bitsOf, bitOf, b2n, hfree, ne_eq, not_false_eq_true, decide_true, if_true, beq_iff_eq, iff_true]
      omega

end Sys2Proof.Machine
end

section
/-! PROOFS. Writes of bytes into the address space (R10, R18, R74, R361, R372, R374): which bytes and poison tags they change, and that they change nothing but the memory. -/

namespace Sys2Proof.Machine

/-! ### A filtered store, and lost ranges with a hole cut in them -/

/-- What a store reads once the keys that fail a test are gone. -/
theorem tget_filter_key {α : Type} (d : α) (t : Tbl α) (p : Nat → Bool) (j : Nat) :
    tget d (t.filter (fun e => p e.1)) j = if p j = true then tget d t j else d := by
  induction t with
  | nil => simp [tget]
  | cons e t ih =>
    obtain ⟨k, v⟩ := e
    by_cases hkj : k = j
    · subst hkj
      by_cases hp : p k = true
      · simp [hp, tget]
      · simpa [List.filter_cons, hp] using ih
    · by_cases hp : p k = true
      · simpa [List.filter_cons, hp, tget, hkj] using ih
      · simpa [List.filter_cons, hp, tget, hkj] using ih

/-- The lost range that an address lies in (log 4). -/
def lostAt (l : List (Nat × Nat × Nat)) (a : Nat) : Option (Nat × Nat × Nat) := l.find? (fun r => decide (r.1 ≤ a) && decide (a < r.2.1))

/-- The ranges left of one range around a hole. -/
def carveOne (lo hi : Nat) (r : Nat × Nat × Nat) : List (Nat × Nat × Nat) :=
  (if r.1 < min r.2.1 lo then [(r.1, min r.2.1 lo, r.2.2)] else []) ++ (if max r.1 hi < r.2.1 then [(max r.1 hi, r.2.1, r.2.2)] else [])

/-- What is left of a range covers the addresses it covered outside the hole, and keeps its loss. -/
theorem lostAt_carveOne (lo hi a : Nat) (r : Nat × Nat × Nat) :
    (lostAt (carveOne lo hi r) a).map (·.2.2) = if (r.1 ≤ a ∧ a < r.2.1) ∧ ¬(lo ≤ a ∧ a < hi) then some r.2.2 else none := by
  obtain ⟨x, y, e⟩ := r
  simp only [carveOne, lostAt]
  by_cases hleft : x < min y lo <;> by_cases hright : max x hi < y <;>
    simp only [hleft, hright, if_true, if_false, List.nil_append, List.append_nil, List.cons_append, List.find?_cons, List.find?_nil] <;>
    grind

/-- The loss of an address outside the hole stands, and an address in the hole is lost no more. -/
theorem lostAt_carve (lo hi a : Nat) (l : List (Nat × Nat × Nat)) :
    (lostAt (carve lo hi l) a).map (·.2.2) = if lo ≤ a ∧ a < hi then none else (lostAt l a).map (·.2.2) := by
  induction l with
  | nil => simp [carve, lostAt]
  | cons r l ih =>
    have hsplit : carve lo hi (r :: l) = carveOne lo hi r ++ carve lo hi l := rfl
    have hone := lostAt_carveOne lo hi a r
    rw [hsplit]
    simp only [lostAt, List.find?_append, List.find?_cons] at ih hone ⊢
    grind

/-! ### What a write leaves unchanged -/

/-- A write changes nothing but the memory. -/
theorem State.writeRaw_frame (s : State) (a : Nat) (bs : List Byte) : s.writeRaw a bs = { s with mem := (s.writeRaw a bs).mem } := by
  unfold State.writeRaw
  split <;> rfl

theorem State.writeRaw_epoch (s : State) (a : Nat) (bs : List Byte) : (s.writeRaw a bs).mem.epoch = s.mem.epoch := by
  unfold State.writeRaw
  split <;> rfl

theorem State.foldl_writeRaw_frame (l : List (Nat × List Byte)) (s : State) :
    l.foldl (fun t g => t.writeRaw g.1 g.2) s = { s with mem := (l.foldl (fun t g => t.writeRaw g.1 g.2) s).mem } := by
  induction l generalizing s with
  | nil => rfl
  | cons g l ih =>
    rw [List.foldl_cons, ih, s.writeRaw_frame]

theorem State.writeMem_frame (s : State) (a : Nat) (bs : List Byte) : s.writeMem a bs = { s with mem := (s.writeMem a bs).mem } :=
  State.foldl_writeRaw_frame _ s

theorem State.writeOutside_frame (s : State) (a : Nat) (bs : List Byte) : s.writeOutside a bs = { s with mem := (s.writeOutside a bs).mem } := by
  unfold State.writeOutside
  rw [s.writeMem_frame]

theorem State.writeMem_epoch (s : State) (a : Nat) (bs : List Byte) : (s.writeMem a bs).mem.epoch = s.mem.epoch := by
  refine List.foldlRecOn (motive := fun t : State => t.mem.epoch = s.mem.epoch) _ _ rfl fun t ht g _ => ?_
  exact (t.writeRaw_epoch g.1 g.2).trans ht

/-! ### The channel of an address (R18, R361, R372) -/

/-- Whether an address lies in a FAILED channel is a matter of its 256-byte granule. -/
theorem State.failedAt_granule (s : State) {a b : Nat} (h : a / 256 = b / 256) : s.failedAt a = s.failedAt b := by
  have hdram : s.dramBytes % 256 = 0 := by
    unfold State.dramBytes
    exact Nat.mod_eq_zero_of_dvd ((by decide : 256 ∣ 2 ^ 30).mul_right _)
  have hregion : ∀ x, s.regionOf x = .dram ↔ x < s.dramBytes := by
    intro x
    unfold State.regionOf
    split
    next hx => simp [hx]
    next hx => simp only [hx, iff_false]; split_ifs <;> simp
  have hside : (a < s.dramBytes) ↔ (b < s.dramBytes) := by omega
  have hchan : s.channelOf a = s.channelOf b := by simp only [State.channelOf, interleave, h]
  simp only [State.failedAt, hregion, hside, hchan]

/-! ### The bytes and tags of a write within one granule -/

/-- A byte as a reader sees it, by the channel, the loss and the stored byte of its address. -/
theorem State.byteAt_eq (s : State) (b : Nat) : s.byteAt b = if s.failedAt b = true then 0 else
    ((lostAt s.mem.undef b).map (·.2.2)).elim (tget 0 s.mem.cells b) (fun e => Config.freeByte e b) := by
  unfold State.byteAt lostAt
  split
  · rfl
  · cases s.mem.undef.find? (fun r => decide (r.1 ≤ b) && decide (b < r.2.1)) <;> rfl

/-- Within one granule a write puts its bytes where its channel is not FAILED, and touches no other. -/
theorem State.byteAt_writeRaw (s : State) {a : Nat} {bs : List Byte} (hwf : s.mem.wf = true)
    (hgran : ∀ i, i < bs.length → (a + i) / 256 = a / 256) (b : Nat) :
    (s.writeRaw a bs).byteAt b =
      if a ≤ b ∧ b < a + bs.length then (if s.failedAt b = true then 0 else bs.getD (b - a) 0) else s.byteAt b := by
  have hcells : twf 0 s.mem.cells = true := ((Bool.and_eq_true _ _).mp hwf).1
  have hsame : (s.writeRaw a bs).failedAt b = s.failedAt b := by rw [s.writeRaw_frame]; rfl
  have hfail : a ≤ b ∧ b < a + bs.length → s.failedAt b = s.failedAt a := by
    intro hin
    refine s.failedAt_granule ?_
    have := hgran (b - a) (by omega)
    rwa [Nat.add_sub_cancel' hin.1] at this
  rw [State.byteAt_eq, hsame, s.byteAt_eq b]
  unfold State.writeRaw
  by_cases hskip : (bs.isEmpty || s.failedAt a) = true
  · rw [if_pos hskip]
    by_cases hin : a ≤ b ∧ b < a + bs.length
    · have hempty : bs.isEmpty = false := by
        rw [List.isEmpty_eq_false_iff]
        rintro rfl
        simp only [List.length_nil] at hin
        omega
      rw [hempty, Bool.false_or, ← hfail hin] at hskip
      simp only [hskip, if_true, ite_self]
    · rw [if_neg hin]
  · rw [if_neg hskip]
    simp only [lostAt_carve, tget_putBytes _ _ _ _ hcells]
    by_cases hin : a ≤ b ∧ b < a + bs.length
    · simp only [if_pos hin]
      rfl
    · simp only [if_neg hin]

/-- A write clears the tags of the lines it holds whole, unless their channel is FAILED. -/
theorem State.poison_writeRaw (s : State) (a : Nat) (bs : List Byte) (l : Nat) :
    tget false (s.writeRaw a bs).mem.poison l =
      if (a ≤ 64 * l ∧ 64 * l + 64 ≤ a + bs.length) ∧ s.failedAt a = false then false else tget false s.mem.poison l := by
  unfold State.writeRaw
  by_cases hskip : (bs.isEmpty || s.failedAt a) = true
  · rw [if_pos hskip, if_neg]
    rintro ⟨⟨hlow, hhigh⟩, hfail⟩
    rw [hfail, Bool.or_false, List.isEmpty_iff] at hskip
    subst hskip
    simp at hhigh
    omega
  · rw [if_neg hskip]
    simp only [Bool.or_eq_true, not_or, Bool.not_eq_true] at hskip
    rw [tget_filter_key false s.mem.poison (fun k => !(decide (a ≤ k * 64) && decide (k * 64 + 64 ≤ a + bs.length))) l]
    simp only [hskip.2, and_true, Nat.mul_comm l 64]
    by_cases hin : a ≤ 64 * l ∧ 64 * l + 64 ≤ a + bs.length
    · simp [hin.1, hin.2]
    · rw [if_neg hin, if_pos]
      simp only [Bool.not_eq_true', Bool.and_eq_false_iff, decide_eq_false_iff_not]
      omega

/-! ### A write over several granules -/

/-- What u is after a write of bs at a: the bytes written, the tags of the lines written whole, and all else as in s. -/
structure Written (s u : State) (a : Nat) (bs : List Byte) : Prop where
  frame : u = { s with mem := u.mem }
  wf : u.mem.wf = true
  byte : ∀ b, u.byteAt b = if a ≤ b ∧ b < a + bs.length then (if s.failedAt b = true then 0 else bs.getD (b - a) 0) else s.byteAt b
  tag : ∀ l, tget false u.mem.poison l =
    if (a ≤ 64 * l ∧ 64 * l + 64 ≤ a + bs.length) ∧ s.failedAt (64 * l) = false then false else tget false s.mem.poison l

/-- The channels are those of before a write. -/
theorem Written.failedAt {s u : State} {a : Nat} {bs : List Byte} (h : Written s u a bs) (b : Nat) : u.failedAt b = s.failedAt b := by
  rw [h.frame]
  rfl

theorem Written.nil {s : State} (hwf : s.mem.wf = true) (a : Nat) : Written s s a [] where
  frame := rfl
  wf := hwf
  byte b := by rw [if_neg (by simp only [List.length_nil]; omega)]
  tag l := by rw [if_neg (by simp only [List.length_nil]; omega)]

/-- A write within one granule. -/
theorem Written.writeRaw {s : State} (hwf : s.mem.wf = true) {a : Nat} {bs : List Byte} (hgran : ∀ i, i < bs.length → (a + i) / 256 = a / 256) :
    Written s (s.writeRaw a bs) a bs where
  frame := s.writeRaw_frame a bs
  wf := (State.writeRaw_keeps (Keeps.refl s) a bs).mem hwf
  byte := s.byteAt_writeRaw hwf hgran
  tag l := by
    rw [s.poison_writeRaw]
    refine if_congr (and_congr_right fun hin => ?_) rfl rfl
    have hline := hgran (64 * l - a) (by omega)
    rw [Nat.add_sub_cancel' hin.1] at hline
    rw [s.failedAt_granule hline]

/-- A write cut at the end of a line is the write of its two parts. -/
theorem Written.append {s t u : State} {a n : Nat} {bs cs : List Byte} (hcs : cs ≠ [] → bs.length = n) (hcut : (a + n) % 64 = 0)
    (h : Written s t a bs) (k : Written t u (a + n) cs) : Written s u a (bs ++ cs) where
  frame := by rw [k.frame, h.frame]
  wf := k.wf
  byte b := by
    rw [k.byte, h.byte, h.failedAt, List.length_append]
    by_cases hnil : cs = []
    · subst hnil
      simp only [List.length_nil, Nat.add_zero, List.append_nil]
      rw [if_neg (by omega)]
    · have hlen := hcs hnil
      by_cases hsecond : a + n ≤ b ∧ b < a + n + cs.length
      · have hin : a ≤ b ∧ b < a + (bs.length + cs.length) := by omega
        rw [if_pos hsecond, if_pos hin, List.getD_append_right _ _ _ _ (by omega)]
        congr 2
        omega
      · rw [if_neg hsecond]
        by_cases hfirst : a ≤ b ∧ b < a + bs.length
        · have hin : a ≤ b ∧ b < a + (bs.length + cs.length) := by omega
          rw [if_pos hfirst, if_pos hin, List.getD_append _ _ _ _ (by omega)]
        · rw [if_neg hfirst, if_neg (by omega)]
  tag l := by
    rw [k.tag, h.tag, h.failedAt, List.length_append]
    by_cases hnil : cs = []
    · subst hnil
      simp only [List.length_nil, Nat.add_zero]
      rw [if_neg (by omega)]
    · have hlen := hcs hnil
      cases s.failedAt (64 * l)
      case false =>
        have hline : (a ≤ 64 * l ∧ 64 * l + 64 ≤ a + (bs.length + cs.length)) ↔
            (a + n ≤ 64 * l ∧ 64 * l + 64 ≤ a + n + cs.length) ∨ (a ≤ 64 * l ∧ 64 * l + 64 ≤ a + bs.length) := by omega
        simp only [and_true, hline]
        grind
      case true => simp

/-- The granules of a write, written one after another, are the write. -/
theorem Written.granules (k : Nat) {s : State} (hwf : s.mem.wf = true) (a : Nat) (bs : List Byte) (hfuel : bs.length + a % 256 ≤ 256 * k) :
    Written s ((granules k a bs).foldl (fun t g => t.writeRaw g.1 g.2) s) a bs := by
  induction k generalizing s a bs with
  | zero =>
    have hnil : bs = [] := List.length_eq_zero_iff.mp (by omega)
    subst hnil
    exact .nil hwf a
  | succ k ih =>
    cases bs with
    | nil => exact .nil hwf a
    | cons b bs =>
      have hone : Written s (s.writeRaw a ((b :: bs).take (256 - a % 256))) a ((b :: bs).take (256 - a % 256)) := by
        refine .writeRaw hwf fun i hi => ?_
        have := List.length_take_le (256 - a % 256) (b :: bs)
        omega
      have hrest := ih hone.wf (a + (256 - a % 256)) ((b :: bs).drop (256 - a % 256)) (by rw [List.length_drop]; omega)
      have hboth := hone.append (fun hne => List.length_take_of_le ?_) (by omega) hrest
      · rwa [List.take_append_drop] at hboth
      · have := List.length_pos_iff.mpr hne
        rw [List.length_drop] at this
        omega

theorem Written.writeMem {s : State} (hwf : s.mem.wf = true) (a : Nat) (bs : List Byte) : Written s (s.writeMem a bs) a bs :=
  .granules _ hwf a bs (by omega)

/-- The zero map holds neither bytes nor tags. -/
theorem Written.writeOutside {s : State} (hwf : s.mem.wf = true) (a : Nat) (bs : List Byte) : Written s (s.writeOutside a bs) a bs := by
  have h := Written.writeMem hwf a bs
  exact ⟨s.writeOutside_frame a bs, h.wf, h.byte, h.tag⟩

/-- A line is poisoned by its tag or by its channel. -/
theorem State.poisoned_eq (s : State) (l : Nat) : s.poisoned l = (tget false s.mem.poison l || s.failedAt (64 * l)) := by
  rw [State.poisoned, Nat.mul_comm]

/-- Settles O53: `Written.writeOutside`, with a line's tag and its channel read together. -/
theorem writeChangesOnlyItsBytes : Obligations.WriteChangesOnlyItsBytes := by
  rintro s u a bs hwf rfl
  have h := Written.writeOutside hwf a bs
  refine ⟨h.wf, fun i hi => ?_, fun b hb => ?_, fun l hl => ?_, fun l hlow hhigh => ?_, h.frame, s.writeMem_epoch a bs⟩
  · rw [h.byte, if_pos (by omega), Nat.add_sub_cancel_left]
  · rw [h.byte, if_neg (by omega)]
  · rw [State.poisoned_eq, h.tag, if_neg (by omega), h.failedAt, State.poisoned_eq]
  · rw [State.poisoned_eq, h.tag, h.failedAt]
    cases hfail : s.failedAt (64 * l)
    · rw [if_pos ⟨⟨hlow, hhigh⟩, rfl⟩, Bool.or_false]
    · rw [Bool.or_true]

end Sys2Proof.Machine
end

section
/-! PROOFS. The end of a packet's host DMA, with success (R313, R322) and with a PCIe error (R305, R322, R338). -/

namespace Sys2Proof.Machine

variable {s : State} {id : Nat} {data : List Byte} {fl : Flight}

/-! ### Success -/

/-- With no compute reset, the packet whose DMA ends is charged its bytes and goes on. -/
theorem exec_hostDmaDone_of_flight (hreset : s.dev.reset = none) (hfl : s.dmaFlight id = some fl) :
    exec (.hostDmaDone id data) s = goesOn ((s.chargeHost fl).packetDone fl (readBytes fl data)) := by
  change execHostDmaDone id data s = _
  simp only [execHostDmaDone, hreset, hfl, Option.isSome_none, Bool.false_eq_true, if_false]
  rfl

@[simp] theorem State.bufAddr_writeOutside (s : State) (a : Nat) (bs : List Byte) (k : Nat) : (s.writeOutside a bs).bufAddr k = s.bufAddr k := by
  rw [s.writeOutside_frame]
  rfl

theorem doneFeed_of_stream {x : Stream} (hx : s.streamAt (pkF fl.pk 16 4) = some x) :
    doneFeed s fl data =
      ((((((s.writeOutside (s.bufAddr (fl.aux.headD 0)) (padTo (pkF fl.pk 20 4) data)).chargeWork fl.pk.fn x.client 13 (pkF fl.pk 20 4)).dramTraffic
        fl.pk.fn x.client 3 true (s.bufAddr (fl.aux.headD 0)) (pkF fl.pk 20 4)).setStream (pkF fl.pk 16 4)
          (fun y => { y with feeds := y.feeds.map (fun f => if f.id = fl.id then { f with here := true } else f) })).alarmUpdate x.part x.pipeline).endPacket
            fl { status := stOk, c0 := pkF fl.pk 20 4 }) := by
  simp only [doneFeed, hx, State.bufAddr_writeOutside]

/-- The device with a page's file in its input buffer, charged, and the page accepted (R253, R254). -/
def State.acceptPage (s : State) (fl : Flight) (g : Page) (data : List Byte) : State :=
  (((s.writeOutside (s.bufAddr (g.inBuf.getD 0)) (padTo (pkF fl.pk 20 4) data)).chargeWork g.part g.client 13 (pkF fl.pk 20 4)).dramTraffic
    g.part g.client 3 true (s.bufAddr (g.inBuf.getD 0)) (pkF fl.pk 20 4)).setPage (fl.aux.headD 0) (fun g => { g with stage := .accepted })

theorem donePage_of_pipe {g : Page} {x : Pipeline} (hg : s.pageAt (fl.aux.headD 0) = some g) (hx : (s.acceptPage fl g data).pagePipe g = some x) :
    donePage s fl data = ((s.acceptPage fl g data).alarmUpdate x.part x.handle).endPacket fl { status := stOk, c0 := pkF fl.pk 20 4 } := by
  unfold State.acceptPage at hx ⊢
  simp only [donePage, hg, State.bufAddr_writeOutside, hx]

theorem donePage_of_noPipe {g : Page} (hg : s.pageAt (fl.aux.headD 0) = some g) (hx : (s.acceptPage fl g data).pagePipe g = none) :
    donePage s fl data = (s.acceptPage fl g data).endPacket fl { status := stOk, c0 := pkF fl.pk 20 4 } := by
  unfold State.acceptPage at hx ⊢
  simp only [donePage, hg, State.bufAddr_writeOutside, hx]

/-- Settles O12: for each opcode, what its DMA charges, what it read and what its end does. -/
theorem hostDmaDoneCompletesPacket : Obligations.HostDmaDoneCompletesPacket := by
  intro s id data fl hreset hfl
  rw [exec_hostDmaDone_of_flight hreset hfl]
  refine ⟨fun hop => congrArg goesOn ?info, fun hop => congrArg goesOn ?account, fun hop => congrArg goesOn ?dmaIn,
    fun k hop hbuf => congrArg goesOn ?dmaOut, fun x a t hop hx ha ht => congrArg goesOn ?feed, fun g a t hop hg ha ht => ?page,
    fun hop hlen => congrArg goesOn ?folio, fun hop hlen => congrArg goesOn ?table, fun hop haux hlen => congrArg goesOn ?text,
    fun st d n h hop haux hlen => congrArg goesOn ?tokens⟩
  case info | account =>
    simp only [State.chargeHost, hostBytes, State.packetDone, hop]
    rfl
  case dmaIn =>
    simp only [State.chargeHost, hostBytes, readBytes, State.packetDone, hop, if_true, doneDmaIn]
    rw [State.bufAddr_writeOutside]
  case dmaOut => simp only [State.chargeHost, hostBytes, State.packetDone, hop, if_true, doneDmaOut, hbuf]
  case feed =>
    subst ha ht
    simp only [State.chargeHost, hostBytes, readBytes, State.packetDone, hop, if_true]
    exact doneFeed_of_stream hx
  case page =>
    subst ha ht
    simp only [State.chargeHost, hostBytes, readBytes, State.packetDone, hop, if_true]
    exact ⟨fun x hx => congrArg goesOn (donePage_of_pipe hg hx), fun hx => congrArg goesOn (donePage_of_noPipe hg hx)⟩
  case folio | table =>
    have hne : pkF fl.pk 20 4 ≠ 0 := by omega
    simp only [State.chargeHost, hostBytes, readBytes, State.packetDone, hop, if_neg hne]
  case text =>
    have hne : pkF fl.pk 20 4 ≠ 0 := by omega
    simp only [State.chargeHost, hostBytes, readBytes, State.packetDone, hop, doneTokenize, haux, if_neg hne, if_true]
  case tokens =>
    have hne : 2 * n ≠ 0 := by omega
    simp [State.chargeHost, hostBytes, State.packetDone, hop, doneTokenize, haux, hne]

/-! ### Errors (R305, R322, R338) -/

/-- The end of a packet's own DMA, with no compute reset. -/
theorem exec_hostDmaError_data (hreset : s.dev.reset = none) (hfl : s.dmaFlight id = some fl) :
    exec (.hostDmaError (.data id)) s = goesOn (s.packetFailed fl) := by
  change execHostDmaError (.data id) s = _
  simp only [execHostDmaError, hreset, Option.isSome_none, Bool.false_eq_true, if_false, State.dmaFault, hfl]
  rfl

theorem State.packetFailed_feed (hop : fl.pk.opcode = 0x0302) : s.packetFailed fl = failFeed s fl := by
  simp only [State.packetFailed, hop]

theorem State.packetFailed_page (hop : fl.pk.opcode = 0x0402) : s.packetFailed fl = failPage s fl := by
  simp only [State.packetFailed, hop]

theorem State.packetFailed_other (hfeed : fl.pk.opcode ≠ 0x0302) (hpage : fl.pk.opcode ≠ 0x0402) :
    s.packetFailed fl = s.endPacket fl { status := stHostFault } := by
  unfold State.packetFailed
  split
  next h => exact absurd h hfeed
  next h => exact absurd h hpage
  next => rfl

@[simp] theorem State.returnOpt_mem (s : State) (o : Option Nat) : (s.returnOpt o).mem = s.mem := by cases o <;> rfl

@[simp] theorem State.returnOpt_media (s : State) (o : Option Nat) : (s.returnOpt o).media = s.media := by cases o <;> rfl

theorem failPage_of_page {g : Page} (hg : s.pageAt (fl.aux.headD 0) = some g) :
    failPage s fl = ({ (s.returnOpt g.inBuf).returnOpt g.pageBuf with
      media := { s.media with pages := ndel s.media.pages (fl.aux.headD 0) } } : State).endPacket fl { status := stHostFault } := by
  simp only [failPage, hg, State.returnOpt_media]
  rfl

/-- Settles O13: each target's fault, and for a packet's own DMA what its opcode gives back. -/
theorem hostDmaErrorActs : Obligations.HostDmaErrorActs := by
  intro s
  refine ⟨fun f r henable hstopped hne => ?fetch, fun f henable hhalted hne => ?record, fun id fl hmem hid => ?reply,
    fun id fl hreset hfl hfeed hpage => ?other, fun id fl hreset hfl hop => ?feed, fun id fl g hreset hfl hop hg => ?page⟩
  case fetch =>
    change execHostDmaError (.fetch f r) s = _
    simp [execHostDmaError, State.dmaFault, henable, hstopped, hne]
  case record =>
    change execHostDmaError (.record f) s = _
    simp [execHostDmaError, State.dmaFault, henable, hhalted, hne]
  case reply =>
    have hany : s.cp.flight.any (fun x => x.id == id) = true := List.any_eq_true.mpr ⟨fl, hmem, by simp [hid]⟩
    change execHostDmaError (.reply id) s = _
    simp only [execHostDmaError, State.dmaFault, hany, or_true, if_true]
  case other => rw [exec_hostDmaError_data hreset hfl, State.packetFailed_other hfeed hpage]
  case feed =>
    rw [exec_hostDmaError_data hreset hfl, State.packetFailed_feed hop]
    rfl
  case page =>
    rw [exec_hostDmaError_data hreset hfl, State.packetFailed_page hop, failPage_of_page hg]
    exact ⟨_, rfl, rfl, rfl, by simp only [State.returnOpt_mem]⟩

end Sys2Proof.Machine
end

section
/-! PROOFS. The commands of the host on packet rings and result rings (R25, R304, R305, R338). -/

namespace Sys2Proof.Machine

/-! ### A request of the host brings the link to L0 and changes nothing else (R399) -/

section Tlp

variable (s : State) (f r : Nat)

@[simp] theorem State.tlp_hostReaches : s.tlp.hostReaches f = s.hostReaches f := by
  unfold State.tlp
  split <;> rfl

@[simp] theorem State.tlp_ringAt : s.tlp.ringAt f r = s.ringAt f r := by
  unfold State.tlp
  split <;> rfl

@[simp] theorem State.tlp_resAt : s.tlp.resAt f = s.resAt f := by
  unfold State.tlp
  split <;> rfl

@[simp] theorem State.tlp_partAt : s.tlp.partAt f = s.partAt f := by
  unfold State.tlp
  split <;> rfl

@[simp] theorem State.tlp_mem : s.tlp.mem = s.mem := by
  unfold State.tlp
  split <;> rfl

@[simp] theorem State.tlp_cp : s.tlp.cp = s.cp := by
  unfold State.tlp
  split <;> rfl

end Tlp

/-! ### Packet rings (R304, R305) -/

variable {s : State} {fn : Fin 9} {ring : Fin 64}

/-- A change of a ring is a matter of what it makes of that ring. -/
theorem State.setRing_congr (s : State) {f r : Nat} {g h : Ring → Ring} (e : g (s.ringAt f r) = h (s.ringAt f r)) : s.setRing f r g = s.setRing f r h := by
  have e' : g (tget {} s.cp.ring (64 * f + r)) = h (tget {} s.cp.ring (64 * f + r)) := e
  simp only [State.setRing, tmod, e']

/-- A ring that is not what an unlisted ring reads as is read back in a store of any form. -/
theorem State.ringAt_setRing_of_ne (s : State) {f r : Nat} {g : Ring → Ring} (h : g (s.ringAt f r) ≠ {}) : (s.setRing f r g).ringAt f r = g (s.ringAt f r) :=
  tget_tput_ne _ _ _ _ h

theorem Ring.running_of_idle {r : Ring} (henable : r.enable = false) (hidle : r.inflight = 0) : r.running = false := by
  simp only [Ring.running, henable, hidle, Nat.lt_irrefl, decide_false, Bool.or_false]

/-- A ring that is not enabled and owes no reply takes its CTRL's fields. -/
theorem Ring.configure_of_idle {r : Ring} {ctrl : BitVec 32} (henable : r.enable = false) (hidle : r.inflight = 0) :
    r.configure ctrl = { r with log2 := bitsOf ctrl.toNat 16 5, vector := bitsOf ctrl.toNat 8 6 } := by
  simp only [Ring.configure, Ring.running_of_idle henable hidle, Bool.false_eq_true, if_false]
  rfl

/-- An enable in range starts the ring as its CTRL says, its four indexes at 0. -/
theorem exec_ringEnable_ok {ctrl : BitVec 32} (hreach : s.hostReaches fn = true) (hset : ctrl.getLsbD 31 = true)
    (henable : (s.ringAt fn ring).enable = false) (hidle : (s.ringAt fn ring).inflight = 0) (hlow : 6 ≤ bitsOf ctrl.toNat 16 5)
    (hhigh : bitsOf ctrl.toNat 16 5 ≤ 16) :
    exec (.ringEnable fn ring ctrl) s = .next ((s.tlp.setRing fn ring (fun _ => (s.ringAt fn ring).configure ctrl)).setRing fn ring
      (fun r => { r with enable := true, tail := 0, head := 0, rqHead := 0, rqTail := 0 })) := by
  have hrange : ¬(((s.ringAt fn ring).configure ctrl).log2 < 6 ∨ 16 < ((s.ringAt fn ring).configure ctrl).log2) := by
    simp only [Ring.configure_of_idle henable hidle]
    omega
  change execRingEnable fn ring ctrl s = _
  simp only [execRingEnable, State.tlp_hostReaches, State.tlp_ringAt, hreach, hset, henable, Ring.running_of_idle henable hidle, if_neg hrange,
    Bool.not_true, Bool.false_eq_true, Bool.true_eq_false, or_self, if_false]

theorem exec_ringEnable_range {ctrl : BitVec 32} (hreach : s.hostReaches fn = true) (hset : ctrl.getLsbD 31 = true)
    (henable : (s.ringAt fn ring).enable = false) (hidle : (s.ringAt fn ring).inflight = 0)
    (hrange : bitsOf ctrl.toNat 16 5 < 6 ∨ 16 < bitsOf ctrl.toNat 16 5) :
    exec (.ringEnable fn ring ctrl) s = .next (((s.tlp.setRing fn ring (fun r => { r with
        log2 := bitsOf ctrl.toNat 16 5, vector := bitsOf ctrl.toNat 8 6 })).setRing fn ring (fun r => { r with configFault := true })).ringFault fn
        (bitsOf ctrl.toNat 8 6) ring) := by
  have hbad : ((s.ringAt fn ring).configure ctrl).log2 < 6 ∨ 16 < ((s.ringAt fn ring).configure ctrl).log2 := by
    simpa only [Ring.configure_of_idle henable hidle] using hrange
  have hset' : s.tlp.setRing fn ring (fun _ => (s.ringAt fn ring).configure ctrl) =
      s.tlp.setRing fn ring (fun r => { r with log2 := bitsOf ctrl.toNat 16 5, vector := bitsOf ctrl.toNat 8 6 }) := by
    refine State.setRing_congr _ ?_
    rw [State.tlp_ringAt, Ring.configure_of_idle henable hidle]
  change execRingEnable fn ring ctrl s = _
  simp only [execRingEnable, State.tlp_hostReaches, State.tlp_ringAt, hreach, hset, henable, Ring.running_of_idle henable hidle, if_pos hbad,
    Bool.not_true, Bool.false_eq_true, Bool.true_eq_false, or_self, if_false]
  rw [hset', Ring.configure_of_idle henable hidle]

/-- Settles O15: each command's branches; the ring enabled is told from an unlisted one by its ENABLE and its LOG2_SLOTS. -/
theorem packetRingCommandsAct : Obligations.PacketRingCommandsAct := by
  intro s fn ring hreach
  refine ⟨fun tail henable hfits => ?inside, fun tail henable hbeyond => ?beyond, fun tail henable => ?off,
    fun ctrl hset henable hidle hlow hhigh => ?start, fun ctrl hset henable hbusy => ?busy, fun ctrl hset henable hidle hrange => ?range,
    fun ctrl hclear => ?disable, fun head => ?head⟩
  case inside =>
    change execDoorbell fn ring tail s = _
    simp only [execDoorbell, State.tlp_hostReaches, State.tlp_ringAt, hreach, henable, hfits.not_gt, Bool.not_true, Bool.false_eq_true, if_false]
  case beyond =>
    change execDoorbell fn ring tail s = _
    simp only [execDoorbell, State.tlp_hostReaches, State.tlp_ringAt, hreach, henable, hbeyond, Bool.not_true, Bool.false_eq_true, if_false, if_true]
  case off =>
    change execDoorbell fn ring tail s = _
    simp [execDoorbell, hreach, henable]
  case start =>
    refine ⟨_, exec_ringEnable_ok hreach hset henable hidle hlow hhigh, ?_, fun f r hne => ?_, ?_, ?_⟩
    · have hconf : (s.ringAt fn ring).configure ctrl ≠ {} := by
        rw [Ring.configure_of_idle henable hidle]
        intro hdef
        have hlog : bitsOf ctrl.toNat 16 5 = 0 := congrArg Ring.log2 hdef
        omega
      rw [State.ringAt_setRing_of_ne _ (fun hdef => Bool.noConfusion (congrArg Ring.enable hdef)), State.ringAt_setRing_of_ne _ hconf,
        Ring.configure_of_idle henable hidle]
    · rw [State.ringAt_setRing_other _ _ _ _ _ _ hne, State.ringAt_setRing_other _ _ _ _ _ _ hne, State.tlp_ringAt]
    · exact s.tlp_mem
    · change s.tlp.cp.flight = _
      rw [s.tlp_cp]
  case busy =>
    change execRingEnable fn ring ctrl s = _
    simp [execRingEnable, hreach, hset, henable, hbusy, Ring.running]
  case range => exact exec_ringEnable_range hreach hset henable hidle hrange
  case disable =>
    change execRingDisable fn ring ctrl s = _
    simp only [execRingDisable, State.tlp_hostReaches, hreach, hclear, Bool.not_true, Bool.false_eq_true, or_self, if_false]
  case head =>
    change execReplyHeadWrite fn ring head s = _
    simp [execReplyHeadWrite, hreach]

/-! ### Result rings (R335, R338) -/

theorem exec_resultRingEnable_off {ctrl : BitVec 32} (hreach : s.hostReaches fn = true) (hset : ctrl.getLsbD 31 = true)
    (henable : (s.resAt fn).enable = false) :
    exec (.resultRingEnable fn ctrl) s =
      if bitsOf ctrl.toNat 16 5 < 8 ∨ 20 < bitsOf ctrl.toNat 16 5 then
        .next ((((s.tlp.setRes fn (fun q => { q with vector := bitsOf ctrl.toNat 8 6 })).setRes fn
          (fun q => { q with log2 := bitsOf ctrl.toNat 16 5 })).setRes fn (fun q => { q with configFault := true })).ringFault fn
          (bitsOf ctrl.toNat 8 6) 64)
      else .next (((s.tlp.setRes fn (fun q => { q with vector := bitsOf ctrl.toNat 8 6 })).setRes fn
        (fun q => { q with log2 := bitsOf ctrl.toNat 16 5 })).setRes fn (fun q => { q with
          enable := true, tail := 0, head := 0, halted := false, lostTotal := 0, sinceMsg := 0 })) := by
  change execResultRingEnable fn ctrl s = _
  simp only [execResultRingEnable, State.tlp_hostReaches, State.tlp_resAt, hreach, hset, henable, Bool.not_true, Bool.false_eq_true,
    Bool.true_eq_false, or_self, if_false]
  rfl

theorem exec_resultRingDisable_ok {ctrl : BitVec 32} (hreach : s.hostReaches fn = true) (hclear : ctrl.getLsbD 31 = false) :
    exec (.resultRingDisable fn ctrl) s = .next (s.tlp.setRes fn (fun q => { q with
      q := if fn.val ≠ 0 ∧ (s.partAt fn).st = .free then [] else q.q, stalled := if fn.val ≠ 0 ∧ (s.partAt fn).st = .free then [] else q.stalled,
      enable := false, halted := false, vector := bitsOf ctrl.toNat 8 6, log2 := if q.enable then q.log2 else bitsOf ctrl.toNat 16 5 })) := by
  change execResultRingDisable fn ctrl s = _
  simp only [execResultRingDisable, State.tlp_hostReaches, State.tlp_partAt, hreach, hclear, Bool.not_true, Bool.false_eq_true, or_self, if_false,
    Bool.and_eq_true, bne_iff_ne, decide_eq_true_eq]
  rfl

/-- Settles O16: the branches of each command on a result ring. -/
theorem resultRingCommandsAct : Obligations.ResultRingCommandsAct := by
  intro s fn hreach
  refine ⟨fun ctrl hset henable hlow hhigh => ?start, fun ctrl hset henable hrange => ?range, fun ctrl hset henable => ?on,
    fun ctrl hclear => ⟨fun hheld => ?held, fun hvf hfree => ?free⟩, fun head henable hbeyond => ?beyond, fun head hfits => ?inside⟩
  case start => rw [exec_resultRingEnable_off hreach hset henable, if_neg (by omega)]
  case range => rw [exec_resultRingEnable_off hreach hset henable, if_pos hrange]
  case on =>
    change execResultRingEnable fn ctrl s = _
    simp only [execResultRingEnable, State.tlp_hostReaches, State.tlp_resAt, hreach, hset, henable, Bool.not_true, Bool.false_eq_true,
      Bool.true_eq_false, or_self, if_false, if_true]
    rfl
  case held =>
    have hnot : ¬(fn.val ≠ 0 ∧ (s.partAt fn).st = .free) := by tauto
    simp only [exec_resultRingDisable_ok hreach hclear, if_neg hnot]
  case free => simp only [exec_resultRingDisable_ok hreach hclear, if_pos (And.intro hvf hfree)]
  case beyond =>
    change execResultHeadWrite fn head s = _
    simp only [execResultHeadWrite, State.tlp_hostReaches, State.tlp_resAt, hreach, henable, hbeyond, Bool.not_true, Bool.false_eq_true, and_self,
      if_false, if_true]
  case inside =>
    have hnot : ¬((s.resAt fn).enable = true ∧ 2 ^ (s.resAt fn).log2 < ((s.resAt fn).tail - head).toNat) := by
      rintro ⟨henable, hbeyond⟩
      rcases hfits with hoff | hfits
      · exact Bool.false_ne_true (hoff.symm.trans henable)
      · omega
    change execResultHeadWrite fn head s = _
    simp only [execResultHeadWrite, State.tlp_hostReaches, State.tlp_resAt, hreach, hnot, Bool.not_true, Bool.false_eq_true, if_false]

end Sys2Proof.Machine
end

section
/-! PROOFS. Records into and out of result queues (R325, R326, R328 to R333, R336, R337). -/

namespace Sys2Proof.Machine

variable {s : State} {fn : Fin 9}

/-! ### Commits (R326, R328, R331) -/

/-- A change of a result queue is a matter of what it makes of that queue. -/
theorem State.setRes_congr (s : State) {f : Nat} {g h : Res → Res} (e : g (s.resAt f) = h (s.resAt f)) : s.setRes f g = s.setRes f h := by
  have e' : g (tget {} s.cp.res f) = h (tget {} s.cp.res f) := e
  simp only [State.setRes, tmod, e']

/-- A record of a type its producer may not write, or of a length its type has not, is not written. -/
theorem exec_recordCommit_refused {producer : Producer} {type : Byte} (prio : Fin 4) {body : List Byte}
    (h : mayWrite producer type.toNat = false ∨ lengthOk type.toNat ((body.length + 71) / 64) = false) :
    exec (.recordCommit fn producer type prio body) s = .next s := by
  change execRecordCommit fn producer type prio body s = _
  exact if_pos h

/-- Any other is committed, cut to whole entries. -/
theorem exec_recordCommit_taken {producer : Producer} {type : Byte} (prio : Fin 4) {body : List Byte}
    (hwrite : mayWrite producer type.toNat = true) (hlen : lengthOk type.toNat ((body.length + 71) / 64) = true) :
    exec (.recordCommit fn producer type prio body) s =
      .next (s.commit fn { type, prio, body := padTo (64 * ((body.length + 71) / 64) - 8) body, prod := producer, obj := 0 }) := by
  change execRecordCommit fn producer type prio body s = _
  refine if_neg ?_
  rw [not_or, Bool.not_eq_false, Bool.not_eq_false]
  exact ⟨hwrite, hlen⟩

section Commit

variable {f : Nat} {r : Rec}

theorem State.commit_fits (hfixed : prodUnstallable r.prod = true) (hfits : r.len ≤ (s.resAt f).freeEntries) :
    s.commit f r = s.setRes f (fun q => { q with q := q.q ++ [r] }) :=
  s.setRes_congr (by simp only [hfixed, hfits, if_true])

theorem State.commit_loses (hfixed : prodUnstallable r.prod = true) (hfull : (s.resAt f).freeEntries < r.len) :
    s.commit f r = s.setRes f (fun q => q.lose 1) :=
  s.setRes_congr (by simp only [hfixed, if_true, if_neg hfull.not_ge])

theorem State.commit_enters (hstalls : prodUnstallable r.prod = false) (hfull : (s.resAt f).full = false) (hnone : (s.resAt f).stalled = []) :
    s.commit f r = s.setRes f (fun q => { q with q := q.q ++ [r] }) :=
  s.setRes_congr (by simp [hstalls, hfull, hnone])

theorem State.commit_waits (hstalls : prodUnstallable r.prod = false) (hfull : (s.resAt f).full = true ∨ (s.resAt f).stalled ≠ []) :
    s.commit f r = s.setRes f (fun q => { q with stalled := q.stalled ++ [r] }) := by
  refine s.setRes_congr ?_
  have hwait : ((s.resAt f).full || !(s.resAt f).stalled.isEmpty) = true := by simpa using hfull
  simp only [hstalls, hwait, if_true, Bool.false_eq_true, if_false]

end Commit

/-- Settles O17: the record is refused by its type or length, or committed, and a commit has four cases. -/
theorem recordCommitQueuesStallsOrLoses : Obligations.RecordCommitQueuesStallsOrLoses := by
  intro s fn producer type prio body
  refine ⟨exec_recordCommit_refused prio, fun r hwrite hlen hr => ?_⟩
  rw [exec_recordCommit_taken prio hwrite hlen, ← hr]
  have hprod : r.prod = producer := by rw [hr]
  rw [← hprod]
  exact ⟨fun hfixed hfits => congrArg _ (State.commit_fits hfixed hfits), fun hfixed hfull => congrArg _ (State.commit_loses hfixed hfull),
    fun hstalls hfull hnone => congrArg _ (State.commit_enters hstalls hfull hnone), fun hstalls hfull => congrArg _ (State.commit_waits hstalls hfull)⟩

/-! ### Drains (R330, R332, R333, R336, R337) -/

/-- A drain of a queue whose descriptors are good writes its front record. -/
theorem exec_recordDrain_front (hdrain : s.draining fn = true) : exec (.recordDrain fn none false) s = goesOn (s.drainFront fn none) := by
  change execRecordDrain fn none false s = _
  simp only [execRecordDrain, hdrain, Bool.not_true, Bool.false_eq_true, false_and, if_false]
  rfl

/-- The front record fits before the end of the ring and in its free entries. -/
theorem State.drainFront_inside {f : Nat} {r : Rec} (hfront : (s.resAt f).front = some r)
    (hend : r.len ≤ 2 ^ (s.resAt f).log2 - (s.resAt f).tail.toNat % 2 ^ (s.resAt f).log2)
    (hroom : r.len ≤ 2 ^ (s.resAt f).log2 - ((s.resAt f).tail - (s.resAt f).head).toNat) :
    s.drainFront f none = ((s.writeRecord f (drainBytes r.type r.len r.prio none (phaseOf (s.resAt f).tail (s.resAt f).log2) (s.resAt f).seq.toNat
      r.body s.mem.epoch)).countRecord f).setRes f (fun q => ({ q with q := q.q.erase r } : Res).reopen q.full) := by
  simp only [State.drainFront, hfront, decide_eq_true_eq, hend.not_gt, false_and, if_false, Nat.sub_zero, if_neg hroom.not_gt,
    Option.isSome_none, Bool.false_eq_true, Option.filter_none]

/-- The front record would cross the end of the ring: a PAD fills what is left there. -/
theorem State.drainFront_pad {f left : Nat} {r : Rec} {u : State} (hfront : (s.resAt f).front = some r)
    (hleft : left = 2 ^ (s.resAt f).log2 - (s.resAt f).tail.toNat % 2 ^ (s.resAt f).log2) (hcross : left < r.len)
    (hroom : left + r.len ≤ 2 ^ (s.resAt f).log2 - ((s.resAt f).tail - (s.resAt f).head).toNat)
    (hu : u = s.writeRecord f (drainBytes 0 left r.prio none (phaseOf (s.resAt f).tail (s.resAt f).log2) (s.resAt f).seq.toNat [] 0)) :
    s.drainFront f none = ((u.writeRecord f (drainBytes r.type r.len r.prio none (phaseOf (u.resAt f).tail (u.resAt f).log2) (u.resAt f).seq.toNat
      r.body s.mem.epoch)).countRecord f).setRes f (fun q => ({ q with q := q.q.erase r } : Res).reopen q.full) := by
  have hpad : ¬(left < r.len ∧ 2 ^ (s.resAt f).log2 - ((s.resAt f).tail - (s.resAt f).head).toNat < left) := by omega
  have hrest : ¬(2 ^ (s.resAt f).log2 - ((s.resAt f).tail - (s.resAt f).head).toNat - left < r.len) := by omega
  simp only [State.drainFront, hfront, ← hleft, decide_eq_true_eq, if_neg hpad, if_pos hcross, ← hu, if_neg hrest,
    Option.isSome_none, Bool.false_eq_true, Option.filter_none, if_false]
  rw [hu]
  rfl

/-- Settles O18: the front record with and without a PAD before it, a queue whose descriptor fails, and the delayed message. -/
theorem recordDrainWritesFront : Obligations.RecordDrainWritesFront := by
  intro s fn
  refine ⟨fun r q hq hdrain hfront hend hroom => ?inside, fun r q left u hq hleft hdrain hfront hcross hroom hu => ?pad,
    fun hdrain hne => ?lost, fun hdelay hsince => ?delay⟩
  case inside =>
    subst hq
    rw [exec_recordDrain_front hdrain, State.drainFront_inside hfront hend hroom]
  case pad =>
    subst hq
    rw [exec_recordDrain_front hdrain, State.drainFront_pad hfront hleft hcross hroom hu]
  case lost =>
    change execRecordDrain fn none true s = _
    simp only [execRecordDrain, hdrain, hne, Bool.not_true, Bool.not_eq_true', Bool.false_eq_true, if_false,
      List.isEmpty_eq_false_iff, ne_eq, not_false_eq_true, and_self, if_true]
    rfl
  case delay =>
    change execResultIrqDelay fn s = _
    simp only [execResultIrqDelay, hdelay, hsince, or_self, if_false]

end Sys2Proof.Machine
end

section
/-! PROOFS. Window entries, accesses through windows, and the access held longest (R25, R363, R392 to R395). -/

namespace Sys2Proof.Machine

variable {s : State} {fn : Fin 9}

/-- A request that reaches a function finds HI ready, so it brings the link to L0 (R399). -/
theorem State.tlp_of_reaches {f : Nat} (h : s.hostReaches f = true) : s.tlp = s.toL0 := by
  simp only [State.hostReaches, State.fnPresent, Bool.and_eq_true] at h
  simp only [State.tlp, h.1.1, if_true]

theorem State.fnPresent_of_reaches {f : Nat} (h : s.hostReaches f = true) : s.fnPresent f = true :=
  ((Bool.and_eq_true _ _).mp h).1

/-! ### Window entries (R392) -/

/-- A write of an entry that its function has is not passed over. -/
theorem windowEntry_taken (hreach : s.hostReaches fn = true) {i : Fin 256} (hi : i.val < winCount fn) :
    ¬((!s.tlp.hostReaches fn) = true ∨ winCount fn ≤ i.val) := by
  simp only [State.tlp_hostReaches, hreach, Bool.not_true, Bool.false_eq_true, false_or, not_le, hi]

theorem exec_windowEntryWrite_whole (hreach : s.hostReaches fn = true) {i : Fin 256} (hi : i.val < winCount fn) (v : BitVec 64) :
    exec (.windowEntryWrite fn i (.whole v)) s =
      .next { s.tlp with hi := { s.tlp.hi with win := tput 0 s.tlp.hi.win (256 * fn.val + i.val) (v &&& winMask fn) } } := by
  change execWindowEntryWrite fn i (.whole v) s = _
  exact if_neg (windowEntry_taken hreach hi)

theorem exec_windowEntryWrite_low (hreach : s.hostReaches fn = true) {i : Fin 256} (hi : i.val < winCount fn) (v : BitVec 32) :
    exec (.windowEntryWrite fn i (.lowHalf v)) s =
      .next { s.tlp with hi := { s.tlp.hi with winLow := tput none s.tlp.hi.winLow (256 * fn.val + i.val) (some v) } } := by
  change execWindowEntryWrite fn i (.lowHalf v) s = _
  exact if_neg (windowEntry_taken hreach hi)

theorem exec_windowEntryWrite_high (hreach : s.hostReaches fn = true) {i : Fin 256} (hi : i.val < winCount fn) (v lo : BitVec 32)
    (hlow : tget none s.tlp.hi.winLow (256 * fn.val + i.val) = some lo) :
    exec (.windowEntryWrite fn i (.highHalf v)) s =
      .next { s.tlp with hi := { s.tlp.hi with
        win := tput 0 s.tlp.hi.win (256 * fn.val + i.val) (BitVec.ofNat 64 (v.toNat * 2 ^ 32 + lo.toNat) &&& winMask fn),
        winLow := tput none s.tlp.hi.winLow (256 * fn.val + i.val) none } } := by
  change execWindowEntryWrite fn i (.highHalf v) s = _
  refine (if_neg (windowEntry_taken hreach hi)).trans ?_
  simp only [hlow]
  rfl

/-! ### Accesses (R25, R363, R394) -/

section Access

variable {f ofs len a d : Nat} {data : List Byte} {write : Bool}

/-- An access of a function that answers goes by its translation: failed, or to its domain. -/
theorem State.windowAccess_of_error {c : Completion} (hpresent : s.fnPresent f = true) (hlen : 1 ≤ len) (hpage : ofs % 4096 + len ≤ 4096)
    (hreset : s.fnResetting f = false) (herr : s.translate f ofs len write = .error c) :
    s.windowAccess f ofs len data write = if write then s.emit (.aer f c.aer) else s.failRead f ofs c := by
  have hgood : ¬(len = 0 ∨ 4096 < ofs % 4096 + len) := by omega
  simp only [State.windowAccess, hpresent, hreset, herr, hgood, Bool.not_true, Bool.false_eq_true, false_or, if_false]

theorem State.windowAccess_of_on (hpresent : s.fnPresent f = true) (hlen : 1 ≤ len) (hpage : ofs % 4096 + len ≤ 4096)
    (hreset : s.fnResetting f = false) (ha : s.translate f ofs len write = .ok a) (hd : s.domOf a = some d) (hon : (s.domAt d).st = .on) :
    s.windowAccess f ofs len data write = if write then s.serveWrite f a data else s.serveRead f a len := by
  have hgood : ¬(len = 0 ∨ 4096 < ofs % 4096 + len) := by omega
  simp only [State.windowAccess, hpresent, hreset, ha, hd, hon, hgood, Bool.not_true, Bool.false_eq_true, false_or, if_false, if_true]

theorem State.windowAccess_of_asleep (hpresent : s.fnPresent f = true) (hlen : 1 ≤ len) (hpage : ofs % 4096 + len ≤ 4096)
    (hreset : s.fnResetting f = false) (ha : s.translate f ofs len write = .ok a) (hd : s.domOf a = some d) (hon : (s.domAt d).st ≠ .on)
    (hoff : (s.domAt d).switchedOff = false) :
    s.windowAccess f ofs len data write = { s.wake d with hi := { (s.wake d).hi with
      held := (s.wake d).hi.held ++ [{ dom := d, fn := f, addr := a, len, data, isReg := false }] } } := by
  have hgood : ¬(len = 0 ∨ 4096 < ofs % 4096 + len) := by omega
  simp only [State.windowAccess, hpresent, hreset, ha, hd, hon, hoff, hgood, Bool.not_true, Bool.false_eq_true, false_or, if_false]

theorem State.serveRead_clean (h : s.firstPoison a len = none) :
    s.serveRead f a len = (s.chargeAccess f a len false).emit (.completion f (.data (s.bytesAt a len))) := by
  simp only [State.serveRead, h, Option.isSome_none, Bool.false_eq_true, if_false]

theorem State.serveRead_poisoned (h : (s.firstPoison a len).isSome = true) :
    s.serveRead f a len = (s.chargeAccess f a len false).emit (.completion f (.poisoned (s.bytesAt a len))) := by
  simp only [State.serveRead, h, if_true]

theorem State.failRead_answered {c : Completion} (h : c ≠ .completerAbort ∨ s.missesRegions f ofs = false) :
    s.failRead f ofs c = s.emit (.completion f c) := by
  refine if_neg ?_
  rintro ⟨hc, hmiss⟩
  rcases h with h | h
  · exact h hc
  · exact Bool.false_ne_true (h.symm.trans hmiss)

theorem State.failRead_logged {c : Completion} (hc : c = .completerAbort) (h : s.missesRegions f ofs = true) :
    s.failRead f ofs c = (s.emit (.completion f c)).emit (.aer f aerCA) :=
  if_pos ⟨hc, h⟩

end Access

/-- Settles O19: the three writes of an entry, and an access by its translation and its domain, each on the state with the link in L0. -/
theorem windowCommandsAct : Obligations.WindowCommandsAct := by
  intro s fn hreach
  have hpresent : s.toL0.fnPresent fn = true := State.fnPresent_of_reaches hreach
  have hread : ∀ ofs len, exec (.windowRead fn ofs len) s = .next (s.toL0.windowAccess fn ofs len [] false) := by
    intro ofs len
    rw [← State.tlp_of_reaches hreach]
    rfl
  have hwrite : ∀ ofs data, exec (.windowWrite fn ofs data) s = .next (s.toL0.windowAccess fn ofs data.length data true) := by
    intro ofs data
    rw [← State.tlp_of_reaches hreach]
    rfl
  have hentry := fun (i : Fin 256) v lo (hi : i.val < winCount fn) => exec_windowEntryWrite_high (s := s) hreach hi v lo
  have hwhole := fun (i : Fin 256) v (hi : i.val < winCount fn) => exec_windowEntryWrite_whole (s := s) hreach hi v
  have hlow := fun (i : Fin 256) v (hi : i.val < winCount fn) => exec_windowEntryWrite_low (s := s) hreach hi v
  rw [State.tlp_of_reaches hreach] at hentry hwhole hlow ⊢
  refine ⟨fun i v hi => hwhole i v hi, fun i v hi => hlow i v hi, fun i v lo hi => hentry i v lo hi,
    fun ofs len a d hlen hpage hreset ha hd => ?read, fun ofs len c hlen hpage hreset herr => ?readError,
    fun ofs data a d hlen hpage hreset ha hd => ?write, fun ofs data c hlen hpage hreset herr => ?writeError, fun h rest hheld => ?hold⟩
  case read =>
    rw [hread]
    refine ⟨fun hon hclean => ?_, fun hon hpoison => ?_, fun hon hoff => ?_⟩
    · exact congrArg _ ((State.windowAccess_of_on hpresent hlen hpage hreset ha hd hon).trans (State.serveRead_clean hclean))
    · exact congrArg _ ((State.windowAccess_of_on hpresent hlen hpage hreset ha hd hon).trans (State.serveRead_poisoned hpoison))
    · exact congrArg _ (State.windowAccess_of_asleep hpresent hlen hpage hreset ha hd hon hoff)
  case readError =>
    rw [hread]
    have hfail := State.windowAccess_of_error (data := []) hpresent hlen hpage hreset herr
    exact ⟨fun hc => congrArg _ (hfail.trans (State.failRead_answered hc)), fun hc hmiss => congrArg _ (hfail.trans (State.failRead_logged hc hmiss))⟩
  case write =>
    rw [hwrite]
    exact ⟨fun hon => congrArg _ (State.windowAccess_of_on hpresent hlen hpage hreset ha hd hon),
      fun hon hoff => congrArg _ (State.windowAccess_of_asleep hpresent hlen hpage hreset ha hd hon hoff)⟩
  case writeError =>
    rw [hwrite]
    exact congrArg _ (State.windowAccess_of_error hpresent hlen hpage hreset herr)
  case hold =>
    change execAccessHoldTimeout s = _
    simp only [execAccessHoldTimeout, hheld]

end Sys2Proof.Machine
end

section
/-! PROOFS. Reads and writes of registers, of the pages of a function and of configuration space (R11, R81, R302, R335, R383, R384, R388, R389, R427, R490, R493, R494; log 74). -/

namespace Sys2Proof.Machine

variable {s : State} {addr o : Nat} {b : Block}

theorem State.tlp_of_ready (h : s.dev.hiReady = true) : s.tlp = s.toL0 := by simp only [State.tlp, h, if_true]

/-! ### The register space (R11, R81, R389, R490, R491) -/

theorem exec_rcRegisterRead_spine (halign : addr % 4 = 0) (hblock : blockOf addr = some (b, o)) :
    exec (.rcRegisterRead .spine addr) s = .next ((s.emit (.spineData (s.blockWord true b o))).clearRc false b o) := by
  change execRcRegisterRead .spine addr s = _
  simp only [execRcRegisterRead, halign, hblock, ne_eq, not_true_eq_false, if_false]

/-- A BAR4 access to a block that can be reached now is served. -/
theorem State.bar4Access_reached {data : List Byte} (hblock : blockOf addr = some (b, o)) (hserved : s.blockServed b = true)
    (hdom : blockDomain b = none ∨ ∃ d, blockDomain b = some d ∧ (s.domAt d).st = .on) :
    s.bar4Access addr data = s.serveReg addr data := by
  rcases hdom with hnone | ⟨d, hd, hon⟩
  · simp only [State.bar4Access, hblock, hserved, hnone, Bool.not_true, Bool.false_eq_true, if_false]
  · simp only [State.bar4Access, hblock, hserved, hd, hon, Bool.not_true, Bool.false_eq_true, or_true, if_false, if_true]

theorem State.serveReg_read (hblock : blockOf addr = some (b, o)) (hfused : s.blockFused b = false) :
    s.serveReg addr [] = (s.emit (.completion 0 (.data (s.regBytes false b o)))).clearRc true b o := by
  simp only [State.serveReg, hblock, hfused, List.isEmpty_nil, Bool.false_eq_true, if_false, if_true]

theorem exec_rcRegisterRead_bar4 (hlow : regBase ≤ addr) (hhigh : addr < regBase + 0x10000000) (halign : addr % 4 = 0)
    (hblock : blockOf addr = some (b, o)) (hready : s.dev.hiReady = true) (hslice : s.hi.slice = (addr - regBase) / 2 ^ 24)
    (hserved : s.blockServed b = true) (hfused : s.blockFused b = false)
    (hdom : blockDomain b = none ∨ ∃ d, blockDomain b = some d ∧ (s.domAt d).st = .on) :
    exec (.rcRegisterRead .bar4 addr) s = .next ((s.toL0.emit (.completion 0 (.data (s.toL0.regBytes false b o)))).clearRc true b o) := by
  change execRcRegisterRead .bar4 addr s = _
  simp only [execRcRegisterRead, halign, hlow.not_gt, hhigh.not_ge, hready, hslice, State.tlp_of_ready hready, ne_eq, not_true_eq_false, Bool.not_true,
    Bool.false_eq_true, or_self, if_false]
  exact congrArg _ ((State.bar4Access_reached (s := s.toL0) hblock hserved hdom).trans (State.serveReg_read (s := s.toL0) hblock hfused))

theorem exec_latchedCounterRead_low (hblock : blockOf addr = some (b, o)) (hwide : wide b o = true) :
    exec (.latchedCounterRead addr false) s =
      .next { s.emit (.spineData (s.blockWord true b o)) with latch := tput 0 s.latch addr (s.blockWord true b (o + 4)) } := by
  change execLatchedCounterRead addr false s = _
  simp only [execLatchedCounterRead, hblock, hwide, Bool.true_eq_false, Bool.false_eq_true, if_false]

theorem exec_latchedCounterRead_high (hblock : blockOf addr = some (b, o)) (hwide : wide b o = true) :
    exec (.latchedCounterRead addr true) s = .next (s.emit (.spineData (tget 0 s.latch addr))) := by
  change execLatchedCounterRead addr true s = _
  simp only [execLatchedCounterRead, hblock, hwide, Bool.true_eq_false, if_false, if_true]

/-! ### Words of a function (R335, R384, R388, R396, R427) -/

/-- A word read of a function that answers. -/
theorem State.readWord_answered {f : Nat} (hpresent : s.fnPresent f = true) (hreset : s.fnResetting f = false) (w : Nat) :
    s.readWord f w = s.emit (.completion f (.data (natLE 4 w))) := by
  simp only [State.readWord, hpresent, hreset, Bool.not_true, Bool.false_eq_true, if_false]

theorem State.readWord_resetting {f : Nat} (hpresent : s.fnPresent f = true) (hreset : s.fnResetting f = true) (w : Nat) :
    s.readWord f w = s.emit (.completion f .unsupportedRequest) := by
  simp only [State.readWord, hpresent, hreset, Bool.not_true, Bool.false_eq_true, if_false, if_true]

theorem State.pageWord_resLost (f : Nat) : s.pageWord f 0x201C = (s.resAt f).lost := by
  simp [State.pageWord, Res.word]

section Function

variable {f : Fin 9} {ofs : Nat}

theorem exec_rcRegisterRead_page (hready : s.dev.hiReady = true) (hexists : s.fnExists f = true) (hreset : s.fnResetting f = false)
    (hin : ofs < 2 ^ 16) (halign : ofs % 4 = 0) :
    exec (.rcRegisterRead (.functionPage f) ofs) s =
      .next ((s.toL0.emit (.completion f (.data (natLE 4 (s.pageWord f ofs))))).clearPage f ofs) := by
  have hpresent : s.fnPresent f = true := by simp only [State.fnPresent, hready, hexists, Bool.and_self]
  have hreach : s.hostReaches f = true := by simp only [State.hostReaches, hpresent, hreset, Bool.not_false, Bool.and_self]
  change execRcRegisterRead (.functionPage f) ofs s = _
  simp only [execRcRegisterRead, halign, hin.not_ge, hreach, State.tlp_of_ready hready, ne_eq, not_true_eq_false, if_false, if_true]
  exact congrArg (fun t => Host.Outcome.next (State.clearPage t f ofs)) (State.readWord_answered (s := s.toL0) hpresent hreset _)

theorem exec_rcRegisterRead_page_resetting (hready : s.dev.hiReady = true) (hexists : s.fnExists f = true) (hreset : s.fnResetting f = true)
    (hin : ofs < 2 ^ 16) (halign : ofs % 4 = 0) :
    exec (.rcRegisterRead (.functionPage f) ofs) s = .next (s.toL0.emit (.completion f .unsupportedRequest)) := by
  have hpresent : s.fnPresent f = true := by simp only [State.fnPresent, hready, hexists, Bool.and_self]
  have hreach : s.hostReaches f = false := by simp only [State.hostReaches, hpresent, hreset, Bool.not_true, Bool.and_false]
  change execRcRegisterRead (.functionPage f) ofs s = _
  simp only [execRcRegisterRead, halign, hin.not_ge, hreach, State.tlp_of_ready hready, ne_eq, not_true_eq_false, Bool.false_eq_true, if_false]
  exact congrArg _ (State.readWord_resetting (s := s.toL0) hpresent hreset _)

theorem exec_rcRegisterRead_config (hready : s.dev.hiReady = true) (hin : ofs < 2 ^ 12) (halign : ofs % 4 = 0) :
    exec (.rcRegisterRead (.config f) ofs) s = .next (s.toL0.readWord f (s.headerWord f ofs)) := by
  change execRcRegisterRead (.config f) ofs s = _
  simp only [execRcRegisterRead, halign, hin.not_ge, State.tlp_of_ready hready, ne_eq, not_true_eq_false, if_false]

end Function

/-- PF0 is always there and never under reset, so its capabilities answer. -/
theorem State.readWord_pf0 (hready : s.dev.hiReady = true) (w : Nat) : s.toL0.readWord 0 w = s.toL0.emit (.completion 0 (.data (natLE 4 w))) := by
  refine State.readWord_answered (s := s.toL0) ?_ rfl w
  change (s.dev.hiReady && true) = true
  rw [hready]
  rfl

theorem exec_rcRegisterRead_sriov (hready : s.dev.hiReady = true) {ofs : Nat} (hin : ofs < 0x40) (halign : ofs % 4 = 0) :
    exec (.rcRegisterRead .sriov ofs) s = .next (s.toL0.emit (.completion 0 (.data (natLE 4 (s.sriovWord ofs))))) := by
  change execRcRegisterRead .sriov ofs s = _
  simp only [execRcRegisterRead, halign, hin.not_ge, State.tlp_of_ready hready, State.readWord_pf0 hready, ne_eq, not_true_eq_false, if_false]

theorem exec_rcRegisterRead_mailbox (hready : s.dev.hiReady = true) {ofs : Nat} (hin : ofs < 0x68) (halign : ofs % 4 = 0) :
    exec (.rcRegisterRead .mailbox ofs) s = .next (s.toL0.emit (.completion 0 (.data (natLE 4 (s.mailboxWord ofs))))) := by
  change execRcRegisterRead .mailbox ofs s = _
  simp only [execRcRegisterRead, halign, hin.not_ge, State.tlp_of_ready hready, State.readWord_pf0 hready, ne_eq, not_true_eq_false, if_false]

/-- Settles O20: a register by its path, a word of a function's page or header, and the words of PF0's capabilities. -/
theorem registerReadsAnswer : Obligations.RegisterReadsAnswer := by
  refine ⟨fun s addr b o hlow hhigh halign hblock => ⟨exec_rcRegisterRead_spine halign hblock,
      fun hready hslice hserved hfused hdom => exec_rcRegisterRead_bar4 hlow hhigh halign hblock hready hslice hserved hfused hdom,
      fun hwide => ⟨exec_latchedCounterRead_low hblock hwide, exec_latchedCounterRead_high hblock hwide⟩⟩,
    fun s f hready hexists => ⟨fun hreset => ?answers, fun hreset ofs hin halign => ?resetting⟩, fun s hready => ?capabilities⟩
  case answers =>
    have hpresent : s.toL0.fnPresent f = true := by
      change (s.dev.hiReady && s.fnExists f) = true
      rw [hready, hexists]
      rfl
    have hheader : ∀ ofs, ofs < 2 ^ 12 → ofs % 4 = 0 →
        exec (.rcRegisterRead (.config f) ofs) s = .next (s.toL0.emit (.completion f (.data (natLE 4 (s.headerWord f ofs))))) :=
      fun ofs hin halign => (exec_rcRegisterRead_config hready hin halign).trans (congrArg _ (State.readWord_answered hpresent hreset _))
    refine ⟨fun ofs hin halign hne => ?_, ?_, fun hpf => ?_, hheader 8 (by decide) rfl, hheader 0x2C (by decide) rfl⟩
    · rw [exec_rcRegisterRead_page hready hexists hreset hin halign, State.clearPage, if_neg hne]
    · rw [exec_rcRegisterRead_page hready hexists hreset (by decide) rfl, State.pageWord_resLost]
      rfl
    · rw [hheader 0 (by decide) rfl, State.headerWord, if_pos hpf]
      rfl
  case resetting =>
    have hpresent : s.toL0.fnPresent f = true := by
      change (s.dev.hiReady && s.fnExists f) = true
      rw [hready, hexists]
      rfl
    exact ⟨(exec_rcRegisterRead_config hready hin halign).trans (congrArg _ (State.readWord_resetting hpresent hreset _)),
      exec_rcRegisterRead_page_resetting hready hexists hreset (by omega) halign⟩
  case capabilities =>
    exact ⟨exec_rcRegisterRead_sriov hready (by decide) rfl, exec_rcRegisterRead_sriov hready (by decide) rfl,
      exec_rcRegisterRead_sriov hready (by decide) rfl, fun ofs hin halign => exec_rcRegisterRead_mailbox hready hin halign⟩

/-! ### Writes (R302, R335, R383, R389, R427, R494) -/

theorem natLE_length (n v : Nat) : (natLE n v).length = n := by
  induction n generalizing v with
  | zero => rfl
  | succ n ih => simp only [natLE, List.length_cons, ih]

/-- A number's low bytes are the number modulo their range (R10). -/
theorem leNat_natLE (n v : Nat) : leNat (natLE n v) = v % 256 ^ n := by
  induction n generalizing v with
  | zero => simp [natLE, leNat, Nat.mod_one]
  | succ n ih =>
    simp only [natLE, leNat, ih, BitVec.toNat_ofNat, pow_succ', Nat.mod_mul]
    omega

/-- A list of n bytes or more read from its start. -/
theorem sliceB_zero_of_length {l : List Byte} {n : Nat} (h : l.length = n) : sliceB l 0 n = l := by
  simp only [sliceB, List.drop_zero, ← h, List.take_length, Nat.sub_self, List.replicate_zero, List.append_nil]

/-- The word that a BAR4 write of four bytes carries. -/
theorem leAt_natLE_word (v : Nat) : BitVec.ofNat 32 (leAt (natLE 4 v) 0 4) = BitVec.ofNat 32 v := by
  rw [leAt, sliceB_zero_of_length (natLE_length 4 v), leNat_natLE]
  exact BitVec.eq_of_toNat_eq (by simp only [BitVec.toNat_ofNat]; norm_num)

theorem State.serveReg_write {v : Nat} (hblock : blockOf addr = some (b, o)) (hfused : s.blockFused b = false) :
    s.serveReg addr (natLE 4 v) = s.writeWord false b o (BitVec.ofNat 32 v) := by
  have hsome : (natLE 4 v).isEmpty = false := rfl
  have hlen : ¬(natLE 4 v).length = 8 := by rw [natLE_length]; decide
  simp only [State.serveReg, hblock, hfused, hsome, if_neg hlen, leAt_natLE_word, Bool.false_eq_true, if_false]

theorem exec_registerWrite_bar4 {ofs : Nat} {v : BitVec 64} (hready : s.dev.hiReady = true) (hin : ofs < 2 ^ 24) (halign : ofs % 4 = 0)
    (hblock : blockOf (regBase + s.hi.slice * 2 ^ 24 + ofs) = some (b, o)) (hserved : s.blockServed b = true) (hfused : s.blockFused b = false)
    (hdom : blockDomain b = none ∨ ∃ d, blockDomain b = some d ∧ (s.domAt d).st = .on) :
    exec (.registerWrite (.bar4 ofs 4) v) s = .next (s.toL0.writeWord false b o (BitVec.ofNat 32 v.toNat)) := by
  have hgood : ¬((!s.toL0.dev.hiReady) = true ∨ 2 ^ 24 ≤ ofs ∨ ¬(True ∨ 4 = 8) ∨ ofs % 4 ≠ 0) := by
    have hready' : s.toL0.dev.hiReady = true := hready
    simp only [hready', Bool.not_true, Bool.false_eq_true, hin.not_ge, true_or, not_true_eq_false, ne_eq, halign, or_self, not_false_eq_true]
  change execRegisterWrite (.bar4 ofs 4) v s = _
  simp only [execRegisterWrite, targetOnLink, State.tlp_of_ready hready, if_true]
  refine (if_neg hgood).trans ?_
  exact congrArg _ ((State.bar4Access_reached (s := s.toL0) hblock hserved hdom).trans (State.serveReg_write (s := s.toL0) hblock hfused))

theorem exec_registerWrite (target : RegTarget) (v : BitVec 64) : exec (.registerWrite target v) s = execRegisterWrite target v s := rfl

/-- Settles O21: each target's fields; over the link each comes with the link in L0. -/
theorem registerWritesAct : Obligations.RegisterWritesAct := by
  intro s v
  have hanswers : s.dev.hiReady = true → ¬(!s.toL0.dev.hiReady) = true := by
    intro hready
    rw [Bool.not_eq_true', Bool.not_eq_false]
    exact hready
  refine ⟨fun addr b o hblock => ?spine, fun hready => ⟨fun ofs b o hin halign hblock hserved hfused hdom =>
    exec_registerWrite_bar4 hready hin halign hblock hserved hfused hdom, ?aperture, fun i => ?data, fun hgo => ?op, ?link,
    fun f hreach => ⟨fun ofs => ?ring, fun ofs => ?result, fun i high => ?msix⟩⟩⟩
  case spine =>
    change execRegisterWrite (.spine addr) v s = _
    simp only [execRegisterWrite, targetOnLink, hblock, Bool.false_eq_true, if_false]
  all_goals
    simp only [exec_registerWrite, execRegisterWrite, targetOnLink, State.tlp_of_ready hready, if_true]
  case aperture => exact if_pos hready
  case data => exact if_neg (hanswers hready)
  case op => exact (if_neg (hanswers hready)).trans (if_neg (hgo ▸ Bool.false_ne_true))
  case link => exact if_pos hready
  case ring => exact if_pos hreach
  case result => exact if_pos hreach
  case msix => exact if_pos hreach

end Sys2Proof.Machine
end

section
/-! PROOFS. The DDR4 channels at work (R361 to R376, R382): requests, refresh and retraining, ALERT_n, the patrol scrub, power-down and the pattern generator. -/

namespace Sys2Proof.Machine

variable {s : State}

/-- A change of a channel is a matter of what it makes of that channel. -/
theorem State.setChan_congr (s : State) {c : Nat} {g h : Chan → Chan} (e : g (s.chan c) = h (s.chan c)) : s.setChan c g = s.setChan c h := by
  have e' : g (tget {} s.ddr.ch c) = h (tget {} s.ddr.ch c) := e
  simp only [State.setChan, tmod, e']

/-! ### Requests (R18, R363, R364, R369, R372 to R374) -/

section Requests

variable {r : MemReq} {rackOut : Bool}

theorem State.memRequest_outside (h : s.regionOf (64 * r.line) ≠ .dram) : s.memRequest r rackOut = s.emit (.addressError (64 * r.line)) :=
  if_pos h

/-- A request at a READY channel of an awake domain is served; only a rack-out write changes the channel first (R371). -/
theorem State.memRequest_served (hdram : s.regionOf (64 * r.line) = .dram) (hready : (s.chan (s.channelOf (64 * r.line))).st = .ready)
    (hon : (s.domAt (1 + s.channelOf (64 * r.line) / 4)).st = .on) : s.memRequest r false = s.serveReq r := by
  simp [State.memRequest, hdram, hready, hon]

theorem State.memRequest_held (hdram : s.regionOf (64 * r.line) = .dram) (hhold : (s.chan (s.channelOf (64 * r.line))).st = .hold)
    (hroom : (s.chan (s.channelOf (64 * r.line))).waiting r.write.isSome < 64) :
    s.memRequest r false = s.setChan (s.channelOf (64 * r.line)) (fun x => { x with queue := x.queue ++ [r], rackOut := x.rackOut }) := by
  simp [State.memRequest, hdram, hhold, hroom.not_ge, b2n]

end Requests

@[simp] theorem State.touchRank_channelOf (s : State) (a b : Nat) : (s.touchRank a).channelOf b = s.channelOf b := rfl

@[simp] theorem State.touchRank_poison (s : State) (a : Nat) : (s.touchRank a).mem.poison = s.mem.poison := rfl

section Ecc

variable {line : Nat}

theorem State.eccRead_clean (hclean : tget false s.mem.poison line = false) : s.eccRead line .clean = s := by
  simp [State.eccRead, hclean]

theorem State.eccRead_single (hclean : tget false s.mem.poison line = false) :
    s.eccRead line .single = s.setChan (s.channelOf (64 * line)) (fun x => { x with ce := satAdd 32 x.ce 1 }) := by
  simp [State.eccRead, hclean]

theorem State.eccRead_uncorrectable : s.eccRead line .uncorrectable = (s.setPoison line true).countUe (s.channelOf (64 * line)) line := rfl

theorem State.lineWrite_whole {data : List Byte} (h : data.length = 64) (poison : Bool) :
    s.lineWrite line data poison = if poison = true then (s.writeRaw (64 * line) data).setPoison line true else s.writeRaw (64 * line) data := by
  simp only [State.lineWrite, List.take_of_length_le h.le]

end Ecc

theorem exec_dramWrite_line {a : Nat} {data : List Byte} {cls : WriteClass} (h : data.length = 64) (hcls : cls ≠ .rackOut) (p : Bool) :
    exec (.dramWrite a data p cls) s = .next (s.memRequest { line := a / 64, write := some (data, p), ecc := .clean } false) := by
  change execDramWrite a data p cls s = _
  simp only [execDramWrite, List.take_of_length_le h.le, hcls, decide_false]

/-- Settles O22: where the request lies, what its channel does with it, and what ECC finds of a line that is read. -/
theorem dramRequestsServedOrHeld : Obligations.DramRequestsServedOrHeld := by
  rintro s a c line rfl rfl
  refine ⟨fun houtside => ⟨fun ecc => congrArg _ (State.memRequest_outside houtside), fun data p cls => congrArg _ (State.memRequest_outside houtside)⟩,
    fun hdram => ⟨fun hready hon => ?served, fun hhold => ?held⟩⟩
  case served =>
    have hread : ∀ ecc, exec (.dramRead a ecc) s = .next ((s.touchRank (64 * (a / 64))).eccRead (a / 64) ecc) :=
      fun ecc => congrArg _ (State.memRequest_served (r := { line := a / 64, write := none, ecc }) hdram hready hon)
    refine ⟨hread .clean, fun hclean => ⟨?_, ?_⟩, ?_, fun data cls hlen hcls => ?_⟩
    · rw [hread, State.eccRead_clean (by rwa [State.touchRank_poison])]
    · rw [hread, State.eccRead_single (by rwa [State.touchRank_poison]), State.touchRank_channelOf]
      rfl
    · rw [hread, State.eccRead_uncorrectable, State.touchRank_channelOf]
      rfl
    have hwrite : ∀ p, exec (.dramWrite a data p cls) s = .next ((s.touchRank (64 * (a / 64))).lineWrite (a / 64) data p) := by
      intro p
      rw [exec_dramWrite_line hlen hcls, State.memRequest_served (r := { line := a / 64, write := some (data, p), ecc := .clean }) hdram hready hon]
      rfl
    simp only [hwrite, State.lineWrite_whole hlen, Bool.false_eq_true, if_false, if_true, and_self]
  case held =>
    refine ⟨fun ecc hroom => congrArg _ (State.memRequest_held (r := { line := a / 64, write := none, ecc }) hdram hhold hroom),
      fun data p cls hlen hcls hroom => ?_⟩
    rw [exec_dramWrite_line hlen hcls, State.memRequest_held (r := { line := a / 64, write := some (data, p), ecc := .clean }) hdram hhold hroom]

/-! ### Upkeep (R365, R367 to R372) -/

section Refresh

variable {ch : Fin 12} {rank : Fin 2} {rm wm n : Nat} {mv : Bool}

/-- What a refresh of a rank does, by the number of refreshes that the rank then has. -/
theorem exec_refresh_of_ready (hready : (s.chan ch).st = .ready) (hself : (s.chan ch).selfRefresh = false) (hrank : rank.val < (s.chan ch).ranks)
    (hn : n = (if rank.val = 0 then (s.chan ch).refreshed.1 else (s.chan ch).refreshed.2) + 1) :
    exec (.refresh ch rank rm wm mv) s =
      if n % 128 ≠ 0 then .next (s.setChan ch (fun _ => { s.chan ch with refreshed := pairSet (s.chan ch).refreshed rank.val n }))
      else .next (s.setChan ch (fun _ =>
        let x := { s.chan ch with
          refreshed := pairSet (s.chan ch).refreshed rank.val n, writeStep := !(s.chan ch).writeStep, moves := satAdd 16 (s.chan ch).moves (b2n mv),
          marginW := if (s.chan ch).writeStep then min 255 wm else (s.chan ch).marginW,
          marginR := if (s.chan ch).writeStep then (s.chan ch).marginR else min 255 rm }
        if (if (s.chan ch).writeStep then wm else rm) < 6 then x.enterHold else x)) := by
  subst hn
  change execRefresh ch rank rm wm mv s = _
  simp only [execRefresh, hready, hself, hrank.not_ge, ne_eq, not_true_eq_false, Bool.false_eq_true, or_self, if_false]

end Refresh

/-- A command that acts on a READY channel not in self-refresh is not passed over. -/
theorem State.chan_serves {c : Nat} (hready : (s.chan c).st = .ready) (hself : (s.chan c).selfRefresh = false) :
    ¬((s.chan c).st ≠ .ready ∨ (s.chan c).selfRefresh = true) := by
  simp only [hready, hself, ne_eq, not_true_eq_false, Bool.false_eq_true, or_self, not_false_eq_true]

theorem exec_dramTempPoll_of_ready {ch : Fin 12} {ranges : List (Fin 3)} {t : Nat} (hready : (s.chan ch).st = .ready)
    (hself : (s.chan ch).selfRefresh = false) (ht : (((ranges.take (s.chan ch).ranks).map (·.val)).max?).getD (s.chan ch).temp = t) :
    exec (.dramTempPoll ch ranges) s = .next (s.setChan ch (fun x => { x with temp := t, hot := decide (t = 2) })) := by
  change execDramTempPoll ch ranges s = _
  simp only [execDramTempPoll, hready, hself, ht, ne_eq, not_true_eq_false, false_and, Bool.false_eq_true, or_self, if_false]

theorem exec_prechargePowerDown_of_ready {ch : Fin 12} {rank : Fin 2} (hready : (s.chan ch).st = .ready) (hself : (s.chan ch).selfRefresh = false)
    (hempty : (s.chan ch).queue = []) (hrank : rank.val < (s.chan ch).ranks) :
    exec (.prechargePowerDown ch rank) s = .next (s.setChan ch (fun x => { x with powerDown := pairSet x.powerDown rank.val true })) := by
  change execPrechargePowerDown ch rank s = _
  simp only [execPrechargePowerDown, hready, hself, hempty, hrank.not_ge, List.isEmpty_nil, Bool.not_true, ne_eq, not_true_eq_false,
    Bool.false_eq_true, or_self, if_false]

/-- Settles O23: each command on a READY channel, and the count of replays. -/
theorem channelUpkeepActs : Obligations.ChannelUpkeepActs := by
  refine ⟨fun s ch hready hself => ⟨fun rank rm wm mv n hrank hn => ⟨fun hplain => ?plain, fun hstep hread => ?read, fun hstep hwrite => ?write⟩,
    if_neg (State.chan_serves hready hself), fun hcrc => ?crc, fun hnone => ?start, rfl, fun r0 hranks => ?one, fun r0 r1 hranks => ?two,
    fun hempty hranks => exec_prechargePowerDown_of_ready (rank := 0) hready hself hempty hranks,
    fun hempty hranks => exec_prechargePowerDown_of_ready (rank := 1) hready hself hempty hranks⟩, fun x => ⟨fun hmany => ?hold, fun hfew => ?count⟩⟩
  case plain =>
    rw [exec_refresh_of_ready hready hself hrank hn, if_pos hplain]
    exact congrArg _ (State.setChan_congr _ rfl)
  case read =>
    rw [exec_refresh_of_ready hready hself hrank hn, if_neg (by simp only [hstep, ne_eq, not_true_eq_false, not_false_eq_true])]
    refine congrArg _ (State.setChan_congr _ ?_)
    simp only [hread, Bool.not_false, Bool.false_eq_true, if_false]
    rfl
  case write =>
    rw [exec_refresh_of_ready hready hself hrank hn, if_neg (by simp only [hstep, ne_eq, not_true_eq_false, not_false_eq_true])]
    refine congrArg _ (State.setChan_congr _ ?_)
    simp only [hwrite, Bool.not_true, if_true]
    rfl
  case crc =>
    change execWriteCrcAlert ch s = _
    simp only [execWriteCrcAlert, hready, hcrc, ne_eq, not_true_eq_false, Bool.not_true, Bool.false_eq_true, or_self, if_false]
    rfl
  case start =>
    change execWriteCrcIntervalStart ch s = _
    simp only [execWriteCrcIntervalStart, hready, hself, hnone, ne_eq, not_true_eq_false, Bool.false_eq_true, lt_self_iff_false, or_self, if_false]
  case one =>
    exact exec_dramTempPoll_of_ready hready hself (by simp [hranks])
  case two =>
    exact exec_dramTempPoll_of_ready hready hself (by simp [hranks, List.max?])
  case hold =>
    rw [Chan.replay, if_pos hmany]
    exact ⟨rfl, rfl, rfl⟩
  case count => rw [Chan.replay, if_neg hfew.not_ge]

/-! ### The end of a RETRAIN_HOLD, the patrol scrub and the pattern generator (R369, R372, R376, R382) -/

theorem exec_retrainHoldDone_of_hold {ch : Fin 12} {rm wm : Nat} (hhold : (s.chan ch).st = .hold) :
    exec (.retrainHoldDone ch rm wm) s =
      if rm < 12 ∨ wm < 12 then .next ((s.setChan ch (fun x => { x with
        st := .ready, marginR := min 255 rm, marginW := min 255 wm, queue := [], rackOut := 0, patRun := false })).failChannel ch)
      else .next ((s.chan ch).queue.foldl State.serveReq (s.setChan ch (fun x => { x with
        st := .ready, marginR := min 255 rm, marginW := min 255 wm, queue := [], rackOut := 0, patRun := false }))) := by
  change execRetrainHoldDone ch rm wm s = _
  simp only [execRetrainHoldDone, hhold, ne_eq, not_true_eq_false, if_false]

/-- The patrol scrub is on and finds lines to read. -/
theorem State.patrol_runs (hscrub : s.ddr.scrubEnable = true) (hbytes : 0 < s.dramBytes) (hstage : s.dev.stage = .ready) :
    ¬((!s.ddr.scrubEnable) = true ∨ s.dramBytes = 0 ∨ s.dev.stage ≠ .ready) := by
  simp only [hscrub, hbytes.ne', hstage, Bool.not_true, Bool.false_eq_true, ne_eq, not_true_eq_false, or_self, not_false_eq_true]

theorem exec_patrolScrubLine_ready {ecc : EccFind} {a : Nat} (hscrub : s.ddr.scrubEnable = true) (hbytes : 0 < s.dramBytes)
    (hstage : s.dev.stage = .ready) (ha : a = s.ddr.patrol % s.dramBytes) (hready : (s.chan (s.channelOf a)).st = .ready)
    (hon : (s.domAt (1 + s.channelOf a / 4)).st = .on) : exec (.patrolScrubLine ecc) s = .next ((s.patrolRead a ecc).patrolNext a) := by
  subst ha
  change execPatrolScrubLine ecc s = _
  refine (if_neg (State.patrol_runs hscrub hbytes hstage)).trans ?_
  simp [hready, hon]

theorem exec_patrolScrubLine_failed {ecc : EccFind} {a : Nat} (hscrub : s.ddr.scrubEnable = true) (hbytes : 0 < s.dramBytes)
    (hstage : s.dev.stage = .ready) (ha : a = s.ddr.patrol % s.dramBytes) (hfailed : (s.chan (s.channelOf a)).st = .failed) :
    exec (.patrolScrubLine ecc) s = .next (s.patrolNext a) := by
  subst ha
  change execPatrolScrubLine ecc s = _
  exact (if_neg (State.patrol_runs hscrub hbytes hstage)).trans (if_pos hfailed)

theorem State.patrolRead_decoded {ecc : EccFind} {a : Nat} (h : ecc ≠ .uncorrectable) : s.patrolRead a ecc = (s.touchRank a).eccRead (a / 64) ecc :=
  if_neg h

theorem exec_patgenDone_of_run {ch : Fin 12} {n : Nat} {lane : Fin 72} (hrun : (s.chan ch).patRun = true) :
    exec (.patgenDone ch n lane) s = .next (s.setChan ch (fun x => { x with
      patRun := false, cmpDone := true, cmpErrors := if bitsOf (s.chan ch).patgen.toNat 24 2 = 0 then 0 else min n (2 ^ 23 - 1),
      cmpLane := if (if bitsOf (s.chan ch).patgen.toNat 24 2 = 0 then 0 else min n (2 ^ 23 - 1)) = 0 then 0 else lane.val })) := by
  change execPatgenDone ch n lane s = _
  simp only [execPatgenDone, hrun, Bool.not_true, Bool.false_eq_true, if_false]

/-- Settles O24: the verdict on the margins, the line the scrub is at, and GO by its bit and the channel's state. -/
theorem retrainScrubAndPatternsAct : Obligations.RetrainScrubAndPatternsAct := by
  intro s
  refine ⟨fun ch rm wm hhold => ⟨fun hr hw => ?good, fun hbad => ?bad⟩, fun a c hscrub hbytes hstage ha hc => ⟨fun hready hon => ?patrol, fun hfailed e => ?skip⟩,
    fun ch v => ⟨fun hgo => ?noGo, fun hgo hst => ?training, fun hgo hst hop => ?compare⟩, fun ch n lane hrun => ⟨fun hop => ?silent, fun hop hn => ?errors⟩⟩
  case good => rw [exec_retrainHoldDone_of_hold hhold, if_neg (by omega)]
  case bad => rw [exec_retrainHoldDone_of_hold hhold, if_pos hbad]
  case patrol =>
    subst hc
    rw [exec_patrolScrubLine_ready hscrub hbytes hstage ha hready hon, exec_patrolScrubLine_ready hscrub hbytes hstage ha hready hon,
      State.patrolRead_decoded (by decide), State.patrolRead_decoded (by decide)]
    exact ⟨rfl, rfl⟩
  case skip =>
    subst hc
    exact exec_patrolScrubLine_failed hscrub hbytes hstage ha hfailed
  case noGo =>
    change execPatgenGo ch v s = _
    exact if_pos (.inl (by rw [hgo]; rfl))
  case training =>
    change execPatgenGo ch v s = _
    refine (if_neg (by simp only [hgo, hst, Bool.not_true, Bool.false_eq_true, ne_eq, not_true_eq_false, false_and, or_self, not_false_eq_true])).trans ?_
    exact congrArg _ (if_neg (by simp only [hst, reduceCtorEq, false_and, not_false_eq_true]))
  case compare =>
    change execPatgenGo ch v s = _
    refine (if_neg (by simp only [hgo, hst, Bool.not_true, Bool.false_eq_true, ne_eq, not_true_eq_false, and_false, or_self, not_false_eq_true])).trans ?_
    exact congrArg _ (if_neg (by simp only [hop, ne_eq, not_true_eq_false, and_false, not_false_eq_true]))
  case silent => simp only [exec_patgenDone_of_run hrun, hop, if_true]
  case errors =>
    have hne : min n (2 ^ 23 - 1) ≠ 0 := by omega
    simp only [exec_patgenDone_of_run hrun, if_neg hop, if_neg hne]

end Sys2Proof.Machine
end

section
/-! PROOFS. Power-on, power loss and the start-up pins (R458, R459, R506 to R508), training and its end (R358 to R361), the tasting and the start's scrub (R462 to R471, R476). -/

namespace Sys2Proof.Machine

variable {s : State}

/-! ### Power (R458, R459, R506 to R508; log 4) -/

theorem exec_powerOn_of_off (hoff : s.dev.pwrgd = false) (st : Straps) :
    exec (.powerOn st) s =
      if st.sysResetN then .next (s.powerUp st) else .next { s with dev := { s.dev with pwrgd := true, straps := st } } := by
  change execPowerOn st s = _
  simp only [execPowerOn, hoff, Bool.false_eq_true, if_false]

/-- A system reset is a power loss followed by the sequence (R458, R507). -/
theorem exec_sysReset_of_on (hon : s.dev.pwrgd = true) (st : Straps) : exec (.sysReset st) s = exec (.powerOn st) s.powerFall := by
  rw [exec_powerOn_of_off (s := s.powerFall) rfl st]
  change execSysReset st s = _
  simp only [execSysReset, hon, Bool.not_true, Bool.false_eq_true, if_false]

/-- With no channel in service no address lies in the DRAM, and all of the address space is lost (log 4). -/
theorem State.byteAt_powerFall (s : State) {a : Nat} (ha : a < 2 ^ 40) : s.powerFall.byteAt a = Config.freeByte s.mem.epoch a := by
  have hfail : s.powerFall.failedAt a = false := by
    have hregion : s.powerFall.regionOf a ≠ .dram := by
      unfold State.regionOf
      rw [if_neg (by change ¬a < 0; omega)]
      split_ifs <;> exact fun h => by cases h
    simp only [State.failedAt, hregion, decide_false, Bool.false_and]
  have hlost : lostAt s.powerFall.mem.undef a = some (0, 2 ^ 40, s.mem.epoch) := by
    change lostAt [(0, 2 ^ 40, s.mem.epoch)] a = _
    simpa [lostAt] using ha
  rw [State.byteAt_eq, hfail, hlost]
  rfl

/-- Settles O25: each command's branch; what a power loss leaves is read off `State.powerFall`. -/
theorem powerCommandsRestartDevice : Obligations.PowerCommandsRestartDevice := by
  intro s st
  refine ⟨fun hoff hhigh => ?on, fun hoff hlow => ?held, ⟨s.powerFall, rfl, rfl, rfl, rfl, rfl, rfl, rfl, rfl, rfl, rfl, rfl, rfl, rfl, rfl, rfl, rfl,
    rfl, rfl, rfl, rfl, rfl, rfl, rfl, rfl, rfl, rfl, fun a ha => s.byteAt_powerFall ha, fun hon => exec_sysReset_of_on hon st⟩,
    fun hup hstage => ?slow, fun hup hmp hclock => ?perst⟩
  case on => rw [exec_powerOn_of_off hoff, if_pos hhigh]
  case held => rw [exec_powerOn_of_off hoff, if_neg (hlow ▸ Bool.false_ne_true)]
  case slow =>
    change execSlowClockTimeout s = _
    exact if_pos ⟨hup, hstage⟩
  case perst =>
    change execPerstNRising s = _
    simp only [execPerstNRising, hup, hclock, hmp, ne_eq, not_false_eq_true, decide_true, Bool.not_false, Bool.and_self, Bool.or_true, if_true]

/-! ### Training (R358, R359, R361) -/

/-- Of the twelve channels only `c` passes a test that only `c` passes. -/
theorem filter_range_eq_singleton {p : Nat → Bool} (c : Fin 12) (hc : p c = true) (hother : ∀ d : Fin 12, d ≠ c → p d = false) :
    (List.range 12).filter p = [c.val] := by
  have hp : ∀ x ∈ List.range 12, p x = decide (x = c.val) := by
    intro x hx
    by_cases h : x = c.val
    · rw [h, hc, decide_eq_true rfl]
    · rw [decide_eq_false h]
      exact hother ⟨x, List.mem_range.mp hx⟩ (fun hd => h (congrArg Fin.val hd))
  rw [List.filter_congr hp]
  clear hc hother hp
  revert c
  decide

/-- Training by hardware ends for the one channel that waits for it. -/
theorem exec_hwTrainingDone_one {c : Fin 12} {ok ok2 : BitVec 12} {rm wm : Fin 65} (htrain : (s.chan c).st = .training)
    (hfirst : (s.chan c).needsFallback = false) (hother : ∀ d : Fin 12, d ≠ c → (s.chan d).st ≠ .training ∨ (s.chan d).needsFallback = true)
    (hon : (s.domAt 1).st = .on ∨ (s.domAt 2).st = .on ∨ (s.domAt 3).st = .on) :
    exec (.hwTrainingDone ok ok2 rm wm) s = .next ((s.setChan c (fun x =>
      if ok.getLsbD c && ok2.getLsbD c then x.ready rm wm else { x with needsFallback := true, retried := ok.getLsbD c })).trainingEnd) := by
  have hone : (List.range 12).filter (fun c => decide ((s.chan c).st = .training) && !(s.chan c).needsFallback) = [c.val] := by
    refine filter_range_eq_singleton c (by simp [htrain, hfirst]) fun d hd => ?_
    rcases hother d hd with h | h <;> simp [h]
  have hany : [1, 2, 3].any (fun d => decide ((s.domAt d).st = .on)) = true := by simpa using hon
  change execHwTrainingDone ok ok2 rm wm s = _
  simp only [execHwTrainingDone, hone, hany, List.isEmpty_cons, Bool.not_true, Bool.false_eq_true, or_self, if_false, List.foldl_cons, List.foldl_nil]

/-- A run of the fallback ends: the channel is fenced, READY, or goes back once. -/
theorem exec_trainingFallbackDone_of_waiting {ch : Fin 12} {r w : Nat} {ok : Bool} (htrain : (s.chan ch).st = .training)
    (hwaits : (s.chan ch).needsFallback = true) :
    exec (.trainingFallbackDone ch r w ok) s =
      if r < 12 ∨ w < 12 then .next (s.fenceChannel ch).trainingEnd
      else if ok then .next (s.setChan ch (fun x => x.ready (min r 255) (min w 255))).trainingEnd
      else if (s.chan ch).retried then .next (s.fenceChannel ch).trainingEnd
      else .next (s.setChan ch (fun x => { x with retried := true })) := by
  change execTrainingFallbackDone ch r w ok s = _
  simp only [execTrainingFallbackDone, htrain, hwaits, ne_eq, not_true_eq_false, Bool.not_true, Bool.false_eq_true, or_self, if_false]

/-- No channel trains any more at the start: the interleave is set and the tasting begins. -/
theorem State.trainingEnd_of_start (hstage : s.dev.stage = .training) (hnone : ∀ c : Fin 12, (s.chan c).st ≠ .training) :
    s.trainingEnd = { s.setInterleave with dev := { s.setInterleave.dev with stage := .tasting } } := by
  have hany : ¬(List.range 12).any (fun c => decide ((s.chan c).st = .training)) = true := by
    rw [List.any_eq_true]
    rintro ⟨c, hc, htrain⟩
    exact hnone ⟨c, List.mem_range.mp hc⟩ (of_decide_eq_true htrain)
  rw [State.trainingEnd, if_neg hany, if_pos hstage]

/-- Settles O26: what training makes of a channel, and its end over the trained ones. -/
theorem trainingSetsChannelsAndInterleave : Obligations.TrainingSetsChannelsAndInterleave := by
  intro s
  refine ⟨fun x r w => ⟨rfl, rfl, rfl, rfl⟩, fun c rm wm ok ok2 htrain hfirst hother hon => ⟨fun hok hok2 => ?trained, fun hbad => ?fallback⟩,
    fun ch r w ok htrain hwaits => ⟨fun hshort => ?short, fun hr hw => ?ready, fun hr hw hretried => ?again, fun hr hw hretried => ?fenced⟩,
    fun hstage hnone => ?done⟩
  case trained => simp only [exec_hwTrainingDone_one htrain hfirst hother hon, hok, hok2, Bool.and_self, if_true]
  case fallback =>
    have hnot : ¬(ok.getLsbD c && ok2.getLsbD c) = true := by
      rcases hbad with h | h <;> simp only [h, Bool.false_and, Bool.and_false, Bool.false_eq_true, not_false_eq_true]
    simp only [exec_hwTrainingDone_one htrain hfirst hother hon, if_neg hnot]
  case short => rw [exec_trainingFallbackDone_of_waiting htrain hwaits, if_pos hshort]
  case ready => rw [exec_trainingFallbackDone_of_waiting htrain hwaits, if_neg (by omega), if_pos rfl]
  case again =>
    rw [exec_trainingFallbackDone_of_waiting htrain hwaits, if_neg (by omega), if_neg Bool.false_ne_true, if_neg (hretried ▸ Bool.false_ne_true)]
  case fenced =>
    rw [exec_trainingFallbackDone_of_waiting htrain hwaits, if_neg (by omega), if_neg Bool.false_ne_true, if_pos hretried]
  case done =>
    rw [State.trainingEnd_of_start hstage hnone]
    exact ⟨rfl, rfl, rfl, decide_eq_true_iff⟩

/-! ### The tasting and the start's scrub (R462 to R471, R476) -/

/-- A scrubbed byte reads 0, and no other byte changes. -/
theorem State.byteAt_scrub (s : State) (lo hi a : Nat) : (s.scrub lo hi).byteAt a = if lo ≤ a ∧ a < hi then 0 else s.byteAt a := by
  have hcells := tget_filter_key (0 : Byte) s.mem.cells (fun k => !(decide (lo ≤ k) && decide (k < hi))) a
  have hlost := lostAt_carve lo hi a s.mem.undef
  rw [State.byteAt_eq, s.byteAt_eq a]
  change (if s.failedAt a = true then 0 else ((lostAt (carve lo hi s.mem.undef) a).map (·.2.2)).elim
    (tget 0 (s.mem.cells.filter (fun e => !(decide (lo ≤ e.1) && decide (e.1 < hi)))) a) (fun e => Config.freeByte e a)) = _
  rw [hcells, hlost]
  by_cases hin : lo ≤ a ∧ a < hi
  · simp [hin.1, hin.2]
  · have hout : (!(decide (lo ≤ a) && decide (a < hi))) = true := by
      simp only [Bool.not_eq_true', Bool.and_eq_false_iff, decide_eq_false_iff_not]
      tauto
    rw [if_neg hin, if_neg hin, if_pos hout]

/-- A byte of a granule among those scrubbed reads 0. -/
theorem State.byteAt_foldl_scrub (l : List Nat) (a : Nat) (s : State) (h : a / 2 ^ 25 ∈ l ∨ s.byteAt a = 0) :
    (l.foldl (fun t g => t.scrub (2 ^ 25 * g) (2 ^ 25 * g + 2 ^ 25)) s).byteAt a = 0 := by
  induction l generalizing s with
  | nil => simpa using h
  | cons g l ih =>
    refine ih _ ?_
    rw [State.byteAt_scrub]
    rcases h with h | h
    · rcases List.mem_cons.mp h with rfl | h
      · exact .inr (if_pos (by omega))
      · exact .inl h
    · exact .inr (by rw [h, ite_self])

/-- The DRAM is whole granules of 32 MiB. -/
theorem State.granule_lt {a : Nat} (ha : a < s.dramBytes) : a / 2 ^ 25 < s.dramBytes / 2 ^ 25 := by
  unfold State.dramBytes at *
  omega

/-- The scrub of the start leaves no partition's memory. -/
theorem State.scrubDram_of_start (hreset : s.dev.reset = none) :
    s.scrubDram = (List.range (s.dramBytes / 2 ^ 25)).foldl (fun t g => t.scrub (2 ^ 25 * g) (2 ^ 25 * g + 2 ^ 25)) s := by
  simp [State.scrubDram, hreset]

/-- Settles O27: the tasting's verdict on the list, and the scrub granule by granule. -/
theorem tastingAndScrubEndStart : Obligations.TastingAndScrubEndStart := by
  intro s hstage
  refine ⟨fun fs htasted hclean => ?ready, fun fs htasted hfault => ?fault, fun hscrubbed => ?scrub, fun hreset a ha _ => ?zero⟩
  case ready =>
    change execTastingDone fs s = _
    simp only [execTastingDone, hstage, htasted, hclean, ne_eq, not_true_eq_false, Bool.false_eq_true, or_self, if_false]
  case fault =>
    refine ⟨{ s.taste fs with dev := { (s.taste fs).dev with stage := .fault, reset := none } }, ?_, rfl, rfl, rfl⟩
    change execTastingDone fs s = _
    simp only [execTastingDone, hstage, htasted, hfault, ne_eq, not_true_eq_false, Bool.false_eq_true, or_self, if_false, if_true]
  case scrub =>
    change execDramScrubDone s = _
    simp only [execDramScrubDone, hstage, hscrubbed, ne_eq, not_true_eq_false, Bool.false_eq_true, or_self, if_false]
  case zero =>
    rw [State.scrubDram_of_start hreset]
    exact State.byteAt_foldl_scrub _ a s (.inl (List.mem_range.mpr (State.granule_lt ha)))

end Sys2Proof.Machine
end

section
/-! PROOFS. What the operations of a reset leave as they were, and the resets of the host and the device themselves (R173, R386, R396, R397, R474 to R480). -/

namespace Sys2Proof.Machine

section ResetFrames

variable {s : State}

/-! ### Frames -/

/-- What every step of a fold leaves as it was, the fold leaves as it was. -/
theorem foldl_same {α β : Type} {f : State → β → State} (π : State → α) (h : ∀ s x, π (f s x) = π s) (l : List β) (s : State) :
    π (l.foldl f s) = π s := by
  induction l generalizing s with
  | nil => rfl
  | cons x l ih => exact (ih (f s x)).trans (h s x)

/-- What both branches leave as it was, the choice leaves as it was. -/
theorem ite_same {α : Type} {c : Prop} [Decidable c] {a b s : State} (π : State → α) (ha : π a = π s) (hb : π b = π s) :
    π (if c then a else b) = π s := by
  split
  · exact ha
  · exact hb

/-- An entry of the log changes the log alone. -/
theorem State.log_only (s : State) (code sev src unit arg : Nat) : ∃ (f b : List LogEntry) (q l : Nat),
    s.log code sev src unit arg = { s with mgt := { s.mgt with flashLog := f, logBuf := b, logSeq := q, logLost := l } } := by
  simp only [State.log, State.flushLog]
  split_ifs <;> exact ⟨_, _, _, _, rfl⟩

section Log

variable {code sev src unit arg : Nat}

@[simp] theorem State.log_dev : (s.log code sev src unit arg).dev = s.dev := by
  obtain ⟨f, b, q, l, h⟩ := s.log_only code sev src unit arg
  rw [h]

@[simp] theorem State.log_cp : (s.log code sev src unit arg).cp = s.cp := by
  obtain ⟨f, b, q, l, h⟩ := s.log_only code sev src unit arg
  rw [h]

@[simp] theorem State.log_cel : (s.log code sev src unit arg).cel = s.cel := by
  obtain ⟨f, b, q, l, h⟩ := s.log_only code sev src unit arg
  rw [h]

@[simp] theorem State.log_outbox : (s.log code sev src unit arg).outbox = s.outbox := by
  obtain ⟨f, b, q, l, h⟩ := s.log_only code sev src unit arg
  rw [h]

@[simp] theorem State.log_keys : (s.log code sev src unit arg).mgt.keys = s.mgt.keys := by
  obtain ⟨f, b, q, l, h⟩ := s.log_only code sev src unit arg
  rw [h]

end Log

/-! ### What undoing work on the cores leaves -/

/-- All but power, the memory, the cores, and the Cellarer's tensors and counters. -/
def State.unswitched (s : State) : (Dev × Hi × Mgt × Cp × Media × Text × List Out) × Tbl Part × List (Nat × Run) × List Folio :=
  ((s.dev, s.hi, s.mgt, s.cp, s.media, s.text, s.outbox), s.cel.part, s.cel.runs, s.cel.folios)

/-- All but the memory, the cores, and the Cellarer's tensors and counters. -/
def State.aside (s : State) : ((Dev × Hi × Mgt × Cp × Media × Text × List Out) × Tbl Part × List (Nat × Run) × List Folio) × Pwr :=
  (s.unswitched, s.pwr)

theorem State.unswitched_of_aside {s t : State} (h : t.aside = s.aside) : t.unswitched = s.unswitched := congrArg Prod.fst h

theorem State.writeRaw_aside (s : State) (a : Nat) (bs : List Byte) : (s.writeRaw a bs).aside = s.aside := by
  unfold State.writeRaw
  split <;> rfl

theorem State.writeMem_aside (s : State) (a : Nat) (bs : List Byte) : (s.writeMem a bs).aside = s.aside :=
  foldl_same (f := fun s (e : Nat × List Byte) => s.writeRaw e.1 e.2) State.aside (fun s e => s.writeRaw_aside e.1 e.2) _ s

theorem State.undoQuire_aside (s : State) (n : Nat) : (s.undoQuire n).aside = s.aside := by
  unfold State.undoQuire
  split
  · rfl
  · next a _ =>
    have hwrites := foldl_same (f := fun s e => s.writeMem e.1 e.2) State.aside (fun s e => s.writeMem_aside e.1 e.2) a.undo s
    have hpoison := foldl_same (f := fun s k => s.setPoison k true) State.aside (fun _ _ => rfl) a.undoPoison
    have hscrub := foldl_same (f := fun s (r : Nat × Nat) => s.scrub r.1 (r.1 + r.2)) State.aside (fun _ _ => rfl)
    exact (hscrub _ _).trans ((hpoison _).trans hwrites)

theorem State.stopQuire_aside (s : State) (n outcome : Nat) : (s.stopQuire n outcome).aside = s.aside := by
  unfold State.stopQuire
  split
  · rfl
  · exact s.undoQuire_aside n

theorem State.freeTensor_aside (s : State) (k : Nat) : (s.freeTensor k).aside = s.aside := by
  unfold State.freeTensor
  split
  · rfl
  · dsimp only
    split
    · split <;> rfl
    · rfl

theorem State.freeTensors_aside (s : State) (pick : Tensor → Bool) : (s.freeTensors pick).aside = s.aside :=
  foldl_same (f := fun s (e : Nat × Tensor) => s.freeTensor e.1) State.aside (fun s e => s.freeTensor_aside e.1) _ s

theorem State.charge_aside (s : State) (r c k : Nat) : (s.charge r c k).aside = s.aside := by
  unfold State.charge
  dsimp only
  split <;> rfl

theorem State.chargeScrub_aside (s : State) (who n : Nat) : (s.chargeScrub who n).aside = s.aside := by
  unfold State.chargeScrub
  split
  · rfl
  · exact s.charge_aside who 1 _

/-! ### What ending a partition's work leaves -/

/-- The device, its management, what it sent, the partitions' records and the packets in flight. -/
def State.roots (s : State) : Dev × Mgt × List Out × Tbl Part × List Flight := (s.dev, s.mgt, s.outbox, s.cel.part, s.cp.flight)

theorem State.roots_of_unswitched {s t : State} (h : t.unswitched = s.unswitched) : t.roots = s.roots :=
  congrArg (fun x => (x.1.1, x.1.2.2.1, x.1.2.2.2.2.2.2, x.2.1, x.1.2.2.2.1.flight)) h

theorem State.roots_of_aside {s t : State} (h : t.aside = s.aside) : t.roots = s.roots :=
  State.roots_of_unswitched (State.unswitched_of_aside h)

theorem State.dropMedia_roots (s : State) (p : Nat) : (s.dropMedia p).roots = s.roots :=
  foldl_same (f := fun s (e : Nat × Nat) => s.setCluster e.1 (fun c => { c with busy := c.busy &&& ~~~(BitVec.ofNat 10 (2 ^ e.2)) }))
    State.roots (fun _ _ => rfl) _ s

/-- Partition p's cores without their work, and its tensors freed. -/
def State.emptyCores (s : State) (p : Nat) : State :=
  let s := (s.coresHeld p).foldl (fun s n =>
    (s.undoQuire n).setCore n (fun c => { c.clear with queue := [], second := none, active := none, done := none })) s
  (s.chargeScrub p (s.storeHeld p)).freeTensors (fun t => t.part == p)

theorem State.emptyCores_aside (s : State) (p : Nat) : (s.emptyCores p).aside = s.aside := by
  rw [State.emptyCores, State.freeTensors_aside, State.chargeScrub_aside]
  exact foldl_same State.aside (fun s n => by exact s.undoQuire_aside n) (s.coresHeld p) s

theorem State.dropRuns_roots (s : State) (p : Nat) : (s.dropRuns p).roots = s.roots := by
  rw [← State.roots_of_aside (s.emptyCores_aside p)]
  unfold State.dropRuns State.emptyCores
  dsimp only [State.roots]

theorem State.releaseBins_roots (s : State) (p : Nat) : (s.releaseBins p).roots = s.roots := by
  have hown := foldl_same (f := fun s (e : Nat × Buf) => s.returnBuf e.1) State.roots (fun _ _ => rfl)
    (s.cp.buf.filter (fun e => keyPart e.1 == p)) s
  unfold State.releaseBins
  dsimp only
  rw [← hown]
  generalize List.foldl (fun s (e : Nat × Buf) => s.returnBuf e.1) s (s.cp.buf.filter (fun e => keyPart e.1 == p)) = t
  refine foldl_same State.roots (fun t e => ?_) _ _
  split
  · split_ifs <;> rfl
  · rfl

theorem State.dropFlight_flight (s : State) (fl : Flight) : (s.dropFlight fl).cp.flight = s.cp.flight.filter (fun x => x.id != fl.id) := rfl

/-- A packet dropped leaves the table with every other of its identifier. -/
theorem State.foldl_dropFlight_flight (l : List Flight) (s : State) :
    (l.foldl State.dropFlight s).cp.flight = s.cp.flight.filter (fun x => l.all (fun y => x.id != y.id)) := by
  induction l generalizing s with
  | nil => simp
  | cons y l ih => rw [List.foldl_cons, ih, State.dropFlight_flight, List.filter_filter]; simp [Bool.and_comm]

theorem State.endFlights_drop (s : State) (pick : Nat → Bool) :
    s.endFlights pick false = (s.cp.flight.filter (fun x => pick x.pk.fn)).foldl State.dropFlight s := rfl

/-- No packet of a function that is picked stays in flight. -/
theorem State.endFlights_flight (s : State) (pick : Nat → Bool) :
    (s.endFlights pick false).cp.flight.all (fun f => !pick f.pk.fn) = true := by
  rw [State.endFlights_drop, State.foldl_dropFlight_flight, List.all_eq_true]
  intro f hf
  obtain ⟨hmem, hids⟩ := List.mem_filter.mp hf
  by_contra hpick
  have hself := List.all_eq_true.mp hids f (List.mem_filter.mpr ⟨hmem, by simpa using hpick⟩)
  simp at hself

/-- Ending packets without replies touches the command processor alone. -/
theorem State.endFlights_drop_only (s : State) (pick : Nat → Bool) :
    (fun t : State => (t.dev, t.mgt, t.outbox, t.cel)) (s.endFlights pick false) = (s.dev, s.mgt, s.outbox, s.cel) :=
  foldl_same (f := State.dropFlight) (fun t : State => (t.dev, t.mgt, t.outbox, t.cel)) (fun _ _ => rfl) _ s

/-! ### A function's reset (R173, R396) -/

/-- The state of a function's partition once its packets have ended and its registers are reset. -/
def State.functionReset (s : State) (p : Nat) : State := ((s.log logFlr 0 7 p 0).endFlights (· == p) false).resetFunction p

theorem State.functionReset_kept (s : State) (p : Nat) :
    (s.functionReset p).outbox = s.outbox ∧ (s.functionReset p).cel = s.cel ∧
      (s.functionReset p).cp.flight.all (fun f => f.pk.fn != p) = true := by
  have hreset (t : State) : (t.resetFunction p).outbox = t.outbox ∧ (t.resetFunction p).cel = t.cel ∧
      (t.resetFunction p).cp.flight = t.cp.flight := ⟨rfl, rfl, rfl⟩
  have honly := (s.log logFlr 0 7 p 0).endFlights_drop_only (· == p)
  have hflight := (s.log logFlr 0 7 p 0).endFlights_flight (· == p)
  simp only [Prod.mk.injEq, State.log_outbox, State.log_cel] at honly
  obtain ⟨houtbox, hcel, hkept⟩ := hreset ((s.log logFlr 0 7 p 0).endFlights (· == p) false)
  rw [State.functionReset, houtbox, hcel, hkept]
  exact ⟨honly.2.2.1, honly.2.2.2, hflight⟩

/-- The reset of a VF whose partition holds work. -/
theorem State.resetVf_of_held {p : Nat} (hreset : s.dev.reset = none) (hst : (s.partAt p).st ≠ .resetting) (hfree : (s.partAt p).st ≠ .free) :
    s.resetVf p false = (((((s.functionReset p).dropMedia p).dropRuns p).releaseBins p).dropFolios p).setPart p
      (fun q => { q with st := .resetting, thenFree := decide ((s.partAt p).st = .draining) }) := by
  have hpart : (s.functionReset p).partAt p = s.partAt p := by rw [State.partAt, (s.functionReset_kept p).2.1, State.partAt]
  have hfree' : ¬((s.functionReset p).partAt p).st = .free := hpart ▸ hfree
  simp only [State.resetVf, hreset, Option.isSome_none, Bool.false_eq_true, hst, or_self, if_false]
  exact (if_neg hfree').trans (congrArg (fun b => State.setPart ((((((s.functionReset p).dropMedia p).dropRuns p).releaseBins p).dropFolios p)) p
    (fun q => { q with st := .resetting, thenFree := b })) (congrArg (fun q : Part => decide (q.st = .draining)) hpart))

/-- What a VF's reset leaves as the reset of its function left it. -/
theorem State.resetVf_work_roots (s : State) (p : Nat) :
    ((((s.dropMedia p).dropRuns p).releaseBins p).dropFolios p).roots = s.roots := by
  have hfolios (t : State) : (t.dropFolios p).roots = t.roots := rfl
  rw [hfolios, State.releaseBins_roots, State.dropRuns_roots, State.dropMedia_roots]

/-! ### What stopping leaves (R475) -/

/-- The device's fields, the keys of management and the log's sequence, which no stopping step touches. -/
def State.lasting (s : State) : Dev × Tbl (List Byte) × Nat := (s.dev, s.mgt.keys, s.mgt.logSeq)

theorem State.lasting_of_roots {s t : State} (h : t.roots = s.roots) : t.lasting = s.lasting :=
  congrArg (fun x => (x.1, x.2.1.keys, x.2.1.logSeq)) h

theorem State.lasting_of_aside {s t : State} (h : t.aside = s.aside) : t.lasting = s.lasting :=
  State.lasting_of_roots (State.roots_of_aside h)

theorem State.msix_lasting (s : State) (f v : Nat) : (s.msix f v).lasting = s.lasting := by
  unfold State.msix
  split <;> rfl

theorem State.abortFlight_lasting (s : State) (fl : Flight) : (s.abortFlight fl).lasting = s.lasting := by
  unfold State.abortFlight
  dsimp only
  split
  · rfl
  · exact State.msix_lasting _ _ _

theorem State.endFlights_lasting (s : State) (pick : Nat → Bool) (reply : Bool) : (s.endFlights pick reply).lasting = s.lasting := by
  refine foldl_same State.lasting (fun s fl => ?_) _ s
  split
  · exact s.abortFlight_lasting fl
  · rfl

/-- The partitions' work ended and their buffers returned: the first steps of `State.dropWork`. -/
def State.endWork (s : State) : State :=
  (List.range 8).foldl (fun s i => s.releaseBins (i + 1)) ((List.range 8).foldl (fun s i => (s.dropMedia (i + 1)).dropRuns (i + 1)) s)

theorem State.endWork_lasting (s : State) : s.endWork.lasting = s.lasting := by
  have hruns := foldl_same (f := fun s i => (s.dropMedia (i + 1)).dropRuns (i + 1)) State.roots
    (fun s i => (State.dropRuns_roots _ _).trans (s.dropMedia_roots (i + 1))) (List.range 8) s
  have hbins := foldl_same (f := fun s i => s.releaseBins (i + 1)) State.roots (fun s i => s.releaseBins_roots (i + 1)) (List.range 8)
  exact State.lasting_of_roots ((hbins _).trans hruns)

/-- The cores and clusters as a new boot finds them: the last steps of `State.dropWork`. -/
def State.bareUnits (s : State) : State :=
  (List.range 4).foldl (fun s k => s.setCluster k (fun c => { engines := c.engines })) ((List.range 8).foldl (fun s n => s.setCore n (fun c => {
    defect := c.defect, fuse := c.fuse, enabled := c.enabled, instrs := c.instrs, out := true })) s)

theorem State.bareUnits_lasting (s : State) : s.bareUnits.lasting = s.lasting :=
  (foldl_same State.lasting (fun _ _ => by rfl) (List.range 4) _).trans (foldl_same State.lasting (fun _ _ => by rfl) (List.range 8) s)

theorem State.dropWork_lasting (s : State) : s.dropWork.lasting = s.lasting := by
  rw [← s.endWork_lasting, ← s.endWork.bareUnits_lasting]
  unfold State.dropWork State.bareUnits State.endWork
  dsimp only [State.lasting]

theorem State.stopNow_lasting (s : State) (reply : Bool) : (s.stopNow reply).lasting = s.lasting := by
  have hstop := foldl_same (f := fun s n => s.stopQuire n 4) State.lasting
    (fun s n => State.lasting_of_aside (s.stopQuire_aside n 4)) (List.range 8) s
  refine (State.dropWork_lasting _).trans (Eq.trans ?_ hstop)
  split
  · exact State.endFlights_lasting _ _ _
  · split
    · rfl
    · exact State.endFlights_lasting _ _ _

/-- Stopping leaves no run, ring, window, stream or read. -/
theorem State.stopNow_empty (s : State) (reply : Bool) : (s.stopNow reply).cel.runs = [] ∧ (s.stopNow reply).cp.ring = [] ∧
    (s.stopNow reply).hi.win = [] ∧ (s.stopNow reply).media.streams = [] ∧ (s.stopNow reply).text.reads = [] :=
  ⟨rfl, rfl, rfl, rfl, rfl⟩

theorem State.lose_aside (s : State) (lo hi : Nat) : (s.lose lo hi).aside = s.aside := rfl

theorem State.sleepLoss_aside (s : State) (d : Nat) : (s.sleepLoss d).aside = s.aside := by
  unfold State.sleepLoss
  split_ifs
  · exact (State.lose_aside _ _ _).trans (s.freeTensors_aside _)
  · rfl
  · exact foldl_same State.aside (fun _ _ => by rfl) _ s
  · rfl

theorem State.serveWrites_aside (s : State) (q : List MemReq) : (q.foldl (fun s r => match r.write with
    | some (bs, p) => (s.writeRaw (64 * r.line) bs).setPoison r.line p
    | none => s) s).aside = s.aside := by
  refine foldl_same State.aside (fun s r => ?_) q s
  split
  · exact s.writeRaw_aside _ _
  · rfl

theorem State.quiesce_unswitched (s : State) : s.quiesce.unswitched = s.unswitched := by
  unfold State.quiesce
  refine (foldl_same State.unswitched (fun s d => ?_) (List.range 30) _).trans (foldl_same State.unswitched (fun s c => ?_) (List.range 12) s)
  · split_ifs
    · rfl
    · rfl
    · exact (State.unswitched_of_aside (State.sleepLoss_aside _ d)).trans rfl
  · exact State.unswitched_of_aside (s.serveWrites_aside (s.chan c).queue)

theorem State.finishStop_unswitched (s : State) : s.finishStop.unswitched = s.unswitched := by
  unfold State.finishStop
  split
  · split
    · exact s.quiesce_unswitched
    · rfl
  · rfl

/-! ### A compute reset begins (R474 to R476) -/

/-- The record of a reset that begins: what it waits for (R475). -/
def State.newRun (s : State) (cause : ResetCause) (full mp : Bool) : ResetRun :=
  { cause, full, link := false
    awaitCp := decide (causeCode cause ≠ 4 ∧ causeCode cause ≠ 5) && !s.cpAnswers && !s.cp.flight.isEmpty
    owedReads := (s.cp.flight.filter (fun x => decide (x.wait = .dma))).map (·.id), mp, restarted := false }

/-- The device RESETTING, before its stopping steps. -/
def State.resetting (s : State) (cause : ResetCause) (full mp : Bool) : State :=
  let s := s.log logComputeReset 1 0 0xFFFF (causeCode cause)
  let s := { s with dev := { s.dev with stage := .resetting, deviceFault := false, reset := some (s.newRun cause full mp) } }
  if full then s.dropImages (List.range 59) else s

theorem State.beginReset_of_ready {cause : ResetCause} {full mp : Bool} (hreset : s.dev.reset = none) (hstage : s.dev.stage = .ready) :
    s.beginReset cause full false mp =
      ((s.resetting cause full mp).stopNow (decide (causeCode cause ≠ 4 ∧ causeCode cause ≠ 5))).finishStop := by
  simp only [State.beginReset, Bool.false_eq_true, if_false, hreset, hstage, reduceCtorEq, or_self, false_and, State.resetting, State.newRun]

theorem State.resetting_keys {cause : ResetCause} {full mp : Bool} : (s.resetting cause full mp).mgt.keys = s.mgt.keys := by
  cases full <;> exact State.log_keys

theorem State.resetting_dev {cause : ResetCause} {full mp : Bool} : ∃ r : ResetRun, r.cause = cause ∧ r.full = full ∧ r.mp = mp ∧
    r.restarted = false ∧ (s.resetting cause full mp).dev = { s.dev with stage := .resetting, deviceFault := false, reset := some r } := by
  refine ⟨(s.log logComputeReset 1 0 0xFFFF (causeCode cause)).newRun cause full mp, rfl, rfl, rfl, rfl, ?_⟩
  cases full <;> simp only [State.resetting, State.dropImages, Bool.false_eq_true, if_false, if_true, State.log_dev]

/-- Settles O30: what the stopping steps leave, and the resets that join or start nothing. -/
theorem computeResetBegins : Obligations.ComputeResetBegins := by
  intro s cause full mp
  refine ⟨fun hreset hstage => ?begins, fun r hreset => ?joined, fun hreset hstage => ?nothing⟩
  case begins =>
    rw [State.beginReset_of_ready hreset hstage]
    generalize decide (causeCode cause ≠ 4 ∧ causeCode cause ≠ 5) = reply
    obtain ⟨r, hcause, hfull, hmp, hrestarted, hdev⟩ := s.resetting_dev (cause := cause) (full := full) (mp := mp)
    have haside := ((s.resetting cause full mp).stopNow reply).finishStop_unswitched
    have hlasting := (State.lasting_of_roots (State.roots_of_unswitched haside)).trans ((s.resetting cause full mp).stopNow_lasting reply)
    simp only [State.unswitched, Prod.mk.injEq] at haside
    simp only [State.lasting, Prod.mk.injEq, hdev, State.resetting_keys] at hlasting
    obtain ⟨hruns, hring, hwin, hstreams, hreads⟩ := (s.resetting cause full mp).stopNow_empty reply
    obtain ⟨⟨-, hhi, -, hcp, hmedia, htext, -⟩, -, hcelRuns, -⟩ := haside
    obtain ⟨hfinal, hkeys, -⟩ := hlasting
    rw [hfinal, hhi, hcp, hmedia, htext, hcelRuns, hkeys]
    exact ⟨rfl, rfl, ⟨r, rfl, hcause, hfull, hmp, hrestarted⟩, hruns, hring, hwin, hstreams, hreads, rfl, rfl⟩
  case joined =>
    simp only [State.beginReset, Bool.false_eq_true, if_false, hreset, ResetRun.join]
  case nothing =>
    simp only [State.beginReset, Bool.false_eq_true, if_false, hreset, hstage, reduceCtorEq, false_or, true_or, Bool.not_false, and_self, if_true]

end ResetFrames

/-! ### Resets from the host (R173, R386, R396, R397, R480) -/

section HostResets

variable {s : State}

theorem exec_pf0Flr_of_ready (hready : s.dev.hiReady = true) (hheld : s.hostResetHeld = false) : exec .pf0Flr s =
    .next (({ s with hi := { s.hi with pmState := 0, vfEnable := false, numVFs := 0, aspm := 0, msix := [] } } : State).beginReset
      .pf0Flr false false false).settle := by
  change execPf0Flr s = _
  simp only [execPf0Flr, hready, Bool.not_true, Bool.false_eq_true, if_false, State.tlp_of_ready hready]
  exact if_neg (by rw [Bool.not_eq_true]; exact hheld)

theorem exec_vfResetDone_of_resetting {vf : Fin 8} (h : (s.partAt (vf.val + 1)).st = .resetting) : exec (.vfResetDone vf) s =
    if (((s.scrubBins (vf.val + 1)).returnCores (vf.val + 1)).partAt (vf.val + 1)).thenFree then
      .next ((((s.scrubBins (vf.val + 1)).returnCores (vf.val + 1)).freePart (vf.val + 1)).refillAll).settle
    else .next ((((s.scrubBins (vf.val + 1)).returnCores (vf.val + 1)).setPart (vf.val + 1) (fun q => { q with st := .opened })).refillAll).settle := by
  change execVfResetDone vf s = _
  simp only [execVfResetDone, h, ne_eq, not_true_eq_false, if_false]

theorem exec_computeResetRestart_of_stopped {r : ResetRun} (h : s.dev.reset = some r) (hcp : r.awaitCp = false) (howed : r.owedReads = [])
    (hnew : r.restarted = false) : exec .computeResetRestart s =
      if !r.mp then .next s.restart
      else if s.restart.mgt.mpState = 2 then
        .next ({ s.restart with dev := { s.restart.dev with stage := .recovery, reset := none } }).mpBack
      else .next s.restart.mpBack := by
  change execComputeResetRestart s = _
  simp only [execComputeResetRestart, h, hcp, howed, hnew, Bool.false_eq_true, ne_eq, not_true_eq_false, or_self, if_false]

theorem State.resetVf_partAt {p : Nat} (hreset : s.dev.reset = none) (hst : (s.partAt p).st ≠ .resetting) (hfree : (s.partAt p).st ≠ .free) :
    ∃ q : Part, (s.resetVf p false).partAt p = { q with st := .resetting, thenFree := decide ((s.partAt p).st = .draining) } := by
  rw [State.resetVf_of_held hreset hst hfree]
  generalize ((((s.functionReset p).dropMedia p).dropRuns p).releaseBins p).dropFolios p = t
  exact ⟨t.partAt p, tget_tput_ne _ _ _ _ (fun h => by cases congrArg Part.st h)⟩

theorem State.resetVf_kept {p : Nat} (hreset : s.dev.reset = none) (hst : (s.partAt p).st ≠ .resetting) (hfree : (s.partAt p).st ≠ .free) :
    (s.resetVf p false).cp.flight.all (fun f => f.pk.fn != p) = true ∧ (s.resetVf p false).outbox = s.outbox := by
  rw [State.resetVf_of_held hreset hst hfree]
  have hroots := (s.functionReset p).resetVf_work_roots p
  obtain ⟨houtbox, -, hflight⟩ := s.functionReset_kept p
  simp only [State.roots, Prod.mk.injEq] at hroots
  obtain ⟨-, -, hout, -, hfl⟩ := hroots
  rw [State.setPart_outbox, State.setPart_cp, hout, hfl]
  exact ⟨hflight, houtbox⟩

end HostResets

/-- Settles O29: each reset by the path it takes, a VF's by what its work and its function's reset leave. -/
theorem hostResetsAct : Obligations.HostResetsAct := by
  intro s
  refine ⟨fun hup hheld => ?link, fun hup hstage => ?shutdown, fun hready hheld => exec_pf0Flr_of_ready hready hheld, fun vf h => ?flr,
    fun p hreset hst hfree => ?vf, fun vf h => ?done, fun e n hready => ?enable, fun r hreset => ?run⟩
  case link =>
    have hlink {cause : LinkResetCause} : exec (.linkReset cause) s = execLinkReset cause s := rfl
    simp only [hlink, execLinkReset, hup, hheld, Bool.not_true, Bool.false_eq_true, reduceCtorEq, if_false, if_true, true_and]
    exact if_neg (by rw [Bool.not_eq_true]; exact hheld)
  case shutdown =>
    have hheld : s.hostResetHeld = true := by simp only [State.hostResetHeld, hstage, decide_true, Bool.true_or]
    change execLinkReset .hotReset s = _
    simp only [execLinkReset, hup, hheld, Bool.not_true, Bool.false_eq_true, reduceCtorEq, if_false, if_true, State.resetHi]
  case flr =>
    exact if_pos (State.fnPresent_of_reaches h)
  case vf =>
    obtain ⟨q, hq⟩ := State.resetVf_partAt hreset hst hfree
    rw [hq]
    exact ⟨rfl, decide_eq_true_iff, State.resetVf_kept hreset hst hfree⟩
  case done =>
    rw [exec_vfResetDone_of_resetting h]
    exact ⟨fun hfree => if_pos hfree, fun hopen => if_neg (by rw [hopen]; exact Bool.false_ne_true)⟩
  case enable =>
    exact if_pos hready
  case run =>
    refine ⟨fun hcp => ?_, fun howed => ?_, fun hcp howed hnew => ?_⟩
    · change execCpAbortReplyTimeout s = _
      simp only [execCpAbortReplyTimeout, hreset, hcp, if_true]
    · change execReadCompletionDrop s = _
      simp only [execReadCompletionDrop, hreset, howed, if_false]
    · rw [exec_computeResetRestart_of_stopped hreset hcp howed hnew]
      exact ⟨fun hmp => if_pos (by rw [hmp, Bool.not_false]), fun hmp => if_neg (by rw [hmp, Bool.not_true]; exact Bool.false_ne_true)⟩

end Sys2Proof.Machine
end

section
/-! PROOFS. Firmware delivery (R441, R442), the Cask and the trace port (R446 to R454, R482, R483), the link, the log, the heartbeat and the sideband's address. -/

namespace Sys2Proof.Machine

section Firmware

variable {s : State}

/-! ### Firmware delivery (R441, R442) -/

/-- A fold over the numbers below `n` of which one alone acts. -/
theorem foldl_range_one {α : Type} {f : α → Nat → α} {c : Nat} (hidle : ∀ a i, i ≠ c → f a i = a) (n : Nat) (a : α) :
    (List.range n).foldl f a = if c < n then f a c else a := by
  induction n with
  | zero => rfl
  | succ n ih =>
    rw [List.range_succ, List.foldl_append, ih, List.foldl_cons, List.foldl_nil]
    by_cases hc : c = n
    · rw [if_neg (by omega), if_pos (by omega), hc]
    · rw [hidle _ n (Ne.symm hc)]
      exact if_congr (by omega) rfl rfl

theorem bitOf_two_pow (n i : Nat) : bitOf (2 ^ n) i = decide (i = n) := by
  have h := Nat.testBit_two_pow (n := n) (m := i)
  rw [Nat.testBit_eq_decide_div_mod_eq] at h
  simp only [bitOf, beq_eq_decide]
  rw [h]
  exact decide_eq_decide.mpr eq_comm

theorem filter_range_eq (n r : Nat) : (List.range n).filter (fun i => decide (i = r)) = if r < n then [r] else [] := by
  induction n with
  | zero => rfl
  | succ n ih =>
    rw [List.range_succ, List.filter_append, ih]
    by_cases hr : r = n
    · simp [hr]
    · by_cases hlt : r < n
      · simp [hlt, Ne.symm hr, Nat.lt_succ_of_lt hlt]
      · simp [hlt, Ne.symm hr, show ¬r < n + 1 by omega]

/-- The list of a register that has one bit set. -/
theorem bitList_two_pow {w : Nat} {r : Nat} (hr : r < w) : bitList w (2 ^ r) = [r] := by
  simp only [bitList, bitOf_two_pow]
  rw [filter_range_eq, if_pos hr]

theorem receiverComp_bounds (r : Nat) : receiverComp r ≠ 0 ∧ receiverComp r < 9 := by
  unfold receiverComp
  split_ifs <;> decide

theorem State.broadcast_other {r c : Nat} (h : c ≠ receiverComp r) : s.broadcast [r] c = s := by
  simp [State.broadcast, Ne.symm h]

/-- Receiver `r` held in reset with the header of its component and an empty bitmap (R441 steps 1 and 2). -/
def State.deliverTo (s : State) (r : Nat) : State :=
  let b := pkgBytes s.bootImage (receiverComp r)
  let s := s.setReceiver r (fun _ => { inReset := true, comp := receiverComp r, length := b.length,
                                       sha := if b.isEmpty then [] else sha256 b, chunks := [] })
  { s with mgt := { s.mgt with rounds := 0 } }

theorem State.receiver_deliverTo (s : State) (r : Nat) : (s.deliverTo r).receiver r =
    { inReset := true, comp := receiverComp r, length := (pkgBytes s.bootImage (receiverComp r)).length,
      sha := if (pkgBytes s.bootImage (receiverComp r)).isEmpty then [] else sha256 (pkgBytes s.bootImage (receiverComp r)), chunks := [] } :=
  tget_tput_ne _ _ _ _ (fun h => (receiverComp_bounds r).1 (congrArg Receiver.comp h))

theorem exec_firmwareDelivery_one {r : Fin 59} (hmp : s.mgt.mpState = 1) (hwanted : s.wantedReceiver r = true)
    (hstage : s.dev.stage = .tasting ∨ s.dev.stage = .ready) :
    exec (.firmwareDelivery (BitVec.ofNat 59 (2 ^ r.val))) s = .next ((s.deliverTo r).broadcast [r.val] (receiverComp r)).syncUp := by
  have hbits : (BitVec.ofNat 59 (2 ^ r.val)).toNat = 2 ^ r.val :=
    Nat.mod_eq_of_lt (Nat.pow_lt_pow_right (by decide) r.isLt)
  have hstage' : ¬(s.dev.stage ≠ .tasting ∧ s.dev.stage ≠ .ready) := by tauto
  have hcomps := foldl_range_one (f := fun s c => State.broadcast s [r.val] c) (c := receiverComp r.val)
    (fun _ _ => State.broadcast_other) 9 (s.deliverTo r)
  rw [if_pos (receiverComp_bounds r).2] at hcomps
  change execFirmwareDelivery _ s = _
  simp only [execFirmwareDelivery, hbits, bitList_two_pow r.isLt, List.filter_cons, hwanted, if_true, List.filter_nil, hmp, ne_eq,
    not_true_eq_false, List.isEmpty_cons, Bool.false_eq_true, false_or, hstage', if_false, List.foldl_cons, List.foldl_nil]
  exact congrArg (fun t => Host.Outcome.next t.syncUp) hcomps

theorem exec_firmwareResendRound_of_missing (hmp : s.mgt.mpState = 1) {rs : List Nat}
    (hrs : rs = (s.mgt.receivers.filter (fun e => e.2.inReset && decide (0 < e.2.length) && !e.2.full)).map (·.1)) (hne : rs ≠ []) :
    exec .firmwareResendRound s = if s.mgt.rounds < 3 then
      .next (rs.foldl (fun s r => ((s.receiver r).missing).foldl (fun s i => s.emit (.frame [r] (s.receiver r).comp i)) s)
        { s with mgt := { s.mgt with rounds := s.mgt.rounds + 1 } })
      else .next ((rs.foldl State.receiverFailed s).tryReady).settle := by
  have hne' : rs.isEmpty = false := by simpa using hne
  change execFirmwareResendRound s = _
  simp only [execFirmwareResendRound, ← hrs, hmp, hne', ne_eq, not_true_eq_false, Bool.false_eq_true, or_self, if_false]

/-- Frames sent one after the other change the outbox alone. -/
theorem State.foldl_emit_frame (l : List Nat) (r : Nat) (s : State) :
    l.foldl (fun s i => s.emit (.frame [r] (s.receiver r).comp i)) s =
      { s with outbox := s.outbox ++ l.map (fun i => .frame [r] (s.receiver r).comp i) } := by
  induction l generalizing s with
  | nil => simp
  | cons i l ih =>
    rw [List.foldl_cons, ih]
    simp [State.emit, Out.onLink, State.receiver]

theorem exec_receiverRelease_of_full {r : Fin 59} (hreset : (s.receiver r).inReset = true) (hcomp : (s.receiver r).comp ≠ 0)
    (hfull : (s.receiver r).full = true) : exec (.receiverRelease r) s =
      if (s.receiver r).sha ≠ [] ∧ sha256 (((s.receiver r).chunks.flatMap (·.2)).take (s.receiver r).length) = (s.receiver r).sha
      then .next ((s.receiverUp r).tryReady).settle else .next ((s.receiverFailed r).tryReady).settle := by
  change execReceiverRelease r s = _
  simp only [execReceiverRelease, hreset, hcomp, hfull, Bool.not_true, Bool.false_eq_true, or_self, if_false]

/-- Settles O28: the delivery to one receiver, its chunks, the resend rounds, and the release by the image's hash. -/
theorem firmwareReachesReceivers : Obligations.FirmwareReachesReceivers := by
  intro s
  refine ⟨fun r hmp hwanted hstage => ?delivery, fun r i data hreset hi hlen => ⟨fun hnew => ?stored, fun comp crc hbad => ?dropped⟩,
    fun rs hrs hne hmp => ⟨fun hrounds => ?third, fun r hone hrounds => ?round⟩, fun r hreset hcomp hfull => ⟨fun hsha himage => ?up, fun himage => ?fails⟩,
    fun k hbooted hmp hslot hstage => ?trial, fun hup hmp hslow htrip => ?restart⟩
  case delivery =>
    refine ⟨s.deliverTo r, exec_firmwareDelivery_one hmp hwanted hstage, ?_⟩
    rw [s.receiver_deliverTo r]
    exact ⟨rfl, rfl, rfl, rfl, rfl, rfl, rfl⟩
  case stored =>
    exact if_pos ⟨hreset, rfl, hi, hlen, rfl, by rw [hnew]; rfl⟩
  case dropped =>
    exact if_neg fun ⟨_, hcomp, _, _, hcrc, _⟩ => hbad.elim (fun h => h hcrc) (fun h => h hcomp.symm)
  case third =>
    exact (exec_firmwareResendRound_of_missing hmp hrs hne).trans (if_neg (by omega))
  case round =>
    rw [exec_firmwareResendRound_of_missing hmp hrs hne, if_pos hrounds, hone, List.foldl_cons, List.foldl_nil, State.foldl_emit_frame]
    rfl
  case up =>
    exact (exec_receiverRelease_of_full hreset hcomp hfull).trans (if_pos ⟨hsha, himage⟩)
  case fails =>
    exact (exec_receiverRelease_of_full hreset hcomp hfull).trans (if_neg fun h => himage h.2)
  case trial =>
    change execSlotTrialTimeout s = _
    simp only [execSlotTrialTimeout, hbooted, hmp, hslot, hstage, ne_eq, not_false_eq_true, and_self, if_true]
  case restart =>
    exact if_pos ⟨hup, hmp, by rw [hslow]; rfl, by rw [htrip]; rfl⟩

end Firmware

section CaskAndLink

variable {s : State}

/-! ### The Cask and the trace port (R446 to R454, R482, R483) -/

/-- A fold whose every step changes the command processor's tables alone. -/
theorem foldl_cp_only {α : Type} {f : State → α → State} (h : ∀ s x, ∃ c : Cp, f s x = { s with cp := c }) (l : List α) (s : State) :
    ∃ c : Cp, l.foldl f s = { s with cp := c } := by
  induction l generalizing s with
  | nil => exact ⟨s.cp, rfl⟩
  | cons x l ih =>
    obtain ⟨c, hc⟩ := h s x
    rw [List.foldl_cons, hc]
    exact ih _

/-- A management EVENT changes result queues and the alert alone. -/
theorem State.mgtEvent_only (s : State) (code object arg0 arg1 : Nat) (toVFs : Bool) :
    ∃ c : Cp, s.mgtEvent code object arg0 arg1 toVFs = { s with cp := c, mgt := { s.mgt with alert := true } } := by
  obtain ⟨c, hc⟩ := foldl_cp_only (f := fun s f => s.mpEventTo f code object arg0 arg1) (fun _ _ => ⟨_, rfl⟩)
    (if toVFs then (List.range 9).filter s.fnExists else [0]) s
  exact ⟨c, by simp only [State.mgtEvent, hc]⟩

/-- The life state's update changes the Cask, a result queue and the alert, and neither the socket nor the identity. -/
theorem State.caskLifeUpdate_only (s : State) : ∃ (k : Cask) (c : Cp) (b : Bool), k.present = s.cask.present ∧
    k.identityValid = s.cask.identityValid ∧ s.caskLifeUpdate = { s with cask := k, cp := c, mgt := { s.mgt with alert := b } } := by
  unfold State.caskLifeUpdate
  split
  · exact ⟨s.cask, s.cp, s.mgt.alert, rfl, rfl, rfl⟩
  · extract_lets l st media new _ updated
    split
    · obtain ⟨c, hevent⟩ := ({ updated with cask := { updated.cask with lifeSent := true } } : State).mgtEvent_only 0x0885 0 l st false
      exact ⟨{ updated.cask with lifeSent := true }, c, true, rfl, rfl, hevent⟩
    · exact ⟨updated.cask, s.cp, s.mgt.alert, rfl, rfl, rfl⟩

theorem State.caskArrives_kept (s : State) (m : CaskMedia) : (s.caskArrives m).cask.present = true ∧
    (s.caskArrives m).cask.identityValid = s.caskIdentity m ∧
    (s.caskArrives m).mgt.claims = if tget 0 s.mgt.claims 1 = 0 then tput 0 s.mgt.claims 1 2 else s.mgt.claims := by
  unfold State.caskArrives
  extract_lets _ _ arrived
  obtain ⟨k, c, b, hpresent, hidentity, hlife⟩ := arrived.caskLifeUpdate_only
  rw [hlife]
  exact ⟨hpresent, hidentity, rfl⟩

theorem exec_traceClaim (hup : s.aonUp = true) (r : Fin 16) : exec (.traceClaim r) s =
    if 1 ≤ r.val ∧ r.val ≤ 3 ∧ tget 0 s.mgt.claims r = 0 then
      .next (({ s with mgt := { s.mgt with claims := tput 0 s.mgt.claims r 4 } }).emit (.jtag true))
    else .next (s.emit (.jtag false)) := by
  change execTraceClaim r s = _
  simp only [execTraceClaim, hup, Bool.not_true, Bool.false_eq_true, if_false]

/-- The state a Cask's removal leaves before its operations answer (R454). -/
def State.caskGone (s : State) : State :=
  { s with
    cask := { s.cask with present := false, media := none, identityValid := false, lifeState := 0, lifeSent := false }
    dev := { s.dev with straps := { s.dev.straps with caskPresentN := true } }
    mgt := { s.mgt with ops := s.mgt.ops.filter (fun o => !o.usesCask) } }

/-- Settles O31: what arrives and what goes with a Cask, and the trace port's claims. -/
theorem caskAndTraceCommandsAct : Obligations.CaskAndTraceCommandsAct := by
  intro s hup
  refine ⟨fun m habsent hmp => ?inserted, fun hpresent => ?removed, fun r hlo hhi hfree => ?granted, fun r hrefuse => ?refused,
    fun r hheld => if_pos hheld, fun r hnot => if_neg hnot⟩
  case inserted =>
    obtain ⟨hpresent, hidentity, hclaims⟩ :=
      State.caskArrives_kept { s with dev := { s.dev with straps := { s.dev.straps with caskPresentN := false } } } m
    refine ⟨_, rfl, ?_, hpresent, hidentity, fun hfree => ?_, fun hheld => hclaims.trans (if_neg hheld)⟩
    · exact if_neg (by simp only [hup, habsent, Bool.not_true, Bool.false_eq_true, false_or]; tauto)
    · rw [hclaims, if_pos hfree]
      exact tget_tput_ne _ _ _ _ (by decide)
  case removed =>
    refine ⟨s.caskGone, ?_, rfl, rfl, rfl, rfl, rfl, rfl, rfl⟩
    exact if_neg (by simp only [hup, hpresent, Bool.not_true, Bool.false_eq_true, or_self, not_false_eq_true])
  case granted =>
    refine ⟨_, (exec_traceClaim hup r).trans (if_pos ⟨hlo, hhi, hfree⟩), ?_, fun i hi => ?_, rfl, rfl, rfl, rfl⟩
    · exact tget_tput_ne _ _ _ _ (by decide)
    · exact tget_tput_other _ _ _ _ _ hi
  case refused =>
    exact (exec_traceClaim hup r).trans (if_neg fun ⟨hlo, hhi, hfree⟩ => by omega)

/-! ### The link, the log, the heartbeat and the sideband's address -/

theorem exec_heartbeat_of_ready (hstage : s.dev.stage = .ready) (hmp : s.mgt.mpState = 1) (cp cel : Bool) :
    exec (.heartbeat cp cel) s =
      .next (let a := beat s.dev.cpMisses cp
        let b := beat s.dev.celMisses cel
        let s : State := { s with dev := { s.dev with
          cpMisses := a.1, celMisses := b.1, cpStalled := decide (a.1 = 10), celStalled := decide (b.1 = 10) } }
        let s := if a.2 then s.deviceFault 0 0 0 else s
        if b.2 then s.deviceFault 1 1 0 else s) := by
  exact if_neg (by simp only [hstage, hmp, ne_eq, not_true_eq_false, or_self, not_false_eq_true])

theorem beat_answered (n : Nat) : beat n true = (0, false) := rfl
theorem beat_ninth : beat 9 false = (10, true) := rfl
theorem beat_missed {n : Nat} (h : n < 9) : beat n false = (n + 1, false) := by
  simp only [beat, Bool.false_eq_true, if_false, Prod.mk.injEq, beq_eq_false_iff_ne]
  omega

/-- Settles O32: the link's changes and idle states, the log, the heartbeat's tenth miss, and the sideband's address. -/
theorem linkLogHeartbeatAndAddressAct : Obligations.LinkLogHeartbeatAndAddressAct := by
  intro s hup
  refine ⟨fun up w v x y hx hy hslow hmp hperst hnew => ?change, fun hlink haspm hpm => if_pos ⟨hlink, haspm, hpm⟩,
    fun rel ns p hlink haspm hidle hp => ?l1, ⟨if_pos hup, rfl, fun e es hbuf hlost => ?flush⟩, fun hstage hmp => ?beats, fun a hmode => ?address⟩
  case change =>
    subst hx hy
    refine ⟨_, rfl, ?_⟩
    have hskip : ¬((!s.aonUp) = true ∨ s.dev.slowClockDead = true ∨ s.mgt.mpState = 0 ∨ (!s.dev.straps.perstN) = true ∨
        (s.hi.linkUp = up ∧ s.hi.width = (if up then w.val else 0) ∧ s.hi.speed = (if up then v.val else 0))) := by
      simp only [hup, hslow, hperst, Bool.not_true, Bool.false_eq_true, false_or]
      tauto
    have hchanged := decide_eq_true hnew
    change execLinkChange up w v s = _
    simp only [execLinkChange, if_neg hskip, hchanged, if_true]
    rfl
  case l1 =>
    refine (if_pos (c := s.hi.linkUp = true ∧ s.hi.aspm.getLsbD 1 = true ∧ s.idle = true) ⟨hlink, haspm, hidle⟩).trans ?_
    rw [hp]
    cases rel <;> cases s.hi.aspm.getLsbD 2 <;> cases s.hi.aspm.getLsbD 3 <;> by_cases hns : ns ≤ 1000000 <;> simp [hns]
  case flush =>
    simp only [State.flushLog, hbuf, hlost, if_true]
  case beats =>
    simp only [exec_heartbeat_of_ready hstage hmp, beat_answered, Bool.false_eq_true, if_false]
    refine ⟨rfl, fun n hn hlt => ?_, fun hn => ?_, fun hn => ?_⟩
    · rw [hn, beat_missed hlt]
      simp [show n + 1 ≠ 10 by omega]
    · rw [hn, beat_ninth]
      rfl
    · rw [hn, beat_ninth]
      rfl
  case address =>
    exact ⟨fun hnone => if_pos ⟨hup, hmode, hnone⟩, if_pos ⟨hup, hmode⟩⟩

end CaskAndLink

end Sys2Proof.Machine
end

section
/-! PROOFS. Sensors, heat, the trip and the accounting interval (R200, R410 to R417), and the domains and clock generators (R25, R402 to R409). -/

namespace Sys2Proof.Machine

section Heat

variable {s : State}

/-! ### A sample (R410, R413, R415) -/

theorem State.logSensors_only (s : State) (old new : List SensorReading) : ∃ m : Mgt, s.logSensors old new = { s with mgt := m } := by
  unfold State.logSensors
  generalize List.filter _ (List.range 20) = l
  induction l generalizing s with
  | nil => exact ⟨s.mgt, rfl⟩
  | cons i l ih =>
    obtain ⟨f, b, q, l, hm⟩ := s.log_only logSensorInvalid 1 8 i 0
    rw [List.foldl_cons, hm]
    exact ih _

theorem State.thermWarn_only (s : State) :
    ∃ (m : Mgt) (c : Cp) (w : Bool), s.thermWarn = { s with mgt := m, cp := c, pwr := { s.pwr with warned := w } } := by
  simp only [State.thermWarn]
  split_ifs
  · obtain ⟨f, b, q, l, hm⟩ := ({ s with pwr := { s.pwr with warned := true } } : State).log_only 0x0881 1 8 0xFFFF (ofSigned 64 s.pwr.tj)
    obtain ⟨c, hc⟩ := State.mgtEvent_only _ 0x0881 0 (ofSigned 64 s.pwr.tj) (bitsOf s.pwr.thermCtrl.toNat 0 8) true
    rw [hc, hm]
    exact ⟨_, _, _, rfl⟩
  · obtain ⟨c, hc⟩ := ({ s with pwr := { s.pwr with warned := false } } : State).mgtEvent_only 0x0882 0 (ofSigned 64 s.pwr.tj) 0 true
    rw [hc]
    exact ⟨_, _, _, rfl⟩
  · exact ⟨s.mgt, s.cp, s.pwr.warned, rfl⟩

/-- Whether the clock is halved after a sample of Tj (R415). -/
def halvedNext (was : Bool) (t tj : Int) : Bool := if was then !decide (tj < t - 20) else decide (t ≤ tj)

theorem State.halveClock_only (s : State) : ∃ n : Nat, s.halveClock = { s with pwr := { s.pwr with
    halved := halvedNext s.pwr.halved (s.threshold 2) s.pwr.tj, halvings := n } } := by
  unfold State.halveClock
  dsimp only
  split_ifs with hwas hcool hhot
  · exact ⟨s.pwr.halvings, by rw [halvedNext, if_pos hwas, decide_eq_true hcool]; rfl⟩
  · exact ⟨s.pwr.halvings, by rw [halvedNext, if_pos hwas, decide_eq_false hcool, Bool.not_false, ← hwas]⟩
  · exact ⟨satAdd 16 s.pwr.halvings 1, by rw [halvedNext, if_neg hwas, decide_eq_true hhot]⟩
  · exact ⟨s.pwr.halvings, by rw [halvedNext, if_neg hwas, decide_eq_false hhot, ← Bool.eq_false_of_not_eq_true hwas]⟩

/-- What a sample makes of the sensors, Tj and the counters, and that it leaves memory and cores alone. -/
theorem State.sampled_facts (s : State) (rs : List SensorReading) :
    (s.sampled rs).pwr.sensors = rs.take 20 ∧ (s.sampled rs).pwr.tj = nextTj s.pwr.tj rs ∧
    (s.sampled rs).pwr.halved = halvedNext s.pwr.halved (s.threshold 2) (nextTj s.pwr.tj rs) ∧
    (s.sampled rs).pwr.hotSamples = (if s.threshold 3 ≤ nextTj s.pwr.tj rs then s.pwr.hotSamples + 1 else 0) ∧
    (s.sampled rs).mem = s.mem ∧ (s.sampled rs).core = s.core := by
  obtain ⟨m, hlog⟩ := s.logSensors_only s.pwr.sensors rs
  obtain ⟨m', c, w, hwarn⟩ := (({ s with mgt := m } : State).formTj rs).thermWarn_only
  obtain ⟨n, hhalve⟩ := (({ s with mgt := m } : State).formTj rs).thermWarn.halveClock_only
  rw [State.sampled, hlog, hhalve, hwarn]
  exact ⟨rfl, rfl, rfl, rfl, rfl, rfl⟩

/-- Tj is the highest valid reading, or what it was where none is valid (R410). -/
theorem nextTj_facts (old : Int) {rs : List SensorReading} (hlen : rs.length = 20) :
    (∀ r ∈ rs, r.valid = true → r.temp ≤ nextTj old rs) ∧ ((∀ r ∈ rs, r.valid = false) → nextTj old rs = old) ∧
    ((∃ r ∈ rs, r.valid = true) → ∃ r ∈ rs, r.valid = true ∧ r.temp = nextTj old rs) := by
  rw [nextTj, List.take_of_length_le (by omega)]
  generalize hl : (rs.filter (·.valid)).map (·.temp) = l
  have hmem {x : Int} : x ∈ l ↔ ∃ r ∈ rs, r.valid = true ∧ r.temp = x := by simp [← hl, and_assoc]
  cases hmax : l.max? with
  | none =>
    have hnil := List.max?_eq_none_iff.mp hmax
    have hnone : ∀ r ∈ rs, r.valid ≠ true := fun r hr hv => by
      have h := hmem.mpr ⟨r, hr, hv, rfl⟩
      rw [hnil] at h
      cases h
    exact ⟨fun r hr hv => absurd hv (hnone r hr), fun _ => rfl, fun ⟨r, hr, hv⟩ => absurd hv (hnone r hr)⟩
  | some x =>
    obtain ⟨hx, hle⟩ := List.max?_eq_some_iff.mp hmax
    refine ⟨fun r hr hv => hle _ (hmem.mpr ⟨r, hr, hv, rfl⟩), fun hall => ?_, fun _ => hmem.mp hx⟩
    obtain ⟨r, hr, hv, -⟩ := hmem.mp hx
    rw [hall r hr] at hv
    cases hv

/-! ### The trip (R417) -/

/-- What losing a domain's contents leaves: power, the runs and the log's sequence. -/
def State.tripped (s : State) : Pwr × List (Nat × Run) × Nat := (s.pwr, s.cel.runs, s.mgt.logSeq)

theorem State.tripped_of_aside {s t : State} (h : t.aside = s.aside) : t.tripped = s.tripped :=
  congrArg (fun x => (x.2, x.1.2.2.1, x.1.1.2.2.1.logSeq)) h

theorem State.stopMove_tripped (s : State) (k : Nat) : (s.stopMove k).tripped = s.tripped := by
  unfold State.stopMove
  split
  · rfl
  · split
    · rfl
    · split <;> rfl

theorem State.loseTensors_tripped (s : State) (l : List Nat) :
    (l.foldl (fun s k => s.setTensor k (fun t => { t with lost := true })) s).tripped = s.tripped :=
  foldl_same State.tripped (fun _ _ => by rfl) l s

theorem State.loseStore_tripped (s : State) (n : Nat) : (s.loseStore n).tripped = s.tripped := by
  have hmoves (pick : Tensor → HomeKind → Bool) : (s.stopMoves pick).tripped = s.tripped :=
    foldl_same (f := fun s k => s.stopMove k) State.tripped (fun s k => s.stopMove_tripped k) _ s
  unfold State.loseStore
  extract_lets s1 s2 gone s3 s4
  have hfree : s2.tripped = s1.tripped := State.tripped_of_aside (s1.freeTensors_aside _)
  have hlost : s3.tripped = s2.tripped := s2.loseTensors_tripped gone
  have hlose : s4.tripped = s3.tripped := State.tripped_of_aside (s3.lose_aside _ _)
  have hall : s4.tripped = s.tripped := hlose.trans (hlost.trans (hfree.trans (hmoves _)))
  clear_value s4
  exact hall

theorem State.syncUp_tripped (s : State) : s.syncUp.tripped = s.tripped :=
  foldl_same (f := fun s k => s.setCluster k (fun c => { c with up := s.fwUp (2 + k), engines := BitVec.ofNat 10 (s.engineMap k) }))
    State.tripped (fun _ _ => by rfl) (List.range 4) s

theorem State.offLoss_tripped (s : State) (d : Nat) : (s.offLoss d).tripped = s.tripped := by
  have hstore (t : State) : (if 13 ≤ d ∧ d ≤ 20 then t.loseStore (d - 13) else t).tripped = t.tripped := by
    split
    · exact t.loseStore_tripped _
    · rfl
  have hcellar (t : State) (l : List Nat) :
      (if d = 4 then l.foldl (fun s k => s.setTensor k (fun t => { t with lost := true })) t else t).tripped = t.tripped := by
    split
    · exact t.loseTensors_tripped l
    · rfl
  have hsleep := State.tripped_of_aside (s.sleepLoss_aside d)
  exact (State.syncUp_tripped _).trans ((hcellar _ _).trans ((hstore _).trans hsleep))

/-- A domain whose power the trip takes. -/
def State.cutDom (s : State) (d : Nat) : State :=
  (s.setDom d (fun _ => { st := .off, move := .none, switchedOff := true, wakeReq := false })).offLoss d

theorem State.domAt_cutDom (s : State) (d e : Nat) :
    (s.cutDom d).domAt e = if e = d then { st := .off, move := .none, switchedOff := true, wakeReq := false } else s.domAt e := by
  have hpwr := State.offLoss_tripped (s.setDom d (fun _ => { st := .off, move := .none, switchedOff := true, wakeReq := false })) d
  simp only [State.tripped, Prod.mk.injEq] at hpwr
  rw [State.cutDom, State.domAt, hpwr.1]
  split
  · next h => exact h ▸ tget_tput_ne _ _ _ _ (fun h => by cases congrArg Dom.st h)
  · next h => exact tget_tput_other _ _ _ _ _ h

theorem State.domAt_cutDoms (s : State) (n e : Nat) : ((List.range n).foldl State.cutDom s).domAt e =
    if e < n then { st := .off, move := .none, switchedOff := true, wakeReq := false } else s.domAt e := by
  induction n with
  | zero => rfl
  | succ n ih =>
    rw [List.range_succ, List.foldl_append, List.foldl_cons, List.foldl_nil, State.domAt_cutDom, ih]
    by_cases he : e = n
    · rw [if_pos he, if_pos (by omega)]
    · rw [if_neg he]
      exact if_congr (by omega) rfl rfl

theorem State.cutDoms_runs (s : State) (n : Nat) : ((List.range n).foldl State.cutDom s).cel.runs = s.cel.runs ∧
    ((List.range n).foldl State.cutDom s).mgt.logSeq = s.mgt.logSeq := by
  have h := foldl_same (f := State.cutDom) (fun t : State => (t.cel.runs, t.mgt.logSeq))
    (fun t d => congrArg Prod.snd (State.offLoss_tripped (t.setDom d _) d)) (List.range n) s
  exact ⟨congrArg Prod.fst h, congrArg Prod.snd h⟩

theorem State.allOff_eq (s : State) : s.allOff = (List.range 30).foldl State.cutDom s := rfl

/-- The state after the trip, once every domain is off. -/
def State.trip (s : State) : State :=
  (({ s with dev := { s.dev with thermtrip := true, stage := .shutdown, reset := none },
             pwr := { s.pwr with shutdown := true } } : State).emit .thermtrip).logTrip

theorem State.trip_facts (s : State) : s.trip.dev.thermtrip = true ∧ s.trip.dev.stage = .shutdown ∧ s.trip.dev.reset = none ∧
    s.trip.cel.runs = s.cel.runs ∧ .thermtrip ∈ s.trip.outbox ∧ (∀ d, s.trip.domAt d = s.domAt d) ∧
    s.trip.mgt.logSeq = (s.mgt.logSeq + 1) % 2 ^ 32 :=
  ⟨rfl, rfl, rfl, rfl, List.mem_append_right _ (List.mem_singleton_self _), fun _ => rfl, rfl⟩

theorem State.allOff_facts (s : State) : s.allOff.cel.runs = s.cel.runs ∧ s.allOff.mgt.logSeq = s.mgt.logSeq ∧
    ∀ d : Fin 30, s.allOff.domAt d = { st := .off, move := .none, switchedOff := true, wakeReq := false } := by
  obtain ⟨hruns, hseq⟩ := s.cutDoms_runs 30
  rw [State.allOff_eq]
  exact ⟨hruns, hseq, fun d => (s.domAt_cutDoms 30 d).trans (if_pos d.isLt)⟩

theorem exec_thermtrip_of_on (hon : s.dev.pwrgd = true) (hcool : s.dev.thermtrip = false) :
    exec .thermtrip s = .next ((s.endFlights (fun _ => true) false).dropWork.allOff).trip :=
  if_neg (by simp only [hon, hcool, Bool.not_true, Bool.false_eq_true, or_self, not_false_eq_true])

/-- What is left once every packet and all work have ended without a reply. -/
theorem State.dropAll_facts (s : State) : (s.endFlights (fun _ => true) false).dropWork.cel.runs = [] ∧
    (s.endFlights (fun _ => true) false).dropWork.mgt.logSeq = s.mgt.logSeq := by
  have hend := s.endFlights_drop_only (fun _ => true)
  have hdrop := State.dropWork_lasting (s.endFlights (fun _ => true) false)
  simp only [Prod.mk.injEq] at hend
  simp only [State.lasting, Prod.mk.injEq] at hdrop
  exact ⟨by rw [State.dropWork], by rw [hdrop.2.2, hend.2.1]⟩

theorem thermtrip_takes_power (hon : s.dev.pwrgd = true) (hcool : s.dev.thermtrip = false) : ∃ u : State, exec .thermtrip s = .next u ∧
    u.dev.thermtrip = true ∧ u.dev.stage = .shutdown ∧ u.dev.reset = none ∧ u.cel.runs = [] ∧ .thermtrip ∈ u.outbox ∧
    (∀ d : Fin 30, (u.domAt d).st = .off ∧ (u.domAt d).switchedOff = true) ∧ u.mgt.logSeq = (s.mgt.logSeq + 1) % 2 ^ 32 := by
  refine ⟨_, exec_thermtrip_of_on hon hcool, ?_⟩
  obtain ⟨hruns, hseq⟩ := s.dropAll_facts
  generalize (s.endFlights (fun _ => true) false).dropWork = w at *
  obtain ⟨hruns', hseq', hdoms⟩ := w.allOff_facts
  generalize w.allOff = o at *
  obtain ⟨htrip, hstage, hreset, hruns'', hout, hdom, hlog⟩ := o.trip_facts
  exact ⟨htrip, hstage, hreset, by rw [hruns'', hruns', hruns], hout, fun d => by rw [hdom, hdoms d]; exact ⟨rfl, rfl⟩, by rw [hlog, hseq', hseq]⟩

/-! ### The accounting interval (R200, R411, R412) -/

/-- The state but for the Cellarer's tables. -/
def State.sansCel (s : State) : State := { s with cel := {} }

theorem State.charge_sansCel (s : State) (r c k : Nat) : (s.charge r c k).sansCel = s.sansCel := by
  unfold State.charge
  dsimp only
  split <;> rfl

theorem State.splitEnergy_sansCel (s : State) (d e : Nat) (busy : List (Nat × Nat)) : (s.splitEnergy d e busy).sansCel = s.sansCel := by
  unfold State.splitEnergy
  dsimp only
  split
  · exact s.charge_sansCel _ _ _
  · exact (State.charge_sansCel _ _ _ _).trans (foldl_same State.sansCel (fun s b => s.charge_sansCel b.1 14 _) busy s)

/-- The energies of the domains, AON and HI split over the records. -/
def State.splitAll (s : State) (energy : List Nat) : State :=
  ((List.range 30).foldl (fun s d => s.splitEnergy d (energy.getD d 0) (s.busyOf d)) s).charge 0 14 (energy.getD 30 0 + energy.getD 31 0)

theorem State.splitAll_sansCel (s : State) (energy : List Nat) : (s.splitAll energy).sansCel = s.sansCel :=
  (State.charge_sansCel _ _ _ _).trans (foldl_same State.sansCel (fun s d => s.splitEnergy_sansCel d _ (s.busyOf d)) (List.range 30) s)

/-- What an interval's split leaves of the state that it begins with, but for the monitors' totals and the counters of time. -/
theorem State.splitAll_tick_kept (s : State) (energy : List Nat) : ∃ w : State, (s.addEnergy energy).tickInterval.splitAll energy = w ∧
    w.pwr.limitW = s.pwr.limitW ∧ w.mgt.aonCount = (s.mgt.aonCount + 1024) % 2 ^ 48 ∧ w.mem = s.mem ∧ w.dev = s.dev ∧ w.cp = s.cp ∧
    w.core = s.core := by
  have hrest := (s.addEnergy energy).tickInterval.splitAll_sansCel energy
  simp only [State.sansCel, State.mk.injEq] at hrest
  obtain ⟨hdev, -, hpwr, hmgt, -, -, hmem, hcp, -, hcore, -⟩ := hrest
  refine ⟨_, rfl, ?_, ?_, ?_, ?_, ?_, ?_⟩
  · rw [hpwr, State.tickInterval, State.addEnergy]
  · rw [hmgt, State.tickInterval, State.addEnergy]
  · rw [hmem, State.tickInterval, State.addEnergy]
  · rw [hdev, State.tickInterval, State.addEnergy]
  · rw [hcp, State.tickInterval, State.addEnergy]
  · rw [hcore, State.tickInterval, State.addEnergy]

theorem exec_accountingInterval_of_up (hup : s.aonUp = true) (hslow : s.dev.slowClockDead = false) (energy : List Nat) :
    exec (.accountingInterval energy) s =
      .next (({ (s.addEnergy energy).tickInterval.splitAll energy with
        cel := { ((s.addEnergy energy).tickInterval.splitAll energy).cel with busy := [] } } : State).powerLimit
          ((List.range 32).map (fun i => energy.getD i 0)).sum) :=
  if_neg (by simp only [hup, hslow, Bool.not_true, Bool.false_eq_true, or_self, not_false_eq_true])

/-- Settles O33: the sample by its stages, the release and the return, the trip domain by domain, and the interval. -/
theorem sensorsHeatAndEnergyAct : Obligations.SensorsHeatAndEnergyAct := by
  intro s
  refine ⟨fun rs hup htrip => ?sample, fun rs hlen => ?formed, fun n hstage hwarm hhot => ?release, fun n rest hrel hcool => ?back,
    fun n rest hrel hwarm => ?stays, fun hon hcool => thermtrip_takes_power hon hcool, fun energy hup hslow => ?interval⟩
  case sample =>
    have hexec : exec (.sensorSample rs) s =
        if 2 ≤ (s.sampled rs).pwr.hotSamples then .next ((s.sampled rs).thermalShutdown).settle else .next (s.sampled rs) :=
      if_neg (by simp only [hup, htrip, Bool.not_true, Bool.false_eq_true, or_self, not_false_eq_true])
    rw [hexec]
    exact ⟨fun h => if_neg (by omega), fun h => if_pos h⟩
  case formed =>
    obtain ⟨hsensors, htj, hhalved, hhot, hmem, hcore⟩ := s.sampled_facts rs
    obtain ⟨hmax, hnone, hsome⟩ := nextTj_facts s.pwr.tj hlen
    rw [hsensors, htj, hhalved, hhot, hmem, hcore]
    refine ⟨List.take_of_length_le (by omega), hmax, hnone, hsome, fun hwas => ?_, fun hwas => ?_, fun h => if_pos h,
      fun h => if_neg (by omega), rfl, rfl⟩
    · rw [hwas, halvedNext, if_neg Bool.false_ne_true, decide_eq_true_iff]
    · rw [hwas, halvedNext, if_pos rfl, Bool.not_eq_false', decide_eq_true_iff]
  case release =>
    change execThermalReleaseTick s = _
    simp only [execThermalReleaseTick, hstage, ne_eq, not_true_eq_false, false_or, not_lt.mpr hwarm, false_and, if_false, hhot]
  case back =>
    change execThermalReturnTick s = _
    simp only [execThermalReturnTick, hrel, not_lt.mpr hcool, if_false]
  case stays =>
    change execThermalReturnTick s = _
    simp only [execThermalReturnTick, hrel, hwarm, if_true]
  case interval =>
    have hexec := exec_accountingInterval_of_up hup hslow energy
    obtain ⟨w, hw, hlimit, haon, hmem, hdev, hcp, hcore⟩ := s.splitAll_tick_kept energy
    rw [hw] at hexec
    generalize ((List.range 32).map (fun i => energy.getD i 0)).sum = total at hexec ⊢
    exact ⟨_, hexec, rfl, rfl, hlimit ▸ decide_eq_true_iff, hlimit ▸ decide_eq_true_iff, haon, hmem, hdev, hcp, hcore⟩

end Heat

section Domains

variable {s : State}

/-! ### Domains (R25, R402 to R409) -/

theorem exec_domainSleepDone_of_entering {d : Fin 30} (h : (s.domAt d).move = .entering) :
    exec (.domainSleepDone d) s = .next (s.fallAsleep d) := if_pos h

theorem State.fallAsleep_of_other {d : Nat} (h : d < 13 ∨ 20 < d) :
    s.fallAsleep d = (s.setDom d (fun m => { m with st := .sleep, move := .none })).sleepLoss d := if_neg (by omega)

theorem State.fallAsleep_of_store {d : Nat} (hlo : 13 ≤ d) (hhi : d ≤ 20) : s.fallAsleep d =
    if (s.coreAt (d - 13)).owner = 0 ∧ s.storeUsed (d - 13) = false then (s.setDom d (fun m => { m with st := .off, move := .none })).offLoss d
    else (s.setDom d (fun m => { m with st := .ret, move := .none })).sleepLoss d := if_pos ⟨hlo, hhi⟩

theorem State.regsReset_mem (s : State) (d : Nat) : (s.regsReset d).mem = s.mem := by
  have hchans := foldl_same (f := fun s i => s.setChan (4 * (d - 1) + i) Chan.regsReset) State.mem (fun _ _ => by rfl) (List.range 4) s
  unfold State.regsReset
  exact ite_same _ rfl (ite_same _ hchans (ite_same _ rfl (ite_same _ rfl (ite_same _ rfl (ite_same _ rfl (ite_same _ rfl
    (ite_same _ rfl (ite_same _ rfl (ite_same _ rfl rfl)))))))))

/-- A domain other than a core's comes on with memory as it was. -/
theorem State.comeOn_of_other {d : Nat} (h : d < 5 ∨ 20 < d) :
    ((s.comeOn d).domAt d).st = .on ∧ ((s.comeOn d).domAt d).move = .none ∧ (s.comeOn d).mem = s.mem := by
  have hchans (t : State) := foldl_same (f := fun s i => s.setChan (4 * (d - 1) + i) (fun c => { c with selfRefresh := false }))
    (fun t : State => (t.pwr, t.mem)) (fun _ _ => by rfl) (List.range 4) t
  have hon (t : State) : ((t.setDom d (fun m => { m with st := .on, move := .none, wakeReq := false })).domAt d).st = .on ∧
      ((t.setDom d (fun m => { m with st := .on, move := .none, wakeReq := false })).domAt d).move = .none := by
    have hset : (t.setDom d (fun m => { m with st := .on, move := .none, wakeReq := false })).domAt d =
        { t.domAt d with st := .on, move := .none, wakeReq := false } := tget_tput_ne _ _ _ _ (fun h => by cases congrArg Dom.st h)
    rw [hset]
    exact ⟨rfl, rfl⟩
  have hregs : (if (s.domAt d).st = .off then s.regsReset d else s).mem = s.mem :=
    ite_same State.mem (s.regsReset_mem d) rfl
  unfold State.comeOn
  extract_lets t u v
  have hmem : u.mem = s.mem := hregs
  have hdom : (u.domAt d).st = .on ∧ (u.domAt d).move = .none := hon t
  have hv : (v.pwr, v.mem) = (u.pwr, u.mem) :=
    ite_same (fun t : State => (t.pwr, t.mem)) (hchans u) rfl
  rw [if_neg (by omega)]
  clear_value v u
  obtain ⟨hpwr, hvmem⟩ := Prod.mk.inj hv
  rw [State.domAt, hpwr, hvmem, hmem]
  exact ⟨hdom.1, hdom.2, rfl⟩

theorem getLsbD_ofNat_two_pow {w : Nat} (p : Nat) {q : Nat} (hq : q < w) : (BitVec.ofNat w (2 ^ p)).getLsbD q = decide (p = q) := by
  rw [BitVec.getLsbD_ofNat, Nat.testBit_two_pow, decide_eq_true hq, Bool.true_and]

theorem getLsbD_or_two_pow {w : Nat} (x : BitVec w) (p : Nat) {q : Nat} (hq : q < w) :
    (x ||| BitVec.ofNat w (2 ^ p)).getLsbD q = (x.getLsbD q || decide (p = q)) := by
  rw [BitVec.getLsbD_or, getLsbD_ofNat_two_pow p hq]

theorem getLsbD_and_not_two_pow {w : Nat} (x : BitVec w) (p : Nat) {q : Nat} (hq : q < w) :
    (x &&& ~~~BitVec.ofNat w (2 ^ p)).getLsbD q = (x.getLsbD q && !decide (p = q)) := by
  rw [BitVec.getLsbD_and, BitVec.getLsbD_not, getLsbD_ofNat_two_pow p hq, decide_eq_true hq, Bool.true_and]

theorem pll_set_other (x : BitVec 6) {p q : Fin 6} (h : q ≠ p) : (x ||| BitVec.ofNat 6 (2 ^ p.val)).getLsbD q = x.getLsbD q := by
  rw [getLsbD_or_two_pow x p q.isLt, decide_eq_false (fun he => h (Fin.ext he.symm)), Bool.or_false]

theorem pll_clear_same (x : BitVec 6) (p : Fin 6) : (x &&& ~~~BitVec.ofNat 6 (2 ^ p.val)).getLsbD p = false := by
  rw [getLsbD_and_not_two_pow x p p.isLt, decide_eq_true rfl, Bool.not_true, Bool.and_false]

theorem pll_clear_other (x : BitVec 6) {p q : Fin 6} (h : q ≠ p) : (x &&& ~~~BitVec.ofNat 6 (2 ^ p.val)).getLsbD q = x.getLsbD q := by
  rw [getLsbD_and_not_two_pow x p q.isLt, decide_eq_false (fun he => h (Fin.ext he.symm)), Bool.not_false, Bool.and_true]

/-- Settles O34: sleep and wake by the domain's kind, a failed wake, and the generators bit by bit. -/
theorem domainsAndClocksAct : Obligations.DomainsAndClocksAct := by
  intro s
  refine ⟨fun d hd hidle hmay => ?alone, fun d hlo hhi hidle h1 h2 h3 => ?together, fun d hmove => ⟨fun hd => ?sleeps, fun hlo hhi hused => ?keeps,
    fun hlo hhi howner hempty => ?off⟩, fun d hmove => ⟨?woken, ?failed, rfl, State.comeOn_of_other⟩, fun p hstarting => ?locked,
    fun p hneeded => ?stopped, fun p hneeded => if_pos hneeded⟩
  case alone =>
    refine (if_pos (by rw [hidle, hmay]; rfl)).trans ?_
    rw [if_neg (by omega)]
    rfl
  case together =>
    have hmay : s.maySleep d.val = true := by
      obtain h | h | h : d.val = 1 ∨ d.val = 2 ∨ d.val = 3 := by omega
      all_goals rw [h]; assumption
    refine (if_pos (by rw [hidle, hmay]; rfl)).trans ?_
    simp only [hlo, hhi, and_self, if_true, List.filter_cons, h1, h2, h3, List.filter_nil, List.foldl_cons, List.foldl_nil]
  case sleeps =>
    rw [exec_domainSleepDone_of_entering hmove, State.fallAsleep_of_other hd]
  case keeps =>
    rw [exec_domainSleepDone_of_entering hmove, State.fallAsleep_of_store hlo hhi, if_neg]
    rintro ⟨howner, hempty⟩
    exact hused.elim (fun h => h howner) (fun h => by rw [hempty] at h; cases h)
  case off =>
    rw [exec_domainSleepDone_of_entering hmove, State.fallAsleep_of_store hlo hhi, if_pos ⟨howner, hempty⟩]
  case woken =>
    exact (if_neg (by rw [hmove]; decide)).trans (if_pos rfl)
  case failed =>
    exact (if_neg (by rw [hmove]; decide)).trans (if_neg Bool.false_ne_true)
  case locked =>
    refine ⟨_, if_pos hstarting, ?_, ?_, rfl, fun q hq => ⟨pll_set_other _ hq, pll_clear_other _ hq⟩⟩
    · exact (getLsbD_or_two_pow s.pwr.pllLocked p p.isLt).trans (by rw [decide_eq_true rfl, Bool.or_true])
    · exact pll_clear_same s.pwr.pllStarting p
  case stopped =>
    exact ⟨_, if_neg (by rw [hneeded]; exact Bool.false_ne_true), pll_clear_same s.pwr.pllLocked p, fun q hq => pll_clear_other _ hq, rfl⟩

end Domains

end Sys2Proof.Machine
end

section
/-! PROOFS. The request paths of the MP and the management operations (R423 to R428, R435 to R440, R444, R445, R449 to R453, R476, R481), and the sideband's commands. -/

namespace Sys2Proof.Machine

section MpTakes

variable {s u : State} {o : MgmtOp} {req : MgmtReq}

/-! ### The MP takes a request at once (R425, R427, R428) -/

/-- What marking an operation leaves: the device, and what the MP has to do. -/
def State.agenda (s : State) : Dev × Nat × List MgmtOp × Bool := (s.dev, s.mgt.mpState, s.mgt.ops, s.mgt.updateBusy)

theorem State.opMark_agenda (s : State) (o : MgmtOp) : (s.opMark o).agenda = s.agenda := by
  unfold State.opMark
  refine ite_same _ rfl (ite_same _ rfl ?_)
  split <;> rfl

theorem State.tlp_agenda (s : State) : s.tlp.agenda = s.agenda := by
  unfold State.tlp
  exact ite_same _ rfl rfl

/-- A forced shutdown finds nothing to abort where the MP serves nothing else. -/
theorem State.abortOps_of_idle (hops : s.mgt.ops = []) (hbusy : s.mgt.updateBusy = false) : s.abortOps = s := by
  have hmgt : ({ s.mgt with ops := [], updateBusy := false } : Mgt) = s.mgt := by rw [← hops, ← hbusy]
  simp only [State.abortOps, hops, List.foldl_nil, State.syncUpdate, List.any_nil]
  exact congrArg (fun m => ({ s with mgt := m } : State)) hmgt

/-- An operation accepted while the MP runs and serves nothing else is served at once. -/
theorem State.opAccept_of_idle (hmp : s.mgt.mpState = 1 ∨ s.mgt.mpState = 2) (hops : s.mgt.ops = []) (hbusy : s.mgt.updateBusy = false) :
    s.opAccept o = (s.opMark o).opStep o := by
  have hagenda := s.opMark_agenda o
  simp only [State.agenda, Prod.mk.injEq] at hagenda
  obtain ⟨-, hmp', hops', hbusy'⟩ := hagenda
  unfold State.opAccept
  dsimp only
  split
  · rw [State.abortOps_of_idle (hops'.trans hops) (hbusy'.trans hbusy)]
  · rw [if_pos ⟨by rw [hops', hops]; rfl, by rw [hmp']; exact hmp⟩]

theorem maySend_mgmt {op f : Nat} (hop : 1 ≤ op) (hop' : op ≤ 10) (h : maySend (0x0900 + op) f = true) : f = 0 := by
  have hsender : opSender (0x0900 + op) = some 0 := by
    unfold opSender
    rw [if_neg (by omega), if_neg (by omega), if_neg (by omega), if_neg (by omega), if_neg (by omega), if_neg (by omega),
      if_neg (by omega), if_neg (by omega), if_neg (by omega), if_pos (by omega)]
  simpa [maySend, hsender] using h

theorem State.startChecks_mgmt {fl : Flight} {op : Nat} (hop : op ≤ 10) (hcode : fl.pk.opcode = 0x0900 + op) (hfn : fl.pk.fn.val = 0) :
    s.startChecks fl = none := by
  simp only [State.startChecks, hcode, hfn, ne_eq, not_true_eq_false, false_and, if_false]
  exact if_neg fun ⟨_, hother, _⟩ => hother ⟨by omega, by omega⟩

theorem State.packetBody_mgmt {fl : Flight} {op : Nat} (hop : 1 ≤ op) (hop' : op ≤ 10) (hcode : fl.pk.opcode = 0x0900 + op) :
    s.packetBody fl = bodyMgmt s fl := by
  interval_cases op <;> simp only [State.packetBody, hcode, Nat.reduceAdd]

theorem bodyMgmt_newFlight {op : Nat} (hop : op ≤ 10) {pk : Packet} (hcode : pk.opcode = 0x0900 + op) (data : List Byte) (t : State) :
    bodyMgmt t (s.newFlight pk data) =
      t.opAccept { op, body := sliceB pk.bytes 16 64, data, path := 2, id := s.cp.nextId, steps := 0 } := by
  have hdata : (data.map (·.toNat)).map (BitVec.ofNat 8) = data := by simp [List.map_map, Function.comp_def]
  have hlow : (0x0900 + op) % 256 = op := by omega
  simp only [bodyMgmt, State.newFlight, hcode, hdata, hlow]

/-- A management packet that its ring may fetch reaches the MP. -/
theorem State.runPacket_mgmt {op : Nat} (hop : 1 ≤ op) (hop' : op ≤ 10) {pk : Packet} (hcode : pk.opcode = 0x0900 + op)
    (hsend : maySend pk.opcode pk.fn = true) (hfetch : s.fetchable pk = true) (hchecks : s.fetchChecks pk = none)
    (hready : s.headerReady pk = true) (data : List Byte) :
    s.runPacket (0x0900 + op) pk data = ((s.fetched pk data).opAccept
      { op, body := sliceB pk.bytes 16 64, data, path := 2, id := s.cp.nextId, steps := 0 }).settle := by
  rw [hcode] at hsend
  have hstart : (s.fetched pk data).startChecks (s.newFlight pk data) = none :=
    State.startChecks_mgmt hop' hcode (maySend_mgmt hop hop' hsend)
  have hbody : (s.fetched pk data).packetBody (s.newFlight pk data) = _ :=
    (State.packetBody_mgmt hop hop' hcode).trans (bodyMgmt_newFlight hop' hcode data _)
  simp only [State.runPacket, hcode, decide_true, hsend, hfetch, Bool.and_self, if_true, hchecks, hready, State.startPacket, hstart, hbody]

/-- A request that the MP takes at once runs the operation's step. -/
theorem State.askOp_of_takes {op : Nat} (h : s.mpTakes op req u o) (hop : op ≤ 10) {act : Option (Nat × Nat)}
    (hact : actionIs act (if op = 5 then 2 else 5) o.body = true) : s.askOp op act req = (u.opStep o).settle := by
  obtain ⟨hacc, rfl, rfl, hmp, hops, hbusy, -, -⟩ := h
  have hmp0 : ¬s.mgt.mpState = 0 := by omega
  have hmp3 : ¬s.mgt.mpState = 3 := by omega
  cases hpath : req.path with
  | mailbox =>
    simp only [State.accepts, hpath] at hacc
    obtain ⟨hready, hfree, hheld⟩ := hacc
    simp only [State.asked, hpath] at hact ⊢
    simp only [State.askOp, hpath, hact, if_true, State.tookIn, State.tlp_of_ready hready]
    rw [← State.opAccept_of_idle (s := s.toL0) hmp hops hbusy]
    simp only [State.mailboxGo, State.toL0, hready, hmp0, hmp3, hfree, hheld, Bool.not_true, Bool.false_eq_true, or_self, if_false,
      Option.isSome_none]
  | sideband =>
    simp only [State.accepts, hpath] at hacc
    simp only [State.asked, hpath] at hact ⊢
    simp only [State.askOp, hpath, hact, if_true, State.tookIn]
    rw [← State.opAccept_of_idle hmp hops hbusy]
    simp only [State.sidebandGo, hmp0, hacc, Bool.false_eq_true, if_false]
  | packet pk =>
    simp only [State.accepts, hpath] at hacc
    obtain ⟨hop1, hcode, hsend, hfetch, hchecks, hready⟩ := hacc
    simp only [State.asked, hpath] at hact ⊢
    simp only [State.askOp, hpath, hact, if_true, State.tookIn, show ¬op = 0 by omega, if_false,
      State.runPacket_mgmt hop1 hop hcode hsend hfetch hchecks hready req.data]
    rw [State.opAccept_of_idle (s := s.fetched pk req.data) hmp hops hbusy]

/-- What an operation that the MP takes is, and what the MP has to do besides. -/
theorem State.mpTakes_facts {op : Nat} (h : s.mpTakes op req u o) :
    o.op = op ∧ o.steps = 0 ∧ (op = 0 → o.path ≠ 2) ∧ u.mgt.updateBusy = false := by
  obtain ⟨hacc, rfl, rfl, -, -, hbusy, -, -⟩ := h
  have hmark (t : State) (o : MgmtOp) : (t.opMark o).mgt.updateBusy = t.mgt.updateBusy := congrArg (fun x => x.2.2.2) (t.opMark_agenda o)
  have htlp : s.tlp.mgt.updateBusy = s.mgt.updateBusy := congrArg (fun x => x.2.2.2) s.tlp_agenda
  cases hpath : req.path with
  | mailbox => simp [State.asked, State.tookIn, hpath, hmark, htlp, hbusy]
  | sideband => simp [State.asked, State.tookIn, hpath, hmark, hbusy]
  | packet pk =>
    simp only [State.accepts, hpath] at hacc
    have hfetched : (s.fetched pk req.data).mgt.updateBusy = s.mgt.updateBusy := rfl
    simp only [State.asked, State.tookIn, hpath, hmark, hfetched, hbusy, true_and, and_true]
    omega

/-- An operation of a request that the MP takes runs by its code, wherever it is still served. -/
theorem opRun_of_takes {op : Nat} (h : s.mpTakes op req u o) (hop : op ≤ 10) {t : State} (ht : t.opServed o = u.opServed o) :
    opRun t o = opByCode t o := by
  obtain ⟨hcode, -, hpath, -⟩ := State.mpTakes_facts h
  obtain ⟨-, -, -, -, -, -, hserved, hres⟩ := h
  have hnone : (if o.path = 2 then none else o.reserved) = none := by
    rcases hres with h | h
    · rw [if_pos h]
    · rw [h, ite_self]
  rw [opRun, if_neg (by rintro (h | ⟨h0, h2⟩) <;> [omega; exact hpath (by omega) h2]), hnone]
  exact if_neg (by rw [ht, hserved]; decide)

/-! ### What an answer leaves -/

/-- The device, and what the MP runs: where an operation is served follows from them. -/
def State.standing (s : State) : Dev × Nat := (s.dev, s.mgt.mpState)

theorem State.opServed_of_standing {s t : State} (h : t.standing = s.standing) (o : MgmtOp) : t.opServed o = s.opServed o := by
  obtain ⟨hdev, hmp⟩ := Prod.mk.inj h
  rw [State.opServed, State.opServed, hdev, hmp]

theorem State.log_standing (s : State) (code sev src unit arg : Nat) : (s.log code sev src unit arg).standing = s.standing := by
  simp only [State.log]
  exact ite_same State.standing rfl rfl

theorem State.msix_standing (s : State) (f v : Nat) : (s.msix f v).standing = s.standing := ite_same State.standing rfl rfl

theorem State.endPacket_standing (s : State) (fl : Flight) (a : Ans) : (s.endPacket fl a).standing = s.standing := by
  unfold State.endPacket
  dsimp only
  refine ite_same State.standing rfl (ite_same State.standing ?_ (ite_same State.standing ?_ ?_))
  · exact (State.msix_standing _ _ _).trans (State.log_standing _ _ _ _ _ _)
  · exact (State.msix_standing _ _ _).trans (ite_same State.standing rfl rfl)
  · exact ite_same State.standing rfl rfl

theorem State.opAnswer_standing (s : State) (o : MgmtOp) (a : MAns) : (s.opAnswer o a).standing = s.standing := by
  unfold State.opAnswer
  dsimp only
  refine ite_same State.standing rfl (ite_same State.standing (ite_same State.standing rfl rfl) ?_)
  split
  · rfl
  · exact (State.endPacket_standing _ _ _).trans (ite_same State.standing rfl rfl)

/-! ### A step's three ends (R425, R426, R437) -/

/-- An operation of one step that does not act after its answer. -/
theorem State.askOp_ends {op : Nat} (h : s.mpTakes op req u o) (hop : op ≤ 10) {act : Option (Nat × Nat)}
    (hact : actionIs act (if op = 5 then 2 else 5) o.body = true) (hlong : o.long = false)
    (hacts : ¬(op = 3 ∨ op = 4 ∨ (op = 5 ∧ o.f 17 1 = 2) ∨ (op = 8 ∧ o.f 16 1 = 1))) :
    s.askOp op act req = (((opByCode u o).1.opAnswer o (opByCode u o).2).syncUpdate).settle := by
  obtain ⟨hcode, -, -, hbusy⟩ := State.mpTakes_facts h
  rw [State.askOp_of_takes h hop hact, State.opStep, ← opRun_of_takes h hop rfl]
  simp only [hbusy, hlong, Bool.false_eq_true, and_false, false_and, if_false, hcode, hacts]

/-- An operation that acts once its answer stands. -/
theorem State.askOp_acts {op : Nat} (h : s.mpTakes op req u o) (hop : op ≤ 10) {act : Option (Nat × Nat)}
    (hact : actionIs act (if op = 5 then 2 else 5) o.body = true) (hlong : o.long = false)
    (hacts : op = 3 ∨ op = 4 ∨ (op = 5 ∧ o.f 17 1 = 2) ∨ (op = 8 ∧ o.f 16 1 = 1)) :
    s.askOp op act req = ((opByCode (u.opAnswer o (opByCode u o).2) o).1.syncUpdate).settle := by
  obtain ⟨hcode, -, -, hbusy⟩ := State.mpTakes_facts h
  rw [State.askOp_of_takes h hop hact, State.opStep,
    ← opRun_of_takes h hop (t := u.opAnswer o _) (State.opServed_of_standing (u.opAnswer_standing o _) o), ← opRun_of_takes h hop rfl]
  simp only [hbusy, hlong, Bool.false_eq_true, and_false, false_and, if_false, hcode, hacts, if_true]

/-- The first step of a long operation. -/
theorem State.askOp_begins {op : Nat} (h : s.mpTakes op req u o) (hop : op ≤ 10) {act : Option (Nat × Nat)}
    (hact : actionIs act (if op = 5 then 2 else 5) o.body = true) (hlong : o.long = true) :
    s.askOp op act req = (match u.opEarly o with
      | some a => u.opAnswer o a
      | none => u.opBegin o).settle := by
  obtain ⟨-, hsteps, -, hbusy⟩ := State.mpTakes_facts h
  rw [State.askOp_of_takes h hop hact, State.opStep]
  obtain ⟨-, -, -, -, -, -, hserved, -⟩ := h
  simp only [hbusy, hlong, hsteps, hserved, Bool.false_eq_true, and_false, if_false, and_self, if_true] <;> rfl

end MpTakes

section OperationsRun

variable {s u : State} {o : MgmtOp} {req : MgmtReq}

/-! ### The commands of the management operations -/

theorem MgmtOp.long_eq_false {op : Nat} (hcode : o.op = op) (hstage : op ≠ 8 ∨ o.f 16 1 ≠ 0) (hwrite : op ≠ 10 ∨ o.f 16 1 ≠ 2) :
    o.long = false := by
  simp only [MgmtOp.long, hcode, Bool.or_eq_false_iff, Bool.and_eq_false_iff, beq_eq_false_iff_ne]
  exact ⟨hstage, hwrite⟩

theorem actionIs_some {ofs a last : Nat} (h : o.f ofs 1 = a) : actionIs (some (ofs, a)) last o.body = true := by
  simp only [actionIs, Bool.or_eq_true, decide_eq_true_eq]
  exact .inl h

/-- The command of an operation that the MP takes and that ends in one step: the facts about its code hold by looking at it. -/
theorem exec_mpEnds {op : Nat} {act : Option (Nat × Nat)} {i : Instr} (f : State → MgmtOp → State × MAns) (h : s.mpTakes op req u o)
    (hact : actionIs act (if op = 5 then 2 else 5) o.body = true) (hf : opByCode u o = f u o)
    (hstage : op ≠ 8 ∨ o.f 16 1 ≠ 0 := by omega) (hwrite : op ≠ 10 ∨ o.f 16 1 ≠ 2 := by omega)
    (hacts : ¬(op = 3 ∨ op = 4 ∨ (op = 5 ∧ o.f 17 1 = 2) ∨ (op = 8 ∧ o.f 16 1 = 1)) := by omega)
    (hop : op ≤ 10 := by decide) (hexec : exec i s = .next (s.askOp op act req) := by rfl) :
    exec i s = mpEnds (f u o).1 o (f u o).2 := by
  have hlong := MgmtOp.long_eq_false (State.mpTakes_facts h).1 hstage hwrite
  rw [hexec, State.askOp_ends h hop hact hlong hacts, hf]
  rfl

/-- The command of an operation that acts once its answer stands. -/
theorem exec_mpActs {op : Nat} {act : Option (Nat × Nat)} {i : Instr} (f : State → MgmtOp → State × MAns) (h : s.mpTakes op req u o)
    (hact : actionIs act (if op = 5 then 2 else 5) o.body = true) (hf : ∀ t, opByCode t o = f t o)
    (hstage : op ≠ 8 ∨ o.f 16 1 ≠ 0 := by omega) (hwrite : op ≠ 10 ∨ o.f 16 1 ≠ 2 := by omega)
    (hacts : op = 3 ∨ op = 4 ∨ (op = 5 ∧ o.f 17 1 = 2) ∨ (op = 8 ∧ o.f 16 1 = 1) := by omega)
    (hop : op ≤ 10 := by decide) (hexec : exec i s = .next (s.askOp op act req) := by rfl) :
    exec i s = mpActs u o f := by
  have hlong := MgmtOp.long_eq_false (State.mpTakes_facts h).1 hstage hwrite
  rw [hexec, State.askOp_acts h hop hact hlong hacts, hf, hf]
  rfl

/-! ### Which operation a code and an ACTION name -/

theorem opByCode_update (h : o.op = 8) (t : State) : opByCode t o = opUpdate t o := by simp only [opByCode, h]
theorem opByCode_cask (h : o.op = 10) (t : State) : opByCode t o = opCask t o := by simp only [opByCode, h]

theorem opLogRead_state (u : State) (o : MgmtOp) : (opLogRead u o).1 = u := by
  simp only [opLogRead, apply_ite Prod.fst, ite_self]

theorem opCaskStatus_state (u : State) (o : MgmtOp) : (opCaskStatus u o).1 = u := by
  unfold opCaskStatus
  split
  · rfl
  · split <;> rfl

theorem opCaskList_state (u : State) (o : MgmtOp) : (opCaskList u o).1 = u := by
  unfold opCaskList
  split <;> rfl

/-- The Cask's checks of a WRITE, DELETE or UNPAIR, once the Cask is there, held by no one, valid and not read-only. -/
theorem State.caskChecks_write (hpresent : s.cask.present = true) (hheld : s.caskHeld = none) (hvalid : s.cask.identityValid = true)
    (hlife : s.cask.lifeState ≠ 2) : s.caskChecks true true = if s.paired = true then none else some { status := stCaskUnpaired } := by
  cases hpair : s.paired <;> simp [State.caskChecks, hpresent, hheld, hvalid, hlife, hpair]

theorem State.opEarly_stage (h : o.op = 8) : s.opEarly o = match s.stageSource o with
    | .error a => some a
    | .ok _ => none := by
  simp only [State.opEarly, h, if_true] <;> rfl

theorem State.opEarly_write (h : o.op = 10) : s.opEarly o = match s.caskChecks true true with
    | some a => some a
    | none => if o.path = 1 then some { status := stBadField, detail := 24 } else none := by
  simp only [State.opEarly, h, Nat.reduceEqDiff, if_false] <;> rfl

/-- STAGE or a Cask write that its first step ends. -/
theorem exec_mpRefused {op : Nat} {act : Option (Nat × Nat)} {i : Instr} {a : MAns} (h : s.mpTakes op req u o)
    (hact : actionIs act (if op = 5 then 2 else 5) o.body = true) (hlong : o.long = true) (hearly : u.opEarly o = some a)
    (hop : op ≤ 10 := by decide) (hexec : exec i s = .next (s.askOp op act req) := by rfl) : exec i s = .next (u.opAnswer o a).settle := by
  rw [hexec, State.askOp_begins h hop hact hlong, hearly]

/-- STAGE or a Cask write begun: it ends in the MP's later turns. -/
theorem exec_mpBegins {op : Nat} {act : Option (Nat × Nat)} {i : Instr} (h : s.mpTakes op req u o)
    (hact : actionIs act (if op = 5 then 2 else 5) o.body = true) (hlong : o.long = true) (hearly : u.opEarly o = none)
    (hop : op ≤ 10 := by decide) (hexec : exec i s = .next (s.askOp op act req) := by rfl) : exec i s = .next (u.opBegin o).settle := by
  rw [hexec, State.askOp_begins h hop hact hlong, hearly]

/-- Settles O35: each operation by the way its code and ACTION take through the MP. -/
theorem managementOperationsRun : Obligations.ManagementOperationsRun := by
  intro s u req o
  have code {op : Nat} (h : s.mpTakes op req u o) : o.op = op := (State.mpTakes_facts h).1
  refine ⟨fun h => ?identity, fun pk hpath hcode hsend hfetch => ?refused, fun h => ?logRead, fun h => ?sensorRead, fun h => ?functionReset,
    fun h => ?computeReset, fun h ha => ?powerOff, fun h ha => ?powerOn, fun h ha => ?shutdown, fun h => ?policy, fun h => ?defectRead,
    fun h ha => ⟨fun b hb => ?staged, fun a hb => ?notStaged⟩, fun h ha => ?activate, fun h ha => ?commit, fun h ha => ?board,
    fun h ha => ?enroll, fun h ha => ?remove, fun h => ?attest, fun h ha => ?caskStatus, fun h ha => ?caskList,
    fun h ha => ⟨fun a hc => ?notWritten, fun hpath hpresent hheld hvalid hlife => ?written⟩, fun h ha => ?delete, fun h ha => ?pair,
    fun h ha => ?unpair⟩
  case identity => exact exec_mpEnds opIdentity h rfl (by simp only [opByCode, code h])
  case refused =>
    change execIdentityStatus req s = _
    simp only [execIdentityStatus, State.askOp, hpath, hcode, if_true, State.runUndefined, hsend, hfetch, Bool.not_false, Bool.and_self]
    rfl
  case logRead =>
    have hexec := exec_mpEnds (i := .logRead req) opLogRead h rfl (by simp only [opByCode, code h])
    rwa [opLogRead_state] at hexec
  case sensorRead => exact exec_mpEnds opSensorRead h rfl (by simp only [opByCode, code h])
  case functionReset => exact exec_mpActs opFunctionReset h rfl (fun t => by simp only [opByCode, code h])
  case computeReset => exact exec_mpActs opComputeReset h rfl (fun t => by simp only [opByCode, code h])
  case powerOff =>
    exact exec_mpEnds opDomainPower h (actionIs_some ha) (by simp only [opByCode, code h])
  case powerOn =>
    exact exec_mpEnds opDomainPower h (actionIs_some ha) (by simp only [opByCode, code h])
  case shutdown =>
    exact exec_mpActs opDomainPower h (actionIs_some ha) (fun t => by simp only [opByCode, code h])
  case policy => exact exec_mpEnds opResetPolicy h rfl (by simp only [opByCode, code h])
  case defectRead => exact exec_mpEnds opDefectRead h rfl (by simp only [opByCode, code h])
  case staged =>
    exact exec_mpBegins h (actionIs_some ha) (by simp [MgmtOp.long, code h, ha]) ((State.opEarly_stage (code h)).trans (by rw [hb]))
  case notStaged =>
    exact exec_mpRefused h (actionIs_some ha) (by simp [MgmtOp.long, code h, ha]) ((State.opEarly_stage (code h)).trans (by rw [hb]))
  case activate =>
    exact exec_mpActs opActivate h (actionIs_some ha) (fun t => by rw [opByCode_update (code h)]; simp only [opUpdate, ha])
  case commit =>
    exact exec_mpEnds opCommitSvn h (actionIs_some ha) (by rw [opByCode_update (code h)]; simp only [opUpdate, ha])
  case board =>
    exact exec_mpEnds opBoardRecord h (actionIs_some ha) (by rw [opByCode_update (code h)]; simp only [opUpdate, ha])
  case enroll =>
    exact exec_mpEnds opKeyEnroll h (actionIs_some ha) (by rw [opByCode_update (code h)]; simp only [opUpdate, ha])
  case remove =>
    exact exec_mpEnds opKeyRemove h (actionIs_some ha) (by rw [opByCode_update (code h)]; simp only [opUpdate, ha])
  case attest => exact exec_mpEnds opAttest h rfl (by simp only [opByCode, code h])
  case caskStatus =>
    have hexec := exec_mpEnds (i := .caskStatus req) opCaskStatus h (actionIs_some ha) (by rw [opByCode_cask (code h)]; simp only [opCask, ha])
    rwa [opCaskStatus_state] at hexec
  case caskList =>
    have hexec := exec_mpEnds (i := .caskList req) opCaskList h (actionIs_some ha) (by rw [opByCode_cask (code h)]; simp only [opCask, ha])
    rwa [opCaskList_state] at hexec
  case notWritten =>
    exact exec_mpRefused h (actionIs_some ha) (by simp [MgmtOp.long, code h, ha]) ((State.opEarly_write (code h)).trans (by rw [hc]))
  case written =>
    have hlong : o.long = true := by simp [MgmtOp.long, code h, ha]
    have hchecks := State.caskChecks_write hpresent hheld hvalid hlife
    by_cases hpair : u.paired = true
    · rw [if_pos hpair] at hchecks ⊢
      exact exec_mpBegins h (actionIs_some ha) hlong ((State.opEarly_write (code h)).trans (by rw [hchecks, if_neg hpath]))
    · rw [if_neg hpair] at hchecks ⊢
      exact exec_mpRefused h (actionIs_some ha) hlong ((State.opEarly_write (code h)).trans (by rw [hchecks]))
  case delete =>
    exact exec_mpEnds opCaskDelete h (actionIs_some ha) (by rw [opByCode_cask (code h)]; simp only [opCask, ha])
  case pair =>
    exact exec_mpEnds opPair h (actionIs_some ha) (by rw [opByCode_cask (code h)]; simp only [opCask, ha])
  case unpair =>
    exact exec_mpEnds opUnpair h (actionIs_some ha) (by rw [opByCode_cask (code h)]; simp only [opCask, ha])

end OperationsRun

section OperationsAct

variable {s : State} {o : MgmtOp}

/-! ### What the operations do (R423, R435, R437, R440, R444, R445, R449 to R451, R476, R481) -/

theorem length_sliceB (l : List Byte) (ofs n : Nat) : (sliceB l ofs n).length = n := by
  simp [sliceB]

/-- An HSS index taken: the journal reserves ahead of it (R444). -/
theorem State.takeLeaf_some (h : s.mgt.leafNext < 2 ^ 40) : ∃ t : State, s.takeLeaf = some (t, s.mgt.leafNext) ∧
    t.mgt.leafNext = s.mgt.leafNext + 1 ∧ t.mgt.leafNext ≤ t.mgt.leafReserved ∧ t.mgt.signedThisSecond = s.mgt.signedThisSecond ∧
    t.cask = s.cask ∧ t.mem = s.mem := by
  refine ⟨_, if_neg (by omega), rfl, ?_⟩
  unfold State.reserveLeaves
  split
  · obtain ⟨f, b, q, l, hlog⟩ := ({ s with mgt := { s.mgt with leafReserved := s.mgt.leafNext + 1024 } } : State).log_only
      logLeafBlock 0 0 0xFFFF (s.mgt.leafNext + 1024)
    rw [hlog]
    exact ⟨Nat.add_le_add_left (by decide) _, rfl, rfl, rfl⟩
  · next hroom => exact ⟨by change s.mgt.leafNext + 1 ≤ s.mgt.leafReserved; omega, rfl, rfl, rfl⟩

theorem opAttest_first (h : o.f 20 4 = 0) : opAttest s o =
    if 100 ≤ s.mgt.signedThisSecond then (s, { status := stAttestRate })
    else match s.takeLeaf with
      | none => (s, { status := stLeafExhausted })
      | some (t, i) =>
        let body := t.reportBody i (sliceB o.body 16 32)
        let rep := body ++ padTo 5716 (Config.hssSign i body)
        ({ t with mgt := { t.mgt with report := rep, signedThisSecond := t.mgt.signedThisSecond + 1 } },
          { bytes := if decide (o.path = 2) || (decide (o.path = 0) && decide (o.f 24 8 ≠ 0)) then rep else rep.take 64 }) := by
  simp only [opAttest, h, ne_eq, not_true_eq_false, and_false, Nat.zero_mod, false_or, Nat.reduceLeDiff, if_false] <;> rfl

theorem opAttest_signs (h : o.f 20 4 = 0) (hrate : s.mgt.signedThisSecond < 100) (hleaf : s.mgt.leafNext < 2 ^ 40) :
    (opAttest s o).1.mgt.leafNext = s.mgt.leafNext + 1 ∧ (opAttest s o).1.mgt.signedThisSecond = s.mgt.signedThisSecond + 1 ∧
    (opAttest s o).1.mgt.leafNext ≤ (opAttest s o).1.mgt.leafReserved ∧ (opAttest s o).2.status = 0 ∧
    (opAttest s o).1.mgt.report.length = 5972 ∧ (opAttest s o).1.cask = s.cask ∧ (opAttest s o).1.mem = s.mem := by
  obtain ⟨t, htake, hnext, hreserved, hsigned, hcask, hmem⟩ := State.takeLeaf_some hleaf
  rw [opAttest_first h, if_neg (by omega), htake]
  have hlen : (t.reportBody s.mgt.leafNext (sliceB o.body 16 32) ++
      padTo 5716 (Config.hssSign s.mgt.leafNext (t.reportBody s.mgt.leafNext (sliceB o.body 16 32)))).length = 5972 := by
    rw [List.length_append, padTo, length_sliceB, State.reportBody, padTo, length_sliceB]
  exact ⟨hnext, congrArg (· + 1) hsigned, hreserved, rfl, hlen, hcask, hmem⟩

theorem State.caskLifeUpdate_leafNext (s : State) : s.caskLifeUpdate.mgt.leafNext = s.mgt.leafNext := by
  obtain ⟨k, c, b, -, -, hlife⟩ := s.caskLifeUpdate_only
  rw [hlife]

/-- A ledger entry, and what it brings, leave the leaf counter. -/
theorem State.ledgerAdd_leafNext (s : State) (n : Nat) : (s.ledgerAdd n).mgt.leafNext = s.mgt.leafNext := by
  unfold State.ledgerAdd
  split
  · rfl
  · exact State.caskLifeUpdate_leafNext _

theorem opPair_signs {m : CaskMedia} (hchecks : s.caskChecks true false = none) (hmedia : s.cask.media = some m)
    (hroom : (m.pairing.filter (·.valid)).length < 4) (hleaf : s.mgt.leafNext < 2 ^ 40) :
    (opPair s o).1.mgt.leafNext = s.mgt.leafNext + 1 ∧ (opPair s o).2.status = (opPair s o).1.caskOk := by
  obtain ⟨t, htake, hnext, -⟩ := State.takeLeaf_some hleaf
  simp only [opPair, hchecks, hmedia, not_le.mpr hroom, if_false, htake]
  exact ⟨(State.ledgerAdd_leafNext _ 0).trans hnext, trivial⟩

theorem opStage_of_source {b : List Byte} (h : s.stageSource o = .ok b) : opStage s o =
    if s.pkgCheck b = stOk then
      ((s.setSlot s.stageSlot (fun _ => { st := .staged, svn := pkgSvn b, tries := 0, image := b })).mgtEvent 0x0887 s.stageSlot (pkgSvn b) 0 false, {})
    else (s.setSlot s.stageSlot (fun _ => {}), { status := s.pkgCheck b }) := by
  simp only [opStage, h]

theorem State.packKey_isEmpty (k : Nat) : (s.packKey k).isEmpty = true ↔ s.packKey k = [] := List.isEmpty_iff

/-- Settles O36: each operation by the branches of its definition. -/
theorem managementOperationsAct : Obligations.ManagementOperationsAct := by
  intro s o
  refine ⟨fun h17 h18 hreset => ?policy, fun h17 h18 => ?policyRead, fun p hp hlo hhi => ⟨fun hfree => ?freeFunction, fun hheld => ?function⟩,
    fun hp => if_pos hp, fun hrefused hfull => ?refused, fun k hk => ⟨fun hbooted => ?commit, fun hbooted => ?notBooted⟩, fun hlo hhi hpath => ?board,
    fun k key hk hkey hk7 => ⟨fun hempty hpath hsig hots => ?enroll, fun hfull hpath => ?slotFull, fun hfull => ?remove, fun hempty => ?slotEmpty⟩,
    fun k hk hlater => ?activate, fun hnone hnow => ?noSlot, fun b hb => opStage_of_source hb, fun h hrate => ?attestRate,
    fun h hrate hleaf => ?attestLeaf, fun h hrate hleaf => opAttest_signs h hrate hleaf,
    fun m i hpresent hheld hvalid hlife hmedia hi hlo hhi => ?delete, fun m hchecks hmedia => ⟨fun hfull => ?pairFull, fun hroom hleaf => ?pair⟩,
    fun m hpresent hheld hvalid hlife hmedia => ?unpair⟩
  case policy =>
    refine ⟨_, rfl, ?_⟩
    simp only [opResetPolicy, not_lt.mpr h17, h18, Nat.reduceLT, if_false, zero_ne_one, hreset, Option.isSome_none, Bool.false_eq_true]
  case policyRead =>
    simp only [opResetPolicy, not_lt.mpr h17, h18, lt_irrefl, if_false, if_true]
  case freeFunction =>
    subst hp
    simp only [opFunctionReset, not_lt.mpr hhi, show o.f 16 1 ≠ 0 by omega, if_false, hfree, if_true]
  case function =>
    subst hp
    simp only [opFunctionReset, not_lt.mpr hhi, show o.f 16 1 ≠ 0 by omega, if_false, hheld]
  case refused =>
    simp only [opComputeReset, not_lt.mpr hfull, if_false, State.askReset, hrefused, if_true, heldByMp]
  case commit =>
    simp only [opCommitSvn, hk, hbooted, if_true]
  case notBooted =>
    simp only [opCommitSvn, hk, hbooted, if_false]
  case board =>
    have hn : ¬(o.f 20 4 = 0 ∨ 4096 < o.f 20 4) := by omega
    simp only [opBoardRecord, hn, hpath, if_false]
  case enroll =>
    subst hk hkey
    have hsig' : ¬((lmsSigLen (beNat (sliceB (padTo 56 o.data) 0 4))).isNone = true ∨ beNat (sliceB (padTo 56 o.data) 4 4) ≠ 3) := by
      rw [Option.isNone_eq_false_iff.mpr hsig]
      tauto
    simp only [opKeyEnroll, not_lt.mpr hk7, hpath, hempty, List.isEmpty_nil, Bool.not_true, Bool.false_eq_true, hsig', if_false]
  case slotFull =>
    subst hk
    have hne : (s.packKey (o.f 32 1)).isEmpty = false := by rw [← Bool.not_eq_true, State.packKey_isEmpty]; exact hfull
    simp only [opKeyEnroll, not_lt.mpr hk7, hpath, hne, Bool.not_false, if_false, if_true]
  case remove =>
    subst hk
    have hne : (s.packKey (o.f 32 1)).isEmpty = false := by rw [← Bool.not_eq_true, State.packKey_isEmpty]; exact hfull
    simp only [opKeyRemove, not_lt.mpr hk7, hne, Bool.false_eq_true, if_false]
  case slotEmpty =>
    subst hk
    simp only [opKeyRemove, not_lt.mpr hk7, hempty, List.isEmpty_nil, if_false, if_true]
  case activate =>
    simp only [opActivate, hlater, Nat.reduceLT, hk, zero_ne_one, if_false]
  case noSlot =>
    simp only [opActivate, not_lt.mpr hnow, hnone, if_false]
  case attestRate =>
    exact (opAttest_first h).trans (if_pos hrate)
  case attestLeaf =>
    rw [opAttest_first h, if_neg (by omega), State.takeLeaf, if_pos hleaf]
  case delete =>
    subst hi
    have hchecks := State.caskChecks_write hpresent hheld hvalid hlife
    have hn : ¬(o.f 18 2 = 0 ∨ 8191 < o.f 18 2) := by omega
    refine ⟨_, rfl, ?_⟩
    cases hpair : s.paired <;> simp [opCaskDelete, hchecks, hpair, hn, hmedia]
  case pairFull =>
    simp only [opPair, hchecks, hmedia, hfull, if_true]
  case pair =>
    exact opPair_signs hchecks hmedia hroom hleaf
  case unpair =>
    have hchecks := State.caskChecks_write hpresent hheld hvalid hlife
    refine ⟨_, rfl, ?_⟩
    cases hpair : s.paired <;> simp [opUnpair, hchecks, hpair, hmedia]

end OperationsAct

section Sideband

variable {s : State}

/-! ### The sideband's commands and the MP's turns (R425, R428) -/

theorem State.sbCommand_taken (hup : s.aonUp = true) (t : State) : s.sbCommand true t = t := by
  simp only [State.sbCommand, State.sbTaken, hup, Bool.not_true, Bool.false_eq_true, if_false, Bool.true_or, Bool.and_self, if_true]

theorem State.sbCommand_refused (hup : s.aonUp = true) (hmode : s.dev.straps.sbMode = false) (t : State) :
    s.sbCommand false t = { s with outbox := s.outbox ++ [.sidebandNack] } := by
  simp only [State.sbCommand, State.sbTaken, hup, hmode, Bool.not_true, Bool.false_eq_true, if_false, Bool.or_self, Bool.and_false]
  rfl

/-- The last step of a STAGE. -/
theorem State.opStep_stage {o : MgmtOp} (hop : o.op = 8) (hact : o.f 16 1 = 0) (hsteps : o.steps = 1)
    (hserved : s.opServed o = true) (hres : o.reserved = none) :
    s.opStep o = (((opStage s o).1.opAnswer o (opStage s o).2).syncUpdate) := by
  have hrun : opRun s o = opStage s o := by
    rw [opRun, if_neg (by omega), hres, ite_self]
    refine (if_neg (by rw [hserved]; decide)).trans ?_
    rw [opByCode_update hop]
    simp only [opUpdate, hact]
  rw [State.opStep, hrun, if_neg (fun h => h.2.1 hsteps), if_neg (fun h => by omega), if_neg (by omega)]

/-- Settles O37: the bytes of each sideband command, and the turn of the operation in front. -/
theorem sidebandCommandsAndMpTurnsAct : Obligations.SidebandCommandsAndMpTurnsAct := by
  intro s
  refine ⟨fun hup => ⟨fun data hlen => ?params, ?status, ?respLo, ?respHi, ?ack, fun v hv => ?noAck, fun hmode data v => ?refused⟩, ?length,
    fun o t hops hmp => ?turn, fun o hop hact hsteps _ hserved hres => State.opStep_stage hop hact hsteps hserved hres, fun hops => ?idle⟩
  case params =>
    have hpad : padTo 32 data = data := sliceB_zero_of_length hlen
    constructor
    · change execParamLo true data s = _
      simp only [execParamLo, State.sbCommand_taken hup, State.sbParam, hpad, Bool.false_eq_true, if_false]
    · change execParamHi true data s = _
      simp only [execParamHi, State.sbCommand_taken hup, State.sbParam, hpad, if_true]
  case status => exact congrArg Host.Outcome.next (State.sbCommand_taken hup _)
  case respLo => exact congrArg Host.Outcome.next (State.sbCommand_taken hup _)
  case respHi => exact congrArg Host.Outcome.next (State.sbCommand_taken hup _)
  case ack => exact congrArg Host.Outcome.next (State.sbCommand_taken hup _)
  case noAck => exact congrArg Host.Outcome.next ((State.sbCommand_taken hup _).trans (if_neg hv))
  case refused =>
    have hnack (t : State) := congrArg (Host.Outcome.next (φ := Fault) (ρ := Refusal)) (State.sbCommand_refused hup hmode t)
    exact ⟨hnack _, hnack _, hnack _, hnack _, hnack _, hnack _⟩
  case length =>
    simp [State.sbStatus, natLE_length]
  case turn =>
    change execMpOperationStep s = _
    simp only [execMpOperationStep, State.opTurn, hops, hmp, if_true]
  case idle =>
    change execMpOperationStep s = _
    simp only [execMpOperationStep, State.opTurn, hops]

end Sideband

end Sys2Proof.Machine
end

section
/-! PROOFS. The Cellarer's quires: placement, issue, completion, outcome, and the grants of the pools (R148, R153, R155, R156, R158, R162, R163, R179 to R183). -/

namespace Sys2Proof.Machine

section Quires

variable {s : State}

/-! ### Placement (R180 to R182) -/

/-- No run's returned quires, where those of every listed run are none. -/
theorem returned_of_all (h : s.cel.runs.all (fun e => e.2.returned == []) = true) {r : Nat} {y : Run} (hy : s.runAt r = some y) :
    y.returned = [] := by
  obtain ⟨e, he, rfl⟩ := Option.map_eq_some_iff.mp hy
  exact beq_iff_eq.mp (List.all_eq_true.mp h e (List.mem_of_find?_eq_some he))

/-- A quire that was returned, or that competes with none that was, is not late. -/
theorem not_late {x : Run} {q : Nat} (first : Option (Nat × Nat))
    (h : x.returned.contains q = true ∨ x.returned = [] ∧ s.cel.runs.all (fun e => e.2.returned == []) = true) :
    (!x.returned.contains q && first.any (fun e => ((s.runAt e.1).map (fun y => y.returned.contains e.2)).getD false)) = false := by
  obtain hback | ⟨-, hnone⟩ := h
  · rw [hback]
    rfl
  · have hfirst : first.any (fun e => ((s.runAt e.1).map (fun y => y.returned.contains e.2)).getD false) = false := by
      rw [Option.any_eq_false]
      intro e he
      cases hy : s.runAt e.1 with
      | none => simp
      | some y => simp [returned_of_all hnone hy]
    rw [hfirst, Bool.and_false]

theorem exec_placementDecision_of_place {r q n : Nat} {x : Run} (hx : s.runAt r = some x) (hready : s.ready r q = true)
    (hlost : s.bindsLost r q 8 = false) (hplace : s.choosePlace x.part r q = some n)
    (hback : x.returned.contains q = true ∨ x.returned = [] ∧ s.cel.runs.all (fun e => e.2.returned == []) = true)
    (hroom : (s.coreAt n).user ≠ x.part ∨ s.mayTake n x.part x.prio = true) : exec (.placementDecision r q) s = .next (s.place x r q n) := by
  have htake : ¬ ((s.coreAt n).user = x.part ∧ s.mayTake n x.part x.prio = false) := by
    rintro ⟨huser, hno⟩
    obtain h | h := hroom
    · exact h huser
    · exact Bool.noConfusion (h.symm.trans hno)
  change execPlacementDecision r q s = _
  simp only [execPlacementDecision, hx, hready, not_late _ hback, hlost, hplace, Bool.not_true, Bool.or_self, Bool.false_eq_true, if_false,
    if_neg htake]

/-! ### Grants (R183) -/

theorem exec_drrGrant_of_turn {p : Pool} {after : PoolState} {c : Nat × Nat} (hfree : s.unitFree p = true)
    (hwork : (s.poolWork p).isEmpty = false) (hturn : s.drrTurn p = (after, some c)) : exec (.drrGrant p) s = .next (s.grant p after c) := by
  change execDrrGrant p s = _
  simp only [execDrrGrant, hfree, hwork, hturn, Bool.true_eq_false, Bool.false_eq_true, or_self, if_false]

/-! ### Issue (R153, R154, R182) -/

section Issue

variable {n : Fin 8}

theorem exec_quireIssue_of_asleep (hoff : (s.domAt (5 + n.val)).st ≠ .on) (hq : (s.coreAt n).queue ≠ []) :
    exec (.quireIssue n) s = .next (s.wake (5 + n.val)) := by
  change execQuireIssue n s = _
  simp [execQuireIssue, hoff, hq]

variable (hon : (s.domAt (5 + n.val)).st = .on) (hstill : (s.domAt (5 + n.val)).move = .none)

include hon hstill in
theorem exec_quireIssue_of_second (h : (s.coreAt n).second.isSome = true) : exec (.quireIssue n) s = .next (s.startQuire n).settle := by
  change execQuireIssue n s = _
  simp only [execQuireIssue, hon, hstill, h, ne_eq, not_true_eq_false, or_self, if_false, if_true]

variable {r q : Nat} {rest : List (Nat × Nat)} {x : Run} (hsec : (s.coreAt n).second = none) (hq : (s.coreAt n).queue = (r, q) :: rest)
  (hpre : (s.coreAt n).preempt = none) (hlost : s.bindsLost r q n = false) (hx : s.runAt r = some x)

include hon hstill hsec hq hpre hlost hx

theorem exec_quireIssue_of_head : exec (.quireIssue n) s =
    .next (if (s.homeBindings r q n (s.pointExp x)).mayIssue n r q = true then
      (((((s.homeBindings r q n (s.pointExp x)).setQuire r q (.issued n)).setCore n
        (fun c => { c with queue := rest, second := some (r, q) })).startQuire n).settle)
      else s.homeBindings r q n (s.pointExp x)) := by
  change execQuireIssue n s = _
  simp only [execQuireIssue, hon, hstill, hsec, hq, hpre, hlost, hx, Option.isSome_none, Bool.false_eq_true, ne_eq, not_true_eq_false, or_self,
    if_false]
  split <;> rfl

end Issue

/-! ### Completion and outcome (R155, R156, R158) -/

theorem exec_quireComplete_of_ended {n : Fin 8} {a : Active} (ha : (s.coreAt n).active = some a) (hend : a.ended = true)
    (hw : (s.coreAt n).writes = []) (hdone : (s.coreAt n).done = none) : exec (.quireComplete n) s =
    .next ((s.showWrites a).setCore n (fun c => { c with active := none, lastQuire := a.quire, done := some a.record })) := by
  change execQuireComplete n s = _
  simp only [execQuireComplete, ha, hend, hw, hdone, List.isEmpty_nil, Bool.not_true, Option.isSome_none, Bool.or_self, Bool.false_eq_true,
    if_false]

/-- A core whose completion record the Cellarer takes: a pre-emption whose quire was abandoned marks it, and goes on to its rack-out. -/
def Core.recordTaken (d : Completed) (c : Core) : Core := { c with
  done := none
  preempt := c.preempt.map (fun (p : Preempt) => { p with
    abandoned := p.abandoned || d.outcome == 4, phase := if p.phase = 2 then 3 else p.phase }) }

theorem exec_quireOutcome_of_done {n : Fin 8} {d : Completed} {x : Run} (hdone : (s.coreAt n).done = some d) (hx : s.runAt d.run = some x) :
    exec (.quireOutcome n) s =
      .next ((((((s.setCore n (Core.recordTaken d)).actOutcome n x d).afterQuire n).returnEmptied).runMoved d.run).settle) := by
  have hx' : (s.setCore n (Core.recordTaken d)).runAt d.run = some x := hx
  change execQuireOutcome n s = _
  unfold Core.recordTaken at hx' ⊢
  simp only [execQuireOutcome, hdone, hx']

/-- The device and the count of quires that ran again after they were abandoned. -/
def State.abandoned (s : State) : Dev × Nat := (s.dev, s.cel.rerunAbandon)

theorem State.charge_abandoned (s : State) (r c k : Nat) : (s.charge r c k).abandoned = s.abandoned := by
  unfold State.charge
  dsimp only
  split <;> rfl

/-- What every charge leaves, a charge for a batch leaves. -/
theorem State.chargeBatch_same {α : Type} (π : State → α) (h : ∀ (s : State) r c k, π (s.charge r c k) = π s)
    (s : State) (p c k : Nat) (l : List Nat) : π (s.chargeBatch p c k l) = π s := by
  unfold State.chargeBatch
  exact (foldl_same (f := fun s (e : Nat × Nat) => if e.1 = 0 then s else s.charge e.1 c e.2) π
    (fun s e => ite_same π rfl (h s e.1 c e.2)) _ _).trans (h s p c k)

/-- What every count of busy cycles leaves, a count for a batch leaves. -/
theorem State.busyBatch_same {α : Type} (π : State → α) (h : ∀ (s : State) d r k, π (s.busyAt d r k) = π s)
    (s : State) (doms : List Nat) (p k : Nat) (l : List Nat) : π (s.busyBatch doms p k l) = π s :=
  foldl_same π (fun s d => (foldl_same (f := fun s (e : Nat × Nat) => if e.1 = 0 then s else s.busyAt d e.1 e.2) π
    (fun s e => ite_same π rfl (h s d e.1 e.2)) _ _).trans (h s d p k)) doms s

/-- A core's cycles charged leave what every charge and every count of busy cycles leave. -/
theorem State.chargeCore_same {α : Type} (π : State → α) (hc : ∀ (s : State) r c k, π (s.charge r c k) = π s)
    (hb : ∀ (s : State) d r k, π (s.busyAt d r k) = π s) (s : State) (n who : Nat) (d : Completed) (l : List Nat) :
    π (s.chargeCore n who d l) = π s :=
  ((State.busyBatch_same π hb _ _ _ _ _).trans (State.chargeBatch_same π hc _ _ _ _ _)).trans (State.chargeBatch_same π hc _ _ _ _ _)

theorem State.chargeQuire_mem (s : State) (n : Nat) (x : Run) (d : Completed) : (s.chargeQuire n x d).mem = s.mem :=
  State.chargeCore_same State.mem (fun s r c k => show (s.charge r c k).sansCel.mem = s.sansCel.mem from congrArg State.mem (s.charge_sansCel r c k))
    (fun _ _ _ _ => rfl) s n _ d _

/-- Changes of the cores leave memory. -/
theorem State.foldl_setCore_mem (g : Nat → Core → Core) (l : List Nat) (s : State) : (l.foldl (fun s i => s.setCore i (g i)) s).mem = s.mem :=
  foldl_same (f := fun s i => s.setCore i (g i)) State.mem (fun _ _ => rfl) l s

theorem State.failQuire_mem (s : State) (r q status : Nat) : (s.failQuire r q status).mem = s.mem := by
  unfold State.failQuire State.setRun
  dsimp only
  split
  · rfl
  · exact State.foldl_setCore_mem _ _ s

theorem State.deviceFault_facts (s : State) (source unit arg : Nat) :
    (s.deviceFault source unit arg).dev.deviceFault = true ∧ (s.deviceFault source unit arg).mem = s.mem := by
  obtain ⟨f, b, q, l, h⟩ := s.log_only logDeviceFault 3 source unit arg
  unfold State.deviceFault
  rw [h]
  exact ⟨rfl, rfl⟩

section Outcome

variable (n : Nat) (x : Run) {d : Completed}

theorem State.actOutcome_of_completed (h : d.outcome = 0) : s.actOutcome n x d =
    ((((s.chargeQuire n x d).addClamps x d).setQuire d.run d.quire .completed).pushPoints d.run).freeEnded d.run := by
  simp only [State.actOutcome, h]

theorem State.actOutcome_of_poisoned (h : d.outcome = 2) :
    s.actOutcome n x d = (s.chargeQuire n x d).failQuire d.run d.quire stDataPoisoned := by
  simp only [State.actOutcome, h]

theorem State.actOutcome_of_fault (h : d.outcome = 3 ∨ d.outcome = 5) :
    ∃ st : Nat, s.actOutcome n x d = ((s.chargeQuire n x d).failQuire d.run d.quire st).deviceFault 1 n st := by
  obtain h | h := h
  · exact ⟨stBadBinding, by simp only [State.actOutcome, h]⟩
  · exact ⟨stTimeout, by simp only [State.actOutcome, h]⟩

theorem State.actOutcome_fault_facts (h : d.outcome = 3 ∨ d.outcome = 5) :
    (s.actOutcome n x d).dev.deviceFault = true ∧ (s.actOutcome n x d).mem = s.mem := by
  obtain ⟨st, hact⟩ := State.actOutcome_of_fault (s := s) n x h
  obtain ⟨hfault, hmem⟩ := State.deviceFault_facts ((s.chargeQuire n x d).failQuire d.run d.quire st) 1 n st
  rw [hact]
  exact ⟨hfault, by rw [hmem, State.failQuire_mem, State.chargeQuire_mem]⟩

theorem State.actOutcome_abandoned_facts (h : d.outcome = 4) :
    (s.actOutcome n x d).cel.rerunAbandon = satAdd 16 s.cel.rerunAbandon 1 ∧ (s.actOutcome n x d).dev = s.dev := by
  have hkept : (s.chargeCore n (((s.coreAt n).preempt.map (·.part)).getD 0) d []).abandoned = s.abandoned :=
    State.chargeCore_same State.abandoned State.charge_abandoned (fun _ _ _ _ => rfl) s n _ d []
  obtain ⟨hdev, hcount⟩ := Prod.mk.inj hkept
  simp only [State.actOutcome, h]
  exact ⟨congrArg (satAdd 16 · 1) hcount, hdev⟩

end Outcome

end Quires

/-- Settles O38: every command's branch is read off its definition; an outcome's charges change the accounting alone. -/
theorem quiresArePlacedIssuedAndCompleted : Obligations.QuiresArePlacedIssuedAndCompleted := by
  unfold Obligations.QuiresArePlacedIssuedAndCompleted
  intro s
  refine ⟨fun r q x n hx hready hlost hplace hback hroom => exec_placementDecision_of_place hx hready hlost hplace hback hroom,
    fun p after c hfree hwork hturn => exec_drrGrant_of_turn hfree hwork hturn,
    fun n => ⟨fun hoff hq => exec_quireIssue_of_asleep hoff hq, fun hon hstill => ⟨fun hsec => exec_quireIssue_of_second hon hstill hsec, ?issue⟩⟩,
    fun n a ha hend hw hdone => ⟨exec_quireComplete_of_ended ha hend hw hdone, rfl, rfl, rfl⟩,
    fun n d x t hdone hx ht => ht ▸ exec_quireOutcome_of_done hdone hx,
    fun n x d => ⟨State.actOutcome_of_completed n x, State.actOutcome_of_poisoned n x, State.actOutcome_fault_facts n x,
      State.actOutcome_abandoned_facts n x⟩,
    fun n a ha hlong hpre => exec_quireLong_of_active ha hlong hpre,
    fun n a ha hdone => exec_quireWatchdog_of_active ha hdone,
    fun n outcome a ha => ?stop⟩
  case issue =>
    intro r q rest x u hsec hq hpre hlost hx hu
    rw [exec_quireIssue_of_head hon hstill hsec hq hpre hlost hx, ← hu]
    exact ⟨fun hmay => by rw [if_pos hmay], fun hmay => by rw [if_neg (Bool.eq_false_iff.mp hmay)]⟩
  case stop =>
    obtain ⟨hactive, hdone⟩ := State.coreAt_stopQuire_same ha outcome
    exact ⟨hactive, _, hdone, rfl, rfl, rfl⟩

end Sys2Proof.Machine
end

section
/-! PROOFS. Pre-emption, the moves of tensors between homes, and the regulators (R163, R165, R175, R177, R185 to R187, R192, R196). -/

namespace Sys2Proof.Machine

section Preemption

variable {s : State}

/-! ### The request (R163, R165, R185, R186) -/

theorem exec_preemptionRequest_of_victim {r q n : Nat} {x : Run} (hx : s.runAt r = some x) (hmay : s.mayPreempt x r q = true)
    (hbest : leastBy (s.victimCost x.part r q) ((s.victims x.part x.prio).filter (fun n => (s.coreAt n).user == x.part ||
        decide ((s.coresHeld x.part).length < (s.partAt x.part).coresMax))) = some n) : exec (.preemptionRequest r q) s =
    .next (if (s.markPreempt x.part r q n).mayAbandon n = true then (s.markPreempt x.part r q n).abandonQuire n
      else s.markPreempt x.part r q n) := by
  change execPreemptionRequest r q s = _
  simp only [execPreemptionRequest, hx, hmay, hbest, Bool.not_true, Bool.false_eq_true, if_false]

section MayAbandon

variable {n : Nat} {a : Active}

theorem State.mayAbandon_of_idle (h : (s.coreAt n).active = none) : s.mayAbandon n = false := by
  simp [State.mayAbandon, h]

theorem State.mayAbandon_of_short (h : (s.coreAt n).active = some a) (hshort : a.long = false) : s.mayAbandon n = false := by
  simp [State.mayAbandon, h, hshort]

theorem State.mayAbandon_of_complete (h : (s.coreAt n).active = some a) (hend : a.ended = true) (hw : (s.coreAt n).writes = []) :
    s.mayAbandon n = false := by
  simp [State.mayAbandon, h, hend, hw]

theorem State.mayAbandon_of_long {y : Run} (h : (s.coreAt n).active = some a) (hdone : (s.coreAt n).done = none) (hlong : a.long = true)
    (hopen : a.ended = false ∨ (s.coreAt n).writes ≠ []) (hrun : s.runAt a.run = some y) (hfew : tget 0 y.abandons a.quire < 2) :
    s.mayAbandon n = true := by
  have hgoes : (!(a.ended && (s.coreAt n).writes.isEmpty)) = true := by
    obtain h | h := hopen
    · rw [h]
      rfl
    · rw [List.isEmpty_eq_false_iff.mpr h, Bool.and_false]
      rfl
  simp only [State.mayAbandon, h, hdone, hlong, hgoes, hrun, hfew, Option.isNone_none, Option.any_some, Option.map_some, Option.getD_some,
    decide_true, Bool.and_self]

end MayAbandon

/-! ### The core changes hands (R187, R190, R192) -/

section Handover

variable {n : Fin 8} {y : Preempt} (h : (s.coreAt n).preempt = some y)

include h

theorem exec_preemptionRackOutDone_of_removal (hphase : y.phase = 3) (hpart : y.part = 0) :
    exec (.preemptionRackOutDone n) s = .next ((((s.rackOut 0 y.victim n).coreLeft n).restReleased n).settle) := by
  change execPreemptionRackOutDone n s = _
  simp only [execPreemptionRackOutDone, h, hphase, hpart, ne_eq, not_true_eq_false, if_false, if_true]

theorem exec_preemptionRackOutDone_of_transfer (hphase : y.phase = 3) (hpart : y.part ≠ 0) (htransfer : y.transfer = true) :
    exec (.preemptionRackOutDone n) s =
      .next (((s.rackOut y.part y.victim n).setCore n (fun c => { c with preempt := some { y with phase := 4 } })).settle) := by
  change execPreemptionRackOutDone n s = _
  simp only [execPreemptionRackOutDone, h, hphase, hpart, htransfer, ne_eq, not_true_eq_false, if_false, if_true]

theorem exec_preemptionRackOutDone_within (hphase : y.phase = 3) (hpart : y.part ≠ 0) (htransfer : y.transfer = false) :
    ∃ k, exec (.preemptionRackOutDone n) s =
      .next ((((((s.spill y.victim y.run y.quire n).foldl (fun s k => s.rackOutOne y.part k) s).setCore n
        (fun c => { c with preempt := none })).countPreempt y n k).placeWinner y n).settle) := by
  refine ⟨(Config.duration ((s.spill y.victim y.run y.quire n).foldl (fun s k => s.rackOutOne y.part k) s).cel.uses).toNat, ?_⟩
  change execPreemptionRackOutDone n s = _
  simp only [execPreemptionRackOutDone, h, hphase, hpart, htransfer, Bool.false_eq_true, ne_eq, not_true_eq_false, if_false]

/-- The core cleared and scrubbed of its victim for the next user. -/
theorem exec_preemptionTransferDone_of_out (k : Nat) (hphase : y.phase = 4) : exec (.preemptionTransferDone n k) s =
    .next ((if y.part = 0 then
        (((s.freeTensors (fun t => t.part == y.victim && t.lost && atCore n t.home)).setCore n (fun c => { c.clear with
          preempt := none, user := if y.part = 0 then (if c.out then 0 else c.owner) else y.part })).dropZero n).scrubForeign y.part n
      else (((((s.freeTensors (fun t => t.part == y.victim && t.lost && atCore n t.home)).setCore n (fun c => { c.clear with
          preempt := none, user := if y.part = 0 then (if c.out then 0 else c.owner) else y.part })).dropZero n).scrubForeign y.part n).countPreempt
            y n k).placeWinner y n).settle) := by
  change execPreemptionTransferDone n k s = _
  simp only [execPreemptionTransferDone, h, hphase, ne_eq, not_true_eq_false, if_false]

end Handover

/-! ### Moves (R174 to R178, R196) -/

section Moves

variable {k : Nat} {t : Tensor}

/-- Whether a copy of a tensor at a home is there or on its way. -/
theorem no_copy_at {dest : HomeKind} (h : ∀ e ∈ s.cel.tensors, e.2.part = t.part → e.2.folio = t.folio → e.2.run = t.run → e.2.tid = t.tid →
      e.2.inst = t.inst → e.2.home ≠ dest ∧ ∀ m, e.2.move = some m → m.1 ≠ dest) :
    s.cel.tensors.any (fun e => e.2.part == t.part && e.2.folio == t.folio && e.2.run == t.run && e.2.tid == t.tid &&
      e.2.inst == t.inst && (decide (e.2.home = dest) || e.2.move.any (fun m => decide (m.1 = dest)))) = false := by
  rw [List.any_eq_false]
  intro e he hcopy
  simp only [Bool.and_eq_true, Bool.or_eq_true, beq_iff_eq, decide_eq_true_eq, Option.any_eq_true] at hcopy
  obtain ⟨⟨⟨⟨⟨hpart, hfolio⟩, hrun⟩, htid⟩, hinst⟩, hthere⟩ := hcopy
  obtain ⟨hhome, hmove⟩ := h e he hpart hfolio hrun htid hinst
  obtain hat | ⟨m, hm, hto⟩ := hthere
  · exact hhome hat
  · exact hmove m hm hto

/-- The tokens that a move of t to its destination draws, once its place is taken. -/
def State.drawTokens (u : State) (t : Tensor) (dest : HomeKind) (a : Nat) : State × List (Nat × Nat) :=
  if dest = .saveArea then (u, []) else u.regulate t dest a (u.bytesIn t t.home)

/-- The state in which a move has begun but for its entry: its use is counted. -/
def State.counted (s : State) : State := { s with cel := { s.cel with uses := s.cel.uses + 1 } }

section Begin

variable {dest : HomeKind} {addr a : Nat} {u : State} (ht : s.tensorAt k = some t) (hlost : t.lost = false) (hmove : t.move = none)
  (hhome : t.home ≠ dest) (hallow : s.moveAllowed t dest = true) (hroom : s.moveRoom t dest addr = (u, some a))

include ht hlost hmove hhome hallow hroom

theorem exec_rackMove_of_free (hcopy : s.copies t = false) (hbound : s.boundHere t k = false) : exec (.rackMove k dest addr) s =
    .next ((u.drawTokens t dest a).1.counted.setTensor k (fun y => { y with
      move := some (dest, a), used := (u.drawTokens t dest a).1.cel.uses + 1, owed := (u.drawTokens t dest a).2 })) := by
  change execRackMove k dest addr s = _
  simp only [execRackMove, ht, hlost, hmove, hhome, hallow, hroom, hcopy, hbound, Option.isSome_none, Bool.false_eq_true, Bool.true_eq_false,
    false_and, and_false, or_self, if_false]
  rfl

theorem exec_rackMove_of_copy (hcopy : s.copies t = true) (hnone : ∀ e ∈ s.cel.tensors, e.2.part = t.part → e.2.folio = t.folio →
      e.2.run = t.run → e.2.tid = t.tid → e.2.inst = t.inst → e.2.home ≠ dest ∧ ∀ m, e.2.move = some m → m.1 ≠ dest) :
    exec (.rackMove k dest addr) s = .next ((u.drawTokens t dest a).1.counted.newTensor { t with
      move := some (dest, a), used := (u.drawTokens t dest a).1.cel.uses + 1, owed := (u.drawTokens t dest a).2 }) := by
  change execRackMove k dest addr s = _
  simp only [execRackMove, ht, hlost, hmove, hhome, hallow, hroom, hcopy, no_copy_at hnone, Option.isSome_none, Bool.false_eq_true,
    Bool.true_eq_false, false_and, and_false, or_self, if_false, if_true]
  rfl

end Begin

theorem exec_rackMoveDone_of_owed (ecc : List StoreError) (ht : s.tensorAt k = some t) (howed : t.owed ≠ []) :
    exec (.rackMoveDone k ecc) s = .next s := by
  change execRackMoveDone k ecc s = _
  simp [execRackMoveDone, ht, howed]

theorem exec_rackMoveDone_of_paid (ecc : List StoreError) (ht : s.tensorAt k = some t) (howed : t.owed = []) :
    exec (.rackMoveDone k ecc) s = .next ((s.sourceErrors k ecc).landMove k) := by
  change execRackMoveDone k ecc s = _
  simp [execRackMoveDone, ht, howed]

/-- What copying a tensor's bytes, and charging for it, leaves: nothing of it is memory, a core, an account or the count of racked bytes. -/
structure BesideMoves {α : Type} (π : State → α) : Prop where
  mem : ∀ (s : State) (m : Mem), π { s with mem := m } = π s
  core : ∀ (s : State) (n : Nat) (g : Core → Core), π (s.setCore n g) = π s
  charge : ∀ (s : State) (r c n : Nat), π (s.charge r c n) = π s
  racked : ∀ (s : State) (n : Nat), π { s with cel := { s.cel with rackBytes := n } } = π s

section Beside

variable {α : Type} {π : State → α} (hπ : BesideMoves π) (s : State)
include hπ

theorem State.writeMem_beside (a : Nat) (bs : List Byte) : π (s.writeMem a bs) = π s := by
  rw [s.writeMem_frame]
  exact hπ.mem s _

theorem State.poisonDecoded_beside (d : TDecl) (dst : Nat) (bad : List Nat) : π (s.poisonDecoded d dst bad) = π s :=
  foldl_same π (fun s b => by exact foldl_same π (fun s k => by exact foldl_same π (fun s _ => by exact hπ.mem s _) _ s) _ s) bad s

theorem State.copyData_beside (src n dst : Nat) : π (s.copyData src n dst) = π s :=
  (foldl_same π (fun s _ => by exact hπ.mem s _) _ _).trans (s.writeMem_beside hπ dst _)

theorem State.putTensor_beside (t : Tensor) (dst : HomeKind) (addr : Nat) : π (s.putTensor t dst addr) = π s :=
  ite_same π ((State.poisonDecoded_beside hπ _ _ _ _).trans (s.writeMem_beside hπ addr _)) (s.copyData_beside hπ _ _ _)

theorem State.chargeMove_beside (who : Nat) (l : List Nat) (src dst : HomeKind) (n : Nat) : π (s.chargeMove who l src dst n) = π s := by
  have hcharge := fun c u => State.chargeBatch_same π hπ.charge u who c n l
  unfold State.chargeMove
  extract_lets s8 s9 s10 s11 s12
  calc π _ = π s12 := hπ.racked s12 _
    _ = π s11 := ite_same π (hcharge 12 s11) rfl
    _ = π s10 := ite_same π (hcharge 11 s10) rfl
    _ = π s9 := ite_same π (hcharge 10 s9) rfl
    _ = π s8 := ite_same π (hcharge 9 s8) rfl
    _ = π s := ite_same π (hcharge 8 s) rfl

theorem State.copyBits_beside (k : Nat) (t : Tensor) : π (s.copyBits k t) = π s := by
  unfold State.copyBits
  split
  · rfl
  · exact hπ.mem s _

theorem State.fitBits_beside (n k : Nat) : π (s.fitBits n k) = π s := by
  unfold State.fitBits
  split
  · rfl
  · exact ite_same π rfl ((hπ.core _ _ _).trans (hπ.mem s _))

end Beside

/-- The entries of the Cellarer: its tensors and its runs. -/
def State.entries (s : State) : List (Nat × Tensor) × List (Nat × Run) := (s.cel.tensors, s.cel.runs)

theorem State.entries_beside : BesideMoves State.entries where
  mem _ _ := rfl
  core _ _ _ := rfl
  charge s r c n := by
    unfold State.charge
    dsimp only
    split <;> rfl
  racked _ _ := rfl

/-- The entry of a tensor whose last byte has landed at its home h. -/
def Tensor.landed (s : State) (h : HomeKind) (a : Nat) (t : Tensor) : Tensor :=
  { t with home := h, addr := a, move := none, charge := 0, owed := [], bytes := s.bytesIn t h }

/-- A move's end changes its entry and no other, and no run. -/
theorem State.landMove_entries {h : HomeKind} {a : Nat} (ht : s.tensorAt k = some t) (hmove : t.move = some (h, a)) : ∃ u : State,
    (s.landMove k).entries = (nmod s.cel.tensors k (Tensor.landed u h a), s.cel.runs) := by
  unfold State.landMove
  simp -zeta only [ht, hmove]
  extract_lets n put bits set fit
  have hbits : bits.entries = s.entries := (ite_same State.entries (State.copyBits_beside State.entries_beside _ _ _) rfl).trans
    ((State.chargeMove_beside State.entries_beside _ _ _ _ _ _).trans (s.putTensor_beside State.entries_beside _ _ _))
  obtain ⟨htensors, hruns⟩ := Prod.mk.inj hbits
  have hset : set.entries = (nmod s.cel.tensors k (Tensor.landed bits h a), s.cel.runs) := by
    rw [← htensors, ← hruns]
    rfl
  have hfit : fit.entries = set.entries := by
    subst fit
    split
    · exact State.fitBits_beside State.entries_beside _ _ _
    · rfl
  refine ⟨bits, Eq.trans ?_ (hfit.trans hset)⟩
  split
  · exact ite_same State.entries rfl rfl
  · rfl

/-- What the entry of a moved tensor is once its last byte has landed (R177). -/
theorem State.landMove_facts {h : HomeKind} {a : Nat} (ht : s.tensorAt k = some t) (hmove : t.move = some (h, a)) :
    (∃ y, (s.landMove k).tensorAt k = some y ∧ y.home = h ∧ y.addr = a ∧ y.move = none ∧ y.charge = 0 ∧ y.tid = t.tid) ∧
    (∀ j : Nat, j ≠ k → (s.landMove k).tensorAt j = s.tensorAt j) ∧ (s.landMove k).cel.runs = s.cel.runs := by
  obtain ⟨u, hentries⟩ := State.landMove_entries ht hmove
  obtain ⟨htensors, hruns⟩ := Prod.mk.inj hentries
  refine ⟨⟨t.landed u h a, ?_, rfl, rfl, rfl, rfl, rfl⟩, fun j hj => ?_, hruns⟩
  · rw [State.tensorAt, htensors, nget_nmod_same]
    exact congrArg (Option.map _) ht
  · rw [State.tensorAt, htensors, nget_nmod_other _ _ _ _ hj]
    rfl

end Moves

/-! ### Regulators (R196) -/

theorem exec_regulatorRefill_of_open {p : Fin 8} {b : Fin 27} {v : Nat} (hst : (s.partAt (p.val + 1)).st ≠ .free)
    (htrained : ¬ (b.val < 3 ∧ s.trainedIn b.val = 0))
    (hv : v = min
      (if b.val < 3 then (s.partAt (p.val + 1)).burst * 1024 * s.trainedIn b.val / s.ddr.inService.length else (s.partAt (p.val + 1)).burst * 1024)
      (tget 0 s.cel.tokens (32 * (p.val + 1) + b.val) + if b.val < 3 then (s.partAt (p.val + 1)).dramRate * 1280 * s.trainedIn b.val /
        s.ddr.inService.length else (s.partAt (p.val + 1)).fabricRate * 1024)) :
    exec (.regulatorRefill p b) s = .next
      (({ s with cel := { s.cel with tokens := tput 0 s.cel.tokens (32 * (p.val + 1) + b.val) v } } : State).payWaiting (p.val + 1) b
        (if b.val < 3 then (s.partAt (p.val + 1)).dramRate else (s.partAt (p.val + 1)).fabricRate)) := by
  subst hv
  exact if_neg (not_or.mpr ⟨hst, htrained⟩)

end Preemption

/-- Settles O39: every command's branch is read off its definition; a move's end changes its entry alone. -/
theorem preemptionAndRackingAct : Obligations.PreemptionAndRackingAct := by
  unfold Obligations.PreemptionAndRackingAct
  intro s
  refine ⟨?request, fun n y h hphase => ⟨exec_preemptionRackOutDone_of_removal h hphase, exec_preemptionRackOutDone_of_transfer h hphase,
      exec_preemptionRackOutDone_within h hphase⟩, ?transferDone, ?move,
    fun k t h a ecc ht hmove => ⟨exec_rackMoveDone_of_owed ecc ht, exec_rackMoveDone_of_paid ecc ht, State.landMove_facts ht hmove⟩, ?refill⟩
  case request =>
    intro r q x n t hx hmay hbest ht
    rw [exec_preemptionRequest_of_victim hx hmay hbest, ← ht]
    refine ⟨fun hidle => ?_, fun a ha hdone => ?_, fun a y ha hdone hlong hopen hrun hfew => ?_⟩
    · rw [State.mayAbandon_of_idle hidle]
      rfl
    · obtain hshort | ⟨hend, hw⟩ := hdone
      · rw [State.mayAbandon_of_short ha hshort]
        rfl
      · rw [State.mayAbandon_of_complete ha hend hw]
        rfl
    · rw [if_pos (State.mayAbandon_of_long ha hdone hlong hopen hrun hfew)]
  case transferDone =>
    intro n y k u h hphase hu
    rw [exec_preemptionTransferDone_of_out h k hphase, ← hu]
    exact ⟨fun hpart => by simp only [if_neg hpart], fun hpart => by simp only [hpart, if_true]⟩
  case move =>
    intro k dest addr t u a v ht hlost hmove hhome hallow hroom hv
    subst hv
    exact ⟨fun hcopy hbound => exec_rackMove_of_free ht hlost hmove hhome hallow hroom hcopy hbound,
      fun hcopy hnone => exec_rackMove_of_copy ht hlost hmove hhome hallow hroom hcopy hnone⟩
  case refill =>
    intro p b k v q hq hk hst hv
    subst hq hk
    obtain ⟨hb, hv⟩ | ⟨hb, htrained, hv⟩ := hv
    · have hb' : ¬ b.val < 3 := Nat.not_lt.mpr hb
      exact exec_regulatorRefill_of_open hst (fun h => hb' h.1) (by rw [if_neg hb', if_neg hb', hv])
    · exact exec_regulatorRefill_of_open hst (fun h => htrained h.2) (by rw [if_pos hb, if_pos hb, hv])

end Sys2Proof.Machine
end

section
/-! PROOFS. The tile sequencer's instructions: set-up, passes, flushes and the writes that land (R15, R35, R36, R44, R45, R62 to R74, R97, R149 to R156). -/

namespace Sys2Proof.Machine

section SetUp

variable {s : State} {n : Fin 8} {x : Active × List Byte × QHdr}

/-! ### Set-up instructions (R62, R63, R149 to R156) -/

theorem exec_ctrlNop_at (h : s.atInst n wNop = some x) : exec (.ctrlNop n) s = .next (s.tick n 1) :=
  if_pos (Option.isSome_of_eq_some h)

theorem exec_ctrlNop_of_none (h : s.atInst n wNop = none) : exec (.ctrlNop n) s = .next s := by
  change execCtrlNop n s = _
  simp [execCtrlNop, h]

theorem exec_endQuire_at (h : s.atInst n wEnd = some x) :
    exec (.endQuire n) s = .next (((s.tick n 1).setActive n (fun a => { a with ended := true })).decideFine n) :=
  if_pos (Option.isSome_of_eq_some h)

theorem exec_endQuire_of_none (h : s.atInst n wEnd = none) : exec (.endQuire n) s = .next s := by
  change execEndQuire n s = _
  simp [execEndQuire, h]

theorem exec_fence_at (h : s.atInst n wFence = some x) (hw : (s.coreAt n).writes = []) : exec (.fence n) s = .next (s.tick n 1) :=
  if_pos ⟨Option.isSome_of_eq_some h, hw⟩

theorem exec_fence_of_writes (hw : (s.coreAt n).writes ≠ []) : exec (.fence n) s = .next s :=
  if_neg (fun h => hw h.2)

theorem exec_fence_of_none (h : s.atInst n wFence = none) : exec (.fence n) s = .next s := by
  change execFence n s = _
  simp [execFence, h]

theorem exec_mark_at {v : BitVec 32} (h : s.atInst n (wMark v.toNat) = some x) :
    exec (.mark n v) s = .next ((s.tick n 1).setActive n (fun a => { a with mark := v.toNat })) :=
  if_pos (Option.isSome_of_eq_some h)

theorem exec_geom_at {m : BitVec 4} {i : Fin 4096} {win : Bool} (h : s.atInst n (wGeom m.toNat i win) = some x) : exec (.geom n m i win) s =
    .next ((s.tick n 1).setActive n (fun a => { a with
      geom := (bitList 4 m.toNat).foldl (fun t j => tput none t j (some (i.val, win))) a.geom })) :=
  if_pos (Option.isSome_of_eq_some h)

theorem exec_slot_at {k : Fin 4} {b : Fin 256} {p : Fin 4} {q : Fin 64} {c : Fin 256} {p0 : BitVec 32}
    (h : s.atInst n (wSlot k b p q c p0.toNat) = some x) : exec (.slot n k b p q c p0) s =
    .next ((s.tick n 1).setActive n (fun a => { a with
      src := tput none a.src k (some { binding := b, plane := p, p := q.val + 1, chain := c, p0 := p0.toNat }) })) :=
  if_pos (Option.isSome_of_eq_some h)

section Wload

variable {b : Fin 256} {p : Fin 4} {d : Fin 8} {s2 : Bool} {o : Fin 16777216} {a : Active} {img : List Byte} {hd : QHdr} {t : WTile}
  {r : List (Nat × Nat)} (h : s.atInst n (wWload b p d s2 o) = some (a, img, hd))
  (ht : t = { binding := b, plane := p, diag := d, s2 := s2, offset := o, loaded := false }) (hr : r = [(wtileAddr a t, t.bytes)])

include h ht hr

theorem exec_wload_of_free (ecc : List StoreError) (hfree : s.blocked n r = false) : exec (.wload n b p d s2 o ecc) s =
    .next (((s.eccFound n r ecc).tick n 1).setActive n (fun a => { a with shadow := a.shadow ++
      [{ t with digits := (s.eccFound n r ecc).bytesAt (wtileAddr a t) t.bytes, poisoned := (s.eccFound n r ecc).anyPoison r }] })) := by
  subst ht hr
  change execWload n b p d s2 o ecc s = _
  simp only [execWload, h, hfree, Bool.false_eq_true, if_false]

theorem exec_wload_of_blocked (ecc : List StoreError) (hblocked : s.blocked n r = true) : exec (.wload n b p d s2 o ecc) s = .next s := by
  subst ht hr
  change execWload n b p d s2 o ecc s = _
  simp only [execWload, h, hblocked, if_true]

end Wload

/-- A change of a core is told by what it makes of the core. -/
theorem State.setCore_congr {k : Nat} {f g : Core → Core} (h : f (s.coreAt k) = g (s.coreAt k)) : s.setCore k f = s.setCore k g := by
  have hmod : tmod {} s.core k f = tmod {} s.core k g := congrArg (tput ({} : Core) s.core k) h
  unfold State.setCore
  rw [hmod]

theorem exec_weightShadowLoaded_of_next {t : WTile} {ts : List WTile} {a : Active} (ha : (s.coreAt n).active = some a)
    (hshadow : a.shadow = t :: ts) : exec (.weightShadowLoaded n) s =
    .next (s.setCore n (fun c => { c with active := some { a with shadow := { t with loaded := true } :: ts } })) := by
  refine congrArg Host.Outcome.next (State.setCore_congr ?_)
  rw [ha, Option.map_some, hshadow]

end SetUp

/-- Settles O40: each instruction at the quire's next word takes its branch, and the count of cycles follows from the tick. -/
theorem tileSetupInstructionsAct : Obligations.TileSetupInstructionsAct := by
  unfold Obligations.TileSetupInstructionsAct
  intro s n
  refine ⟨fun w a img h hat => ⟨fun hw => exec_ctrlNop_at (hw ▸ hat), fun hw => exec_endQuire_at (hw ▸ hat), fun hw => exec_fence_at (hw ▸ hat),
      fun _ => exec_fence_of_writes, fun v hw => exec_mark_at (hw ▸ hat), fun m i win hw => exec_geom_at (hw ▸ hat), ?wload,
      fun k b p q c p0 hw => exec_slot_at (hw ▸ hat)⟩,
    exec_ctrlNop_of_none, exec_endQuire_of_none, exec_fence_of_none, fun a ha => ⟨_, State.tick_active 1 ha, rfl, rfl, rfl, rfl⟩,
    fun t ts a ha hshadow => exec_weightShadowLoaded_of_next ha hshadow⟩
  intro b p d s2 o ecc t r u hw ht hr hu
  subst hw hu
  exact ⟨exec_wload_of_free hat ht hr ecc, exec_wload_of_blocked hat ht hr ecc⟩

section Passes

variable {s : State} {n : Fin 8} {a : Active} {img : List Byte} {h : QHdr}

/-! ### Passes (R62, R63, R66, R69, R70, R97) -/

/-- A pass waits for a write of what it reads, for the shadow tile that it runs against, or for the core to give its completion record. -/
theorem State.passWaits_iff (neww : Bool) (blk : Nat) (slots run : List (Nat × SlotSrc)) : s.passWaits n img h a neww blk slots run = true ↔
    s.blocked n (slots.flatMap (fun e => s.tileRanges img h a e.1 e.2 blk)) = true ∨
    (neww = true ∧ run ≠ [] ∧ ∀ t, a.shadow.head? = some t → t.loaded = false) ∨ (s.coreAt n).done ≠ none := by
  simp only [State.passWaits, Bool.or_eq_true, Bool.and_eq_true, Bool.not_eq_true', List.isEmpty_eq_false_iff, Option.isSome_iff_ne_none,
    Option.any_eq_false, or_assoc, and_assoc, ne_eq]

/-- Without checksum mode, or without faults, no slot of a pass has a mismatch. -/
theorem State.passChecks_of_clean (t : WTile) (blk : Nat) (run : List (Nat × SlotSrc)) {faults : List CellFault}
    (hclean : h.checksum = false ∨ faults = []) : s.passChecks n img h a t blk run faults = [] := by
  obtain hoff | hnone := hclean
  · simp [State.passChecks, hoff]
  · simp [State.passChecks, hnone]

section Pass

variable {m : BitVec 4} {neww bank opening : Bool} {blk : Fin 512} {faults : List CellFault} {ecc : List StoreError}
  {slots run skip : List (Nat × SlotSrc)} {v : State} {reads : List (Nat × Nat)}
  (hat : s.atInst n (wPass m.toNat neww bank opening blk) = some (a, img, h)) (hslots : slots = maskSlots a m.toNat)
  (hskip : skip = slots.filter (fun e => s.slotSkips img h a e.1 e.2 blk)) (hrun : run = slots.filter (fun e => !s.slotSkips img h a e.1 e.2 blk))

include hat hslots hrun

theorem exec_pass_of_waits (hwaits : s.passWaits n img h a neww blk slots run = true) :
    exec (.pass n m neww bank opening blk faults ecc) s = .next s := by
  subst hrun hslots
  change execPass n m neww bank opening blk faults ecc s = _
  simp only [execPass, hat, hwaits, if_true]

variable {t : WTile} (hreads : reads = (s.beginPass n neww opening bank slots).readsNow img h a slots run blk)
  (hv : v = (s.beginPass n neww opening bank slots).eccFound n reads ecc) (hgo : s.passWaits n img h a neww blk slots run = false)
  (ht : (if neww then a.shadow.head? else a.weight) = some t)

include hskip hreads hv hgo ht

/-- A pass that need not wait: mismatches are recorded, then poison stops the quire, then a mismatch does, else the slots run. -/
theorem exec_pass_of_tile : exec (.pass n m neww bank opening blk faults ecc) s =
    let bad := v.passChecks n img h a t blk run faults
    let u := if bad.isEmpty then v else v.recordCheck n bad
    if u.anyPoison reads || (!run.isEmpty && t.poisoned) then .next (u.stopQuire n 2)
    else if !bad.isEmpty then .next (u.stopQuire n 1)
    else .next ((u.stageTiles n img h a slots blk).runPass n img h a t neww bank blk run skip faults) := by
  subst hv hreads hskip hrun hslots
  change execPass n m neww bank opening blk faults ecc s = _
  simp only [execPass, hat, hgo, ht, Bool.false_eq_true, if_false]

theorem exec_pass_of_clean (hpoison : v.anyPoison reads = false) (htile : run = [] ∨ t.poisoned = false)
    (hchecks : v.passChecks n img h a t blk run faults = []) : exec (.pass n m neww bank opening blk faults ecc) s =
    .next ((v.stageTiles n img h a slots blk).runPass n img h a t neww bank blk run skip faults) := by
  have htile' : (!run.isEmpty && t.poisoned) = false := by
    obtain rfl | h := htile
    · rfl
    · rw [h, Bool.and_false]
  simp only [exec_pass_of_tile hat hslots hskip hrun hreads hv hgo ht, hchecks, hpoison, htile', List.isEmpty_nil, if_true, Bool.not_true,
    Bool.or_self, Bool.false_eq_true, if_false]

theorem exec_pass_of_mismatch (hpoison : (v.recordCheck n (v.passChecks n img h a t blk run faults)).anyPoison reads = false)
    (htile : run = [] ∨ t.poisoned = false) (hchecks : v.passChecks n img h a t blk run faults ≠ []) :
    exec (.pass n m neww bank opening blk faults ecc) s = .next ((v.recordCheck n (v.passChecks n img h a t blk run faults)).stopQuire n 1) := by
  have htile' : (!run.isEmpty && t.poisoned) = false := by
    obtain rfl | h := htile
    · rfl
    · rw [h, Bool.and_false]
  simp only [exec_pass_of_tile hat hslots hskip hrun hreads hv hgo ht, List.isEmpty_eq_false_iff.mpr hchecks, hpoison, htile', if_true,
    Bool.not_false, Bool.or_self, Bool.false_eq_true, if_false]

theorem exec_pass_of_poison (hpoison : v.anyPoison reads = true ∨ (run ≠ [] ∧ t.poisoned = true))
    (hchecks : v.passChecks n img h a t blk run faults = []) :
    exec (.pass n m neww bank opening blk faults ecc) s = .next (v.stopQuire n 2) := by
  have hbad : (v.anyPoison reads || (!run.isEmpty && t.poisoned)) = true := by
    obtain h | ⟨hne, hp⟩ := hpoison
    · rw [h, Bool.true_or]
    · rw [List.isEmpty_eq_false_iff.mpr hne, hp, Bool.not_false, Bool.and_self, Bool.or_true]
  simp only [exec_pass_of_tile hat hslots hskip hrun hreads hv hgo ht, hchecks, hbad, List.isEmpty_nil, if_true]

end Pass

/-! ### Flushes (R36, R63, R70, R74) -/

section Flush

variable {m : BitVec 4} {bank set : Bool} {sh : Fin 8} {chain out col : Fin 256} {ecc : List StoreError} {slots : List (Nat × SlotSrc)} {c : ChainD}

/-- The state once a flush has added its banks into the accumulator set and closed them. -/
def State.drained (s : State) (n : Nat) (bank set : Bool) (sh : Nat) (slots : List (Nat × SlotSrc)) : State :=
  (slots.foldl (fun s e => s.drainBank n e.1 (b2n bank) (b2n set) sh) s).setActive n (fun a => { a with
    opened := a.opened.filter (fun o => !(slots.any (fun e => o == 2 * e.1 + b2n bank))) })

theorem State.blocked_none (s : State) (n : Nat) : s.blocked n [] = false := by
  simp [State.blocked]

theorem exec_flush_of_drain (hat : s.atInst n (wFlush m.toNat bank sh false chain out col set) = some (a, img, h))
    (hslots : slots = maskSlots a m.toNat) (hdone : (s.coreAt n).done = none) (hc : c = chainD img (h.chainBase + chain.val)) :
    exec (.flush n m bank sh false chain out col set ecc) s = .next ((s.drained n bank set sh slots).tick n
      ((s.drained n bank set sh slots).flushCycles n img h a c out col (b2n set) false slots)) := by
  have hecc : s.eccFound n [] ecc = s := by simp [State.eccFound]
  have hpoison : s.anyPoison [] = false := rfl
  subst hslots hc
  change execFlush n m bank sh false chain out col set ecc s = _
  simp only [execFlush, hat, hdone, State.blocked_none, hecc, hpoison, Option.isSome_none, Bool.or_self, Bool.false_eq_true, if_false]
  rfl

section Convert

variable {r : List (Nat × Nat) × List (Nat × Nat)} {v : State} (hat : s.atInst n (wFlush m.toNat bank sh true chain out col set) = some (a, img, h))
  (hslots : slots = maskSlots a m.toNat) (hdone : (s.coreAt n).done = none) (hc : c = chainD img (h.chainBase + chain.val))
  (hr : r = s.flushRanges img h a c out col slots) (hv : v = s.eccFound n r.2 ecc)

include hat hslots hdone hc hr hv

theorem exec_flush_of_convert : exec (.flush n m bank sh true chain out col set ecc) s =
    if s.blocked n r.1 = true then .next s
    else if v.anyPoison r.2 = true then .next (v.stopQuire n 2)
    else .next (((v.drained n bank set sh slots).convertFlush n img h a c out col (b2n set) slots).tick n
      ((v.drained n bank set sh slots).flushCycles n img h a c out col (b2n set) true slots)) := by
  subst hv hr hslots hc
  change execFlush n m bank sh true chain out col set ecc s = _
  simp only [execFlush, hat, hdone, Option.isSome_none, Bool.or_false, if_true]
  rfl

end Convert

theorem State.le_flushCycles (u : State) (k : Nat) (set : Nat) (convert : Bool) (out col : Nat) :
    64 ≤ u.flushCycles k img h a c out col set convert slots :=
  le_max_left 64 _

end Flush

/-! ### Writes that land (R44, R63, R155) -/

theorem exec_epilogueWriteDone_of_write {w : StoreWrite} {ws : List StoreWrite} (hw : (s.coreAt n).writes = w :: ws)
    (ha : (s.coreAt n).active = some a) : exec (.epilogueWriteDone n) s =
    .next ((w.zero.foldl (fun u z => u.decideZero n (s.runImage a.run) a z)
      ((w.segs.foldl (fun s g => s.landWrite n g) ((s.setCore n (fun c => { c with writes := ws })).cleanLines n w.segs)).clearTouched n a w)).decideFine n) := by
  change execEpilogueWriteDone n s = _
  simp only [execEpilogueWriteDone, hw, ha]

theorem State.landWrite_active (ha : (s.coreAt n).active = some a) (g : Nat × List Byte) :
    ((s.landWrite n g).coreAt n).active = some { a with undo := (g.1, s.bytesAt g.1 g.2.length) :: a.undo } := by
  rw [State.landWrite, State.coreAt_congr (State.writeMem_core _ _ _)]
  exact State.setActive_active _ ha

end Passes

/-- Settles O41: passes, flushes and landed writes branch by branch; what a pass waits for is a disjunction of its three causes. -/
theorem passesFlushesAndWritesAct : Obligations.PassesFlushesAndWritesAct := by
  unfold Obligations.PassesFlushesAndWritesAct
  intro s n
  refine ⟨?pass, fun img h a neww blk slots run => State.passWaits_iff neww blk slots run, ?drain, ?convert,
    fun u img h a c out col set convert slots => u.le_flushCycles n set convert out col, ?landed, fun g a ha => State.landWrite_active ha g⟩
  case pass =>
    intro m neww bank opening blk faults ecc a img h slots run skip v reads hat hslots hskip hrun hreads hv
    refine ⟨exec_pass_of_waits hat hslots hrun, fun t hgo ht => ⟨?_, ?_, ?_, fun hclean => State.passChecks_of_clean t blk run hclean⟩⟩
    · exact exec_pass_of_clean hat hslots hskip hrun hreads hv hgo ht
    · exact exec_pass_of_mismatch hat hslots hskip hrun hreads hv hgo ht
    · exact exec_pass_of_poison hat hslots hskip hrun hreads hv hgo ht
  case drain =>
    intro m bank sh chain out col set ecc a img h slots u k hat hslots hdone hu hk
    subst hk hu
    exact exec_flush_of_drain hat hslots hdone rfl
  case convert =>
    intro m bank sh chain out col set ecc a img h slots c r v u k hat hslots hdone hc hr hv hu hk
    rw [exec_flush_of_convert hat hslots hdone hc hr hv]
    subst hk hu
    refine ⟨fun hblocked => if_pos hblocked, fun hfree hpoison => ?_, fun hfree hclean => ?_⟩
    · rw [if_neg (Bool.eq_false_iff.mp hfree), if_pos hpoison]
    · rw [if_neg (Bool.eq_false_iff.mp hfree), if_neg (Bool.eq_false_iff.mp hclean)]
      rfl
  case landed =>
    intro w ws a img u hw ha himg hu
    subst hu himg
    exact exec_epilogueWriteDone_of_write hw ha

end Sys2Proof.Machine
end

section
/-! PROOFS. The arithmetic of the arrays: the sums of a pass, the drain of a bank, and the ranges of the last step (R28, R35, R36, R40, R64). -/

namespace Sys2Proof.Machine

/-! ### Sums added into a store -/

/-- What a list of contributions gives to one key. -/
def sumAt (k : Nat) (l : List (Nat × Int)) : Int := (l.map (fun e => if e.1 = k then e.2 else 0)).sum

theorem sumAt_nil (k : Nat) : sumAt k [] = 0 := rfl

theorem sumAt_cons (k : Nat) (e : Nat × Int) (l : List (Nat × Int)) : sumAt k (e :: l) = (if e.1 = k then e.2 else 0) + sumAt k l := rfl

theorem sumAt_append (k : Nat) (l m : List (Nat × Int)) : sumAt k (l ++ m) = sumAt k l + sumAt k m := by
  simp [sumAt]

theorem sumAt_of_not_mem {k : Nat} {l : List (Nat × Int)} (h : ∀ e ∈ l, e.1 ≠ k) : sumAt k l = 0 := by
  refine List.sum_eq_zero fun x hx => ?_
  obtain ⟨e, he, rfl⟩ := List.mem_map.mp hx
  exact if_neg (h e he)

theorem sumAt_flatMap_none {β : Type} {k : Nat} {g : β → List (Nat × Int)} {l : List β} (h : ∀ y ∈ l, sumAt k (g y) = 0) :
    sumAt k (l.flatMap g) = 0 := by
  induction l with
  | nil => rfl
  | cons y l ih =>
    rw [List.flatMap_cons, sumAt_append, h y List.mem_cons_self, ih fun z hz => h z (List.mem_cons_of_mem y hz), add_zero]

/-- Of several groups of contributions only one gives to the key. -/
theorem sumAt_flatMap_single {β : Type} {k : Nat} {g : β → List (Nat × Int)} {x : β} {l : List β} (hmem : x ∈ l) (hnodup : l.Nodup)
    (hother : ∀ y ∈ l, y ≠ x → sumAt k (g y) = 0) : sumAt k (l.flatMap g) = sumAt k (g x) := by
  induction l with
  | nil => exact absurd hmem List.not_mem_nil
  | cons y l ih =>
    obtain ⟨hy, hnodup⟩ := List.nodup_cons.mp hnodup
    rw [List.flatMap_cons, sumAt_append]
    by_cases hx : x = y
    · subst hx
      have hrest : ∀ z ∈ l, sumAt k (g z) = 0 := fun z hz => hother z (List.mem_cons_of_mem x hz) fun h => hy (h ▸ hz)
      rw [sumAt_flatMap_none hrest, add_zero]
    · rw [hother y List.mem_cons_self (Ne.symm hx), zero_add]
      exact ih ((List.mem_cons.mp hmem).resolve_left hx) hnodup fun z hz => hother z (List.mem_cons_of_mem y hz)

/-- Contributions added one after another into a store: a key holds what it held and the sum of what it was given. -/
theorem tget_addSums {t : Tbl Int} (ht : twf 0 t = true) (k : Nat) (l : List (Nat × Int)) :
    tget 0 (l.foldl (fun (b : Tbl Int) (e : Nat × Int) => if e.2 = 0 then b else tput 0 b e.1 (tget 0 b e.1 + e.2)) t) k =
      tget 0 t k + sumAt k l := by
  induction l generalizing t with
  | nil => simp [sumAt_nil]
  | cons e l ih =>
    rw [List.foldl_cons, sumAt_cons, ← add_assoc]
    by_cases hzero : e.2 = 0
    · rw [if_pos hzero, ih ht, hzero, ite_self, add_zero]
    · rw [if_neg hzero, ih (tput_twf _ _ _ _ ht)]
      by_cases hk : e.1 = k
      · rw [if_pos hk, ← hk, tget_tput_same _ _ _ _ ht]
      · rw [if_neg hk, tget_tput_other _ _ _ _ _ (Ne.symm hk), add_zero]

/-! ### Passes (R35) -/

/-- Places of a slot's bank are told by position and column. -/
theorem bankKey_inj {slot bank p q c d : Nat} (hc : c < 256) (hd : d < 256) (h : bankKey slot bank p c = bankKey slot bank q d) :
    p = q ∧ c = d := by
  unfold bankKey at h
  omega

/-- A sum of products without the operands that are 0. -/
theorem sum_filter_nonzero (w : Nat → Int) (l : List (Int × Nat)) :
    ((l.filter (fun x => decide (x.1 ≠ 0))).map (fun x => x.1 * w x.2)).sum = (l.map (fun x => x.1 * w x.2)).sum := by
  induction l with
  | nil => rfl
  | cons x l ih =>
    by_cases hx : x.1 = 0
    · rw [List.filter_cons_of_neg (by simp [hx]), ih, List.map_cons, List.sum_cons, hx, zero_mul, zero_add]
    · rw [List.filter_cons_of_pos (by simp [hx]), List.map_cons, List.map_cons, List.sum_cons, List.sum_cons, ih]

/-- The products of a position's operands with the weights of a column. -/
def columnSum (t : WTile) (row : List Int) (col : Nat) : Int := (row.zipIdx.map (fun x => x.1 * t.weightAt x.2 col)).sum

/-- What a tile gives to the banks from one position's operands. -/
def rowSums (slot bank : Nat) (t : WTile) (cols : Nat) (r : List Int × Nat) : List (Nat × Int) :=
  let xs := (r.1.zipIdx).filter (fun x => decide (x.1 ≠ 0))
  if xs.isEmpty then [] else (List.range cols).map (fun c => (bankKey slot bank r.2 c, (xs.map (fun x => x.1 * t.weightAt x.2 c)).sum))

section RowSums

variable {slot bank cols col pos : Nat} {t : WTile} {r : List Int × Nat}

theorem sumAt_rowSums_same (hcols : cols ≤ 256) (hcol : col < cols) (hpos : r.2 = pos) :
    sumAt (bankKey slot bank pos col) (rowSums slot bank t cols r) = columnSum t r.1 col := by
  unfold rowSums columnSum
  subst hpos
  dsimp only
  split
  · next hnone =>
    rw [sumAt_nil, ← sum_filter_nonzero (fun i => t.weightAt i col), List.isEmpty_iff.mp hnone]
    rfl
  · rw [List.map_eq_flatMap, sumAt_flatMap_single (x := col) (List.mem_range.mpr hcol) List.nodup_range]
    · rw [sumAt_cons, if_pos rfl, sumAt_nil, add_zero, sum_filter_nonzero (fun i => t.weightAt i col)]
    · intro c hc hne
      refine sumAt_of_not_mem fun e he hkey => hne ?_
      rw [List.mem_singleton.mp he] at hkey
      exact (bankKey_inj ((List.mem_range.mp hc).trans_le hcols) (hcol.trans_le hcols) hkey).2

theorem sumAt_rowSums_other (hcols : cols ≤ 256) (hcol : col < cols) (hpos : r.2 ≠ pos) :
    sumAt (bankKey slot bank pos col) (rowSums slot bank t cols r) = 0 := by
  unfold rowSums
  dsimp only
  split
  · rfl
  · refine sumAt_of_not_mem fun e he hkey => hpos ?_
    obtain ⟨c, hc, rfl⟩ := List.mem_map.mp he
    exact (bankKey_inj ((List.mem_range.mp hc).trans_le hcols) (hcol.trans_le hcols) hkey).1

end RowSums

/-! ### The drain of a bank (R36, R64) -/

/-- Values of a canonical store sent on, key by key, to another store: what no key is sent to stands. -/
theorem tget_sendOn_other {g : Nat → Nat} {f : Int → Int → Int} {j : Nat} {l : Tbl Int} (h : ∀ e ∈ l, g e.1 ≠ j) (t : Tbl Int) :
    tget 0 (l.foldl (fun t e => tput 0 t (g e.1) (f (tget 0 t (g e.1)) e.2)) t) j = tget 0 t j := by
  induction l generalizing t with
  | nil => rfl
  | cons e l ih =>
    rw [List.foldl_cons, ih (fun x hx => h x (List.mem_cons_of_mem e hx)), tget_tput_other _ _ _ _ _ (Ne.symm (h e List.mem_cons_self))]

/-- What a listed key is sent to holds what it held and the key's value, put together. -/
theorem tget_sendOn {g : Nat → Nat} {f : Int → Int → Int} {i : Nat} {l : Tbl Int} (hl : twf 0 l = true)
    (hinj : ∀ e ∈ l, g e.1 = g i → e.1 = i) {t : Tbl Int} (ht : twf 0 t = true) :
    tget 0 (l.foldl (fun t e => tput 0 t (g e.1) (f (tget 0 t (g e.1)) e.2)) t) (g i) =
      if tget 0 l i = 0 then tget 0 t (g i) else f (tget 0 t (g i)) (tget 0 l i) := by
  induction l generalizing t with
  | nil => rfl
  | cons e l ih =>
    obtain ⟨hne, hrise, hl⟩ := (twf_cons 0 e l).mp hl
    have hinj' := fun x hx => hinj x (List.mem_cons_of_mem e hx)
    rw [List.foldl_cons]
    by_cases hk : e.1 = i
    · subst hk
      have hlater : ∀ x ∈ l, g x.1 ≠ g e.1 := fun x hx h => (hrise x hx).ne' (hinj' x hx h)
      rw [tget_sendOn_other hlater, tget_tput_same _ _ _ _ ht, tget, if_pos rfl, if_neg hne]
    · have hto : g i ≠ g e.1 := fun h => hk (hinj e List.mem_cons_self h.symm)
      rw [ih hl hinj' (tput_twf _ _ _ _ ht), tget_tput_other _ _ _ _ _ hto, tget, if_neg hk]

/-- The keys of a bank's sums. -/
def inBank (slot bank k : Nat) : Bool := decide (bankKey slot bank 0 0 ≤ k) && decide (k < bankKey slot bank 0 0 + 16384)

theorem inBank_bankKey {slot bank pos col : Nat} (hpos : pos < 64) (hcol : col < 256) : inBank slot bank (bankKey slot bank pos col) = true := by
  rw [inBank, Bool.and_eq_true, decide_eq_true_eq, decide_eq_true_eq]
  unfold bankKey
  omega

/-- Where a drain sends a bank's key: the same position and column of the accumulator set. -/
def drainTo (slot bank set k : Nat) : Nat := bankKey slot set 0 0 + (k - bankKey slot bank 0 0)

theorem drainTo_bankKey (slot bank set pos col : Nat) : drainTo slot bank set (bankKey slot bank pos col) = bankKey slot set pos col := by
  simp only [drainTo, bankKey]
  omega

theorem drainTo_inj {slot bank set j k : Nat} (hj : inBank slot bank j = true) (hk : inBank slot bank k = true)
    (h : drainTo slot bank set j = drainTo slot bank set k) : j = k := by
  simp only [inBank, Bool.and_eq_true, decide_eq_true_eq] at hj hk
  simp only [drainTo] at h
  omega

/-- A filtered store stays in its canonical form. -/
theorem twf_filter {t : Tbl Int} (ht : twf 0 t = true) (p : Nat × Int → Bool) : twf 0 (t.filter p) = true := by
  induction t with
  | nil => rfl
  | cons e t ih =>
    obtain ⟨hne, hrise, ht⟩ := (twf_cons 0 e t).mp ht
    by_cases hp : p e = true
    · rw [List.filter_cons_of_pos hp]
      exact (twf_cons 0 e _).mpr ⟨hne, fun x hx => hrise x (List.mem_of_mem_filter hx), ih ht⟩
    · rw [List.filter_cons_of_neg hp]
      exact ih ht

section Accumulation

variable {s : State} {n : Nat} (hcore : twf {} s.core = true)

include hcore

/-- A pass adds to each bank sum the products of its position's operands with the weights of its column. -/
theorem State.addTile_bank (hbanks : twf 0 (s.coreAt n).banks = true) {slot bank cols pos col : Nat} {t : WTile} {rows : List (List Int)}
    (hcols : cols ≤ 256) (hpos : pos < rows.length) (hcol : col < cols) :
    tget 0 ((s.addTile n slot bank t cols rows).coreAt n).banks (bankKey slot bank pos col) =
      tget 0 (s.coreAt n).banks (bankKey slot bank pos col) + columnSum t (rows.getD pos []) col := by
  have hrow : (rows.getD pos [], pos) ∈ rows.zipIdx := by
    rw [List.getD_eq_getElem _ _ hpos]
    exact List.mk_mem_zipIdx_iff_getElem?.mpr (List.getElem?_eq_getElem hpos)
  have hnodup : rows.zipIdx.Nodup := (List.nodup_zipIdx_map_snd rows).of_map
  have hother : ∀ r ∈ rows.zipIdx, r ≠ (rows.getD pos [], pos) → sumAt (bankKey slot bank pos col) (rowSums slot bank t cols r) = 0 := by
    intro r hr hne
    refine sumAt_rowSums_other hcols hcol fun hsame => hne ?_
    obtain ⟨row, i⟩ := r
    subst hsame
    have hget := List.mk_mem_zipIdx_iff_getElem?.mp hr
    rw [List.getD_eq_getElem?_getD, hget, Option.getD_some]
  unfold State.addTile
  rw [State.coreAt_setCore_same _ _ _ hcore]
  refine (tget_addSums hbanks _ _).trans (congrArg _ ?_)
  exact (sumAt_flatMap_single (g := rowSums slot bank t cols) hrow hnodup hother).trans (sumAt_rowSums_same hcols hcol rfl)

/-- A flush adds a bank shifted left into a 48-bit accumulator, and empties the bank. -/
theorem State.drainBank_facts (hbanks : twf 0 (s.coreAt n).banks = true) (hacc : twf 0 (s.coreAt n).acc = true)
    {slot bank set shift pos col : Nat} (hpos : pos < 64) (hcol : col < 256) :
    tget 0 ((s.drainBank n slot bank set shift).coreAt n).banks (bankKey slot bank pos col) = 0 ∧
    tget 0 ((s.drainBank n slot bank set shift).coreAt n).acc (bankKey slot set pos col) =
      if tget 0 (s.coreAt n).banks (bankKey slot bank pos col) = 0 then tget 0 (s.coreAt n).acc (bankKey slot set pos col)
      else wrap48 (tget 0 (s.coreAt n).acc (bankKey slot set pos col) +
        tget 0 (s.coreAt n).banks (bankKey slot bank pos col) * 2 ^ (4 * shift)) := by
  have hin : inBank slot bank (bankKey slot bank pos col) = true := inBank_bankKey hpos hcol
  have hmine := tget_filter_key 0 (s.coreAt n).banks (inBank slot bank) (bankKey slot bank pos col)
  have hrest := tget_filter_key 0 (s.coreAt n).banks (fun k => !inBank slot bank k) (bankKey slot bank pos col)
  rw [if_pos hin] at hmine
  rw [if_neg (by rw [hin]; exact Bool.false_ne_true)] at hrest
  unfold State.drainBank
  rw [State.coreAt_setCore_same _ _ _ hcore]
  refine ⟨hrest, ?_⟩
  rw [← drainTo_bankKey slot bank set pos col, ← hmine]
  refine tget_sendOn (g := drainTo slot bank set) (f := fun v x => wrap48 (v + x * 2 ^ (4 * shift))) (twf_filter hbanks _) ?_ hacc
  exact fun e he h => drainTo_inj (List.mem_filter.mp he).2 hin h

end Accumulation

/-! ### Ranges (R28, R40) -/

/-- A 48-bit accumulator holds its value modulo 2^48, in two's complement. -/
theorem wrap48_facts (v : Int) : -(2 ^ 47) ≤ wrap48 v ∧ wrap48 v < 2 ^ 47 ∧ (2 ^ 48 : Int) ∣ wrap48 v - v := by
  simp only [wrap48, toSigned, ofSigned]
  split_ifs <;> omega

/-- The clamp of the last step. -/
theorem clampI_facts {v lo hi : Int} (h : lo ≤ hi) : lo ≤ clampI lo hi v ∧ clampI lo hi v ≤ hi ∧ (lo ≤ v → v ≤ hi → clampI lo hi v = v) := by
  unfold clampI
  omega

/-- Settles O42: the contributions of a pass to one key add up to its column sum, and a drain sends each key of a bank to its own accumulator. -/
theorem accumulationIsExact : Obligations.AccumulationIsExact := by
  unfold Obligations.AccumulationIsExact
  intro s n hcore hbanks hacc
  refine ⟨fun slot bank cols t rows pos col _ _ hcols hpos hcol => State.addTile_bank hcore hbanks hcols hpos hcol, ?drain, wrap48_facts,
    fun v lo hi h => clampI_facts h⟩
  intro slot bank set shift pos col _ _ hpos hcol
  obtain ⟨hempty, hset⟩ := State.drainBank_facts (slot := slot) (bank := bank) (set := set) (shift := shift) hcore hbanks hacc hpos hcol
  exact ⟨hempty, fun hne => hset.trans (if_neg hne), fun hzero => hset.trans (if_pos hzero)⟩

end Sys2Proof.Machine
end

section
/-! PROOFS. The lane unit's instructions on registers and mask (R76 to R80, R151, R518). -/

namespace Sys2Proof.Machine

/-! ### Lanes of a register -/

section Lanes

variable {c : Core} {r : Nat} {l : List (Nat × BitVec 16)}

theorem Core.setLanes_active (c : Core) (r : Nat) (l : List (Nat × BitVec 16)) : (c.setLanes r l).active = c.active := rfl

theorem Core.setLanes_mask (c : Core) (r : Nat) (l : List (Nat × BitVec 16)) : (c.setLanes r l).mask = c.mask := rfl

/-- Lanes written one after another leave what none of them is. -/
theorem tget_setLanes_other {j : Nat} (h : ∀ e ∈ l, 64 * r + e.1 ≠ j) (t : Tbl (BitVec 16)) :
    tget 0 (l.foldl (fun (t : Tbl (BitVec 16)) (e : Nat × BitVec 16) => tput 0 t (64 * r + e.1) e.2) t) j = tget 0 t j := by
  induction l generalizing t with
  | nil => rfl
  | cons e l ih =>
    rw [List.foldl_cons, ih (fun x hx => h x (List.mem_cons_of_mem e hx)), tget_tput_other _ _ _ _ _ (Ne.symm (h e List.mem_cons_self))]

/-- A lane that is written holds its value, where all that is written to it is the same. -/
theorem tget_setLanes {k : Nat} {v : BitVec 16} (hsame : ∀ e ∈ l, e.1 = k → e.2 = v) (hmem : ∃ e ∈ l, e.1 = k) {t : Tbl (BitVec 16)}
    (ht : twf 0 t = true) :
    tget 0 (l.foldl (fun (t : Tbl (BitVec 16)) (e : Nat × BitVec 16) => tput 0 t (64 * r + e.1) e.2) t) (64 * r + k) = v := by
  induction l generalizing t with
  | nil =>
    obtain ⟨e, he, -⟩ := hmem
    exact absurd he List.not_mem_nil
  | cons e l ih =>
    rw [List.foldl_cons]
    have hsame' := fun x hx => hsame x (List.mem_cons_of_mem e hx)
    by_cases hlater : ∃ x ∈ l, x.1 = k
    · exact ih hsame' hlater (tput_twf _ _ _ _ ht)
    · have hk : e.1 = k := by
        obtain ⟨x, hx, hxk⟩ := hmem
        obtain rfl | hx := List.mem_cons.mp hx
        · exact hxk
        · exact absurd ⟨x, hx, hxk⟩ hlater
      rw [tget_setLanes_other (fun x hx h => hlater ⟨x, hx, by omega⟩), hk, tget_tput_same _ _ _ _ ht]
      exact hsame e List.mem_cons_self hk

theorem Core.lane_setLanes (hv : twf 0 c.v = true) {k : Nat} {v : BitVec 16} (hsame : ∀ e ∈ l, e.1 = k → e.2 = v) (hmem : ∃ e ∈ l, e.1 = k) :
    (c.setLanes r l).lane r k = v :=
  tget_setLanes hsame hmem hv

theorem Core.lane_setLanes_other {q k : Nat} (h : ∀ e ∈ l, 64 * r + e.1 ≠ 64 * q + k) : (c.setLanes r l).lane q k = c.lane q k :=
  tget_setLanes_other h _

/-- A register's lanes are below 64, so a write of lanes of one register leaves every other. -/
theorem Core.lane_setLanes_reg {q k : Nat} (hl : ∀ e ∈ l, e.1 < 64) (hq : q ≠ r) (hk : k < 64) : (c.setLanes r l).lane q k = c.lane q k :=
  Core.lane_setLanes_other fun e he => by
    have := hl e he
    omega

theorem Core.mem_masked {i : Nat} : i ∈ c.masked ↔ i < 64 ∧ c.mask.getLsbD i = true := by
  simp [Core.masked]

theorem Core.mem_masked32 {i : Nat} : i ∈ c.masked32 ↔ i < 32 ∧ c.mask.getLsbD (2 * i) = true := by
  simp [Core.masked32]

/-- A register written lane by lane under the mask. -/
theorem Core.lane_writeLanes (hv : twf 0 c.v = true) (f : Nat → BitVec 16) {k : Nat} (hk : k < 64) :
    (c.writeLanes r f).lane r k = if c.mask.getLsbD k = true then f k else c.lane r k := by
  unfold Core.writeLanes
  by_cases hbit : c.mask.getLsbD k = true
  · rw [if_pos hbit]
    refine Core.lane_setLanes hv (fun e he hek => ?_) ⟨(k, f k), List.mem_map.mpr ⟨k, Core.mem_masked.mpr ⟨hk, hbit⟩, rfl⟩, rfl⟩
    obtain ⟨i, -, rfl⟩ := List.mem_map.mp he
    exact congrArg f hek
  · rw [if_neg hbit]
    refine Core.lane_setLanes_other fun e he hek => hbit ?_
    obtain ⟨i, hi, rfl⟩ := List.mem_map.mp he
    have hik : i = k := by
      dsimp only at hek
      omega
    exact hik ▸ (Core.mem_masked.mp hi).2

theorem Core.lane_writeLanes_reg (f : Nat → BitVec 16) {q k : Nat} (hq : q ≠ r) (hk : k < 64) : (c.writeLanes r f).lane q k = c.lane q k := by
  refine Core.lane_setLanes_reg (fun e he => ?_) hq hk
  obtain ⟨i, hi, rfl⟩ := List.mem_map.mp he
  exact (Core.mem_masked.mp hi).1

/-- What a write in 32-bit lanes puts into the 16-bit lanes. -/
theorem Core.mem_writeLanes32 {f : Nat → BitVec 32} {e : Nat × BitVec 16} :
    e ∈ c.masked32.flatMap (fun i => [(2 * i, (f i).setWidth 16), (2 * i + 1, ((f i) >>> 16).setWidth 16)]) ↔
      ∃ i ∈ c.masked32, e = (2 * i, (f i).setWidth 16) ∨ e = (2 * i + 1, ((f i) >>> 16).setWidth 16) := by
  simp only [List.mem_flatMap, List.mem_cons, List.not_mem_nil, or_false]

/-- The two halves of a 32-bit lane put together. -/
theorem halves_append (x : BitVec 32) : (x >>> 16).setWidth 16 ++ x.setWidth 16 = x := by
  refine BitVec.eq_of_getLsbD_eq fun i hi => ?_
  rw [BitVec.getLsbD_append, BitVec.getLsbD_setWidth, BitVec.getLsbD_setWidth, BitVec.getLsbD_ushiftRight]
  by_cases hlow : i < 16
  · simp [hlow]
  · have hback : 16 + (i - 16) = i := by omega
    have hhigh : i - 16 < 16 := by omega
    simp [hlow, hhigh, hback]

theorem Core.lane32_writeLanes32 (hv : twf 0 c.v = true) (f : Nat → BitVec 32) {k : Nat} (hk : k < 32) :
    (c.writeLanes32 r f).lane32 r k = if c.mask.getLsbD (2 * k) = true then f k else c.lane32 r k := by
  unfold Core.lane32 Core.writeLanes32
  by_cases hbit : c.mask.getLsbD (2 * k) = true
  · have hin : k ∈ c.masked32 := Core.mem_masked32.mpr ⟨hk, hbit⟩
    have hlow := Core.lane_setLanes (r := r) (k := 2 * k) (v := (f k).setWidth 16) hv
      (l := c.masked32.flatMap (fun i => [(2 * i, (f i).setWidth 16), (2 * i + 1, ((f i) >>> 16).setWidth 16)]))
      (fun e he hek => by
        obtain ⟨i, -, rfl | rfl⟩ := Core.mem_writeLanes32.mp he
        · rw [show i = k by dsimp only at hek; omega]
        · dsimp only at hek
          omega)
      ⟨_, Core.mem_writeLanes32.mpr ⟨k, hin, .inl rfl⟩, rfl⟩
    have hhigh := Core.lane_setLanes (r := r) (k := 2 * k + 1) (v := ((f k) >>> 16).setWidth 16) hv
      (l := c.masked32.flatMap (fun i => [(2 * i, (f i).setWidth 16), (2 * i + 1, ((f i) >>> 16).setWidth 16)]))
      (fun e he hek => by
        obtain ⟨i, -, rfl | rfl⟩ := Core.mem_writeLanes32.mp he
        · dsimp only at hek
          omega
        · rw [show i = k by dsimp only at hek; omega])
      ⟨_, Core.mem_writeLanes32.mpr ⟨k, hin, .inr rfl⟩, rfl⟩
    rw [hlow, hhigh, if_pos hbit]
    exact halves_append (f k)
  · have hout : ∀ j : Nat, j = 2 * k ∨ j = 2 * k + 1 →
        (c.setLanes r (c.masked32.flatMap (fun i => [(2 * i, (f i).setWidth 16), (2 * i + 1, ((f i) >>> 16).setWidth 16)]))).lane r j = c.lane r j := by
      intro j hj
      refine Core.lane_setLanes_other fun e he hej => hbit ?_
      obtain ⟨i, hi, hcase⟩ := Core.mem_writeLanes32.mp he
      have hik : i = k := by
        obtain rfl | rfl := hcase <;> dsimp only at hej <;> omega
      exact hik ▸ (Core.mem_masked32.mp hi).2
    rw [hout _ (.inl rfl), hout _ (.inr rfl), if_neg hbit]

theorem Core.lane_writeLanes32_reg (f : Nat → BitVec 32) {q k : Nat} (hq : q ≠ r) (hk : k < 64) :
    (c.writeLanes32 r f).lane q k = c.lane q k := by
  refine Core.lane_setLanes_reg (fun e he => ?_) hq hk
  obtain ⟨i, hi, rfl | rfl⟩ := Core.mem_writeLanes32.mp he
  · have := (Core.mem_masked32.mp hi).1
    dsimp only
    omega
  · have := (Core.mem_masked32.mp hi).1
    dsimp only
    omega

end Lanes

/-- Bit i of a mask packed from its bits. -/
theorem getLsbD_packBits (g : Nat → Bool) {k : Nat} (hk : k < 64) : (BitVec.ofNat 64 (packBits ((List.range 64).map g))).getLsbD k = g k := by
  have hbit := bitOf_packBits ((List.range 64).map g) k
  rw [BitVec.getLsbD_ofNat, Nat.testBit_eq_decide_div_mod_eq]
  simp only [bitOf] at hbit
  simp [hk] at hbit ⊢
  simpa [Bool.beq_eq_decide_eq] using hbit

/-! ### One instruction (R151) -/

section LaneOp

variable {s : State} {a : LaneArgs} {lop cycles : Nat} {f : Core → Core}

/-- The core of a LANE instruction at its next word runs a quire. -/
theorem State.active_of_atInst {n w : Nat} (h : (s.atInst n w).isSome = true) : ∃ x, (s.coreAt n).active = some x := by
  unfold State.atInst at h
  split at h
  · exact absurd h Bool.false_ne_true
  · next x hx => exact ⟨x, hx⟩

/-- What the tick of a core that runs a quire leaves of the core and of everything else. -/
theorem State.tick_facts {n k : Nat} {x : Active} (h : (s.coreAt n).active = some x) :
    ((s.tick n k).coreAt n).v = (s.coreAt n).v ∧ ((s.tick n k).coreAt n).mask = (s.coreAt n).mask ∧
    ((s.tick n k).coreAt n).writes = (s.coreAt n).writes ∧ (∀ m : Nat, m ≠ n → (s.tick n k).coreAt m = s.coreAt m) := by
  have hfirst : (s.setCore n (fun c => { c with
      instrs := (s.coreAt n).instrs + 1, stalls := satAdd 32 c.stalls (Config.bankWaits n (s.coreAt n).instrs) })).coreAt n =
      { s.coreAt n with instrs := (s.coreAt n).instrs + 1, stalls := satAdd 32 (s.coreAt n).stalls (Config.bankWaits n (s.coreAt n).instrs) } :=
    State.coreAt_setCore_of_active h
  have hcore : (s.tick n k).coreAt n = { s.coreAt n with
      instrs := (s.coreAt n).instrs + 1, stalls := satAdd 32 (s.coreAt n).stalls (Config.bankWaits n (s.coreAt n).instrs)
      active := some { x with pc := x.pc + 1, cycles := min 0xFFFFFFFF (x.cycles + k + Config.instrWaits n (s.coreAt n).instrs) } } := by
    unfold State.tick State.setActive
    dsimp only
    rw [State.coreAt_setCore_of_active (a := _) (by rw [hfirst]; dsimp only; rw [h]; rfl), hfirst, h]
    rfl
  rw [hcore]
  refine ⟨rfl, rfl, rfl, fun m hm => ?_⟩
  unfold State.tick State.setActive
  rw [State.coreAt_setCore_other _ _ _ _ hm, State.coreAt_setCore_other _ _ _ _ hm]

/-- A lane operation on registers and mask alone. -/
theorem State.laneOp_facts (h : (s.atLane lop a).isSome = true) (hf : (f (s.coreAt a.core)).active = (s.coreAt a.core).active)
    (hw : (f (s.coreAt a.core)).writes = (s.coreAt a.core).writes) : ∃ u : State, s.laneOp lop a cycles f = .next u ∧
    (u.coreAt a.core).v = (f (s.coreAt a.core)).v ∧ (u.coreAt a.core).mask = (f (s.coreAt a.core)).mask ∧
    (u.coreAt a.core).writes = (s.coreAt a.core).writes ∧ (∀ m : Nat, m ≠ a.core.val → u.coreAt m = s.coreAt m) ∧ u.mem = s.mem ∧ u.cel = s.cel := by
  obtain ⟨x, hx⟩ := State.active_of_atInst h
  have hset : (s.setCore a.core f).coreAt a.core = f (s.coreAt a.core) := State.coreAt_setCore_of_active (hf.trans hx)
  obtain ⟨hv, hmask, hwrites, hother⟩ := State.tick_facts (s := s.setCore a.core f) (k := cycles) ((congrArg Core.active hset).trans (hf.trans hx))
  refine ⟨_, if_pos h, ?_, ?_, ?_, fun m hm => (hother m hm).trans (State.coreAt_setCore_other _ _ _ _ hm), rfl, rfl⟩
  · rw [hv, hset]
  · rw [hmask, hset]
  · rw [hwrites, hset, hw]

/-- A lane operation that writes the lanes of its destination alone leaves the frame. -/
theorem State.laneOp_frame (h : (s.atLane lop a).isSome = true) (hf : (f (s.coreAt a.core)).active = (s.coreAt a.core).active)
    (hw : (f (s.coreAt a.core)).writes = (s.coreAt a.core).writes)
    (hreg : ∀ r k : Nat, r ≠ a.vd.val → k < 64 → (f (s.coreAt a.core)).lane r k = (s.coreAt a.core).lane r k) :
    ∃ u : State, s.laneOp lop a cycles f = .next u ∧ (∀ r k : Nat, (u.coreAt a.core).lane r k = (f (s.coreAt a.core)).lane r k) ∧
    (u.coreAt a.core).v = (f (s.coreAt a.core)).v ∧ (u.coreAt a.core).mask = (f (s.coreAt a.core)).mask ∧ s.laneFrame u a := by
  obtain ⟨u, hu, hv, hmask, hwrites, hother, hmem, hcel⟩ := State.laneOp_facts (cycles := cycles) h hf hw
  have hlane : ∀ r k : Nat, (u.coreAt a.core).lane r k = (f (s.coreAt a.core)).lane r k := fun r k => by rw [Core.lane, Core.lane, hv]
  exact ⟨u, hu, hlane, hv, hmask, fun r k hr hk => (hlane r k).trans (hreg r k hr hk), hother, hwrites, hmem, hcel⟩

/-- A command that writes 16-bit lanes of its destination under the mask. -/
theorem State.laneWrites_of (s : State) (hv : twf 0 (s.coreAt a.core).v = true) {i : Instr} (g : Core → Nat → BitVec 16)
    (hi : exec i s = s.laneOp lop a cycles (fun c => c.writeLanes a.vd (g c))) : s.laneWrites a lop i (g (s.coreAt a.core)) := by
  intro h
  obtain ⟨u, hu, hlane, -, hmask, hframe⟩ := State.laneOp_frame (cycles := cycles) (f := fun c => c.writeLanes a.vd (g c)) h rfl rfl
    (fun r k hr hk => Core.lane_writeLanes_reg _ hr hk)
  exact ⟨u, hi.trans hu, fun k hk => (hlane a.vd k).trans (Core.lane_writeLanes hv _ hk), hmask, hframe⟩

theorem State.laneMap_writes (s : State) (hv : twf 0 (s.coreAt a.core).v = true) {i : Instr} (op : BitVec 16 → BitVec 16 → BitVec 16)
    (hi : exec i s = s.laneOp lop a cycles (laneMap a op)) :
    s.laneWrites a lop i (fun k => op ((s.coreAt a.core).lane a.va k) ((s.coreAt a.core).lane a.vb k)) :=
  s.laneWrites_of hv (fun c k => op (c.lane a.va k) (c.lane a.vb k)) hi

theorem State.laneShift_writes (s : State) (hv : twf 0 (s.coreAt a.core).v = true) {i : Instr} (op : BitVec 16 → Nat → BitVec 16)
    (hi : exec i s = s.laneOp lop a cycles (laneShift a op)) :
    s.laneWrites a lop i (fun k => op ((s.coreAt a.core).lane a.va k) (laneCount a (s.coreAt a.core))) :=
  s.laneWrites_of hv (fun c k => op (c.lane a.va k) (laneCount a c)) hi

/-- A command that writes 32-bit lanes of its destination under the mask, whatever it makes of the mask. -/
theorem State.laneWrites32_of (s : State) (hv : twf 0 (s.coreAt a.core).v = true) {i : Instr} (g : Core → Nat → BitVec 32) (mask : Core → BitVec 64)
    (hi : exec i s = s.laneOp lop a cycles (fun c => { c.writeLanes32 a.vd (g c) with mask := mask c })) :
    s.laneWrites32 a lop i (g (s.coreAt a.core)) := by
  intro h
  obtain ⟨u, hu, hlane, -, -, hframe⟩ := State.laneOp_frame (cycles := cycles)
    (f := fun c => { c.writeLanes32 a.vd (g c) with mask := mask c }) h rfl rfl (fun r k hr hk => Core.lane_writeLanes32_reg _ hr hk)
  refine ⟨u, hi.trans hu, fun k hk => ?_, hframe⟩
  rw [← Core.lane32_writeLanes32 hv (g (s.coreAt a.core)) hk, Core.lane32, hlane, hlane]
  rfl

theorem Core.lane_withMask (c : Core) (m : BitVec 64) (r k : Nat) : ({ c with mask := m } : Core).lane r k = c.lane r k := rfl

/-- A command that writes the mask alone. -/
theorem State.maskWrites_of (s : State) {i : Instr} (g : Core → Nat → Bool)
    (hi : exec i s = s.laneOp lop a cycles (fun c => { c with mask := BitVec.ofNat 64 (packBits ((List.range 64).map (g c))) })) :
    s.maskWrites a lop i (g (s.coreAt a.core)) := by
  intro h
  obtain ⟨u, hu, -, hv, hmask, hframe⟩ := State.laneOp_frame (cycles := cycles)
    (f := fun c => { c with mask := BitVec.ofNat 64 (packBits ((List.range 64).map (g c))) }) h rfl rfl
    (fun r k _ _ => Core.lane_withMask _ _ r k)
  exact ⟨u, hi.trans hu, fun k hk => (congrArg (fun m => m.getLsbD k) hmask).trans (getLsbD_packBits _ hk), hv, hframe⟩

/-- Two lanes have the same value exactly when they are the same. -/
theorem laneVal_inj (b : Bool) (x y : BitVec 16) : laneVal b x = laneVal b y ↔ x = y := by
  cases b
  · exact BitVec.toInt_inj
  · exact Int.natCast_inj.trans BitVec.toNat_inj

end LaneOp

/-- Settles O43: every instruction writes one function of the lanes under the mask, or packs one function into the mask. -/
theorem laneInstructionsWriteUnderMask : Obligations.LaneInstructionsWriteUnderMask := by
  unfold Obligations.LaneInstructionsWriteUnderMask
  intro s a c b n hc hb hn hv
  subst hc hb hn
  refine ⟨s.laneMap_writes hv (fun x y => x + y) rfl, s.laneMap_writes hv (fun x y => x - y) rfl,
    s.laneMap_writes hv (fun x y => laneSat (laneBit0 a) (laneVal (laneBit0 a) x + laneVal (laneBit0 a) y)) rfl,
    s.laneMap_writes hv (fun x y => laneSat (laneBit0 a) (laneVal (laneBit0 a) x - laneVal (laneBit0 a) y)) rfl,
    s.laneMap_writes hv (fun x y => if laneVal (laneBit0 a) x ≤ laneVal (laneBit0 a) y then x else y) rfl,
    s.laneMap_writes hv (fun x y => if laneVal (laneBit0 a) x ≤ laneVal (laneBit0 a) y then y else x) rfl,
    s.laneMap_writes hv (fun x y => x &&& y) rfl, s.laneMap_writes hv (fun x y => x ||| y) rfl, s.laneMap_writes hv (fun x y => x ^^^ y) rfl,
    s.laneShift_writes hv (fun x k => x <<< k) rfl, s.laneShift_writes hv (fun x k => x >>> k) rfl,
    s.laneShift_writes hv (fun x k => BitVec.ofInt 16 (truncShift x.toInt k)) rfl,
    s.laneWrites_of hv (fun c k => BitVec.ofNat 16 (exp2n (c.lane a.va k).toNat)) rfl,
    s.laneWrites_of hv (fun c k => c.lane a.va ((c.lane a.vb k).toNat % 64)) rfl,
    s.laneWrites32_of hv (fun c k => c.lane32 a.va k + c.lane32 a.vb k) Core.mask rfl,
    s.laneWrites32_of hv (fun c k => c.lane32 a.va k - c.lane32 a.vb k) Core.mask rfl,
    s.laneWrites32_of hv (fun c k => laneProduct a c k) Core.mask rfl,
    s.laneWrites32_of hv (fun c k => c.lane32 a.vd k + laneProduct a c k) Core.mask rfl,
    s.laneWrites32_of hv (fun c k => BitVec.ofNat 32 (recip (c.lane a.va (2 * k)).toNat)) (fun c => (laneRecips a c).mask) rfl, ?equal,
    s.maskWrites_of (fun c k => c.mask.getLsbD k && decide (laneVal (laneBit0 a) (c.lane a.va k) < laneVal (laneBit0 a) (c.lane a.vb k))) rfl,
    s.maskWrites_of (fun c k => decide (c.lane a.va k ≠ 0)) rfl⟩
  have h := s.maskWrites_of (a := a) (i := .laneCmpeq a)
    (fun c k => c.mask.getLsbD k && decide (laneVal (laneBit0 a) (c.lane a.va k) = laneVal (laneBit0 a) (c.lane a.vb k))) rfl
  simpa only [laneVal_inj] using h

end Sys2Proof.Machine
end

section
/-! PROOFS. SEL, the reductions, SORT32 and SETCNT (R80, R151, R518). -/

namespace Sys2Proof.Machine

/-! ### The order of pairs (R80) -/

section Pairs

variable {desc : Bool}

theorem pairLe_total (x y : Int × Nat) (h : pairLe desc x y = false) : pairLe desc y x = true := by
  cases desc <;> simp only [pairLe, Bool.or_eq_false_iff, decide_eq_false_iff_not, Bool.or_eq_true, decide_eq_true_eq, if_true, if_false,
    Bool.false_eq_true] at h ⊢ <;> omega

theorem pairInsert_perm (x : Int × Nat) (l : List (Int × Nat)) : (pairInsert desc x l).Perm (x :: l) := by
  induction l with
  | nil => exact List.Perm.refl _
  | cons y l ih =>
    unfold pairInsert
    split
    · exact List.Perm.refl _
    · exact (ih.cons y).trans (List.Perm.swap x y l)

theorem pairSort_perm (l : List (Int × Nat)) : (pairSort desc l).Perm l := by
  induction l with
  | nil => exact List.Perm.refl _
  | cons x l ih => exact (pairInsert_perm x _).trans (ih.cons x)

/-- A pair before a list's first pair, and before the pair put into it, comes before the result. -/
theorem pairSorted_cons_insert {x y : Int × Nat} {l : List (Int × Nat)} (hyx : pairLe desc y x = true) (hl : pairSorted desc (y :: l) = true)
    (hins : pairSorted desc (pairInsert desc x l) = true) : pairSorted desc (y :: pairInsert desc x l) = true := by
  cases l with
  | nil => simp [pairInsert, pairSorted, hyx]
  | cons z l =>
    obtain ⟨hyz, -⟩ := (Bool.and_eq_true _ _).mp hl
    unfold pairInsert at hins ⊢
    split at hins
    · next hxz =>
      rw [if_pos hxz]
      exact (Bool.and_eq_true _ _).mpr ⟨hyx, hins⟩
    · next hxz =>
      rw [if_neg hxz]
      exact (Bool.and_eq_true _ _).mpr ⟨hyz, hins⟩

theorem pairSorted_tail {x : Int × Nat} {l : List (Int × Nat)} (h : pairSorted desc (x :: l) = true) : pairSorted desc l = true := by
  cases l with
  | nil => rfl
  | cons y l => exact ((Bool.and_eq_true _ _).mp h).2

theorem pairInsert_sorted (x : Int × Nat) {l : List (Int × Nat)} (h : pairSorted desc l = true) : pairSorted desc (pairInsert desc x l) = true := by
  induction l with
  | nil => rfl
  | cons y l ih =>
    unfold pairInsert
    split
    · next hxy => exact (Bool.and_eq_true _ _).mpr ⟨hxy, h⟩
    · next hxy => exact pairSorted_cons_insert (pairLe_total x y (Bool.eq_false_iff.mpr hxy)) h (ih (pairSorted_tail h))

theorem pairSort_sorted (l : List (Int × Nat)) : pairSorted desc (pairSort desc l) = true := by
  induction l with
  | nil => rfl
  | cons x l ih => exact pairInsert_sorted x ih

end Pairs

/-! ### The best of a list -/

/-- A fold of an operation that picks the better of two is no worse than any of a list and than its start, and is one of them. -/
theorem foldl_best {op : Int → Int → Int} {le : Int → Int → Prop} (htrans : ∀ {x y z}, le x y → le y z → le x z) (hrefl : ∀ x, le x x)
    (hleft : ∀ x y, le x (op x y)) (hright : ∀ x y, le y (op x y)) (hpick : ∀ x y, op x y = x ∨ op x y = y) (l : List Int) (i : Int) :
    le i (l.foldl op i) ∧ (∀ x ∈ l, le x (l.foldl op i)) ∧ (l.foldl op i = i ∨ l.foldl op i ∈ l) := by
  induction l generalizing i with
  | nil => exact ⟨hrefl i, fun x hx => absurd hx List.not_mem_nil, .inl rfl⟩
  | cons y l ih =>
    obtain ⟨hstart, hall, hone⟩ := ih (op i y)
    refine ⟨htrans (hleft i y) hstart, fun x hx => ?_, ?_⟩
    · obtain rfl | hx := List.mem_cons.mp hx
      · exact htrans (hright i x) hstart
      · exact hall x hx
    · obtain hop | hin := hone
      · obtain h | h := hpick i y
        · exact .inl (hop.trans h)
        · exact .inr (List.mem_cons.mpr (.inl (hop.trans h)))
      · exact .inr (List.mem_cons_of_mem y hin)

section Reductions

variable {s : State} {a : LaneArgs} {lop cycles : Nat}

/-- A command that writes some lanes of its destination, whatever the mask. -/
theorem State.setLanes_writes (h : (s.atLane lop a).isSome = true) {i : Instr} (g : Core → List (Nat × BitVec 16))
    (hi : exec i s = s.laneOp lop a cycles (fun c => c.setLanes a.vd (g c))) (hg : ∀ e ∈ g (s.coreAt a.core), e.1 < 64) :
    ∃ u : State, exec i s = .next u ∧ s.laneFrame u a ∧
      ∀ k, (u.coreAt a.core).lane a.vd k = ((s.coreAt a.core).setLanes a.vd (g (s.coreAt a.core))).lane a.vd k := by
  obtain ⟨u, hu, hlane, -, -, hframe⟩ := State.laneOp_frame (cycles := cycles) (f := fun c => c.setLanes a.vd (g c)) h rfl rfl
    (fun r k hr hk => Core.lane_setLanes_reg hg hr hk)
  exact ⟨u, hi.trans hu, hframe, hlane a.vd⟩

/-- SEL writes every lane, VA's where the mask bit is 1 and VB's where it is 0. -/
theorem laneSel_writes (hv : twf 0 (s.coreAt a.core).v = true) (h : (s.atLane 0x0C a).isSome = true) :
    ∃ u : State, exec (.laneSel a) s = .next u ∧ s.laneFrame u a ∧ ∀ k : Nat, k < 64 → (u.coreAt a.core).lane a.vd k =
      if (s.coreAt a.core).mask.getLsbD k = true then (s.coreAt a.core).lane a.va k else (s.coreAt a.core).lane a.vb k := by
  obtain ⟨u, hu, hframe, hlane⟩ := State.setLanes_writes h
    (fun c => (List.range 64).map (fun i => (i, if c.mask.getLsbD i then c.lane a.va i else c.lane a.vb i))) (i := .laneSel a) rfl
    (fun e he => by
      obtain ⟨i, hi, rfl⟩ := List.mem_map.mp he
      exact List.mem_range.mp hi)
  refine ⟨u, hu, hframe, fun k hk => (hlane k).trans (Core.lane_setLanes hv (fun e he hek => ?_)
    ⟨_, List.mem_map.mpr ⟨k, List.mem_range.mpr hk, rfl⟩, rfl⟩)⟩
  obtain ⟨i, -, rfl⟩ := List.mem_map.mp he
  obtain rfl : i = k := hek
  rfl

/-- SUM32 writes the sum of the selected lanes into 32-bit lane 0. -/
theorem laneSum32_writes (hv : twf 0 (s.coreAt a.core).v = true) (h : (s.atLane 0x28 a).isSome = true) :
    ∃ u : State, exec (.laneSum32 a) s = .next u ∧ s.laneFrame u a ∧
      (u.coreAt a.core).lane32 a.vd 0 =
        BitVec.ofInt 32 (((s.coreAt a.core).masked.map (fun k => ((s.coreAt a.core).lane a.va k).toInt)).sum) ∧
      ∀ k : Nat, 2 ≤ k → k < 64 → (u.coreAt a.core).lane a.vd k = (s.coreAt a.core).lane a.vd k := by
  obtain ⟨u, hu, hframe, hlane⟩ := State.setLanes_writes h
    (fun c => [(0, (BitVec.ofInt 32 (laneSelected a c).sum).setWidth 16), (1, ((BitVec.ofInt 32 (laneSelected a c).sum) >>> 16).setWidth 16)])
    (i := .laneSum32 a) rfl (by simp)
  refine ⟨u, hu, hframe, ?_, fun k hk _ => (hlane k).trans (Core.lane_setLanes_other fun e he hek => ?_)⟩
  · have hlow := Core.lane_setLanes (r := a.vd) (k := 0) (v := (BitVec.ofInt 32 (laneSelected a (s.coreAt a.core)).sum).setWidth 16) hv
      (l := [(0, (BitVec.ofInt 32 (laneSelected a (s.coreAt a.core)).sum).setWidth 16),
        (1, ((BitVec.ofInt 32 (laneSelected a (s.coreAt a.core)).sum) >>> 16).setWidth 16)]) (by simp) (by simp)
    have hhigh := Core.lane_setLanes (r := a.vd) (k := 1) (v := ((BitVec.ofInt 32 (laneSelected a (s.coreAt a.core)).sum) >>> 16).setWidth 16) hv
      (l := [(0, (BitVec.ofInt 32 (laneSelected a (s.coreAt a.core)).sum).setWidth 16),
        (1, ((BitVec.ofInt 32 (laneSelected a (s.coreAt a.core)).sum) >>> 16).setWidth 16)]) (by simp) (by simp)
    rw [Core.lane32, hlane, hlane, hlow, hhigh]
    exact halves_append _
  · obtain rfl | rfl := by simpa using he
    · dsimp only at hek
      omega
    · dsimp only at hek
      omega

/-- A reduction that picks the best selected lane, from a start that no lane is worse than. -/
theorem laneBest_writes (hv : twf 0 (s.coreAt a.core).v = true) (h : (s.atLane lop a).isSome = true) {i : Instr} {op : Int → Int → Int}
    {le : Int → Int → Prop} {lim : Int} (htrans : ∀ {x y z}, le x y → le y z → le x z) (hrefl : ∀ x, le x x)
    (hanti : ∀ {x y}, le x y → le y x → x = y) (hleft : ∀ x y, le x (op x y)) (hright : ∀ x y, le y (op x y))
    (hpick : ∀ x y, op x y = x ∨ op x y = y) (hlim : (BitVec.ofInt 16 lim).toInt = lim) (hstart : ∀ v : BitVec 16, le lim v.toInt)
    (hi : exec i s = s.laneOp lop a cycles (fun c => c.setLanes a.vd [(0, BitVec.ofInt 16 ((laneSelected a c).foldl op lim))])) :
    ∃ u : State, exec i s = .next u ∧ s.laneFrame u a ∧
      (∀ k : Nat, k ∈ (s.coreAt a.core).masked → le ((s.coreAt a.core).lane a.va k).toInt ((u.coreAt a.core).lane a.vd 0).toInt) ∧
      ((s.coreAt a.core).masked ≠ [] → ∃ k ∈ (s.coreAt a.core).masked, (u.coreAt a.core).lane a.vd 0 = (s.coreAt a.core).lane a.va k) ∧
      ∀ k : Nat, 1 ≤ k → k < 64 → (u.coreAt a.core).lane a.vd k = (s.coreAt a.core).lane a.vd k := by
  obtain ⟨u, hu, hframe, hlane⟩ := State.setLanes_writes h _ hi (by simp)
  have hzero := (hlane 0).trans (Core.lane_setLanes (v := BitVec.ofInt 16 ((laneSelected a (s.coreAt a.core)).foldl op lim)) hv
    (by simp) (by simp))
  obtain ⟨-, hall, hone⟩ := foldl_best (op := op) (le := le) htrans hrefl hleft hright hpick (laneSelected a (s.coreAt a.core)) lim
  generalize (laneSelected a (s.coreAt a.core)).foldl op lim = best at hzero hall hone
  have hsel : ∀ k ∈ (s.coreAt a.core).masked, ((s.coreAt a.core).lane a.va k).toInt ∈ laneSelected a (s.coreAt a.core) := fun k hk =>
    List.mem_map.mpr ⟨k, hk, rfl⟩
  have hint : (BitVec.ofInt 16 best).toInt = best := by
    obtain rfl | hin := hone
    · exact hlim
    · obtain ⟨k, -, rfl⟩ := List.mem_map.mp hin
      exact congrArg BitVec.toInt BitVec.ofInt_toInt
  refine ⟨u, hu, hframe, fun k hk => ?_, fun hne => ?_, fun k hk _ => (hlane k).trans (Core.lane_setLanes_other fun e he hek => ?_)⟩
  · rw [hzero, hint]
    exact hall _ (hsel k hk)
  · rw [hzero]
    obtain rfl | hin := hone
    · obtain ⟨k, hk⟩ := List.exists_mem_of_ne_nil _ hne
      exact ⟨k, hk, BitVec.toInt_inj.mp (hint.trans (hanti (hstart _) (hall _ (hsel k hk))))⟩
    · obtain ⟨k, hk, rfl⟩ := List.mem_map.mp hin
      exact ⟨k, hk, BitVec.ofInt_toInt⟩
  · rw [List.mem_singleton.mp he] at hek
    dsimp only at hek
    omega

/-- The pairs of a register: key and index. -/
def Core.pairs (c : Core) (r : Nat) : List (Int × Nat) :=
  (List.range 32).map (fun j => ((c.lane r (2 * j)).toInt, (c.lane r (2 * j + 1)).toNat))

/-- SORT32 under a whole mask leaves the sorted pairs in its destination. -/
theorem laneSort32_writes (hv : twf 0 (s.coreAt a.core).v = true) (h : (s.atLane 0x30 a).isSome = true)
    (hmask : (s.coreAt a.core).mask = BitVec.allOnes 64) : ∃ u : State, exec (.laneSort32 a) s = .next u ∧ s.laneFrame u a ∧
      (u.coreAt a.core).pairs a.vd = pairSort (laneBit0 a) ((s.coreAt a.core).pairs a.va) := by
  obtain ⟨u, hu, hlane, -, hframe⟩ := State.laneWrites_of s hv (i := .laneSort32 a) (fun c k =>
    let p := (pairSort (laneBit0 a) (c.pairs a.va)).toArray.getD (k / 2) (0, 0)
    if k % 2 = 0 then BitVec.ofInt 16 p.1 else BitVec.ofNat 16 p.2) rfl h
  refine ⟨u, hu, hframe, ?_⟩
  have hwhole : ∀ k : Nat, k < 64 → (s.coreAt a.core).mask.getLsbD k = true := fun k hk => by
    rw [hmask, BitVec.getLsbD_allOnes, decide_eq_true hk]
  have hperm := pairSort_perm (desc := laneBit0 a) ((s.coreAt a.core).pairs a.va)
  generalize pairSort (laneBit0 a) ((s.coreAt a.core).pairs a.va) = sorted at hperm hlane
  have hlen : sorted.length = 32 := hperm.length_eq.trans (by simp [Core.pairs])
  refine List.ext_getElem (by simp [Core.pairs, hlen]) fun j hj hj' => ?_
  have hj32 : j < 32 := hlen ▸ hj'
  obtain ⟨i, -, hpair⟩ := List.mem_map.mp (hperm.mem_iff.mp (List.getElem_mem hj'))
  have hget : sorted.toArray.getD j (0, 0) = sorted[j] := by simp [hj']
  have hlow := hlane (2 * j) (by omega)
  have hhigh := hlane (2 * j + 1) (by omega)
  rw [if_pos (hwhole _ (by omega))] at hlow hhigh
  have hdiv : (2 * j + 1) / 2 = j := by omega
  have hmod : (2 * j + 1) % 2 ≠ 0 := by omega
  simp only [Nat.mul_mod_right, if_true, Nat.mul_div_cancel_left j Nat.zero_lt_two, hget] at hlow
  simp only [if_neg hmod, hdiv, hget] at hhigh
  rw [← hpair] at hlow hhigh ⊢
  simp only [Core.pairs, List.getElem_map, List.getElem_range, hlow, hhigh, BitVec.ofInt_toInt, BitVec.ofNat_toNat, BitVec.setWidth_eq]

end Reductions

/-- Settles O44: SEL and the reductions write fixed lanes; the best of a fold is one of the lanes; SORT32 writes a sorted permutation of its pairs. -/
theorem laneReductionsAndSortsAct : Obligations.LaneReductionsAndSortsAct := by
  unfold Obligations.LaneReductionsAndSortsAct
  intro s a c hc hv
  subst hc
  refine ⟨laneSel_writes hv, laneSum32_writes hv, fun h => ?max, fun h => ?min, fun h hmask => ?sort, fun h => if_pos h⟩
  case max =>
    exact laneBest_writes (le := fun x y => x ≤ y) hv h le_trans le_refl le_antisymm le_max_left le_max_right max_choice (by decide)
      (fun v => BitVec.le_toInt v) rfl
  case min =>
    exact laneBest_writes (le := fun x y => y ≤ x) hv h (fun h h' => le_trans h' h) le_refl (fun h h' => le_antisymm h' h) min_le_left min_le_right
      min_choice (by decide) (fun v => Int.le_of_lt_add_one (BitVec.toInt_lt (x := v))) rfl
  case sort =>
    obtain ⟨u, hu, hframe, hpairs⟩ := laneSort32_writes hv h hmask
    refine ⟨u, hu, hframe, (s.coreAt a.core).pairs a.va, (u.coreAt a.core).pairs a.vd, rfl, rfl, ?_, ?_⟩
    · rw [hpairs]
      exact pairSort_perm _
    · rw [hpairs]
      exact pairSort_sorted _

end Sys2Proof.Machine
end

section
/-! PROOFS. The lane unit's instructions that reach the core store (R54, R63, R74, R80, R153, R518). -/

namespace Sys2Proof.Machine

section LaneMem

variable {s u : State} {n cycles : Nat} {ecc : List StoreError} {waits reads : List (Nat × Nat)} {segs : List (Nat × List Byte)}
  {zero : List (Nat × Nat × Nat × Nat)} {f : State → State} (hdone : (s.coreAt n).done = none) (hw : (s.coreAt n).writes = [])

include hdone hw

/-- With no write outstanding a lane operation that reaches the store is not held. -/
theorem State.laneMem_eq : s.laneMem n ecc cycles waits reads segs zero f =
    if (s.eccFound n reads ecc).anyPoison reads = true then .next ((s.eccFound n reads ecc).stopQuire n 2)
    else .next ((f (if segs.isEmpty then s.eccFound n reads ecc else (s.eccFound n reads ecc).laneIssue n segs zero)).tick n cycles) := by
  have hfree : s.blocked n (waits ++ reads) = false := by
    rw [State.blocked, hw]
    rfl
  unfold State.laneMem
  rw [hfree, hdone]
  rfl

/-- A poisoned line that it reads stops the quire with DATA_POISONED. -/
theorem State.laneMem_of_poison (hu : u = s.eccFound n reads ecc) (hpoison : u.anyPoison reads = true) :
    s.laneMem n ecc cycles waits reads segs zero f = .next (u.stopQuire n 2) := by
  rw [State.laneMem_eq hdone hw, ← hu, if_pos hpoison]

theorem State.laneMem_of_read (hu : u = s.eccFound n reads ecc) (hclean : u.anyPoison reads = false) :
    s.laneMem n ecc cycles waits reads [] zero f = .next ((f u).tick n cycles) := by
  rw [State.laneMem_eq hdone hw, ← hu, if_neg (Bool.eq_false_iff.mp hclean)]
  rfl

theorem State.laneMem_of_issue (hu : u = s.eccFound n reads ecc) (hclean : u.anyPoison reads = false) (hsegs : segs ≠ []) :
    s.laneMem n ecc cycles waits reads segs zero f = .next ((f (u.laneIssue n segs zero)).tick n cycles) := by
  rw [State.laneMem_eq hdone hw, ← hu, if_neg (Bool.eq_false_iff.mp hclean), List.isEmpty_eq_false_iff.mpr hsegs]
  rfl

/-- What reads nothing meets no poison. -/
theorem State.laneMem_of_write (hsegs : segs ≠ []) :
    s.laneMem n ecc cycles waits [] segs zero f = .next ((f (s.laneIssue n segs zero)).tick n cycles) := by
  have hecc : s = s.eccFound n [] ecc := by simp [State.eccFound]
  exact State.laneMem_of_issue hdone hw hecc rfl hsegs

end LaneMem

section AtLane

variable {s : State} {a : LaneArgs} {x : Active} {img : List Byte} {h : QHdr}

theorem exec_laneLoad_at (hat : s.atLane 0x38 a = some (x, img, h)) : exec (.laneLoad a) s =
    s.laneMem a.core a.ecc 1 [] [(laneBase (x.bind a.binding) a, 128)] [] []
      (fun t => t.setCore a.core (fun c => c.writeLanes a.vd (fun i => s.halfAt (laneBase (x.bind a.binding) a + 2 * i)))) := by
  change execLaneLoad a s = _
  simp only [execLaneLoad, hat]

theorem exec_laneStore_at (hat : s.atLane 0x39 a = some (x, img, h)) : exec (.laneStore a) s =
    s.laneMem a.core a.ecc 1 [] [] ((s.coreAt a.core).masked.map (fun i =>
      (laneBase (x.bind a.binding) a + 2 * i, laneBytes ((s.coreAt a.core).lane a.va i)))) [] (fun t => t) := by
  change execLaneStore a s = _
  simp only [execLaneStore, hat]

theorem exec_laneGather_at (hat : s.atLane 0x3A a = some (x, img, h)) : exec (.laneGather a) s =
    s.laneMem a.core a.ecc 4 [] (((s.coreAt a.core).masked.filterMap (fun i =>
      laneElement (x.bind a.binding) a ((s.coreAt a.core).lane a.vb i).toNat)).map (fun p => (p, 2))) [] []
      (fun t => t.setCore a.core (fun c => c.writeLanes a.vd (fun i =>
        ((laneElement (x.bind a.binding) a ((s.coreAt a.core).lane a.vb i).toNat).map s.halfAt).getD 0))) := by
  change execLaneGather a s = _
  simp only [execLaneGather, hat]

theorem exec_laneScatter_at (hat : s.atLane 0x3B a = some (x, img, h)) : exec (.laneScatter a) s =
    s.laneMem a.core a.ecc 4 [] [] ((s.coreAt a.core).masked.filterMap (fun i =>
      (laneElement (x.bind a.binding) a ((s.coreAt a.core).lane a.vb i).toNat).map (fun p => (p, laneBytes ((s.coreAt a.core).lane a.va i))))) []
      (fun t => t) := by
  change execLaneScatter a s = _
  simp only [execLaneScatter, hat]

theorem exec_laneMerge_at (hat : s.atLane 0x31 a = some (x, img, h)) (hcnt : x.cnt ≠ 0) : exec (.laneMerge a) s =
    s.laneMem a.core a.ecc (ceilDiv x.cnt 16) [] [(laneBase (x.bind a.binding) a, 4 * x.cnt)]
      [(laneBase (x.bind a.binding) a, s.merged (laneBit0 a) (laneBase (x.bind a.binding) a) x.cnt)] [] (fun t => t) := by
  change execLaneMerge a s = _
  simp only [execLaneMerge, hat, if_neg hcnt]

section Planes

variable {b : Binding} {d : TDecl} {l m : List (Nat × Nat × Nat)} (hb : b = x.bind a.binding) (hd : d = tdecl img b.tensor)

include hb hd

theorem exec_laneStats_at (hat : s.atLane 0x40 a = some (x, img, h)) (hm : m = laneElems d.written (8 * a.offset.val) x.cnt) :
    exec (.laneStats a) s = s.laneMem a.core a.ecc (max 1 (ceilDiv x.cnt 64)) [] (laneRanges b d.written m) [] []
      (fun t => t.takeStats a.core img b (s.midValues b d m)) := by
  subst hm hd hb
  change execLaneStats a s = _
  simp only [execLaneStats, hat]

theorem exec_laneConvert_at (hat : s.atLane 0x41 a = some (x, img, h)) (hm : m = laneElems d.written (8 * a.offset.val) x.cnt)
    {o : List (Nat × List Byte) × Nat} (ho : o = s.convertElems img b d m) :
    exec (.laneConvert a) s = s.laneMem a.core a.ecc (max 1 (ceilDiv x.cnt 64)) [] (laneRanges b d.written m) o.1 (laneTiles b d m)
      (fun t => t.setActive a.core (fun y => { y with
        clamps := if o.2 = 0 then y.clamps else tput 0 y.clamps a.binding (clampAdd (tget 0 y.clamps a.binding) o.2) })) := by
  subst ho hm hd hb
  change execLaneConvert a s = _
  simp only [execLaneConvert, hat]

theorem exec_laneSplit_at (hat : s.atLane 0x42 a = some (x, img, h)) (hl : l = laneElems d (8 * a.offset.val) x.cnt) :
    exec (.laneSplit a) s = s.laneMem a.core a.ecc (max 1 (ceilDiv x.cnt 64)) (laneRanges b d l) []
      (s.splitElems (s.coreAt a.core) img b d a.va l) [] (fun t => t) := by
  subst hl hd hb
  change execLaneSplit a s = _
  simp only [execLaneSplit, hat]

theorem exec_laneRecompose_at (hat : s.atLane 0x43 a = some (x, img, h)) (hl : l = laneElems d (8 * a.offset.val) x.cnt)
    {vals : List (BitVec 16)}
    (hvals : vals = l.flatMap (fun e => (List.range e.2.2).map (fun k => BitVec.ofInt 16 (s.codeAt img b d e.1 (e.2.1 + k))))) :
    exec (.laneRecompose a) s = s.laneMem a.core a.ecc (max 1 (ceilDiv x.cnt 64)) [] (laneRanges b d l) [] [] (fun t => t.setCore a.core (fun c =>
      vals.zipIdx.foldl (fun c e => if c.mask.getLsbD (e.2 % 64) then c.setLanes ((a.vd.val + e.2 / 64) % 32) [(e.2 % 64, e.1)] else c) c)) := by
  subst hvals hl hd hb
  change execLaneRecompose a s = _
  simp only [execLaneRecompose, hat]

end Planes

end AtLane

/-- Settles O45: every instruction is one use of the shared store access, which reads, stops on poison, or issues its write. -/
theorem laneStoreInstructionsAct : Obligations.LaneStoreInstructionsAct := by
  unfold Obligations.LaneStoreInstructionsAct
  intro s u a x img h b d l m reads addr n c hb haddr hn hc hd hl hm hdone hw hu
  subst haddr hn hc
  refine ⟨fun hat hreads => ⟨fun hclean => ?load, fun hpoison => ?loadPoison⟩, fun hat hmask => ?store,
    fun hat hreads => ⟨fun hclean => ?gather, fun hpoison => ?gatherPoison⟩, fun segs hat hsegs hne => ?scatter,
    fun hat hcnt hreads => ⟨fun hclean => ?merge, fun hpoison => ?mergePoison⟩,
    fun hat hreads => ⟨fun hclean => ?stats, fun hpoison => ?statsPoison⟩,
    fun o hat hreads ho hne => ⟨fun hclean => ?convert, fun hpoison => ?convertPoison⟩, fun segs hat hsegs hne => ?split,
    fun vals hat hreads hvals => ⟨fun hclean => ?recompose, fun hpoison => ?recomposePoison⟩⟩
  case load =>
    subst hreads hb
    exact (exec_laneLoad_at hat).trans (State.laneMem_of_read hdone hw hu hclean)
  case loadPoison =>
    subst hreads hb
    exact (exec_laneLoad_at hat).trans (State.laneMem_of_poison hdone hw hu hpoison)
  case store =>
    subst hb
    exact (exec_laneStore_at hat).trans (State.laneMem_of_write hdone hw fun h => hmask (List.map_eq_nil_iff.mp h))
  case gather =>
    subst hreads hb
    exact (exec_laneGather_at hat).trans (State.laneMem_of_read hdone hw hu hclean)
  case gatherPoison =>
    subst hreads hb
    exact (exec_laneGather_at hat).trans (State.laneMem_of_poison hdone hw hu hpoison)
  case scatter =>
    subst hsegs hb
    exact (exec_laneScatter_at hat).trans (State.laneMem_of_write hdone hw hne)
  case merge =>
    subst hreads hb
    exact (exec_laneMerge_at hat hcnt).trans (State.laneMem_of_issue hdone hw hu hclean (List.cons_ne_nil _ _))
  case mergePoison =>
    subst hreads hb
    exact (exec_laneMerge_at hat hcnt).trans (State.laneMem_of_poison hdone hw hu hpoison)
  case stats =>
    subst hreads
    exact (exec_laneStats_at hb hd hat hm).trans (State.laneMem_of_read hdone hw hu hclean)
  case statsPoison =>
    subst hreads
    exact (exec_laneStats_at hb hd hat hm).trans (State.laneMem_of_poison hdone hw hu hpoison)
  case convert =>
    subst hreads
    exact (exec_laneConvert_at hb hd hat hm ho).trans (State.laneMem_of_issue hdone hw hu hclean hne)
  case convertPoison =>
    subst hreads
    exact (exec_laneConvert_at hb hd hat hm ho).trans (State.laneMem_of_poison hdone hw hu hpoison)
  case split =>
    subst hsegs
    exact (exec_laneSplit_at hb hd hat hl).trans (State.laneMem_of_write hdone hw hne)
  case recompose =>
    subst hreads
    exact (exec_laneRecompose_at hb hd hat hl hvals).trans (State.laneMem_of_read hdone hw hu hclean)
  case recomposePoison =>
    subst hreads
    exact (exec_laneRecompose_at hb hd hat hl hvals).trans (State.laneMem_of_poison hdone hw hu hpoison)

end Sys2Proof.Machine
end

section
/-! PROOFS. Pictures of the video streams: parsed, dispatched and decoded (R206, R207, R213, R215 to R218, R220, R221, R239). -/

namespace Sys2Proof.Machine

section Parse

variable {s : State} {sid : Nat} {x : Stream} {p : ParsedPicture}

/-! ### Parsing (R206, R207, R220, R221) -/

theorem State.clusterServes_of_open (hst : x.st ≠ .closed) (hbytes : 1 ≤ p.auBytes) (hhere : p.auBytes ≤ x.unparsed)
    (hserves : s.clusterServes x.cluster = true) :
    ¬ (x.st = .closed ∨ x.unparsed < p.auBytes ∨ p.auBytes = 0 ∨ s.clusterServes x.cluster = false) := by
  rw [hserves]
  rintro (h | h | h | h)
  · exact hst h
  · omega
  · omega
  · exact Bool.noConfusion h

theorem exec_pictureParse_of_unit (hx : s.streamAt sid = some x) (hst : x.st ≠ .closed) (hbytes : 1 ≤ p.auBytes) (hhere : p.auBytes ≤ x.unparsed)
    (hserves : s.clusterServes x.cluster = true) : exec (.pictureParse sid p) s = if s.clusterAwake x.cluster = false then .next (s.wake (21 + x.cluster))
      else .next ((((s.takeUnit sid p).setStream sid (fun x => { x with parsed := x.parsed + p.auBytes })).alarmUpdate x.part x.pipeline).releaseFeeds sid) := by
  change execPictureParse sid p s = _
  simp only [execPictureParse, hx, if_neg (State.clusterServes_of_open hst hbytes hhere hserves)]

theorem State.takeUnit_of_layer (h : p.layer ≠ 0) : s.takeUnit sid p = s := if_pos h

section BaseLayer

variable {y : Stream} {t : State} (hlayer : p.layer = 0) (ht : t = s.setStream sid (fun x => p.headers.foldl Stream.takeHeader x))
  (hy : t.streamAt sid = some y)

include hlayer ht hy

/-- An access unit with no set to parse its header by stores its parameter sets alone. -/
theorem State.takeUnit_of_noSet (hset : y.setOf p = none) : s.takeUnit sid p = t := by
  subst ht
  simp only [State.takeUnit, hlayer, ne_eq, not_true_eq_false, if_false, hy, hset]

/-- An access unit stores its parameter sets, and its picture is taken where it has any segment. -/
theorem State.takeUnit_of_set {set : SeqSet} (hset : y.setOf p = some set) :
    s.takeUnit sid p = if p.segments = 0 then t else t.takePicture sid y p set := by
  subst ht
  simp only [State.takeUnit, hlayer, ne_eq, not_true_eq_false, if_false, hy, hset]

end BaseLayer

theorem Stream.setMode_nextDec (x : Stream) (m : StreamState) : (x.setMode m).nextDec = x.nextDec := by
  unfold Stream.setMode
  split <;> rfl

theorem State.takePicture_of_discarded {set : SeqSet} (hset : setAccepted x set = true) (hmode : x.mode = .seeking) (hstart : startsAt p = false) :
    s.takePicture sid x p set = (((s.setStream sid (fun x => x.takePts p.feedIndex)).setStream sid
      (fun x => { x with nextDec := (x.nextDec + 1) % 2 ^ 32, active := some set })).missSnaps sid x.nextDec) := by
  simp only [State.takePicture, hset, hmode, hstart, Bool.not_true, Bool.false_eq_true, if_false, and_self, true_or, if_true]

/-- A stream that refuses the set a picture activates seeks a starting point again. -/
def Stream.refuse (set : SeqSet) (y : Stream) : Stream :=
  { y.setMode .seeking with refused := y.refused + 1, dpb := [], nextDec := (y.nextDec + 1) % 2 ^ 32, active := some set }

theorem State.takePicture_of_refused {set : SeqSet} (hset : setAccepted x set = false) (hfresh : x.activates p = true) :
    s.takePicture sid x p set = (((s.setStream sid (fun x => x.takePts p.feedIndex)).setStream sid (Stream.refuse set)).missSnaps sid x.nextDec).hpEvent
      x.cluster sid 0x0483 0 0 := by
  have hrefuse : Stream.refuse set = fun y => { y.setMode .seeking with
      refused := y.refused + b2n true, dpb := [], nextDec := ((y.setMode .seeking).nextDec + 1) % 2 ^ 32, active := some set } := by
    funext y
    rw [y.setMode_nextDec]
    rfl
  simp only [State.takePicture, hset, hfresh, Bool.not_false, if_true, hrefuse]

end Parse

section Decode

variable {s : State} {sid : Nat} {x : Stream} {p : Pic}

/-! ### Dispatch (R215, R227, R239) -/

/-- Of domains that are all on, none is asleep. -/
theorem State.none_asleep {l : List Nat} (h : ∀ d ∈ l, s.awake d = true) : l.any (fun d => decide ((s.domAt d).st ≠ .on ∨ (s.domAt d).move ≠ .none)) = false := by
  rw [List.any_eq_false]
  intro d hd hoff
  obtain ⟨hon, hstill⟩ := of_decide_eq_true (h d hd)
  exact (of_decide_eq_true hoff).elim (fun hne => hne hon) (fun hne => hne hstill)

theorem exec_pictureDispatch_of_free {d : Nat} {e : Fin 10} {pipe : Pipeline} (hx : s.streamAt sid = some x) (hp : x.picAt d = some p)
    (hpipe : s.pipeAt x.part x.pipeline = some pipe) (hmay : s.mayDispatch sid x p pipe e = true) (hserves : s.clusterServes x.cluster = true)
    (hcluster : s.awake (21 + x.cluster) = true) (hprep : p.analysed = true → s.awake 27 = true)
    (henc : s.encodersFor sid x p ≠ [] → s.awake 25 = true) : exec (.pictureDispatch sid d e) s =
    .next (if (s.encodersFor sid x p).isEmpty then (s.dispatch sid x p e).takeGrant (10 + x.cluster) x.part (pipe.workPrio x.prio)
      else ((s.dispatch sid x p e).takeGrant (10 + x.cluster) x.part (pipe.workPrio x.prio)).takeGrant 14 x.part (pipe.workPrio x.prio)) := by
  have hneed : ∀ d ∈ (21 + x.cluster) :: ((if p.analysed then [27] else []) ++ (if (s.encodersFor sid x p).isEmpty then [] else [25])),
      s.awake d = true := by
    intro d hd
    obtain rfl | hd := List.mem_cons.mp hd
    · exact hcluster
    · obtain hd | hd := List.mem_append.mp hd
      · split at hd
        · next h => exact List.mem_singleton.mp hd ▸ hprep h
        · exact absurd hd List.not_mem_nil
      · split at hd
        · exact absurd hd List.not_mem_nil
        · next h => exact List.mem_singleton.mp hd ▸ henc fun hnil => h (List.isEmpty_iff.mpr hnil)
  change execPictureDispatch sid d e s = _
  simp only [execPictureDispatch, hx, hp, hpipe, hmay, hserves, Bool.true_eq_false, or_self, if_false, State.none_asleep hneed, Bool.false_eq_true]

/-! ### The end of a picture's decoding (R216 to R218) -/

theorem exec_pictureDecoded_of_budget {d cyc : Nat} {e : Nat} (hx : s.streamAt sid = some x) (hp : x.picAt d = some p) (hstage : p.stage = .dispatched e)
    (hcyc : cyc ≤ x.budgetMult * nominalCost p.w p.h p.depth) (r : DecodeReport) : exec (.pictureDecoded sid d cyc r) s =
    .next (s.leaveEngine sid x p e cyc (p.causesOf r none) (p.concealed r none) r.planes) := by
  change execPictureDecoded sid d cyc r s = _
  simp only [execPictureDecoded, hx, hp, hstage, if_neg (Nat.not_lt.mpr hcyc)]

theorem exec_decodeBudgetExpiry_of_dispatched {d : Nat} {e : Nat} (hx : s.streamAt sid = some x) (hp : x.picAt d = some p)
    (hstage : p.stage = .dispatched e) (u : Nat) (r : DecodeReport) : exec (.decodeBudgetExpiry sid d u r) s =
    .next ((s.setCluster x.cluster (fun c => { c with budget := satAdd 32 c.budget 1 })).leaveEngine sid x p e
      (x.budgetMult * nominalCost p.w p.h p.depth) (p.causesOf r (some u)) (p.concealed r (some u)) r.planes) := by
  change execDecodeBudgetExpiry sid d u r s = _
  simp only [execDecodeBudgetExpiry, hx, hp, hstage]

/-- The units concealed where the budget ran out in unit u. -/
theorem Pic.mem_concealed (p : Pic) (r : DecodeReport) {u k : Nat} (hk : k < p.totalUnits) : k ∈ p.concealed r (some u) ↔
    p.oversized = true ∨ (∃ l ∈ r.syntaxErrors, l.1 ≤ k ∧ k ≤ l.2) ∨ k ∈ r.missing ∨ u ≤ k := by
  simp only [Pic.concealed, List.mem_filter, List.mem_range, hk, true_and, Bool.or_eq_true, List.any_eq_true, decide_eq_true_eq,
    List.contains_iff_mem, Option.any_some, or_assoc]

end Decode

/-- Settles O46: each command's branch, and a concealed unit is told by the four causes of R218. -/
theorem picturesAreParsedAndDecoded : Obligations.PicturesAreParsedAndDecoded := by
  unfold Obligations.PicturesAreParsedAndDecoded
  intro s sid x hx
  refine ⟨fun p hst hbytes hhere hserves => ?parse, fun p hlayer => State.takeUnit_of_layer hlayer, ?unit, ?picture, ?dispatch,
    fun d p e r hp hstage => ⟨fun cyc hcyc => exec_pictureDecoded_of_budget hx hp hstage hcyc r,
      fun u => exec_decodeBudgetExpiry_of_dispatched hx hp hstage u r, fun u k hk => p.mem_concealed r hk⟩⟩
  case parse =>
    rw [exec_pictureParse_of_unit hx hst hbytes hhere hserves]
    exact ⟨fun hasleep => if_pos hasleep, fun hawake => if_neg (by rw [hawake]; exact Bool.noConfusion)⟩
  case unit =>
    intro p y t hlayer ht hy
    refine ⟨State.takeUnit_of_noSet hlayer ht hy, fun set hset => ?_⟩
    rw [State.takeUnit_of_set hlayer ht hy hset]
    exact ⟨fun hseg => if_pos hseg, fun hseg => if_neg hseg⟩
  case picture =>
    intro p set t ht
    subst ht
    exact ⟨fun hset hmode hstart => State.takePicture_of_discarded hset hmode hstart,
      fun hset hfresh => State.takePicture_of_refused hset hfresh⟩
  case dispatch =>
    intro d e p pipe t hp hpipe hmay hserves hcluster hprep henc ht
    rw [exec_pictureDispatch_of_free hx hp hpipe hmay hserves hcluster hprep henc, ← ht]
    exact ⟨fun hnone => by rw [hnone]; rfl, fun hsome => by rw [List.isEmpty_eq_false_iff.mpr hsome]; rfl⟩

end Sys2Proof.Machine
end

section
/-! PROOFS. The prep units: analysis pictures, page pictures, batches and crops (R53, R127 to R131, R223 to R230, R234, R268 to R270). -/

namespace Sys2Proof.Machine

section Prep

variable {s : State} {u : Fin 8}

/-! ### Pictures (R53, R223 to R228, R262) -/

section Stream

variable {sid d : Nat} {x : Stream} {p : Pic} {pipe : Pipeline} (hx : s.streamAt sid = some x) (hp : x.picAt d = some p)
  (hpipe : s.pipeAt x.part x.pipeline = some pipe) (hfree : s.prepFree u = true) (hawake : s.awake 27 = true)

include hx hp hpipe hfree hawake

theorem exec_prepPictureDone_of_picture {q : Pic} {t : State} (hwaits : s.picWaits p pipe = true)
    (htake : s.mayTake 9 x.part (pipe.workPrio x.prio) = true) (hq : q = p.prepare x pipe (s.askedRegroup x.part pipe))
    (ht : t = s.takePrepared sid x pipe q u) : exec (.prepPictureDone (.picture sid d) u) s =
    .next (if t.inputMode x.part pipe.detFolio = 1 ∧ x.prepHeld d = true then t.countHold u else t.quantise sid x pipe q) := by
  subst ht hq
  change execPrepPictureDone (.picture sid d) u s = _
  simp only [execPrepPictureDone, State.prepPicture, hx, hp, hpipe, hfree, hawake, hwaits, htake, Bool.true_eq_false, or_self, if_false]

theorem exec_prepQuantise_of_held (hprep : p.prepared = true) (hquant : p.quantised = false) (hheld : x.prepHeld d = false) :
    exec (.prepQuantise sid d u) s = .next (s.quantise sid x pipe p) := by
  change execPrepQuantise sid d u s = _
  simp only [execPrepQuantise, hx, hp, hpipe, hfree, hawake, hprep, hquant, hheld, Bool.true_eq_false, Bool.false_eq_true, or_self, if_false]

end Stream

theorem exec_prepPictureDone_of_page {n : Nat} {g : Page} {x : Pipeline} (hg : s.pageAt n = some g) (hx : s.pagePipe g = some x)
    (hwaits : g.picWaits = true) (hfree : s.prepFree u = true) (htake : s.mayTake 9 g.part (x.workPrio g.prio) = true)
    (hawake : s.awake 27 = true) : exec (.prepPictureDone (.page n) u) s = .next (s.preparePage n g x u).settle := by
  change execPrepPictureDone (.page n) u s = _
  simp only [execPrepPictureDone, State.prepPage, hg, hx, hwaits, hfree, htake, hawake, Bool.true_eq_false, or_self, if_false]

theorem exec_batchWaitExpiry_of_waiting {n : Nat} {b : Batch} (hb : s.batchAt n = some b) (hrun : b.run = 0) (hfull : b.full = false) :
    exec (.batchWaitExpiry n) s =
      .next (((s.setBatch n (fun b => { b with waited := true })).issueReady b.part b.pipeline).alarmUpdate b.part b.pipeline) := by
  change execBatchWaitExpiry n s = _
  simp only [execBatchWaitExpiry, hb, hrun, hfull, ne_eq, not_true_eq_false, Bool.false_eq_true, or_self, if_false]

/-! ### Crops (R127 to R131, R234, R268 to R270) -/

/-- Unit u on crop job n, whose slots are those of k. -/
def State.joinCrop (s : State) (n : Nat) (u : Fin 8) (k : CropJob) : State :=
  { s with media := { s.media with
    ppBusy := s.media.ppBusy ||| BitVec.ofNat 8 (2 ^ u.val)
    crops := nmod s.media.crops n (fun j => { j with units := j.units ++ [u.val], out := k.out, status := k.status }) } }

section Crop

variable {n : Nat} {j : CropJob} (hj : nget s.media.crops n = some j)

include hj

/-- A unit joins a crop job: the first applies its entries, and every unit works on the same slots. -/
theorem exec_cropJob_of_free (hfree : s.prepFree u = true) (hawake : s.awake 27 = true) (hclean : s.cropPoison j = false)
    (hstart : j.units ≠ [] ∨ s.mayTake 9 j.part j.prio = true) {k : CropJob} (hk : k = (if j.units = [] then s.applyEntries j else j)) :
    ∃ t : State, exec (.cropJob n u) s = .next t ∧
      t.media.crops = nmod s.media.crops n (fun j => { j with units := j.units ++ [u.val], out := k.out, status := k.status }) ∧
      t.media.ppBusy = s.media.ppBusy ||| BitVec.ofNat 8 (2 ^ u.val) ∧ t.mem = s.mem ∧ t.cp = s.cp := by
  have hgo : ¬ (s.prepFree u = false ∨ (j.units.isEmpty = true ∧ s.mayTake 9 j.part j.prio = false)) := by
    rintro (h | ⟨hnone, hno⟩)
    · exact Bool.noConfusion (hfree.symm.trans h)
    · obtain h | h := hstart
      · exact h (List.isEmpty_iff.mp hnone)
      · exact Bool.noConfusion (h.symm.trans hno)
  have hk' : (if j.units.isEmpty = true then s.applyEntries j else j) = k := by
    rw [hk]
    simp only [List.isEmpty_iff]
  have hexec : exec (.cropJob n u) s = .next ((if j.units.isEmpty then s.takeGrant 9 j.part j.prio else s).joinCrop n u k) := by
    change execCropJob n u s = _
    simp only [execCropJob, hj, if_neg hgo, hawake, hclean, Bool.true_eq_false, Bool.false_eq_true, if_false, hk']
    rfl
  refine ⟨_, hexec, ?_⟩
  split
  · exact ⟨rfl, rfl, rfl, rfl⟩
  · exact ⟨rfl, rfl, rfl, rfl⟩

variable (hunits : j.units ≠ [])

include hunits

theorem exec_cropJobDone_of_lines {g : Page} {x : Pipeline} (hlines : j.lines = true) (hg : s.pageAt j.obj = some g) (hx : s.pagePipe g = some x)
    (hgo : s.inputMode g.part x.secFolio ≠ 1 ∨ s.linesHeld j.obj g = false) : exec (.cropJobDone n) s =
    .next ((s.endCrop n j g.client).finishLines j.obj g x j).settle := by
  have hnot : ¬ (s.inputMode g.part x.secFolio = 1 ∧ s.linesHeld j.obj g = true) := fun ⟨hmode, hheld⟩ =>
    hgo.elim (fun h => h hmode) fun h => Bool.noConfusion (hheld.symm.trans h)
  change execCropJobDone n s = _
  simp only [execCropJobDone, hj, List.isEmpty_eq_false_iff.mpr hunits, Bool.false_eq_true, if_false, hlines, if_true, hg, hx, if_neg hnot]

theorem exec_cropJobDone_of_reid {x : Stream} {pipe : Pipeline} {t : State} (hlines : j.lines = false) (hx : s.streamAt j.obj = some x)
    (hpipe : s.pipeAt x.part x.pipeline = some pipe) (hgo : s.inputMode x.part pipe.secFolio ≠ 1 ∨ s.reidHeld x j = false)
    (ht : s.startReid x pipe.secFolio j (s.cropMax j) = some t) : exec (.cropJobDone n) s =
    .next ((t.endCrop n j x.client).setPic j.obj j.seq (fun p => { p with crop := if x.snapAuto then p.crop else none })) := by
  have hnot : ¬ (s.inputMode x.part pipe.secFolio = 1 ∧ s.reidHeld x j = true) := fun ⟨hmode, hheld⟩ =>
    hgo.elim (fun h => h hmode) fun h => Bool.noConfusion (hheld.symm.trans h)
  change execCropJobDone n s = _
  simp only [execCropJobDone, hj, List.isEmpty_eq_false_iff.mpr hunits, Bool.false_eq_true, if_false, hlines, hx, hpipe, if_neg hnot, ht]

end Crop

end Prep

/-- Settles O47: each command's branch; a unit that joins a crop job changes the job and the busy units alone. -/
theorem picturesAndCropsArePrepared : Obligations.PicturesAndCropsArePrepared := by
  unfold Obligations.PicturesAndCropsArePrepared
  intro s
  refine ⟨?picture, fun n g x u hg hx hwaits hfree htake hawake => exec_prepPictureDone_of_page hg hx hwaits hfree htake hawake,
    fun sid x d p pipe u hx hp hpipe hprep hquant hheld hfree hawake => exec_prepQuantise_of_held hx hp hpipe hfree hawake hprep hquant hheld,
    fun n b hb hrun hfull => exec_batchWaitExpiry_of_waiting hb hrun hfull,
    fun n j u k hj hfree hawake hclean hstart hk => exec_cropJob_of_free hj hfree hawake hclean hstart hk,
    fun n j g x hj hunits hlines hg hx hgo => exec_cropJobDone_of_lines hj hunits hlines hg hx hgo,
    fun n j x pipe t hj hunits hlines hx hpipe hgo ht => exec_cropJobDone_of_reid hj hunits hlines hx hpipe hgo ht⟩
  intro sid x d p q pipe u t hx hp hpipe hwaits hfree htake hawake hq ht
  rw [exec_prepPictureDone_of_picture hx hp hpipe hfree hawake hwaits htake hq ht]
  refine ⟨fun hgo => ?_, fun hmode hheld => by rw [if_pos ⟨hmode, hheld⟩]⟩
  obtain h | h := hgo
  · rw [if_neg fun hn => h hn.1]
  · rw [if_neg fun hn => Bool.noConfusion (hn.2.symm.trans h)]

end Sys2Proof.Machine
end

section
/-! PROOFS. The track processors and the encoders (R231 to R234, R236 to R246). -/

namespace Sys2Proof.Machine

section Tracking

variable {s : State} {sid : Nat} {x : Stream} {p : Pic} {pipe : Pipeline}

/-! ### Detections (R231, R232) -/

theorem State.detBatch_of_finished {b : Batch} {i : Nat} (hb : s.batchAt (p.batch - 1) = some b) (hplace : b.place (sid, p.decSeq) = some i)
    (hbatch : p.batch ≠ 0) (hdet : p.detDone = false) (hrun : b.run ≠ 0) (hfin : s.runFinished (b.run - 1) = true) :
    s.detBatch sid p = some (b, i) := by
  simp only [State.detBatch, hb, hplace, hbatch, hdet, hrun, hfin, Bool.false_eq_true, Bool.true_eq_false, or_self, if_false, Option.bind_some,
    Option.map_some]

theorem exec_detectionFinish_of_batch {d : Nat} {b : Batch} {i : Nat} (hx : s.streamAt sid = some x) (hp : x.picAt d = some p)
    (hpipe : s.pipeAt x.part x.pipeline = some pipe) (hbatch : s.detBatch sid p = some (b, i)) (htp : s.trackers.contains x.tp = true)
    (htake : s.mayTake 16 x.part x.prio = true) (hawake : s.awake 28 = true) : exec (.detectionFinish sid d) s =
    .next ((s.takeDetections sid x pipe p b i).sweepBatches.alarmUpdate x.part x.pipeline) := by
  change execDetectionFinish sid d s = _
  simp only [execDetectionFinish, hx, hp, hpipe, hbatch, htp, htake, hawake, Bool.true_eq_false, or_self, if_false]

/-- Boxes are kept up to MAX_DET, none of a score below the least. -/
theorem keepBoxes_facts {lo : Int} {iou m : Nat} {ag : Bool} {c : Int × Int × Int × Int} (l : List Cand) {kept : List Det}
    (hlen : kept.length ≤ m) (hscore : ∀ d ∈ kept, lo ≤ d.score) :
    ((keepBoxes lo iou m ag c l kept).1).length ≤ m ∧ ∀ d ∈ (keepBoxes lo iou m ag c l kept).1, lo ≤ d.score := by
  induction l generalizing kept with
  | nil => exact ⟨hlen, hscore⟩
  | cons e l ih =>
    unfold keepBoxes
    split
    · exact ⟨hlen, hscore⟩
    · next hlow =>
      split
      · exact ⟨hlen, hscore⟩
      · next hroom =>
        dsimp only
        split
        · exact ih hlen hscore
        · refine ih (by rw [List.length_append, List.length_singleton]; omega) fun d hd => ?_
          obtain hd | hd := List.mem_append.mp hd
          · exact hscore d hd
          · rw [List.mem_singleton.mp hd]
            exact not_lt.mp hlow

/-! ### Tracks (R236, R243) -/

theorem exec_trackUpdate_of_turn (hx : s.streamAt sid = some x) (hturn : x.turn = some p) (hpipe : s.pipeAt x.part x.pipeline = some pipe)
    (hcomplete : p.complete = true) (htp : s.trackers.contains x.tp = true) (htake : s.mayTake 16 x.part x.prio = true)
    (hawake : s.awake 28 = true) : exec (.trackUpdate sid) s =
    .next (((s.takeTracks sid x pipe p).releaseSnaps sid p.decSeq).dropOutput sid p.decSeq).settle := by
  change execTrackUpdate sid s = _
  simp only [execTrackUpdate, hx, hturn, hpipe, hcomplete, htp, htake, hawake, Bool.true_eq_false, or_self, if_false]

/-! ### Encoders (R238 to R243) -/

theorem exec_encodePictureDone_of_clip {e : Fin 2} {c : Fin 16} {k : Clip} {dec order : Nat} {bytes : List Byte} (cyc : Nat) (fin : Bool)
    (hk : tget none s.media.clips (16 * e.val + c.val) = some k) (htodo : k.todo = some (dec, order)) (hx : s.streamAt k.stream = some x)
    (hserves : s.encoderServes e = true) (hdecoded : s.stillDecoding k.stream dec = false) (hrate : k.holdsRate bytes = true)
    (hawake : s.awake 25 = true) : exec (.encodePictureDone e c dec bytes cyc fin) s =
    .next (((s.appendClip (16 * e.val + c.val) dec order bytes fin).countEncoded x cyc).freeIfDone e).settle := by
  change execEncodePictureDone e c dec bytes cyc fin s = _
  simp only [execEncodePictureDone, hk, htodo, hx, hserves, hdecoded, hrate, hawake, ne_eq, not_true_eq_false, Bool.true_eq_false,
    Bool.false_eq_true, or_self, if_false]

theorem exec_snapshotDone_of_next {q : Snap} {scan : List Byte} (cyc : Nat) (hnext : s.nextSnap = some (sid, q)) (hx : s.streamAt sid = some x)
    (hserves : s.encoderServes 2 = true) (hdecoded : s.stillDecoding sid (q.target.getD noPic) = false) (hawake : s.awake 25 = true)
    {j : State × Nat × Nat × Nat} (hj : j = s.keepJpeg x (q.file scan)) : exec (.snapshotDone scan cyc) s =
    .next ((((j.1.returnJpeg x sid q j.2.1 j.2.2.1 j.2.2.2).countEncoded x cyc).freeSnapshot).dropOutput sid (q.target.getD noPic)).settle := by
  change execSnapshotDone scan cyc s = _
  simp only [execSnapshotDone, hnext, hx, hserves, hdecoded, hawake, ← hj, Bool.true_eq_false, Bool.false_eq_true, or_self, if_false]

end Tracking

/-- Settles O48: each command's branch; the bound and the scores of the kept boxes by induction on the candidates. -/
theorem picturesAreTrackedAndEncoded : Obligations.PicturesAreTrackedAndEncoded := by
  unfold Obligations.PicturesAreTrackedAndEncoded
  intro s
  refine ⟨?detections, fun lo iou m ag c l => keepBoxes_facts l (Nat.zero_le m) fun d hd => absurd hd List.not_mem_nil,
    fun sid x p pipe hx hturn hpipe hcomplete htp htake hawake => exec_trackUpdate_of_turn hx hturn hpipe hcomplete htp htake hawake,
    fun e c k dec order x bytes cyc fin hk htodo hx hserves hdecoded hrate hawake =>
      exec_encodePictureDone_of_clip cyc fin hk htodo hx hserves hdecoded hrate hawake,
    fun sid q x scan cyc j t hnext hx hserves hdecoded hawake hj ht =>
      ht ▸ exec_snapshotDone_of_next cyc hnext hx hserves hdecoded hawake hj⟩
  intro sid x d p pipe b i hx hp hpipe hb hplace hbatch hdet hrun hfin htp htake hawake
  exact exec_detectionFinish_of_batch hx hp hpipe (State.detBatch_of_finished hb hplace hbatch hdet hrun hfin) htp htake hawake

end Sys2Proof.Machine
end

section
/-! PROOFS. The page decoder and the finishing of lines (R255 to R259, R262 to R268). -/

namespace Sys2Proof.Machine

section Decoder

variable {s : State} {n : Nat} {g : Page}

/-! ### Headers (R255, R258) -/

theorem exec_pageHeaderParsed_of_accepted (hg : s.pageAt n = some g) (hdr : ParsedPage) (hstage : g.stage = .accepted)
    (hserves : s.pageServes = true) (hawake : s.awake 26 = true) : exec (.pageHeaderParsed n hdr) s = .next (s.takeHeader n g hdr).settle := by
  change execPageHeaderParsed n hdr s = _
  simp only [execPageHeaderParsed, hg, hstage, hserves, hawake, ne_eq, not_true_eq_false, Bool.true_eq_false, or_self, if_false]

section Header

variable {hdr : ParsedPage}

theorem State.takeHeader_of_bad (h : hdr.parsed = false ∨ formatCode hdr.format ≠ g.format) :
    s.takeHeader n g hdr = s.countPage.endPage n stPageHeader false := by
  have hbad : (!hdr.parsed || formatCode hdr.format != g.format) = true := by
    obtain h | h := h
    · rw [h]
      rfl
    · rw [bne_iff_ne.mpr h, Bool.or_true]
  unfold State.takeHeader
  rw [if_pos hbad]

variable (hparsed : hdr.parsed = true) (hformat : formatCode hdr.format = g.format)

include hparsed hformat

theorem header_good : (!hdr.parsed || formatCode hdr.format != g.format) = false := by
  rw [hparsed, bne_eq_false_iff_eq.mpr hformat]
  rfl

theorem State.takeHeader_of_unread (hread : formatRead hdr.format = false) :
    s.takeHeader n g hdr = s.countPage.endPage n stPageUnsupported false := by
  simp only [State.takeHeader, header_good hparsed hformat, hread, Bool.not_false, Bool.false_eq_true, if_false, if_true]

theorem State.takeHeader_of_size (hread : formatRead hdr.format = true) (hsize : hdr.width ≠ g.w ∨ hdr.height ≠ g.h) :
    s.takeHeader n g hdr = s.countPage.endPage n stPageHeader false := by
  simp only [State.takeHeader, header_good hparsed hformat, hread, Bool.not_true, Bool.false_eq_true, if_false, if_pos hsize]

/-- A page whose file is read in one pass waits for its first band. -/
theorem State.takeHeader_of_single (hread : formatRead hdr.format = true) (hw : hdr.width = g.w) (hh : hdr.height = g.h)
    (hpass : formatMultipass hdr.format = false) :
    s.takeHeader n g hdr = (s.setPage n (fun g => { g with file := some hdr.format })).setPage n (fun g => { g with stage := .decoding }) := by
  simp only [State.takeHeader, header_good hparsed hformat, hread, hw, hh, hpass, Bool.not_true, Bool.false_eq_true, ne_eq, not_true_eq_false,
    or_self, if_false]

end Header

/-! ### Bands and the budget (R21, R256, R257, R259, R260) -/

/-- A band of a page ends: poison ends the page, the end of its data or its last row ends its decoding. -/
theorem exec_bandDone_of_lane {x : Pipeline} {r : BandResult} {t : State} (hg : s.pageAt n = some g) (hx : s.pagePipe g = some x)
    (hstage : g.stage = .decoding) (hserves : s.pageServes = true) (hlane : g.holdsLane r.lane = true) (hreport : s.bandReport g r = true)
    (hawake : s.awake 26 = true) (ht : t = s.bandOver n g x r) : exec (.bandDone n r) s =
    .next ((if r.poisoned = true then t.countPage.endPage n stDataPoisoned false
      else if (r.endOfData || r.dataError || decide (g.rows + r.rows = g.h)) = true then t.endDecoding n r else t).alarmUpdate x.part x.handle).settle := by
  subst ht
  change execBandDone n r s = _
  simp only [execBandDone, hg, hx, hstage, hserves, hlane, hreport, hawake, ne_eq, not_true_eq_false, Bool.true_eq_false, or_self, if_false]

theorem State.chargeWork_media (s : State) (p client c k : Nat) : (s.chargeWork p client c k).media = s.media := by
  have hcharge : ∀ (t : State) r, (t.charge r c k).media = t.media := fun t r =>
    show (t.charge r c k).sansCel.media = t.sansCel.media from congrArg State.media (t.charge_sansCel r c k)
  unfold State.chargeWork
  dsimp only
  split
  · exact hcharge s p
  · exact (hcharge _ _).trans (hcharge s p)

/-- A page whose budget has run out: the rest of the budget is charged, and the page ends with the rows that it has. -/
def State.budgetOver (s : State) (n : Nat) (g : Page) (rows bytes : Nat) : State :=
  (((({ s.chargeWork g.part g.client 5 (s.pageBudget g - g.used) with media := { (s.chargeWork g.part g.client 5 (s.pageBudget g - g.used)).media with
      pgBudget := satAdd 32 s.media.pgBudget 1 } } : State).setPage n
    (fun y => { y with rows := rows, dataBytes := bytes, cycles := s.pageBudget g, used := s.pageBudget g })).countPage).endPage n stDecodeBudget false)

section Budget

variable {rows bytes : Nat} {x : Pipeline} (hg : s.pageAt n = some g) (hstage : g.stage = .decoding) (hserves : s.pageServes = true)
  (hlo : g.rows ≤ rows) (hhi : rows ≤ g.h) (hawake : s.awake 26 = true)

include hg hstage hserves hlo hhi hawake

theorem exec_pageBudgetExpiry_of_decoding :
    ((s.budgetOver n g rows bytes).pagePipe g = some x → exec (.pageBudgetExpiry n rows bytes) s =
      .next ((s.budgetOver n g rows bytes).alarmUpdate x.part x.handle).settle) ∧
    ((s.budgetOver n g rows bytes).pagePipe g = none → exec (.pageBudgetExpiry n rows bytes) s = .next (s.budgetOver n g rows bytes).settle) := by
  have hrows : ¬ (g.stage ≠ .decoding ∨ s.pageServes = false ∨ g.h < rows ∨ rows < g.rows) := by
    rw [hserves]
    rintro (h | h | h | h)
    · exact h hstage
    · exact Bool.noConfusion h
    · omega
    · omega
  unfold State.budgetOver
  rw [← s.chargeWork_media g.part g.client 5 (s.pageBudget g - g.used)]
  change (_ → execPageBudgetExpiry n rows bytes s = _) ∧ (_ → execPageBudgetExpiry n rows bytes s = _)
  constructor
  · intro hx
    simp only [execPageBudgetExpiry, hg, if_neg hrows, hawake, Bool.true_eq_false, if_false, hx]
  · intro hx
    simp only [execPageBudgetExpiry, hg, if_neg hrows, hawake, Bool.true_eq_false, if_false, hx]

end Budget

/-! ### Lines (R266 to R268) -/

theorem State.lineBatch_of_finished {b : Batch} {i : Nat} (hb : s.batchAt (g.batch - 1) = some b) (hplace : b.place (n, 0) = some i)
    (hstage : g.stage = .detecting) (hrun : b.run ≠ 0) (hfin : s.runFinished (b.run - 1) = true) : s.lineBatch n g = some (b, i) := by
  simp only [State.lineBatch, hb, hplace, hstage, hrun, hfin, ne_eq, not_true_eq_false, Bool.true_eq_false, or_self, if_false, Option.bind_some,
    Option.map_some]

theorem exec_lineFinish_of_batch {x : Pipeline} {b : Batch} {i : Nat} (hg : s.pageAt n = some g) (hx : s.pagePipe g = some x)
    (hbatch : s.lineBatch n g = some (b, i)) (htp : s.trackers ≠ []) (htake : s.mayTake 16 g.part g.prio = true) (hawake : s.awake 28 = true) :
    exec (.lineFinish n) s = .next (((s.takeLines n g x b i).sweepBatches.alarmUpdate x.part x.handle).settle) := by
  change execLineFinish n s = _
  simp only [execLineFinish, hg, hx, hbatch, List.isEmpty_eq_false_iff.mpr htp, htake, hawake, Bool.false_eq_true, Bool.true_eq_false, or_self,
    if_false]

end Decoder

/-! ### The reading order (R267) -/

theorem keyPlace_perm {α : Type} (key : α → Nat × Nat × Nat) (a : α) (l : List α) : (keyPlace key a l).Perm (a :: l) := by
  induction l with
  | nil => exact List.Perm.refl _
  | cons b l ih =>
    unfold keyPlace
    split
    · exact (ih.cons b).trans (List.Perm.swap a b l)
    · exact List.Perm.refl _

theorem foldl_keyPlace_perm {α : Type} (key : α → Nat × Nat × Nat) (l acc : List α) :
    (l.foldl (fun acc a => keyPlace key a acc) acc).Perm (l ++ acc) := by
  induction l generalizing acc with
  | nil => exact List.Perm.refl _
  | cons a l ih =>
    calc (l.foldl (fun acc a => keyPlace key a acc) (keyPlace key a acc)).Perm (l ++ keyPlace key a acc) := ih _
      _ |>.Perm (l ++ a :: acc) := (keyPlace_perm key a acc).append_left l
      _ |>.Perm (a :: l ++ acc) := List.perm_middle

theorem keySort_perm {α : Type} (key : α → Nat × Nat × Nat) (l : List α) : (keySort key l).Perm l := by
  have h := foldl_keyPlace_perm key l []
  rwa [List.append_nil] at h

/-- The rows hold the lines in their order. -/
theorem rowsOf_lines (l : List Line) (row : Nat) (bottom : Option Nat) : (rowsOf l row bottom).map (·.2) = l := by
  induction l generalizing row bottom with
  | nil => rfl
  | cons x l ih =>
    unfold rowsOf
    exact congrArg (x :: ·) (ih _ _)

theorem readingOrder_perm (l : List Line) : (readingOrder l).Perm l := by
  have hrows := (keySort_perm (fun (e : Nat × Line) => (e.1, e.2.x0, e.2.det))
    (rowsOf (keySort (fun (x : Line) => (x.y0 + x.y1, x.x0, x.det)) l) 0 none)).map (·.2)
  rw [rowsOf_lines] at hrows
  exact hrows.trans (keySort_perm _ l)

/-- Settles O49: a header's checks in their order, a band's three endings, and the reading order as a permutation made of insertions. -/
theorem pagesAreDecodedIntoLines : Obligations.PagesAreDecodedIntoLines := by
  unfold Obligations.PagesAreDecodedIntoLines
  intro s n g hg
  refine ⟨fun hdr hstage hserves hawake => exec_pageHeaderParsed_of_accepted hg hdr hstage hserves hawake,
    fun hdr => ⟨State.takeHeader_of_bad, fun hparsed hformat => ⟨State.takeHeader_of_unread hparsed hformat,
      State.takeHeader_of_size hparsed hformat, State.takeHeader_of_single hparsed hformat⟩⟩, ?band, ?budget,
    fun x b i hx hb hplace hstage hrun hfin htp htake hawake =>
      exec_lineFinish_of_batch hg hx (State.lineBatch_of_finished hb hplace hstage hrun hfin) htp htake hawake, readingOrder_perm⟩
  case band =>
    intro x r t hx hstage hserves hlane hreport hawake ht
    rw [exec_bandDone_of_lane hg hx hstage hserves hlane hreport hawake ht]
    refine ⟨fun hpoison => by rw [if_pos hpoison], fun hclean hstop => ?_, fun hclean hdata herror hrows => ?_⟩
    · have hends : (r.endOfData || r.dataError || decide (g.rows + r.rows = g.h)) = true := by
        simpa only [Bool.or_eq_true, decide_eq_true_eq, or_assoc] using hstop
      rw [if_neg (Bool.eq_false_iff.mp hclean), if_pos hends]
    · rw [if_neg (Bool.eq_false_iff.mp hclean), hdata, herror, decide_eq_false hrows]
      rfl
  case budget =>
    intro rows bytes x t hx hstage hserves hlo hhi hawake ht
    subst ht
    exact exec_pageBudgetExpiry_of_decoding hg hstage hserves hlo hhi hawake

end Sys2Proof.Machine
end

section
/-! PROOFS. The text engine: releases, steps, masks and the choice of a token (R283, R285 to R288). -/

namespace Sys2Proof.Machine

/-! ### The choice of a token (R285) -/

/-- One candidate looked at: the best so far with its value and the next best value. -/
def pickStep (b : Option (Nat × Int × Option Int)) (e : Int × Nat) : Option (Nat × Int × Option Int) :=
  match b with
  | none => some (e.2, e.1, none)
  | some (t, v, w) =>
    if v < e.1 then some (e.2, e.1, some v)
    else some (t, v, some (match w with
      | some w => max w e.1
      | none => e.1))

/-- The margin of a best candidate over the next best. -/
def pickMargin (b : Nat × Int × Option Int) : Nat :=
  match b.2.2 with
  | none => 65535
  | some w => (clampI 0 65535 (b.2.1 - w)).toNat

/-- The logits among which a token is chosen, each with its token. -/
def candidateLogits (ok : Nat → Bool) (l : List Int) : List (Int × Nat) := l.zipIdx.filter (fun e => ok e.2)

theorem pickToken_eq (ok : Nat → Bool) (l : List Int) :
    pickToken ok l = ((candidateLogits ok l).foldl pickStep none).map (fun b => (b.1, pickMargin b)) := rfl

theorem pickMargin_le (b : Nat × Int × Option Int) : pickMargin b ≤ 65535 := by
  unfold pickMargin clampI
  split <;> omega

theorem mem_candidateLogits {ok : Nat → Bool} {l : List Int} {v : Int} {t : Nat} : (v, t) ∈ candidateLogits ok l ↔ l[t]? = some v ∧ ok t = true := by
  rw [candidateLogits, List.mem_filter, List.mk_mem_zipIdx_iff_getElem?]

/-- The candidates stand in the order of their tokens. -/
theorem candidateLogits_sorted (ok : Nat → Bool) (l : List Int) : (candidateLogits ok l).Pairwise (fun a b => a.2 < b.2) := by
  have hplaces : (l.zipIdx.map Prod.snd).Pairwise (fun i j => i < j) := by
    rw [List.zipIdx_map_snd]
    exact List.pairwise_lt_range'
  exact List.Pairwise.filter _ (List.pairwise_map.mp hplaces)

/-- The best of a list of candidates in order is one of them, no candidate is above it, and those before it are below. -/
def IsBest (l : List (Int × Nat)) (t : Nat) (v : Int) : Prop := (v, t) ∈ l ∧ ∀ e ∈ l, e.1 ≤ v ∧ (e.2 < t → e.1 < v)

theorem pickStep_best {l : List (Int × Nat)} {e : Int × Nat} {t : Nat} {v : Int} {w : Option Int} (hbest : IsBest l t v)
    (hafter : ∀ x ∈ l, x.2 < e.2) : ∃ t' v' w', pickStep (some (t, v, w)) e = some (t', v', w') ∧ IsBest (l ++ [e]) t' v' := by
  obtain ⟨hmem, hall⟩ := hbest
  unfold pickStep
  dsimp only
  split
  · next hless =>
    refine ⟨e.2, e.1, some v, rfl, List.mem_append_right l (List.mem_singleton_self e), fun x hx => ?_⟩
    obtain hx | hx := List.mem_append.mp hx
    · exact ⟨(hall x hx).1.trans hless.le, fun _ => (hall x hx).1.trans_lt hless⟩
    · rw [List.mem_singleton.mp hx]
      exact ⟨le_refl _, fun h => absurd h (Nat.lt_irrefl _)⟩
  · next hmore =>
    refine ⟨t, v, _, rfl, List.mem_append_left _ hmem, fun x hx => ?_⟩
    obtain hx | hx := List.mem_append.mp hx
    · exact hall x hx
    · rw [List.mem_singleton.mp hx]
      exact ⟨not_lt.mp hmore, fun h => absurd h (hafter _ hmem).not_gt⟩

/-- The best candidate is found whenever there is one. -/
theorem foldl_pickStep {l : List (Int × Nat)} (hsorted : l.Pairwise (fun a b => a.2 < b.2)) :
    (l = [] ∧ l.foldl pickStep none = none) ∨ ∃ t v w, l.foldl pickStep none = some (t, v, w) ∧ IsBest l t v := by
  induction l using List.reverseRecOn with
  | nil => exact .inl ⟨rfl, rfl⟩
  | append_singleton l e ih =>
    obtain ⟨hl, -, hafter⟩ := List.pairwise_append.mp hsorted
    rw [List.foldl_append, List.foldl_cons, List.foldl_nil]
    right
    obtain ⟨rfl, hnone⟩ | ⟨t, v, w, hsome, hbest⟩ := ih hl
    · refine ⟨e.2, e.1, none, rfl, List.mem_singleton_self e, fun x hx => ?_⟩
      rw [List.mem_singleton.mp hx]
      exact ⟨le_refl _, fun h => absurd h (Nat.lt_irrefl _)⟩
    · rw [hsome]
      exact pickStep_best hbest fun x hx => hafter x hx e (List.mem_singleton_self e)

theorem pickToken_best {ok : Nat → Bool} {l : List Int} {t m : Nat} (h : pickToken ok l = some (t, m)) :
    ok t = true ∧ (∃ v, l[t]? = some v ∧ (∀ i w, l[i]? = some w → ok i = true → w ≤ v) ∧
      (∀ i w, l[i]? = some w → ok i = true → i < t → w < v)) ∧ m ≤ 65535 := by
  rw [pickToken_eq] at h
  obtain ⟨b, hb, hpair⟩ := Option.map_eq_some_iff.mp h
  obtain ⟨rfl, rfl⟩ := Prod.mk.inj hpair
  obtain ⟨-, hnone⟩ | ⟨t, v, w, hsome, hmem, hall⟩ := foldl_pickStep (candidateLogits_sorted ok l)
  · exact absurd (hb.symm.trans hnone) (Option.some_ne_none b)
  · obtain rfl := Option.some.inj (hsome.symm.trans hb)
    obtain ⟨hget, hok⟩ := mem_candidateLogits.mp hmem
    exact ⟨hok, ⟨v, hget, fun i x hx hi => (hall (x, i) (mem_candidateLogits.mpr ⟨hx, hi⟩)).1,
      fun i x hx hi hlt => (hall (x, i) (mem_candidateLogits.mpr ⟨hx, hi⟩)).2 hlt⟩, pickMargin_le _⟩

theorem pickToken_none_iff (ok : Nat → Bool) (l : List Int) : pickToken ok l = none ↔ ∀ i : Nat, i < l.length → ok i = false := by
  rw [pickToken_eq, Option.map_eq_none_iff]
  constructor
  · intro hnone i hi
    obtain ⟨hempty, -⟩ | ⟨t, v, w, hsome, -⟩ := foldl_pickStep (candidateLogits_sorted ok l)
    · by_contra hok
      have hmem : (l[i], i) ∈ candidateLogits ok l := mem_candidateLogits.mpr ⟨List.getElem?_eq_getElem hi, Bool.not_eq_false _ ▸ hok⟩
      rw [hempty] at hmem
      exact absurd hmem List.not_mem_nil
    · exact absurd (hsome.symm.trans hnone) (Option.some_ne_none _)
  · intro hall
    obtain ⟨-, hnone⟩ | ⟨t, v, w, -, hmem, -⟩ := foldl_pickStep (candidateLogits_sorted ok l)
    · exact hnone
    · obtain ⟨hget, hok⟩ := mem_candidateLogits.mp hmem
      obtain ⟨hlt, -⟩ := List.getElem?_eq_some_iff.mp hget
      exact absurd ((hall t hlt).symm.trans hok) Bool.noConfusion

section Engine

variable {s : State} (hup : s.textDown = false) (hawake : s.awake 29 = true)

/-! ### Steps (R284, R285) -/

theorem stepReady_iff (live : List (Nat × Read)) :
    stepReady live = true ↔ live ≠ [] ∧ ∀ e ∈ live, e.2.stepped = false ∧ e.2.released = true := by
  simp only [stepReady, Bool.and_eq_true, Bool.not_eq_true', List.isEmpty_eq_false_iff, List.all_eq_true, ne_eq]

theorem State.stepsNow_of_finished {b : Batch} {x : Run} (hkind : b.kind = 2) (hrun : b.run ≠ 0) (hx : s.runAt (b.run - 1) = some x)
    (hst : x.status = 0) (hfin : s.runFinished (b.run - 1) = true) : s.stepsNow b = true := by
  simp only [State.stepsNow, hkind, hx, hst, hfin, decide_true, decide_eq_true hrun, Option.map_some, Option.getD_some, Bool.and_self]

include hup hawake

theorem exec_stepRelease_of_selected {k : Nat} {r : Read} (hr : nget s.text.reads k = some r) (hended : r.ended = false)
    (hstepped : r.stepped = false) : exec (.stepRelease k) s = .next (s.setRead k (fun r => { r with released := true })) := by
  change execStepRelease k s = _
  simp only [execStepRelease, hr, hended, hstepped, hup, hawake, Bool.false_eq_true, Bool.true_eq_false, or_self, if_false]

theorem exec_decodeStep_of_steps {n : Nat} {b : Batch} (hb : s.batchAt n = some b) (hsteps : s.stepsNow b = true)
    (htake : s.mayTake 17 b.part b.prio = true) : exec (.decodeStep n) s =
    if stepReady ((s.beginReads n).liveReads n) = false then .next s
    else .next ((((((s.beginReads n).liveReads n).foldl (fun s e => s.setRead e.1 (fun x => { x with stepped := true, released := false }))
      (s.beginReads n)).takeGrant 17 b.part b.prio).restep (b.run - 1)).chargeFree b.part 0 7) := by
  change execDecodeStep n s = _
  simp only [execDecodeStep, hb, hsteps, htake, hup, hawake, Bool.false_eq_true, Bool.true_eq_false, or_self, if_false]

/-! ### Masks and selections (R285 to R288) -/

section Read

variable {k : Nat} {r : Read} {g : Page} {x : Pipeline} (hr : s.readAt k = some (r, g, x)) (hended : r.ended = false)

include hr hended

theorem exec_maskUpdate_of_unasked (hasked : r.maskAsked = false) : exec (.maskUpdate k) s =
    if ((s.chargeFree g.part g.client 7).grammarOf x).any (fun t => (s.chargeFree g.part g.client 7).maskPoison t r.state) = true then
      .next (((s.chargeFree g.part g.client 7).poisonRead k r g x).sweepBatches).settle
    else .next ((s.chargeFree g.part g.client 7).setRead k (fun r => { r with maskAsked := true })) := by
  change execMaskUpdate k s = _
  simp only [execMaskUpdate, hr, hended, hasked, hup, hawake, Bool.false_eq_true, Bool.true_eq_false, or_self, if_false]

theorem exec_maskReady_of_asked (hasked : r.maskAsked = true) (hready : r.maskReady = false) :
    exec (.maskReady k) s = .next (s.maskDone k r g x) := by
  change execMaskReady k s = _
  simp only [execMaskReady, hr, hended, hasked, hready, hup, hawake, Bool.false_eq_true, Bool.true_eq_false, or_self, if_false]

theorem exec_tokenSelect_of_mask (hstep : s.stepDone r = true) (hmask : s.grammarOf x = none ∨ r.maskReady = true) :
    exec (.tokenSelect k) s = .next ((s.selectToken k r g x).sweepBatches).settle := by
  have hno : ¬ ((s.grammarOf x).isSome = true ∧ r.maskReady = false) := by
    rintro ⟨hsome, hnot⟩
    obtain h | h := hmask
    · rw [h] at hsome
      exact Bool.noConfusion hsome
    · exact Bool.noConfusion (h.symm.trans hnot)
  change execTokenSelect k s = _
  simp only [execTokenSelect, hr, hended, hstep, hup, hawake, Bool.false_eq_true, Bool.true_eq_false, or_self, if_false, if_neg hno]

theorem exec_tokenSelect_of_late (hstep : s.stepDone r = true) (hgrammar : (s.grammarOf x).isSome = true) (hready : r.maskReady = false)
    (hlate : r.late = true) : exec (.tokenSelect k) s = .next s := by
  change execTokenSelect k s = _
  simp only [execTokenSelect, hr, hended, hstep, hup, hawake, hgrammar, hready, hlate, Bool.false_eq_true, Bool.true_eq_false, or_self, if_false,
    and_self, if_true]

end Read

end Engine

/-- Settles O50: each command's branch, and the token by induction on the candidates in their order. -/
theorem readsTakeTokens : Obligations.ReadsTakeTokens := by
  unfold Obligations.ReadsTakeTokens
  intro s hup hawake
  refine ⟨fun k r hr hended hstepped => exec_stepRelease_of_selected hup hawake hr hended hstepped, ?steps,
    fun b x hkind hrun hx hst hfin => State.stepsNow_of_finished hkind hrun hx hst hfin, stepReady_iff, ?read,
    fun ok l t m h => pickToken_best h, pickToken_none_iff⟩
  case steps =>
    intro n b t live hb hsteps htake ht hlive
    subst ht hlive
    rw [exec_decodeStep_of_steps hup hawake hb hsteps htake]
    exact ⟨fun hready => if_neg (by rw [hready]; exact Bool.noConfusion), fun hwait => if_pos hwait⟩
  case read =>
    intro k r g x t hr hended ht
    subst ht
    refine ⟨fun hasked hclean => ?_, fun hasked hpoison => ?_, fun hasked hready => exec_maskReady_of_asked hup hawake hr hended hasked hready,
      fun hstep hmask => exec_tokenSelect_of_mask hup hawake hr hended hstep hmask,
      fun hstep hgrammar hready hlate => exec_tokenSelect_of_late hup hawake hr hended hstep hgrammar hready hlate⟩
    · rw [exec_maskUpdate_of_unasked hup hawake hr hended hasked, if_neg (Bool.eq_false_iff.mp hclean)]
    · rw [exec_maskUpdate_of_unasked hup hawake hr hended hasked, if_pos hpoison]

end Sys2Proof.Machine
end

section
/-! PROOFS. The end of a packet: its reply, its signal and its message (R305, R309, R313, R314). -/

namespace Sys2Proof.Machine

section EndPacket

variable {s : State} {fl : Flight} {a : Ans}

/-- An MSI-X message leaves all but the outbox and the link's state, and is sent where its vector is not masked. -/
theorem State.msix_facts (s : State) (f v : Nat) : (s.msix f v).cp = s.cp ∧ (s.msix f v).mem = s.mem ∧ (s.msix f v).core = s.core ∧
    (s.msix f v).cel = s.cel ∧ (s.msix f v).outbox = s.outbox ++ if (tget {} s.hi.msix (64 * f + v)).masked = false then [.msix f v] else [] := by
  unfold State.msix
  split
  · next h => exact ⟨rfl, rfl, rfl, rfl, by rw [h]; exact (List.append_nil _).symm⟩
  · next h => exact ⟨rfl, rfl, rfl, rfl, by rw [Bool.eq_false_iff.mpr h]; rfl⟩

/-- What a failed reply write leaves: the packet is gone, and only the rings, the log and the messages change with it. -/
theorem State.replyFails_facts (s : State) (fl : Flight) : (s.replyFails fl).cp.flight = s.cp.flight.filter (fun x => x.id != fl.id) ∧
    (s.replyFails fl).mem = s.mem ∧ (s.replyFails fl).core = s.core ∧ (s.replyFails fl).cel = s.cel := by
  unfold State.replyFails State.ringFault
  extract_lets s1 _ s2 v s3
  obtain ⟨hcp, hmem, hcore, hcel, -⟩ := (s3.log logRingFault 1 0 fl.pk.fn fl.pk.ring).msix_facts fl.pk.fn v
  obtain ⟨f, b, q, l, hlog⟩ := s3.log_only logRingFault 1 0 fl.pk.fn fl.pk.ring
  rw [hcp, hmem, hcore, hcel, hlog]
  exact ⟨rfl, rfl, rfl, rfl⟩

/-- The device once a packet's reply is written and its signal applied. -/
def State.answered (s : State) (fl : Flight) (a : Ans) : State :=
  let t := ((s.emit (.reply fl.pk.fn ((s.ringAt fl.pk.fn fl.pk.ring).rqBase.toNat +
      32 * ((s.ringAt fl.pk.fn fl.pk.ring).rqTail.toNat % 2 ^ (s.ringAt fl.pk.fn fl.pk.ring).log2))
    (replyBytes fl.pk a (phaseOf (s.ringAt fl.pk.fn fl.pk.ring).rqTail (s.ringAt fl.pk.fn fl.pk.ring).log2) (s.signals fl.pk) fl.slot))).dropFlight
      fl).setRing fl.pk.fn fl.pk.ring (fun r => { r with rqTail := r.rqTail + 1 })
  if s.signals fl.pk then t.setCounter fl.pk.fn (pkSignalSync fl.pk) (syncSum (t.counter fl.pk.fn (pkSignalSync fl.pk)) 1).1 else t

theorem State.endPacket_of_fault (h : (s.ringAt fl.pk.fn fl.pk.ring).replyFault = true) : s.endPacket fl a = s.dropFlight fl := if_pos h

theorem State.endPacket_of_bad (h : (s.ringAt fl.pk.fn fl.pk.ring).replyFault = false) (hbad : fl.id ∈ s.cp.badReplies) :
    s.endPacket fl a = s.replyFails fl := by
  unfold State.endPacket
  simp only [h, Bool.false_eq_true, if_false, List.contains_iff_mem, hbad, if_true]

theorem State.endPacket_of_reply (h : (s.ringAt fl.pk.fn fl.pk.ring).replyFault = false) (hbad : fl.id ∉ s.cp.badReplies) :
    s.endPacket fl a = if pkIrq fl.pk = true ∨ a.status ≠ stOk then (s.answered fl a).msix fl.pk.fn (s.ringAt fl.pk.fn fl.pk.ring).vector
      else s.answered fl a := by
  unfold State.endPacket
  simp only [h, Bool.false_eq_true, if_false, List.contains_iff_mem, hbad, Bool.or_eq_true, decide_eq_true_eq]
  rfl

theorem State.answered_facts (s : State) (fl : Flight) (a : Ans) : (s.answered fl a).cp.flight = s.cp.flight.filter (fun x => x.id != fl.id) ∧
    (s.answered fl a).mem = s.mem ∧ (s.answered fl a).core = s.core ∧ (s.answered fl a).cel = s.cel ∧
    (s.answered fl a).hi.msix = s.hi.msix ∧
    (s.answered fl a).outbox = s.outbox ++ [.reply fl.pk.fn ((s.ringAt fl.pk.fn fl.pk.ring).rqBase.toNat +
      32 * ((s.ringAt fl.pk.fn fl.pk.ring).rqTail.toNat % 2 ^ (s.ringAt fl.pk.fn fl.pk.ring).log2))
      (replyBytes fl.pk a (phaseOf (s.ringAt fl.pk.fn fl.pk.ring).rqTail (s.ringAt fl.pk.fn fl.pk.ring).log2) (s.signals fl.pk) fl.slot)] ∧
    (s.answered fl a).cp.ring = ((s.setRing fl.pk.fn fl.pk.ring (fun q => ({ q with inflight := q.inflight - 1 } : Ring).settleStop)).setRing
      fl.pk.fn fl.pk.ring (fun q => { q with rqTail := q.rqTail + 1 })).cp.ring := by
  unfold State.answered
  extract_lets t
  split
  · exact ⟨rfl, rfl, rfl, rfl, rfl, rfl, rfl⟩
  · exact ⟨rfl, rfl, rfl, rfl, rfl, rfl, rfl⟩

/-- The counters once a packet has answered: its signal's is raised by 1. -/
theorem State.answered_sync (s : State) (fl : Flight) (a : Ans) : (s.answered fl a).cp.sync =
    if s.signals fl.pk = true then tput 0 s.cp.sync (8192 * fl.pk.fn + pkSignalSync fl.pk)
      (min (s.counter fl.pk.fn (pkSignalSync fl.pk) + 1) (2 ^ 64 - 1)) else s.cp.sync := by
  unfold State.answered
  extract_lets t
  split
  · rfl
  · rfl

theorem State.answered_counter_same (h : s.signals fl.pk = true) :
    (s.answered fl a).counter fl.pk.fn (pkSignalSync fl.pk) = min (2 ^ 64 - 1) (s.counter fl.pk.fn (pkSignalSync fl.pk) + 1) := by
  have hne : min (s.counter fl.pk.fn (pkSignalSync fl.pk) + 1) (2 ^ 64 - 1) ≠ 0 := by omega
  rw [State.counter, s.answered_sync, if_pos h, tget_tput_ne _ _ _ _ hne, Nat.min_comm]

theorem State.answered_counter_other {g o : Nat} (ho : o < 8192) (hsync : pkSignalSync fl.pk < 8192)
    (hother : ¬(s.signals fl.pk = true ∧ g = fl.pk.fn.val ∧ o = pkSignalSync fl.pk)) : (s.answered fl a).counter g o = s.counter g o := by
  rw [State.counter, s.answered_sync]
  split
  · next h => exact tget_tput_other _ _ _ _ _ fun hkey => hother ⟨h, by omega, by omega⟩
  · rfl

end EndPacket

/-- Settles O54: a packet whose ring's replies have failed leaves the table alone; else it answers, and then sends its message. -/
theorem packetEndRepliesSignalsAndInterrupts : Obligations.PacketEndRepliesSignalsAndInterrupts := by
  unfold Obligations.PacketEndRepliesSignalsAndInterrupts
  intro s u fl a f r hf hr hu
  subst hf hr hu
  obtain ⟨hflight, hmem, hcore, hcel, hmsix, hout, hring⟩ := s.answered_facts fl a
  obtain ⟨mcp, mmem, mcore, mcel, mout⟩ := (s.answered fl a).msix_facts fl.pk.fn (s.ringAt fl.pk.fn fl.pk.ring).vector
  rw [hmsix, hout] at mout
  by_cases hfault : (s.ringAt fl.pk.fn fl.pk.ring).replyFault = true
  · rw [State.endPacket_of_fault hfault]
    exact ⟨rfl, rfl, rfl, rfl, fun h => Bool.noConfusion (hfault.symm.trans h), fun _ => ⟨rfl, rfl, rfl, rfl⟩⟩
  have hgood := Bool.eq_false_iff.mpr hfault
  by_cases hbad : fl.id ∈ s.cp.badReplies
  · obtain ⟨hflight', hmem', hcore', hcel'⟩ := s.replyFails_facts fl
    rw [State.endPacket_of_bad hgood hbad]
    exact ⟨hflight', hmem', hcore', hcel', fun _ hnot => absurd hbad hnot, fun h => absurd h hfault⟩
  rw [State.endPacket_of_reply hgood hbad]
  by_cases hirq : pkIrq fl.pk = true ∨ a.status ≠ stOk
  · rw [if_pos hirq]
    refine ⟨by rw [mcp, hflight], by rw [mmem, hmem], by rw [mcore, hcore], by rw [mcel, hcel],
      fun _ _ => ⟨⟨_, mout, ?_⟩, by rw [mcp, hring], fun h => ?_, fun g o ho hsync hother => ?_⟩, fun h => absurd h hfault⟩
    · simp only [hirq, true_and]
    · rw [State.counter, mcp]
      exact State.answered_counter_same h
    · rw [State.counter, mcp]
      exact State.answered_counter_other ho hsync hother
  · rw [if_neg hirq]
    exact ⟨hflight, hmem, hcore, hcel, fun _ _ => ⟨⟨[], hout.trans (List.append_nil _).symm, (if_neg fun h => hirq h.1).symm⟩, hring,
      State.answered_counter_same, fun g o ho hsync hother => State.answered_counter_other ho hsync hother⟩, fun h => absurd h hfault⟩

end Sys2Proof.Machine
end

section
/-! PROOFS. The packets of pipelines, encoders and page sources: what their bodies do once their checks pass (R239 to R241, R251 to R254, R261, R283, R310, R317, R321). -/

namespace Sys2Proof.Machine

/-! ### Handles, field checks and sub-client records (R198, R310, R317) -/

theorem lowestHandle_of_first {n h : Nat} {used : Nat → Bool} (hh : h < n) (hfree : used h = false) (hlow : ∀ i, i < h → used i = true) :
    lowestHandle n used = some h := by
  refine List.find?_range_eq_some.mpr ⟨by rw [hfree]; rfl, List.mem_range.mpr hh, fun i hi => ?_⟩
  rw [hlow i hi]
  rfl

theorem lowestHandle_ne_none {n : Nat} {used : Nat → Bool} (h : ∃ i, i < n ∧ used i = false) : lowestHandle n used ≠ none := by
  obtain ⟨i, hi, hfree⟩ := h
  intro hnone
  exact absurd (List.find?_eq_none.mp hnone i (List.mem_range.mpr hi)) (by rw [hfree]; decide)

/-- The fields of a packet are in range where every one of them is. -/
theorem fieldCheck_ok {l : List (Nat × Bool)} (h : ∀ e ∈ l, e.2 = true) : fieldCheck l = none := by
  refine Option.map_eq_none_iff.mpr (List.find?_eq_none.mpr fun e he => ?_)
  rw [h e he]
  decide

/-- Nothing that a test picks is found where the picked ones are filtered out. -/
theorem find?_filter_not {α : Type} (p : α → Bool) (l : List α) : (l.filter (fun x => !p x)).find? p = none :=
  List.find?_eq_none.mpr fun x hx => by simpa using (List.mem_filter.mp hx).2

/-- A search does not notice a filter that keeps everything it picks. -/
theorem find?_filter_of_imp {α : Type} {p q : α → Bool} {l : List α} (h : ∀ x, p x = true → q x = true) :
    (l.filter q).find? p = l.find? p := by
  rw [List.find?_filter]
  refine List.find?_congr fun x _ => ?_
  cases hp : p x with
  | true => simp [h x hp]
  | false => simp

/-- What stands in one partition under one handle does not stand in another, or under another. -/
theorem at_other {p h p' h' a b : Nat} (hne : ¬(p' = p ∧ h' = h)) (hat : (a == p' && b == h') = true) : (!(a == p && b == h)) = true := by
  simp only [Bool.and_eq_true, beq_iff_eq] at hat
  obtain ⟨rfl, rfl⟩ := hat
  rw [Bool.not_eq_true', ← Bool.not_eq_true]
  simpa using hne

/-- Taking a sub-client record touches the Cellarer alone. -/
theorem State.takeClient_facts (s : State) (p kind id : Nat) : (s.takeClient p kind id).1.mem = s.mem ∧
    (s.takeClient p kind id).1.media = s.media ∧ (s.takeClient p kind id).1.text = s.text := by
  unfold State.takeClient
  split
  · exact ⟨rfl, rfl, rfl⟩
  · split <;> exact ⟨rfl, rfl, rfl⟩

/-- The sub-client record an object takes where its packet asks for one; 0 where it does not, or none is left. -/
def State.clientIf (s : State) (asks : Prop) [Decidable asks] (p kind id : Nat) : State × Nat := if asks then s.takeClient p kind id else (s, 0)

theorem State.clientIf_facts (s : State) (asks : Prop) [Decidable asks] (p kind id : Nat) : (s.clientIf asks p kind id).1.mem = s.mem ∧
    (s.clientIf asks p kind id).1.media = s.media ∧ (s.clientIf asks p kind id).1.text = s.text ∧ (¬asks → (s.clientIf asks p kind id).2 = 0) := by
  unfold State.clientIf
  split
  · next h =>
    obtain ⟨hmem, hmedia, htext⟩ := s.takeClient_facts p kind id
    exact ⟨hmem, hmedia, htext, fun hnot => absurd h hnot⟩
  · exact ⟨rfl, rfl, rfl, fun _ => rfl⟩

section Bodies

variable {t : State} {fl : Flight}

/-! ### PIPELINE_CREATE and PIPELINE_DESTROY (R261, R283, R321) -/

theorem bodyPipelineCreate_ok {h : Nat} (htrack : t.trackers ≠ []) (hup : pkF fl.pk 16 1 = 0 ∨ t.textDown = false)
    (hfields : pipelineFields fl.pk = none) (hhandles : t.pipelineHandles fl.pk = true) (hmatch : t.pipelineMismatch fl.pk = false)
    (hstops : badStop (pkPipeline fl.pk 0).stops = none) (hh : lowestHandle 16 (fun i => (t.pipeAt fl.pk.fn i).isSome) = some h) :
    bodyPipelineCreate t fl = ({ t with media := { t.media with pipelines := t.media.pipelines ++ [pkPipeline fl.pk h] } } : State).endPacket fl
      { status := stOk, c0 := h } := by
  have hserves : ¬(t.trackers = [] ∨ (pkF fl.pk 16 1 = 1 ∧ t.textDown = true)) := by
    rintro (hnone | ⟨hpage, hdown⟩)
    · exact htrack hnone
    · rcases hup with hzero | hup
      · omega
      · exact Bool.false_ne_true (hup.symm.trans hdown)
  simp only [bodyPipelineCreate, if_neg hserves, hfields, hhandles, hh, hmatch, hstops, Bool.true_eq_false, Bool.false_eq_true, if_false]

/-- The device without a partition's pipeline h and its batches still open. -/
def State.withoutPipe (t : State) (p h : Nat) : State := { t with media := { t.media with
  pipelines := t.media.pipelines.filter (fun x => !(x.part == p && x.handle == h)),
  batches := t.media.batches.filter (fun e => !(e.2.part == p && e.2.pipeline == h && e.2.run == 0)) } }

theorem bodyPipelineDestroy_ok {x : Pipeline} (hpipe : t.pipeAt fl.pk.fn (pkF fl.pk 16 1) = some x)
    (hstreams : t.media.streams.all (fun e => !(e.2.part == fl.pk.fn.val && e.2.pipeline == pkF fl.pk 16 1 && decide (e.2.st ≠ .closed))) = true)
    (hsources : t.media.sources.all (fun e => !(e.2.part == fl.pk.fn.val && e.2.pipeline == pkF fl.pk 16 1)) = true) :
    bodyPipelineDestroy t fl = (t.withoutPipe fl.pk.fn (pkF fl.pk 16 1)).endPacket fl { status := stOk } := by
  rw [List.all_eq_not_any_not, Bool.not_eq_true'] at hstreams hsources
  simp only [Bool.not_not] at hstreams hsources
  simp only [bodyPipelineDestroy, hpipe, hstreams, hsources, Bool.or_self, Bool.false_eq_true, if_false]
  rfl

theorem State.pipeAt_withoutPipe_same (t : State) (p h : Nat) : (t.withoutPipe p h).pipeAt p h = none :=
  find?_filter_not _ _

theorem State.pipeAt_withoutPipe_other {p h p' h' : Nat} (hne : ¬(p' = p ∧ h' = h)) : (t.withoutPipe p h).pipeAt p' h' = t.pipeAt p' h' :=
  find?_filter_of_imp fun _ hx => at_other hne hx

/-! ### The encoder packets (R239 to R241) -/

theorem bodySnapshot_ok {x : Stream} (hserves : t.encoderServes 2 = true) (hlow : 1 ≤ pkF fl.pk 24 1) (hhigh : pkF fl.pk 24 1 ≤ 100)
    (hwhole : pkF fl.pk 25 1 ≤ 1) (hopen : t.openStream fl.pk.fn (pkF fl.pk 16 4) = some x)
    (hpic : pkF fl.pk 20 4 = noPic ∨ x.passed (pkF fl.pk 20 4) = false) (hroom : (x.snaps.filter (fun q => q.kind != 4)).length < 16) :
    bodySnapshot t fl = (t.setStream (pkF fl.pk 16 4) (fun y => { y with snaps := y.snaps ++ [{
      tag := pkTag fl.pk, target := if pkF fl.pk 20 4 = noPic then none else some (pkF fl.pk 20 4), quality := pkF fl.pk 24 1,
      whole := decide (pkF fl.pk 25 1 = 1), box := [pkF fl.pk 28 2, pkF fl.pk 30 2, pkF fl.pk 32 2, pkF fl.pk 34 2],
      kind := if pkF fl.pk 25 1 = 1 then 1 else 2, track := 0, prio := pkPriority fl.pk, taken := false, order := noPic, ready := none }] })).endPacket
        fl { status := stOk } := by
  have hfields : fieldCheck [(24, decide (1 ≤ pkF fl.pk 24 1 ∧ pkF fl.pk 24 1 ≤ 100)), (25, decide (pkF fl.pk 25 1 ≤ 1))] = none :=
    fieldCheck_ok (by simp [hlow, hhigh, hwhole])
  have hmissed : ¬(pkF fl.pk 20 4 ≠ noPic ∧ x.passed (pkF fl.pk 20 4) = true) := by
    rintro ⟨hnamed, hpassed⟩
    exact hpic.elim hnamed (fun h => Bool.false_ne_true (h.symm.trans hpassed))
  simp only [bodySnapshot, hserves, Bool.true_eq_false, if_false, hfields, hopen, if_neg hmissed, if_neg hroom.not_ge]
  rfl

theorem bodyClipStart_ok {c : Nat} {x : Stream} (hfields : clipChecks fl.pk = none) (hopen : t.openStream fl.pk.fn (pkF fl.pk 16 4) = some x)
    (hfree : t.lowestSession = some c) :
    bodyClipStart t fl = ({ t with media := { t.media with clips := tput none t.media.clips c (some (pkClip fl.pk)) } } : State).endPacket fl
      { status := stOk, c0 := c } := by
  have hserves : (List.range 2).all (fun e => !t.encoderServes e) = false := by
    have hc := List.find?_some hfree
    have hmem := List.mem_of_find?_eq_some hfree
    rw [Bool.and_eq_true] at hc
    rw [← Bool.not_eq_true, List.all_eq_true]
    intro hall
    have := hall (c / 16) (List.mem_range.mpr (by have := List.mem_range.mp hmem; omega))
    rw [hc.1] at this
    exact absurd this (by decide)
  simp only [bodyClipStart, hserves, Bool.false_eq_true, if_false, hfields, hopen, hfree]

theorem bodyClipStop_idle {c : Clip} {x : Stream} (hopen : t.openStream fl.pk.fn (pkF fl.pk 16 4) = some x) (hclip : t.namedClip fl.pk = some c)
    (htodo : c.todo = none) :
    bodyClipStop t fl = (t.endClip (pkF fl.pk 20 1)).setWait fl (fun y => { y with
      wait := .records (c.chunks + if c.bytes.isEmpty then 0 else 1), aux := [clipKey (pkF fl.pk 20 1), 1] }) := by
  have hlast : b2n (!c.bytes.isEmpty) = if c.bytes.isEmpty then 0 else 1 := by
    cases c.bytes.isEmpty <;> rfl
  simp only [bodyClipStop, hopen, hclip, htodo, hlast, Option.isNone_some, Option.isSome_none, Bool.false_eq_true, if_false]

theorem bodyClipStop_busy {c : Clip} {x : Stream} (hopen : t.openStream fl.pk.fn (pkF fl.pk 16 4) = some x) (hclip : t.namedClip fl.pk = some c)
    (htodo : c.todo.isSome = true) :
    bodyClipStop t fl = ({ t with
      media := { t.media with clips := tput none t.media.clips (pkF fl.pk 20 1) (some { c with stopping := true }) } } : State).setWait fl
        (fun y => { y with wait := .drain (clipKey (pkF fl.pk 20 1)), aux := [clipKey (pkF fl.pk 20 1), 1] }) := by
  simp only [bodyClipStop, hopen, hclip, htodo, Option.isNone_some, Bool.false_eq_true, if_false, if_true]

theorem bodyEncodeKey_ok {c : Clip} {x : Stream} (hopen : t.openStream fl.pk.fn (pkF fl.pk 16 4) = some x) (hclip : t.namedClip fl.pk = some c) :
    bodyEncodeKey t fl = ({ t with
      media := { t.media with clips := tput none t.media.clips (pkF fl.pk 20 1) (some { c with key := true }) } } : State).endPacket fl
        { status := stOk } := by
  simp only [bodyEncodeKey, hopen, hclip, Option.isNone_some, Bool.false_eq_true, if_false, State.endWith]

/-! ### The page packets (R251 to R254) -/

theorem bodyPageSourceOpen_ok {x : Pipeline} (hup : t.pageDown = false) (hwin : dflt (pkF fl.pk 17 1) 8 ≤ 32) (hlow : 2 ≤ dflt (pkF fl.pk 18 1) 16)
    (hhigh : dflt (pkF fl.pk 18 1) 16 ≤ 64) (hrec : pkF fl.pk 19 1 ≤ 1) (hpipe : t.pipeAt fl.pk.fn (pkF fl.pk 16 1) = some x) (hpage : x.page = true)
    (hall : t.media.sources.length < 256) (hmine : (t.media.sources.filter (fun e => e.2.part == fl.pk.fn.val)).length < 64) :
    bodyPageSourceOpen t fl = (t.addSource fl.pk).endPacket fl { status := stOk, c0 := t.media.nextSource } := by
  have hpos : 1 ≤ dflt (pkF fl.pk 17 1) 8 := by
    unfold dflt
    split <;> omega
  have hfields : fieldCheck [(17, decide (1 ≤ dflt (pkF fl.pk 17 1) 8 ∧ dflt (pkF fl.pk 17 1) 8 ≤ 32)),
      (18, decide (2 ≤ dflt (pkF fl.pk 18 1) 16 ∧ dflt (pkF fl.pk 18 1) 16 ≤ 64)), (19, decide (pkF fl.pk 19 1 ≤ 1))] = none :=
    fieldCheck_ok (by simp [hpos, hwin, hlow, hhigh, hrec])
  have hroom : ¬(256 ≤ t.media.sources.length ∨ 64 ≤ (t.media.sources.filter (fun e => e.2.part == fl.pk.fn.val)).length) := by omega
  simp only [bodyPageSourceOpen, hup, hfields, hpipe, hpage, if_neg hroom, Bool.not_true, Bool.false_eq_true, if_false]

theorem State.addSource_facts (t : State) (pk : Packet) : ∃ r, (t.addSource pk).media.sources = t.media.sources ++ [(t.media.nextSource, {
      part := pk.fn, pipeline := pkF pk 16 1, window := dflt (pkF pk 17 1) 8, budgetMult := dflt (pkF pk 18 1) 16, client := r,
      closing := false, completed := 0 })] ∧
    (t.addSource pk).media.nextSource = (t.media.nextSource + 1) % 2 ^ 32 ∧ (pkF pk 19 1 = 0 → r = 0) ∧ (t.addSource pk).mem = t.mem := by
  obtain ⟨hmem, -, -, hzero⟩ := t.clientIf_facts (pkF pk 19 1 = 1) pk.fn 2 t.media.nextSource
  exact ⟨(t.clientIf (pkF pk 19 1 = 1) pk.fn 2 t.media.nextSource).2, rfl, rfl, fun h => hzero (by omega), hmem⟩

/-- The device with a page's buffers taken and the page in flight. -/
def State.pageTaken (t : State) (pk : Packet) (client a b : Nat) : State :=
  let u := (t.takeDevice a).takeDevice b
  { u with media := { u.media with pages := u.media.pages ++ [(t.media.nextPage, pkPage pk client a b)], nextPage := t.media.nextPage + 1 } }

theorem bodySubmitPage_ok {src : Source} {x : Pipeline} {a b : Nat} (hup : t.pageDown = false) (hchecks : t.pageChecks fl.pk = none)
    (hopen : t.openSource fl.pk.fn (pkF fl.pk 16 4) = some src) (hpipe : t.pipeAt fl.pk.fn src.pipeline = some x)
    (hbufs : t.pageBuffers fl.pk.fn (pkF fl.pk 20 4) (pkF fl.pk 36 2 * pkF fl.pk 38 2 * chanCount x.channels) = .ok (a, b)) :
    bodySubmitPage t fl = (t.pageTaken fl.pk src.client a b).dmaRead fl (pkF fl.pk 24 8) (pkF fl.pk 20 4) true [t.media.nextPage] := by
  simp only [bodySubmitPage, hup, hchecks, hopen, Option.bind_some, hpipe, Option.map_some, Option.getD_some, hbufs, Bool.false_eq_true, if_false]
  rfl

theorem bodyPageSourceClose_ok {src : Source} (hopen : t.openSource fl.pk.fn (pkF fl.pk 16 4) = some src) :
    bodyPageSourceClose t fl = ({ t with
      media := { t.media with sources := nmod t.media.sources (pkF fl.pk 16 4) (fun x => { x with closing := true }) } } : State).setWait fl
        (fun y => { y with wait := .drain (sourceKey (pkF fl.pk 16 4)), aux := [sourceKey (pkF fl.pk 16 4), 1] }) := by
  simp only [bodyPageSourceClose, hopen]

end Bodies

/-- Settles O6: the fields pass and the lowest free handle is found, so the pipeline is appended; a pipeline that nothing names is filtered out. -/
theorem pipelinePacketsAnswer : Obligations.PipelinePacketsAnswer := by
  intro s pk
  refine ⟨fun h hrun htrack hup hfields hhandles hmatch hstops hh hfree hlow => ?create, fun x hrun hpipe hstreams hsources => ?destroy⟩
  case create =>
    have hlowest : lowestHandle 16 (fun i => (s.pipeAt pk.fn i).isSome) = some h := lowestHandle_of_first hh (by rw [hfree]; rfl) hlow
    exact ⟨_, (exec_packet_of_runs hrun).trans (congrArg goesOn
      (bodyPipelineCreate_ok htrack hup hfields hhandles hmatch hstops hlowest)), rfl⟩
  case destroy =>
    exact ⟨(s.fetched pk []).withoutPipe pk.fn (pkF pk 16 1), (exec_packet_of_runs hrun).trans (congrArg goesOn
      (bodyPipelineDestroy_ok hpipe hstreams hsources)), State.pipeAt_withoutPipe_same _ _ _,
      fun _ _ hne => State.pipeAt_withoutPipe_other hne, rfl, rfl, rfl⟩

/-- Settles O8: each body's case on the open stream; the lowest free session is of an encoder in service, so CLIP_START is not UNAVAILABLE. -/
theorem encoderPacketsAnswer : Obligations.EncoderPacketsAnswer := by
  intro s pk x hopen
  refine ⟨fun hrun hserves hlow hhigh hwhole hpic hroom => ?snapshot, fun c hrun hfields hfree => ?start, fun c hrun hclip htodo => ?idle,
    fun c hrun hclip htodo => ?busy, fun c hrun hclip => ?key⟩
  case snapshot =>
    exact (exec_packet_of_runs hrun).trans (congrArg goesOn (bodySnapshot_ok hserves hlow hhigh hwhole hopen hpic hroom))
  case start => exact (exec_packet_of_runs hrun).trans (congrArg goesOn (bodyClipStart_ok hfields hopen hfree))
  case idle => exact (exec_packet_of_runs hrun).trans (congrArg goesOn (bodyClipStop_idle hopen hclip htodo))
  case busy => exact (exec_packet_of_runs hrun).trans (congrArg goesOn (bodyClipStop_busy hopen hclip htodo))
  case key => exact (exec_packet_of_runs hrun).trans (congrArg goesOn (bodyEncodeKey_ok hopen hclip))

/-- Settles O9: each body's case with its checks passed; `State.addSource_facts` says what the opened source is. -/
theorem pagePacketsAnswer : Obligations.PagePacketsAnswer := by
  intro s pk
  refine ⟨fun x hrun hup hwin hlow hhigh hrec hpipe hpage hall hmine => ?opened, fun src x a b hrun hup hchecks hopen hpipe hbufs => ?submit,
    fun src hrun hopen => ?close⟩
  case opened =>
    obtain ⟨r, hsources, hnext, hzero, hmem⟩ := (s.fetched pk []).addSource_facts pk
    exact ⟨_, r, (exec_packet_of_runs hrun).trans (congrArg goesOn
      (bodyPageSourceOpen_ok hup hwin hlow hhigh hrec hpipe hpage hall hmine)), hsources, hnext, hzero, hmem⟩
  case submit =>
    exact ⟨(s.fetched pk []).pageTaken pk src.client a b, (exec_packet_of_runs hrun).trans (congrArg goesOn
      (bodySubmitPage_ok hup hchecks hopen hpipe hbufs)), rfl, rfl, rfl, rfl⟩
  case close => exact (exec_packet_of_runs hrun).trans (congrArg goesOn (bodyPageSourceClose_ok hopen))

end Sys2Proof.Machine
end

section
/-! PROOFS. The text packets (R274 to R276, R295 to R298) and the stream packets (R209 to R214, R312): what their bodies do once their checks pass. -/

namespace Sys2Proof.Machine

section Bodies

variable {t : State} {fl : Flight}

/-! ### TEXT_TABLE_LOAD and TEXT_TABLE_UNLOAD (R275, R276, R320) -/

theorem State.packSource_host {kind : Nat} {finish : State → Flight → List Byte → State} (hsrc : pkF fl.pk 16 1 = 0) (hlen : 1 ≤ pkF fl.pk 20 4) :
    t.packSource fl kind finish = t.dmaRead fl (pkF fl.pk 24 8) (pkF fl.pk 20 4) true [] := by
  simp only [State.packSource, if_pos hsrc, if_neg (Nat.ne_of_gt hlen)]

theorem State.packSource_cask {kind : Nat} {finish : State → Flight → List Byte → State} {b : List Byte} (hsrc : pkF fl.pk 16 1 = 1)
    (hcask : t.caskBytes kind (pkF fl.pk 18 2) = .ok b) : t.packSource fl kind finish = finish t fl b := by
  simp only [State.packSource, hsrc, Nat.one_ne_zero, if_false, hcask]

theorem bodyTextTableLoad_ok (hup : t.textDown = false) (hsrc : pkF fl.pk 16 1 ≤ 1) (hkind : pkF fl.pk 17 1 ≤ 1)
    (hslot : (t.tableSlot (pkF fl.pk 17 1)).isSome = true)
    (hroom : t.dramUse fl.pk.fn + t.reserved fl.pk.fn 4 + t.masterBytes fl.pk ≤ 2 ^ 28 * (t.partAt fl.pk.fn).dram) :
    bodyTextTableLoad t fl = t.packSource fl (2 + pkF fl.pk 17 1) finishTable := by
  have hfields : fieldCheck [(16, decide (pkF fl.pk 16 1 ≤ 1)), (17, decide (pkF fl.pk 17 1 ≤ 1))] = none :=
    fieldCheck_ok (by simp [hsrc, hkind])
  have hsome : (t.tableSlot (pkF fl.pk 17 1)).isNone = false := by rw [← Option.not_isSome, hslot]; rfl
  simp only [bodyTextTableLoad, hup, hfields, hsome, if_neg hroom.not_gt, Bool.false_eq_true, if_false]

theorem bodyTextTableUnload_ok {x : TextTable} (hup : t.textDown = false) (hkind : pkF fl.pk 16 1 ≤ 1)
    (htable : t.tableAt (pkF fl.pk 16 1) fl.pk.fn (pkF fl.pk 17 1) = some x)
    (hfree : t.tableUsed (pkF fl.pk 16 1) fl.pk.fn (pkF fl.pk 17 1) = false) :
    bodyTextTableUnload t fl = (t.putTable (pkF fl.pk 16 1) (pkF fl.pk 17 1) none).endPacket fl { status := stOk } := by
  simp only [bodyTextTableUnload, hup, if_neg hkind.not_gt, htable, hfree, Option.isNone_some, Bool.false_eq_true, if_false, State.endWith]

/-! ### Tokenize sessions (R295 to R298, R312) -/

theorem bodyTokenizeOpen_ok {x : TextTable} (hup : t.textDown = false) (hreject : pkF fl.pk 17 1 ≤ 1) (hrec : pkF fl.pk 18 1 ≤ 1)
    (htable : t.tableAt 0 fl.pk.fn (pkF fl.pk 16 1) = some x) (hall : t.text.sessions.length < 64)
    (hmine : (t.text.sessions.filter (fun e => e.2.part == fl.pk.fn.val)).length < 16) :
    bodyTokenizeOpen t fl = (t.addSession fl.pk).endPacket fl { status := stOk, c0 := t.text.nextSession } := by
  have hfields : fieldCheck [(17, decide (pkF fl.pk 17 1 ≤ 1)), (18, decide (pkF fl.pk 18 1 ≤ 1))] = none :=
    fieldCheck_ok (by simp [hreject, hrec])
  have hroom : ¬(64 ≤ t.text.sessions.length ∨ 16 ≤ (t.text.sessions.filter (fun e => e.2.part == fl.pk.fn.val)).length) := by omega
  simp only [bodyTokenizeOpen, hup, hfields, htable, if_neg hroom, Option.isNone_some, Bool.false_eq_true, if_false]

theorem State.addSession_facts (t : State) (pk : Packet) : ∃ r, (t.addSession pk).text.sessions = t.text.sessions ++ [(t.text.nextSession, {
      part := pk.fn, vocab := pkF pk 16 1, reject := decide (pkF pk 17 1 = 1), client := r, failed := false, held := [],
      partialChar := [], consumed := 0 })] ∧
    (t.addSession pk).text.nextSession = (t.text.nextSession + 1) % 2 ^ 32 ∧ (pkF pk 18 1 = 0 → r = 0) ∧ (t.addSession pk).mem = t.mem := by
  obtain ⟨hmem, -, -, hzero⟩ := t.clientIf_facts (pkF pk 18 1 = 1) pk.fn 3 t.text.nextSession
  exact ⟨(t.clientIf (pkF pk 18 1 = 1) pk.fn 3 t.text.nextSession).2, rfl, rfl, fun h => hzero (by omega), hmem⟩

theorem bodyTokenizeFeed_turn (hup : t.textDown = false) (hfin : pkF fl.pk 44 1 ≤ 1) (hlen : pkF fl.pk 20 4 ≤ 1048576)
    (hout : pkF fl.pk 20 4 + 259 ≤ pkF fl.pk 40 4) (hidle : t.sessionBusy fl = false) : bodyTokenizeFeed t fl = startTokenize t fl := by
  have hlong : ¬(1048576 < pkF fl.pk 20 4 ∨ pkF fl.pk 40 4 < pkF fl.pk 20 4 + 259) := by omega
  simp only [bodyTokenizeFeed, hup, if_neg hfin.not_gt, if_neg hlong, hidle, Bool.false_eq_true, if_false]

theorem bodyTokenizeFeed_busy (hup : t.textDown = false) (hfin : pkF fl.pk 44 1 ≤ 1) (hlen : pkF fl.pk 20 4 ≤ 1048576)
    (hout : pkF fl.pk 20 4 + 259 ≤ pkF fl.pk 40 4) (hbusy : t.sessionBusy fl = true) :
    bodyTokenizeFeed t fl = t.setWait fl (fun x => { x with wait := .drain (sessionKey (pkF fl.pk 16 4)) }) := by
  have hlong : ¬(1048576 < pkF fl.pk 20 4 ∨ pkF fl.pk 40 4 < pkF fl.pk 20 4 + 259) := by omega
  simp only [bodyTokenizeFeed, hup, if_neg hfin.not_gt, if_neg hlong, hbusy, Bool.false_eq_true, if_false, if_true]

section Session

variable {x : Session} (hsession : t.sessionAt fl.pk.fn (pkF fl.pk 16 4) = some x)
include hsession

theorem startTokenize_reads (hlive : x.failed = false) (hlow : 1 ≤ pkF fl.pk 20 4) (hsum : x.consumed + pkF fl.pk 20 4 ≤ 4294967295) :
    startTokenize t fl = t.dmaRead fl (pkF fl.pk 24 8) (pkF fl.pk 20 4) true [0] := by
  simp only [startTokenize, hsession, hlive, if_neg hsum.not_gt, if_neg (Nat.ne_of_gt hlow), Bool.false_eq_true, if_false]

theorem startTokenize_empty (hlive : x.failed = false) (hzero : pkF fl.pk 20 4 = 0) (hsum : x.consumed ≤ 4294967295) :
    startTokenize t fl = finishTokenize t fl [] := by
  simp only [startTokenize, hsession, hlive, hzero, Nat.add_zero, if_neg hsum.not_gt, Bool.false_eq_true, if_false, if_true]

theorem bodyTokenizeClose_turn (hup : t.textDown = false) (hidle : t.sessionBusy fl = false) :
    bodyTokenizeClose t fl = (({ t with text := { t.text with sessions := ndel t.text.sessions (pkF fl.pk 16 4) } } : State).dropClient
      x.client).endPacket fl { status := stOk, c0 := x.held.length + x.partialChar.length } := by
  simp only [bodyTokenizeClose, hup, hidle, startTokenizeClose, hsession, Bool.false_eq_true, if_false]

end Session

theorem bodyTokenizeClose_busy (hup : t.textDown = false) (hbusy : t.sessionBusy fl = true) :
    bodyTokenizeClose t fl = t.setWait fl (fun x => { x with wait := .drain (sessionKey (pkF fl.pk 16 4)) }) := by
  simp only [bodyTokenizeClose, hup, hbusy, Bool.false_eq_true, if_false, if_true]

/-! ### STREAM_OPEN (R209, R211, R212, R214) -/

theorem bodyStreamOpen_ok {pipe : Pipeline} {k n a : Nat} (hclusters : (List.range 4).any t.clusterServes = true) (htrack : t.trackers ≠ [])
    (hflags : pkF fl.pk 31 1 < 64) (hranges : streamRanges (pkStream fl.pk) = true) (hpipe : t.pipeAt fl.pk.fn (pkF fl.pk 19 1) = some pipe)
    (hpage : pipe.page = false) (hcluster : t.pickCluster = some k) (htracker : t.pickTracker = some n)
    (hall : (t.media.streams.filter (fun e => decide (e.2.st ≠ .closed))).length < 1024)
    (hroom : t.dramUse fl.pk.fn + t.reserved fl.pk.fn 4 + (pkStream fl.pk).refBytes ≤ 2 ^ 28 * (t.partAt fl.pk.fn).dram)
    (hplace : t.dramPlace fl.pk.fn (pkStream fl.pk).refBytes = some a) :
    bodyStreamOpen t fl = (t.addStream fl.pk k n a).endPacket fl { status := stOk, c0 := t.media.nextStream } := by
  have hserves : ¬((!(List.range 4).any t.clusterServes) = true ∨ t.trackers = []) := by simp [hclusters, htrack]
  have hfound : t.pipeAt fl.pk.fn (pkStream fl.pk).pipeline = some pipe := hpipe
  simp only [bodyStreamOpen, if_neg hserves, if_neg hflags.not_ge, hranges, hfound, hpage, hcluster, htracker, if_neg hall.not_ge,
    if_neg hroom.not_gt, hplace, Bool.true_eq_false, Bool.false_eq_true, if_false]

theorem State.addStream_facts (t : State) (pk : Packet) (k n a : Nat) : ∃ r,
    (t.addStream pk k n a).media.streams =
      t.media.streams ++ [(t.media.nextStream, { pkStream pk with client := r, cluster := k, tp := n, refAddr := a })] ∧
    (t.addStream pk k n a).media.nextStream = (t.media.nextStream + 1) % 2 ^ 32 ∧ (bitOf (pkF pk 31 1) 5 = false → r = 0) ∧
    (t.addStream pk k n a).mem = t.mem := by
  obtain ⟨hmem, -, -, hzero⟩ := t.clientIf_facts (bitOf (pkF pk 31 1) 5 = true) pk.fn 1 t.media.nextStream
  exact ⟨(t.clientIf (bitOf (pkF pk 31 1) 5 = true) pk.fn 1 t.media.nextStream).2, rfl, rfl, fun h => hzero (by rw [h]; decide), hmem⟩

/-! ### The packets of an open stream (R210, R213, R312) -/

section OpenStream

variable {x : Stream} (hopen : t.openStream fl.pk.fn (pkF fl.pk 16 4) = some x)
include hopen

theorem bodyFeed_turn {k : Nat} (hlow : 1 ≤ pkF fl.pk 20 4) (hhigh : pkF fl.pk 20 4 ≤ 67108864)
    (hends : t.streamBusy fl (fun o => isReset o || isClose o) = false) (hflush : t.streamBusy fl isFlush = false)
    (hfree : t.freeBuf fl.pk.fn (binFor (pkF fl.pk 20 4)) = some k) :
    bodyFeed t fl = ((t.takeDevice k).setStream (pkF fl.pk 16 4) (fun y => { y with
      feeds := y.feeds ++ [{ id := fl.id, buf := k, len := pkF fl.pk 20 4, pts := pkF fl.pk 32 8, here := false, taken := false }] })).dmaRead fl
        (pkF fl.pk 24 8) (pkF fl.pk 20 4) true [k] := by
  have hrange : ¬(pkF fl.pk 20 4 = 0 ∨ 67108864 < pkF fl.pk 20 4) := by omega
  simp only [bodyFeed, if_neg hrange, hopen, hends, hflush, Option.isNone_some, Bool.false_eq_true, or_self, if_false, startFeed,
    State.binPick_of_free hhigh hfree]

theorem bodyFeed_flushing (hlow : 1 ≤ pkF fl.pk 20 4) (hhigh : pkF fl.pk 20 4 ≤ 67108864)
    (hends : t.streamBusy fl (fun o => isReset o || isClose o) = false) (hflush : t.streamBusy fl isFlush = true) :
    bodyFeed t fl = t.setWait fl (fun y => { y with wait := .drain (streamKey (pkF fl.pk 16 4)) }) := by
  have hrange : ¬(pkF fl.pk 20 4 = 0 ∨ 67108864 < pkF fl.pk 20 4) := by omega
  simp only [bodyFeed, if_neg hrange, hopen, hends, hflush, Option.isNone_some, Bool.false_eq_true, or_self, if_false, if_true]

section Ends

variable (hclose : t.streamBusy fl isClose = false) (hturn : t.streamBusy fl (fun o => isFeed o || isFlush o || isReset o) = false)
include hclose hturn

/-- A flush, and a close with DRAIN, whose turn has come. -/
theorem bodyStreamEnd_drains (h : fl.pk.opcode = 0x0303 ∨ (fl.pk.opcode = 0x0305 ∧ pkF fl.pk 20 1 = 1)) :
    bodyStreamEnd t fl = ((t.setStream (pkF fl.pk 16 4) (fun y => { y with st := .flushing, back := y.st, flushed := 0 })).setWait fl
      (fun y => { y with wait := .drain (streamKey (pkF fl.pk 16 4)), aux := [streamKey (pkF fl.pk 16 4), 1] })).flushBatches
        x.part x.pipeline (pkF fl.pk 16 4) := by
  have hfield : ¬(isClose fl.pk.opcode = true ∧ 1 < pkF fl.pk 20 1) := by
    rcases h with h | ⟨h, hdrain⟩
    · rw [h]; exact fun hc => absurd hc.1 (by decide)
    · omega
  have hdrains : isFlush fl.pk.opcode = true ∨ (isClose fl.pk.opcode = true ∧ pkF fl.pk 20 1 = 1) := by
    rcases h with h | ⟨h, hdrain⟩
    · rw [h]; exact Or.inl (by decide)
    · rw [h]; exact Or.inr ⟨by decide, hdrain⟩
  simp only [bodyStreamEnd, if_neg hfield, hopen, hclose, hturn, if_pos hdrains, Option.isNone_some, Bool.false_eq_true, or_self, if_false, startFlush]

theorem bodyStreamEnd_resets (h : fl.pk.opcode = 0x0304) :
    bodyStreamEnd t fl = (t.resetStream (pkF fl.pk 16 4) 1).endPacket fl { status := stOk, c0 := x.toDiscard } := by
  have hflush : isFlush 0x0304 = false := by decide
  have hshut : isClose 0x0304 = false := by decide
  simp only [bodyStreamEnd, h, hflush, hshut, hopen, hclose, hturn, Option.isNone_some, Bool.false_eq_true, false_and, or_self, if_false, startReset]

theorem bodyStreamEnd_closes (h : fl.pk.opcode = 0x0305) (hdrain : pkF fl.pk 20 1 = 0) :
    bodyStreamEnd t fl = ((t.resetStream (pkF fl.pk 16 4) 2).closeStream (pkF fl.pk 16 4)).endPacket fl { status := stOk } := by
  have hflush : isFlush 0x0305 = false := by decide
  have hshut : isClose 0x0305 = true := by decide
  simp only [bodyStreamEnd, h, hdrain, hflush, hshut, hopen, hclose, hturn, Option.isNone_some, Bool.false_eq_true, Nat.not_lt_zero,
    Nat.zero_ne_one, and_false, or_self, if_false, if_true, startReset, State.endWith]

end Ends

end OpenStream

end Bodies

/-- Settles O10: each body's case with its checks passed; a session's packet that must wait does so, one whose turn has come starts. -/
theorem textPacketsAnswer : Obligations.TextPacketsAnswer := by
  intro s pk hup
  refine ⟨fun hrun hsrc hkind hlen hslot hroom => ?load, fun b hrun hsrc hkind hcask hslot hroom => ?cask,
    fun x hrun hkind htable hfree => ?unload, fun x hrun hreject hrec htable hall hmine => ?opened,
    fun x hsession hidle => ⟨fun hrun hfin hlow hhigh hout hlive hsum => ?reads, fun hrun hfin hzero hout hlive hsum => ?empty, fun hrun => ?close⟩,
    fun hbusy => ⟨fun hrun hfin hhigh hout => ?feedWaits, fun hrun => ?closeWaits⟩⟩
  case load =>
    refine (exec_packet_of_runs (body := bodyTextTableLoad) hrun).trans (congrArg goesOn ?_)
    exact Eq.trans (bodyTextTableLoad_ok hup (hsrc.trans_le (Nat.zero_le 1)) hkind hslot hroom)
      (State.packSource_host hsrc hlen)
  case cask =>
    refine (exec_packet_of_runs (body := bodyTextTableLoad) hrun).trans (congrArg goesOn ?_)
    exact Eq.trans (bodyTextTableLoad_ok hup hsrc.le hkind hslot hroom) (State.packSource_cask hsrc hcask)
  case unload => exact (exec_packet_of_runs hrun).trans (congrArg goesOn (bodyTextTableUnload_ok hup hkind htable hfree))
  case opened =>
    obtain ⟨r, hsessions, hnext, hzero, hmem⟩ := (s.fetched pk []).addSession_facts pk
    exact ⟨_, r, (exec_packet_of_runs hrun).trans (congrArg goesOn (bodyTokenizeOpen_ok hup hreject hrec htable hall hmine)), hsessions, hnext,
      hzero, hmem⟩
  case reads =>
    refine (exec_packet_of_runs (body := bodyTokenizeFeed) hrun).trans (congrArg goesOn ?_)
    exact Eq.trans (bodyTokenizeFeed_turn hup hfin hhigh hout hidle) (startTokenize_reads hsession hlive hlow hsum)
  case empty =>
    refine (exec_packet_of_runs (body := bodyTokenizeFeed) hrun).trans (congrArg goesOn ?_)
    have hlen : pkF pk 20 4 ≤ 1048576 := by omega
    have hspace : pkF pk 20 4 + 259 ≤ pkF pk 40 4 := by omega
    exact Eq.trans (bodyTokenizeFeed_turn hup hfin hlen hspace hidle) (startTokenize_empty hsession hlive hzero hsum)
  case close => exact (exec_packet_of_runs hrun).trans (congrArg goesOn (bodyTokenizeClose_turn hsession hup hidle))
  case feedWaits => exact (exec_packet_of_runs hrun).trans (congrArg goesOn (bodyTokenizeFeed_busy hup hfin hhigh hout hbusy))
  case closeWaits => exact (exec_packet_of_runs hrun).trans (congrArg goesOn (bodyTokenizeClose_busy hup hbusy))

/-- Settles O7: each body's case with its checks passed; a flush and a draining close begin alike, a reset and a close without DRAIN discard. -/
theorem streamPacketsAnswer : Obligations.StreamPacketsAnswer := by
  refine ⟨fun s pk pipe k t a hrun hclusters htrack hflags hranges hpipe hpage hcluster htracker hall hroom hplace => ?opened,
    fun s pk x hopen => ⟨fun k hrun hlow hhigh hends hflush hfree => ?feed, fun hrun hlow hhigh hends hflush => ?waits,
      fun hclose hturn => ⟨fun hrun => ?flush, fun hrun => ?reset, fun hrun hdrain => ?close, fun hrun hdrain => ?drain⟩⟩⟩
  case opened =>
    obtain ⟨r, hstreams, hnext, hzero, hmem⟩ := (s.fetched pk []).addStream_facts pk k t a
    exact ⟨_, r, (exec_packet_of_runs hrun).trans (congrArg goesOn
      (bodyStreamOpen_ok hclusters htrack hflags hranges hpipe hpage hcluster htracker hall hroom
        hplace)), hstreams, hnext, hzero, hmem⟩
  case feed => exact (exec_packet_of_runs hrun).trans (congrArg goesOn (bodyFeed_turn hopen hlow hhigh hends hflush hfree))
  case waits => exact (exec_packet_of_runs hrun).trans (congrArg goesOn (bodyFeed_flushing hopen hlow hhigh hends hflush))
  case flush =>
    exact (exec_packet_of_runs (body := bodyStreamFlush) hrun).trans (congrArg goesOn (bodyStreamEnd_drains hopen hclose hturn (Or.inl hrun.1)))
  case reset =>
    exact (exec_packet_of_runs (body := bodyStreamReset) hrun).trans (congrArg goesOn (bodyStreamEnd_resets hopen hclose hturn hrun.1))
  case close =>
    exact (exec_packet_of_runs (body := bodyStreamClose) hrun).trans (congrArg goesOn (bodyStreamEnd_closes hopen hclose hturn hrun.1 hdrain))
  case drain =>
    exact (exec_packet_of_runs (body := bodyStreamClose) hrun).trans (congrArg goesOn
      (bodyStreamEnd_drains hopen hclose hturn (Or.inr ⟨hrun.1, hdrain⟩)))

end Sys2Proof.Machine
end

section
/-! PROOFS. The folio packets (R170, R172, R175, R317, R320): FOLIO_LOAD's source, a folio's loading, and FOLIO_UNLOAD. -/

namespace Sys2Proof.Machine

section Bodies

variable {t : State} {fl : Flight}

/-! ### FOLIO_LOAD and FOLIO_UNLOAD (R317, R320) -/

theorem bodyFolioLoad_ok (hsrc : pkF fl.pk 16 1 ≤ 1) (hfree : ∃ h, h < 16 ∧ t.folioAt fl.pk.fn h = none) :
    bodyFolioLoad t fl = t.packSource fl 1 finishFolio := by
  have hhandle : (lowestHandle 16 (fun h => (t.folioAt fl.pk.fn h).isSome)).isNone = false := by
    obtain ⟨h, hh, hnone⟩ := hfree
    rw [Option.isNone_eq_false_iff, Option.isSome_iff_ne_none]
    exact lowestHandle_ne_none ⟨h, hh, by rw [hnone]; rfl⟩
  simp only [bodyFolioLoad, if_neg hsrc.not_gt, hhandle, Bool.false_eq_true, if_false]

/-- The device without a partition's folio h and its tensors. -/
def State.withoutFolio (t : State) (p h : Nat) : State :=
  let s := t.freeTensors (fun x => x.part == p && x.folio == h)
  { s with cel := { s.cel with folios := s.cel.folios.filter (fun f => !(f.part == p && f.handle == h)) } }

theorem bodyFolioUnload_ok {f : Folio} (hfolio : t.folioAt fl.pk.fn (pkF fl.pk 16 1) = some f)
    (hunused : t.media.pipelines.all (fun x => !(x.part == fl.pk.fn.val && x.folios.contains (pkF fl.pk 16 1))) = true) :
    bodyFolioUnload t fl = (t.withoutFolio fl.pk.fn (pkF fl.pk 16 1)).endPacket fl { status := stOk } := by
  have hnone : t.media.pipelines.find? (fun x => x.part == fl.pk.fn.val && x.folios.contains (pkF fl.pk 16 1)) = none :=
    List.find?_eq_none.mpr fun x hx => by
      rw [Bool.not_eq_true, ← Bool.not_eq_true']
      exact List.all_eq_true.mp hunused x hx
  simp only [bodyFolioUnload, hfolio, hnone]
  rfl

theorem State.withoutFolio_folios (t : State) (p h : Nat) :
    (t.withoutFolio p h).cel.folios = t.cel.folios.filter (fun f => !(f.part == p && f.handle == h)) := by
  have hfolios : (t.freeTensors (fun x => x.part == p && x.folio == h)).cel.folios = t.cel.folios :=
    congrArg (fun x => x.1.2.2.2) (t.freeTensors_aside _)
  exact congrArg (List.filter _) hfolios

theorem State.folioAt_withoutFolio_same (t : State) (p h : Nat) : (t.withoutFolio p h).folioAt p h = none := by
  rw [State.folioAt, State.withoutFolio_folios]
  exact find?_filter_not _ _

theorem State.folioAt_withoutFolio_other {p h p' h' : Nat} (hne : ¬(p' = p ∧ h' = h)) :
    (t.withoutFolio p h).folioAt p' h' = t.folioAt p' h' := by
  rw [State.folioAt, State.withoutFolio_folios]
  exact find?_filter_of_imp fun _ hx => at_other hne hx

end Bodies

/-! ### Writes and the Cellarer's tables -/

/-- A write does not look at the Cellarer's tables. -/
theorem State.writeMem_withCel (s : State) (c : Cel) (a : Nat) (bs : List Byte) :
    ({ s with cel := c } : State).writeMem a bs = { s.writeMem a bs with cel := c } := by
  unfold State.writeMem
  generalize granules (bs.length / 256 + 2) a bs = l
  induction l generalizing s with
  | nil => rfl
  | cons g l ih =>
    have hraw : ({ s with cel := c } : State).writeRaw g.1 g.2 = { s.writeRaw g.1 g.2 with cel := c } := by
      have hsame : ({ s with cel := c } : State).failedAt g.1 = s.failedAt g.1 := rfl
      simp only [State.writeRaw, hsame]
      split <;> rfl
    rw [List.foldl_cons, hraw, ih]
    rfl

/-- A write outside the Cellarer's own moves looks at the tensors alone of its tables. -/
theorem State.writeOutside_mem_of_tensors {s : State} {c : Cel} (h : c.tensors = s.cel.tensors) (a : Nat) (bs : List Byte) :
    (({ s with cel := c } : State).writeOutside a bs).mem = (s.writeOutside a bs).mem := by
  have hzero : ({ s with cel := c } : State).zeroAfter a bs.length = s.zeroAfter a bs.length := by
    unfold State.zeroAfter
    rw [h]
  simp only [State.writeOutside, hzero, State.writeMem_withCel]

/-! ### Making the masters of a folio's constants (R175) -/

theorem State.foldl_newTensor (s : State) (l : List Tensor) :
    (l.foldl State.newTensor s).aside = s.aside ∧ (l.foldl State.newTensor s).mem = s.mem ∧
    (l.foldl State.newTensor s).cel.tensors.map (·.2) = s.cel.tensors.map (·.2) ++ l := by
  induction l generalizing s with
  | nil => exact ⟨rfl, rfl, (List.append_nil _).symm⟩
  | cons t l ih =>
    obtain ⟨haside, hmem, htensors⟩ := ih (s.newTensor t)
    refine ⟨haside.trans rfl, hmem.trans rfl, htensors.trans ?_⟩
    simp [State.newTensor]

/-! ### The cellar copies of SHARED constants (R175) -/

theorem State.aside_beside : BesideMoves State.aside where
  mem _ _ := rfl
  core _ _ _ := rfl
  charge := State.charge_aside
  racked _ _ := rfl

theorem State.newTensor_aside (s : State) (t : Tensor) : (s.newTensor t).aside = s.aside := rfl

theorem State.landMove_aside (s : State) (k : Nat) : (s.landMove k).aside = s.aside := by
  cases ht : s.tensorAt k with
  | none => simp only [State.landMove, ht]
  | some t =>
    cases hmove : t.move with
    | none => simp only [State.landMove, ht, hmove]
    | some m =>
      unfold State.landMove
      simp -zeta only [ht, hmove]
      extract_lets n put bits set fit
      have hbits : bits.aside = s.aside := (ite_same State.aside (State.copyBits_beside State.aside_beside _ _ _) rfl).trans
        ((State.chargeMove_beside State.aside_beside _ _ _ _ _ _).trans (s.putTensor_beside State.aside_beside _ _ _))
      have hset : set.aside = bits.aside := by
        subst set
        clear_value bits
        rfl
      have hfit : fit.aside = set.aside := by
        subst fit
        split
        · exact State.fitBits_beside State.aside_beside _ _ _
        · rfl
      refine Eq.trans ?_ (hfit.trans (hset.trans hbits))
      clear_value fit
      split
      · exact ite_same State.aside rfl rfl
      · rfl

/-- A state that keeps the loaded folios, and a partition OPEN, while copies are made. -/
def State.KeepsLoading (s u : State) (p : Nat) : Prop := u.cel.folios = s.cel.folios ∧ ((s.partAt p).st = .opened → (u.partAt p).st = .opened)

theorem State.KeepsLoading.trans {s u v : State} {p : Nat} (h : s.KeepsLoading u p) (h' : u.KeepsLoading v p) : s.KeepsLoading v p :=
  ⟨h'.1.trans h.1, fun hst => h'.2 (h.2 hst)⟩

theorem State.KeepsLoading.of_aside {s u : State} {p : Nat} (h : u.aside = s.aside) : s.KeepsLoading u p := by
  have hpart : u.cel.part = s.cel.part := congrArg (fun x => x.1.2.1) h
  have hfolios : u.cel.folios = s.cel.folios := congrArg (fun x => x.1.2.2.2) h
  exact ⟨hfolios, fun hst => by rw [State.partAt, hpart]; exact hst⟩

/-- A partition that is not FREE reads as it was written. -/
theorem State.partAt_setPart_of_used {s : State} {p : Nat} {g : Part → Part} (h : (g (s.partAt p)).st ≠ .free) :
    (s.setPart p g).partAt p = g (s.partAt p) :=
  tget_tput_ne _ _ _ _ fun hdef => h (congrArg Part.st hdef)

theorem State.spend_keepsLoading (s : State) (p b n : Nat) : s.KeepsLoading (s.spend p b n).1 p := by
  unfold State.spend
  extract_lets q rate had want _ t
  split
  · exact .of_aside rfl
  · split
    · refine ⟨rfl, fun hst => ?_⟩
      have hopen : ({ t.partAt p with throttle := satAdd 32 (t.partAt p).throttle 1 } : Part).st = .opened := hst
      rw [State.partAt_setPart_of_used (by rw [hopen]; decide)]
      exact hopen
    · exact .of_aside rfl

theorem State.spendAll_keepsLoading (s : State) (p : Nat) (l : List (Nat × Nat)) : s.KeepsLoading (s.spendAll p l).1 p :=
  List.foldlRecOn (motive := fun x : State × Tbl Nat => s.KeepsLoading x.1 p) _ _ (.of_aside rfl) fun x hx e _ =>
    hx.trans (x.1.spend_keepsLoading p e.1 e.2)

theorem State.shareCopy_keepsLoading (s : State) (t : Tensor) : s.KeepsLoading (s.shareCopy t) t.part := by
  unfold State.shareCopy
  extract_lets d
  split
  · split
    · exact .of_aside rfl
    · next b _ =>
      have hspent : s.KeepsLoading (s.regulate t .cellar b d.homeBytes).1 t.part := s.spendAll_keepsLoading _ _
      exact hspent.trans (.of_aside ((State.landMove_aside _ _).trans (State.newTensor_aside _ _)))
  · exact .of_aside rfl

/-- A constant that is not SHARED has no copy in the cellar store. -/
theorem State.shareCopy_of_unshared {s : State} {t : Tensor} (h : bitOf (s.declOf t).hints 1 = false) : s.shareCopy t = s := by
  simp only [State.shareCopy, h, Bool.false_and, Bool.false_eq_true, if_false]

/-! ### A folio loaded (R170, R175) -/

/-- What a folio's masters are: of its partition, under its handle, each of one of its declarations. -/
theorem mem_masterTensors {p h a : Nat} {img : List Byte} {t : Tensor} (ht : t ∈ masterTensors p h a img) :
    t.part = p ∧ t.folio = h ∧ t.tid < fTensors img := by
  obtain ⟨i, hi, hsome⟩ := List.mem_filterMap.mp ht
  dsimp only at hsome
  split at hsome
  · rw [← Option.some.inj hsome]
    exact ⟨rfl, rfl, List.mem_range.mp hi⟩
  · exact absurd hsome.symm (Option.some_ne_none t)

/-- The device with a folio under handle h, its image at an address, and the masters of its constants. -/
def State.withFolio (s : State) (p h a : Nat) (img : List Byte) : State :=
  (masterTensors p h a img).foldl State.newTensor (State.writeOutside { s with cel := { s.cel with
    folios := s.cel.folios ++ [{ part := p, handle := h, image := img, addr := a }] } } a img)

/-- The device with that folio loaded: SHARED constants copied, an OPEN partition running. -/
def State.folioLoaded (s : State) (p h a : Nat) (img : List Byte) : State :=
  ((masterTensors p h a img).foldl State.shareCopy (s.withFolio p h a img)).setPart p
    (fun q => if q.st = .opened then { q with st := .running } else q)

theorem State.placeFolio_ok {s : State} {fl : Flight} {img : List Byte} {h a : Nat} (hover : s.folioOver fl.pk.fn img = false)
    (hh : lowestHandle 16 (fun h => (s.folioAt fl.pk.fn h).isSome) = some h) (ha : s.dramPlace fl.pk.fn img.length = some a) :
    s.placeFolio fl img = (s.folioLoaded fl.pk.fn h a img).endPacket fl { status := stOk, c0 := h } := by
  simp only [State.placeFolio, hover, hh, ha, Bool.false_eq_true, if_false]
  rfl

theorem State.withFolio_facts (s : State) (p h a : Nat) (img : List Byte) :
    (s.withFolio p h a img).cel.folios = s.cel.folios ++ [{ part := p, handle := h, image := img, addr := a }] ∧
    (s.withFolio p h a img).cel.part = s.cel.part ∧ (s.withFolio p h a img).mem = (s.writeOutside a img).mem ∧
    (s.withFolio p h a img).cel.tensors.map (·.2) = s.cel.tensors.map (·.2) ++ masterTensors p h a img := by
  obtain ⟨haside, hmem, htensors⟩ := State.foldl_newTensor (State.writeOutside { s with cel := { s.cel with
    folios := s.cel.folios ++ [{ part := p, handle := h, image := img, addr := a }] } } a img) (masterTensors p h a img)
  have hframe := State.writeOutside_frame { s with cel := { s.cel with
    folios := s.cel.folios ++ [{ part := p, handle := h, image := img, addr := a }] } } a img
  refine ⟨?folios, ?part, hmem.trans (State.writeOutside_mem_of_tensors (s := s) (by rfl) a img), htensors.trans ?tensors⟩
  case folios => exact (congrArg (fun x => x.1.2.2.2) haside).trans (by rw [hframe])
  case part => exact (congrArg (fun x => x.1.2.1) haside).trans (by rw [hframe])
  case tensors => rw [hframe]

theorem State.foldl_shareCopy_keepsLoading {p : Nat} {l : List Tensor} (hl : ∀ t ∈ l, t.part = p) (s : State) :
    s.KeepsLoading (l.foldl State.shareCopy s) p :=
  List.foldlRecOn (motive := fun u : State => s.KeepsLoading u p) _ _ (.of_aside rfl) fun u hu t ht =>
    hu.trans (hl t ht ▸ u.shareCopy_keepsLoading t)

/-- Where no constant of a folio is SHARED, its masters are all that its loading makes. -/
theorem State.foldl_shareCopy_of_unshared {s : State} {p h a : Nat} {img : List Byte} (hnew : s.folioAt p h = none)
    (hunshared : ∀ i, i < fTensors img → bitOf (tdecl img i).hints 1 = false) :
    (masterTensors p h a img).foldl State.shareCopy (s.withFolio p h a img) = s.withFolio p h a img := by
  have himage : (s.withFolio p h a img).imageOf p h = img := by
    rw [State.imageOf, State.folioAt, (s.withFolio_facts p h a img).1, List.find?_append]
    rw [State.folioAt] at hnew
    simp [hnew]
  refine List.foldlRecOn (motive := fun u : State => u = s.withFolio p h a img) _ _ rfl fun u hu t ht => ?_
  obtain ⟨hpart, hfolio, htid⟩ := mem_masterTensors ht
  subst hu
  refine State.shareCopy_of_unshared ?_
  rw [State.declOf, hpart, hfolio, himage]
  exact hunshared _ htid

theorem State.folioLoaded_facts (s : State) (p h a : Nat) (img : List Byte) :
    (s.folioLoaded p h a img).cel.folios = s.cel.folios ++ [{ part := p, handle := h, image := img, addr := a }] ∧
    ((s.partAt p).st = .opened → ((s.folioLoaded p h a img).partAt p).st = .running) := by
  obtain ⟨hfolios, hpart, -, -⟩ := s.withFolio_facts p h a img
  have hkeeps := State.foldl_shareCopy_keepsLoading (fun t ht => (mem_masterTensors ht).1) (s.withFolio p h a img) (l := masterTensors p h a img)
  refine ⟨hkeeps.1.trans hfolios, fun hst => ?_⟩
  have hopen := hkeeps.2 (by rw [State.partAt, hpart]; exact hst)
  rw [State.folioLoaded, State.partAt_setPart_of_used (by rw [if_pos hopen]; exact (by decide : PartState.running ≠ .free)), if_pos hopen]

theorem State.folioLoaded_of_unshared {s : State} {p h a : Nat} {img : List Byte} (hnew : s.folioAt p h = none)
    (hunshared : ∀ i, i < fTensors img → bitOf (tdecl img i).hints 1 = false) :
    ((s.partAt p).st ≠ .opened → (s.partAt p).st ≠ .free → (s.folioLoaded p h a img).partAt p = s.partAt p) ∧
    (s.folioLoaded p h a img).mem = (s.writeOutside a img).mem ∧
    (s.folioLoaded p h a img).cel.tensors.map (·.2) = s.cel.tensors.map (·.2) ++ masterTensors p h a img := by
  obtain ⟨-, hpart, hmem, htensors⟩ := s.withFolio_facts p h a img
  rw [State.folioLoaded, State.foldl_shareCopy_of_unshared hnew hunshared]
  refine ⟨fun hst hused => ?_, hmem, htensors⟩
  have hsame : (s.withFolio p h a img).partAt p = s.partAt p := by rw [State.partAt, hpart, State.partAt]
  rw [State.partAt_setPart_of_used (by rw [hsame, if_neg hst]; exact hused), hsame, if_neg hst]

/-- Settles O5: a pack comes from its source; a folio that fits is appended with its masters, the copies of SHARED constants leave the folios and the partition's state. -/
theorem folioPacketsAnswer : Obligations.FolioPacketsAnswer := by
  refine ⟨fun s pk => ⟨fun hrun hsrc hlen hfree => ?host, fun b hrun hsrc hcask hfree => ?cask, fun f hrun hfolio hunused => ?unload⟩,
    fun s fl img h a hover hh hnew hlow hplace => ?place⟩
  case host =>
    refine (exec_packet_of_runs (body := bodyFolioLoad) hrun).trans (congrArg goesOn ?_)
    exact Eq.trans (bodyFolioLoad_ok (hsrc.trans_le (Nat.zero_le 1)) hfree) (State.packSource_host hsrc hlen)
  case cask =>
    refine (exec_packet_of_runs (body := bodyFolioLoad) hrun).trans (congrArg goesOn ?_)
    exact Eq.trans (bodyFolioLoad_ok hsrc.le hfree) (State.packSource_cask hsrc hcask)
  case unload =>
    exact ⟨(s.fetched pk []).withoutFolio pk.fn (pkF pk 16 1), (exec_packet_of_runs hrun).trans (congrArg goesOn (bodyFolioUnload_ok hfolio hunused)),
      State.folioAt_withoutFolio_same _ _ _, fun _ _ hne => State.folioAt_withoutFolio_other hne⟩
  case place =>
    have hlowest : lowestHandle 16 (fun h => (s.folioAt fl.pk.fn h).isSome) = some h := lowestHandle_of_first hh (by rw [hnew]; rfl) hlow
    obtain ⟨hfolios, hrunning⟩ := s.folioLoaded_facts fl.pk.fn h a img
    exact ⟨_, State.placeFolio_ok hover hlowest hplace, hfolios, hrunning, State.folioLoaded_of_unshared hnew⟩

end Sys2Proof.Machine
end

section
/-! PROOFS. The partition packets (R169 to R172, R192, R319): PARTITION_CREATE, PARTITION_RESIZE and PARTITION_DESTROY. -/

namespace Sys2Proof.Machine

variable {t : State} {fl : Flight}

/-! ### PARTITION_CREATE (R169 to R171, R319) -/

/-- A packet's partition is one of the eight where its fields are in range. -/
theorem partChecks_range {pk : Packet} (h : partChecks pk = none) : 1 ≤ pkF pk 16 1 ∧ pkF pk 16 1 ≤ 8 := by
  have hall := List.find?_eq_none.mp (Option.map_eq_none_iff.mp h) (16, decide (1 ≤ pkF pk 16 1 ∧ pkF pk 16 1 ≤ 8)) (List.mem_cons_self ..)
  simp only [Bool.not_eq_true', decide_eq_false_iff_not, not_not] at hall
  exact hall

/-- The record of the partition that a PARTITION_CREATE makes, with the memory picked for it. -/
def State.createdPart (t : State) (pk : Packet) : Part := { partFields pk {} with
  st := .opened, chunks := t.pickChunks (pkF pk 26 2), save := t.pickSave (pkF pk 18 1) (t.pickChunks (pkF pk 26 2)) }

/-- The device with a partition made, its counters and its record at 0, and no core yet. -/
def State.withPart (t : State) (p : Nat) (q : Part) : State :=
  let s := ((t.setPart p (fun _ => q)).clearSync p).claimCellar p
  { s with cel := { s.cel with acct := s.cel.acct.filter (fun e => e.1 / 16 != p) } }

/-- The device with a number of cores given to a partition. -/
def State.withCores (t : State) (p n : Nat) : State := ((t.ownable p).take n).foldl (fun s n => s.ownCore p n) t

theorem bodyPartitionCreate_ok (hchecks : partChecks fl.pk = none) (hfree : (t.partAt (pkF fl.pk 16 1)).st = .free)
    (hrefused : t.partRefused (pkF fl.pk 16 1) { partFields fl.pk {} with st := .opened } false = none) :
    bodyPartitionCreate t fl = ((t.withPart (pkF fl.pk 16 1) (t.createdPart fl.pk)).withCores (pkF fl.pk 16 1) (pkF fl.pk 17 1)).endPacket fl
      { status := stOk } := by
  simp only [bodyPartitionCreate, hchecks, hfree, hrefused, ne_eq, not_true_eq_false, if_false]
  rfl

theorem State.withPart_facts {p : Nat} {q : Part} (hq : q.st ≠ .free) : (t.withPart p q).partAt p = q ∧
    (∀ o, o < 8192 → (t.withPart p q).counter p o = 0) ∧ (∀ c, c < 16 → tget 0 (t.withPart p q).cel.acct (16 * p + c) = 0) ∧
    (t.withPart p q).core = t.core ∧ (∀ r, r ≠ p → (t.withPart p q).partAt r = t.partAt r) ∧ (t.withPart p q).mem = t.mem := by
  refine ⟨State.partAt_setPart_of_used (s := t) (g := fun _ => q) hq, fun o ho => ?_, fun c hc => ?_, rfl,
    fun r hr => t.partAt_setPart_other p r (fun _ => q) hr, rfl⟩
  · have hkey : (8192 * p + o) / 8192 = p := by omega
    exact (tget_filter_key 0 _ (fun k => k / 8192 != p) _).trans (if_neg (by simp [hkey]))
  · have hkey : (16 * p + c) / 16 = p := by omega
    exact (tget_filter_key 0 _ (fun k => k / 16 != p) _).trans (if_neg (by simp [hkey]))

/-- A core's owner changes only to the partition that it is given to. -/
theorem State.ownCore_owner (s : State) {p : Nat} (hp : 1 ≤ p) (m n : Nat) :
    ((s.ownCore p m).coreAt n).owner = p ∨ ((s.ownCore p m).coreAt n).owner = (s.coreAt n).owner := by
  by_cases hn : n = m
  · subst hn
    have hcore : (s.ownCore p n).coreAt n = _ := tget_tput_ne _ _ _ _ fun hdef => by
      have hzero := congrArg Core.owner hdef
      dsimp only at hzero
      omega
    exact Or.inl (congrArg Core.owner hcore)
  · exact Or.inr (congrArg Core.owner (s.coreAt_setCore_other m n _ hn))

theorem State.withCores_facts (s : State) {p : Nat} (hp : 1 ≤ p) (k : Nat) : (s.withCores p k).cel = s.cel ∧ (s.withCores p k).cp = s.cp ∧
    (s.withCores p k).mem = s.mem ∧
    ∀ n, ((s.withCores p k).coreAt n).owner = p ∨ ((s.withCores p k).coreAt n).owner = (s.coreAt n).owner := by
  refine ⟨foldl_same (·.cel) (fun _ _ => by rfl) _ s, foldl_same (·.cp) (fun _ _ => by rfl) _ s, foldl_same (·.mem) (fun _ _ => by rfl) _ s, ?_⟩
  refine List.foldlRecOn (motive := fun u : State => ∀ n, (u.coreAt n).owner = p ∨ (u.coreAt n).owner = (s.coreAt n).owner) _ _
    (fun _ => Or.inr rfl) fun u hu m _ n => ?_
  rcases u.ownCore_owner hp m n with h | h
  · exact Or.inl h
  · rw [h]
    exact hu n

/-! ### PARTITION_RESIZE and PARTITION_DESTROY (R172, R192, R319) -/

/-- The device with a partition's record changed by a resize. -/
def State.resized (t : State) (p : Nat) (q : Part) (chunks save : List Nat) : State :=
  (t.setPart p (fun _ => { q with chunks, save })).claimCellar p

theorem bodyPartitionResize_ok {p : Nat} (hp : p = pkF fl.pk 16 1) (hchecks : partChecks fl.pk = none)
    (hst : (t.partAt p).st = .opened ∨ (t.partAt p).st = .running) (hfields : resizeChecks fl.pk (t.partAt p) = none)
    (hrefused : t.partRefused p (partFields fl.pk (t.partAt p)) true = none) :
    ∃ chunks save, bodyPartitionResize t fl = ((((t.resized p (partFields fl.pk (t.partAt p)) chunks save).resizeCores p).belowMinUpdate p).setWait fl
      (fun x => { x with wait := .cores p })) := by
  subst hp
  have hstate : ¬((t.partAt (pkF fl.pk 16 1)).st = .free ∨ (t.partAt (pkF fl.pk 16 1)).st = .draining ∨
      (t.partAt (pkF fl.pk 16 1)).st = .resetting) := by
    rcases hst with h | h <;> rw [h] <;> decide
  simp only [bodyPartitionResize, hchecks, if_neg hstate, hfields, hrefused]
  exact ⟨_, _, rfl⟩

theorem bodyPartitionDestroy_ok {p : Nat} (hp : p = pkF fl.pk 16 1) (hlow : 1 ≤ p) (hhigh : p ≤ 8)
    (hst : (t.partAt p).st = .opened ∨ (t.partAt p).st = .running ∨ (t.partAt p).st = .draining) :
    bodyPartitionDestroy t fl = ((t.dropWins p).setPart p (fun q => { q with st := .draining, drainFrom := t.cp.nextId })).setWait fl
      (fun x => { x with wait := .partFree p }) := by
  subst hp
  have hstate : ¬((t.partAt (pkF fl.pk 16 1)).st = .free ∨ (t.partAt (pkF fl.pk 16 1)).st = .resetting) := by
    rcases hst with h | h | h <;> rw [h] <;> decide
  simp only [bodyPartitionDestroy, hlow, hhigh, and_self, not_true_eq_false, if_false, if_neg hstate]

/-- Settles O4: a created partition's record is written and its counters filtered out before cores are given to it alone; a resize writes its record before cores leave. -/
theorem partitionPacketsAct : Obligations.PartitionPacketsAct := by
  refine ⟨fun s pk p hp hrun hchecks hfree hrefused => ?create, fun s pk p hp =>
    ⟨fun hrun hchecks hst hfields hrefused => ?resize, fun hrun hlow hhigh hst => ?destroy⟩⟩
  case create =>
    subst hp
    obtain ⟨hlow, -⟩ := partChecks_range hchecks
    have hopen : ((s.fetched pk []).createdPart pk).st ≠ .free := (by decide : PartState.opened ≠ .free)
    obtain ⟨hpart, hsync, hacct, hcore, hother, hmem⟩ := State.withPart_facts (t := s.fetched pk []) (p := pkF pk 16 1) hopen
    generalize hv : (s.fetched pk []).withPart (pkF pk 16 1) ((s.fetched pk []).createdPart pk) = v at hpart hsync hacct hcore hother hmem
    obtain ⟨hcel, hcp, hmem', howner⟩ := v.withCores_facts hlow (pkF pk 17 1)
    refine ⟨v.withCores (pkF pk 16 1) (pkF pk 17 1), ?_, ?_, fun o ho => ?_, fun c hc => ?_, fun n => ?_, fun r hr => ?_, hmem'.trans hmem⟩
    · rw [← hv]
      exact (exec_packet_of_runs hrun).trans (congrArg goesOn (bodyPartitionCreate_ok hchecks hfree hrefused))
    · rw [State.partAt, hcel]
      exact hpart
    · rw [State.counter, hcp]
      exact hsync o ho
    · rw [hcel]
      exact hacct c hc
    · rw [← State.coreAt_congr (show v.core = s.core from hcore) n]
      exact howner n
    · rw [State.partAt, hcel]
      exact hother r hr
  case resize =>
    obtain ⟨chunks, save, hbody⟩ := bodyPartitionResize_ok (t := s.fetched pk []) (fl := s.entry pk) hp hchecks hst hfields hrefused
    have hused : ({ partFields pk (s.partAt p) with chunks, save } : Part).st ≠ .free := by
      rcases hst with h | h
      · exact fun hf => absurd (h.symm.trans hf) (by decide)
      · exact fun hf => absurd (h.symm.trans hf) (by decide)
    exact ⟨(s.fetched pk []).resized p (partFields pk (s.partAt p)) chunks save, chunks, save,
      (exec_packet_of_runs hrun).trans (congrArg goesOn hbody), State.partAt_setPart_of_used hused,
      fun q hq => State.partAt_setPart_other _ p q _ hq, rfl, rfl⟩
  case destroy => exact (exec_packet_of_runs hrun).trans (congrArg goesOn (bodyPartitionDestroy_ok hp hlow hhigh hst))

end Sys2Proof.Machine
end
